-- ==== Sys2Proof/Word.lean ====
section
/-! DEFINITION. The words of the machine: bytes, 32-bit lanes, 64-bit register words (R12, R14). -/
namespace Sys2Proof

/-- A byte of memory, a descriptor or a record. -/
abbrev Byte := BitVec 8

/-- A 32-bit lane value of the vector engine, an FP32 value, a marble count on the wire. -/
abbrev Word32 := BitVec 32

/-- A 64-bit word: a control-core register, a mailbox word, a summary register. -/
abbrev Word := BitVec 64

end Sys2Proof
end

