-- ==== Sys2Proof/Event.lean ====
section
/-! DEFINITION. The operand types of the commands: what the companion, the fabric, the pins and the physical world
bring to the block with a command. -/
namespace Sys2Proof

/-- Where a descriptor came from: a ring, or the launch queue of a control core's slot (R120). -/
inductive Origin
  | ring (n : Fin 256)
  | slot (r : Fin 4) (k : Fin 40)
deriving DecidableEq, Repr

/-- What a memory access meets physically: sectors (by DPA) and their symbols in error with the error's bits (R328); a DPA of an SRAM window
names a word there that is uncorrectable (17, STORE_UNCORR), and the address of a ring's pointers the hub's ring state (17, HUB_INTERNAL). -/
abbrev ReadUpset := List (Nat × List (Nat × Byte))

/-- What goes wrong physically in the unit that runs a command (R29, R417): nothing; the unit's own check fails (residue, duplicate
converter, internal checks); a parity error of its buffers and paths; the residue of Abacus's norm adder (R277); parity or credits of
core queue q fail (R114); a word of a store is uncorrectable; a region-fabric flit fails four retries; symbols of a DRAM
sector that the command reads are in error (sector address, symbols). -/
inductive Upset
  | none
  | check
  | parity
  | adder
  | coreQueue (q : Nat)
  | storeUncorr (dpa : Nat)
  | rgnFabric (r : Fin 4)
  | sector (dpa : Nat) (errs : List (Nat × Byte))
deriving DecidableEq, Repr

/-- A wrong sum in an array during a tile pass (R151): at a row and half, in the half-sum of a tile column, or in that of the checksum column
(none), off by `delta` units. -/
structure ArrErr where
  array : Fin 4
  row : Nat
  half : Fin 2
  col : Option Nat
  delta : Int
deriving DecidableEq, Repr

/-- The two directions of a mailbox channel: toward endpoint A or endpoint B (R444). -/
inductive Dir | toA | toB
deriving DecidableEq, Repr

/-- The endpoints of mailbox channels on the XK4 side, and the companion (R444). -/
inductive Endpoint
  | companion
  | nutcracker
  | mgmtCore
  | opticalEngine (e : Fin 4)
  | controlCore (r : Fin 4) (k : Fin 40)
deriving DecidableEq, Repr

/-- Why a received flit is discarded (R353). -/
inductive DiscardCause | fec | crc
deriving DecidableEq, Repr

/-- The settings that the members of a domain compare (R54). -/
structure Settings where
  members : Nat
  periodUs : Nat
  guardUs : Nat
  stretchLim : Nat
  strict : Bool
deriving DecidableEq, Repr

/-- What the ECC of the hub's buffers and crossbar finds on a flit that they carry: nothing, a single-bit error, another error (R358). -/
inductive FlitEcc | good | corrected | bad
deriving DecidableEq, Repr

/-- A fabric flit (R349) without its CRC: its end-to-end fields, its payload, its hop fields; of one that arrives, its reserved bits (0: all
zero) and what the hub's ECC finds on it. Its 256 bytes are `Machine.flitImage`. -/
structure Flit where
  typ : Nat
  vc : Nat
  dl : Nat
  dstNode : Nat
  dstPart : Nat
  srcPart : Nat
  srcNode : Nat
  epoch : Nat
  addr : Nat
  payload : List Byte
  seq : Nat
  ack : Nat
  credit : Nat
  cvc : Nat
  cdl : Nat
  nak : Bool := false
  rsv : Nat := 0
  ecc : FlitEcc := .good
deriving DecidableEq, Repr

/-- What an LMGMT flit brings (R355, R362; log entry 75): the peer's identity for the role check, with its port number, the lanes that trained
(bit i: lane i of the port) and, from a switch, whether it combines Tin-Can values and its reduction window (0: none); an echo request; or
the answer to one, with the round trip that this end measured and the peer's turnaround in ps. -/
inductive Lmgmt
  | check (node role peerPort : Nat) (isSwitch beat : Bool) (lanes : Nat) (tincan : Bool) (win : Nat)
  | echo
  | echoed (rttPs turnPs : Nat)
deriving DecidableEq, Repr

/-- A join symbol as it arrives (R54) on a port, or from another partition of the device, with the one-way delays to and from
its sender that the ports measured, in ns. -/
structure JoinMsg where
  port : Option (Fin 18)
  domain : Nat
  node : Nat
  part : Fin 4
  eligible : Bool
  testing : Bool
  start : Nat
  settings : Settings
  gatherNs : Nat
  spreadNs : Nat
deriving DecidableEq, Repr

/-- A closing or overrun token (R59, R63): the member, its lateness in ns, its cause. -/
structure Token where
  node : Nat
  part : Nat
  lateNs : Nat
  cause : Nat
deriving DecidableEq, Repr

/-- The origin that a fault token or a stall symbol names (R422). -/
structure FaultOrigin where
  node : Nat
  part : Nat
  code : Nat
deriving DecidableEq, Repr

/-- A boundary symbol (R56): the domain ID, the new beat, the countdown in ns, the slowest member of the closing beat with its stretch S,
and the stop beat that the master sends along (R75; 0: none). -/
structure BoundaryMsg where
  domain : Nat
  number : Nat
  countdownNs : Nat
  tok : Token
  stretchUs : Nat
  stop : Nat
deriving DecidableEq, Repr

/-- The master's announcement of the first beat (R54), with the number of members whose tokens pass through this device on
their way to the master, as the parent links of R362 leave it. -/
structure FirstBeatAnn where
  masterNode : Nat
  masterPart : Fin 4
  number : Nat
  subtree : Nat
deriving DecidableEq, Repr

/-- A die-to-die module (R26): between the hub and compute die d, of the bridge b that joins Cb and C((b+1) mod 4), or between the hub
and an optical engine. -/
inductive DieLink
  | hub (d : Fin 4) (i : Fin 12)
  | bridge (b : Fin 4) (i : Fin 16)
  | engine (e : Fin 4) (i : Fin 4)
deriving DecidableEq, Repr

/-- Where a check of the vector engine fails (R235): register, row and column of the element, and whether it is parity. -/
structure VecMiss where
  reg : Nat
  row : Nat
  col : Nat
  parity : Bool
deriving DecidableEq, Repr

/-- What the body of a factory part record says (R476): DEVICE_ID, the stepping, NGEN and the serial number; of each core, by 64 × region + core, the
minimum voltage in mV and the highest frequency in MHz; the lane remap of the die-to-die modules, by module number the lanes that replace
others; the twins and the mask of retired cores of each region; the energy weights by kind of event and the idle weights by rail (R461, R462).
The manual does not lay its body out. -/
structure PartRecord where
  deviceId : Nat
  stepping : Nat
  ngen : Nat
  serial : Nat
  vmin : List (Nat × Nat)
  fmax : List (Nat × Nat)
  remap : List (Nat × List (Nat × Nat))
  twins : List (Nat × Nat)
  retired : List Nat
  weights : List (Nat × Nat)
  idle : List Nat
deriving DecidableEq, Repr

/-- No part record: before start-up has taken one. -/
def PartRecord.none : PartRecord := ⟨0, 0, 0, 0, [], [], [], [], [], [], []⟩

/-- What the body of a known-answer bundle says (R307): the suite time in seconds that it declares, and the stored digests of its kernels'
outputs, in the order in which a suite runs them. -/
structure Bundle where
  seconds : Nat
  kernels : List Nat
deriving DecidableEq, Repr

/-- What a boot stage finds (R473): whether the hardware of its own work answers, what the body of the part record says, and what the body of
the bundle says. -/
structure StageEnd where
  ok : Bool
  part : PartRecord
  kak : Bundle
deriving DecidableEq, Repr

/-- What a start-up phase finds (R488 to R490): milliseconds since RESET_N rose; modules that failed persistently; lanes that the field
test repaired; stacks that failed training. -/
structure PhaseEnd where
  elapsedMs : Nat
  failed : List DieLink
  repaired : Nat
  badStacks : List (Fin 12)
deriving DecidableEq, Repr

/-- How the write of a state block ends (R471, R472): committed by the counter; whole, but power is lost before the counter is incremented;
cut short by the loss of power. -/
inductive BlockEnd | committed | uncounted | torn
deriving DecidableEq, Repr

/-- How a GlaetLink message comes (R397, R398): the flit that its header slot lies in, with that flit's SEQ, ACK and returned credits, the place
of the slot, the SIZE of the header, and whether a reserved CLASS, OP or field value shows in it. -/
structure GlkHead where
  seq : Nat
  ack : Nat
  ccls : Nat
  credits : Nat
  slot : Nat
  size : Nat
  rsv : Bool
deriving DecidableEq, Repr

end Sys2Proof
end

