-- ==== Sys2Proof/Syntax.lean ====
section
/-! DEFINITION. The commands of the block: one constructor per row of spec/opcode_table.json, in the table's order, with
the operands its rule names. What only the world outside the package can decide (a physical error, a measured time, what a
peer or the companion sends) is an operand (log entry 1). Operand types are in Event.lean. -/
namespace Sys2Proof

/-- The commands. -/
inductive Instr
  /-- RESET (R487): PWRGOOD falls or RESET_N goes low (a warm reset when PWRGOOD stays high), and every unit stops at once and the links drop. -/
  | reset (warm : Bool)
  /-- START_UP (R488): RESET_N rises and the start-up phases begin with phase 0. -/
  | startUp
  /-- BOOT_STAGE_END (R473): A Nutcracker boot stage ends, and SEC_BOOT.STAGE advances or start-up stops with STOPPED and REASON set. -/
  | bootStageEnd (x : StageEnd)
  /-- PHASE_END (R488): A start-up phase ends; the next phase begins, or READY is reached and each partition takes its first state. -/
  | phaseEnd (x : PhaseEnd)
  /-- SELF_CHECK (R473): The once-per-second self-check of the Nutcracker and the management core runs, and a failure raises SEC_FAULT. -/
  | selfCheck (ok : Bool)
  /-- STATE_BLOCK_WRITE (R471): A new state block is written, read back and committed by incrementing the replay-protected counter. -/
  | stateBlockWrite (how : BlockEnd)
  /-- IMAGE_INSTALL (R475): Running firmware writes an accepted firmware image into the boot flash's single image slot. -/
  | imageInstall
  /-- OP_SEC_TICK (R439): One operating second passes while the hub is powered, and the count advances. `fec` brings what the FEC of fabric
  lanes corrected in it, as lane, symbols and codewords (R363); `glkFec` the codewords that the FEC of GlaetLink corrected (R346). -/
  | opSecTick (fec : List (Fin 72 × Nat × Nat)) (glkFec : Nat)
  /-- OPSEC_STORE (R439): Every 60 s, management-core firmware stores the operating-second count to the boot flash. -/
  | opsecStore
  /-- RECORD_MIRROR (R440): Management-core firmware mirrors a complete Music Box record into the record area of the boot flash. -/
  | recordMirror (ok : Bool)
  /-- REG_WRITE (R17): A register write that has no row of its own is applied, staged, or discarded under R14 to R16. -/
  | regWrite (addr : Nat) (size : Nat) (value : Nat)
  /-- START (R102): HUB_PART_CTRL.CMD START moves a stopped partition to starting, and then tests suspect cores, rejoins dies, initialises Yo-Yo and joins the domain. -/
  | start (p : Fin 4) (bad : List (Fin 4))
  /-- CLEAR (R102): HUB_PART_CTRL.CMD CLEAR turns the rings of a faulted partition OFF, discards held work, resets FAULT and the pending-fault list, and stops the partition. -/
  | clear (p : Fin 4)
  /-- SAVE (R138): HUB_PART_CTX.CMD SAVE writes the partition's jar image. -/
  | save (p : Fin 4) (addr : Nat)
  /-- RESTORE (R138): HUB_PART_CTX.CMD RESTORE loads jar state from an image. -/
  | restore (p : Fin 4) (addr : Nat)
  /-- EMPTY (R138): HUB_PART_CTX.CMD EMPTY frees every jar and empties the stream table. -/
  | empty (p : Fin 4) (addr : Nat)
  /-- CONTEXT_DONE (R138): A context command finishes, BUSY falls and its effects appear, or ERR is set. -/
  | contextDone (p : Fin 4) (phys : ReadUpset)
  /-- DOORBELL (R83): A write to HUB_RING_DB advances TAIL, or is discarded with DB_ERR. -/
  | doorbell (n : Fin 256) (value : Nat)
  /-- DBELL (R407): A GlaetLink DBELL message is performed as a doorbell. -/
  | dbell (n : Fin 256) (value : Nat) (h : GlkHead)
  /-- COMPLETION_HEAD_WRITE (R99): A write to HUB_RING_CQDB frees completion entries, or sets CQ_ERR. -/
  | completionHeadWrite (n : Fin 256) (value : Nat)
  /-- RING_ENABLE (R80): A write to HUB_RING_CTRL.ENABLE enables, drains or turns a ring OFF at once or at the next boundary, or is refused. -/
  | ringEnable (n : Fin 256) (on : Bool)
  /-- HUB_RESYNC (R106): A write to HUB_RESYNC queues a register RESYNC request, or counts it in DROPPED. -/
  | hubResync (dest : Nat)
  /-- RESYNC_SAMPLE (R107): A queued RESYNC request is served: the summary block is latched at the sample instant and written with DONE last. -/
  | resyncSample
  /-- BEAT_STOP (R75): A write of BEAT_STOP.AT on the master sets the domain's last beat, or is discarded. -/
  | beatStop (p : Fin 4) (at_ : Nat)
  /-- SEAL_CANDIDATE (R322): A write that changes HUB_SEAL.CAND clears SEALED and starts judging the new candidate. -/
  | sealCandidate (p : Fin 4) (value : Nat)
  /-- EVR_CLEAR (R441): EVR_CTRL.CLEAR advances EPOCH, zeroes records, writes CLEARED and starts the flash erase. -/
  | evrClear
  /-- FLASH_ERASE_END (R441): The record-area erase ends and CLEAR reads 0. -/
  | flashEraseEnd
  /-- ERASE_SECTOR_TIMEOUT (R441): A sector erase exceeds 2 s, FLASH_ERR is set, and the erase goes on. -/
  | eraseSectorTimeout
  /-- OBJECT_PRESENT (R478): SEC_LOAD.GO presents a signed object for verification, or is refused with reason 13. -/
  | objectPresent
  /-- PRESENTATION_END (R466): Verification of a presented object ends, and the object is accepted or refused and its effect applied. -/
  | presentationEnd (part : PartRecord) (kak : Bundle)
  /-- ATTESTATION_REPORT (R482): SEC_ATT.GO with KIND 0 requests a signed attestation report. -/
  | attestationReport
  /-- CERTIFICATES (R482): SEC_ATT.GO with KIND 1 writes the two device certificates. -/
  | certificates
  /-- REPORT_SIGNING (R482): A waiting report begins signing once 60 s have passed since the previous report. -/
  | reportSigning
  /-- REPORT_COMPLETE (R483): The report area is complete with DONE written last, and GO clears. -/
  | reportComplete
  /-- TOKEN_PRESENT (R493): JIB_UNLOCK.GO presents a test token, which is checked and unlocks or is refused. -/
  | tokenPresent
  /-- LOCK (R494): JIB_UNLOCK.LOCK ends the unlock, discards an armed injection and stages zeros into JIB_CTRL and JIB_FAB. -/
  | lock
  /-- UNLOCK_EXPIRY (R494): Operating seconds reach EXPIRES and the unlock ends. -/
  | unlockExpiry
  /-- INJECTION_ARM (R497): JIB_INJ.ARM arms one injection, or is discarded. -/
  | injectionArm
  /-- MBX_HOLD_END (R497): The HOLD_US of a kind-7 injection ends, and the receiver removes words again. -/
  | mbxHoldEnd (c : Nat)
  /-- GLK_RETRAIN (R396): GLK_CTRL.RETRAIN starts a retrain of GlaetLink without dropping messages. -/
  | glkRetrain
  /-- GLK_RETRAIN_END (R396): A GlaetLink retrain ends; RETRAIN clears, or three failures take the link down. -/
  | glkRetrainEnd (ok : Bool)
  /-- FAB_PORT_CFG (R354): A write of FAB_PORT_CFG makes the port retrain from OFF, or is discarded. -/
  | fabPortCfg (p : Fin 18) (value : Nat)
  /-- MBX_TX (R445): A companion write to MBX_TX sends a word into the channel's queue, or overflows. -/
  | mbxTx (c : Nat) (word : Nat)
  /-- MBOX_WORD (R445): A GlaetLink MBOX message from the companion enters the queue of its channel, or overflows. -/
  | mboxWord (c : Nat) (word : Nat) (h : GlkHead)
  /-- MBOX_DELIVER (R445): A queued word toward the companion is sent as an MBOX message and leaves its queue. -/
  | mboxDeliver (c : Nat)
  /-- WORD_REMOVE (R447): An XK4-side endpoint removes a word from a queue; EMPTY may be set and the timer restarts. -/
  | wordRemove (c : Nat) (dir : Dir)
  /-- MBX_TIMEOUT (R447): A non-empty queue has had no removal for the sender's limit, and TIMEOUT is set. -/
  | mbxTimeout (c : Nat) (dir : Dir)
  /-- ENDPOINT_RESET (R448): A mailbox endpoint enters reset; queued words are discarded and TIMEOUT is set. -/
  | endpointReset (e : Endpoint)
  /-- ENDPOINT_READY (R448): A mailbox endpoint reports ready and leaves reset. -/
  | endpointReady (e : Endpoint)
  /-- GLK_RD (R407): A companion REQ RD of XK4 memory or registers is answered with DATA or ERR. -/
  | glkRd (tag : Nat) (addr : Nat) (size : Nat) (phys : ReadUpset) (h : GlkHead)
  /-- GLK_WR (R407): A companion REQ WR to XK4 memory or registers is performed and answered with WR_ACK or ERR. -/
  | glkWr (tag : Nat) (addr : Nat) (data : List Byte) (phys : ReadUpset) (h : GlkHead)
  /-- SNP_INV (R403): A companion snoop invalidates the link-cache line and is answered with INV_ACK. -/
  | snpInv (tag : Nat) (addr : Nat) (h : GlkHead)
  /-- GLK_DATA (R399): A DATA answer from the companion completes an XK4 read and may fill the link cache. -/
  | glkData (tag : Nat) (data : List Byte) (phys : ReadUpset) (h : GlkHead)
  /-- WR_ACK (R406): A WR_ACK from the companion completes an XK4 write and releases what waits on it. -/
  | wrAck (tag : Nat) (h : GlkHead)
  /-- GLK_ERR (R411): An ERR answer from the companion fails the access, and the partition raises GLK_REFUSED. -/
  | glkErr (tag : Nat) (reason : Nat) (h : GlkHead)
  /-- GLK_TIMEOUT (R411): A request to the companion gets no answer within TIMEOUT_US, and the access fails. -/
  | glkTimeout (tag : Nat)
  /-- CAPS (R395): A MGMT CAPS message is exchanged during training. -/
  | caps (data : List Byte) (h : GlkHead)
  /-- CREDIT_INIT (R395): A MGMT CREDIT_INIT message completes training, and the link becomes UP or DEGRADED or the attempt fails. -/
  | creditInit (lanes : Nat) (credits : List Nat) (h : GlkHead)
  /-- DOWN_NOTICE (R414): The companion sends DOWN_NOTICE and the link goes down. -/
  | downNotice (h : GlkHead)
  /-- ECHO (R399): A MGMT ECHO message is received and echoed. -/
  | echo (data : List Byte) (h : GlkHead)
  /-- GLK_TRAINING_TIMEOUT (R395): GlaetLink training does not end within 200 ms and starts again. -/
  | glkTrainingTimeout
  /-- GLK_FLIT_DISCARD (R396): A GlaetLink flit fails FEC or CRC and a NAK asks for a replay. -/
  | glkFlitDiscard (cause : DiscardCause)
  /-- GLK_NAK (R396): A GlaetLink NAK makes the sender replay, and eight in a row retrain the link. -/
  | glkNak (ack : Nat)
  /-- GLK_LANE_RECAL (R396): A GlaetLink lane falls due and leaves for recalibration. -/
  | glkLaneRecal (lane : Fin 16)
  /-- GLK_LANE_RECAL_END (R396): A GlaetLink lane recalibration ends; the lane rejoins, or leaves after two failures. -/
  | glkLaneRecalEnd (lane : Fin 16) (ok : Bool)
  /-- GLK_LANE_LOSS (R414): GlaetLink lanes lose lock, and the link degrades or goes down. -/
  | glkLaneLoss (lanes : Nat)
  /-- PORT_TRAIN_TIMEOUT (R359): A fabric port has not reached UP or DEGRADED within 200 ms and starts again. -/
  | portTrainTimeout (p : Fin 18)
  /-- LMGMT (R355): An LMGMT flit carries the role check or delay measurement, and the port becomes UP, DEGRADED or MISWIRED. -/
  | lmgmt (p : Fin 18) (m : Lmgmt)
  /-- DATA_FLIT (R132): A DATA flit lands data of a stream, credits held drops, is forwarded in transit, or is refused with a REPLY. -/
  | dataFlit (p : Fin 18) (f : Flit)
  /-- DROP_FLIT (R132): A remote drop arrives and is credited into its jar or held for its data. -/
  | dropFlit (p : Fin 18) (f : Flit)
  /-- REPLY_FLIT (R349): A REPLY flit reports a refusal, and the source raises REMOTE_REFUSED or NO_ROUTE. -/
  | replyFlit (p : Fin 18) (f : Flit)
  /-- NULL_FLIT (R349): A NULL flit carries an ACK and credits. -/
  | nullFlit (p : Fin 18) (f : Flit)
  /-- TINCAN_FLIT (R387): A TINCAN partial or result flit arrives at a Tin-Can engine. `waitNs` is the collective
  wait that it ends (R391). -/
  | tincanFlit (p : Fin 18) (f : Flit) (waitNs : Nat)
  /-- COLL_READY (R382): A COLL READY flit announces an extent for a phase. `waitNs` is the collective
  wait that it ends (R391). -/
  | collReady (p : Fin 18) (f : Flit) (waitNs : Nat)
  /-- COLL_DATA (R382): A COLL DATA flit lands collective data in its announced extent, or is refused. `waitNs` is the collective
  wait that it ends (R391). -/
  | collData (p : Fin 18) (f : Flit) (waitNs : Nat)
  /-- COLL_LANDED (R382): A COLL LANDED flit reports bytes landed at a receiver. `waitNs` is the collective
  wait that it ends (R391). -/
  | collLanded (p : Fin 18) (f : Flit) (waitNs : Nat)
  /-- FLIT_DISCARD (R353): A fabric flit fails FEC or CRC and is discarded, and a NAK asks for a replay. -/
  | flitDiscard (p : Fin 18) (c : DiscardCause)
  /-- NAK (R353): A fabric NAK makes the sender replay, and eight in a row retrain the port. -/
  | nak (p : Fin 18) (ack : Nat) (ecc : FlitEcc)
  /-- PORT_RETRAIN_END (R353): A port retrain ends; replay resumes, or the port goes DOWN after three failures. -/
  | portRetrainEnd (p : Fin 18) (ok : Bool)
  /-- LANE_LOSS (R360): A fabric lane loses lock and leaves the port, which degrades or goes DOWN; as it does when it fails to carry beat
  blocks (R361). -/
  | laneLoss (p : Fin 18) (lanes : Nat) (beatLost : Bool)
  /-- LANE_RECAL_DUE (R363): A fabric lane falls due for recalibration, and the scheduling end books it and sends an offer. -/
  | laneRecalDue (p : Fin 18)
  /-- RECAL_OFFER (R364): A peer receives a recalibration offer and books the same beat when in the same domain. -/
  | recalOffer (p : Fin 18) (domain : Nat) (beat : Nat) (lane : Fin 4)
  /-- LANE_RECAL_END (R365): A lane recalibration ends; the lane rejoins, is retried, or leaves. -/
  | laneRecalEnd (p : Fin 18) (ok : Bool)
  /-- FIREWALL_VIOLATION (R366): A guest-firewall violation is dropped and counted, and the 16th isolates the engine. -/
  | firewallViolation (e : Fin 4) (addr : Nat)
  /-- ENGINE_FAIL (R367): An optical engine shuts its lasers or fails, and its ports degrade or go DOWN. -/
  | engineFail (e : Fin 4)
  /-- ENGINE_READY (R367): An optical engine reports itself ready again. -/
  | engineReady (e : Fin 4) (tempC : Nat)
  /-- JOIN (R54): A join symbol arrives, is passed on or counted, and formation may succeed. -/
  | join (m : JoinMsg)
  /-- WITHDRAW (R55): A withdraw symbol arrives, and formation fails with BEAT_FORM_COUNT. -/
  | withdraw (domain : Nat) (node : Nat) (part : Fin 4)
  /-- FORMATION_TIMEOUT (R55): Fewer members than expected joined within 1 s of non-testing time, and formation fails. -/
  | formationTimeout (p : Fin 4)
  /-- FIRST_BEAT (R54): The announced first beat begins, and the partition becomes running. -/
  | firstBeat (p : Fin 4) (ann : FirstBeatAnn)
  /-- BEAT_IN_EDGE (R57): A rising edge on BEAT_IN gives the master its nominal boundary. -/
  | beatInEdge (p : Fin 4)
  /-- BEAT_IN_MISS (R57): An edge on BEAT_IN is missing or late, and the master falls back to its timer. -/
  | beatInMiss (p : Fin 4)
  /-- CLOSE_DEADLINE (R58): The close deadline D is reached; in strict mode a member that has not closed sends an overrun token. -/
  | closeDeadline (p : Fin 4) (stalls : List Nat)
  /-- MEMBER_CLOSE (R58): A member closes its beat and sends a closing token with its lateness and cause. -/
  | memberClose (p : Fin 4) (lateNs : Nat) (stalls : List Nat)
  /-- CLOSING_TOKEN (R59): A closing token arrives and is merged, and the master then sends the boundary symbol. `atNs` is the time since D. -/
  | closingToken (p : Fin 4) (tok : Token) (members : Nat) (atNs : Nat)
  /-- OVERRUN_TOKEN (R63): An overrun token is forwarded, and at the master it makes the master send an overrun symbol. -/
  | overrunToken (p : Fin 4) (tok : Token)
  /-- FAULT_TOKEN (R65): A fault token arrives, and the master sends a stall symbol at once. -/
  | faultToken (p : Fin 4) (org : FaultOrigin)
  /-- STRETCH_LIMIT (R62): The master lacks tokens at D plus the stretch limit and sends a stall symbol. -/
  | stretchLimit (p : Fin 4)
  /-- STALL_SYMBOL (R62): A stall symbol arrives, and the member raises BEAT_STALL with the origin. -/
  | stallSymbol (p : Fin 4) (org : FaultOrigin)
  /-- OVERRUN_SYMBOL (R63): An overrun symbol arrives, and the member raises BEAT_OVERRUN. -/
  | overrunSymbol (p : Fin 4) (tok : Token)
  /-- SYMBOL_TIMEOUT (R64): No boundary, stall or overrun symbol arrives within the stretch limit plus the guard, and the member raises BEAT_STALL. -/
  | symbolTimeout (p : Fin 4)
  /-- BOUNDARY_SYMBOL (R56): A boundary symbol arrives; its countdown starts, BEAT_LATE and BEAT_STATS update and it is forwarded. -/
  | boundarySymbol (p : Fin 4) (b : BoundaryMsg)
  /-- BEAT_BOUNDARY (R70): The boundary countdown expires: staged values take effect, booked actions begin, held descriptors are released and counters latch. -/
  | beatBoundary (p : Fin 4) (counts : List (Nat × Nat))
  /-- HANDOVER_END (R312): A handover ends; the slot map changes, or CAROUSEL_FAIL leaves the slot with the outgoing core. -/
  | handoverEnd (r : Fin 4) (ok : Bool)
  /-- ROTATION_DUE (R311): SINCE_S reaches the interval and a Carousel rotation is booked. -/
  | rotationDue (r : Fin 4)
  /-- SUITE_END (R309): A known-answer suite ends on a core; it passes and clears suspicion, or fails with KAK_FAIL, a voltage step or retirement. -/
  | suiteEnd (r : Fin 4) (core : Nat) (outs : List (List Byte))
  /-- DUP_COMPARE (R301): A twin finishes replaying a sampled unit and compares digests, raising DUP_MISMATCH on a difference. -/
  | dupCompare (r : Fin 4) (twin : Nat) (kind : Nat) (wrong : List (Nat × Byte))
  /-- DESC_FETCH (R90): The hub fetches and validates a descriptor from a ring, holding, pausing or rejecting it. -/
  | descFetch (n : Fin 256) (phys : ReadUpset)
  /-- DESC_COMPLETE (R93): A descriptor completes: its results become visible, then it drops marbles, writes its entry and sends its interrupt. -/
  | descComplete (o : Origin) (id : Nat)
  /-- MATRIX (R190): A matrix descriptor starts; its groups are checked, opened or continued, and its tiles stream. -/
  | matrix (o : Origin) (u : Upset)
  /-- TILE_PASS_END (R152): A tile pass ends and the checksum comparisons complete, raising ARRAY_CHECK on a mismatch. -/
  | tilePassEnd (r : Fin 4) (k : Fin 40) (errs : List ArrErr) (acc : Option (Nat × Nat))
  /-- VECTOR (R225): A vector descriptor starts its program for ITERS iterations. -/
  | vector (o : Origin) (u : Upset)
  /-- LAYOUT (R238): A layout descriptor starts, is checked against the extent list, and copies. -/
  | layout (o : Origin) (u : Upset)
  /-- NORM (R265): An update NORM adds gradient squares into the norm record. -/
  | norm (o : Origin) (u : Upset)
  /-- FINALISE (R266): An update FINALISE writes the norm payload. -/
  | finalise (o : Origin) (u : Upset)
  /-- APPLY (R269): An update APPLY applies the rule, writes parameters and merges the fingerprint. -/
  | apply (o : Origin) (u : Upset)
  /-- STEP_END (R272): An update STEP_END updates the loss scale, stages the step state and advances the step counter. -/
  | stepEnd (o : Origin) (u : Upset)
  /-- STEP_STATE_READY (R260): The schedule unit has computed the step state after START, and waiting Abacus descriptors proceed. -/
  | stepStateReady (p : Fin 4)
  /-- ALL_REDUCE (R378): A collective ALL_REDUCE starts. -/
  | allReduce (o : Origin) (phys : ReadUpset)
  /-- REDUCE_SCATTER (R378): A collective REDUCE_SCATTER starts. -/
  | reduceScatter (o : Origin) (phys : ReadUpset)
  /-- ALL_GATHER (R378): A collective ALL_GATHER starts. -/
  | allGather (o : Origin) (phys : ReadUpset)
  /-- BROADCAST (R378): A collective BROADCAST starts. -/
  | broadcast (o : Origin) (phys : ReadUpset)
  /-- ALL_TO_ALL (R378): A collective ALL_TO_ALL starts. -/
  | allToAll (o : Origin) (phys : ReadUpset)
  /-- BARRIER (R388): A collective BARRIER starts on the Tin-Can engine. -/
  | barrier (o : Origin)
  /-- TINCAN (R388): A collective TINCAN reduces a 64-byte value word by word. -/
  | tincan (o : Origin) (phys : ReadUpset)
  /-- FP_EXCHANGE (R390): A fingerprint exchange compares replica keys, and identifies outliers on disagreement. -/
  | fpExchange (o : Origin) (phys : ReadUpset)
  /-- COPY (R342): A Jigsaw COPY copies bytes locally or to a remote partition. -/
  | copy (o : Origin) (u : Upset) (bad : Option (Nat × Nat))
  /-- ENCODE (R342): A Jigsaw ENCODE writes parity shards. -/
  | encode (o : Origin) (u : Upset) (bad : Option (Nat × Nat))
  /-- DECODE (R342): A Jigsaw DECODE rebuilds erased shards. -/
  | decode (o : Origin) (u : Upset) (bad : Option (Nat × Nat))
  /-- VERIFY (R342): A Jigsaw VERIFY checks every codeword of the shards. -/
  | verify (o : Origin) (u : Upset) (bad : Option (Nat × Nat))
  /-- STASH (R283): A Yo-Yo STASH places a tensor as LOCAL, SPILL or NOTKEPT, or fails. -/
  | stash (o : Origin) (u : Upset)
  /-- RECALL (R285): A Yo-Yo RECALL writes a kept tensor back. -/
  | recallOp (o : Origin) (u : Upset)
  /-- RELEASE (R285): A Yo-Yo RELEASE returns a handle to EMPTY. -/
  | release (o : Origin) (u : Upset)
  /-- GROUP_ROWS (R288): GROUP_ROWS sorts batch rows into variant order and writes the segment table. -/
  | groupRows (o : Origin) (u : Upset)
  /-- SNAPSHOT (R293): A snapshot descriptor completes at its start after the holds are placed. -/
  | snapshot (o : Origin)
  /-- CHUNK_LEFT (R294): A held snapshot chunk has been read into the engine and is released. -/
  | chunkLeft (p : Fin 4) (phys : ReadUpset)
  /-- SNAPSHOT_FINISH (R295): A snapshot finishes, writes its status record, drops its note marbles and releases the engine. -/
  | snapshotFinish (p : Fin 4)
  /-- ALLOC (R129): A jar ALLOC allocates the lowest free run of jars, or reports the longest free run. -/
  | alloc (o : Origin)
  /-- FREE (R129): A jar FREE releases a run of jars. -/
  | free (o : Origin)
  /-- DROP (R123): A jar DROP adds marbles to a jar and serves waiting takes. -/
  | drop (o : Origin)
  /-- TAKE_NOW (R124): A jar TAKE_NOW takes marbles only if it can succeed at once, and otherwise raises JAR_MISUSE. -/
  | takeNow (o : Origin)
  /-- PEEK (R129): A jar PEEK returns the count. -/
  | peek (o : Origin)
  /-- RDROP (R130): A jar RDROP sends a remote drop. -/
  | rdrop (o : Origin)
  /-- FENCE (R88): A fence completes when the earlier descriptors in its scope have completed. -/
  | fence (o : Origin)
  /-- PROGRAM_LAUNCH (R121): A program launch starts the control core at ENTRY with its arguments. -/
  | programLaunch (o : Origin)
  /-- RESYNC (R106): A ring RESYNC descriptor requests a device summary block. -/
  | resync (o : Origin)
  /-- JDROP (R119): Control-core JDROP drops marbles into a jar. -/
  | jdrop (r : Fin 4) (k : Fin 40)
  /-- JTAKE (R119): Control-core JTAKE takes marbles, waiting as long as needed. -/
  | jtake (r : Fin 4) (k : Fin 40)
  /-- JTRY (R119): Control-core JTRY takes marbles only if it can succeed at once. -/
  | jtry (r : Fin 4) (k : Fin 40)
  /-- JPEEK (R119): Control-core JPEEK reads a jar count. -/
  | jpeek (r : Fin 4) (k : Fin 40)
  /-- JRDROP (R119): Control-core JRDROP sends a remote drop. -/
  | jrdrop (r : Fin 4) (k : Fin 40)
  /-- LAUNCH (R120): Control-core LAUNCH copies a descriptor into CQ, waiting while CQ is full. -/
  | launch (r : Fin 4) (k : Fin 40) (parityBad : Bool)
  /-- BWAIT (R119): Control-core BWAIT waits until a beat number is reached. -/
  | bwait (r : Fin 4) (k : Fin 40)
  /-- SUMRD (R119): Control-core SUMRD waits for a fresh summary register, reads it and marks it stale. -/
  | sumrd (r : Fin 4) (k : Fin 40)
  /-- ECALL (R118): ECALL ends the program, stores EXIT, and makes the control core idle. -/
  | ecall (r : Fin 4) (k : Fin 40)
  /-- CC_TRAP (R118): An exception, EBREAK or illegal instruction halts the control core with CC_TRAP. -/
  | ccTrap (r : Fin 4) (k : Fin 40)
  /-- BASE_INSTRUCTION (R117): The control core executes an ordinary RV64IMAC instruction. -/
  | baseInstruction (r : Fin 4) (k : Fin 40)
  /-- MBXTX (R449): A control-core write of CSR MBXTX sends a mailbox word. -/
  | mbxtx (r : Fin 4) (k : Fin 40)
  /-- MBXRX (R449): A control-core read of CSR MBXRX removes and returns the oldest word. -/
  | mbxrx (r : Fin 4) (k : Fin 40)
  /-- MBXST (R449): A control-core read of CSR MBXST returns the channel status. -/
  | mbxst (r : Fin 4) (k : Fin 40)
  /-- MBXST_CLEAR (R449): A control-core write of CSR MBXST clears flags. -/
  | mbxstClear (r : Fin 4) (k : Fin 40)
  /-- ADD (R217): Vector ADD. -/
  | add (r : Fin 4) (k : Fin 40) (chk : Option VecMiss)
  /-- SUB (R217): Vector SUB. -/
  | sub (r : Fin 4) (k : Fin 40) (chk : Option VecMiss)
  /-- MUL (R217): Vector MUL. -/
  | mul (r : Fin 4) (k : Fin 40) (chk : Option VecMiss)
  /-- FMA (R217): Vector FMA, rounded once. -/
  | fma (r : Fin 4) (k : Fin 40) (chk : Option VecMiss)
  /-- MAX (R217): Vector MAX. -/
  | max (r : Fin 4) (k : Fin 40) (chk : Option VecMiss)
  /-- MIN (R217): Vector MIN. -/
  | min (r : Fin 4) (k : Fin 40) (chk : Option VecMiss)
  /-- ABS (R217): Vector ABS. -/
  | abs (r : Fin 4) (k : Fin 40) (chk : Option VecMiss)
  /-- NEG (R217): Vector NEG. -/
  | neg (r : Fin 4) (k : Fin 40) (chk : Option VecMiss)
  /-- DIV (R217): Vector DIV. -/
  | div (r : Fin 4) (k : Fin 40) (chk : Option VecMiss)
  /-- SQRT (R217): Vector SQRT. -/
  | sqrt (r : Fin 4) (k : Fin 40) (chk : Option VecMiss)
  /-- RSQRT (R218): Vector RSQRT. -/
  | rsqrt (r : Fin 4) (k : Fin 40) (chk : Option VecMiss)
  /-- RECIP (R217): Vector RECIP. -/
  | recip (r : Fin 4) (k : Fin 40) (chk : Option VecMiss)
  /-- EXP (R218): Vector EXP. -/
  | exp (r : Fin 4) (k : Fin 40) (chk : Option VecMiss)
  /-- LOG (R218): Vector LOG. -/
  | log (r : Fin 4) (k : Fin 40) (chk : Option VecMiss)
  /-- TANH (R218): Vector TANH. -/
  | tanh (r : Fin 4) (k : Fin 40) (chk : Option VecMiss)
  /-- SIGM (R218): Vector SIGM. -/
  | sigm (r : Fin 4) (k : Fin 40) (chk : Option VecMiss)
  /-- GELU (R218): Vector GELU. -/
  | gelu (r : Fin 4) (k : Fin 40) (chk : Option VecMiss)
  /-- SILU (R218): Vector SILU. -/
  | silu (r : Fin 4) (k : Fin 40) (chk : Option VecMiss)
  /-- CMPEQ (R217): Vector CMPEQ. -/
  | cmpeq (r : Fin 4) (k : Fin 40) (chk : Option VecMiss)
  /-- CMPLT (R217): Vector CMPLT. -/
  | cmplt (r : Fin 4) (k : Fin 40) (chk : Option VecMiss)
  /-- CMPLE (R217): Vector CMPLE. -/
  | cmple (r : Fin 4) (k : Fin 40) (chk : Option VecMiss)
  /-- SEL (R217): Vector SEL. -/
  | sel (r : Fin 4) (k : Fin 40) (chk : Option VecMiss)
  /-- IADD (R217): Vector IADD. -/
  | iadd (r : Fin 4) (k : Fin 40) (chk : Option VecMiss)
  /-- IAND (R217): Vector IAND. -/
  | iand (r : Fin 4) (k : Fin 40) (chk : Option VecMiss)
  /-- IOR (R217): Vector IOR. -/
  | ior (r : Fin 4) (k : Fin 40) (chk : Option VecMiss)
  /-- IXOR (R217): Vector IXOR. -/
  | ixor (r : Fin 4) (k : Fin 40) (chk : Option VecMiss)
  /-- CVTIF (R217): Vector CVTIF. -/
  | cvtif (r : Fin 4) (k : Fin 40) (chk : Option VecMiss)
  /-- CVTFI (R217): Vector CVTFI. -/
  | cvtfi (r : Fin 4) (k : Fin 40) (chk : Option VecMiss)
  /-- MOV (R217): Vector MOV. -/
  | mov (r : Fin 4) (k : Fin 40) (chk : Option VecMiss)
  /-- BCAST (R217): Vector BCAST. -/
  | bcast (r : Fin 4) (k : Fin 40) (chk : Option VecMiss)
  /-- TRANS (R217): Vector TRANS. -/
  | trans (r : Fin 4) (k : Fin 40) (chk : Option VecMiss)
  /-- IOTA (R217): Vector IOTA. -/
  | iota (r : Fin 4) (k : Fin 40) (chk : Option VecMiss)
  /-- RSUM (R219): Vector RSUM in the fixed tree, with an optional post. -/
  | rsum (r : Fin 4) (k : Fin 40) (chk : Option VecMiss)
  /-- RMAX (R219): Vector RMAX. -/
  | rmax (r : Fin 4) (k : Fin 40) (chk : Option VecMiss)
  /-- RMIN (R219): Vector RMIN. -/
  | rmin (r : Fin 4) (k : Fin 40) (chk : Option VecMiss)
  /-- RAMAX (R220): Vector RAMAX. -/
  | ramax (r : Fin 4) (k : Fin 40) (chk : Option VecMiss)
  /-- RNF (R217): Vector RNF. -/
  | rnf (r : Fin 4) (k : Fin 40) (chk : Option VecMiss)
  /-- POST (R222): Vector POST posts element 0 into a summary register, waiting while it is fresh. -/
  | post (r : Fin 4) (k : Fin 40) (chk : Option VecMiss)
  /-- LD (R228): Vector LD loads and widens elements. -/
  | ld (r : Fin 4) (k : Fin 40) (chk : Option VecMiss)
  /-- ST (R228): Vector ST narrows and stores elements. -/
  | st (r : Fin 4) (k : Fin 40) (chk : Option VecMiss)
  /-- LDH (R230): Vector LDH reads a health record. -/
  | ldh (r : Fin 4) (k : Fin 40) (chk : Option VecMiss)
  /-- SCRUB_READ (R332): A scrubber reads a sector, correcting or reporting it. -/
  | scrubRead (m : Fin 12) (errs : List (Nat × Byte))
  /-- RECAL_DUE (R336): A stack recalibration pass falls due and is booked, or runs at once. -/
  | recalDue (m : Fin 12)
  /-- VISIT_START (R335): A recalibration visit takes a pseudo-channel out of service. -/
  | visitStart (m : Fin 12)
  /-- VISIT_END (R335): A visit ends: the pseudo-channel is retrained, spared, retried, or MEM_TRAIN is raised. -/
  | visitEnd (m : Fin 12) (ok : Bool) (spare : Bool)
  /-- ISOLATE_DIE (R426): A compute die resets, loses clock or heartbeat, and the hub gates its modules. -/
  | isolateDie (d : Fin 4)
  /-- D2D_RETRY (R429): A die-to-die flit fails its CRC and is replayed. -/
  | d2dRetry (m : DieLink) (inRow : Nat) (inSecond : Nat)
  /-- MODULE_RETRAIN_END (R430): A die-to-die module retrain ends; on failure the module has failed persistently. -/
  | moduleRetrainEnd (m : DieLink) (ok : Bool)
  /-- RAIL_POLL (R451): The 50 µs rail readings are taken, misses are counted and energy is attributed. -/
  | railPoll (reads : List (Option (Nat × Nat))) (act : List (List (Nat × List (Nat × Nat))))
  /-- SENSOR_READ (R458): The junction sensors are read, which may start a thermal emergency or adjust VDD_HUB. -/
  | sensorRead (dies : List (Nat × Nat)) (hub : Nat)
  /-- HBM_TEMP_READ (R458): The stack temperatures are read every 1 ms. -/
  | hbmTempRead (temps : List Nat)
  /-- DROOP (R457): A droop detector stretches the region's clock. -/
  | droop (r : Fin 4) (cycles : Nat)
  /-- THERMAL_TRIP (R460): The comparator chain trips, THERMTRIP_N goes low and THERM_TRIP is raised. -/
  | thermalTrip
  /-- BYPASS (R491): TAP BYPASS instruction. -/
  | bypass
  /-- IDCODE (R491): TAP IDCODE instruction. -/
  | idcode
  /-- SAMPLE_PRELOAD (R491): TAP SAMPLE/PRELOAD instruction. -/
  | samplePreload (pins : List Bool) (load : List Bool)
  /-- EXTEST (R491): TAP EXTEST instruction, in effect only while RESET_N is low. -/
  | extest (pins : List Bool) (load : List Bool)
  /-- CLAMP (R491): TAP CLAMP instruction, in effect only while RESET_N is low. -/
  | clamp
  /-- HIGHZ (R491): TAP HIGHZ instruction, in effect only while RESET_N is low. -/
  | highz
  /-- EXTEST_PULSE (R491): TAP EXTEST_PULSE instruction on the GlaetLink lanes and reference-clock inputs. -/
  | extestPulse (pins : List Bool) (load : List Bool)
  /-- EXTEST_TRAIN (R491): TAP EXTEST_TRAIN instruction on the GlaetLink lanes and reference-clock inputs. -/
  | extestTrain (pins : List Bool) (load : List Bool)
  /-- DROP_CREDIT_REPORT (R133): The receiver's report that a remote drop has been credited arrives at the sending device, letting the sending descriptor, snapshot or remote COPY complete. -/
  | dropCreditReport (q : Fin 4) (node : Nat) (part : Nat) (epoch : Nat)
  /-- ENDPOINT_WORD_SEND (R445): The Nutcracker, the management core or an optical engine sends a mailbox word, which the hub stamps and admits to the channel's queue or discards on overflow. -/
  | endpointWordSend (e : Endpoint) (c : Nat) (word : Nat)
  /-- GLK_CREDIT_RETURN (R401): A GlaetLink flit whose slots are all empty arrives carrying only ACK and returned credits, freeing replay entries and releasing messages such as IRQs that wait for credit. -/
  | glkCreditReturn (ack : Nat) (cls : Nat) (n : Nat)
  /-- TAP_RESET (R491): TRST_N is asserted and the IEEE 1149.1 test access port returns to its reset state with BYPASS or IDCODE selected. -/
  | tapReset
deriving DecidableEq, Repr

end Sys2Proof
end

