-- ==== Sys2Proof/Decode.lean ====
section
/-! DEFINITION. The table's words. The opcode table gives no row any bits: its commands are events, not words of an
instruction stream, so no word spells one. -/
namespace Sys2Proof

/-- The command that a word spells by the table's bits: none, since no row gives bits. -/
def decodeTableWord (_nbits _w : Nat) : Option Instr := none

end Sys2Proof
end

