-- ==== Sys2Proof/Machine/Bits.lean ====
section
/-! DEFINITION. Bit fields of numbers, little-endian byte strings and signed readings (R12). -/
namespace Sys2Proof.Machine

/-- Bits [lo + w - 1 : lo] of `n` (R12). -/
def bits (n lo w : Nat) : Nat := n / 2 ^ lo % 2 ^ w

/-- Bit `i` of `n`. -/
def bit (n i : Nat) : Bool := n / 2 ^ i % 2 == 1

/-- `n` with bits [lo + w - 1 : lo] replaced by `v`. -/
def setBits (n lo w v : Nat) : Nat := n - bits n lo w * 2 ^ lo + v % 2 ^ w * 2 ^ lo

/-- A Bool as a bit. -/
def b2n (b : Bool) : Nat := if b then 1 else 0

/-- The little-endian number of a byte string: byte 0 holds bits [7:0] (R12). -/
def leNat : List Byte → Nat
  | [] => 0
  | b :: t => b.toNat + 256 * leNat t

/-- The `k` low bytes of `n`, lowest first (R12). -/
def natLe : Nat → Nat → List Byte
  | 0, _ => []
  | k + 1, n => BitVec.ofNat 8 n :: natLe k (n / 256)

/-- The two's complement reading of a `w`-bit number. -/
def sext (w n : Nat) : Int := if bit n (w - 1) then Int.ofNat (n % 2 ^ w) - Int.ofNat (2 ^ w) else Int.ofNat (n % 2 ^ w)

/-- The `w`-bit two's complement pattern of an integer. -/
def toTwos (w : Nat) (i : Int) : Nat := (i % (2 ^ w : Nat)).toNat

/-- `n + d`, holding at the greatest `w`-bit value: the statistics counters of R433. -/
def satAdd (w n d : Nat) : Nat := min (n + d) (2 ^ w - 1)

/-- Half up: the integer quotient rounded up. -/
def ceilDiv (a b : Nat) : Nat := (a + b - 1) / b

/-- Base-2 logarithm, by fuel: the place of the highest set bit of a number below 2^fuel. -/
def log2F : Nat → Nat → Nat
  | 0, _ => 0
  | f + 1, n => if n < 2 then 0 else 1 + log2F f (n / 2)

/-- Is `n` a power of two below 2^64? -/
def isPow2 (n : Nat) : Bool := n == 2 ^ log2F 64 n

/-- Bitwise operations of numbers up to 64 bits wide. -/
def xorN (a b : Nat) : Nat := Nat.xor a b

end Sys2Proof.Machine
end

