-- ==== Sys2Proof/Machine/GF.lean ====
section
/-! DEFINITION. Arithmetic of GF(256) on the polynomial 0x11D (R327), the Reed–Solomon codes of the memory sectors (R327,
R328) and of Jigsaw (R339), CRC-32 (R350). -/
namespace Sys2Proof.Machine

/-- Multiplication by x modulo x^8 + x^4 + x^3 + x^2 + 1 (R327). -/
def gfDouble (a : Nat) : Nat := if 2 * a ≥ 256 then xorN (2 * a % 512) 0x11D else 2 * a

/-- The product of two field elements, over the `k` low bits of the second. -/
def gfMulF : Nat → Nat → Nat → Nat
  | 0, _, _ => 0
  | k + 1, a, b => xorN (if b % 2 = 1 then a else 0) (gfMulF k (gfDouble a) (b / 2))

/-- The product of two elements of GF(256). -/
def gfMul (a b : Nat) : Nat := gfMulF 8 a b

/-- The power a^n. -/
def gfPowN (a : Nat) : Nat → Nat
  | 0 => 1
  | n + 1 => gfMul a (gfPowN a n)

/-- α^n with α = 0x02 (R327). -/
def gfAlpha (n : Nat) : Nat := gfPowN 2 (n % 255)

/-- The inverse of a non-zero element: a^254. -/
def gfInv (a : Nat) : Nat := gfPowN a 254

/-- The quotient of two elements, the second not zero. -/
def gfDiv (a b : Nat) : Nat := gfMul a (gfInv b)

/-- The value of a polynomial, highest coefficient first, at `x`. -/
def gfEval (cs : List Nat) (x : Nat) : Nat := cs.foldl (fun acc c => xorN (gfMul acc x) c) 0

/-! ## The sector code -/

/-- The syndrome S_j = e(α^j) of an error pattern over the 68 symbols of a sector: symbol i is the coefficient of
x^(67 − i) (R327). -/
def sectorSyndrome (j : Nat) (err : List (Nat × Byte)) : Nat :=
  err.foldl (fun acc e => xorN acc (gfMul e.2.toNat (gfAlpha (j * (67 - e.1))))) 0

/-- What the decoder of R328 does with an error pattern. -/
inductive SectorRead
  | clean
  | corrected (sym : Nat) (val : Byte)
  | uncorrectable
deriving DecidableEq, Repr

/-- The decoder of R328: all four syndromes zero, or consistent with one symbol in error (S1/S0 = S2/S1 = S3/S2 = α^(67 − i)
for a symbol i of the sector), or anything else. -/
def sectorDecode (err : List (Nat × Byte)) : SectorRead :=
  let s0 := sectorSyndrome 0 err
  let s1 := sectorSyndrome 1 err
  let s2 := sectorSyndrome 2 err
  let s3 := sectorSyndrome 3 err
  if s0 = 0 ∧ s1 = 0 ∧ s2 = 0 ∧ s3 = 0 then .clean
  else if s0 = 0 ∨ s1 = 0 then .uncorrectable
  else
    match (List.range 68).find? fun i => gfMul s0 (gfAlpha (67 - i)) == s1 with
    | some i =>
      let x := gfAlpha (67 - i)
      if gfMul s1 x = s2 ∧ gfMul s2 x = s3 then .corrected i (BitVec.ofNat 8 s0) else .uncorrectable
    | none => .uncorrectable

/-- Two error patterns together: symbols in both add (XOR), and symbols without error are left out. -/
def addErrors (a b : List (Nat × Byte)) : List (Nat × Byte) :=
  b.foldl (fun m e =>
    let v := ((m.find? (·.1 == e.1)).map (·.2)).getD 0 ^^^ e.2
    let rest := m.filter (·.1 != e.1)
    if v = 0 then rest else rest ++ [(e.1, v)]) a

/-! ## The shard code of Jigsaw -/

/-- The generator polynomial g_M, highest coefficient first (R339). -/
def gfGen : Nat → List Nat
  | 0 => [1]
  | m + 1 =>
    let g := gfGen m
    let shifted := g ++ [0]
    let scaled := 0 :: g.map (gfMul (gfAlpha m))
    (List.zip shifted scaled).map fun p => xorN p.1 p.2

/-- One step of division by the monic generator: the remainder register after the next data symbol. -/
def gfDivStep (g rem : List Nat) (d : Nat) : List Nat :=
  let f := xorN d (rem.headD 0)
  (List.zip (rem.tail ++ [0]) g.tail).map fun p => xorN p.1 (gfMul f p.2)

/-- The parity symbols of a column of data symbols: the codeword is divisible by g_M (R339). -/
def rsParity (m : Nat) (data : List Nat) : List Nat :=
  data.foldl (gfDivStep (gfGen m)) (List.replicate m 0)

/-- The syndromes of a whole codeword, α^0 to α^(M − 1). -/
def rsSyndromes (m : Nat) (code : List Nat) : List Nat := (List.range m).map fun j => gfEval code (gfAlpha j)

/-- Elimination of one unknown from the rows below: `piv` has leading coefficient 1 in its first place. -/
def gfElim (piv row : List Nat) : List Nat :=
  let f := row.headD 0
  ((row.zip piv).map fun p => xorN p.1 (gfMul f p.2)).tail

/-- Solve a linear system over GF(256), rows as coefficients with the right-hand side last; `k` unknowns. The rows are those of a
Vandermonde system, which has one solution. -/
def gfSolve : Nat → List (List Nat) → List Nat
  | 0, _ => []
  | k + 1, rows =>
    match rows.find? (fun r => r.headD 0 != 0) with
    | none => List.replicate (k + 1) 0
    | some p =>
      let inv := gfInv (p.headD 0)
      let piv := p.map (gfMul inv)
      let below := (dropFirst' p rows).map (gfElim piv)
      let xs := gfSolve k below
      let rhs := piv.getLastD 0
      let known := ((piv.tail.dropLast).zip xs).foldl (fun acc q => xorN acc (gfMul q.1 q.2)) rhs
      known :: xs
where
  /-- The rows without the first one equal to `p`. -/
  dropFirst' (p : List Nat) : List (List Nat) → List (List Nat)
    | [] => []
    | r :: t => if r = p then t else r :: dropFirst' p t

/-- The erased symbols of a codeword of `n` symbols, from the others: `code` holds zeros at the erased places (R342). The
syndromes of the known part give one linear system for the erased symbols. -/
def rsErasures (m n : Nat) (erased : List Nat) (code : List Nat) : List Nat :=
  let e := erased.length
  let rows := (List.range (min m e)).map fun j =>
    (erased.map fun i => gfAlpha (j * (n - 1 - i))) ++ [gfEval code (gfAlpha j)]
  gfSolve e rows

/-! ## CRC-32 -/

/-- One bit of the CRC-32 register, reflected, polynomial 0xEDB88320 (R350). -/
def crc32Bit (c : Nat) : Nat := if c % 2 = 1 then xorN (c / 2) 0xEDB88320 else c / 2

/-- One byte of CRC-32. -/
def crc32Byte (c : Nat) (b : Byte) : Nat :=
  let x := xorN c b.toNat
  crc32Bit (crc32Bit (crc32Bit (crc32Bit (crc32Bit (crc32Bit (crc32Bit (crc32Bit x)))))))

/-- CRC-32 of a byte string: initial value and final inversion all ones (R350). -/
def crc32 (bs : List Byte) : Nat := xorN (bs.foldl crc32Byte 0xFFFFFFFF) 0xFFFFFFFF

/-! ## CRC-64 -/

/-- One bit of the CRC-64 register, polynomial 0x42F0_E1EB_A9EA_3693 (R301). -/
def crc64Bit (c : Nat) : Nat := if 2 ^ 63 ≤ c then xorN (2 * c % 2 ^ 64) 0x42F0E1EBA9EA3693 else 2 * c

/-- One byte of CRC-64, its highest bit first. -/
def crc64Byte (c : Nat) (b : Byte) : Nat :=
  let x := xorN c (b.toNat * 2 ^ 56)
  crc64Bit (crc64Bit (crc64Bit (crc64Bit (crc64Bit (crc64Bit (crc64Bit (crc64Bit x)))))))

/-- The digest of R301: the register starts as all ones, and the result is XORed with all ones. -/
def crc64 (bs : List Byte) : Nat := xorN (bs.foldl crc64Byte (2 ^ 64 - 1)) (2 ^ 64 - 1)

/-! ## GF(2^128) (R274) -/

/-- Multiplication by x modulo x^128 + x^7 + x^2 + x + 1. -/
def gf128Double (a : Nat) : Nat := if 2 ^ 127 ≤ a then xorN (2 * a % 2 ^ 128) 0x87 else 2 * a

/-- The product over the `k` low bits of the second. -/
def gf128MulF : Nat → Nat → Nat → Nat
  | 0, _, _ => 0
  | k + 1, a, b => xorN (if b % 2 = 1 then a else 0) (gf128MulF k (gf128Double a) (b / 2))

/-- The product of two elements of GF(2^128). -/
def gf128Mul (a b : Nat) : Nat := gf128MulF 128 a b

/-- The power a^n for n below 2^k, by squaring. -/
def gf128PowF : Nat → Nat → Nat → Nat
  | 0, _, _ => 1
  | k + 1, a, n => gf128Mul (if n % 2 = 1 then a else 1) (gf128PowF k (gf128Mul a a) (n / 2))

end Sys2Proof.Machine
end

