-- ==== Sys2Proof/Config.lean ====
section
/-! DEFINITION. What the manual leaves open, as constants without a body: no proof can see their values, so every
theorem holds whatever they are. Free values are applied to the model's own counter `State.freeCtr` (log entry 2);
functions whose bits the manual fixes per numerics generation but does not publish, and cryptographic primitives
named by standard only, are applied to their operands (log entries 5 and 6). -/
namespace Sys2Proof.Config

/-- A free 64-bit value; the model applies it to a fresh count each time. -/
opaque freeWord : Nat → BitVec 64

/-- A free byte: what a byte of memory holds that the manual leaves undefined (R138, R423). -/
opaque freeByte : Nat → BitVec 8

/-- The bits of a vector transcendental (RSQRT, EXP, LOG, TANH, SIGM, GELU, SILU of R218), named by its opcode, on the
FP32 pattern of its operand. Fixed per NGEN (R163, R218), not published. -/
opaque transcendental : Nat → BitVec 32 → BitVec 32

/-- The FP32 value as which an INT32 element enters a NARROW stash, on its bits, and the INT32 that its recall writes, on the FP32 value recalled:
the manual states neither (R282, R285). -/
opaque int32Narrow : BitVec 32 → BitVec 32
/-- See `int32Narrow`. -/
opaque int32Recall : BitVec 32 → BitVec 32

/-- The bits of a scalar function of the schedule unit (powers, cosine, inverse square root; R268, R271), named by a
number, on two FP32 patterns. -/
opaque schedFn : Nat → BitVec 32 → BitVec 32 → BitVec 32

/-- SHA-384 of a byte string (R466, R479): the digest as a number. -/
opaque sha384 : List (BitVec 8) → Nat

/-- ECDSA P-384 and HSS verification and signing, HMAC and key derivation (R466, R479 to R483, R492): named by a number,
on a key and a message; the answer as a number. -/
opaque crypto : Nat → Nat → List (BitVec 8) → Nat

/-- DEVICE_ID of R476: the SHA-384 of the public key derived from this device's secret. -/
opaque deviceId : Nat

/-- Ondinar's JEP106 identity (R491). -/
opaque jep106 : BitVec 11

/-- The row of a stack address within its pseudo-channel: the mapping that R324 keeps hidden, by stack. -/
opaque rowOf : Nat → Nat → Nat

/-- The delay of a beat symbol through the hub crossbar, in ns, which R362 subtracts and no chapter states. -/
opaque crossbarNs : Nat

/-- The turnaround in ps that this device reports when it answers an LMGMT echo (R362). -/
opaque turnaroundPs : Nat

/-- The stall time that a member has recorded so far in a beat, in ns by cause, codes 1 to 6: the clock counts it (R60, R391). The model
applies it to a fresh count each time. -/
opaque stallsNow : Nat → List Nat

/-- The set-point in mV of a rail whose voltage the manual leaves to JEDEC HBM4 (R450). -/
opaque railSetpoint : Nat → Nat

/-- A choice the manual leaves to chance: the sampling decision of R300, the challenge of R493, jitter of R496. -/
opaque chance : Nat → Nat → Nat

end Sys2Proof.Config
end

