-- ==== Sys2Proof/Machine/AddrMap.lean ====
section
/-! DEFINITION. The device physical address map (R36 to R39), the layouts (R33) and the DRAM interleave (R42). -/
namespace Sys2Proof.Machine

/-- The number of partitions of a layout (R33). -/
def partsOf (layout : Nat) : Nat := if layout ≤ 1 then 1 else if layout ≤ 3 then 2 else 4

/-- The partition that owns region `r` in a layout (R33). -/
def partOfRegion (layout r : Nat) : Nat := if layout ≤ 1 then 0 else if layout ≤ 3 then r / 2 else r

/-- The regions of partition `p` in a layout, ascending (R33). -/
def regionsOf (layout p : Nat) : List Nat := [0, 1, 2, 3].filter fun r => partOfRegion layout r == p

/-- Is the DRAM spread of the layout "near stacks only" (R33)? In layouts 0 and 1 both rules name the same set. -/
def nearOnly (layout : Nat) : Bool := layout == 2 || layout == 5

/-- Does partition `p` depend on compute die `d` in a layout (R43)? -/
def dependsOn (layout p d : Nat) : Bool :=
  decide (p < partsOf layout) && (!nearOnly layout || partOfRegion layout d == p)

/-- The pooled profile of bridge modules (R33). -/
def pooled (layout : Nat) : Bool := layout == 0 || layout == 2

/-- 1 GiB. -/
def GiB : Nat := 2 ^ 30

/-- The size S of a partition's DRAM share (R38). -/
def shareSize (layout : Nat) : Nat := 960 * GiB / partsOf layout

/-- The end of DRAM (R36). -/
def dramEnd : Nat := 960 * GiB

/-- The partition whose share holds DRAM address `a` (R38). -/
def partOfDram (layout a : Nat) : Nat := a / shareSize layout

/-- The stack set of a partition, ascending (R42). -/
def stackSet (layout p : Nat) : List Nat :=
  if layout = 2 then (List.range 6).map (· + 6 * p)
  else if layout = 5 then (List.range 3).map (· + 3 * p)
  else List.range 12

/-- The XOR of the granule bits that spreads granules over stacks (R42). -/
def interleaveF (q : Nat) : Nat :=
  xorN (xorN (xorN (xorN (bits q 0 6) (bits q 6 6)) (bits q 12 6)) (bits q 18 6)) (bits q 24 1)

/-- The stack and the stack address of a DRAM address (R42). -/
def stackAddr (layout a : Nat) : Nat × Nat :=
  let p := partOfDram layout a
  let set := stackSet layout p
  let n := set.length
  let off := a - p * shareSize layout
  let g := off / 4096
  let q := g / n
  let slot := (g % n + interleaveF q) % n
  let base := if n = 12 ∧ partsOf layout > 1 then p * (80 * GiB / partsOf layout) else 0
  (set.getD slot 0, base + q * 4096 + off % 4096)

/-- The stack that holds a DRAM address (R42). -/
def stackOf (layout a : Nat) : Nat := (stackAddr layout a).1

/-- The base of the GlaetLink window onto companion memory (R36). -/
def glkBase : Nat := 0x40000000000

/-- The end of the GlaetLink window (R36). -/
def glkEnd : Nat := 0x80000000000

/-- The base of the SRAM windows (R39). -/
def sramBase : Nat := 0x80000000000

/-- What a DPA names (R36, R39). -/
inductive Target
  | dram
  | companion
  | coreStore (r k : Nat)
  | accStore (r k : Nat)
  | ccImem (r k : Nat)
  | ccDmem (r k : Nat)
  | regionBuf (r : Nat)
  | registers
  | unmapped
deriving DecidableEq, Repr

/-- What lies at offset `o` of a slot window (R39). -/
def slotTarget (r k o : Nat) : Target :=
  if o < 0x600000 then .coreStore r k
  else if o < 0x680000 then .accStore r k
  else if o < 0x700000 then .unmapped
  else if o < 0x710000 then .ccImem r k
  else if o < 0x720000 then .ccDmem r k
  else .unmapped

/-- What a DPA names (R36, R39). -/
def target (a : Nat) : Target :=
  if a < dramEnd then .dram
  else if a < glkBase then .unmapped
  else if a < glkEnd then .companion
  else if a < sramBase + 4 * 0x40000000 then
    let r := (a - sramBase) / 0x40000000
    let o := (a - sramBase) % 0x40000000
    if o < 40 * 0x800000 then slotTarget r (o / 0x800000) (o % 0x800000)
    else if 0x20000000 ≤ o ∧ o < 0x20000000 + 96 * 2 ^ 20 then .regionBuf r
    else .unmapped
  else if a < 0xF0000000000 then .unmapped
  else if a < 2 ^ 44 then .registers
  else .unmapped

/-- The DPA of the window of slot Lk of region n (R39). -/
def slotWindow (r k : Nat) : Nat := sramBase + r * 0x40000000 + k * 0x800000

/-- The DPA of the accumulation store of a slot, group `g` (R39: 32 KiB each). -/
def accBase (r k g : Nat) : Nat := slotWindow r k + 0x600000 + g * 0x8000

/-- The DPA of the control core's instruction memory (R39). -/
def imemBase (r k : Nat) : Nat := slotWindow r k + 0x700000

/-- The DPA of the control core's data memory (R39). -/
def dmemBase (r k : Nat) : Nat := slotWindow r k + 0x710000

/-- The DPA of a region buffer (R39). -/
def regionBufBase (r : Nat) : Nat := sramBase + r * 0x40000000 + 0x20000000

/-- Opposite or neighbouring dies: the bridges b that join Cb and C((b+1) mod 4) (R26). -/
def bridgeOf (x y : Nat) : Option Nat :=
  if (x + 1) % 4 = y then some x else if (y + 1) % 4 = x then some y else none

end Sys2Proof.Machine
end

