-- ==== Sys2Proof/Machine/Maps.lean ====
section
/-! DEFINITION. Finite maps as lists of key and value pairs with rising keys: the form in which the state holds
everything that is sparse or numbered. Plain data, structural recursion. -/
namespace Sys2Proof.Machine

variable {β : Type}

/-- What a map holds at key `a`, if anything. -/
def mget? : List (Nat × β) → Nat → Option β
  | [], _ => none
  | (k, v) :: t, a => if a = k then some v else mget? t a

/-- What a map holds at key `a`, or `d`. -/
def mgetD (m : List (Nat × β)) (a : Nat) (d : β) : β := (mget? m a).getD d

/-- The map with `v` at key `a`; keys stay in rising order. -/
def mset : List (Nat × β) → Nat → β → List (Nat × β)
  | [], a, v => [(a, v)]
  | (k, w) :: t, a, v => if a = k then (a, v) :: t else if a < k then (a, v) :: (k, w) :: t else (k, w) :: mset t a v

/-- The map without key `a`. -/
def merase : List (Nat × β) → Nat → List (Nat × β)
  | [], _ => []
  | (k, w) :: t, a => if a = k then merase t a else (k, w) :: merase t a

/-- The map without the keys that meet `p`. -/
def mdrop (m : List (Nat × β)) (p : Nat → Bool) : List (Nat × β) := m.filter fun e => !p e.1

/-- Keys strictly rising. -/
def msorted : List (Nat × β) → Bool
  | [] => true
  | [_] => true
  | (a, _) :: (b, w) :: t => decide (a < b) && msorted ((b, w) :: t)

/-- The first entry that meets `p` is changed by `f`. -/
def updFirst {α : Type} (p : α → Bool) (f : α → α) : List α → List α
  | [] => []
  | a :: t => if p a then f a :: t else a :: updFirst p f t

/-- The first entry that meets `p` is left out. -/
def dropFirst {α : Type} (p : α → Bool) : List α → List α
  | [] => []
  | a :: t => if p a then t else a :: dropFirst p t

end Sys2Proof.Machine
end

