-- ==== Sys2Proof/Machine/Memory.lean ====
section
/-! DEFINITION. The memory of the device: every byte that a device physical address below register space names
(R36): DRAM, the SRAM windows and the device's image of companion memory. It is a list of cells in one canonical form,
under overlays that say what an unlisted byte reads as: zero after start-up (R325 for DRAM; R488 for the stores; log
entry 3 for companion memory), or a free byte where the manual leaves the contents undefined (R138, R193, R423). -/
namespace Sys2Proof.Machine

/-- What an unlisted byte reads as over a range of addresses, newest first: `undef` ranges hold free bytes (drawn with a
seed), the others hold zeros again. With `die` at (layout, d) only the DRAM bytes that the layout places in the stacks
of compute die d are meant (R428, R42). -/
structure Overlay where
  lo : Nat
  len : Nat
  undef : Bool
  seed : Nat
  die : Option (Nat × Nat)
deriving DecidableEq, Repr

/-- The memory: cells with rising addresses, and the overlays. -/
structure Memory where
  cells : List Host.Cell
  overs : List Overlay
deriving DecidableEq, Repr

/-- Does the overlay cover address `a`? -/
def Overlay.covers (o : Overlay) (a : Nat) : Bool :=
  decide (o.lo ≤ a) && decide (a < o.lo + o.len) &&
    match o.die with
    | none => true
    | some (layout, d) => decide (a < dramEnd) && stackOf layout a / 3 == d

/-- The newest overlay that covers `a`. -/
def overlayAt (os : List Overlay) (a : Nat) : Option Overlay := os.find? (·.covers a)

/-- Is an unlisted byte at `a` undefined? -/
def undefAt (os : List Overlay) (a : Nat) : Bool :=
  match overlayAt os a with
  | some o => o.undef
  | none => false

/-- What an unlisted byte at `a` reads as: zero, or a free byte where the contents are undefined. -/
def baseByte (os : List Overlay) (a : Nat) : Byte :=
  match overlayAt os a with
  | some o => if o.undef then Config.freeByte (o.seed * 2 ^ 44 + a) else 0
  | none => 0

/-- The byte at address `a`. -/
def Memory.read (m : Memory) (a : Nat) : Byte := mgetD m.cells a (baseByte m.overs a)

/-- The memory with byte `b` at address `a`; the form stays canonical: a zero where zero is the unlisted value is not
listed. -/
def Memory.write (m : Memory) (a : Nat) (b : Byte) : Memory :=
  if b = 0 ∧ undefAt m.overs a = false then { m with cells := merase m.cells a }
  else { m with cells := mset m.cells a b }

/-- The canonical form: addresses strictly rising, and no listed byte equal to the zero that it would read as unlisted. -/
def Memory.wf (m : Memory) : Bool :=
  msorted m.cells && m.cells.all fun c => decide (c.2 ≠ 0) || undefAt m.overs c.1

/-- The `k` bytes from address `a` upward. -/
def Memory.readBytes (m : Memory) (a : Nat) : Nat → List Byte
  | 0 => []
  | k + 1 => m.read a :: m.readBytes (a + 1) k

/-- The little-endian number of the `k` bytes at `a` (R12). -/
def Memory.readNat (m : Memory) (a k : Nat) : Nat := leNat (m.readBytes a k)

/-- The memory with the bytes stored from address `a` upward. -/
def Memory.writeBytes (m : Memory) (a : Nat) : List Byte → Memory
  | [] => m
  | b :: t => (m.write a b).writeBytes (a + 1) t

/-- The memory with the `k` low bytes of `v` stored little-endian at `a` (R12). -/
def Memory.writeNat (m : Memory) (a k v : Nat) : Memory := m.writeBytes a (natLe k v)

/-- The bytes under an overlay take its contents: the cells there are dropped. -/
def Memory.overlay (m : Memory) (o : Overlay) : Memory :=
  { cells := mdrop m.cells o.covers, overs := o :: m.overs }

/-- The range [lo, lo + len) becomes undefined: its bytes read as free bytes until they are written (R138, R423). -/
def Memory.makeUndef (m : Memory) (lo len seed : Nat) : Memory := m.overlay ⟨lo, len, true, seed, none⟩

/-- The range [lo, lo + len) is zeroed. -/
def Memory.zeroRange (m : Memory) (lo len : Nat) : Memory := m.overlay ⟨lo, len, false, 0, none⟩

/-- The DRAM of a compute die's stacks is zeroed (R325, R428). -/
def Memory.zeroDie (m : Memory) (layout d : Nat) : Memory := m.overlay ⟨0, dramEnd, false, 0, some (layout, d)⟩

/-- Memory with nothing listed. -/
def Memory.empty : Memory := ⟨[], []⟩

end Sys2Proof.Machine
end

