-- ==== Sys2Proof/Machine/Regs.lean ====
section
/-! DEFINITION. The register space of R49: every register of the manual's register tables (its address) and every
field of it (place, width, access code of R17, reset value). A field whose reset is PR or FW reads zero until it is
loaded ("Registers", 00_scope.md). Reserved bits have no field: they read as zero and ignore what is written (R15). -/
namespace Sys2Proof.Machine

/-- The access codes of R17. -/
inductive Access | ro | rw | w1c | w1s | wo | rwb
deriving DecidableEq, Repr

/-- One register field: the DPA of its register, its lowest bit, its width, its access code and its reset value. -/
structure Fld where
  reg : Nat
  lsb : Nat
  width : Nat
  acc : Access
  reset : Nat
deriving DecidableEq, Repr

/-- The key of a field in the state's field store: no two fields of the register space share one. -/
def Fld.key (f : Fld) : Nat := f.reg * 64 + f.lsb

/-- The first DPA of register space (R36, R49). -/
def regBase : Nat := 0xF0000000000

/-- RGN_SLOT_MAP (01, R32). -/
def RGN_SLOT_MAP (r i : Nat) : Nat := 0xF0100000000 + 0x1000000 * r + 0x0 + 0x8 * i
def RGN_SLOT_MAP_SLOT7 (r i : Nat) : Fld := ⟨(RGN_SLOT_MAP r i), 56, 6, .ro, 0⟩
def RGN_SLOT_MAP_SLOT6 (r i : Nat) : Fld := ⟨(RGN_SLOT_MAP r i), 48, 6, .ro, 0⟩
def RGN_SLOT_MAP_SLOT5 (r i : Nat) : Fld := ⟨(RGN_SLOT_MAP r i), 40, 6, .ro, 0⟩
def RGN_SLOT_MAP_SLOT4 (r i : Nat) : Fld := ⟨(RGN_SLOT_MAP r i), 32, 6, .ro, 0⟩
def RGN_SLOT_MAP_SLOT3 (r i : Nat) : Fld := ⟨(RGN_SLOT_MAP r i), 24, 6, .ro, 0⟩
def RGN_SLOT_MAP_SLOT2 (r i : Nat) : Fld := ⟨(RGN_SLOT_MAP r i), 16, 6, .ro, 0⟩
def RGN_SLOT_MAP_SLOT1 (r i : Nat) : Fld := ⟨(RGN_SLOT_MAP r i), 8, 6, .ro, 0⟩
def RGN_SLOT_MAP_SLOT0 (r i : Nat) : Fld := ⟨(RGN_SLOT_MAP r i), 0, 6, .ro, 0⟩
def RGN_SLOT_MAP_fields (r i : Nat) : List Fld := [RGN_SLOT_MAP_SLOT7 r i, RGN_SLOT_MAP_SLOT6 r i, RGN_SLOT_MAP_SLOT5 r i, RGN_SLOT_MAP_SLOT4 r i, RGN_SLOT_MAP_SLOT3 r i, RGN_SLOT_MAP_SLOT2 r i, RGN_SLOT_MAP_SLOT1 r i, RGN_SLOT_MAP_SLOT0 r i]
/-- RGN_TWINS (01, R32). -/
def RGN_TWINS (r : Nat) : Nat := 0xF0100000000 + 0x1000000 * r + 0x28
def RGN_TWINS_RETIRED (r : Nat) : Fld := ⟨(RGN_TWINS r), 0, 42, .ro, 0⟩
def RGN_TWINS_fields (r : Nat) : List Fld := [RGN_TWINS_RETIRED r]
/-- RGN_TWIN_IDS (01, R32). -/
def RGN_TWIN_IDS (r : Nat) : Nat := 0xF0100000000 + 0x1000000 * r + 0x30
def RGN_TWIN_IDS_TWIN1 (r : Nat) : Fld := ⟨(RGN_TWIN_IDS r), 8, 6, .ro, 0⟩
def RGN_TWIN_IDS_TWIN0 (r : Nat) : Fld := ⟨(RGN_TWIN_IDS r), 0, 6, .ro, 0⟩
def RGN_TWIN_IDS_fields (r : Nat) : List Fld := [RGN_TWIN_IDS_TWIN1 r, RGN_TWIN_IDS_TWIN0 r]
/-- HUB_LAYOUT (01, R34). -/
def HUB_LAYOUT : Nat := 0xF0000000000 + 0x100
def HUB_LAYOUT_NEXT : Fld := ⟨HUB_LAYOUT, 8, 3, .rw, 0⟩
def HUB_LAYOUT_CURRENT : Fld := ⟨HUB_LAYOUT, 0, 3, .ro, 0⟩
def HUB_LAYOUT_fields : List Fld := [HUB_LAYOUT_NEXT, HUB_LAYOUT_CURRENT]
/-- HUB_PART_PTBASE (01, R48). -/
def HUB_PART_PTBASE (i : Nat) : Nat := 0xF0000000000 + 0x200 + 0x8 * i
def HUB_PART_PTBASE_BASE (i : Nat) : Fld := ⟨(HUB_PART_PTBASE i), 12, 32, .rw, 0⟩
def HUB_PART_PTBASE_ENABLE (i : Nat) : Fld := ⟨(HUB_PART_PTBASE i), 0, 1, .rw, 0⟩
def HUB_PART_PTBASE_fields (i : Nat) : List Fld := [HUB_PART_PTBASE_BASE i, HUB_PART_PTBASE_ENABLE i]
/-- BEAT_CTRL (02, R76). -/
def BEAT_CTRL (p : Nat) : Nat := 0xF0000010000 + 0x1000 * p + 0x0
def BEAT_CTRL_STRETCH_LIM (p : Nat) : Fld := ⟨(BEAT_CTRL p), 8, 4, .rw, 4⟩
def BEAT_CTRL_SOURCE (p : Nat) : Fld := ⟨(BEAT_CTRL p), 4, 2, .rw, 0⟩
def BEAT_CTRL_STRICT (p : Nat) : Fld := ⟨(BEAT_CTRL p), 2, 1, .rw, 0⟩
def BEAT_CTRL_ELIGIBLE (p : Nat) : Fld := ⟨(BEAT_CTRL p), 1, 1, .rw, 1⟩
def BEAT_CTRL_JOIN (p : Nat) : Fld := ⟨(BEAT_CTRL p), 0, 1, .rw, 0⟩
def BEAT_CTRL_fields (p : Nat) : List Fld := [BEAT_CTRL_STRETCH_LIM p, BEAT_CTRL_SOURCE p, BEAT_CTRL_STRICT p, BEAT_CTRL_ELIGIBLE p, BEAT_CTRL_JOIN p]
/-- BEAT_PERIOD (02, R76). -/
def BEAT_PERIOD (p : Nat) : Nat := 0xF0000010000 + 0x1000 * p + 0x8
def BEAT_PERIOD_US (p : Nat) : Fld := ⟨(BEAT_PERIOD p), 0, 15, .rw, 500⟩
def BEAT_PERIOD_fields (p : Nat) : List Fld := [BEAT_PERIOD_US p]
/-- BEAT_GUARD (02, R76). -/
def BEAT_GUARD (p : Nat) : Nat := 0xF0000010000 + 0x1000 * p + 0x10
def BEAT_GUARD_US (p : Nat) : Fld := ⟨(BEAT_GUARD p), 0, 7, .rw, 8⟩
def BEAT_GUARD_fields (p : Nat) : List Fld := [BEAT_GUARD_US p]
/-- BEAT_NOW (02, R76). -/
def BEAT_NOW (p : Nat) : Nat := 0xF0000010000 + 0x1000 * p + 0x18
def BEAT_NOW_NUMBER (p : Nat) : Fld := ⟨(BEAT_NOW p), 0, 48, .ro, 0⟩
def BEAT_NOW_fields (p : Nat) : List Fld := [BEAT_NOW_NUMBER p]
/-- BEAT_START (02, R76). -/
def BEAT_START (p : Nat) : Nat := 0xF0000010000 + 0x1000 * p + 0x20
def BEAT_START_NUMBER (p : Nat) : Fld := ⟨(BEAT_START p), 0, 48, .rw, 1⟩
def BEAT_START_fields (p : Nat) : List Fld := [BEAT_START_NUMBER p]
/-- BEAT_DOMAIN (02, R76). -/
def BEAT_DOMAIN (p : Nat) : Nat := 0xF0000010000 + 0x1000 * p + 0x28
def BEAT_DOMAIN_MASTER_PART (p : Nat) : Fld := ⟨(BEAT_DOMAIN p), 48, 2, .ro, 0⟩
def BEAT_DOMAIN_MASTER_NODE (p : Nat) : Fld := ⟨(BEAT_DOMAIN p), 32, 16, .ro, 65535⟩
def BEAT_DOMAIN_MEMBERS (p : Nat) : Fld := ⟨(BEAT_DOMAIN p), 16, 16, .rw, 1⟩
def BEAT_DOMAIN_ID (p : Nat) : Fld := ⟨(BEAT_DOMAIN p), 0, 16, .rw, 0⟩
def BEAT_DOMAIN_fields (p : Nat) : List Fld := [BEAT_DOMAIN_MASTER_PART p, BEAT_DOMAIN_MASTER_NODE p, BEAT_DOMAIN_MEMBERS p, BEAT_DOMAIN_ID p]
/-- BEAT_LATE (02, R76). -/
def BEAT_LATE (p : Nat) : Nat := 0xF0000010000 + 0x1000 * p + 0x30
def BEAT_LATE_NODE (p : Nat) : Fld := ⟨(BEAT_LATE p), 48, 16, .ro, 0⟩
def BEAT_LATE_PART (p : Nat) : Fld := ⟨(BEAT_LATE p), 46, 2, .ro, 0⟩
def BEAT_LATE_CAUSE (p : Nat) : Fld := ⟨(BEAT_LATE p), 43, 3, .ro, 0⟩
def BEAT_LATE_LATE_US (p : Nat) : Fld := ⟨(BEAT_LATE p), 16, 24, .ro, 0⟩
def BEAT_LATE_BEAT_LO (p : Nat) : Fld := ⟨(BEAT_LATE p), 0, 16, .ro, 0⟩
def BEAT_LATE_fields (p : Nat) : List Fld := [BEAT_LATE_NODE p, BEAT_LATE_PART p, BEAT_LATE_CAUSE p, BEAT_LATE_LATE_US p, BEAT_LATE_BEAT_LO p]
/-- BEAT_STATS (02, R76). -/
def BEAT_STATS (p : Nat) : Nat := 0xF0000010000 + 0x1000 * p + 0x38
def BEAT_STATS_STRETCHES (p : Nat) : Fld := ⟨(BEAT_STATS p), 32, 32, .ro, 0⟩
def BEAT_STATS_OWN_LATE (p : Nat) : Fld := ⟨(BEAT_STATS p), 0, 32, .ro, 0⟩
def BEAT_STATS_fields (p : Nat) : List Fld := [BEAT_STATS_STRETCHES p, BEAT_STATS_OWN_LATE p]
/-- BEAT_STATE (02, R76). -/
def BEAT_STATE (p : Nat) : Nat := 0xF0000010000 + 0x1000 * p + 0x40
def BEAT_STATE_MASTER (p : Nat) : Fld := ⟨(BEAT_STATE p), 3, 1, .ro, 0⟩
def BEAT_STATE_STATE (p : Nat) : Fld := ⟨(BEAT_STATE p), 0, 3, .ro, 0⟩
def BEAT_STATE_fields (p : Nat) : List Fld := [BEAT_STATE_MASTER p, BEAT_STATE_STATE p]
/-- BEAT_STOP (02, R76). -/
def BEAT_STOP (p : Nat) : Nat := 0xF0000010000 + 0x1000 * p + 0x48
def BEAT_STOP_AT (p : Nat) : Fld := ⟨(BEAT_STOP p), 0, 48, .rw, 0⟩
def BEAT_STOP_fields (p : Nat) : List Fld := [BEAT_STOP_AT p]
/-- BEAT_BOOK (02, R76). -/
def BEAT_BOOK (p i : Nat) : Nat := 0xF0000010000 + 0x1000 * p + 0x100 + 8 * i
def BEAT_BOOK_KIND (p i : Nat) : Fld := ⟨(BEAT_BOOK p i), 60, 4, .ro, 0⟩
def BEAT_BOOK_UNIT (p i : Nat) : Fld := ⟨(BEAT_BOOK p i), 54, 6, .ro, 0⟩
def BEAT_BOOK_BEAT (p i : Nat) : Fld := ⟨(BEAT_BOOK p i), 0, 48, .ro, 0⟩
def BEAT_BOOK_fields (p i : Nat) : List Fld := [BEAT_BOOK_KIND p i, BEAT_BOOK_UNIT p i, BEAT_BOOK_BEAT p i]
/-- HUB_RING_DB (03, R101). -/
def HUB_RING_DB (n : Nat) : Nat := 0xF0000100000 + 0x1000 * n + 0x0
def HUB_RING_DB_PHASE (n : Nat) : Fld := ⟨(HUB_RING_DB n), 16, 1, .wo, 0⟩
def HUB_RING_DB_TAIL (n : Nat) : Fld := ⟨(HUB_RING_DB n), 0, 16, .wo, 0⟩
def HUB_RING_DB_fields (n : Nat) : List Fld := [HUB_RING_DB_PHASE n, HUB_RING_DB_TAIL n]
/-- HUB_RING_CQDB (03, R101). -/
def HUB_RING_CQDB (n : Nat) : Nat := 0xF0000100000 + 0x1000 * n + 0x8
def HUB_RING_CQDB_PHASE (n : Nat) : Fld := ⟨(HUB_RING_CQDB n), 16, 1, .wo, 0⟩
def HUB_RING_CQDB_HEAD (n : Nat) : Fld := ⟨(HUB_RING_CQDB n), 0, 16, .wo, 0⟩
def HUB_RING_CQDB_fields (n : Nat) : List Fld := [HUB_RING_CQDB_PHASE n, HUB_RING_CQDB_HEAD n]
/-- HUB_RING_PTRS (03, R101). -/
def HUB_RING_PTRS (n : Nat) : Nat := 0xF0000100000 + 0x1000 * n + 0x10
def HUB_RING_PTRS_IN_FLIGHT (n : Nat) : Fld := ⟨(HUB_RING_PTRS n), 56, 8, .ro, 0⟩
def HUB_RING_PTRS_PART (n : Nat) : Fld := ⟨(HUB_RING_PTRS n), 54, 2, .ro, 0⟩
def HUB_RING_PTRS_STATE (n : Nat) : Fld := ⟨(HUB_RING_PTRS n), 51, 3, .ro, 0⟩
def HUB_RING_PTRS_CQ_PH (n : Nat) : Fld := ⟨(HUB_RING_PTRS n), 50, 1, .ro, 0⟩
def HUB_RING_PTRS_CQ_TAIL (n : Nat) : Fld := ⟨(HUB_RING_PTRS n), 34, 16, .ro, 0⟩
def HUB_RING_PTRS_TAIL_PH (n : Nat) : Fld := ⟨(HUB_RING_PTRS n), 33, 1, .ro, 0⟩
def HUB_RING_PTRS_TAIL (n : Nat) : Fld := ⟨(HUB_RING_PTRS n), 17, 16, .ro, 0⟩
def HUB_RING_PTRS_HEAD_PH (n : Nat) : Fld := ⟨(HUB_RING_PTRS n), 16, 1, .ro, 0⟩
def HUB_RING_PTRS_HEAD (n : Nat) : Fld := ⟨(HUB_RING_PTRS n), 0, 16, .ro, 0⟩
def HUB_RING_PTRS_fields (n : Nat) : List Fld := [HUB_RING_PTRS_IN_FLIGHT n, HUB_RING_PTRS_PART n, HUB_RING_PTRS_STATE n, HUB_RING_PTRS_CQ_PH n, HUB_RING_PTRS_CQ_TAIL n, HUB_RING_PTRS_TAIL_PH n, HUB_RING_PTRS_TAIL n, HUB_RING_PTRS_HEAD_PH n, HUB_RING_PTRS_HEAD n]
/-- HUB_RING_STAT (03, R101). -/
def HUB_RING_STAT (n : Nat) : Nat := 0xF0000100000 + 0x1000 * n + 0x18
def HUB_RING_STAT_STATE (n : Nat) : Fld := ⟨(HUB_RING_STAT n), 4, 3, .ro, 0⟩
def HUB_RING_STAT_REFUSED (n : Nat) : Fld := ⟨(HUB_RING_STAT n), 2, 1, .w1c, 0⟩
def HUB_RING_STAT_CQ_ERR (n : Nat) : Fld := ⟨(HUB_RING_STAT n), 1, 1, .w1c, 0⟩
def HUB_RING_STAT_DB_ERR (n : Nat) : Fld := ⟨(HUB_RING_STAT n), 0, 1, .w1c, 0⟩
def HUB_RING_STAT_fields (n : Nat) : List Fld := [HUB_RING_STAT_STATE n, HUB_RING_STAT_REFUSED n, HUB_RING_STAT_CQ_ERR n, HUB_RING_STAT_DB_ERR n]
/-- HUB_RING_CNT0 (03, R101). -/
def HUB_RING_CNT0 (n : Nat) : Nat := 0xF0000100000 + 0x1000 * n + 0x20
def HUB_RING_CNT0_COMPLETED (n : Nat) : Fld := ⟨(HUB_RING_CNT0 n), 32, 32, .ro, 0⟩
def HUB_RING_CNT0_FETCHED (n : Nat) : Fld := ⟨(HUB_RING_CNT0 n), 0, 32, .ro, 0⟩
def HUB_RING_CNT0_fields (n : Nat) : List Fld := [HUB_RING_CNT0_COMPLETED n, HUB_RING_CNT0_FETCHED n]
/-- HUB_RING_CNT1 (03, R101). -/
def HUB_RING_CNT1 (n : Nat) : Nat := 0xF0000100000 + 0x1000 * n + 0x28
def HUB_RING_CNT1_ERRORS (n : Nat) : Fld := ⟨(HUB_RING_CNT1 n), 32, 16, .ro, 0⟩
def HUB_RING_CNT1_NOOPS (n : Nat) : Fld := ⟨(HUB_RING_CNT1 n), 0, 32, .ro, 0⟩
def HUB_RING_CNT1_fields (n : Nat) : List Fld := [HUB_RING_CNT1_ERRORS n, HUB_RING_CNT1_NOOPS n]
/-- HUB_RING_SQ (03, R101). -/
def HUB_RING_SQ (n : Nat) : Nat := 0xF0000001000 + 0x20 * n + 0x0
def HUB_RING_SQ_BASE (n : Nat) : Fld := ⟨(HUB_RING_SQ n), 12, 32, .rw, 0⟩
def HUB_RING_SQ_LOG2 (n : Nat) : Fld := ⟨(HUB_RING_SQ n), 0, 5, .rw, 0⟩
def HUB_RING_SQ_fields (n : Nat) : List Fld := [HUB_RING_SQ_BASE n, HUB_RING_SQ_LOG2 n]
/-- HUB_RING_CQ (03, R101). -/
def HUB_RING_CQ (n : Nat) : Nat := 0xF0000001000 + 0x20 * n + 0x8
def HUB_RING_CQ_BASE (n : Nat) : Fld := ⟨(HUB_RING_CQ n), 12, 32, .rw, 0⟩
def HUB_RING_CQ_LOG2 (n : Nat) : Fld := ⟨(HUB_RING_CQ n), 0, 5, .rw, 0⟩
def HUB_RING_CQ_fields (n : Nat) : List Fld := [HUB_RING_CQ_BASE n, HUB_RING_CQ_LOG2 n]
/-- HUB_RING_CFG (03, R101). -/
def HUB_RING_CFG (n : Nat) : Nat := 0xF0000001000 + 0x20 * n + 0x10
def HUB_RING_CFG_VECTOR (n : Nat) : Fld := ⟨(HUB_RING_CFG n), 16, 11, .rw, 0⟩
def HUB_RING_CFG_PART (n : Nat) : Fld := ⟨(HUB_RING_CFG n), 8, 2, .rw, 0⟩
def HUB_RING_CFG_fields (n : Nat) : List Fld := [HUB_RING_CFG_VECTOR n, HUB_RING_CFG_PART n]
/-- HUB_RING_CTRL (03, R101). -/
def HUB_RING_CTRL (n : Nat) : Nat := 0xF0000001000 + 0x20 * n + 0x18
def HUB_RING_CTRL_WEIGHT (n : Nat) : Fld := ⟨(HUB_RING_CTRL n), 8, 8, .rwb, 16⟩
def HUB_RING_CTRL_ENABLE (n : Nat) : Fld := ⟨(HUB_RING_CTRL n), 0, 1, .rwb, 0⟩
def HUB_RING_CTRL_fields (n : Nat) : List Fld := [HUB_RING_CTRL_WEIGHT n, HUB_RING_CTRL_ENABLE n]
/-- HUB_PART_CTRL (03, R101). -/
def HUB_PART_CTRL (i : Nat) : Nat := 0xF0000000000 + 0x240 + 0x8 * i
def HUB_PART_CTRL_REASON (i : Nat) : Fld := ⟨(HUB_PART_CTRL i), 24, 8, .ro, 0⟩
def HUB_PART_CTRL_FAULT (i : Nat) : Fld := ⟨(HUB_PART_CTRL i), 8, 12, .ro, 0⟩
def HUB_PART_CTRL_STATE (i : Nat) : Fld := ⟨(HUB_PART_CTRL i), 4, 3, .ro, 0⟩
def HUB_PART_CTRL_CMD (i : Nat) : Fld := ⟨(HUB_PART_CTRL i), 0, 2, .wo, 0⟩
def HUB_PART_CTRL_fields (i : Nat) : List Fld := [HUB_PART_CTRL_REASON i, HUB_PART_CTRL_FAULT i, HUB_PART_CTRL_STATE i, HUB_PART_CTRL_CMD i]
/-- HUB_RESYNC (03, R105). -/
def HUB_RESYNC : Nat := 0xF0000000000 + 0x300
def HUB_RESYNC_DEST : Fld := ⟨HUB_RESYNC, 12, 32, .wo, 0⟩
def HUB_RESYNC_fields : List Fld := [HUB_RESYNC_DEST]
/-- HUB_RESYNC_STAT (03, R105). -/
def HUB_RESYNC_STAT : Nat := 0xF0000000000 + 0x308
def HUB_RESYNC_STAT_DROPPED : Fld := ⟨HUB_RESYNC_STAT, 48, 16, .ro, 0⟩
def HUB_RESYNC_STAT_SEQ_LO : Fld := ⟨HUB_RESYNC_STAT, 8, 40, .ro, 0⟩
def HUB_RESYNC_STAT_PENDING : Fld := ⟨HUB_RESYNC_STAT, 0, 3, .ro, 0⟩
def HUB_RESYNC_STAT_fields : List Fld := [HUB_RESYNC_STAT_DROPPED, HUB_RESYNC_STAT_SEQ_LO, HUB_RESYNC_STAT_PENDING]
/-- CORE_QSTALL (04, R116). -/
def CORE_QSTALL (r k i : Nat) : Nat := 0xF0100800000 + 0x1000000 * r + 0x20000 * k + 0x100 + 0x8 * i
def CORE_QSTALL_FULL (r k i : Nat) : Fld := ⟨(CORE_QSTALL r k i), 32, 32, .ro, 0⟩
def CORE_QSTALL_EMPTY (r k i : Nat) : Fld := ⟨(CORE_QSTALL r k i), 0, 32, .ro, 0⟩
def CORE_QSTALL_fields (r k i : Nat) : List Fld := [CORE_QSTALL_FULL r k i, CORE_QSTALL_EMPTY r k i]
/-- CORE_CC_STAT (04, R122). -/
def CORE_CC_STAT (r k : Nat) : Nat := 0xF0100800000 + 0x1000000 * r + 0x20000 * k + 0x0
def CORE_CC_STAT_EXIT (r k : Nat) : Fld := ⟨(CORE_CC_STAT r k), 32, 32, .ro, 0⟩
def CORE_CC_STAT_WAIT (r k : Nat) : Fld := ⟨(CORE_CC_STAT r k), 12, 4, .ro, 0⟩
def CORE_CC_STAT_CAUSE (r k : Nat) : Fld := ⟨(CORE_CC_STAT r k), 4, 6, .ro, 0⟩
def CORE_CC_STAT_STATE (r k : Nat) : Fld := ⟨(CORE_CC_STAT r k), 0, 3, .ro, 0⟩
def CORE_CC_STAT_fields (r k : Nat) : List Fld := [CORE_CC_STAT_EXIT r k, CORE_CC_STAT_WAIT r k, CORE_CC_STAT_CAUSE r k, CORE_CC_STAT_STATE r k]
/-- CORE_CC_PC (04, R122). -/
def CORE_CC_PC (r k : Nat) : Nat := 0xF0100800000 + 0x1000000 * r + 0x20000 * k + 0x8
def CORE_CC_PC_PC (r k : Nat) : Fld := ⟨(CORE_CC_PC r k), 0, 16, .ro, 0⟩
def CORE_CC_PC_fields (r k : Nat) : List Fld := [CORE_CC_PC_PC r k]
/-- CORE_LAUNCHQ (04, R122). -/
def CORE_LAUNCHQ (r k : Nat) : Nat := 0xF0100800000 + 0x1000000 * r + 0x20000 * k + 0x10
def CORE_LAUNCHQ_LAUNCHED (r k : Nat) : Fld := ⟨(CORE_LAUNCHQ r k), 6, 32, .ro, 0⟩
def CORE_LAUNCHQ_OCCUPANCY (r k : Nat) : Fld := ⟨(CORE_LAUNCHQ r k), 0, 6, .ro, 0⟩
def CORE_LAUNCHQ_fields (r k : Nat) : List Fld := [CORE_LAUNCHQ_LAUNCHED r k, CORE_LAUNCHQ_OCCUPANCY r k]
/-- HUB_PART_CTX (04, R138). -/
def HUB_PART_CTX (i : Nat) : Nat := 0xF0000000000 + 0x280 + 0x8 * i
def HUB_PART_CTX_ADDR (i : Nat) : Fld := ⟨(HUB_PART_CTX i), 12, 32, .rw, 0⟩
def HUB_PART_CTX_BUSY (i : Nat) : Fld := ⟨(HUB_PART_CTX i), 7, 1, .ro, 0⟩
def HUB_PART_CTX_ERR (i : Nat) : Fld := ⟨(HUB_PART_CTX i), 6, 1, .w1c, 0⟩
def HUB_PART_CTX_CMD (i : Nat) : Fld := ⟨(HUB_PART_CTX i), 0, 2, .wo, 0⟩
def HUB_PART_CTX_fields (i : Nat) : List Fld := [HUB_PART_CTX_ADDR i, HUB_PART_CTX_BUSY i, HUB_PART_CTX_ERR i, HUB_PART_CTX_CMD i]
/-- ARR_STAT (05, R158). -/
def ARR_STAT (r k m : Nat) : Nat := 0xF0100800000 + 0x1000000 * r + 0x20000 * k + 0x10000 + 0x1000 * m
def ARR_STAT_MODE (r k m : Nat) : Fld := ⟨(ARR_STAT r k m), 4, 4, .ro, 0⟩
def ARR_STAT_CHECKING (r k m : Nat) : Fld := ⟨(ARR_STAT r k m), 3, 1, .ro, 0⟩
def ARR_STAT_BUSY (r k m : Nat) : Fld := ⟨(ARR_STAT r k m), 0, 1, .ro, 0⟩
def ARR_STAT_fields (r k m : Nat) : List Fld := [ARR_STAT_MODE r k m, ARR_STAT_CHECKING r k m, ARR_STAT_BUSY r k m]
/-- ARR_CHECK_LOG (05, R158). -/
def ARR_CHECK_LOG (r k m : Nat) : Nat := 0xF0100800000 + 0x1000000 * r + 0x20000 * k + 0x10008 + 0x1000 * m
def ARR_CHECK_LOG_VALID (r k m : Nat) : Fld := ⟨(ARR_CHECK_LOG r k m), 63, 1, .ro, 0⟩
def ARR_CHECK_LOG_TILE (r k m : Nat) : Fld := ⟨(ARR_CHECK_LOG r k m), 42, 14, .ro, 0⟩
def ARR_CHECK_LOG_HALF (r k m : Nat) : Fld := ⟨(ARR_CHECK_LOG r k m), 41, 1, .ro, 0⟩
def ARR_CHECK_LOG_ROW (r k m : Nat) : Fld := ⟨(ARR_CHECK_LOG r k m), 32, 8, .ro, 0⟩
def ARR_CHECK_LOG_TAG (r k m : Nat) : Fld := ⟨(ARR_CHECK_LOG r k m), 0, 32, .ro, 0⟩
def ARR_CHECK_LOG_fields (r k m : Nat) : List Fld := [ARR_CHECK_LOG_VALID r k m, ARR_CHECK_LOG_TILE r k m, ARR_CHECK_LOG_HALF r k m, ARR_CHECK_LOG_ROW r k m, ARR_CHECK_LOG_TAG r k m]
/-- ARR_TILES (05, R158). -/
def ARR_TILES (r k m : Nat) : Nat := 0xF0100800000 + 0x1000000 * r + 0x20000 * k + 0x10010 + 0x1000 * m
def ARR_TILES_PASSES (r k m : Nat) : Fld := ⟨(ARR_TILES r k m), 0, 64, .ro, 0⟩
def ARR_TILES_fields (r k m : Nat) : List Fld := [ARR_TILES_PASSES r k m]
/-- ARR_CYCLES (05, R158). -/
def ARR_CYCLES (r k m : Nat) : Nat := 0xF0100800000 + 0x1000000 * r + 0x20000 * k + 0x10018 + 0x1000 * m
def ARR_CYCLES_ACTIVE (r k m : Nat) : Fld := ⟨(ARR_CYCLES r k m), 32, 32, .ro, 0⟩
def ARR_CYCLES_SWAP_WAIT (r k m : Nat) : Fld := ⟨(ARR_CYCLES r k m), 0, 32, .ro, 0⟩
def ARR_CYCLES_fields (r k m : Nat) : List Fld := [ARR_CYCLES_ACTIVE r k m, ARR_CYCLES_SWAP_WAIT r k m]
/-- HUB_NUMERICS (06, R182). -/
def HUB_NUMERICS : Nat := 0xF0000000000 + 0x400
def HUB_NUMERICS_EBOUND : Fld := ⟨HUB_NUMERICS, 8, 8, .ro, 1⟩
def HUB_NUMERICS_NGEN : Fld := ⟨HUB_NUMERICS, 0, 8, .ro, 0⟩
def HUB_NUMERICS_fields : List Fld := [HUB_NUMERICS_EBOUND, HUB_NUMERICS_NGEN]
/-- HUB_PART_SEED (07, R197). -/
def HUB_PART_SEED (i : Nat) : Nat := 0xF0000000000 + 0x440 + 0x8 * i
def HUB_PART_SEED_SEED (i : Nat) : Fld := ⟨(HUB_PART_SEED i), 0, 64, .rw, 0⟩
def HUB_PART_SEED_fields (i : Nat) : List Fld := [HUB_PART_SEED_SEED i]
/-- CORE_ACC_GRP (07, R210). -/
def CORE_ACC_GRP (r k i : Nat) : Nat := 0xF0100800000 + 0x1000000 * r + 0x20000 * k + 0x200 + 0x20 * i
def CORE_ACC_GRP_TENSOR_ID (r k i : Nat) : Fld := ⟨(CORE_ACC_GRP r k i), 20, 20, .ro, 0⟩
def CORE_ACC_GRP_ROWS (r k i : Nat) : Fld := ⟨(CORE_ACC_GRP r k i), 12, 8, .ro, 0⟩
def CORE_ACC_GRP_LONG_K (r k i : Nat) : Fld := ⟨(CORE_ACC_GRP r k i), 8, 1, .ro, 0⟩
def CORE_ACC_GRP_MODE (r k i : Nat) : Fld := ⟨(CORE_ACC_GRP r k i), 4, 2, .ro, 0⟩
def CORE_ACC_GRP_STATE (r k i : Nat) : Fld := ⟨(CORE_ACC_GRP r k i), 0, 2, .ro, 0⟩
def CORE_ACC_GRP_fields (r k i : Nat) : List Fld := [CORE_ACC_GRP_TENSOR_ID r k i, CORE_ACC_GRP_ROWS r k i, CORE_ACC_GRP_LONG_K r k i, CORE_ACC_GRP_MODE r k i, CORE_ACC_GRP_STATE r k i]
/-- CORE_ACC_KPOS (07, R210). -/
def CORE_ACC_KPOS (r k i : Nat) : Nat := 0xF0100800000 + 0x1000000 * r + 0x20000 * k + 0x208 + 0x20 * i
def CORE_ACC_KPOS_KOPEN (r k i : Nat) : Fld := ⟨(CORE_ACC_KPOS r k i), 32, 32, .ro, 0⟩
def CORE_ACC_KPOS_KNEXT (r k i : Nat) : Fld := ⟨(CORE_ACC_KPOS r k i), 0, 32, .ro, 0⟩
def CORE_ACC_KPOS_fields (r k i : Nat) : List Fld := [CORE_ACC_KPOS_KOPEN r k i, CORE_ACC_KPOS_KNEXT r k i]
/-- CORE_ACC_ORIGIN (07, R210). -/
def CORE_ACC_ORIGIN (r k i : Nat) : Nat := 0xF0100800000 + 0x1000000 * r + 0x20000 * k + 0x210 + 0x20 * i
def CORE_ACC_ORIGIN_COL (r k i : Nat) : Fld := ⟨(CORE_ACC_ORIGIN r k i), 32, 32, .ro, 0⟩
def CORE_ACC_ORIGIN_ROW (r k i : Nat) : Fld := ⟨(CORE_ACC_ORIGIN r k i), 0, 32, .ro, 0⟩
def CORE_ACC_ORIGIN_fields (r k i : Nat) : List Fld := [CORE_ACC_ORIGIN_COL r k i, CORE_ACC_ORIGIN_ROW r k i]
/-- CORE_ACC_STAT (07, R210). -/
def CORE_ACC_STAT (r k : Nat) : Nat := 0xF0100800000 + 0x1000000 * r + 0x20000 * k + 0x400
def CORE_ACC_STAT_CLOSES (r k : Nat) : Fld := ⟨(CORE_ACC_STAT r k), 32, 32, .ro, 0⟩
def CORE_ACC_STAT_LONG_K (r k : Nat) : Fld := ⟨(CORE_ACC_STAT r k), 16, 16, .ro, 0⟩
def CORE_ACC_STAT_OPEN (r k : Nat) : Fld := ⟨(CORE_ACC_STAT r k), 0, 5, .ro, 0⟩
def CORE_ACC_STAT_fields (r k : Nat) : List Fld := [CORE_ACC_STAT_CLOSES r k, CORE_ACC_STAT_LONG_K r k, CORE_ACC_STAT_OPEN r k]
/-- CORE_EPI_STAT (07, R210). -/
def CORE_EPI_STAT (r k : Nat) : Nat := 0xF0100800000 + 0x1000000 * r + 0x20000 * k + 0x408
def CORE_EPI_STAT_ROWS_READ (r k : Nat) : Fld := ⟨(CORE_EPI_STAT r k), 32, 32, .ro, 0⟩
def CORE_EPI_STAT_BUSY (r k : Nat) : Fld := ⟨(CORE_EPI_STAT r k), 0, 32, .ro, 0⟩
def CORE_EPI_STAT_fields (r k : Nat) : List Fld := [CORE_EPI_STAT_ROWS_READ r k, CORE_EPI_STAT_BUSY r k]
/-- VEC_STAT (08, R235). -/
def VEC_STAT (r k : Nat) : Nat := 0xF0100800000 + 0x1000000 * r + 0x20000 * k + 0x18000
def VEC_STAT_FRESH (r k : Nat) : Fld := ⟨(VEC_STAT r k), 16, 16, .ro, 0⟩
def VEC_STAT_INSN (r k : Nat) : Fld := ⟨(VEC_STAT r k), 4, 6, .ro, 0⟩
def VEC_STAT_POSTWAIT (r k : Nat) : Fld := ⟨(VEC_STAT r k), 1, 1, .ro, 0⟩
def VEC_STAT_BUSY (r k : Nat) : Fld := ⟨(VEC_STAT r k), 0, 1, .ro, 0⟩
def VEC_STAT_fields (r k : Nat) : List Fld := [VEC_STAT_FRESH r k, VEC_STAT_INSN r k, VEC_STAT_POSTWAIT r k, VEC_STAT_BUSY r k]
/-- VEC_ITER (08, R235). -/
def VEC_ITER (r k : Nat) : Nat := 0xF0100800000 + 0x1000000 * r + 0x20000 * k + 0x18008
def VEC_ITER_ITER (r k : Nat) : Fld := ⟨(VEC_ITER r k), 32, 16, .ro, 0⟩
def VEC_ITER_TAG (r k : Nat) : Fld := ⟨(VEC_ITER r k), 0, 32, .ro, 0⟩
def VEC_ITER_fields (r k : Nat) : List Fld := [VEC_ITER_ITER r k, VEC_ITER_TAG r k]
/-- VEC_CYCLES (08, R235). -/
def VEC_CYCLES (r k : Nat) : Nat := 0xF0100800000 + 0x1000000 * r + 0x20000 * k + 0x18010
def VEC_CYCLES_ACTIVE (r k : Nat) : Fld := ⟨(VEC_CYCLES r k), 32, 32, .ro, 0⟩
def VEC_CYCLES_POST_WAIT (r k : Nat) : Fld := ⟨(VEC_CYCLES r k), 0, 32, .ro, 0⟩
def VEC_CYCLES_fields (r k : Nat) : List Fld := [VEC_CYCLES_ACTIVE r k, VEC_CYCLES_POST_WAIT r k]
/-- VEC_CHECK_LOG (08, R235). -/
def VEC_CHECK_LOG (r k : Nat) : Nat := 0xF0100800000 + 0x1000000 * r + 0x20000 * k + 0x18018
def VEC_CHECK_LOG_VALID (r k : Nat) : Fld := ⟨(VEC_CHECK_LOG r k), 63, 1, .ro, 0⟩
def VEC_CHECK_LOG_INSN (r k : Nat) : Fld := ⟨(VEC_CHECK_LOG r k), 52, 6, .ro, 0⟩
def VEC_CHECK_LOG_REG (r k : Nat) : Fld := ⟨(VEC_CHECK_LOG r k), 47, 5, .ro, 0⟩
def VEC_CHECK_LOG_ROW (r k : Nat) : Fld := ⟨(VEC_CHECK_LOG r k), 42, 5, .ro, 0⟩
def VEC_CHECK_LOG_COL (r k : Nat) : Fld := ⟨(VEC_CHECK_LOG r k), 37, 5, .ro, 0⟩
def VEC_CHECK_LOG_PARITY (r k : Nat) : Fld := ⟨(VEC_CHECK_LOG r k), 36, 1, .ro, 0⟩
def VEC_CHECK_LOG_TAG (r k : Nat) : Fld := ⟨(VEC_CHECK_LOG r k), 0, 32, .ro, 0⟩
def VEC_CHECK_LOG_fields (r k : Nat) : List Fld := [VEC_CHECK_LOG_VALID r k, VEC_CHECK_LOG_INSN r k, VEC_CHECK_LOG_REG r k, VEC_CHECK_LOG_ROW r k, VEC_CHECK_LOG_COL r k, VEC_CHECK_LOG_PARITY r k, VEC_CHECK_LOG_TAG r k]
/-- KAL_STAT (09, R254). -/
def KAL_STAT (r : Nat) : Nat := 0xF0100000000 + 0x1000000 * r + 0x200000
def KAL_STAT_TAG (r : Nat) : Fld := ⟨(KAL_STAT r), 32, 32, .ro, 0⟩
def KAL_STAT_LIST_MAX (r : Nat) : Fld := ⟨(KAL_STAT r), 1, 7, .ro, 0⟩
def KAL_STAT_BUSY (r : Nat) : Fld := ⟨(KAL_STAT r), 0, 1, .ro, 0⟩
def KAL_STAT_fields (r : Nat) : List Fld := [KAL_STAT_TAG r, KAL_STAT_LIST_MAX r, KAL_STAT_BUSY r]
/-- KAL_CYCLES (09, R254). -/
def KAL_CYCLES (r : Nat) : Nat := 0xF0100000000 + 0x1000000 * r + 0x200008
def KAL_CYCLES_ACTIVE (r : Nat) : Fld := ⟨(KAL_CYCLES r), 32, 32, .ro, 0⟩
def KAL_CYCLES_WAIT (r : Nat) : Fld := ⟨(KAL_CYCLES r), 0, 32, .ro, 0⟩
def KAL_CYCLES_fields (r : Nat) : List Fld := [KAL_CYCLES_ACTIVE r, KAL_CYCLES_WAIT r]
/-- KAL_FAULT_LOG (09, R254). -/
def KAL_FAULT_LOG (r : Nat) : Nat := 0xF0100000000 + 0x1000000 * r + 0x200010
def KAL_FAULT_LOG_VALID (r : Nat) : Fld := ⟨(KAL_FAULT_LOG r), 63, 1, .ro, 0⟩
def KAL_FAULT_LOG_KIND (r : Nat) : Fld := ⟨(KAL_FAULT_LOG r), 61, 2, .ro, 0⟩
def KAL_FAULT_LOG_LQ (r : Nat) : Fld := ⟨(KAL_FAULT_LOG r), 60, 1, .ro, 0⟩
def KAL_FAULT_LOG_TENSOR_ID (r : Nat) : Fld := ⟨(KAL_FAULT_LOG r), 40, 20, .ro, 0⟩
def KAL_FAULT_LOG_ORIGIN (r : Nat) : Fld := ⟨(KAL_FAULT_LOG r), 32, 8, .ro, 0⟩
def KAL_FAULT_LOG_TAG (r : Nat) : Fld := ⟨(KAL_FAULT_LOG r), 0, 32, .ro, 0⟩
def KAL_FAULT_LOG_fields (r : Nat) : List Fld := [KAL_FAULT_LOG_VALID r, KAL_FAULT_LOG_KIND r, KAL_FAULT_LOG_LQ r, KAL_FAULT_LOG_TENSOR_ID r, KAL_FAULT_LOG_ORIGIN r, KAL_FAULT_LOG_TAG r]
/-- ABC_STAT (10, R277). -/
def ABC_STAT (r : Nat) : Nat := 0xF0100000000 + 0x1000000 * r + 0x300000
def ABC_STAT_TAG (r : Nat) : Fld := ⟨(ABC_STAT r), 32, 32, .ro, 0⟩
def ABC_STAT_SKIPS (r : Nat) : Fld := ⟨(ABC_STAT r), 16, 16, .ro, 0⟩
def ABC_STAT_OP (r : Nat) : Fld := ⟨(ABC_STAT r), 2, 3, .ro, 0⟩
def ABC_STAT_LEAD (r : Nat) : Fld := ⟨(ABC_STAT r), 1, 1, .ro, 0⟩
def ABC_STAT_BUSY (r : Nat) : Fld := ⟨(ABC_STAT r), 0, 1, .ro, 0⟩
def ABC_STAT_fields (r : Nat) : List Fld := [ABC_STAT_TAG r, ABC_STAT_SKIPS r, ABC_STAT_OP r, ABC_STAT_LEAD r, ABC_STAT_BUSY r]
/-- ABC_TABLE (10, R277). -/
def ABC_TABLE (r : Nat) : Nat := 0xF0100000000 + 0x1000000 * r + 0x300008
def ABC_TABLE_COUNT (r : Nat) : Fld := ⟨(ABC_TABLE r), 44, 14, .rw, 0⟩
def ABC_TABLE_BASE (r : Nat) : Fld := ⟨(ABC_TABLE r), 12, 32, .rw, 0⟩
def ABC_TABLE_fields (r : Nat) : List Fld := [ABC_TABLE_COUNT r, ABC_TABLE_BASE r]
/-- ABC_STEP (10, R277). -/
def ABC_STEP (r : Nat) : Nat := 0xF0100000000 + 0x1000000 * r + 0x300010
def ABC_STEP_NUMBER (r : Nat) : Fld := ⟨(ABC_STEP r), 0, 48, .rw, 0⟩
def ABC_STEP_fields (r : Nat) : List Fld := [ABC_STEP_NUMBER r]
/-- ABC_SCHED (10, R277). -/
def ABC_SCHED (r : Nat) : Nat := 0xF0100000000 + 0x1000000 * r + 0x300018
def ABC_SCHED_TAG (r : Nat) : Fld := ⟨(ABC_SCHED r), 0, 48, .ro, 0⟩
def ABC_SCHED_fields (r : Nat) : List Fld := [ABC_SCHED_TAG r]
/-- ABC_LOSS (10, R277). -/
def ABC_LOSS (r : Nat) : Nat := 0xF0100000000 + 0x1000000 * r + 0x300020
def ABC_LOSS_GROWTH_INT (r : Nat) : Fld := ⟨(ABC_LOSS r), 48, 16, .rw, 0⟩
def ABC_LOSS_CLEAN (r : Nat) : Fld := ⟨(ABC_LOSS r), 32, 16, .rw, 0⟩
def ABC_LOSS_BACKOFF (r : Nat) : Fld := ⟨(ABC_LOSS r), 24, 1, .rw, 1⟩
def ABC_LOSS_MIN_EXP (r : Nat) : Fld := ⟨(ABC_LOSS r), 16, 8, .rw, 0⟩
def ABC_LOSS_MAX_EXP (r : Nat) : Fld := ⟨(ABC_LOSS r), 8, 8, .rw, 24⟩
def ABC_LOSS_EXP (r : Nat) : Fld := ⟨(ABC_LOSS r), 0, 8, .rw, 0⟩
def ABC_LOSS_fields (r : Nat) : List Fld := [ABC_LOSS_GROWTH_INT r, ABC_LOSS_CLEAN r, ABC_LOSS_BACKOFF r, ABC_LOSS_MIN_EXP r, ABC_LOSS_MAX_EXP r, ABC_LOSS_EXP r]
/-- ABC_CHECK_LOG (10, R277). -/
def ABC_CHECK_LOG (r : Nat) : Nat := 0xF0100000000 + 0x1000000 * r + 0x300028
def ABC_CHECK_LOG_VALID (r : Nat) : Fld := ⟨(ABC_CHECK_LOG r), 63, 1, .ro, 0⟩
def ABC_CHECK_LOG_KIND (r : Nat) : Fld := ⟨(ABC_CHECK_LOG r), 61, 2, .ro, 0⟩
def ABC_CHECK_LOG_GROUP (r : Nat) : Fld := ⟨(ABC_CHECK_LOG r), 48, 13, .ro, 0⟩
def ABC_CHECK_LOG_TAG (r : Nat) : Fld := ⟨(ABC_CHECK_LOG r), 0, 32, .ro, 0⟩
def ABC_CHECK_LOG_fields (r : Nat) : List Fld := [ABC_CHECK_LOG_VALID r, ABC_CHECK_LOG_KIND r, ABC_CHECK_LOG_GROUP r, ABC_CHECK_LOG_TAG r]
/-- YOY_STAT (11, R297). -/
def YOY_STAT (r : Nat) : Nat := 0xF0100000000 + 0x1000000 * r + 0x400000
def YOY_STAT_TAG (r : Nat) : Fld := ⟨(YOY_STAT r), 32, 32, .ro, 0⟩
def YOY_STAT_SPILL_USED (r : Nat) : Fld := ⟨(YOY_STAT r), 12, 20, .ro, 0⟩
def YOY_STAT_OP (r : Nat) : Fld := ⟨(YOY_STAT r), 1, 3, .ro, 0⟩
def YOY_STAT_BUSY (r : Nat) : Fld := ⟨(YOY_STAT r), 0, 1, .ro, 0⟩
def YOY_STAT_fields (r : Nat) : List Fld := [YOY_STAT_TAG r, YOY_STAT_SPILL_USED r, YOY_STAT_OP r, YOY_STAT_BUSY r]
/-- YOY_POOL (11, R297). -/
def YOY_POOL (r : Nat) : Nat := 0xF0100000000 + 0x1000000 * r + 0x400008
def YOY_POOL_CHUNKS (r : Nat) : Fld := ⟨(YOY_POOL r), 44, 20, .rw, 0⟩
def YOY_POOL_BASE (r : Nat) : Fld := ⟨(YOY_POOL r), 20, 24, .rw, 0⟩
def YOY_POOL_fields (r : Nat) : List Fld := [YOY_POOL_CHUNKS r, YOY_POOL_BASE r]
/-- YOY_SPILL (11, R297). -/
def YOY_SPILL (r : Nat) : Nat := 0xF0100000000 + 0x1000000 * r + 0x400010
def YOY_SPILL_CHUNKS (r : Nat) : Fld := ⟨(YOY_SPILL r), 44, 20, .rw, 0⟩
def YOY_SPILL_BASE (r : Nat) : Fld := ⟨(YOY_SPILL r), 20, 24, .rw, 0⟩
def YOY_SPILL_fields (r : Nat) : List Fld := [YOY_SPILL_CHUNKS r, YOY_SPILL_BASE r]
/-- YOY_TABLE (11, R297). -/
def YOY_TABLE (r : Nat) : Nat := 0xF0100000000 + 0x1000000 * r + 0x400018
def YOY_TABLE_ENTRIES (r : Nat) : Fld := ⟨(YOY_TABLE r), 44, 17, .rw, 0⟩
def YOY_TABLE_BASE (r : Nat) : Fld := ⟨(YOY_TABLE r), 12, 32, .rw, 0⟩
def YOY_TABLE_fields (r : Nat) : List Fld := [YOY_TABLE_ENTRIES r, YOY_TABLE_BASE r]
/-- YOY_MAP (11, R297). -/
def YOY_MAP (r : Nat) : Nat := 0xF0100000000 + 0x1000000 * r + 0x400020
def YOY_MAP_BASE (r : Nat) : Fld := ⟨(YOY_MAP r), 12, 32, .rw, 0⟩
def YOY_MAP_fields (r : Nat) : List Fld := [YOY_MAP_BASE r]
/-- YOY_BUDGET (11, R297). -/
def YOY_BUDGET (r : Nat) : Nat := 0xF0100000000 + 0x1000000 * r + 0x400028
def YOY_BUDGET_KEEP (r : Nat) : Fld := ⟨(YOY_BUDGET r), 32, 20, .rwb, 0⟩
def YOY_BUDGET_ACT (r : Nat) : Fld := ⟨(YOY_BUDGET r), 0, 20, .rwb, 0⟩
def YOY_BUDGET_fields (r : Nat) : List Fld := [YOY_BUDGET_KEEP r, YOY_BUDGET_ACT r]
/-- YOY_USED (11, R297). -/
def YOY_USED (r : Nat) : Nat := 0xF0100000000 + 0x1000000 * r + 0x400030
def YOY_USED_NOTKEPT (r : Nat) : Fld := ⟨(YOY_USED r), 40, 20, .ro, 0⟩
def YOY_USED_KEEP (r : Nat) : Fld := ⟨(YOY_USED r), 20, 20, .ro, 0⟩
def YOY_USED_ACT (r : Nat) : Fld := ⟨(YOY_USED r), 0, 20, .ro, 0⟩
def YOY_USED_fields (r : Nat) : List Fld := [YOY_USED_NOTKEPT r, YOY_USED_KEEP r, YOY_USED_ACT r]
/-- YOY_LOG (11, R297). -/
def YOY_LOG (r : Nat) : Nat := 0xF0100000000 + 0x1000000 * r + 0x400038
def YOY_LOG_VALID (r : Nat) : Fld := ⟨(YOY_LOG r), 63, 1, .ro, 0⟩
def YOY_LOG_KIND (r : Nat) : Fld := ⟨(YOY_LOG r), 60, 3, .ro, 0⟩
def YOY_LOG_HANDLE (r : Nat) : Fld := ⟨(YOY_LOG r), 32, 16, .ro, 0⟩
def YOY_LOG_TAG (r : Nat) : Fld := ⟨(YOY_LOG r), 0, 32, .ro, 0⟩
def YOY_LOG_fields (r : Nat) : List Fld := [YOY_LOG_VALID r, YOY_LOG_KIND r, YOY_LOG_HANDLE r, YOY_LOG_TAG r]
/-- HUB_SNAP (11, R297). -/
def HUB_SNAP (i : Nat) : Nat := 0xF0000000000 + 0x480 + 0x8 * i
def HUB_SNAP_RATE (i : Nat) : Fld := ⟨(HUB_SNAP i), 48, 16, .rwb, 0⟩
def HUB_SNAP_LEFT (i : Nat) : Fld := ⟨(HUB_SNAP i), 22, 13, .ro, 0⟩
def HUB_SNAP_STATE (i : Nat) : Fld := ⟨(HUB_SNAP i), 0, 2, .ro, 0⟩
def HUB_SNAP_fields (i : Nat) : List Fld := [HUB_SNAP_RATE i, HUB_SNAP_LEFT i, HUB_SNAP_STATE i]
/-- RGN_CHK_CTRL (12, R322). -/
def RGN_CHK_CTRL (r : Nat) : Nat := 0xF0100000000 + 0x1000000 * r + 0x800
def RGN_CHK_CTRL_INTERVAL_MIN (r : Nat) : Fld := ⟨(RGN_CHK_CTRL r), 32, 8, .rw, 30⟩
def RGN_CHK_CTRL_KAK_STOP (r : Nat) : Fld := ⟨(RGN_CHK_CTRL r), 16, 1, .rw, 1⟩
def RGN_CHK_CTRL_ABC_RATE (r : Nat) : Fld := ⟨(RGN_CHK_CTRL r), 12, 4, .rwb, 5⟩
def RGN_CHK_CTRL_VEC_RATE (r : Nat) : Fld := ⟨(RGN_CHK_CTRL r), 8, 4, .rwb, 5⟩
def RGN_CHK_CTRL_MAT_RATE (r : Nat) : Fld := ⟨(RGN_CHK_CTRL r), 4, 4, .rwb, 5⟩
def RGN_CHK_CTRL_fields (r : Nat) : List Fld := [RGN_CHK_CTRL_INTERVAL_MIN r, RGN_CHK_CTRL_KAK_STOP r, RGN_CHK_CTRL_ABC_RATE r, RGN_CHK_CTRL_VEC_RATE r, RGN_CHK_CTRL_MAT_RATE r]
/-- RGN_DUP_MAT (12, R322). -/
def RGN_DUP_MAT (r : Nat) : Nat := 0xF0100000000 + 0x1000000 * r + 0x808
def RGN_DUP_MAT_SAMPLED (r : Nat) : Fld := ⟨(RGN_DUP_MAT r), 32, 32, .ro, 0⟩
def RGN_DUP_MAT_SKIPPED (r : Nat) : Fld := ⟨(RGN_DUP_MAT r), 0, 32, .ro, 0⟩
def RGN_DUP_MAT_fields (r : Nat) : List Fld := [RGN_DUP_MAT_SAMPLED r, RGN_DUP_MAT_SKIPPED r]
/-- RGN_DUP_VEC (12, R322). -/
def RGN_DUP_VEC (r : Nat) : Nat := 0xF0100000000 + 0x1000000 * r + 0x810
def RGN_DUP_VEC_SAMPLED (r : Nat) : Fld := ⟨(RGN_DUP_VEC r), 32, 32, .ro, 0⟩
def RGN_DUP_VEC_SKIPPED (r : Nat) : Fld := ⟨(RGN_DUP_VEC r), 0, 32, .ro, 0⟩
def RGN_DUP_VEC_fields (r : Nat) : List Fld := [RGN_DUP_VEC_SAMPLED r, RGN_DUP_VEC_SKIPPED r]
/-- RGN_DUP_ABC (12, R322). -/
def RGN_DUP_ABC (r : Nat) : Nat := 0xF0100000000 + 0x1000000 * r + 0x818
def RGN_DUP_ABC_SAMPLED (r : Nat) : Fld := ⟨(RGN_DUP_ABC r), 32, 32, .ro, 0⟩
def RGN_DUP_ABC_SKIPPED (r : Nat) : Fld := ⟨(RGN_DUP_ABC r), 0, 32, .ro, 0⟩
def RGN_DUP_ABC_fields (r : Nat) : List Fld := [RGN_DUP_ABC_SAMPLED r, RGN_DUP_ABC_SKIPPED r]
/-- RGN_DUP_LOG (12, R322). -/
def RGN_DUP_LOG (r : Nat) : Nat := 0xF0100000000 + 0x1000000 * r + 0x820
def RGN_DUP_LOG_VALID (r : Nat) : Fld := ⟨(RGN_DUP_LOG r), 63, 1, .ro, 0⟩
def RGN_DUP_LOG_KIND (r : Nat) : Fld := ⟨(RGN_DUP_LOG r), 61, 2, .ro, 0⟩
def RGN_DUP_LOG_TWIN (r : Nat) : Fld := ⟨(RGN_DUP_LOG r), 48, 6, .ro, 0⟩
def RGN_DUP_LOG_WORKER (r : Nat) : Fld := ⟨(RGN_DUP_LOG r), 42, 6, .ro, 0⟩
def RGN_DUP_LOG_SLOT (r : Nat) : Fld := ⟨(RGN_DUP_LOG r), 36, 6, .ro, 0⟩
def RGN_DUP_LOG_TAG (r : Nat) : Fld := ⟨(RGN_DUP_LOG r), 0, 32, .ro, 0⟩
def RGN_DUP_LOG_fields (r : Nat) : List Fld := [RGN_DUP_LOG_VALID r, RGN_DUP_LOG_KIND r, RGN_DUP_LOG_TWIN r, RGN_DUP_LOG_WORKER r, RGN_DUP_LOG_SLOT r, RGN_DUP_LOG_TAG r]
/-- RGN_CAROUSEL (12, R322). -/
def RGN_CAROUSEL (r : Nat) : Nat := 0xF0100000000 + 0x1000000 * r + 0x828
def RGN_CAROUSEL_NEXT_OUT (r : Nat) : Fld := ⟨(RGN_CAROUSEL r), 58, 6, .ro, 0⟩
def RGN_CAROUSEL_NEXT_BEAT (r : Nat) : Fld := ⟨(RGN_CAROUSEL r), 0, 48, .ro, 0⟩
def RGN_CAROUSEL_fields (r : Nat) : List Fld := [RGN_CAROUSEL_NEXT_OUT r, RGN_CAROUSEL_NEXT_BEAT r]
/-- RGN_TWIN_PHASE (12, R322). -/
def RGN_TWIN_PHASE (r : Nat) : Nat := 0xF0100000000 + 0x1000000 * r + 0x830
def RGN_TWIN_PHASE_SINCE_S (r : Nat) : Fld := ⟨(RGN_TWIN_PHASE r), 32, 32, .ro, 0⟩
def RGN_TWIN_PHASE_TWIN1_PHASE (r : Nat) : Fld := ⟨(RGN_TWIN_PHASE r), 8, 2, .ro, 0⟩
def RGN_TWIN_PHASE_TWIN0_PHASE (r : Nat) : Fld := ⟨(RGN_TWIN_PHASE r), 0, 2, .ro, 0⟩
def RGN_TWIN_PHASE_fields (r : Nat) : List Fld := [RGN_TWIN_PHASE_SINCE_S r, RGN_TWIN_PHASE_TWIN1_PHASE r, RGN_TWIN_PHASE_TWIN0_PHASE r]
/-- RGN_SUSPECT (12, R322). -/
def RGN_SUSPECT (r : Nat) : Nat := 0xF0100000000 + 0x1000000 * r + 0x838
def RGN_SUSPECT_SUSPECT (r : Nat) : Fld := ⟨(RGN_SUSPECT r), 0, 42, .ro, 0⟩
def RGN_SUSPECT_fields (r : Nat) : List Fld := [RGN_SUSPECT_SUSPECT r]
/-- RGN_VOFS0 (12, R322). -/
def RGN_VOFS0 (r : Nat) : Nat := 0xF0100000000 + 0x1000000 * r + 0x840
def RGN_VOFS0_STEPS (r : Nat) : Fld := ⟨(RGN_VOFS0 r), 0, 63, .ro, 0⟩
def RGN_VOFS0_fields (r : Nat) : List Fld := [RGN_VOFS0_STEPS r]
/-- RGN_VOFS1 (12, R322). -/
def RGN_VOFS1 (r : Nat) : Nat := 0xF0100000000 + 0x1000000 * r + 0x848
def RGN_VOFS1_STEPS (r : Nat) : Fld := ⟨(RGN_VOFS1 r), 0, 63, .ro, 0⟩
def RGN_VOFS1_fields (r : Nat) : List Fld := [RGN_VOFS1_STEPS r]
/-- RGN_KAK_STAT (12, R322). -/
def RGN_KAK_STAT (r : Nat) : Nat := 0xF0100000000 + 0x1000000 * r + 0x850
def RGN_KAK_STAT_PASSES (r : Nat) : Fld := ⟨(RGN_KAK_STAT r), 32, 32, .ro, 0⟩
def RGN_KAK_STAT_FAILS (r : Nat) : Fld := ⟨(RGN_KAK_STAT r), 16, 16, .ro, 0⟩
def RGN_KAK_STAT_LAST_FAIL (r : Nat) : Fld := ⟨(RGN_KAK_STAT r), 0, 6, .ro, 63⟩
def RGN_KAK_STAT_fields (r : Nat) : List Fld := [RGN_KAK_STAT_PASSES r, RGN_KAK_STAT_FAILS r, RGN_KAK_STAT_LAST_FAIL r]
/-- HUB_SEAL (12, R322). -/
def HUB_SEAL (i : Nat) : Nat := 0xF0000000000 + 0x3000 + 0x8 * i
def HUB_SEAL_SEALED (i : Nat) : Fld := ⟨(HUB_SEAL i), 63, 1, .ro, 0⟩
def HUB_SEAL_NOTE_EN (i : Nat) : Fld := ⟨(HUB_SEAL i), 60, 1, .rw, 0⟩
def HUB_SEAL_NOTE_JAR (i : Nat) : Fld := ⟨(HUB_SEAL i), 48, 12, .rw, 0⟩
def HUB_SEAL_CAND (i : Nat) : Fld := ⟨(HUB_SEAL i), 0, 48, .rw, 0⟩
def HUB_SEAL_fields (i : Nat) : List Fld := [HUB_SEAL_SEALED i, HUB_SEAL_NOTE_EN i, HUB_SEAL_NOTE_JAR i, HUB_SEAL_CAND i]
/-- HUB_FPX_LOG (12, R322). -/
def HUB_FPX_LOG (i : Nat) : Nat := 0xF0000000000 + 0x3040 + 0x8 * i
def HUB_FPX_LOG_VALID (i : Nat) : Fld := ⟨(HUB_FPX_LOG i), 63, 1, .ro, 0⟩
def HUB_FPX_LOG_SELF (i : Nat) : Fld := ⟨(HUB_FPX_LOG i), 62, 1, .ro, 0⟩
def HUB_FPX_LOG_MAJORITY (i : Nat) : Fld := ⟨(HUB_FPX_LOG i), 61, 1, .ro, 0⟩
def HUB_FPX_LOG_OUTLIERS (i : Nat) : Fld := ⟨(HUB_FPX_LOG i), 32, 16, .ro, 0⟩
def HUB_FPX_LOG_FIRST_PART (i : Nat) : Fld := ⟨(HUB_FPX_LOG i), 30, 2, .ro, 0⟩
def HUB_FPX_LOG_FIRST_NODE (i : Nat) : Fld := ⟨(HUB_FPX_LOG i), 0, 16, .ro, 65535⟩
def HUB_FPX_LOG_fields (i : Nat) : List Fld := [HUB_FPX_LOG_VALID i, HUB_FPX_LOG_SELF i, HUB_FPX_LOG_MAJORITY i, HUB_FPX_LOG_OUTLIERS i, HUB_FPX_LOG_FIRST_PART i, HUB_FPX_LOG_FIRST_NODE i]
/-- MEM_STAT (13, R345). -/
def MEM_STAT (r : Nat) : Nat := 0xF0100000000 + 0x1000000 * r + 0x100000
def MEM_STAT_RECAL (r : Nat) : Fld := ⟨(MEM_STAT r), 9, 3, .ro, 0⟩
def MEM_STAT_SPARE_OUT (r : Nat) : Fld := ⟨(MEM_STAT r), 6, 3, .ro, 0⟩
def MEM_STAT_UP (r : Nat) : Fld := ⟨(MEM_STAT r), 0, 3, .ro, 0⟩
def MEM_STAT_fields (r : Nat) : List Fld := [MEM_STAT_RECAL r, MEM_STAT_SPARE_OUT r, MEM_STAT_UP r]
/-- MEM_ERR_LOG (13, R345). -/
def MEM_ERR_LOG (r : Nat) : Nat := 0xF0100000000 + 0x1000000 * r + 0x100008
def MEM_ERR_LOG_VALID (r : Nat) : Fld := ⟨(MEM_ERR_LOG r), 63, 1, .ro, 0⟩
def MEM_ERR_LOG_SCRUB (r : Nat) : Fld := ⟨(MEM_ERR_LOG r), 62, 1, .ro, 0⟩
def MEM_ERR_LOG_STACK (r : Nat) : Fld := ⟨(MEM_ERR_LOG r), 60, 2, .ro, 0⟩
def MEM_ERR_LOG_PART (r : Nat) : Fld := ⟨(MEM_ERR_LOG r), 58, 2, .ro, 0⟩
def MEM_ERR_LOG_PC (r : Nat) : Fld := ⟨(MEM_ERR_LOG r), 52, 6, .ro, 0⟩
def MEM_ERR_LOG_DPA (r : Nat) : Fld := ⟨(MEM_ERR_LOG r), 0, 44, .ro, 0⟩
def MEM_ERR_LOG_fields (r : Nat) : List Fld := [MEM_ERR_LOG_VALID r, MEM_ERR_LOG_SCRUB r, MEM_ERR_LOG_STACK r, MEM_ERR_LOG_PART r, MEM_ERR_LOG_PC r, MEM_ERR_LOG_DPA r]
/-- MEM_CNT (13, R345). -/
def MEM_CNT (r i : Nat) : Nat := 0xF0100000000 + 0x1000000 * r + 0x100010 + 0x8 * i
def MEM_CNT_CORRECTED (r i : Nat) : Fld := ⟨(MEM_CNT r i), 40, 24, .ro, 0⟩
def MEM_CNT_SPARED (r i : Nat) : Fld := ⟨(MEM_CNT r i), 16, 16, .ro, 0⟩
def MEM_CNT_UNCORR (r i : Nat) : Fld := ⟨(MEM_CNT r i), 0, 16, .ro, 0⟩
def MEM_CNT_fields (r i : Nat) : List Fld := [MEM_CNT_CORRECTED r i, MEM_CNT_SPARED r i, MEM_CNT_UNCORR r i]
/-- MEM_SCRUB (13, R345). -/
def MEM_SCRUB (r : Nat) : Nat := 0xF0100000000 + 0x1000000 * r + 0x100028
def MEM_SCRUB_PASSES (r : Nat) : Fld := ⟨(MEM_SCRUB r), 32, 32, .ro, 0⟩
def MEM_SCRUB_PACE_H (r : Nat) : Fld := ⟨(MEM_SCRUB r), 0, 4, .rw, 12⟩
def MEM_SCRUB_fields (r : Nat) : List Fld := [MEM_SCRUB_PASSES r, MEM_SCRUB_PACE_H r]
/-- MEM_SPARE (13, R345). -/
def MEM_SPARE (r : Nat) : Nat := 0xF0100000000 + 0x1000000 * r + 0x100030
def MEM_SPARE_THRESH (r : Nat) : Fld := ⟨(MEM_SPARE r), 0, 8, .rw, 4⟩
def MEM_SPARE_fields (r : Nat) : List Fld := [MEM_SPARE_THRESH r]
/-- MEM_RECAL (13, R345). -/
def MEM_RECAL (r : Nat) : Nat := 0xF0100000000 + 0x1000000 * r + 0x100038
def MEM_RECAL_DELTA_C (r : Nat) : Fld := ⟨(MEM_RECAL r), 8, 8, .rw, 4⟩
def MEM_RECAL_INTERVAL_S (r : Nat) : Fld := ⟨(MEM_RECAL r), 0, 8, .rw, 10⟩
def MEM_RECAL_fields (r : Nat) : List Fld := [MEM_RECAL_DELTA_C r, MEM_RECAL_INTERVAL_S r]
/-- MEM_FCAST (13, R345). -/
def MEM_FCAST (r i : Nat) : Nat := 0xF0100000000 + 0x1000000 * r + 0x100040 + 0x8 * i
def MEM_FCAST_BEATS (r i : Nat) : Fld := ⟨(MEM_FCAST r i), 56, 8, .ro, 0⟩
def MEM_FCAST_LOSS_BP (r i : Nat) : Fld := ⟨(MEM_FCAST r i), 48, 8, .ro, 0⟩
def MEM_FCAST_BEAT (r i : Nat) : Fld := ⟨(MEM_FCAST r i), 0, 48, .ro, 0⟩
def MEM_FCAST_fields (r i : Nat) : List Fld := [MEM_FCAST_BEATS r i, MEM_FCAST_LOSS_BP r i, MEM_FCAST_BEAT r i]
/-- JIG_STAT (13, R345). -/
def JIG_STAT : Nat := 0xF00000D0000 + 0x0
def JIG_STAT_TAG : Fld := ⟨JIG_STAT, 32, 32, .ro, 0⟩
def JIG_STAT_PART : Fld := ⟨JIG_STAT, 4, 2, .ro, 0⟩
def JIG_STAT_OP1 : Fld := ⟨JIG_STAT, 1, 1, .ro, 0⟩
def JIG_STAT_BUSY : Fld := ⟨JIG_STAT, 0, 1, .ro, 0⟩
def JIG_STAT_fields : List Fld := [JIG_STAT_TAG, JIG_STAT_PART, JIG_STAT_OP1, JIG_STAT_BUSY]
/-- JIG_BYTES (13, R345). -/
def JIG_BYTES : Nat := 0xF00000D0000 + 0x8
def JIG_BYTES_BYTES : Fld := ⟨JIG_BYTES, 0, 64, .ro, 0⟩
def JIG_BYTES_fields : List Fld := [JIG_BYTES_BYTES]
/-- JIG_LOG (13, R345). -/
def JIG_LOG (i : Nat) : Nat := 0xF00000D0000 + 0x100 + 0x8 * i
def JIG_LOG_VALID (i : Nat) : Fld := ⟨(JIG_LOG i), 63, 1, .ro, 0⟩
def JIG_LOG_KIND (i : Nat) : Fld := ⟨(JIG_LOG i), 62, 1, .ro, 0⟩
def JIG_LOG_SHARD (i : Nat) : Fld := ⟨(JIG_LOG i), 40, 5, .ro, 0⟩
def JIG_LOG_OFFSET (i : Nat) : Fld := ⟨(JIG_LOG i), 0, 40, .ro, 0⟩
def JIG_LOG_fields (i : Nat) : List Fld := [JIG_LOG_VALID i, JIG_LOG_KIND i, JIG_LOG_SHARD i, JIG_LOG_OFFSET i]
/-- FAB_PORT_CFG (14, R367). -/
def FAB_PORT_CFG (p : Nat) : Nat := 0xF0000080000 + 0x2000 * p + 0x0
def FAB_PORT_CFG_PARTS (p : Nat) : Fld := ⟨(FAB_PORT_CFG p), 16, 4, .rw, 0⟩
def FAB_PORT_CFG_BEAT (p : Nat) : Fld := ⟨(FAB_PORT_CFG p), 8, 1, .rw, 0⟩
def FAB_PORT_CFG_ROLE (p : Nat) : Fld := ⟨(FAB_PORT_CFG p), 4, 4, .rw, 0⟩
def FAB_PORT_CFG_ENABLE (p : Nat) : Fld := ⟨(FAB_PORT_CFG p), 0, 1, .rw, 0⟩
def FAB_PORT_CFG_fields (p : Nat) : List Fld := [FAB_PORT_CFG_PARTS p, FAB_PORT_CFG_BEAT p, FAB_PORT_CFG_ROLE p, FAB_PORT_CFG_ENABLE p]
/-- FAB_PORT_STAT (14, R367). -/
def FAB_PORT_STAT (p : Nat) : Nat := 0xF0000080000 + 0x2000 * p + 0x8
def FAB_PORT_STAT_PEER_NODE (p : Nat) : Fld := ⟨(FAB_PORT_STAT p), 48, 16, .ro, 65535⟩
def FAB_PORT_STAT_PEER_ROLE (p : Nat) : Fld := ⟨(FAB_PORT_STAT p), 44, 4, .ro, 0⟩
def FAB_PORT_STAT_PEER_SWITCH (p : Nat) : Fld := ⟨(FAB_PORT_STAT p), 43, 1, .ro, 0⟩
def FAB_PORT_STAT_PEER_BEAT (p : Nat) : Fld := ⟨(FAB_PORT_STAT p), 42, 1, .ro, 0⟩
def FAB_PORT_STAT_LANES_UP (p : Nat) : Fld := ⟨(FAB_PORT_STAT p), 32, 4, .ro, 0⟩
def FAB_PORT_STAT_RETRAINS (p : Nat) : Fld := ⟨(FAB_PORT_STAT p), 16, 16, .ro, 0⟩
def FAB_PORT_STAT_STATE (p : Nat) : Fld := ⟨(FAB_PORT_STAT p), 0, 3, .ro, 0⟩
def FAB_PORT_STAT_fields (p : Nat) : List Fld := [FAB_PORT_STAT_PEER_NODE p, FAB_PORT_STAT_PEER_ROLE p, FAB_PORT_STAT_PEER_SWITCH p, FAB_PORT_STAT_PEER_BEAT p, FAB_PORT_STAT_LANES_UP p, FAB_PORT_STAT_RETRAINS p, FAB_PORT_STAT_STATE p]
/-- FAB_PORT_DELAY (14, R367). -/
def FAB_PORT_DELAY (p : Nat) : Nat := 0xF0000080000 + 0x2000 * p + 0x10
def FAB_PORT_DELAY_DELAY_PS (p : Nat) : Fld := ⟨(FAB_PORT_DELAY p), 0, 32, .ro, 0⟩
def FAB_PORT_DELAY_fields (p : Nat) : List Fld := [FAB_PORT_DELAY_DELAY_PS p]
/-- FAB_PORT_CNT0 (14, R367). -/
def FAB_PORT_CNT0 (p : Nat) : Nat := 0xF0000080000 + 0x2000 * p + 0x18
def FAB_PORT_CNT0_FEC_CORR (p : Nat) : Fld := ⟨(FAB_PORT_CNT0 p), 32, 32, .ro, 0⟩
def FAB_PORT_CNT0_FEC_UNCORR (p : Nat) : Fld := ⟨(FAB_PORT_CNT0 p), 0, 32, .ro, 0⟩
def FAB_PORT_CNT0_fields (p : Nat) : List Fld := [FAB_PORT_CNT0_FEC_CORR p, FAB_PORT_CNT0_FEC_UNCORR p]
/-- FAB_PORT_CNT1 (14, R367). -/
def FAB_PORT_CNT1 (p : Nat) : Nat := 0xF0000080000 + 0x2000 * p + 0x20
def FAB_PORT_CNT1_CRC_ERR (p : Nat) : Fld := ⟨(FAB_PORT_CNT1 p), 32, 32, .ro, 0⟩
def FAB_PORT_CNT1_REPLAYS (p : Nat) : Fld := ⟨(FAB_PORT_CNT1 p), 0, 32, .ro, 0⟩
def FAB_PORT_CNT1_fields (p : Nat) : List Fld := [FAB_PORT_CNT1_CRC_ERR p, FAB_PORT_CNT1_REPLAYS p]
/-- FAB_PORT_RECAL (14, R367). -/
def FAB_PORT_RECAL (p : Nat) : Nat := 0xF0000080000 + 0x2000 * p + 0x28
def FAB_PORT_RECAL_LANE (p : Nat) : Fld := ⟨(FAB_PORT_RECAL p), 50, 2, .ro, 0⟩
def FAB_PORT_RECAL_BEAT (p : Nat) : Fld := ⟨(FAB_PORT_RECAL p), 0, 48, .ro, 0⟩
def FAB_PORT_RECAL_fields (p : Nat) : List Fld := [FAB_PORT_RECAL_LANE p, FAB_PORT_RECAL_BEAT p]
/-- FAB_NODE (14, R367). -/
def FAB_NODE : Nat := 0xF0000080000 + 0x30000
def FAB_NODE_ID : Fld := ⟨FAB_NODE, 0, 16, .rw, 65535⟩
def FAB_NODE_fields : List Fld := [FAB_NODE_ID]
/-- FAB_TOPO (14, R367). -/
def FAB_TOPO : Nat := 0xF0000080000 + 0x30008
def FAB_TOPO_TORUS : Fld := ⟨FAB_TOPO, 8, 4, .rw, 0⟩
def FAB_TOPO_NAXES : Fld := ⟨FAB_TOPO, 0, 3, .rw, 0⟩
def FAB_TOPO_fields : List Fld := [FAB_TOPO_TORUS, FAB_TOPO_NAXES]
/-- FAB_AXIS (14, R367). -/
def FAB_AXIS : Nat := 0xF0000080000 + 0x30010
def FAB_AXIS_SIZE3 : Fld := ⟨FAB_AXIS, 48, 16, .rw, 0⟩
def FAB_AXIS_SIZE2 : Fld := ⟨FAB_AXIS, 32, 16, .rw, 0⟩
def FAB_AXIS_SIZE1 : Fld := ⟨FAB_AXIS, 16, 16, .rw, 0⟩
def FAB_AXIS_SIZE0 : Fld := ⟨FAB_AXIS, 0, 16, .rw, 0⟩
def FAB_AXIS_fields : List Fld := [FAB_AXIS_SIZE3, FAB_AXIS_SIZE2, FAB_AXIS_SIZE1, FAB_AXIS_SIZE0]
/-- FAB_RECAL (14, R367). -/
def FAB_RECAL : Nat := 0xF0000080000 + 0x30018
def FAB_RECAL_ERR_LOG2 : Fld := ⟨FAB_RECAL, 8, 8, .rw, 20⟩
def FAB_RECAL_INTERVAL_S : Fld := ⟨FAB_RECAL, 0, 8, .rw, 30⟩
def FAB_RECAL_fields : List Fld := [FAB_RECAL_ERR_LOG2, FAB_RECAL_INTERVAL_S]
/-- FAB_OE (14, R367). -/
def FAB_OE (i : Nat) : Nat := 0xF0000080000 + 0x30100 + 0x8 * i
def FAB_OE_TEMP_C (i : Nat) : Fld := ⟨(FAB_OE i), 40, 8, .ro, 0⟩
def FAB_OE_VIOL (i : Nat) : Fld := ⟨(FAB_OE i), 16, 16, .ro, 0⟩
def FAB_OE_STATE (i : Nat) : Fld := ⟨(FAB_OE i), 0, 3, .ro, 0⟩
def FAB_OE_fields (i : Nat) : List Fld := [FAB_OE_TEMP_C i, FAB_OE_VIOL i, FAB_OE_STATE i]
/-- FAB_ERR_LOG (14, R367). -/
def FAB_ERR_LOG (i : Nat) : Nat := 0xF0000080000 + 0x30200 + 0x8 * i
def FAB_ERR_LOG_VALID (i : Nat) : Fld := ⟨(FAB_ERR_LOG i), 63, 1, .ro, 0⟩
def FAB_ERR_LOG_KIND (i : Nat) : Fld := ⟨(FAB_ERR_LOG i), 60, 3, .ro, 0⟩
def FAB_ERR_LOG_PORT (i : Nat) : Fld := ⟨(FAB_ERR_LOG i), 48, 6, .ro, 0⟩
def FAB_ERR_LOG_NODE (i : Nat) : Fld := ⟨(FAB_ERR_LOG i), 16, 16, .ro, 0⟩
def FAB_ERR_LOG_fields (i : Nat) : List Fld := [FAB_ERR_LOG_VALID i, FAB_ERR_LOG_KIND i, FAB_ERR_LOG_PORT i, FAB_ERR_LOG_NODE i]
/-- TCN_GTABLE (15, R393). -/
def TCN_GTABLE (p : Nat) : Nat := 0xF00000C0000 + 0x1000 * p + 0x0
def TCN_GTABLE_COUNT (p : Nat) : Fld := ⟨(TCN_GTABLE p), 44, 9, .rw, 0⟩
def TCN_GTABLE_BASE (p : Nat) : Fld := ⟨(TCN_GTABLE p), 12, 32, .rw, 0⟩
def TCN_GTABLE_fields (p : Nat) : List Fld := [TCN_GTABLE_COUNT p, TCN_GTABLE_BASE p]
/-- TCN_STAT (15, R393). -/
def TCN_STAT (p : Nat) : Nat := 0xF00000C0000 + 0x1000 * p + 0x8
def TCN_STAT_TC_GROUP (p : Nat) : Fld := ⟨(TCN_STAT p), 56, 8, .ro, 0⟩
def TCN_STAT_BULK_GROUP (p : Nat) : Fld := ⟨(TCN_STAT p), 48, 8, .ro, 0⟩
def TCN_STAT_TC_OP (p : Nat) : Fld := ⟨(TCN_STAT p), 5, 3, .ro, 0⟩
def TCN_STAT_BULK_OP (p : Nat) : Fld := ⟨(TCN_STAT p), 2, 3, .ro, 0⟩
def TCN_STAT_TC_BUSY (p : Nat) : Fld := ⟨(TCN_STAT p), 1, 1, .ro, 0⟩
def TCN_STAT_BULK_BUSY (p : Nat) : Fld := ⟨(TCN_STAT p), 0, 1, .ro, 0⟩
def TCN_STAT_fields (p : Nat) : List Fld := [TCN_STAT_TC_GROUP p, TCN_STAT_BULK_GROUP p, TCN_STAT_TC_OP p, TCN_STAT_BULK_OP p, TCN_STAT_TC_BUSY p, TCN_STAT_BULK_BUSY p]
/-- TCN_CNT (15, R393). -/
def TCN_CNT (p : Nat) : Nat := 0xF00000C0000 + 0x1000 * p + 0x10
def TCN_CNT_BULK_DONE (p : Nat) : Fld := ⟨(TCN_CNT p), 32, 32, .ro, 0⟩
def TCN_CNT_TC_DONE (p : Nat) : Fld := ⟨(TCN_CNT p), 0, 32, .ro, 0⟩
def TCN_CNT_fields (p : Nat) : List Fld := [TCN_CNT_BULK_DONE p, TCN_CNT_TC_DONE p]
/-- TCN_WAIT (15, R393). -/
def TCN_WAIT (p : Nat) : Nat := 0xF00000C0000 + 0x1000 * p + 0x18
def TCN_WAIT_BULK_NS (p : Nat) : Fld := ⟨(TCN_WAIT p), 32, 32, .ro, 0⟩
def TCN_WAIT_TC_NS (p : Nat) : Fld := ⟨(TCN_WAIT p), 0, 32, .ro, 0⟩
def TCN_WAIT_fields (p : Nat) : List Fld := [TCN_WAIT_BULK_NS p, TCN_WAIT_TC_NS p]
/-- TCN_LOG (15, R393). -/
def TCN_LOG (p : Nat) : Nat := 0xF00000C0000 + 0x1000 * p + 0x20
def TCN_LOG_VALID (p : Nat) : Fld := ⟨(TCN_LOG p), 63, 1, .ro, 0⟩
def TCN_LOG_KIND (p : Nat) : Fld := ⟨(TCN_LOG p), 61, 2, .ro, 0⟩
def TCN_LOG_SRC_PART (p : Nat) : Fld := ⟨(TCN_LOG p), 56, 2, .ro, 0⟩
def TCN_LOG_GROUP (p : Nat) : Fld := ⟨(TCN_LOG p), 48, 8, .ro, 0⟩
def TCN_LOG_SRC_NODE (p : Nat) : Fld := ⟨(TCN_LOG p), 32, 16, .ro, 65535⟩
def TCN_LOG_TAG (p : Nat) : Fld := ⟨(TCN_LOG p), 0, 32, .ro, 0⟩
def TCN_LOG_fields (p : Nat) : List Fld := [TCN_LOG_VALID p, TCN_LOG_KIND p, TCN_LOG_SRC_PART p, TCN_LOG_GROUP p, TCN_LOG_SRC_NODE p, TCN_LOG_TAG p]
/-- TCN_SWITCH (15, R393). -/
def TCN_SWITCH : Nat := 0xF00000C0000 + 0x8000
def TCN_SWITCH_TINCAN : Fld := ⟨TCN_SWITCH, 9, 1, .ro, 0⟩
def TCN_SWITCH_REDUCE : Fld := ⟨TCN_SWITCH, 8, 1, .ro, 0⟩
def TCN_SWITCH_WIN_LOG2 : Fld := ⟨TCN_SWITCH, 0, 8, .ro, 0⟩
def TCN_SWITCH_fields : List Fld := [TCN_SWITCH_TINCAN, TCN_SWITCH_REDUCE, TCN_SWITCH_WIN_LOG2]
/-- GLK_CTRL (16, R415). -/
def GLK_CTRL : Nat := 0xF0000070000 + 0x0
def GLK_CTRL_TIMEOUT_US : Fld := ⟨GLK_CTRL, 32, 16, .rw, 1000⟩
def GLK_CTRL_FETCH_WAYS : Fld := ⟨GLK_CTRL, 8, 4, .rw, 8⟩
def GLK_CTRL_MIN_LANES : Fld := ⟨GLK_CTRL, 3, 5, .rw, 8⟩
def GLK_CTRL_RETRAIN : Fld := ⟨GLK_CTRL, 0, 1, .w1s, 0⟩
def GLK_CTRL_fields : List Fld := [GLK_CTRL_TIMEOUT_US, GLK_CTRL_FETCH_WAYS, GLK_CTRL_MIN_LANES, GLK_CTRL_RETRAIN]
/-- GLK_STAT (16, R415). -/
def GLK_STAT : Nat := 0xF0000070000 + 0x8
def GLK_STAT_LANES_UP : Fld := ⟨GLK_STAT, 48, 16, .ro, 0⟩
def GLK_STAT_DOWNS : Fld := ⟨GLK_STAT, 32, 16, .ro, 0⟩
def GLK_STAT_RETRAINS : Fld := ⟨GLK_STAT, 16, 16, .ro, 0⟩
def GLK_STAT_WIDTH : Fld := ⟨GLK_STAT, 6, 5, .ro, 0⟩
def GLK_STAT_STATE : Fld := ⟨GLK_STAT, 0, 3, .ro, 0⟩
def GLK_STAT_fields : List Fld := [GLK_STAT_LANES_UP, GLK_STAT_DOWNS, GLK_STAT_RETRAINS, GLK_STAT_WIDTH, GLK_STAT_STATE]
/-- GLK_CNT0 (16, R415). -/
def GLK_CNT0 : Nat := 0xF0000070000 + 0x10
def GLK_CNT0_FEC_CORR : Fld := ⟨GLK_CNT0, 32, 32, .ro, 0⟩
def GLK_CNT0_FEC_UNCORR : Fld := ⟨GLK_CNT0, 0, 32, .ro, 0⟩
def GLK_CNT0_fields : List Fld := [GLK_CNT0_FEC_CORR, GLK_CNT0_FEC_UNCORR]
/-- GLK_CNT1 (16, R415). -/
def GLK_CNT1 : Nat := 0xF0000070000 + 0x18
def GLK_CNT1_CRC_ERR : Fld := ⟨GLK_CNT1, 32, 32, .ro, 0⟩
def GLK_CNT1_REPLAYS : Fld := ⟨GLK_CNT1, 0, 32, .ro, 0⟩
def GLK_CNT1_fields : List Fld := [GLK_CNT1_CRC_ERR, GLK_CNT1_REPLAYS]
/-- GLK_CACHE_CNT (16, R415). -/
def GLK_CACHE_CNT : Nat := 0xF0000070000 + 0x20
def GLK_CACHE_CNT_SNOOPS : Fld := ⟨GLK_CACHE_CNT, 32, 32, .ro, 0⟩
def GLK_CACHE_CNT_ECC_REFETCH : Fld := ⟨GLK_CACHE_CNT, 16, 16, .ro, 0⟩
def GLK_CACHE_CNT_fields : List Fld := [GLK_CACHE_CNT_SNOOPS, GLK_CACHE_CNT_ECC_REFETCH]
/-- GLK_ERR_LOG (16, R415). -/
def GLK_ERR_LOG : Nat := 0xF0000070000 + 0x28
def GLK_ERR_LOG_VALID : Fld := ⟨GLK_ERR_LOG, 63, 1, .w1c, 0⟩
def GLK_ERR_LOG_KIND : Fld := ⟨GLK_ERR_LOG, 60, 3, .ro, 0⟩
def GLK_ERR_LOG_REASON : Fld := ⟨GLK_ERR_LOG, 56, 4, .ro, 0⟩
def GLK_ERR_LOG_PART : Fld := ⟨GLK_ERR_LOG, 54, 2, .ro, 0⟩
def GLK_ERR_LOG_NOPART : Fld := ⟨GLK_ERR_LOG, 53, 1, .ro, 0⟩
def GLK_ERR_LOG_PA : Fld := ⟨GLK_ERR_LOG, 0, 42, .ro, 0⟩
def GLK_ERR_LOG_fields : List Fld := [GLK_ERR_LOG_VALID, GLK_ERR_LOG_KIND, GLK_ERR_LOG_REASON, GLK_ERR_LOG_PART, GLK_ERR_LOG_NOPART, GLK_ERR_LOG_PA]
/-- GLK_RECAL (16, R415). -/
def GLK_RECAL : Nat := 0xF0000070000 + 0x30
def GLK_RECAL_INTERVAL_S : Fld := ⟨GLK_RECAL, 0, 8, .rw, 30⟩
def GLK_RECAL_fields : List Fld := [GLK_RECAL_INTERVAL_S]
/-- HUB_PART_FCFG (17, R433). -/
def HUB_PART_FCFG (i : Nat) : Nat := 0xF0000000000 + 0x500 + 0x8 * i
def HUB_PART_FCFG_VECTOR (i : Nat) : Fld := ⟨(HUB_PART_FCFG i), 16, 11, .rw, 0⟩
def HUB_PART_FCFG_PIN (i : Nat) : Fld := ⟨(HUB_PART_FCFG i), 1, 1, .rw, 1⟩
def HUB_PART_FCFG_IRQ (i : Nat) : Fld := ⟨(HUB_PART_FCFG i), 0, 1, .rw, 1⟩
def HUB_PART_FCFG_fields (i : Nat) : List Fld := [HUB_PART_FCFG_VECTOR i, HUB_PART_FCFG_PIN i, HUB_PART_FCFG_IRQ i]
/-- HUB_PART_FLT (17, R433). -/
def HUB_PART_FLT (i : Nat) : Nat := 0xF0000000000 + 0x520 + 0x8 * i
def HUB_PART_FLT_ORIGIN_NODE (i : Nat) : Fld := ⟨(HUB_PART_FLT i), 48, 16, .ro, 65535⟩
def HUB_PART_FLT_ORIGIN_PART (i : Nat) : Fld := ⟨(HUB_PART_FLT i), 46, 2, .ro, 0⟩
def HUB_PART_FLT_ORIGIN_CODE (i : Nat) : Fld := ⟨(HUB_PART_FLT i), 34, 12, .ro, 0⟩
def HUB_PART_FLT_LOST (i : Nat) : Fld := ⟨(HUB_PART_FLT i), 16, 8, .ro, 0⟩
def HUB_PART_FLT_PENDING (i : Nat) : Fld := ⟨(HUB_PART_FLT i), 0, 7, .ro, 0⟩
def HUB_PART_FLT_fields (i : Nat) : List Fld := [HUB_PART_FLT_ORIGIN_NODE i, HUB_PART_FLT_ORIGIN_PART i, HUB_PART_FLT_ORIGIN_CODE i, HUB_PART_FLT_LOST i, HUB_PART_FLT_PENDING i]
/-- HUB_DEVFAULT (17, R433). -/
def HUB_DEVFAULT : Nat := 0xF0000000000 + 0x540
def HUB_DEVFAULT_FATAL : Fld := ⟨HUB_DEVFAULT, 63, 1, .ro, 0⟩
def HUB_DEVFAULT_CODE : Fld := ⟨HUB_DEVFAULT, 48, 12, .ro, 0⟩
def HUB_DEVFAULT_BEAT : Fld := ⟨HUB_DEVFAULT, 0, 48, .ro, 0⟩
def HUB_DEVFAULT_fields : List Fld := [HUB_DEVFAULT_FATAL, HUB_DEVFAULT_CODE, HUB_DEVFAULT_BEAT]
/-- HUB_DIE_STAT (17, R433). -/
def HUB_DIE_STAT : Nat := 0xF0000000000 + 0x548
def HUB_DIE_STAT_BRIDGE_OUT : Fld := ⟨HUB_DIE_STAT, 16, 4, .ro, 0⟩
def HUB_DIE_STAT_DIE : Fld := ⟨HUB_DIE_STAT, 0, 16, .ro, 0⟩
def HUB_DIE_STAT_fields : List Fld := [HUB_DIE_STAT_BRIDGE_OUT, HUB_DIE_STAT_DIE]
/-- HUB_D2D_CNT (17, R433). -/
def HUB_D2D_CNT : Nat := 0xF0000000000 + 0x550
def HUB_D2D_CNT_RETRIES : Fld := ⟨HUB_D2D_CNT, 32, 32, .ro, 0⟩
def HUB_D2D_CNT_RETRAINS : Fld := ⟨HUB_D2D_CNT, 16, 16, .ro, 0⟩
def HUB_D2D_CNT_fields : List Fld := [HUB_D2D_CNT_RETRIES, HUB_D2D_CNT_RETRAINS]
/-- EVR_CTRL (18, R449). -/
def EVR_CTRL : Nat := 0xF0000040000 + 0x0
def EVR_CTRL_VECTOR : Fld := ⟨EVR_CTRL, 32, 11, .rw, 0⟩
def EVR_CTRL_IRQ_LEVEL : Fld := ⟨EVR_CTRL, 8, 2, .rw, 0⟩
def EVR_CTRL_IRQ_FULL : Fld := ⟨EVR_CTRL, 1, 1, .rw, 0⟩
def EVR_CTRL_CLEAR : Fld := ⟨EVR_CTRL, 0, 1, .w1s, 0⟩
def EVR_CTRL_fields : List Fld := [EVR_CTRL_VECTOR, EVR_CTRL_IRQ_LEVEL, EVR_CTRL_IRQ_FULL, EVR_CTRL_CLEAR]
/-- EVR_STAT (18, R449). -/
def EVR_STAT : Nat := 0xF0000040000 + 0x8
def EVR_STAT_EPOCH : Fld := ⟨EVR_STAT, 32, 32, .ro, 0⟩
def EVR_STAT_DROPPED : Fld := ⟨EVR_STAT, 16, 16, .ro, 0⟩
def EVR_STAT_FULL : Fld := ⟨EVR_STAT, 15, 1, .ro, 0⟩
def EVR_STAT_NEXT : Fld := ⟨EVR_STAT, 0, 15, .ro, 0⟩
def EVR_STAT_fields : List Fld := [EVR_STAT_EPOCH, EVR_STAT_DROPPED, EVR_STAT_FULL, EVR_STAT_NEXT]
/-- EVR_MIRROR (18, R449). -/
def EVR_MIRROR : Nat := 0xF0000040000 + 0x10
def EVR_MIRROR_FLASH_ERR : Fld := ⟨EVR_MIRROR, 15, 1, .ro, 0⟩
def EVR_MIRROR_MIRRORED : Fld := ⟨EVR_MIRROR, 0, 15, .ro, 0⟩
def EVR_MIRROR_fields : List Fld := [EVR_MIRROR_FLASH_ERR, EVR_MIRROR_MIRRORED]
/-- EVR_CURSOR (18, R449). -/
def EVR_CURSOR : Nat := 0xF0000040000 + 0x18
def EVR_CURSOR_BASE : Fld := ⟨EVR_CURSOR, 0, 14, .rw, 0⟩
def EVR_CURSOR_fields : List Fld := [EVR_CURSOR_BASE]
/-- EVR_OPSEC (18, R449). -/
def EVR_OPSEC : Nat := 0xF0000040000 + 0x20
def EVR_OPSEC_SECONDS : Fld := ⟨EVR_OPSEC, 0, 40, .ro, 0⟩
def EVR_OPSEC_fields : List Fld := [EVR_OPSEC_SECONDS]
/-- EVR_PWRCYC (18, R449). -/
def EVR_PWRCYC : Nat := 0xF0000040000 + 0x28
def EVR_PWRCYC_COUNT : Fld := ⟨EVR_PWRCYC, 0, 32, .ro, 0⟩
def EVR_PWRCYC_fields : List Fld := [EVR_PWRCYC_COUNT]
/-- MBX_TX (18, R449). -/
def MBX_TX (c : Nat) : Nat := 0xF0000050000 + 0x100 * c + 0x0
def MBX_TX_WORD (c : Nat) : Fld := ⟨(MBX_TX c), 0, 64, .wo, 0⟩
def MBX_TX_fields (c : Nat) : List Fld := [MBX_TX_WORD c]
/-- MBX_STAT (18, R449). -/
def MBX_STAT (c : Nat) : Nat := 0xF0000050000 + 0x100 * c + 0x8
def MBX_STAT_LOST (c : Nat) : Fld := ⟨(MBX_STAT c), 32, 16, .ro, 0⟩
def MBX_STAT_PEER_RESET (c : Nat) : Fld := ⟨(MBX_STAT c), 19, 1, .ro, 0⟩
def MBX_STAT_OVF (c : Nat) : Fld := ⟨(MBX_STAT c), 18, 1, .w1c, 0⟩
def MBX_STAT_TIMEOUT (c : Nat) : Fld := ⟨(MBX_STAT c), 17, 1, .w1c, 0⟩
def MBX_STAT_EMPTY (c : Nat) : Fld := ⟨(MBX_STAT c), 16, 1, .w1c, 0⟩
def MBX_STAT_RX_COUNT (c : Nat) : Fld := ⟨(MBX_STAT c), 8, 5, .ro, 0⟩
def MBX_STAT_TX_COUNT (c : Nat) : Fld := ⟨(MBX_STAT c), 0, 5, .ro, 0⟩
def MBX_STAT_fields (c : Nat) : List Fld := [MBX_STAT_LOST c, MBX_STAT_PEER_RESET c, MBX_STAT_OVF c, MBX_STAT_TIMEOUT c, MBX_STAT_EMPTY c, MBX_STAT_RX_COUNT c, MBX_STAT_TX_COUNT c]
/-- MBX_CFG (18, R449). -/
def MBX_CFG (c : Nat) : Nat := 0xF0000050000 + 0x100 * c + 0x10
def MBX_CFG_TIMEOUT_US (c : Nat) : Fld := ⟨(MBX_CFG c), 48, 16, .rw, 0⟩
def MBX_CFG_VECTOR (c : Nat) : Fld := ⟨(MBX_CFG c), 32, 11, .rw, 0⟩
def MBX_CFG_IRQ_TIMEOUT (c : Nat) : Fld := ⟨(MBX_CFG c), 1, 1, .rw, 0⟩
def MBX_CFG_IRQ_EMPTY (c : Nat) : Fld := ⟨(MBX_CFG c), 0, 1, .rw, 0⟩
def MBX_CFG_fields (c : Nat) : List Fld := [MBX_CFG_TIMEOUT_US c, MBX_CFG_VECTOR c, MBX_CFG_IRQ_TIMEOUT c, MBX_CFG_IRQ_EMPTY c]
/-- PWR_CAP (19, R463). -/
def PWR_CAP : Nat := 0xF0000020000 + 0x0
def PWR_CAP_HYST_W : Fld := ⟨PWR_CAP, 32, 16, .rwb, 100⟩
def PWR_CAP_PKG_W : Fld := ⟨PWR_CAP, 0, 16, .rwb, 4000⟩
def PWR_CAP_fields : List Fld := [PWR_CAP_HYST_W, PWR_CAP_PKG_W]
/-- PWR_PCAP (19, R463). -/
def PWR_PCAP (i : Nat) : Nat := 0xF0000020000 + 0x8 + 0x8 * i
def PWR_PCAP_W (i : Nat) : Fld := ⟨(PWR_PCAP i), 0, 16, .rwb, 0⟩
def PWR_PCAP_fields (i : Nat) : List Fld := [PWR_PCAP_W i]
/-- PWR_STAT (19, R463). -/
def PWR_STAT : Nat := 0xF0000020000 + 0x28
def PWR_STAT_PKG_W : Fld := ⟨PWR_STAT, 48, 16, .ro, 0⟩
def PWR_STAT_CAP_W : Fld := ⟨PWR_STAT, 32, 16, .ro, 4000⟩
def PWR_STAT_STATE : Fld := ⟨PWR_STAT, 0, 2, .ro, 0⟩
def PWR_STAT_fields : List Fld := [PWR_STAT_PKG_W, PWR_STAT_CAP_W, PWR_STAT_STATE]
/-- PWR_LEVEL (19, R463). -/
def PWR_LEVEL : Nat := 0xF0000020000 + 0x30
def PWR_LEVEL_LEVEL0 : Fld := ⟨PWR_LEVEL, 0, 7, .ro, 64⟩
def PWR_LEVEL_LIMIT0 : Fld := ⟨PWR_LEVEL, 8, 3, .ro, 0⟩
def PWR_LEVEL_LEVEL1 : Fld := ⟨PWR_LEVEL, 16, 7, .ro, 64⟩
def PWR_LEVEL_LIMIT1 : Fld := ⟨PWR_LEVEL, 24, 3, .ro, 0⟩
def PWR_LEVEL_LEVEL2 : Fld := ⟨PWR_LEVEL, 32, 7, .ro, 64⟩
def PWR_LEVEL_LIMIT2 : Fld := ⟨PWR_LEVEL, 40, 3, .ro, 0⟩
def PWR_LEVEL_LEVEL3 : Fld := ⟨PWR_LEVEL, 48, 7, .ro, 64⟩
def PWR_LEVEL_LIMIT3 : Fld := ⟨PWR_LEVEL, 56, 3, .ro, 0⟩
def PWR_LEVEL_fields : List Fld := [PWR_LEVEL_LEVEL0, PWR_LEVEL_LIMIT0, PWR_LEVEL_LEVEL1, PWR_LEVEL_LIMIT1, PWR_LEVEL_LEVEL2, PWR_LEVEL_LIMIT2, PWR_LEVEL_LEVEL3, PWR_LEVEL_LIMIT3]
/-- PWR_THERM (19, R463). -/
def PWR_THERM : Nat := 0xF0000020000 + 0x38
def PWR_THERM_HBM_EMERG_C : Fld := ⟨PWR_THERM, 24, 8, .rw, 95⟩
def PWR_THERM_HBM_THROTTLE_C : Fld := ⟨PWR_THERM, 16, 8, .rw, 85⟩
def PWR_THERM_EMERG_C : Fld := ⟨PWR_THERM, 8, 8, .rw, 100⟩
def PWR_THERM_THROTTLE_C : Fld := ⟨PWR_THERM, 0, 8, .rw, 95⟩
def PWR_THERM_fields : List Fld := [PWR_THERM_HBM_EMERG_C, PWR_THERM_HBM_THROTTLE_C, PWR_THERM_EMERG_C, PWR_THERM_THROTTLE_C]
/-- PWR_TEMP (19, R463). -/
def PWR_TEMP (i : Nat) : Nat := 0xF0000020000 + 0x40 + 0x8 * i
def PWR_TEMP_EMERGS (i : Nat) : Fld := ⟨(PWR_TEMP i), 32, 32, .ro, 0⟩
def PWR_TEMP_HUB_C (i : Nat) : Fld := ⟨(PWR_TEMP i), 24, 8, .ro, 0⟩
def PWR_TEMP_HBM_C (i : Nat) : Fld := ⟨(PWR_TEMP i), 16, 8, .ro, 0⟩
def PWR_TEMP_HOT_ID (i : Nat) : Fld := ⟨(PWR_TEMP i), 8, 8, .ro, 0⟩
def PWR_TEMP_HOT_C (i : Nat) : Fld := ⟨(PWR_TEMP i), 0, 8, .ro, 0⟩
def PWR_TEMP_fields (i : Nat) : List Fld := [PWR_TEMP_EMERGS i, PWR_TEMP_HUB_C i, PWR_TEMP_HBM_C i, PWR_TEMP_HOT_ID i, PWR_TEMP_HOT_C i]
/-- PWR_DROOP (19, R463). -/
def PWR_DROOP : Nat := 0xF0000020000 + 0x60
def PWR_DROOP_MARGIN_MV : Fld := ⟨PWR_DROOP, 0, 8, .rw, 40⟩
def PWR_DROOP_fields : List Fld := [PWR_DROOP_MARGIN_MV]
/-- PWR_DROOP_CNT (19, R463). -/
def PWR_DROOP_CNT (i : Nat) : Nat := 0xF0000020000 + 0x68 + 0x8 * i
def PWR_DROOP_CNT_EVENTS (i : Nat) : Fld := ⟨(PWR_DROOP_CNT i), 32, 32, .ro, 0⟩
def PWR_DROOP_CNT_STRETCH (i : Nat) : Fld := ⟨(PWR_DROOP_CNT i), 0, 32, .ro, 0⟩
def PWR_DROOP_CNT_fields (i : Nat) : List Fld := [PWR_DROOP_CNT_EVENTS i, PWR_DROOP_CNT_STRETCH i]
/-- PWR_RAIL (19, R463). -/
def PWR_RAIL (i : Nat) : Nat := 0xF0000020000 + 0x100 + 0x8 * i
def PWR_RAIL_STATE (i : Nat) : Fld := ⟨(PWR_RAIL i), 62, 2, .ro, 0⟩
def PWR_RAIL_VOUT_MV (i : Nat) : Fld := ⟨(PWR_RAIL i), 32, 16, .ro, 0⟩
def PWR_RAIL_IOUT_DA (i : Nat) : Fld := ⟨(PWR_RAIL i), 16, 16, .ro, 0⟩
def PWR_RAIL_MISSES (i : Nat) : Fld := ⟨(PWR_RAIL i), 0, 16, .ro, 0⟩
def PWR_RAIL_fields (i : Nat) : List Fld := [PWR_RAIL_STATE i, PWR_RAIL_VOUT_MV i, PWR_RAIL_IOUT_DA i, PWR_RAIL_MISSES i]
/-- PWR_ESEQ (19, R463). -/
def PWR_ESEQ : Nat := 0xF0000020000 + 0x200
def PWR_ESEQ_VALUE : Fld := ⟨PWR_ESEQ, 0, 64, .ro, 0⟩
def PWR_ESEQ_fields : List Fld := [PWR_ESEQ_VALUE]
/-- PWR_ETOTAL (19, R463). -/
def PWR_ETOTAL : Nat := 0xF0000020000 + 0x208
def PWR_ETOTAL_VALUE : Fld := ⟨PWR_ETOTAL, 0, 64, .ro, 0⟩
def PWR_ETOTAL_fields : List Fld := [PWR_ETOTAL_VALUE]
/-- PWR_EOVH (19, R463). -/
def PWR_EOVH : Nat := 0xF0000020000 + 0x210
def PWR_EOVH_VALUE : Fld := ⟨PWR_EOVH, 0, 64, .ro, 0⟩
def PWR_EOVH_fields : List Fld := [PWR_EOVH_VALUE]
/-- PWR_EPART (19, R463). -/
def PWR_EPART (i : Nat) : Nat := 0xF0000020000 + 0x218 + 0x8 * i
def PWR_EPART_VALUE (i : Nat) : Fld := ⟨(PWR_EPART i), 0, 64, .ro, 0⟩
def PWR_EPART_fields (i : Nat) : List Fld := [PWR_EPART_VALUE i]
/-- PWR_ERING (19, R463). -/
def PWR_ERING (i : Nat) : Nat := 0xF0000020000 + 0x800 + 0x8 * i
def PWR_ERING_VALUE (i : Nat) : Fld := ⟨(PWR_ERING i), 0, 64, .ro, 0⟩
def PWR_ERING_fields (i : Nat) : List Fld := [PWR_ERING_VALUE i]
/-- SEC_BOOT (20, R484). -/
def SEC_BOOT : Nat := 0xF0000030000 + 0x0
def SEC_BOOT_REASON : Fld := ⟨SEC_BOOT, 56, 8, .ro, 0⟩
def SEC_BOOT_WAIT : Fld := ⟨SEC_BOOT, 6, 1, .ro, 0⟩
def SEC_BOOT_STOPPED : Fld := ⟨SEC_BOOT, 5, 1, .ro, 0⟩
def SEC_BOOT_SOURCE : Fld := ⟨SEC_BOOT, 4, 1, .ro, 0⟩
def SEC_BOOT_STAGE : Fld := ⟨SEC_BOOT, 0, 3, .ro, 0⟩
def SEC_BOOT_fields : List Fld := [SEC_BOOT_REASON, SEC_BOOT_WAIT, SEC_BOOT_STOPPED, SEC_BOOT_SOURCE, SEC_BOOT_STAGE]
/-- SEC_SVN (20, R484). -/
def SEC_SVN : Nat := 0xF0000030000 + 0x8
def SEC_SVN_OE : Fld := ⟨SEC_SVN, 48, 16, .ro, 0⟩
def SEC_SVN_KAK : Fld := ⟨SEC_SVN, 32, 16, .ro, 0⟩
def SEC_SVN_PR : Fld := ⟨SEC_SVN, 16, 16, .ro, 0⟩
def SEC_SVN_FW : Fld := ⟨SEC_SVN, 0, 16, .ro, 0⟩
def SEC_SVN_fields : List Fld := [SEC_SVN_OE, SEC_SVN_KAK, SEC_SVN_PR, SEC_SVN_FW]
/-- SEC_LOAD (20, R484). -/
def SEC_LOAD : Nat := 0xF0000030000 + 0x10
def SEC_LOAD_ADDR : Fld := ⟨SEC_LOAD, 12, 32, .rw, 0⟩
def SEC_LOAD_TYPE : Fld := ⟨SEC_LOAD, 8, 4, .rw, 0⟩
def SEC_LOAD_INSTALL : Fld := ⟨SEC_LOAD, 1, 1, .rw, 0⟩
def SEC_LOAD_GO : Fld := ⟨SEC_LOAD, 0, 1, .w1s, 0⟩
def SEC_LOAD_fields : List Fld := [SEC_LOAD_ADDR, SEC_LOAD_TYPE, SEC_LOAD_INSTALL, SEC_LOAD_GO]
/-- SEC_LOAD_STAT (20, R484). -/
def SEC_LOAD_STAT : Nat := 0xF0000030000 + 0x18
def SEC_LOAD_STAT_REASON : Fld := ⟨SEC_LOAD_STAT, 8, 8, .ro, 0⟩
def SEC_LOAD_STAT_STATE : Fld := ⟨SEC_LOAD_STAT, 0, 2, .ro, 0⟩
def SEC_LOAD_STAT_fields : List Fld := [SEC_LOAD_STAT_REASON, SEC_LOAD_STAT_STATE]
/-- SEC_ATT (20, R484). -/
def SEC_ATT : Nat := 0xF0000030000 + 0x20
def SEC_ATT_ADDR : Fld := ⟨SEC_ATT, 12, 32, .rw, 0⟩
def SEC_ATT_KIND : Fld := ⟨SEC_ATT, 1, 2, .rw, 0⟩
def SEC_ATT_GO : Fld := ⟨SEC_ATT, 0, 1, .w1s, 0⟩
def SEC_ATT_fields : List Fld := [SEC_ATT_ADDR, SEC_ATT_KIND, SEC_ATT_GO]
/-- SEC_ATT_STAT (20, R484). -/
def SEC_ATT_STAT : Nat := 0xF0000030000 + 0x28
def SEC_ATT_STAT_HSS_NEXT : Fld := ⟨SEC_ATT_STAT, 32, 21, .ro, 0⟩
def SEC_ATT_STAT_REASON : Fld := ⟨SEC_ATT_STAT, 8, 8, .ro, 0⟩
def SEC_ATT_STAT_STATE : Fld := ⟨SEC_ATT_STAT, 0, 3, .ro, 0⟩
def SEC_ATT_STAT_fields : List Fld := [SEC_ATT_STAT_HSS_NEXT, SEC_ATT_STAT_REASON, SEC_ATT_STAT_STATE]
/-- SEC_STATE (20, R484). -/
def SEC_STATE : Nat := 0xF0000030000 + 0x30
def SEC_STATE_SEQ : Fld := ⟨SEC_STATE, 0, 32, .ro, 0⟩
def SEC_STATE_fields : List Fld := [SEC_STATE_SEQ]
/-- HUB_START (21, R497). -/
def HUB_START : Nat := 0xF0000000000 + 0x600
def HUB_START_ELAPSED_MS : Fld := ⟨HUB_START, 32, 16, .ro, 0⟩
def HUB_START_PHASE : Fld := ⟨HUB_START, 0, 4, .ro, 0⟩
def HUB_START_fields : List Fld := [HUB_START_ELAPSED_MS, HUB_START_PHASE]
/-- HUB_START_CFG (21, R497). -/
def HUB_START_CFG : Nat := 0xF0000000000 + 0x608
def HUB_START_CFG_FIT : Fld := ⟨HUB_START_CFG, 0, 1, .rw, 0⟩
def HUB_START_CFG_fields : List Fld := [HUB_START_CFG_FIT]
/-- HUB_FIT_STAT (21, R497). -/
def HUB_FIT_STAT : Nat := 0xF0000000000 + 0x610
def HUB_FIT_STAT_REPAIRED : Fld := ⟨HUB_FIT_STAT, 32, 32, .ro, 0⟩
def HUB_FIT_STAT_FAILED : Fld := ⟨HUB_FIT_STAT, 16, 16, .ro, 0⟩
def HUB_FIT_STAT_RAN : Fld := ⟨HUB_FIT_STAT, 0, 1, .ro, 0⟩
def HUB_FIT_STAT_fields : List Fld := [HUB_FIT_STAT_REPAIRED, HUB_FIT_STAT_FAILED, HUB_FIT_STAT_RAN]
/-- JIB_CHAL (21, R497). -/
def JIB_CHAL : Nat := 0xF0000060000 + 0x0
def JIB_CHAL_CHAL : Fld := ⟨JIB_CHAL, 0, 64, .ro, 0⟩
def JIB_CHAL_fields : List Fld := [JIB_CHAL_CHAL]
/-- JIB_UNLOCK (21, R497). -/
def JIB_UNLOCK : Nat := 0xF0000060000 + 0x8
def JIB_UNLOCK_ADDR : Fld := ⟨JIB_UNLOCK, 12, 32, .rw, 0⟩
def JIB_UNLOCK_LOCK : Fld := ⟨JIB_UNLOCK, 1, 1, .w1s, 0⟩
def JIB_UNLOCK_GO : Fld := ⟨JIB_UNLOCK, 0, 1, .w1s, 0⟩
def JIB_UNLOCK_fields : List Fld := [JIB_UNLOCK_ADDR, JIB_UNLOCK_LOCK, JIB_UNLOCK_GO]
/-- JIB_STAT (21, R497). -/
def JIB_STAT : Nat := 0xF0000060000 + 0x10
def JIB_STAT_LAST_BEAT : Fld := ⟨JIB_STAT, 16, 48, .ro, 0⟩
def JIB_STAT_SCOPE : Fld := ⟨JIB_STAT, 8, 8, .ro, 0⟩
def JIB_STAT_REASON : Fld := ⟨JIB_STAT, 4, 4, .ro, 0⟩
def JIB_STAT_PSTATE : Fld := ⟨JIB_STAT, 2, 2, .ro, 0⟩
def JIB_STAT_ARMED : Fld := ⟨JIB_STAT, 1, 1, .ro, 0⟩
def JIB_STAT_UNLOCKED : Fld := ⟨JIB_STAT, 0, 1, .ro, 0⟩
def JIB_STAT_fields : List Fld := [JIB_STAT_LAST_BEAT, JIB_STAT_SCOPE, JIB_STAT_REASON, JIB_STAT_PSTATE, JIB_STAT_ARMED, JIB_STAT_UNLOCKED]
/-- JIB_CTRL (21, R497). -/
def JIB_CTRL : Nat := 0xF0000060000 + 0x18
def JIB_CTRL_PART : Fld := ⟨JIB_CTRL, 48, 2, .rwb, 0⟩
def JIB_CTRL_JITTER_US : Fld := ⟨JIB_CTRL, 40, 8, .rwb, 0⟩
def JIB_CTRL_BP_HOLD : Fld := ⟨JIB_CTRL, 22, 10, .rwb, 0⟩
def JIB_CTRL_BP_QUEUE : Fld := ⟨JIB_CTRL, 16, 5, .rwb, 31⟩
def JIB_CTRL_D2D_8NS : Fld := ⟨JIB_CTRL, 0, 8, .rwb, 0⟩
def JIB_CTRL_fields : List Fld := [JIB_CTRL_PART, JIB_CTRL_JITTER_US, JIB_CTRL_BP_HOLD, JIB_CTRL_BP_QUEUE, JIB_CTRL_D2D_8NS]
/-- JIB_FAB (21, R497). -/
def JIB_FAB : Nat := 0xF0000060000 + 0x20
def JIB_FAB_PORTS : Fld := ⟨JIB_FAB, 16, 18, .rwb, 0⟩
def JIB_FAB_FAB_NS : Fld := ⟨JIB_FAB, 0, 16, .rwb, 0⟩
def JIB_FAB_fields : List Fld := [JIB_FAB_PORTS, JIB_FAB_FAB_NS]
/-- JIB_INJ (21, R497). -/
def JIB_INJ : Nat := 0xF0000060000 + 0x28
def JIB_INJ_FIRED : Fld := ⟨JIB_INJ, 56, 8, .ro, 0⟩
def JIB_INJ_HOLD_US : Fld := ⟨JIB_INJ, 40, 16, .rw, 0⟩
def JIB_INJ_TARGET : Fld := ⟨JIB_INJ, 28, 12, .rw, 0⟩
def JIB_INJ_K : Fld := ⟨JIB_INJ, 26, 2, .rw, 0⟩
def JIB_INJ_KIND : Fld := ⟨JIB_INJ, 4, 3, .rw, 0⟩
def JIB_INJ_ARM : Fld := ⟨JIB_INJ, 0, 1, .w1s, 0⟩
def JIB_INJ_fields : List Fld := [JIB_INJ_FIRED, JIB_INJ_HOLD_US, JIB_INJ_TARGET, JIB_INJ_K, JIB_INJ_KIND, JIB_INJ_ARM]
/-- JIB_INJ_ADDR (21, R497). -/
def JIB_INJ_ADDR : Nat := 0xF0000060000 + 0x30
def JIB_INJ_ADDR_SECTOR : Fld := ⟨JIB_INJ_ADDR, 6, 38, .rw, 0⟩
def JIB_INJ_ADDR_fields : List Fld := [JIB_INJ_ADDR_SECTOR]

/-- The fields of the register at offset `o` of the HUB registers; none where no register stands. -/

def hubFieldsAt (o : Nat) : List Fld :=
  if o = 0x100 then HUB_LAYOUT_fields else
  if 0x200 ≤ o ∧ o < 0x220 then HUB_PART_PTBASE_fields ((o - 0x200) / 0x8) else
  if 0x240 ≤ o ∧ o < 0x260 then HUB_PART_CTRL_fields ((o - 0x240) / 0x8) else
  if o = 0x300 then HUB_RESYNC_fields else
  if o = 0x308 then HUB_RESYNC_STAT_fields else
  if 0x280 ≤ o ∧ o < 0x2A0 then HUB_PART_CTX_fields ((o - 0x280) / 0x8) else
  if o = 0x400 then HUB_NUMERICS_fields else
  if 0x440 ≤ o ∧ o < 0x460 then HUB_PART_SEED_fields ((o - 0x440) / 0x8) else
  if 0x480 ≤ o ∧ o < 0x4A0 then HUB_SNAP_fields ((o - 0x480) / 0x8) else
  if 0x3000 ≤ o ∧ o < 0x3020 then HUB_SEAL_fields ((o - 0x3000) / 0x8) else
  if 0x3040 ≤ o ∧ o < 0x3060 then HUB_FPX_LOG_fields ((o - 0x3040) / 0x8) else
  if 0x500 ≤ o ∧ o < 0x520 then HUB_PART_FCFG_fields ((o - 0x500) / 0x8) else
  if 0x520 ≤ o ∧ o < 0x540 then HUB_PART_FLT_fields ((o - 0x520) / 0x8) else
  if o = 0x540 then HUB_DEVFAULT_fields else
  if o = 0x548 then HUB_DIE_STAT_fields else
  if o = 0x550 then HUB_D2D_CNT_fields else
  if o = 0x600 then HUB_START_fields else
  if o = 0x608 then HUB_START_CFG_fields else
  if o = 0x610 then HUB_FIT_STAT_fields else []

/-- The fields of the register at offset `o` of the BEAT registers; none where no register stands. -/

def beatFieldsAt (p : Nat) (o : Nat) : List Fld :=
  if o = 0x0 then BEAT_CTRL_fields p else
  if o = 0x8 then BEAT_PERIOD_fields p else
  if o = 0x10 then BEAT_GUARD_fields p else
  if o = 0x18 then BEAT_NOW_fields p else
  if o = 0x20 then BEAT_START_fields p else
  if o = 0x28 then BEAT_DOMAIN_fields p else
  if o = 0x30 then BEAT_LATE_fields p else
  if o = 0x38 then BEAT_STATS_fields p else
  if o = 0x40 then BEAT_STATE_fields p else
  if o = 0x48 then BEAT_STOP_fields p else
  if 0x100 ≤ o ∧ o < 0x180 then BEAT_BOOK_fields p ((o - 0x100) / 0x8) else []

/-- The fields of the register at offset `o` of the PWR registers; none where no register stands. -/

def pwrFieldsAt (o : Nat) : List Fld :=
  if o = 0x0 then PWR_CAP_fields else
  if 0x8 ≤ o ∧ o < 0x28 then PWR_PCAP_fields ((o - 0x8) / 0x8) else
  if o = 0x28 then PWR_STAT_fields else
  if o = 0x30 then PWR_LEVEL_fields else
  if o = 0x38 then PWR_THERM_fields else
  if 0x40 ≤ o ∧ o < 0x60 then PWR_TEMP_fields ((o - 0x40) / 0x8) else
  if o = 0x60 then PWR_DROOP_fields else
  if 0x68 ≤ o ∧ o < 0x88 then PWR_DROOP_CNT_fields ((o - 0x68) / 0x8) else
  if 0x100 ≤ o ∧ o < 0x1B8 then PWR_RAIL_fields ((o - 0x100) / 0x8) else
  if o = 0x200 then PWR_ESEQ_fields else
  if o = 0x208 then PWR_ETOTAL_fields else
  if o = 0x210 then PWR_EOVH_fields else
  if 0x218 ≤ o ∧ o < 0x238 then PWR_EPART_fields ((o - 0x218) / 0x8) else
  if 0x800 ≤ o ∧ o < 0x1000 then PWR_ERING_fields ((o - 0x800) / 0x8) else []

/-- The fields of the register at offset `o` of the SEC registers; none where no register stands. -/

def secFieldsAt (o : Nat) : List Fld :=
  if o = 0x0 then SEC_BOOT_fields else
  if o = 0x8 then SEC_SVN_fields else
  if o = 0x10 then SEC_LOAD_fields else
  if o = 0x18 then SEC_LOAD_STAT_fields else
  if o = 0x20 then SEC_ATT_fields else
  if o = 0x28 then SEC_ATT_STAT_fields else
  if o = 0x30 then SEC_STATE_fields else []

/-- The fields of the register at offset `o` of the EVR registers; none where no register stands. -/

def evrFieldsAt (o : Nat) : List Fld :=
  if o = 0x0 then EVR_CTRL_fields else
  if o = 0x8 then EVR_STAT_fields else
  if o = 0x10 then EVR_MIRROR_fields else
  if o = 0x18 then EVR_CURSOR_fields else
  if o = 0x20 then EVR_OPSEC_fields else
  if o = 0x28 then EVR_PWRCYC_fields else []

/-- The fields of the register at offset `o` of the MBX registers; none where no register stands. -/

def mbxFieldsAt (c : Nat) (o : Nat) : List Fld :=
  if o = 0x0 then MBX_TX_fields c else
  if o = 0x8 then MBX_STAT_fields c else
  if o = 0x10 then MBX_CFG_fields c else []

/-- The fields of the register at offset `o` of the JIB registers; none where no register stands. -/

def jibFieldsAt (o : Nat) : List Fld :=
  if o = 0x0 then JIB_CHAL_fields else
  if o = 0x8 then JIB_UNLOCK_fields else
  if o = 0x10 then JIB_STAT_fields else
  if o = 0x18 then JIB_CTRL_fields else
  if o = 0x20 then JIB_FAB_fields else
  if o = 0x28 then JIB_INJ_fields else
  if o = 0x30 then JIB_INJ_ADDR_fields else []

/-- The fields of the register at offset `o` of the GLK registers; none where no register stands. -/

def glkFieldsAt (o : Nat) : List Fld :=
  if o = 0x0 then GLK_CTRL_fields else
  if o = 0x8 then GLK_STAT_fields else
  if o = 0x10 then GLK_CNT0_fields else
  if o = 0x18 then GLK_CNT1_fields else
  if o = 0x20 then GLK_CACHE_CNT_fields else
  if o = 0x28 then GLK_ERR_LOG_fields else
  if o = 0x30 then GLK_RECAL_fields else []

/-- The fields of the register at offset `o` of the FABPORT registers; none where no register stands. -/

def fabportFieldsAt (p : Nat) (o : Nat) : List Fld :=
  if o = 0x0 then FAB_PORT_CFG_fields p else
  if o = 0x8 then FAB_PORT_STAT_fields p else
  if o = 0x10 then FAB_PORT_DELAY_fields p else
  if o = 0x18 then FAB_PORT_CNT0_fields p else
  if o = 0x20 then FAB_PORT_CNT1_fields p else
  if o = 0x28 then FAB_PORT_RECAL_fields p else []

/-- The fields of the register at offset `o` of the FAB registers; none where no register stands. -/

def fabFieldsAt (o : Nat) : List Fld :=
  if o = 0x30000 then FAB_NODE_fields else
  if o = 0x30008 then FAB_TOPO_fields else
  if o = 0x30010 then FAB_AXIS_fields else
  if o = 0x30018 then FAB_RECAL_fields else
  if 0x30100 ≤ o ∧ o < 0x30120 then FAB_OE_fields ((o - 0x30100) / 0x8) else
  if 0x30200 ≤ o ∧ o < 0x30220 then FAB_ERR_LOG_fields ((o - 0x30200) / 0x8) else []

/-- The fields of the register at offset `o` of the TCN registers; none where no register stands. -/

def tcnFieldsAt (p : Nat) (o : Nat) : List Fld :=
  if o = 0x0 then TCN_GTABLE_fields p else
  if o = 0x8 then TCN_STAT_fields p else
  if o = 0x10 then TCN_CNT_fields p else
  if o = 0x18 then TCN_WAIT_fields p else
  if o = 0x20 then TCN_LOG_fields p else []

/-- The fields of the register at offset `o` of the TCNDEV registers; none where no register stands. -/

def tcndevFieldsAt (o : Nat) : List Fld :=
  if o = 0x8000 then TCN_SWITCH_fields else []

/-- The fields of the register at offset `o` of the JIG registers; none where no register stands. -/

def jigFieldsAt (o : Nat) : List Fld :=
  if o = 0x0 then JIG_STAT_fields else
  if o = 0x8 then JIG_BYTES_fields else
  if 0x100 ≤ o ∧ o < 0x120 then JIG_LOG_fields ((o - 0x100) / 0x8) else []

/-- The fields of the register at offset `o` of the ringPage registers; none where no register stands. -/

def ringPageFieldsAt (n : Nat) (o : Nat) : List Fld :=
  if o = 0x0 then HUB_RING_DB_fields n else
  if o = 0x8 then HUB_RING_CQDB_fields n else
  if o = 0x10 then HUB_RING_PTRS_fields n else
  if o = 0x18 then HUB_RING_STAT_fields n else
  if o = 0x20 then HUB_RING_CNT0_fields n else
  if o = 0x28 then HUB_RING_CNT1_fields n else []

/-- The fields of the register at offset `o` of the ringSetup registers; none where no register stands. -/

def ringSetupFieldsAt (n : Nat) (o : Nat) : List Fld :=
  if o = 0x0 then HUB_RING_SQ_fields n else
  if o = 0x8 then HUB_RING_CQ_fields n else
  if o = 0x10 then HUB_RING_CFG_fields n else
  if o = 0x18 then HUB_RING_CTRL_fields n else []

/-- The fields of the register at offset `o` of the RGN registers; none where no register stands. -/

def rgnFieldsAt (r : Nat) (o : Nat) : List Fld :=
  if 0x0 ≤ o ∧ o < 0x28 then RGN_SLOT_MAP_fields r ((o - 0x0) / 0x8) else
  if o = 0x28 then RGN_TWINS_fields r else
  if o = 0x30 then RGN_TWIN_IDS_fields r else
  if o = 0x800 then RGN_CHK_CTRL_fields r else
  if o = 0x808 then RGN_DUP_MAT_fields r else
  if o = 0x810 then RGN_DUP_VEC_fields r else
  if o = 0x818 then RGN_DUP_ABC_fields r else
  if o = 0x820 then RGN_DUP_LOG_fields r else
  if o = 0x828 then RGN_CAROUSEL_fields r else
  if o = 0x830 then RGN_TWIN_PHASE_fields r else
  if o = 0x838 then RGN_SUSPECT_fields r else
  if o = 0x840 then RGN_VOFS0_fields r else
  if o = 0x848 then RGN_VOFS1_fields r else
  if o = 0x850 then RGN_KAK_STAT_fields r else []

/-- The fields of the register at offset `o` of the MEM registers; none where no register stands. -/

def memFieldsAt (r : Nat) (o : Nat) : List Fld :=
  if o = 0x0 then MEM_STAT_fields r else
  if o = 0x8 then MEM_ERR_LOG_fields r else
  if 0x10 ≤ o ∧ o < 0x28 then MEM_CNT_fields r ((o - 0x10) / 0x8) else
  if o = 0x28 then MEM_SCRUB_fields r else
  if o = 0x30 then MEM_SPARE_fields r else
  if o = 0x38 then MEM_RECAL_fields r else
  if 0x40 ≤ o ∧ o < 0x58 then MEM_FCAST_fields r ((o - 0x40) / 0x8) else []

/-- The fields of the register at offset `o` of the KAL registers; none where no register stands. -/

def kalFieldsAt (r : Nat) (o : Nat) : List Fld :=
  if o = 0x0 then KAL_STAT_fields r else
  if o = 0x8 then KAL_CYCLES_fields r else
  if o = 0x10 then KAL_FAULT_LOG_fields r else []

/-- The fields of the register at offset `o` of the ABC registers; none where no register stands. -/

def abcFieldsAt (r : Nat) (o : Nat) : List Fld :=
  if o = 0x0 then ABC_STAT_fields r else
  if o = 0x8 then ABC_TABLE_fields r else
  if o = 0x10 then ABC_STEP_fields r else
  if o = 0x18 then ABC_SCHED_fields r else
  if o = 0x20 then ABC_LOSS_fields r else
  if o = 0x28 then ABC_CHECK_LOG_fields r else []

/-- The fields of the register at offset `o` of the YOY registers; none where no register stands. -/

def yoyFieldsAt (r : Nat) (o : Nat) : List Fld :=
  if o = 0x0 then YOY_STAT_fields r else
  if o = 0x8 then YOY_POOL_fields r else
  if o = 0x10 then YOY_SPILL_fields r else
  if o = 0x18 then YOY_TABLE_fields r else
  if o = 0x20 then YOY_MAP_fields r else
  if o = 0x28 then YOY_BUDGET_fields r else
  if o = 0x30 then YOY_USED_fields r else
  if o = 0x38 then YOY_LOG_fields r else []

/-- The fields of the register at offset `o` of the CORE registers; none where no register stands. -/

def coreFieldsAt (r : Nat) (k : Nat) (o : Nat) : List Fld :=
  if 0x100 ≤ o ∧ o < 0x158 then CORE_QSTALL_fields r k ((o - 0x100) / 0x8) else
  if o = 0x0 then CORE_CC_STAT_fields r k else
  if o = 0x8 then CORE_CC_PC_fields r k else
  if o = 0x10 then CORE_LAUNCHQ_fields r k else
  if 0x200 ≤ o ∧ o < 0x400 ∧ (o - 0x200) % 0x20 = 0 then CORE_ACC_GRP_fields r k ((o - 0x200) / 0x20) else
  if 0x208 ≤ o ∧ o < 0x408 ∧ (o - 0x208) % 0x20 = 0 then CORE_ACC_KPOS_fields r k ((o - 0x208) / 0x20) else
  if 0x210 ≤ o ∧ o < 0x410 ∧ (o - 0x210) % 0x20 = 0 then CORE_ACC_ORIGIN_fields r k ((o - 0x210) / 0x20) else
  if o = 0x400 then CORE_ACC_STAT_fields r k else
  if o = 0x408 then CORE_EPI_STAT_fields r k else []

/-- The fields of the register at offset `o` of the ARR registers; none where no register stands. -/

def arrFieldsAt (r : Nat) (k : Nat) (m : Nat) (o : Nat) : List Fld :=
  if o = 0x0 then ARR_STAT_fields r k m else
  if o = 0x8 then ARR_CHECK_LOG_fields r k m else
  if o = 0x10 then ARR_TILES_fields r k m else
  if o = 0x18 then ARR_CYCLES_fields r k m else []

/-- The fields of the register at offset `o` of the VEC registers; none where no register stands. -/

def vecFieldsAt (r : Nat) (k : Nat) (o : Nat) : List Fld :=
  if o = 0x0 then VEC_STAT_fields r k else
  if o = 0x8 then VEC_ITER_fields r k else
  if o = 0x10 then VEC_CYCLES_fields r k else
  if o = 0x18 then VEC_CHECK_LOG_fields r k else []

/-- The fabric ports are F0 to F17 (R9). -/
def fabFieldsAtAll (o : Nat) : List Fld :=
  if o < 0x24000 then fabportFieldsAt (o / 0x2000) (o % 0x2000) else fabFieldsAt o

/-- The channels of R444: the others have no page. -/
def mbxChannelExists (c : Nat) : Bool :=
  c == 0 || c == 1 || c == 2 || (4 ≤ c && c < 8) || (64 ≤ c && c < 224)

/-- A slot block of a region: CORE_, ARR_ of the four arrays, VEC_ (R49). -/
def slotFieldsAt (r k o : Nat) : List Fld :=
  if o < 0x10000 then coreFieldsAt r k o
  else if o < 0x14000 then arrFieldsAt r k ((o - 0x10000) / 0x1000) ((o - 0x10000) % 0x1000)
  else if 0x18000 ≤ o then vecFieldsAt r k (o - 0x18000) else []

/-- A region block (R49). -/
def regionFieldsAt (r o : Nat) : List Fld :=
  if o < 0x100000 then rgnFieldsAt r o
  else if o < 0x200000 then memFieldsAt r (o - 0x100000)
  else if o < 0x300000 then kalFieldsAt r (o - 0x200000)
  else if o < 0x400000 then abcFieldsAt r (o - 0x300000)
  else if o < 0x500000 then yoyFieldsAt r (o - 0x400000)
  else if 0x800000 ≤ o ∧ o < 0xD00000 then slotFieldsAt r ((o - 0x800000) / 0x20000) ((o - 0x800000) % 0x20000)
  else []

/-- The hub's blocks below the doorbell pages (R49); `b` is the 64 KiB block number, `o` the offset in it. -/
def hubSpaceFieldsAt (b o : Nat) : List Fld :=
  match b with
  | 0 => if 0x1000 ≤ o ∧ o < 0x3000 then ringSetupFieldsAt ((o - 0x1000) / 0x20) ((o - 0x1000) % 0x20) else hubFieldsAt o
  | 1 => if o < 0x4000 then beatFieldsAt (o / 0x1000) (o % 0x1000) else []
  | 2 => pwrFieldsAt o
  | 3 => secFieldsAt o
  | 4 => evrFieldsAt o
  | 5 => if mbxChannelExists (o / 0x100) then mbxFieldsAt (o / 0x100) (o % 0x100) else []
  | 6 => jibFieldsAt o
  | 7 => glkFieldsAt o
  | 8 => fabFieldsAtAll o
  | 9 => fabFieldsAtAll (o + 0x10000)
  | 10 => fabFieldsAtAll (o + 0x20000)
  | 11 => fabFieldsAtAll (o + 0x30000)
  | 12 => if o < 0x8000 then (if o < 0x4000 then tcnFieldsAt (o / 0x1000) (o % 0x1000) else []) else tcndevFieldsAt o
  | 13 => jigFieldsAt o
  | _ => []

/-- The fields of the register at DPA `a` (a multiple of 8); `[]` where no register stands (R49, R37). -/
def fieldsAt (a : Nat) : List Fld :=
  if a < 0xF0000000000 then []
  else if a < 0xF0000100000 then hubSpaceFieldsAt ((a - 0xF0000000000) / 0x10000) ((a - 0xF0000000000) % 0x10000)
  else if a < 0xF0000200000 then ringPageFieldsAt ((a - 0xF0000100000) / 0x1000) ((a - 0xF0000100000) % 0x1000)
  else if 0xF0100000000 ≤ a ∧ a < 0xF0104000000 then
    regionFieldsAt ((a - 0xF0100000000) / 0x1000000) ((a - 0xF0100000000) % 0x1000000)
  else []

end Sys2Proof.Machine
end

