-- ==== Sys2Proof/Machine/State.lean ====
section
/-! DEFINITION. The state of the block: everything the manual gives the XK4, as plain data, and its state after reset. -/
namespace Sys2Proof.Machine

/-! ## Work -/

/-- A handle of Yo-Yo that is not EMPTY (R280): 1 LOCAL, 2 SPILL, 3 NOTKEPT; its form, format, rows, columns, tensor and budget, and its
chunks in chain order. -/
structure Handle where
  st : Nat
  form : Nat
  fmt : Nat
  rows : Nat
  cols : Nat
  tensor : Nat
  pool : Nat
  chunks : List Nat
deriving DecidableEq, Repr

/-- A descriptor in flight (R85, R86): fetched from a ring or launched, and not completed. `raw` is its 128 bytes as a
little-endian number, `extra` the records read at its fetch. It has started (R91), has run (its reads and writes are made), is ready to
complete (R93). `remote` names the streams whose credits it awaits (R133), `outs` its outputs as DPA ranges (R423), `order` its place
among the starts, `work` what its class keeps while it runs, whether it has passed the checks that its class makes at the start, `step` the
step counter as it stood at its start (R200), `undo` the handle that it changed with what that was before (R287). -/
structure Desc where
  id : Nat
  sq : Nat
  raw : Nat
  eff : Nat
  noop : Bool
  extra : List Nat
  took : Bool
  asked : Bool
  started : Bool
  ran : Bool
  status : Nat
  result : Nat
  ready : Bool
  remote : List (Nat × Nat × Nat)
  outs : List (Nat × Nat)
  order : Nat
  work : List Nat
  passed : Bool
  step : Nat
  undo : Option (Nat × Option Handle)
deriving DecidableEq, Repr

/-- Who waits in a take (R124): a descriptor for its header take, or a control core in JTAKE. -/
inductive Waiter
  | desc (o : Origin) (id : Nat)
  | core (r k : Nat)
deriving DecidableEq, Repr

/-- An allocated jar (R123): its home, its count, its waiting takes, oldest first. -/
structure Jar where
  region : Nat
  slot : Nat
  count : Nat
  takes : List (Waiter × Nat)
deriving DecidableEq, Repr

/-- A remote drop held for its data (R132): the announced count that it waits for, its jar, its marbles. -/
structure HeldDrop where
  upTo : Nat
  jar : Nat
  n : Nat
deriving DecidableEq, Repr

/-- A stream at its receiver (R132, R134). `arriving` are the pieces whose writes to the companion are not all acknowledged, in order: the count
up to and with each, and its bytes. -/
structure Stream where
  node : Nat
  part : Nat
  epoch : Nat
  landed : Nat
  announced : Nat
  held : List HeldDrop
  arriving : List (Nat × Nat)
deriving DecidableEq, Repr

/-- A pending fault (R111, R420), with its place among all faults of the device. -/
structure PendFault where
  code : Nat
  part : Nat
  unit : Nat
  evr : Nat
  beat : Nat
  order : Nat
deriving DecidableEq, Repr

/-- A booking (R73). -/
structure Booking where
  beat : Nat
  kind : Nat
  unit : Nat
deriving DecidableEq, Repr

/-- The beat domain as one member holds it (R51 to R66): its ID (none: a domain of one, or no domain), the joins counted, whether it has
formed; whether the member has closed the beat, and how late; the device's merged token with the members counted in it, kept by the lowest
local member (R59); the boundary symbol whose countdown runs; the stop beat; whether a stall or overrun symbol has ended the domain; the
BEAT_IN edge; whether D has come; the remote members of the device's subtree. -/
structure Domain where
  id : Option Nat
  joined : List JoinMsg
  formed : Bool
  closed : Bool
  ownLate : Nat
  merged : Option Token
  got : Nat
  boundary : Option BoundaryMsg
  stopAt : Nat
  ended : Bool
  beatIn : Nat
  deadline : Bool
  subtree : Nat
deriving DecidableEq, Repr

/-- A member outside any domain. -/
def Domain.idle : Domain := ⟨none, [], false, false, 0, none, 0, none, 0, false, 0, false, 0⟩

/-- A ring's state in the hub beyond its registers (R83 to R99). -/
structure Ring where
  inflight : List Desc
  prevEff : Option Nat
  cqHead : Nat
  extents : List (Nat × Nat)
  pausedAt : Option Nat
deriving DecidableEq, Repr

/-- A ring right after its enable (R79). -/
def Ring.fresh : Ring := ⟨[], none, 0, [], none⟩

/-! ## Recorder, mailboxes, GlaetLink -/

/-- A Music Box record (R434). -/
structure Rec where
  code : Nat
  note : Bool
  unit : Nat
  part : Option Nat
  opSec : Nat
  pwr : Nat
  beat : Nat
  log : Nat
  tag : Nat
  cls : Nat
  addr : Nat
  epoch : Nat
deriving DecidableEq, Repr

/-- The flags of a mailbox sender (R445, R447). -/
structure MboxFlags where
  empty : Bool
  timeout : Bool
  ovf : Bool
deriving DecidableEq, Repr

/-- A mailbox channel (R444): its two queues of words with their stamps, oldest first, and the sender flags of its endpoint
B (those of endpoint A stand in MBX_STAT). -/
structure Chan where
  toA : List (Nat × Nat)
  toB : List (Nat × Nat)
  flagsB : MboxFlags
deriving DecidableEq, Repr

/-- An idle channel. -/
def Chan.idle : Chan := ⟨[], [], ⟨false, false, false⟩⟩

/-- The counts that a producing descriptor gathers for a health record (R177). -/
structure Health where
  elements : Nat
  zeros : Nat
  underflows : Nat
  saturated : Nat
  nonfinite : Nat
  maxExp : Int
  minExp : Int
  longK : Bool
  stochastic : Bool
deriving DecidableEq, Repr

/-- No value counted. -/
def Health.none : Health := ⟨0, 0, 0, 0, 0, -0x8000, 0x7FFF, false, false⟩

/-- A GlaetLink message (R398, R399) with its data. -/
structure GlkMsg where
  cls : Nat
  op : Nat
  tag : Nat
  addr : Nat
  arg : Nat
  vector : Nat
  source : Nat
  index : Nat
  data : List Byte
deriving DecidableEq, Repr

/-- A GlaetLink flit (R397): SEQ, ACK, NAK, CCLASS, CREDITS and the message in its slots; none when all are empty. -/
structure GlkFlit where
  seq : Nat
  ack : Nat
  nak : Bool
  ccls : Nat
  credits : Nat
  msg : Option GlkMsg
deriving DecidableEq, Repr

/-- What the Nutcracker reads or writes companion memory for: a presented object (R478), an attestation area (R482), a token (R493). -/
inductive SecUse | load | attest | token
deriving DecidableEq, Repr

/-- On whose behalf the device asks the companion (R411): the fetch of an entry or a table of a partition, the walk or record of the entry
that an origin fetches next (R90), its snapshot engine (R293), a descriptor, a completion entry, a context command, stream data that lands up to a
count of its stream (R132), a RESYNC, the Nutcracker. -/
inductive Owner
  | fetch (p : Nat)
  | snap (p : Nat)
  | walk (p : Nat) (o : Origin)
  | desc (p id : Nat)
  | entry (p ring : Nat)
  | ctx (p : Nat)
  | land (p node part epoch upTo : Nat)
  | resync
  | security (u : SecUse)
deriving DecidableEq, Repr

/-- A request outstanding to the companion (R399, R403): its tag, its opcode, its address, its owner, and whether the line
has been snooped since. -/
structure Outst where
  tag : Nat
  op : Nat
  pa : Nat
  owner : Owner
  snooped : Bool
deriving DecidableEq, Repr

/-- A health-record merge into companion memory that waits for its RD_ONCE (R404): the record's DPA, what is merged (R178), the partition and owner. -/
structure HealthMerge where
  part : Nat
  at_ : Nat
  add : Health
  tensor : Nat
  tkind : Nat
  format : Nat
  owner : Owner
deriving DecidableEq, Repr

/-- An interrupt that waits for the write acknowledgement of the entry before it (R406). -/
structure IrqWait where
  ring : Nat
  tag : Option Nat
  msg : GlkMsg
deriving DecidableEq, Repr

/-- A companion access held while its slot is handed over (R40): its tag and address, and what it writes or how much it reads, what it
meets physically. -/
structure Parked where
  tag : Nat
  addr : Nat
  size : Nat
  data : Option (List Byte)
  phys : ReadUpset
deriving DecidableEq, Repr

/-- A message of the companion that its order keeps back (R406): a doorbell, a mailbox word, a write, a read. -/
inductive LateMsg
  | db (n : Fin 256) (value : Nat)
  | word (c word : Nat)
  | access (x : Parked)
deriving DecidableEq, Repr

/-- GlaetLink beyond its registers (R395 to R415): credits by class, messages that wait for one, requests kept back, the replay buffer,
sequence numbers, the slots used of the last flit received and whether a NAK waits for its replay (R353), outstanding requests; the lines held in S, those delivered to a read that a snoop overtook (R403) and those delivered for
stream use (R404); interrupts that wait; NAKs in a row, whether the link retrains and failed retrains in a row; whether CAPS has come,
whether the link has gone down since it was last up, the MIN_LANES of its training, the lane out for recalibration, whether that is its
retry, and the lane that falls due next (R396); companion accesses that a handover holds (R40); messages that wait for an INV_ACK or a write before them (R406); health-record merges that wait (R404). -/
structure Glk where
  credits : List (Nat × Nat)
  waiting : List GlkMsg
  deferred : List (GlkMsg × Outst)
  unacked : List (Nat × GlkMsg)
  seqTx : Nat
  seqRx : Nat
  rxSlot : Nat
  nakSent : Bool
  nextTag : Nat
  outst : List Outst
  shared : List Nat
  once : List Nat
  held : List Nat
  irqs : List IrqWait
  naks : Nat
  retraining : Bool
  retrainFails : Nat
  capsSeen : Bool
  lost : Bool
  minLanes : Nat
  laneOut : Option Nat
  laneRetry : Bool
  laneNext : Nat
  parked : List Parked
  late : List LateMsg
  merges : List HealthMerge
deriving DecidableEq, Repr

/-- GlaetLink at reset. -/
def Glk.reset : Glk :=
  { credits := [], waiting := [], deferred := [], unacked := [], seqTx := 0, seqRx := 0, rxSlot := 15, nakSent := false, nextTag := 0, outst := [], shared := [], once := []
    held := [], irqs := [], naks := 0, retraining := false, retrainFails := 0, capsSeen := false, lost := false, minLanes := 0
    laneOut := none, laneRetry := false, laneNext := 0, parked := [], late := [], merges := [] }

/-- A RESYNC request (R106): the address of its block, and the ring descriptor that made it, if any. -/
structure ResyncReq where
  dest : Nat
  by_ : Option (Origin × Nat)
deriving DecidableEq, Repr

/-- The RESYNC request being served (R106, R107): its SEQ, and its last line, which carries DONE and goes out once the others are
acknowledged. -/
structure ResyncRun where
  req : ResyncReq
  seq : Nat
  last : Option (List Byte)
deriving DecidableEq, Repr

/-- A fabric port beyond its registers (R351 to R365): flits that wait for a credit with the inbound port, channel and class
whose buffer they hold, credits per channel and dateline class (key 2·VC + DL), unacknowledged flits, sequence numbers, NAKs in
a row for one SEQ, failed retrains in a row, the lane out for recalibration with its retry, whether the link retrains, what a switch
advertises (TCN_SWITCH); the slots that VC 1 and VC 2 took in a row while a VC 0 flit waited and the source last served by channel (R351);
whether a NAK has gone out for the gap that the receiver meets (R353); the port number of the peer (LOOP, R364); the single-bit errors that
ECC corrected (R358); the operating second of the last lane recalibration or of coming UP and which of them it was, a lane that its FEC has
made due early, a lane that the peer's offer takes without a booking here (R363, R364). -/
structure Port where
  tx : List (Flit × Option (Nat × Nat × Nat))
  credits : List (Nat × Nat)
  unacked : List Flit
  seqTx : Nat
  seqRx : Nat
  naks : Nat × Nat
  retrainFails : Nat
  laneOut : Option Nat
  laneRetry : Bool
  retraining : Bool
  adTincan : Bool
  adWin : Nat
  hi : Nat
  turns : List (Nat × Nat)
  nakSent : Bool
  peerPort : Nat
  eccCount : Nat
  recalAt : Nat
  recalled : Bool
  early : Option Nat
  offered : Option Nat
deriving DecidableEq, Repr

/-- A port that is not up. -/
def Port.idle : Port := ⟨[], [], [], 0, 0, (0, 0), 0, none, false, false, false, 0, 0, [], false, 0, 0, 0, false, none, none⟩

/-! ## Partitions and slots -/

/-- A context command in progress (R138): 1 SAVE, 2 RESTORE, 3 EMPTY, with its image. -/
structure CtxCmd where
  cmd : Nat
  addr : Nat
  bad : Bool
deriving DecidableEq, Repr

/-- What the schedule unit of a partition holds (R256, R260): the group records it keeps, whether the step state of the counter value
is ready, and the staged step state: its step and its EXP. -/
structure Abc where
  groups : List Nat
  loaded : Bool
  ready : Bool
  staged : Option (Nat × Nat)
deriving DecidableEq, Repr

/-- A schedule unit before its first beat. -/
def Abc.idle : Abc := ⟨[], false, false, none⟩

/-- The snapshot of a partition (R291 to R295): its descriptor (number and bytes) and chunk list, the DPA ranges of its status record, its
beat, the step counter at that boundary, whether it streams, the chunks that have left and those pulled, oldest first, the count of chunks
pulled, the bytes sent, whether its remote drop is on its way and whether it is credited. -/
structure Snap where
  id : Nat
  raw : Nat
  list : Nat
  statusAt : List (Nat × Nat)
  beat : Nat
  step : Nat
  streaming : Bool
  left : List Nat
  pulled : List Nat
  pulls : Nat
  bytes : Nat
  dropSent : Bool
  credited : Bool
deriving DecidableEq, Repr

/-- A collective that an engine runs (R380): its descriptor, its group table entry, its sequence number and CHECK, whether it identifies
outliers (R390), the step counter as it stood when the descriptor started (R200, R375), its phase; the accumulator values of its buffer; the
extents that members have announced by rank and phase, the ranks that have been sent this phase's data, the bytes that have landed in it by
rank, the bytes sent and not reported landed, the LANDED flits that it still owes by node, partition, phase and count (R382); the values in
the receive slots of the Tin-Can tree by rank, or the blocks of an ALL_TO_ALL by source and destination, the bytes that the engine itself
holds by sender in this phase, and whether the partial has gone up (R387); what it has narrowed and whether that is merged (R381); whether
all is done but to become visible. -/
structure Coll where
  id : Nat
  raw : Nat
  entry : Nat
  seq : Nat
  check : Nat
  ident : Bool
  step : Nat
  phase : Nat
  vals : List Nat
  extents : List (Nat × Nat × Nat × Nat)
  sent : List Nat
  got : List (Nat × Nat)
  due : Nat
  owed : List (Nat × Nat × Nat × Nat)
  slots : List (Nat × List Byte)
  buf : List (Nat × List Byte)
  up : Bool
  health : Health
  merged : Bool
  finished : Bool
deriving DecidableEq, Repr

/-- The collective engines of a partition (R368, R380, R387): the kept group table, the next sequence numbers by entry, the collectives that
the bulk engine and the Tin-Can engine run, flits that came before their collective started, and the collective wait of the beat in
nanoseconds by the cause that the flits which ended it carried, codes 1 to 7 (R391). -/
structure Colls where
  loaded : Bool
  groups : List Nat
  seqs : List (Nat × Nat)
  bulk : Option Coll
  tc : Option Coll
  early : List Flit
  waited : List Nat
deriving DecidableEq, Repr

/-- Collective engines before START. -/
def Colls.idle : Colls := ⟨false, [], [], none, none, [], []⟩

/-- An operation that met a handover of its jar's home and is kept in order of arrival (R125): a drop of the hardware with the unit that its
record would name, a take, a jar descriptor's operation, the vendor instruction of a control core. -/
inductive HeldOp
  | drop (jar n unit : Nat)
  | take (jar n : Nat) (w : Waiter)
  | desc (jar : Nat) (o : Origin) (id : Nat)
  | core (jar r k : Nat)
deriving DecidableEq, Repr

/-- The jar whose home holds the operation. -/
def HeldOp.jar : HeldOp → Nat
  | .drop j _ _ | .take j _ _ | .desc j _ _ | .core j _ _ => j

/-- Who sent a remote drop and awaits its credit (R133): a descriptor, the snapshot of the partition (R295), or nobody (JRDROP). -/
inductive Dropper
  | desc (o : Origin) (id : Nat)
  | snap
  | core
deriving DecidableEq, Repr

/-- What a partition holds beyond its registers. `heldOps` are the jar operations that handovers hold; `sentDrops` the remote drops sent and
not yet reported credited, in the order sent, by node, partition and epoch (R131, R133); `inbound` the DATA flits that wait for a page-table line
out of companion memory (R47, R132); `visit` the ring that fetch arbitration visits and
the descriptors fetched in the visit, 256 once it has ended (R100). `runFirst` is the first beat of its present or last run (0: none), `endedBeat` the last
beat whose ending boundary symbol it received in it; `sealDead` says that a fault ended the judgement of the sealing candidate (R322). -/
structure Part where
  pend : List PendFault
  jars : List (Nat × Jar)
  heldOps : List HeldOp
  sentDrops : List ((Nat × Nat × Nat) × Dropper)
  inbound : List Flit
  visit : Nat × Nat
  streams : List Stream
  ctx : Option CtxCmd
  dom : Domain
  books : List Booking
  runFirst : Nat
  endedBeat : Nat
  sealDead : Bool
  abc : Abc
  snap : Option Snap
  coll : Colls
deriving DecidableEq, Repr

/-- A partition that has done nothing. -/
def Part.idle : Part := ⟨[], [], [], [], [], (0, 0), [], none, .idle, [], 0, 0, false, .idle, none, .idle⟩

/-- The vector descriptor that runs on a slot (R225, R232): the place in its program, its iteration, the step counter at its start
(R200), whether a post waits (R223), its tile registers by 1,024 × register + element (R211; unlisted: +0) and its counts; and of its
iteration, for a sample (R300): the tile registers at its start, the data of its loads, and the data of its stores and posts. -/
structure VecRun where
  o : Origin
  id : Nat
  pc : Nat
  iter : Nat
  step : Nat
  postWait : Bool
  v : List (Nat × Nat)
  health : Health
  first : List (Nat × Nat)
  loads : List Byte
  outs : List Byte
deriving DecidableEq, Repr

/-- A queue between two stages of a core (R112, R113): the credits that its producer holds, and the entries present, oldest first, each
by whether its parity is good (R114). -/
structure CoreQueue where
  credits : Nat
  entries : List Bool
deriving DecidableEq, Repr

/-- What a slot holds beyond its registers: its stage queues by number (R112; unlisted: every credit with the producer and no entry), the
accumulation groups into which the first tile since their opening has been added (R191), the descriptors in CQ, its launch queue and its
control core. -/
structure Slot where
  queues : List (Nat × CoreQueue)
  begun : List Nat
  cq : List (Nat × Nat)
  inflight : List Desc
  prevEff : Option Nat
  extents : List (Nat × Nat)
  x : List (Nat × Word)
  reservation : Option Nat
  instret : Nat
  sums : List (Nat × Word)
  fresh : List Nat
  vec : Option VecRun
deriving DecidableEq, Repr

/-- A memory stack beyond its registers (R332 to R338): the pass that runs (its next visit), the visit under way (its
pseudo-channel), whether that is the retry of a failed visit, whether a pass is due and waits for another of the region, pseudo-channels out of
service, rows with a record since the last scrub pass, the rows due for sparing, the sector that the scrubber reads next, the seconds since the
last recalibration pass, the temperature last read, and that at the last pass. A row is named by its pseudo-channel and its number there. -/
structure Stack where
  pass : Option Nat
  visit : Option Nat
  retry : Bool
  waits : Bool
  outPc : List Nat
  noted : List (Nat × Nat)
  due : List (Nat × Nat)
  scrub : Nat
  since : Nat
  temp : Option Nat
  tempAt : Option Nat
deriving DecidableEq, Repr

/-- A stack with no history. -/
def Stack.idle : Stack := ⟨none, none, false, false, [], [], [], 0, 0, none, none⟩

/-- A unit of work as it is sampled (R300, R301): its mirrored streams, the outputs that they give, and the digest that the working side formed of
the outputs that it delivered, as bytes (log entry 84). -/
structure Mirror where
  streams : List Byte
  outs : List Byte
  digest : Nat
deriving DecidableEq, Repr

/-- A sample in a twin's mirror queue (R301, R302): 0 matrix, 1 vector, 2 Abacus; the physical twin and working core, the slot (0x3F for
Abacus), the descriptor's TAG, the beat, whether it is an exact-mode pass, and what was mirrored. -/
structure Dup where
  kind : Nat
  twin : Nat
  worker : Nat
  slot : Nat
  tag : Nat
  beat : Nat
  exact : Bool
  unit : Mirror
deriving DecidableEq, Repr

/-- A region beyond its registers: its bad-sector list (R332), the watch lists of its 32 controllers in one list, oldest first: rows by stack,
pseudo-channel and number, with their corrections (R333); the slot whose handover runs (R312), its mirror queues, oldest first
(R302), the cores whose suites run, each with the stored digests of its bundle (R307, R308, R314, R478), those that await a booked voltage step (R314), the beats in which cores last passed a suite and last held a slot (R310), its rotations
since start-up (R109), Yo-Yo's handles, and whether its four registers were written since the last START (R279). -/
structure Region where
  bad : List Nat
  watch : List ((Nat × Nat × Nat) × Nat)
  handover : Option Nat
  dups : List Dup
  suites : List (Nat × List Nat)
  volts : List Nat
  lastPass : List (Nat × Nat)
  lastHeld : List (Nat × Nat)
  rotations : Nat
  handles : List (Nat × Handle)
  yoyoDirty : Bool
deriving DecidableEq, Repr

/-- A region that has done nothing. -/
def Region.idle : Region := ⟨[], [], none, [], [], [], [], [], 0, [], false⟩

/-- A slot that has done nothing. -/
def Slot.idle : Slot := ⟨[], [], [], [], none, [], [], none, 0, [], [], none⟩

/-- The power manager beyond its registers (R450 to R463): the set-points of
the adjustable rails, in mV; where VDD_HUB goes and whether its hot step is taken; misses in a row and energy carries by rail; package
power (0.1 mW) and energy by partition (µJ) of the last complete set of readings; by partition, the sets since its last boundary with their
sums; the regions in thermal emergency; and THERMTRIP_N low. -/
structure Power where
  rail : List (Nat × Nat)
  hubWant : Nat
  hubHot : Bool
  missRow : List (Nat × Nat)
  carry : List (Nat × Nat)
  lastPkg : Nat
  lastPart : List (Nat × Nat)
  since : List (Nat × Nat × Nat × Nat)
  emerg : List Nat
  trip : Bool
deriving DecidableEq, Repr

/-- The power manager at reset: VDD_Cn at the regulators' start-up output (R486); VDD_HUB at the lowest set-point of its range (log entry 16). -/
def Power.reset : Power := ⟨[(0, 800), (1, 800), (2, 800), (3, 800), (20, 700)], 700, false, [], [], 0, [], [], [], false⟩

/-! ## Boot, identity and the test port -/

/-- The Carousel position of a region in a state block (R470). -/
structure CarPos where
  nextOut : Nat
  twin0 : Nat
  twin1 : Nat
  since : Nat
deriving DecidableEq, Repr

/-- A state block (R470) whose MAC verifies. -/
structure StateBlock where
  seq : Nat
  svnMin : List Nat
  hssRes : Nat
  carousel : List CarPos
  retired : List Nat
  suspect : List Nat
  vofs : List (Nat × Nat)
  spared : List (Nat × Nat × Nat)
deriving DecidableEq, Repr

/-- The replay-protected flash (R469): its counter, its slots that hold a whole block, and the device certificates. -/
structure Rpmc where
  counter : Nat
  slots : List (Nat × StateBlock)
  certs : List Byte
deriving DecidableEq, Repr

/-- The state block written at manufacture (R477): no offsets, NEXT_OUT at the lowest working core, rotations staggered (R311). Its
twins P40 and P41 are this device's (log entry 9). -/
def StateBlock.manufactured : StateBlock :=
  ⟨0, [0, 0, 0, 0], 0, [⟨0, 40, 41, 0⟩, ⟨0, 40, 41, 450⟩, ⟨0, 40, 41, 900⟩, ⟨0, 40, 41, 1350⟩], [0, 0, 0, 0], [0, 0, 0, 0],
    [(0, 0), (0, 0), (0, 0), (0, 0)], []⟩

/-- The flash of a device as manufactured. -/
def Rpmc.manufactured : Rpmc := ⟨0, [(0, .manufactured)], []⟩

/-- The boot flash (R474, R439, R440): whether its directory can be read, whether it names the companion, the layout setting, its objects,
the stored operating seconds and power cycles, the bytes of the mirror's header (R498), and the mirrored records by index. -/
structure BootFlash where
  directory : Bool
  companion : Bool
  layout : Option Nat
  image : Option (List Byte)
  partRec : Option (List Byte)
  bundle : Option (List Byte)
  engine : Option (List Byte)
  opSec : Option Nat
  pwrCyc : Nat
  header : List Byte
  recs : List (Nat × Rec)
deriving DecidableEq, Repr

/-- A blank boot flash (log entry 9). -/
def BootFlash.blank : BootFlash := ⟨false, false, none, none, none, none, none, none, 0, [], []⟩

/-- What the Nutcracker and the firmware hold beyond their registers: RESET_N low, and whether power was lost with the last reset; the state
block in effect and whether item 1 of R472 gave it; the measurements of the firmware image, part record, bundle and each engine's firmware (R466;
0: none held), and what the part record in use says (R6, R476); the stored digests of the held bundle (R307); an accepted image that is not yet installed (R475); refusals held since stage 0 as reason and TYPE (R473); whether the record
area is being erased (R441); the uses whose companion access failed (R411); the object, area and token that are being presented; the operating second in which the last report began, the reports
since start-up, the bytes of the attestation area and how far its writing has gone (R482, R483); EXPIRES of the test token in effect
(R494). -/
structure Sec where
  resetLow : Bool
  cold : Bool
  block : StateBlock
  item1 : Bool
  mFw : Nat
  mPr : Nat
  part : PartRecord
  mKak : Nat
  kernels : List Nat
  mOe : List Nat
  install : Option (List Byte)
  refused : List (Nat × Nat)
  erasing : Bool
  failed : List SecUse
  loadAt : Nat
  loadType : Nat
  loadInstall : Bool
  attAt : Nat
  tokenAt : Nat
  attBegan : Option Nat
  attSeq : Nat
  area : List Byte
  areaSent : Nat
  expires : Nat
deriving DecidableEq, Repr

/-- The Nutcracker while RESET_N is low. -/
def Sec.reset : Sec :=
  { resetLow := true, cold := true, block := .manufactured, item1 := false, mFw := 0, mPr := 0, part := .none, mKak := 0, kernels := [], mOe := [0, 0, 0, 0], install := none, refused := []
    erasing := false, failed := [], loadAt := 0, loadType := 0, loadInstall := false, attAt := 0, tokenAt := 0, attBegan := none, attSeq := 0, area := [], areaSent := 0, expires := 0 }

/-- The instructions of the test access port (R491). -/
inductive TapInst | bypass | idcode | sample | extest | clamp | highz | extestPulse | extestTrain
deriving DecidableEq, Repr

/-- The test access port (R491): its instruction, the update latches of the boundary cells and the data register that TDO shifts out. -/
structure Tap where
  inst : TapInst
  cells : List Bool
  dr : List Bool
deriving DecidableEq, Repr

/-- The test access port in its reset state: IDCODE is selected (log entry 10). -/
def Tap.reset : Tap := ⟨.idcode, [], []⟩

/-! ## What leaves the package -/

/-- A symbol of the beat (R54 to R65); `domain` is its domain ID. -/
inductive Sym
  | join (m : JoinMsg)
  | withdraw (domain node part : Nat)
  | announce (domain : Nat) (a : FirstBeatAnn)
  | closing (domain : Nat) (t : Token) (members : Nat)
  | overrunToken (domain : Nat) (t : Token)
  | faultToken (domain : Nat) (f : FaultOrigin)
  | stall (domain : Nat) (f : FaultOrigin)
  | overrun (domain : Nat) (t : Token)
  | boundary (b : BoundaryMsg)
deriving DecidableEq, Repr

/-- Everything the block sends out of the package. -/
inductive Out
  | glk (f : GlkFlit)
  | flit (port : Nat) (f : Flit)
  | lmgmt (port : Nat) (m : Lmgmt)
  | recalOffer (port : Nat) (domain beat lane : Nat)
  | creditReport (node part epoch : Nat)
  | sym (port : Nat) (y : Sym)
  | beatOut
  /-- VOUT_COMMAND to the regulator of an adjustable rail, in mV (R451). -/
  | vout (rail mv : Nat)
deriving DecidableEq, Repr

/-- The state of the block. `turn` is the partition that fetched the last descriptor (R100; at reset the last, so that partition 0 has the first
turn: log entry 77). -/
structure State where
  regs : List (Nat × Nat)
  staged : List (Nat × Nat)
  acc : List (Nat × Nat)
  mem : Memory
  damage : List (Nat × List (Nat × Byte))
  memStacks : List (Nat × Stack)
  regionSt : List (Nat × Region)
  fieldRows : List (Nat × Nat × Nat)
  hardRows : List (Nat × Nat × Nat)
  parts : List (Nat × Part)
  rings : List (Nat × Ring)
  slots : List (Nat × Slot)
  recs : List Rec
  chans : List (Nat × Chan)
  epReset : List Endpoint
  mboxHolds : List Nat
  glk : Glk
  ports : List (Nat × Port)
  power : Power
  sec : Sec
  flash : BootFlash
  rpmc : Rpmc
  tap : Tap
  retraining : List DieLink
  /-- Modules to optical engines that have failed persistently and are gated (R430). -/
  deadLinks : List DieLink
  resyncQ : List ResyncReq
  resyncNow : Option ResyncRun
  resyncSeq : Nat
  descSeq : Nat
  turn : Nat
  freeCtr : Nat
  out : List Out
  pending : List Instr
deriving DecidableEq, Repr

/-- The block right after reset: RESET_N low, every register at its reset value, nothing stored, nothing up; the boot flash blank and
the replay-protected flash as manufactured (log entry 9). What the manual resets to PR or FW reads zero until start-up loads it (log entry 72). -/
def State.reset : State :=
  { regs := [], staged := [], acc := [], mem := .empty, damage := [], memStacks := [], regionSt := [], fieldRows := [], hardRows := [], parts := []
    rings := [], slots := [], recs := [], chans := []
    epReset := [.nutcracker, .mgmtCore, .opticalEngine 0, .opticalEngine 1, .opticalEngine 2, .opticalEngine 3]
    mboxHolds := [], glk := .reset, ports := [], power := .reset, sec := .reset, flash := .blank, rpmc := .manufactured, tap := .reset
    retraining := [], deadLinks := [], resyncQ := [], resyncNow := none, resyncSeq := 0, descSeq := 0, turn := 3, freeCtr := 0, out := [], pending := [] }

/-- Why the block would stop with a fault. The model never raises it: every command of the table has a next state. -/
inductive Fault
  | none
deriving DecidableEq, Repr

/-- Why a command has no meaning. -/
inductive Refusal
  /-- The command's meaning is not written: raised by its arm of `exec` alone; safe. -/
  | notModelled (mnemonic : String)
deriving DecidableEq, Repr

end Sys2Proof.Machine
end

