-- ==== Sys2Proof/Machine/Ops.lean ====
section
/-! DEFINITION. The named operations over registers, partitions, rings, slots and memory that every meaning uses. -/
namespace Sys2Proof.Machine

/-! ## Register fields -/

/-- The stored value of a register field: what was last written to it, or its reset value. -/
def State.fget (s : State) (f : Fld) : Nat := mgetD s.regs f.key f.reset

/-- The state with `v` in field `f`, cut to the field's width. -/
def State.fset (s : State) (f : Fld) (v : Nat) : State := { s with regs := mset s.regs f.key (v % 2 ^ f.width) }

/-- The counter field `f` advanced by `d`; it holds at its largest value (R433). -/
def State.fadd (s : State) (f : Fld) (d : Nat) : State := s.fset f (satAdd f.width (s.fget f) d)

/-- A one-bit field as a Bool. -/
def State.flag (s : State) (f : Fld) : Bool := s.fget f != 0

/-- The staged value of an RWB field, or the value in effect when none is staged (R14). -/
def State.stagedGet (s : State) (f : Fld) : Nat := mgetD s.staged f.key (s.fget f)

/-- Several fields set at once. -/
def State.fsets (s : State) : List (Fld × Nat) → State
  | [] => s
  | (f, v) :: t => (s.fset f v).fsets t

/-- Bit `i` of a field. -/
def State.fbit (s : State) (f : Fld) (i : Nat) : Bool := bit (s.fget f) i

/-- Bit `i` of a field set to `b`. -/
def State.fsetBit (s : State) (f : Fld) (i : Nat) (b : Bool) : State := s.fset f (setBits (s.fget f) i 1 (b2n b))

/-- A running count of the current beat, kept under the key of the register field that latches it (R115). -/
def State.accGet (s : State) (f : Fld) : Nat := mgetD s.acc f.key 0

/-- A running count of the current beat advanced by `d`. -/
def State.accAdd (s : State) (f : Fld) (d : Nat) : State :=
  { s with acc := mset s.acc f.key (satAdd f.width (s.accGet f) d) }

/-- The larger of a running count of the beat and a value. -/
def State.accMax (s : State) (f : Fld) (v : Nat) : State := { s with acc := mset s.acc f.key (max (s.accGet f) v) }

/-! ## Partitions, rings, slots -/

/-- The layout in effect (R33, R34). -/
def State.layout (s : State) : Nat := s.fget HUB_LAYOUT_CURRENT

/-- What partition `p` holds. -/
def State.part (s : State) (p : Nat) : Part := mgetD s.parts p .idle

/-- The state with partition `p` changed by `f`. -/
def State.updPart (s : State) (p : Nat) (f : Part → Part) : State := { s with parts := mset s.parts p (f (s.part p)) }

/-- What ring `n` holds. -/
def State.ring (s : State) (n : Nat) : Ring := mgetD s.rings n .fresh

/-- The state with ring `n` changed by `f`. -/
def State.updRing (s : State) (n : Nat) (f : Ring → Ring) : State := { s with rings := mset s.rings n (f (s.ring n)) }

/-- The key of a slot: region times 64 plus slot number (R39). -/
def slotKey (r k : Nat) : Nat := r * 64 + k

/-- What slot Lk of region r holds. -/
def State.slot (s : State) (r k : Nat) : Slot := mgetD s.slots (slotKey r k) .idle

/-- The state with slot Lk of region r changed by `f`. -/
def State.updSlot (s : State) (r k : Nat) (f : Slot → Slot) : State :=
  { s with slots := mset s.slots (slotKey r k) (f (s.slot r k)) }

/-- What stack M`m` holds. -/
def State.stack (s : State) (m : Nat) : Stack := mgetD s.memStacks m .idle

/-- The state with stack M`m` changed by `f`. -/
def State.updStack (s : State) (m : Nat) (f : Stack → Stack) : State := { s with memStacks := mset s.memStacks m (f (s.stack m)) }

/-- What fabric port Fp holds. -/
def State.port (s : State) (p : Nat) : Port := mgetD s.ports p .idle

/-- The state with port Fp changed by `f`. -/
def State.updPort (s : State) (p : Nat) (f : Port → Port) : State := { s with ports := mset s.ports p (f (s.port p)) }

/-- Port Fp is UP or DEGRADED (R359). -/
def State.portUp (s : State) (p : Nat) : Bool := s.fget (FAB_PORT_STAT_STATE p) == 2 || s.fget (FAB_PORT_STAT_STATE p) == 3

/-- The ports that carry beat blocks: up, BEAT at 1, and a switch only when it carries them (R362). -/
def State.beatPorts (s : State) : List Nat :=
  (List.range 18).filter fun p => s.portUp p && s.flag (FAB_PORT_CFG_BEAT p) &&
    (!s.flag (FAB_PORT_STAT_PEER_SWITCH p) || s.flag (FAB_PORT_STAT_PEER_BEAT p))

/-- A beat symbol leaves on each beat port but one (R362). -/
def State.flood (s : State) (not : Option Nat) (y : Sym) : State :=
  { s with out := s.out ++ (s.beatPorts.filter fun p => some p != not).map fun p => Out.sym p y }

/-- What region `r` holds. -/
def State.region (s : State) (r : Nat) : Region := mgetD s.regionSt r .idle

/-- The state with region `r` changed by `f`. -/
def State.updRegion (s : State) (r : Nat) (f : Region → Region) : State :=
  { s with regionSt := mset s.regionSt r (f (s.region r)) }

/-- The state with GlaetLink changed by `f`. -/
def State.updGlk (s : State) (f : Glk → Glk) : State := { s with glk := f s.glk }

/-- The state with the domain of partition `p` changed by `f`. -/
def State.updDom (s : State) (p : Nat) (f : Domain → Domain) : State := s.updPart p fun q => { q with dom := f q.dom }

/-- The state with one more thing sent out of the package. -/
def State.emit (s : State) (o : Out) : State := { s with out := s.out ++ [o] }

/-- The set-point of an adjustable rail is set: VOUT_COMMAND goes to its regulator (R451). -/
def State.setRail (s : State) (i mv : Nat) : State :=
  { s with power := { s.power with rail := mset s.power.rail i mv } }.emit (.vout i mv)

/-- HUB_PART_CTRL.STATE of partition `p`: 0 absent, 1 stopped, 2 starting, 3 running, 4 stopping, 5 faulted, 6 out of
service (R102). -/
def State.pstate (s : State) (p : Nat) : Nat := s.fget (HUB_PART_CTRL_STATE p)

/-- Partition `p` is running. -/
def State.running (s : State) (p : Nat) : Bool := s.pstate p == 3

/-- Partition `p` is starting, running or stopping (R419). -/
def State.active (s : State) (p : Nat) : Bool := s.pstate p == 2 || s.pstate p == 3 || s.pstate p == 4

/-- Is any partition starting, running or stopping? -/
def State.anyActive (s : State) : Bool := [0, 1, 2, 3].any s.active

/-- The hub is device-fatal (R424). -/
def State.fatal (s : State) : Bool := s.flag HUB_DEVFAULT_FATAL

/-- The period of partition `p` in µs (R52). -/
def State.period (s : State) (p : Nat) : Nat := s.fget (BEAT_PERIOD_US p)

/-- The owner of ring `n` (R77): fixed in layouts 4 and 5. -/
def State.ringPart (s : State) (n : Nat) : Nat := if s.layout ≥ 4 then n / 64 else s.fget (HUB_RING_CFG_PART n)

/-- HUB_RING_PTRS.STATE of ring `n`: 0 OFF, 1 ACTIVE, 2 DRAINING, 3 HALTED. -/
def State.ringState (s : State) (n : Nat) : Nat := s.fget (HUB_RING_PTRS_STATE n)

/-- The rings of partition `p`, ascending. -/
def State.ringsOf (s : State) (p : Nat) : List Nat := (List.range 256).filter fun n => s.ringPart n == p

/-- The partition that owns region `r` (R33). -/
def State.regionPart (s : State) (r : Nat) : Nat := partOfRegion s.layout r

/-- The regions of partition `p`. -/
def State.regions (s : State) (p : Nat) : List Nat := regionsOf s.layout p

/-- The slots of partition `p`, as region and slot, ascending. -/
def State.slotsOf (s : State) (p : Nat) : List (Nat × Nat) :=
  (s.regions p).flatMap fun r => (List.range 40).map fun k => (r, k)

/-- The lead region of a partition: its lowest-numbered region ("Abacus: Parameter Update and Schedules"). -/
def State.lead (s : State) (p : Nat) : Nat := (s.regions p).headD p

/-- The partition's step counter (R255). -/
def State.stepOf (s : State) (p : Nat) : Nat := s.fget (ABC_STEP_NUMBER (s.lead p))

/-- The current beat of partition `p` (R53). -/
def State.beat (s : State) (p : Nat) : Nat := s.fget (BEAT_NOW_NUMBER p)

/-- Fold a state change over a list. -/
def State.each {α : Type} (s : State) (l : List α) (f : State → α → State) : State := l.foldl f s

/-- A fresh count for a free value (log entry 2): the counter advances. -/
def State.tick (s : State) : State := { s with freeCtr := s.freeCtr + 1 }

/-- The present free 64-bit value (log entry 2). -/
def State.free (s : State) : Word := Config.freeWord s.freeCtr

/-- A range of memory becomes undefined (R138, R423). -/
def State.undef (s : State) (lo len : Nat) : State := { s with mem := s.mem.makeUndef lo len s.freeCtr }.tick

/-! ## Units (R435) -/

/-- UNIT of the hub. -/
def unitHub : Nat := 0
/-- UNIT of a region. -/
def unitRegion (r : Nat) : Nat := 0x1000 + r
/-- UNIT of a logical slot. -/
def unitSlot (r k : Nat) : Nat := 0x2000 + r * 256 + k
/-- UNIT of a physical core. -/
def unitCore (r c : Nat) : Nat := 0x3000 + r * 256 + c
/-- UNIT of a stack. -/
def unitStack (m : Nat) : Nat := 0x4000 + m
/-- UNIT of a fabric port. -/
def unitPort (p : Nat) : Nat := 0x5000 + p
/-- UNIT of an optical engine. -/
def unitEngine (e : Nat) : Nat := 0x6000 + e
/-- UNIT of GlaetLink. -/
def unitGlk : Nat := 0x7000
/-- UNIT of a ring. -/
def unitRing (n : Nat) : Nat := 0x8000 + n
/-- UNIT of a mailbox channel. -/
def unitMbox (c : Nat) : Nat := 0x9000 + c
/-- UNIT of a compute die. -/
def unitDie (d : Nat) : Nat := 0xA000 + d
/-- UNIT of a firmware endpoint: 0 companion, 1 Nutcracker, 2 management core. -/
def unitFw (i : Nat) : Nat := 0xB000 + i

/-! ## Descriptors (R86) -/

/-- Bits [8·o + lo + w − 1 : 8·o + lo] of a descriptor: a field of width `w` at bit `lo` of the field at byte `o`. -/
def dfield (raw o lo w : Nat) : Nat := bits raw (8 * o + lo) w

/-- CLASS of a descriptor (R87). -/
def dClass (raw : Nat) : Nat := dfield raw 0 0 8
/-- COMPLETE. -/
def dComplete (raw : Nat) : Bool := bit raw 8
/-- IRQ. -/
def dIrq (raw : Nat) : Bool := bit raw 9
/-- REGION. -/
def dRegion (raw : Nat) : Nat := dfield raw 2 0 2
/-- SLOT. -/
def dSlot (raw : Nat) : Nat := dfield raw 3 0 6
/-- TAG. -/
def dTag (raw : Nat) : Nat := dfield raw 4 0 32
/-- DECL_BEAT. -/
def dBeat (raw : Nat) : Nat := dfield raw 8 0 48
/-- WAIT_JAR. -/
def dWaitJar (raw : Nat) : Nat := dfield raw 16 0 12
/-- WAIT_EN. -/
def dWaitEn (raw : Nat) : Bool := bit raw (16 * 8 + 15)
/-- DONE_JAR. -/
def dDoneJar (raw : Nat) : Nat := dfield raw 18 0 12
/-- DONE_EN. -/
def dDoneEn (raw : Nat) : Bool := bit raw (18 * 8 + 15)
/-- WAIT_N. -/
def dWaitN (raw : Nat) : Nat := dfield raw 20 0 32
/-- DONE_N. -/
def dDoneN (raw : Nat) : Nat := dfield raw 24 0 32

/-- The generator's inputs for a descriptor that starts now: seed, step counter, tensor ID (R199, R200) come from here. -/
def State.seedOf (s : State) (p : Nat) : Nat := s.fget (HUB_PART_SEED_SEED p)

/-- The partition of an origin: the ring's owner, or the owner of the slot's region. -/
def State.originPart (s : State) : Origin → Nat
  | .ring n => s.ringPart n
  | .slot r _ => s.regionPart r

/-- The descriptors in flight of an origin, oldest first. -/
def State.flight (s : State) : Origin → List Desc
  | .ring n => (s.ring n).inflight
  | .slot r k => (s.slot r k).inflight

/-- The state with the descriptors in flight of an origin changed by `f`. -/
def State.updFlight (s : State) (o : Origin) (f : List Desc → List Desc) : State :=
  match o with
  | .ring n => s.updRing n fun q => { q with inflight := f q.inflight }
  | .slot r k => s.updSlot r k fun q => { q with inflight := f q.inflight }

/-- The state with the descriptor `id` of an origin changed by `f`. -/
def State.updDesc (s : State) (o : Origin) (id : Nat) (f : Desc → Desc) : State :=
  s.updFlight o fun l => updFirst (fun d => d.id == id) f l

/-- The descriptor `id` of an origin. -/
def State.desc? (s : State) (o : Origin) (id : Nat) : Option Desc := (s.flight o).find? (·.id == id)

/-- The UNIT that stands for an origin in records. -/
def originUnit : Origin → Nat
  | .ring n => unitRing n
  | .slot r k => unitSlot r k

/-- Every descriptor in flight of partition `p`, rings first. -/
def State.flightOf (s : State) (p : Nat) : List Desc :=
  ((s.ringsOf p).flatMap fun n => (s.ring n).inflight) ++ ((s.slotsOf p).flatMap fun rk => (s.slot rk.1 rk.2).inflight)

/-- The origin of the descriptor in flight with number `id` in partition `p`. -/
def State.originOf (s : State) (p id : Nat) : Option Origin :=
  match (s.ringsOf p).find? fun n => (s.ring n).inflight.any (·.id == id) with
  | some n => some (.ring (Fin.ofNat 256 n))
  | none =>
    match (s.slotsOf p).find? fun rk => (s.slot rk.1 rk.2).inflight.any (·.id == id) with
    | some rk => some (.slot (Fin.ofNat 4 rk.1) (Fin.ofNat 40 rk.2))
    | none => none

/-! ## Physical cores -/

/-- The register field that names the physical core of slot Lk (R32). -/
def slotMapFld (r k : Nat) : Fld := ⟨RGN_SLOT_MAP r (k / 8), 8 * (k % 8), 6, .ro, 0⟩

/-- HUB_DIE_STAT.DIE of die `d` is set; a region out of service reads 0x3F in every SLOT field (R32). -/
def State.setDie (s : State) (d v : Nat) : State :=
  let s := s.fset HUB_DIE_STAT_DIE (setBits (s.fget HUB_DIE_STAT_DIE) (4 * d) 4 v)
  if v = 3 then s.each (List.range 40) fun s k => s.fset (slotMapFld d k) 0x3F else s

/-- The physical core that holds slot Lk of region r (R32). -/
def State.slotCore (s : State) (r k : Nat) : Nat := s.fget (slotMapFld r k)

/-- Is a core one of the twins of its region? -/
def State.isTwin (s : State) (r core : Nat) : Bool :=
  s.fget (RGN_TWIN_IDS_TWIN0 r) == core || s.fget (RGN_TWIN_IDS_TWIN1 r) == core

/-- The phase of a twin is set. -/
def State.setPhase (s : State) (r core ph : Nat) : State :=
  if s.fget (RGN_TWIN_IDS_TWIN0 r) = core then s.fset (RGN_TWIN_PHASE_TWIN0_PHASE r) ph
  else if s.fget (RGN_TWIN_IDS_TWIN1 r) = core then s.fset (RGN_TWIN_PHASE_TWIN1_PHASE r) ph
  else s

/-- A suite passed (R308, R314): counted, the suspicion cleared, a twin in TEST goes to DUP. -/
def State.suitePass (s : State) (r core : Nat) : State :=
  let s := (s.fadd (RGN_KAK_STAT_PASSES r) 1).fsetBit (RGN_SUSPECT_SUSPECT r) core false
  let s := s.updRegion r fun q => { q with suites := q.suites.filter (·.1 != core), lastPass := mset q.lastPass core (s.beat (s.regionPart r)) }
  if s.isTwin r core then s.setPhase r core 2 else s

/-- A suite runs on a core, with the bundle held now (R478); without a verified bundle it passes at once (R307). -/
def State.runSuite (s : State) (r core : Nat) : State :=
  if s.sec.mKak = 0 then s.suitePass r core
  else s.updRegion r fun q => { q with suites := q.suites.filter (·.1 != core) ++ [(core, s.sec.kernels)] }

/-- A core becomes suspect (R313); a twin that serves duplicate execution, or drains, goes back to its suite (R314). -/
def State.suspect (s : State) (r core : Nat) : State :=
  let s := s.fsetBit (RGN_SUSPECT_SUSPECT r) core true
  if s.fget (RGN_TWIN_IDS_TWIN0 r) = core ∧ 2 ≤ s.fget (RGN_TWIN_PHASE_TWIN0_PHASE r) then (s.fset (RGN_TWIN_PHASE_TWIN0_PHASE r) 1).runSuite r core
  else if s.fget (RGN_TWIN_IDS_TWIN1 r) = core ∧ 2 ≤ s.fget (RGN_TWIN_PHASE_TWIN1_PHASE r) then (s.fset (RGN_TWIN_PHASE_TWIN1_PHASE r) 1).runSuite r core
  else s

/-! ## RWB fields (R20 to R22) -/

/-- The governing set of the register at DPA `a` (R22): a partition's page or its own register, a ring's owner, the owner of a
region or slot block; every partition otherwise. -/
def State.govern (s : State) (a : Nat) : List Nat :=
  if 0xF0000010000 ≤ a ∧ a < 0xF0000014000 then [(a - 0xF0000010000) / 0x1000]
  else if 0xF00000C0000 ≤ a ∧ a < 0xF00000C4000 then [(a - 0xF00000C0000) / 0x1000]
  else if 0xF0000000480 ≤ a ∧ a < 0xF00000004A0 then [(a - 0xF0000000480) / 8]
  else if 0xF0000020008 ≤ a ∧ a < 0xF0000020028 then [(a - 0xF0000020008) / 8]
  else if 0xF0000001000 ≤ a ∧ a < 0xF0000003000 then [s.ringPart ((a - 0xF0000001000) / 0x20)]
  else if 0xF0000100000 ≤ a ∧ a < 0xF0000200000 then [s.ringPart ((a - 0xF0000100000) / 0x1000)]
  else if 0xF0100000000 ≤ a ∧ a < 0xF0104000000 then [s.regionPart ((a - 0xF0100000000) / 0x1000000)]
  else [0, 1, 2, 3]

/-- Is any partition of the governing set running? -/
def State.governed (s : State) (a : Nat) : Bool := (s.govern a).any s.running

/-- The register of a field key. -/
def keyReg (key : Nat) : Nat := key / 64

/-- A value is written to an RWB field: staged while a partition of the governing set runs, else in effect at once (R20, R22). -/
def State.stage (s : State) (f : Fld) (v : Nat) : State :=
  if s.governed f.reg then { s with staged := mset s.staged f.key (v % 2 ^ f.width) } else s.fset f v

/-- Partition `p` has stopped: staged values that no running partition governs any more are discarded (R20). -/
def State.dropStaged (s : State) (p : Nat) : State :=
  { s with staged := s.staged.filter fun e => !((s.govern (keyReg e.1)).contains p && !s.governed (keyReg e.1)) }

/-! ## Bookings of a partition that no longer runs -/

/-- A partition that stops or faults has no bookings (log entry 21): its rotations are booked afresh, a lane or a hub voltage that no other
partition has booked is free again. -/
def State.dropBooks (s : State) (p : Nat) : State :=
  let gone := (s.part p).books
  let s := s.updPart p fun q => { q with books := [] }
  let other := fun (b : Booking) => [0, 1, 2, 3].any fun q => (s.part q).books.any fun c => c.kind == b.kind && c.unit == b.unit
  s.each (gone.filter fun b => !other b) fun s b =>
    match b.kind with
    | 1 =>
      let s := s.fset (RGN_CAROUSEL_NEXT_BEAT b.unit) 0
      if s.fget (RGN_TWIN_PHASE_TWIN0_PHASE b.unit) = 3 then s.fset (RGN_TWIN_PHASE_TWIN0_PHASE b.unit) 2 else s
    | 3 => s.fset (FAB_PORT_RECAL_BEAT b.unit) 0
    | 4 => if b.unit < 4 then s else s.setRail 20 s.power.hubWant
    | _ => s

/-! ## Injections (R497) -/

/-- Is an injection of this kind armed against partition `p`, which runs? -/
def State.injOn (s : State) (kind p : Nat) : Bool :=
  s.flag JIB_STAT_ARMED && s.fget JIB_INJ_KIND == kind && s.fget JIB_CTRL_PART == p && s.running p

/-- The armed injection fires: FIRED counts it, LAST_BEAT takes the partition's beat (R497). -/
def State.injFire (s : State) (p : Nat) : State :=
  ((s.fsets [(JIB_STAT_ARMED, 0), (JIB_INJ_ARM, 0), (JIB_STAT_LAST_BEAT, s.beat p)])).fadd JIB_INJ_FIRED 1

/-- An armed injection whose partition stops running is discarded (R497). -/
def State.injDrop (s : State) (p : Nat) : State :=
  if s.fget JIB_CTRL_PART = p then s.fsets [(JIB_STAT_ARMED, 0), (JIB_INJ_ARM, 0)] else s

/-! ## Causes of lateness (R60) -/

/-- The cause of a lateness (R60): the greatest stall time, the lowest code among equals, WORK for none; NONE when on time.
`stalls` holds the times of the codes from 1 on, in order. -/
def causeOf (lateNs : Nat) (stalls : List Nat) : Nat :=
  if lateNs = 0 then 0
  else
    let best := stalls.foldl max 0
    if best = 0 then 7 else 1 + (stalls.idxOf best)

/-- The stall times of partition `p` in this beat: its own, codes 1 to 6, and its collective wait by the cause inherited with it, codes 1 to 7
(R60, R391). -/
def State.stallsWith (s : State) (p : Nat) (stalls : List Nat) : List Nat :=
  (List.range 7).map fun i => stalls.getD i 0 + (s.part p).coll.waited.getD i 0

end Sys2Proof.Machine
end

