-- ==== Sys2Proof/Machine/Link.lean ====
section
/-! DEFINITION. Sending over GlaetLink: messages, credits and the replay buffer (R396, R397, R401), requests to the
companion and their order (R400, R402, R406, R411), the link cache (R402 to R404), interrupts (R412). -/
namespace Sys2Proof.Machine

/-- GlaetLink is UP or DEGRADED (R395). -/
def State.glkUp (s : State) : Bool := s.fget GLK_STAT_STATE == 2 || s.fget GLK_STAT_STATE == 3

/-- A message with no operand fields. -/
def GlkMsg.bare (cls op tag : Nat) : GlkMsg := ⟨cls, op, tag, 0, 0, 0, 0, 0, []⟩

/-- SIZE of a header for a count of data bytes (R398): 0 for none, else the least 2^(SIZE + 2) that holds them. -/
def sizeCode (n : Nat) : Nat := if n = 0 then 0 else if n ≤ 8 then 1 else if n ≤ 16 then 2 else if n ≤ 32 then 3 else if n ≤ 64 then 4 else 5

/-- The header slot of a message (R398). -/
def glkHeader (m : GlkMsg) : List Byte :=
  natLe 1 (m.cls + 16 * m.op) ++ natLe 1 (sizeCode m.data.length + 128) ++ natLe 2 m.tag ++ natLe 6 m.addr ++ natLe 1 m.arg ++ natLe 1 0 ++
    natLe 2 m.vector ++ natLe 1 m.source ++ natLe 1 m.index

/-- The slots that a message with `n` bytes of data takes (R397). -/
def slotsOf (n : Nat) : Nat := 1 + (n + 15) / 16

/-- The slots of a flit, fifteen of 16 bytes; empty ones hold zero (R397). -/
def glkSlots (m : Option GlkMsg) : List Byte :=
  let l := match m with
    | some m => glkHeader m ++ m.data
    | none => []
  l ++ natLe (240 - l.length) 0

/-- The 252 bytes of a flit before its CRC (R397). -/
def glkFlitBody (f : GlkFlit) : List Byte :=
  natLe 2 f.seq ++ natLe 2 (f.ack + 32768 * b2n f.nak) ++ natLe 1 f.ccls ++ natLe 2 f.credits ++ natLe 1 0 ++ glkSlots f.msg ++ natLe 4 0

/-- The 256 bytes of a flit on the lanes (R397). -/
def glkFlitImage (f : GlkFlit) : List Byte := glkFlitBody f ++ natLe 4 (crc32 (glkFlitBody f))

/-- The last SEQ received in order (R397). -/
def Glk.lastRx (g : Glk) : Nat := (g.seqRx + 4095) % 4096

/-- A flit whose slots are all empty: ACK and credits, or a NAK; it takes no SEQ of its own, as a NULL flit of R349 takes none (log entry 48). -/
def State.glkEmpty (s : State) (nak : Bool) (ccls credits : Nat) : State := s.emit (.glk ⟨0, s.glk.lastRx, nak, ccls, credits, none⟩)

/-- The flits the replay buffer holds (R396). -/
def glkReplayDepth : Nat := 512

/-- May a message of class `c` leave now: the sender holds a credit, the replay buffer has room and the link does not retrain (R401, R396)? -/
def Glk.canSend (g : Glk) (c : Nat) : Bool :=
  decide (0 < mgetD g.credits c 0) && decide (g.unacked.length < glkReplayDepth) && !g.retraining

/-- A message leaves in its own flit: it takes a credit of its class, the next sequence number and a place in the replay
buffer (R396, R401). -/
def State.glkEmit (s : State) (m : GlkMsg) : State :=
  let g := s.glk
  { s with
    glk := { g with
      credits := mset g.credits m.cls (mgetD g.credits m.cls 0 - 1)
      unacked := g.unacked ++ [(g.seqTx, m)]
      seqTx := (g.seqTx + 1) % 4096 }
    out := s.out ++ [.glk ⟨g.seqTx, g.lastRx, false, 0, 0, some m⟩] }

/-- A message is sent, or waits for a credit behind the waiting messages of its class (R401, R412). -/
def State.glkPut (s : State) (m : GlkMsg) : State :=
  if s.glk.canSend m.cls && !(s.glk.waiting.any fun w => w.cls == m.cls) then s.glkEmit m
  else s.updGlk fun g => { g with waiting := g.waiting ++ [m] }

/-- Waiting messages leave as credits allow, in order within each class (R401). -/
def State.glkDrain (s : State) : State :=
  (s.glk.waiting).foldl (fun t m => t.glkPut m) (s.updGlk fun g => { g with waiting := [] })

/-! ## Messages that arrive -/

/-- The receive buffers that the device grants by class (R401). -/
def glkBuffers : List Nat := [256, 256, 512, 1024, 256, 0, 64, 8]

/-- The buffer of a message of a class is free again: its credit goes back with the ACK (R397, R401). -/
def State.glkFree (s : State) (cls : Nat) : State := s.glkEmpty false cls 1

/-- Does a message come in sequence: in the next flit, or behind what has been taken of the last one (R353, R397)? -/
def Glk.follows (g : Glk) (h : GlkHead) : Bool := h.seq == g.seqRx || (h.seq == g.lastRx && decide (g.rxSlot ≤ h.slot))

/-- Does the header conform for a message with `n` bytes of data: no reserved value, the SIZE of its data (R398)? A 4-byte register access
comes in the 8-byte form (log entry 48). -/
def headFits (h : GlkHead) (n : Nat) : Bool := !h.rsv && h.size == sizeCode n

/-- Flits up to `ack` are acknowledged and leave the replay buffer. -/
def Glk.acked (g : Glk) (ack : Nat) : Glk :=
  if g.unacked.any fun e => e.1 == ack then { g with unacked := (g.unacked.dropWhile fun e => e.1 != ack).drop 1, naks := 0 } else g

/-- A message of `n` slots is taken: a message may go on into later flits; the first of a flit brings its ACK and credits (R397). -/
def State.glkTake (s : State) (h : GlkHead) (n : Nat) : State :=
  let fresh := h.seq == s.glk.seqRx
  let last := h.slot + n - 1
  let s := s.updGlk fun g => { g with seqRx := (h.seq + last / 15 + 1) % 4096, rxSlot := last % 15 + 1, nakSent := false }
  if fresh then (s.updGlk fun g => { g.acked h.ack with credits := mset g.credits h.ccls (mgetD g.credits h.ccls 0 + h.credits) }).glkDrain else s

/-! ## Requests to the companion -/

/-- The line of a companion physical address (R400). -/
def lineOf (pa : Nat) : Nat := pa / 128

/-- Is the request a write: WR_FULL or WR_PART (R399)? -/
def Outst.isWrite (o : Outst) : Bool := o.op == 2 || o.op == 3

/-- The DATA receive buffers in use: one reserved for each outstanding read, one for each write of the companion that waits (R401). -/
def Glk.dataUsed (g : Glk) : Nat := (g.outst.filter fun o => !o.isWrite).length + (g.parked.filter fun x => x.data.isSome).length

/-- May the request go out: fewer than 4,096 outstanding, a receive buffer for the DATA answer of a read (R401), and no write of its line
outstanding (R406)? -/
def Glk.mayIssue (g : Glk) (o : Outst) : Bool :=
  decide (g.outst.length < 4096) && (o.isWrite || decide (g.dataUsed < 1024)) && !(g.outst.any fun x => x.isWrite && lineOf x.pa == lineOf o.pa)

/-- The request goes out: its REQ message, a DATA message with the same TAG for a write (R399); a write sends the local copy
of its line to I, where it stays when a read of the line that was sent before is answered (R402). -/
def State.glkIssue (s : State) (m : GlkMsg) (o : Outst) : State :=
  let s := s.updGlk fun g => { g with
    outst := (if o.isWrite then g.outst.map fun x => if x.op = 0 ∧ lineOf x.pa = lineOf o.pa then { x with snooped := true } else x else g.outst) ++ [o]
    shared := if o.isWrite then g.shared.filter (· != lineOf o.pa) else g.shared }
  let s := s.glkPut { m with data := [] }
  if o.isWrite then s.glkPut { GlkMsg.bare 3 0 o.tag with data := m.data } else s

/-- A request takes the next tag and goes out, or is kept back until R401 and R406 let it. -/
def State.glkRequest (s : State) (op pa : Nat) (data : List Byte) (owner : Owner) : State :=
  let tag := s.glk.nextTag
  let o : Outst := ⟨tag, op, pa, owner, false⟩
  let m : GlkMsg := { GlkMsg.bare 0 op tag with addr := pa, data := data }
  let s := s.updGlk fun g => { g with nextTag := (g.nextTag + 1) % 4096 }
  if s.glk.mayIssue o && !(s.glk.deferred.any fun x => lineOf x.2.pa == lineOf pa) then s.glkIssue m o
  else s.updGlk fun g => { g with deferred := g.deferred ++ [(m, o)] }

/-- Requests kept back go out where R401 and R406 now let them, in order. -/
def State.glkUndefer (s : State) : State :=
  (s.glk.deferred).foldl
    (fun t x =>
      if t.glk.mayIssue x.2 && !(t.glk.deferred.any fun y => lineOf y.2.pa == lineOf x.2.pa) then t.glkIssue x.1 x.2
      else t.updGlk fun g => { g with deferred := g.deferred ++ [x] })
    (s.updGlk fun g => { g with deferred := [] })

/-- The writes that carry the bytes of one line range: WR_FULL for a whole line, WR_PART for a naturally aligned piece of
8 to 64 bytes, else 8-byte words (R399); each with its address and size. -/
def writePieces (pa len : Nat) : List (Nat × Nat × Nat) :=
  if pa % 128 = 0 ∧ len = 128 then [(2, pa, 128)]
  else if (len = 8 ∨ len = 16 ∨ len = 32 ∨ len = 64) ∧ pa % len = 0 then [(3, pa, len)]
  else (List.range ((pa + len + 7) / 8 - pa / 8)).map fun i => (3, (pa / 8 + i) * 8, 8)

/-- The parts of a range, line by line: address and length. -/
def splitLines (pa len : Nat) : List (Nat × Nat) :=
  (List.range ((pa + len + 127) / 128 - pa / 128)).map fun i =>
    let lo := max pa ((pa / 128 + i) * 128)
    let hi := min (pa + len) ((pa / 128 + i + 1) * 128)
    (lo, hi - lo)

/-- The device's image of companion memory, `n` bytes from companion physical address `pa`. -/
def State.glkImage (s : State) (pa n : Nat) : List Byte := s.mem.readBytes (glkBase + pa) n

/-- The writes of a range that the device has stored in its image go to the home (R402). -/
def State.glkSendRange (s : State) (pa len : Nat) (owner : Owner) : State :=
  if len = 0 then s else
  s.each (splitLines pa len) fun s l =>
    s.each (writePieces l.1 l.2) fun s w => s.glkRequest w.1 w.2.1 (s.glkImage w.2.1 w.2.2) owner

/-- A store into a control core's data memory ends a reservation that it overlaps. -/
def State.endReservations (s : State) (a len : Nat) : State :=
  { s with slots := s.slots.map fun e =>
    (e.1, match e.2.reservation with
      | some x => if a < x + 8 ∧ x < a + len then { e.2 with reservation := none } else e.2
      | none => e.2) }

/-- Bytes stored at a DPA, whatever it names below register space: DRAM and stores at once, companion memory in the device's
image and by writes to the home (R402). -/
def State.store (s : State) (a : Nat) (data : List Byte) (owner : Owner) : State :=
  let s := { s with mem := s.mem.writeBytes a data }
  if sramBase ≤ a then s.endReservations a data.length
  else if glkBase ≤ a ∧ a < glkEnd then s.glkSendRange (a - glkBase) data.length owner else s

/-- The `k` low bytes of `v` stored little-endian at a DPA. -/
def State.storeNat (s : State) (a k v : Nat) (owner : Owner) : State := s.store a (natLe k v) owner

/-- The bytes at a DPA, as the device holds them. -/
def State.load (s : State) (a n : Nat) : List Byte := s.mem.readBytes a n

/-- The little-endian number at a DPA. -/
def State.loadNat (s : State) (a n : Nat) : Nat := s.mem.readNat a n

/-- Writes of an owner that have not been acknowledged, or health merges that have not been made (R404, R406). -/
def Glk.acksDue (g : Glk) (owner : Owner) : Bool :=
  (g.merges.any fun m => decide (m.owner = owner)) || (g.outst.any fun o => o.isWrite && decide (o.owner = owner)) || (g.deferred.any fun x => x.2.isWrite && decide (x.2.owner = owner))

/-! ## The link cache -/

/-- The lines that fetch use may hold: FETCH_WAYS of 16 ways of 16,384 lines (R404). -/
def State.fetchLines (s : State) : Nat := s.fget GLK_CTRL_FETCH_WAYS * 16384

/-- A line can be read for fetch use: held in S (R402), or delivered to a read that a snoop overtook (R403). -/
def Glk.inS (g : Glk) (l : Nat) : Bool := g.shared.contains l || g.once.contains l

/-- A line is filled: it becomes the most recently used, and the least recently used one over the limit is replaced (R404). -/
def State.fillLine (s : State) (l : Nat) : State :=
  s.updGlk fun g => { g with shared := (l :: g.shared.filter (· != l)).take s.fetchLines }

/-- A line held in S is used (R404). -/
def State.touchLine (s : State) (l : Nat) : State := if s.glk.shared.contains l then s.fillLine l else s

/-- A fetch that has read its lines keeps no line that a snoop took (R403). -/
def State.dropOnce (s : State) : State := if s.glk.once = [] then s else s.updGlk fun g => { g with once := [] }

/-- Is a read of the line with this opcode outstanding or kept back? -/
def Glk.readDue (g : Glk) (op l : Nat) : Bool :=
  (g.outst.any fun o => o.op == op && lineOf o.pa == l) || (g.deferred.any fun x => x.2.op == op && lineOf x.2.pa == l)

/-- A fetch-use line is asked for with RD_SHARED, once (R404). -/
def State.askShared (s : State) (l : Nat) (owner : Owner) : State :=
  if s.glk.readDue 0 l then s else s.glkRequest 0 (l * 128) [] owner

/-- The lines of a companion range. -/
def linesOf (a len : Nat) : List Nat :=
  if len = 0 then [] else
  (List.range ((a - glkBase + len + 127) / 128 - (a - glkBase) / 128)).map fun i => (a - glkBase) / 128 + i

/-- The companion lines of address ranges given as DPA and length. -/
def companionLines (ranges : List (Nat × Nat)) : List Nat :=
  ranges.flatMap fun x => if glkBase ≤ x.1 ∧ x.1 < glkEnd then linesOf x.1 x.2 else []

/-- Have all companion lines of the ranges been delivered for stream use (R404)? -/
def State.streamReady (s : State) (ranges : List (Nat × Nat)) : Bool :=
  (companionLines ranges).all fun l => s.glk.held.contains l

/-- The companion lines of the ranges that have not been delivered are asked for with RD_ONCE (R404). -/
def State.askStream (s : State) (ranges : List (Nat × Nat)) (owner : Owner) : State :=
  s.each (companionLines ranges) fun s l =>
    if s.glk.held.contains l || s.glk.readDue 1 l then s else s.glkRequest 1 (l * 128) [] owner

/-- Can all companion lines of the ranges be read for fetch use (R404)? -/
def State.fetchReady (s : State) (ranges : List (Nat × Nat)) : Bool := (companionLines ranges).all s.glk.inS

/-- The companion lines of the ranges that are not held are asked for with RD_SHARED (R404). -/
def State.askFetch (s : State) (ranges : List (Nat × Nat)) (owner : Owner) : State :=
  s.each (companionLines ranges) fun s l => if s.glk.inS l then s else s.askShared l owner

/-- A read for fetch use is over: lines held in S become the most recently used (R403, R404). -/
def State.useFetch (s : State) (ranges : List (Nat × Nat)) : State := (s.each (companionLines ranges) State.touchLine).dropOnce

/-- Does the ECC on every 8 bytes fail to correct these errors of a line, given by byte with the bits that differ (R405)? -/
def eccFails (errs : List (Nat × Byte)) : Bool :=
  (List.range 16).any fun w =>
    let bad := (errs.filter fun e => e.1 / 8 == w).flatMap fun e => (List.range 8).filter fun b => bit e.2.toNat b
    decide (1 < bad.length)

/-- Errors strike lines of the link cache: a single-bit error is corrected; any other moves the line to I and is counted, and the access asks for
it again (R405). -/
def State.strikeLine (s : State) (l : Nat) (errs : List (Nat × Byte)) : State :=
  if eccFails errs && (s.glk.inS l || s.glk.held.contains l) then
    (s.updGlk fun g => { g with shared := g.shared.filter (· != l), once := g.once.filter (· != l), held := g.held.filter (· != l) }).fadd
      GLK_CACHE_CNT_ECC_REFETCH 1
  else s

/-- Lines read for stream use are dropped once consumed (R404). -/
def State.dropStream (s : State) (ranges : List (Nat × Nat)) : State :=
  s.updGlk fun g => { g with held := g.held.filter fun l => !(companionLines ranges).contains l }

/-! ## Interrupts -/

/-- An IRQ message (R398, R412): vector, source, index. -/
def irqMsg (vector source index : Nat) : GlkMsg := { GlkMsg.bare 5 0 0 with vector := vector, source := source, index := index }

/-- Interrupts that nothing holds back are sent; those of one ring keep their order (R406, R412). -/
def State.flushIrqs (s : State) : State :=
  (s.glk.irqs).foldl
    (fun t w =>
      if w.tag = none ∧ (t.glk.irqs.any fun v => v.ring == w.ring) = false then t.glkPut w.msg
      else t.updGlk fun g => { g with irqs := g.irqs ++ [w] })
    (s.updGlk fun g => { g with irqs := [] })

/-- An interrupt is queued behind the interrupts of the same key and behind the write of tag `tag`, and sent as soon as
both let it (R406). -/
def State.queueIrq (s : State) (key : Nat) (tag : Option Nat) (m : GlkMsg) : State :=
  (s.updGlk fun g => { g with irqs := g.irqs ++ [⟨key, tag, m⟩] }).flushIrqs

end Sys2Proof.Machine
end

