-- ==== Sys2Proof/Machine/Recorder.lean ====
section
/-! DEFINITION. Music Box: writing a record (R434 to R438) and its interrupts (R443), and the notes of R436. -/
namespace Sys2Proof.Machine

/-- The records the recorder holds when it is full (R438). -/
def evrDepth : Nat := 16384

/-- EVR_STAT.FULL: recording has stopped (R438). -/
def State.evrFull (s : State) : Bool := decide (evrDepth ≤ s.recs.length)

/-- What an event hands to the recorder besides the counts that the recorder adds (R434). -/
structure Event where
  code : Nat
  note : Bool := false
  fatal : Bool := false
  unit : Nat := 0
  part : Option Nat := none
  log : Nat := 0
  tag : Nat := 0
  cls : Nat := 0
  addr : Nat := 0
deriving DecidableEq, Repr

/-- The record of an event: operating seconds, power cycles, beat and epoch as they stand (R434, R439, R441). -/
def State.recOf (s : State) (e : Event) : Rec :=
  { code := e.code, note := e.note, unit := e.unit, part := e.part, opSec := s.fget EVR_OPSEC_SECONDS,
    pwr := s.fget EVR_PWRCYC_COUNT, beat := s.beat (e.part.getD 0), log := e.log % 2 ^ 64, tag := e.tag, cls := e.cls,
    addr := e.addr, epoch := s.fget EVR_STAT_EPOCH }

/-- Does IRQ_LEVEL let a record of this event interrupt (R443)? -/
def State.evrIrqs (s : State) (e : Event) : Bool :=
  match s.fget EVR_CTRL_IRQ_LEVEL with
  | 0 => false
  | 1 => e.fatal
  | 2 => !e.note
  | _ => true

/-- The interrupt of Music Box (R443). -/
def State.evrIrq (s : State) : State := s.glkPut (irqMsg (s.fget EVR_CTRL_VECTOR) 3 0)

/-- An event reaches the recorder: it is written at NEXT, with its interrupts; a full recorder only counts it in DROPPED
(R437, R438, R443). -/
def State.record (s : State) (e : Event) : State :=
  if s.evrFull then s.fadd EVR_STAT_DROPPED 1
  else
    let t := { s with recs := s.recs ++ [s.recOf e] }
    let t := if s.evrIrqs e then t.evrIrq else t
    if t.evrFull && t.flag EVR_CTRL_IRQ_FULL then t.evrIrq else t

/-- The index that the record of an event takes, as a pending-fault entry names it: 0xFFFF when the recorder is full (R111,
R438). -/
def State.evrIndex (s : State) : Nat := if s.evrFull then 0xFFFF else s.recs.length

/-! ## Units of addresses (R499) -/

/-- The unit and the partition that a record of an access names (R499). -/
def State.accessUnit (s : State) (a : Nat) : Nat × Option Nat :=
  if 0xF0000100000 ≤ a ∧ a < 0xF0000200000 then
    let n := (a - 0xF0000100000) / 0x1000; (unitRing n, some (s.ringPart n))
  else if 0xF0000001000 ≤ a ∧ a < 0xF0000003000 then
    let n := (a - 0xF0000001000) / 0x20; (unitRing n, some (s.ringPart n))
  else if 0xF0000050000 ≤ a ∧ a < 0xF0000060000 then
    let c := (a - 0xF0000050000) / 0x100
    (unitMbox c, if 64 ≤ c ∧ c < 224 then some (s.regionPart ((c - 64) / 40)) else none)
  else if 0xF0000010000 ≤ a ∧ a < 0xF0000014000 then (unitHub, some ((a - 0xF0000010000) / 0x1000))
  else if 0xF00000C0000 ≤ a ∧ a < 0xF00000C4000 then (unitHub, some ((a - 0xF00000C0000) / 0x1000))
  else if 0xF0100000000 ≤ a ∧ a < 0xF0104000000 then
    let r := (a - 0xF0100000000) / 0x1000000
    let o := (a - 0xF0100000000) % 0x1000000
    (if 0x800000 ≤ o ∧ o < 0xD00000 then unitSlot r ((o - 0x800000) / 0x20000) else unitRegion r, some (s.regionPart r))
  else if sramBase ≤ a ∧ a < sramBase + 4 * 0x40000000 then
    let r := (a - sramBase) / 0x40000000
    let o := (a - sramBase) % 0x40000000
    (if o < 40 * 0x800000 then unitSlot r (o / 0x800000) else unitRegion r, some (s.regionPart r))
  else (unitHub, none)

/-- The note REG_DISCARD of a discarded register write (R436, R499). -/
def State.noteDiscard (s : State) (a value : Nat) : State :=
  s.record { code := 1, note := true, unit := (s.accessUnit a).1, part := (s.accessUnit a).2, log := value, addr := a }

/-- The note ACCESS_ERR of an access that completes with an error reply (R436, R499). -/
def State.noteAccess (s : State) (a : Nat) : State :=
  s.record { code := 2, note := true, unit := (s.accessUnit a).1, part := (s.accessUnit a).2, addr := a }

/-- A note of R436 that names the hub and no partition (R499). -/
def State.noteHub (s : State) (code log addr : Nat) : State :=
  s.record { code := code, note := true, log := log, addr := addr }

end Sys2Proof.Machine
end

