-- ==== Sys2Proof/Machine/Faults.lean ====
section
/-! DEFINITION. Job-fatal faults (R416 to R423), completion entries (R96 to R98) and descriptors that fail. -/
namespace Sys2Proof.Machine

/-! ## Fault codes (R417) -/

/-- The fault codes of R417 by their mnemonics. -/
inductive Code
  | nonfiniteSkip | longK | kakAbsent | memSpareOut | fabLaneFail | memCorr | sramCorr | d2dRetry
  | arrayCheck | vecCheck | accCheck
  | coreQueue | ccTrap | storeUncorr | dupMismatch | kakFail | carouselFail
  | kalCheck | abcCheck | rgnFabric | memUncorr | memTrain | dieLost | d2dPersist
  | descInvalid | xlateFault | beatPast | jarMisuse | layoutOverlap | padClash | extentFull | stepSkew | stepWrap
  | groupInvalid | yoyHandle | yoyFull | yoyLossy | variantRange | dropHoldFull | jigMismatch
  | jigCheck
  | beatStall | beatOverrun | replicaDiverge | collMismatch | collGroupInvalid | remoteRefused
  | linkDown | noRoute | glkDown | glkRefused | glkTimeout
  | fabInternal | hubInternal | secFault | thermTrip
deriving DecidableEq, Repr

/-- The 12-bit number of a fault code (R417). -/
def Code.num : Code → Nat
  | .nonfiniteSkip => 0x001 | .longK => 0x002 | .kakAbsent => 0x003 | .memSpareOut => 0x004 | .fabLaneFail => 0x005
  | .memCorr => 0x010 | .sramCorr => 0x011 | .d2dRetry => 0x012
  | .arrayCheck => 0x101 | .vecCheck => 0x102 | .accCheck => 0x103
  | .coreQueue => 0x201 | .ccTrap => 0x202 | .storeUncorr => 0x203 | .dupMismatch => 0x204 | .kakFail => 0x205
  | .carouselFail => 0x206
  | .kalCheck => 0x301 | .abcCheck => 0x302 | .rgnFabric => 0x303 | .memUncorr => 0x305 | .memTrain => 0x306
  | .dieLost => 0x307 | .d2dPersist => 0x308
  | .descInvalid => 0x401 | .xlateFault => 0x402 | .beatPast => 0x403 | .jarMisuse => 0x404 | .layoutOverlap => 0x405
  | .padClash => 0x406 | .extentFull => 0x407 | .stepSkew => 0x408 | .stepWrap => 0x409 | .groupInvalid => 0x40A
  | .yoyHandle => 0x40B | .yoyFull => 0x40C | .yoyLossy => 0x40D | .variantRange => 0x40E | .dropHoldFull => 0x40F
  | .jigMismatch => 0x410 | .jigCheck => 0x501
  | .beatStall => 0x601 | .beatOverrun => 0x602 | .replicaDiverge => 0x603 | .collMismatch => 0x604
  | .collGroupInvalid => 0x605 | .remoteRefused => 0x606
  | .linkDown => 0x701 | .noRoute => 0x702 | .glkDown => 0x703 | .glkRefused => 0x704 | .glkTimeout => 0x705
  | .fabInternal => 0xF01 | .hubInternal => 0xF02 | .secFault => 0xF03 | .thermTrip => 0xF04

/-- Who raises a fault, and the details its record carries (R434). -/
structure Cause where
  unit : Nat := 0
  log : Nat := 0
  tag : Nat := 0
  cls : Nat := 0
  addr : Nat := 0
deriving DecidableEq, Repr

/-- A core that raises ARRAY_CHECK, ACC_CHECK, VEC_CHECK or CORE_QUEUE becomes suspect: the core that holds the slot of the record's
unit (R313). -/
def State.suspectBy (s : State) (c : Code) (unit : Nat) : State :=
  if [Code.arrayCheck, .accCheck, .vecCheck, .coreQueue].contains c && decide (0x2000 ≤ unit) && decide (unit < 0x3000) then
    s.suspect ((unit - 0x2000) / 256) (s.slotCore ((unit - 0x2000) / 256) (unit % 64))
  else s

/-- The fault enters the pending-fault list, or LOST counts it, and Music Box records it: step 1 of R419 (R420). -/
def State.logFault (s : State) (p : Nat) (c : Code) (w : Cause) : State :=
  let s := s.suspectBy c w.unit
  let e : PendFault := ⟨c.num, p, w.unit, s.evrIndex, s.beat p, s.descSeq⟩
  let s := s.record { code := c.num, fatal := true, unit := w.unit, part := some p, log := w.log, tag := w.tag, cls := w.cls, addr := w.addr }
  if (s.part p).pend.length < 64 then { s with descSeq := s.descSeq + 1 }.updPart p fun q => { q with pend := q.pend ++ [e] }
  else s.fadd (HUB_PART_FLT_LOST p) 1

/-- Every control core of the partition halts (R122); one that is trapped stays so. Vector work ends and the summary registers become
stale (R224). -/
def State.haltCores (s : State) (p : Nat) : State :=
  s.each (s.slotsOf p) fun s rk =>
    let s := if (s.slot rk.1 rk.2).vec.isSome || !(s.slot rk.1 rk.2).fresh.isEmpty then
        s.updSlot rk.1 rk.2 fun q => { q with vec := none, fresh := [] } else s
    if s.fget (CORE_CC_STAT_STATE rk.1 rk.2) = 3 then s
    else (s.fset (CORE_CC_STAT_STATE rk.1 rk.2) 4).fset (CORE_CC_STAT_WAIT rk.1 rk.2) 0

/-- Outputs of descriptors cut short hold undefined mixtures of old and new data (R423). -/
def State.cutShort (s : State) (p : Nat) : State :=
  s.each ((s.flightOf p).filter fun d => d.started && !d.ready) fun s d =>
    s.each d.outs fun s x => s.undef x.1 x.2

/-- The keep table's entry of a handle changes; the manual does not give its bytes (log entry 13). -/
def State.touchEntry (s : State) (r h : Nat) : State := s.undef (s.fget (YOY_TABLE_BASE r) * 4096 + 32 * h) 32

/-- A chain as the chunk map holds it: entry address and value (R280). -/
def State.chainWords (s : State) (r : Nat) : List Nat → List (Nat × List Byte)
  | [] => []
  | c :: t => (s.fget (YOY_MAP_BASE r) * 4096 + 4 * c, natLe 4 (t.headD 0xFFFFFFFF)) :: s.chainWords r t

/-- A handle of region `r` is again as it was: EMPTY, its chunks free, or with its tensor. -/
def State.restoreHandle (s : State) (r h : Nat) : Option Handle → State
  | none =>
    match mget? (s.region r).handles h with
    | none => s
    | some x =>
      let s := (s.updRegion r fun q => { q with handles := merase q.handles h }).touchEntry r h
      s.each x.chunks fun s c => s.undef (s.fget (YOY_MAP_BASE r) * 4096 + 4 * c) 4
  | some x =>
    let s := (s.updRegion r fun q => { q with handles := mset q.handles h x }).touchEntry r h
    s.each (s.chainWords r x.chunks) fun s w => { s with mem := s.mem.writeBytes w.1 w.2 }

/-- An activation descriptor that a job-fatal fault stops, its writes not all acknowledged, leaves its handle as it was: EMPTY for a STASH,
unchanged for a RECALL (R287). -/
def State.undoHandles (s : State) (p : Nat) : State :=
  s.each (s.flightOf p) fun s d =>
    match d.undo with
    | some x => if s.glk.acksDue (.desc p d.id) then s.restoreHandle (dRegion d.raw) x.1 x.2 else s
    | none => s

/-- The status record of a snapshot (R295): STATE 1 finished, 2 abandoned. -/
def Snap.record (x : Snap) (st now : Nat) : List Byte :=
  natLe 8 st ++ natLe 8 x.beat ++ natLe 8 x.step ++ natLe 8 now ++ natLe 8 x.bytes ++ natLe 4 x.left.length ++ natLe 4 x.pulls ++ natLe 16 0

/-- HUB_DIE_STAT.DIE of die `d`: 0 in service, 1 isolated under R426, 2 isolated under R430, 3 region out of service. -/
def State.dieState (s : State) (d : Nat) : Nat := bits (s.fget HUB_DIE_STAT_DIE) (4 * d) 4

/-- Is die `d` isolated? -/
def State.isolated (s : State) (d : Nat) : Bool := s.dieState d == 1 || s.dieState d == 2

/-- The pseudo-channel of a stack address (R324). -/
def pcOf (sa : Nat) : Nat := xorN (bits sa 8 6) (bits sa 14 6)

/-- Can the DRAM at DPA `a` not be reached: its die isolated, or its pseudo-channel out of service (R326, R338, R426)? -/
def State.dramRefuses (s : State) (a : Nat) : Bool :=
  let x := stackAddr s.layout a
  s.isolated (x.1 / 3) || (s.stack x.1).outPc.contains (pcOf x.2)

/-- A range cut at the multiples of 256 bytes, each piece in one pseudo-channel (R324). -/
def pcPieces (a len : Nat) : List (Nat × Nat) :=
  if len = 0 then []
  else (List.range ((a + len + 255) / 256 - a / 256)).map fun i =>
    let lo := max a ((a / 256 + i) * 256)
    (lo, min (a + len) ((a / 256 + i + 1) * 256) - lo)

/-- Does a DRAM range meet memory that cannot be reached? -/
def State.refusedIn (s : State) (a len : Nat) : Bool := decide (a < dramEnd) && (pcPieces a len).any fun x => s.dramRefuses x.1

/-- Sectors that a write covers whole are good again, and off the bad-sector lists (R329, R332). -/
def State.goodOver (s : State) (a len : Nat) : State :=
  { s with damage := mdrop s.damage fun d => decide (a ≤ d * 64) && decide (d * 64 + 64 ≤ a + len) }.each [0, 1, 2, 3] fun s r =>
    s.updRegion r fun q => { q with bad := q.bad.filter fun b => !(decide (a ≤ b) && decide (b + 64 ≤ a + len)) }

/-- Can the memory of a range be reached: its die in service, GlaetLink up, no damaged sector covered in part (R296, R426, R329)? -/
def State.reachable (s : State) (x : Nat × Nat) : Bool :=
  if x.1 < dramEnd then
    bits (s.fget HUB_DIE_STAT_DIE) (4 * (stackOf s.layout x.1 / 3)) 4 % 3 == 0 && !s.refusedIn x.1 x.2 &&
      (s.damage.all fun d => decide (d.1 * 64 + 64 ≤ x.1) || decide (x.1 + x.2 ≤ d.1 * 64) || (decide (x.1 ≤ d.1 * 64) && decide (d.1 * 64 + 64 ≤ x.1 + x.2)))
  else s.glkUp

/-- Bytes laid over reachable ranges; sectors that they cover whole are good again (R329). -/
def State.storeOver (s : State) (owner : Owner) : List (Nat × Nat) → List Byte → State
  | [], _ => s
  | (a, n) :: t, bs =>
    ((s.goodOver a n).store a (bs.take n) owner).storeOver owner t (bs.drop n)

/-- A job-fatal fault abandons the partition's snapshot: its status record says so when its memory can be reached (R296). The step of a
snapshot whose boundary has not come is free (log entry 15). -/
def State.dropSnap (s : State) (p : Nat) : State :=
  match (s.part p).snap with
  | none => s
  | some x =>
    let y := if x.streaming then x else { x with step := s.free.toNat % 2 ^ 48 }
    let s := (s.updPart p fun q => { q with snap := none }).tick
    if x.statusAt.all s.reachable then s.storeOver (.snap p) x.statusAt (y.record 2 (s.beat p)) else s

/-- The beat in which the cores of a partition that runs last held their slots is kept (R310). -/
def State.noteHeld (s : State) (p : Nat) : State :=
  if s.pstate p = 3 ∨ s.pstate p = 4 then
    s.each (s.slotsOf p) fun s rk =>
      s.updRegion rk.1 fun q => { q with lastHeld := mset q.lastHeld (s.slotCore rk.1 rk.2) (s.beat p) }
  else s

/-- Everything the partition runs stops: step 2 of R419 (R96, R122, R127, R296), the collective engines among them (R393); its mirror queues (R306) and its staged step state
(R256) go, and a sealing candidate that is not sealed stays so (R322); staged values go as at a stop (R20). -/
def State.haltPart (s : State) (p : Nat) : State :=
  let s := (s.noteHeld p).fset (HUB_PART_CTRL_STATE p) 5
  let s := s.each (s.ringsOf p) fun s n => if s.ringState n = 0 then s else s.fset (HUB_RING_PTRS_STATE n) 3
  let s := s.haltCores p
  let s := (((s.cutShort p).undoHandles p).injDrop p).dropSnap p
  let s := s.each (s.regions p) fun s r =>
    s.updRegion r fun q => { q with dups := [] }
  let s := ((s.dropStaged p).dropBooks p).updGlk fun g => { g with merges := g.merges.filter (·.part != p) }
  s.updPart p fun q => { q with
    jars := q.jars.map (fun e => (e.1, { e.2 with takes := [] })), heldOps := []
    abc := { q.abc with staged := none }
    coll := { q.coll with bulk := none, tc := none, early := [] }
    sealDead := true }

/-- The node ID of the device (R354). -/
def State.node (s : State) : Nat := s.fget FAB_NODE_ID

/-! ## The domain of a partition (R54, R55, R65) -/

/-- The master among joined members: the eligible one with the lowest node ID, then partition number (R54). -/
def masterOf (l : List JoinMsg) : Option JoinMsg :=
  l.foldl
    (fun best m =>
      if m.eligible = false then best
      else match best with
        | none => some m
        | some b => if m.node < b.node ∨ (m.node = b.node ∧ m.part < b.part) then some m else some b)
    none

/-- The master of the domain of partition `p`, by its joined members (R54): also once the partition has stopped, while the domain's last
beat ends. -/
def State.domMaster (s : State) (p : Nat) : Option JoinMsg := masterOf (s.part p).dom.joined

/-- Is partition `p` its domain's master? -/
def State.isMaster (s : State) (p : Nat) : Bool :=
  match s.domMaster p with
  | some m => m.node == s.node && m.part.val == p
  | none => false

/-- The parent port of partition `p`: the port on which the master's join reached it (R362); none when the master is local. -/
def State.parentPort (s : State) (p : Nat) : Option Nat := ((s.domMaster p).bind (·.port)).map (·.val)

/-- The domain ID under which partition `p` joined; none for a domain of one and outside any domain. -/
def State.domId (s : State) (p : Nat) : Option Nat := (s.part p).dom.id

/-- Is partition `p` a member of a domain that has formed and that no stall or overrun symbol has ended (R58)? -/
def State.inDomain (s : State) (p : Nat) : Bool := (s.part p).dom.formed && !(s.part p).dom.ended

/-- The partition numbers. -/
def allParts : List Nat := [0, 1, 2, 3]

/-- The members of the domain of partition `p` on this device, ascending: one device takes and merges the symbols of a domain once for all
of them (R59). -/
def State.mates (s : State) (p : Nat) : List Nat :=
  match s.domId p with
  | none => [p]
  | some d => allParts.filter fun q => s.domId q == some d && s.inDomain q

/-- The member that keeps the device's merged token: the lowest. -/
def State.chief (s : State) (p : Nat) : Nat := (s.mates p).headD p

/-- The master's partition, when it is on this device. -/
def State.hosted (s : State) (p : Nat) : Option Nat := (s.mates p).find? s.isMaster

/-- A symbol of the domain of partition `p` leaves on each beat port but one; a domain of one sends none (R362). -/
def State.floodDom (s : State) (p : Nat) (not : Option Nat) (y : Nat → Sym) : State :=
  match s.domId p with
  | none => s
  | some d => s.flood not (y d)

/-- A token leaves on the parent port of the device for the domain of partition `p` (R59, R362). -/
def State.sendUp (s : State) (p : Nat) (y : Nat → Sym) : State :=
  match s.domId p, s.parentPort p with
  | some d, some q => s.emit (.sym q (y d))
  | _, _ => s

/-- The domain of every local member has ended: a stall or overrun symbol has been sent or passed on. -/
def State.endDom (s : State) (ms : List Nat) : State := s.each ms fun s q => s.updDom q fun d => { d with ended := true }

/-- The causes of R55 that hold among joined members, the first in the order 6, 5, 7, 4 of R103; `full` says that the time for joining is
over, `delays` that the path delays are known: to the master alone (R54). -/
def formCause (l : List JoinMsg) (full delays : Bool) : Option Nat :=
  match masterOf l with
  | none => some 6
  | some m =>
    let gather := l.foldl (fun x j => max x j.gatherNs) 0
    let spread := l.foldl (fun x j => max x j.spreadNs) 0
    if l.any fun j => decide (j.settings ≠ m.settings) then some 5
    else if m.settings.periodUs ≤ 2 * m.settings.guardUs ∨ (delays ∧ m.settings.guardUs * 1000 ≤ gather + spread) then some 7
    else if m.settings.members < l.length ∨ (full ∧ l.length < m.settings.members) then some 4
    else none

/-- Is partition `p` forming: starting, with its join sent (R54)? -/
def State.forming (s : State) (p : Nat) : Bool := s.fget (BEAT_STATE_STATE p) == 1 && !(s.part p).dom.formed

/-- One member's formation fails: the partition is stopped, with the reason (R55, R103). -/
def State.formFailOne (s : State) (p reason : Nat) : State :=
  (s.fsets [(HUB_PART_CTRL_STATE p, 1), (HUB_PART_CTRL_REASON p, reason), (BEAT_STATE_STATE p, 0), (BEAT_STATE_MASTER p, 0),
    (BEAT_DOMAIN_MASTER_NODE p, 0xFFFF), (BEAT_DOMAIN_MASTER_PART p, 0)]).updDom p fun _ => .idle

/-- A withdraw symbol of member `part` of node `node` reaches the local members of domain `id` (R55): one that is forming and has counted it
fails, with the first cause that holds among the joined in the order of R103. One that counts the domain as formed, and whose first beat has not
begun, fails with 7 when the master withdraws, which then found the delays too great, and with 4 when another member does, for which the domain
had not formed; the master itself, whose count is the domain's, lets that one pass (DEDUCED, log entry 73). -/
def State.withdrawLocal (s : State) (id node part : Nat) : State :=
  s.each allParts fun s p =>
    if s.fget (BEAT_STATE_STATE p) = 1 ∧ s.domId p = some id ∧ ((s.part p).dom.joined.any fun j => j.node == node && j.part.val == part) then
      if s.forming p then s.formFailOne p ((formCause (s.part p).dom.joined false (s.isMaster p)).getD 4)
      else if (s.domMaster p).any fun m => m.node == node && m.part.val == part then s.formFailOne p 7
      else if s.isMaster p then s
      else s.formFailOne p 4
    else s

/-- Partition `p`, which was joined under `id`, withdraws: on its ports and toward the other partitions of the device (R54). -/
def State.sendWithdraw (s : State) (id : Option Nat) (p : Nat) : State :=
  match id with
  | none => s
  | some d => (s.flood none (.withdraw d s.node p)).withdrawLocal d s.node p

/-- Steps 1 and 2 of R419 for one partition: the fault is logged, FAULT holds it, and everything the partition runs stops. -/
def State.raiseOne (s : State) (p : Nat) (c : Code) (w : Cause) : State :=
  ((s.logFault p c w).fset (HUB_PART_CTRL_FAULT p) c.num).haltPart p

/-- The interrupt of a partition fault: step 4 of R419. It follows the interrupts of the ring whose descriptor raised the
fault (R96, R406); `key` names that ring. -/
def State.faultIrq (s : State) (p key : Nat) : State :=
  if s.flag (HUB_PART_FCFG_IRQ p) then s.queueIrq key none (irqMsg (s.fget (HUB_PART_FCFG_VECTOR p)) 2 p) else s

/-- Can partition `p` raise this fault: it is starting, running or stopping; or stopped, for MEM_UNCORR and device-fatal
faults (R419, R421, R424)? -/
def State.mayFault (s : State) (p : Nat) (c : Code) : Bool :=
  s.active p || (s.pstate p == 1 && (c == .memUncorr || c.num ≥ 0xF00))

/-- The key under which a partition's own fault interrupt is queued when no ring's descriptor raised it. -/
def partKey (p : Nat) : Nat := 256 + p

/-- A member's beat has ended in a stall or overrun (BEAT_STATE), and the countdown it may have had. -/
def State.endMember (s : State) (p : Nat) : State :=
  (s.fset (BEAT_STATE_STATE p) 4).updDom p fun d => { d with boundary := none }

/-- A member's job stops with BEAT_STALL; the origin that the stall symbol names is kept (R62, R422). A partition already faulted records
it (R419). -/
def State.stallOne (s : State) (p : Nat) (f : FaultOrigin) : State :=
  let s := s.fsets [(HUB_PART_FLT_ORIGIN_NODE p, f.node), (HUB_PART_FLT_ORIGIN_PART p, f.part), (HUB_PART_FLT_ORIGIN_CODE p, f.code)]
  let w : Cause := { unit := unitHub, log := f.code * 2 ^ 34 + f.part * 2 ^ 46 + f.node * 2 ^ 48 }
  if s.mayFault p .beatStall then ((s.raiseOne p .beatStall w).endMember p).faultIrq p (partKey p)
  else if s.pstate p = 5 then s.logFault p .beatStall w
  else s

/-- The domain of partition `p` stalls: the symbol leaves on each beat port but `not`, and every local member but the originator raises
BEAT_STALL (R62, R65, R422). -/
def State.stallAll (s : State) (p : Nat) (not : Option Nat) (f : FaultOrigin) : State :=
  let ms := s.mates p
  ((s.floodDom p not fun d => .stall d f).endDom ms).each ms fun s q => if f.node = s.node ∧ f.part = q then s else s.stallOne q f

/-- Step 3 of R419: the withdraw symbol of a forming member (R54), the master's own stall symbol, or the fault token of any other member
(R65). A member whose domain has already ended sends nothing. -/
def State.tellDomain (s : State) (p : Nat) (c : Code) : State :=
  let f : FaultOrigin := ⟨s.node, p, c.num⟩
  if s.forming p then
    ((s.fset (BEAT_STATE_STATE p) 0).updDom p fun _ => .idle).sendWithdraw (s.domId p) p
  else if s.fget (BEAT_STATE_STATE p) = 0 then s
  else
    let s := s.endMember p
    if s.inDomain p = false then s
    else if (s.hosted p).isSome then s.stallAll p none f
    else s.sendUp p fun d => .faultToken d f

/-- R419, up to its interrupt: a partition raises a job-fatal fault. A partition already faulted runs step 1 only (R419); a
stopped one faults only as R421 says. -/
def State.raiseCore (s : State) (p : Nat) (c : Code) (w : Cause) : State :=
  if s.mayFault p c then (s.raiseOne p c w).tellDomain p c
  else if s.pstate p = 5 then s.logFault p c w
  else if c = .memUncorr then s.record { code := c.num, unit := w.unit, part := some p, log := w.log, tag := w.tag, cls := w.cls, addr := w.addr }
  else s

/-- A partition raises a job-fatal fault (R419). -/
def State.raise (s : State) (p : Nat) (c : Code) (w : Cause) : State :=
  if s.mayFault p c then (s.raiseCore p c w).faultIrq p (partKey p) else s.raiseCore p c w

/-- FAULT_N is low (R425): the hub is device-fatal, or a partition whose PIN is 1 is faulted. -/
def State.faultPin (s : State) : Bool :=
  s.fatal || [0, 1, 2, 3].any fun p => s.pstate p == 5 && s.flag (HUB_PART_FCFG_PIN p)

/-! ## Completion entries -/

/-- The entries of a ring, by its LOG2 (R81). -/
def State.sqSize (s : State) (n : Nat) : Nat := 2 ^ s.fget (HUB_RING_SQ_LOG2 n)

/-- The entries of a completion ring. -/
def State.cqSize (s : State) (n : Nat) : Nat := 2 ^ s.fget (HUB_RING_CQ_LOG2 n)

/-- CQ_TAIL as a completion position: (1 − PHASE) × S + INDEX (R99). -/
def State.cqTailPos (s : State) (n : Nat) : Nat :=
  (1 - s.fget (HUB_RING_PTRS_CQ_PH n)) * s.cqSize n + s.fget (HUB_RING_PTRS_CQ_TAIL n)

/-- Completion entries written and not yet freed: w of R99. -/
def State.cqUsed (s : State) (n : Nat) : Nat :=
  (s.cqTailPos n + 2 * s.cqSize n - (s.ring n).cqHead) % (2 * s.cqSize n)

/-- The 32 bytes of a completion entry (R97). -/
def entryBytes (d : Desc) (phase beat : Nat) : Nat :=
  dTag d.raw + (d.status + b2n d.noop * 2 ^ 12) * 2 ^ 32 + dClass d.raw * 2 ^ 48 + phase * 2 ^ 56
    + beat * 2 ^ 64 + d.sq * 2 ^ 112 + d.result * 2 ^ 128

/-- Does a completion write an entry (R98)? -/
def Desc.writesEntry (d : Desc) : Bool := dComplete d.raw || d.status != 0

/-- Does a completion send an interrupt (R98)? -/
def Desc.sendsIrq (d : Desc) : Bool := dIrq d.raw || d.status != 0

/-- The entry is written at CQ_TAIL, which advances; its phase flips at each wrap (R97). -/
def State.writeEntry (s : State) (n : Nat) (d : Desc) : State :=
  let i := s.fget (HUB_RING_PTRS_CQ_TAIL n)
  let ph := s.fget (HUB_RING_PTRS_CQ_PH n)
  let p := s.ringPart n
  let s := s.storeNat (s.fget (HUB_RING_CQ_BASE n) * 4096 + 32 * i) 32 (entryBytes d ph (s.beat p)) (.entry p n)
  if i + 1 = s.cqSize n then (s.fset (HUB_RING_PTRS_CQ_TAIL n) 0).fset (HUB_RING_PTRS_CQ_PH n) (1 - ph)
  else s.fset (HUB_RING_PTRS_CQ_TAIL n) (i + 1)

/-- The tag of the last write made for ring `n`'s entries, while it is unacknowledged. -/
def Glk.entryTag (g : Glk) (p n : Nat) : Option Nat :=
  ((g.outst ++ g.deferred.map (·.2)).filter fun o => decide (o.owner = .entry p n)).getLast?.map (·.tag)

/-- The ring's interrupt follows its entry's acknowledgement (R98, R406). -/
def State.ringIrq (s : State) (n : Nat) (wrote : Bool) : State :=
  s.queueIrq n (if wrote then s.glk.entryTag (s.ringPart n) n else none) (irqMsg (s.fget (HUB_RING_CFG_VECTOR n)) 0 n)

/-- A ring with nothing in flight that is DRAINING becomes OFF (R80). -/
def State.settleRing (s : State) (n : Nat) : State :=
  if s.ringState n = 2 ∧ (s.ring n).inflight = [] then s.fset (HUB_RING_PTRS_STATE n) 0 else s

/-- Steps 3 and 4 of R93 for a ring's descriptor: entry, interrupt, counters; the descriptor leaves the ring. -/
def State.finishRing (s : State) (n : Nat) (d : Desc) : State :=
  let s := s.updRing n fun q => { q with inflight := q.inflight.filter (fun e => e.id != d.id) }
  let s := if d.writesEntry then s.writeEntry n d else s
  let s := if d.sendsIrq then s.ringIrq n d.writesEntry else s
  let s := s.fadd (HUB_RING_CNT0_COMPLETED n) 1
  let s := if d.noop then s.fadd (HUB_RING_CNT1_NOOPS n) 1 else s
  let s := if d.status ≠ 0 then s.fadd (HUB_RING_CNT1_ERRORS n) 1 else s
  s.settleRing n

/-- What a record of a descriptor's fault carries. -/
def Desc.cause (d : Desc) (w : Cause) : Cause := { w with tag := dTag d.raw, cls := dClass d.raw }

/-- The record of a launched descriptor's fault names the slot that launched it (R120): in ADDR, LOG or UNIT, the first of them that is free,
when its UNIT names another (log entry 78). -/
def Cause.launched (w : Cause) (o : Origin) : Cause :=
  match o with
  | .ring _ => w
  | .slot r k =>
    let u := unitSlot r k
    if w.unit = u ∨ w.unit = 0 then { w with unit := u }
    else if w.addr = 0 then { w with addr := u }
    else if w.log = 0 then { w with log := u }
    else { w with unit := u }

/-- A fault arises from a descriptor (R96): the partition faults, the descriptor's entry carries the code and is sent, with its
interrupt, before the partition's interrupt (R419). A launched descriptor writes no entry (R120). -/
def State.descFault (s : State) (o : Origin) (d : Desc) (c : Code) (w : Cause) : State :=
  let p := s.originPart o
  let live := s.mayFault p c
  let s := s.raiseCore p c ((d.cause w).launched o)
  match o with
  | .ring n =>
    let s := s.finishRing n { d with status := c.num, noop := false, result := 0 }
    if live then s.faultIrq p n else s
  | .slot r k =>
    let s := s.updSlot r k fun q => { q with inflight := q.inflight.filter (fun e => e.id != d.id) }
    if live then s.faultIrq p (partKey p) else s

end Sys2Proof.Machine
end

