-- ==== Sys2Proof/Machine/Sector.lean ====
section
/-! DEFINITION. The memory sectors: what a read of a damaged sector does (R328 to R331), and the booking list (R73, R74). -/
namespace Sys2Proof.Machine

/-- The row of a stack address: its pseudo-channel and its number there (R324). -/
def rowOfAddr (m sa : Nat) : Nat × Nat := (pcOf sa, Config.rowOf m sa)

/-- The symbols in error of the sector at DPA `a`. -/
def State.errsAt (s : State) (a : Nat) : List (Nat × Byte) := mgetD s.damage (a / 64) []

/-- The sector at DPA `a` holds these symbols in error. -/
def State.setErrs (s : State) (a : Nat) (e : List (Nat × Byte)) : State :=
  { s with damage := if e = [] then merase s.damage (a / 64) else mset s.damage (a / 64) e }

/-- Physical errors strike stored sectors. -/
def State.strike (s : State) (u : ReadUpset) : State :=
  s.each u fun s x =>
    if x.1 < dramEnd then s.setErrs x.1 (addErrors (s.errsAt x.1) x.2)
    else if glkBase ≤ x.1 ∧ x.1 < glkEnd then s.strikeLine (lineOf (x.1 - glkBase)) x.2
    else s

/-- A correction in a row is counted in the watch list of its controller, which serves two pseudo-channels of each stack (R324, R333): a row
already there counts up; a new one enters, replacing in a full list the entry with the fewest corrections, the oldest among equals. -/
def watchRow (w : List ((Nat × Nat × Nat) × Nat)) (row : Nat × Nat × Nat) : List ((Nat × Nat × Nat) × Nat) :=
  let mine := fun (e : (Nat × Nat × Nat) × Nat) => e.1.2.1 / 2 == row.2.1 / 2
  if w.any fun e => e.1 == row then w.map fun e => if e.1 = row then (e.1, e.2 + 1) else e
  else if (w.filter mine).length < 64 then w ++ [(row, 1)]
  else
    let least := (w.filter mine).foldl (fun m e => min m e.2) (((w.filter mine).headD (row, 0)).2)
    dropFirst (fun e => mine e && e.2 == least) w ++ [(row, 1)]

/-- A sector is corrected: counted, recorded at the first correction of its row since the last pass, and its row due for sparing
at THRESH (R330, R333). -/
def State.countCorrection (s : State) (a : Nat) : State :=
  let m := (stackAddr s.layout a).1
  let sa := (stackAddr s.layout a).2
  let row := rowOfAddr m sa
  let s := s.fadd (MEM_CNT_CORRECTED (m / 3) (m % 3)) 1
  let s := if (s.stack m).noted.contains row then s
    else (s.record { code := 6, note := true, unit := unitStack m, addr := sa }).updStack m fun k => { k with noted := k.noted ++ [row] }
  let s := s.updRegion (m / 3) fun q => { q with watch := watchRow q.watch (m, row) }
  let n := (((s.region (m / 3)).watch.find? fun e => e.1 == (m, row)).map (·.2)).getD 0
  let th := s.fget (MEM_SPARE_THRESH (m / 3))
  if th ≠ 0 ∧ th ≤ n ∧ (s.stack m).due.contains row = false then s.updStack m fun k => { k with due := k.due ++ [row] } else s

/-- The data symbols that a decoder's answer leaves changed: the stored errors with its correction added (R328). -/
def State.applyErrs (s : State) (a : Nat) (e : List (Nat × Byte)) : State :=
  s.each (e.filter fun x => decide (x.1 < 64)) fun s x =>
    let b := a / 64 * 64 + x.1
    { s with mem := s.mem.write b (s.mem.read b ^^^ x.2) }

/-- MEM_ERR_LOG takes the first uncorrectable sector of the region (R331). -/
def State.logUncorr (s : State) (a : Nat) (scrub : Bool) : State :=
  let m := (stackAddr s.layout a).1
  let r := m / 3
  let s := s.fadd (MEM_CNT_UNCORR r (m % 3)) 1
  if s.flag (MEM_ERR_LOG_VALID r) then s
  else s.fsets [(MEM_ERR_LOG_VALID r, 1), (MEM_ERR_LOG_SCRUB r, b2n scrub), (MEM_ERR_LOG_STACK r, m % 3),
    (MEM_ERR_LOG_PART r, partOfDram s.layout a), (MEM_ERR_LOG_PC r, pcOf (stackAddr s.layout a).2), (MEM_ERR_LOG_DPA r, a / 64 * 64)]

/-- A read decodes the sector of DPA `a` (R328, R330): the state after it, and whether data was delivered. A corrected sector is
written back, errors that the decoder missed or took for another symbol's change the data; an uncorrectable one is logged (R331). -/
def State.readQuiet (s : State) (a : Nat) (scrub : Bool) : State × Bool :=
  let e := s.errsAt a
  if e = [] then (s, true) else
  match sectorDecode e with
  | .clean => ((s.applyErrs a e).setErrs a [], true)
  | .corrected i v => (((s.applyErrs a (addErrors e [(i, v)])).setErrs a []).countCorrection a, true)
  | .uncorrectable => (s.logUncorr a scrub, false)

/-- MEM_ERR_LOG of a region as a register word. -/
def State.memWord (s : State) (r : Nat) : Nat := (MEM_ERR_LOG_fields r).foldl (fun n f => n + s.fget f * 2 ^ f.lsb) 0

/-- The cause of MEM_UNCORR for a sector (R331); its LOG is the log register of the stack's region as it stands (R434). -/
def State.uncorrCause (s : State) (a : Nat) : Cause :=
  let m := stackOf s.layout a
  { unit := unitStack m, log := s.memWord (m / 3), addr := a / 64 * 64 }

/-- A read whose uncorrectable sector raises MEM_UNCORR in the partition whose share holds it (R331). -/
def State.readSector (s : State) (a : Nat) (scrub : Bool) : State × Bool :=
  let x := s.readQuiet a scrub
  if x.2 then x else (x.1.raise (partOfDram x.1.layout a) .memUncorr (x.1.uncorrCause a), false)

/-- The sectors of a DRAM range, by address. -/
def sectorsOf (a len : Nat) : List Nat :=
  if len = 0 then [] else (List.range ((a + len + 63) / 64 - a / 64)).map fun i => (a / 64 + i) * 64

/-- The damaged sectors that a set of ranges touches. -/
def State.damagedIn (s : State) (ranges : List (Nat × Nat)) : List Nat :=
  (s.damage.map fun d => d.1 * 64).filter fun a => ranges.any fun x => decide (a < x.1 + x.2) && decide (x.1 < a + 64)

/-- Every damaged sector of the ranges is read (R328): the state, and whether all delivered data. -/
def State.readRanges (s : State) (ranges : List (Nat × Nat)) : State × Bool :=
  (s.damagedIn ranges).foldl (fun x a => let y := x.1.readSector a false; (y.1, x.2 && y.2)) (s, true)

/-- The injection of R497 kind 4 meets a read made for partition `p`: its sector lies in the ranges, and K symbols are inverted for
that read only. -/
def State.injSector (s : State) (p : Nat) (ranges : List (Nat × Nat)) : Option Nat :=
  let a := s.fget JIB_INJ_ADDR_SECTOR * 64
  if s.injOn 4 p ∧ a < dramEnd ∧ (ranges.any fun x => decide (a < x.1 + x.2) && decide (x.1 < a + 64)) then some a else none

/-- A read of a range set for partition `p`: damaged sectors are read in order; the first uncorrectable one is logged and named
(R331). An injected error of one symbol is corrected, one of two or three is not (R497). -/
def State.readFor (s : State) (p : Nat) (ranges : List (Nat × Nat)) : State × Option Nat :=
  let go := fun (x : State × Option Nat) (a : Nat) =>
    match x.2 with
    | some _ => x
    | none => let y := x.1.readQuiet a false; (y.1, if y.2 then none else some a)
  match s.injSector p ranges with
  | some a =>
    let t := s.injFire p
    if s.fget JIB_INJ_K = 1 then (t.damagedIn ranges).foldl go (t.countCorrection a, none) else (t.logUncorr a false, some a)
  | none => (s.damagedIn ranges).foldl go (s, none)

/-- A write of a range: damaged sectors that it covers in part are read first; when all deliver, those that it covers whole become good (R329).
The state, and the sector that keeps the write from happening, if one is uncorrectable. -/
def State.writeRange (s : State) (a len : Nat) : State × Option Nat :=
  let part := (s.damagedIn [(a, len)]).filter fun sec => !(decide (a ≤ sec) && decide (sec + 64 ≤ a + len))
  let x := part.foldl
    (fun (x : State × Option Nat) sec =>
      match x.2 with
      | some _ => x
      | none => let y := x.1.readQuiet sec false; (y.1, if y.2 then none else some sec))
    (s, none)
  match x.2 with
  | some sec => (x.1, some sec)
  | none => (x.1.goodOver a len, none)

/-- MEM_UNCORR met on behalf of an owner: it arises from the owner's descriptor, if that is in flight, else from the partition whose
share holds the sector (R96, R331). -/
def State.memFault (s : State) (a : Nat) (owner : Owner) : State :=
  let plain := s.raise (partOfDram s.layout a) .memUncorr (s.uncorrCause a)
  match owner with
  | .desc p id =>
    match s.originOf p id with
    | some o =>
      match s.desc? o id with
      | some d => s.descFault o d .memUncorr (s.uncorrCause a)
      | none => plain
    | none => plain
  | _ => plain

/-! ## Slot windows (R37, R40, R192) -/

/-- The region whose register block holds DPA `a`, and whether it stands in a slot block (R49). -/
def regRegion (a : Nat) : Option (Nat × Bool) :=
  if 0xF0100000000 ≤ a ∧ a < 0xF0104000000 then
    some ((a - 0xF0100000000) / 0x1000000, decide (0x800000 ≤ (a - 0xF0100000000) % 0x1000000))
  else none

/-- The region and slot whose window holds DPA `a`. -/
def windowSlot (a : Nat) : Option (Nat × Nat) :=
  match target a with
  | .coreStore r k | .accStore r k | .ccImem r k | .ccDmem r k => some (r, k)
  | _ => none

/-- The slot through whose window or block DPA `a` is reached (R39, R49). -/
def slotAt (a : Nat) : Option (Nat × Nat) :=
  match regRegion a with
  | some (r, _) =>
    let o := (a - 0xF0100000000) % 0x1000000
    if 0x800000 ≤ o ∧ o < 0xD00000 then some (r, (o - 0x800000) / 0x20000) else none
  | none => windowSlot a

/-- Is the slot through which DPA `a` is reached being handed over (R40, R49)? -/
def State.inHandover (s : State) (a : Nat) : Bool :=
  match slotAt a with
  | some (r, k) => (s.region r).handover == some k
  | none => false

/-- Is a write into this part of a slot window turned away as busy (R40, R192)? The reason 7, and whether it is recorded. -/
def State.windowBusy (s : State) (a : Nat) : Option (Nat × Bool) :=
  match target a with
  | .accStore r k =>
    let g := (a - accBase r k 0) / 0x8000
    let st := s.fget (CORE_ACC_GRP_STATE r k g)
    if st = 1 ∨ st = 2 then some (7, true) else none
  | .ccImem r _ => if s.pstate (s.regionPart r) = 1 then none else some (7, false)
  | _ => none

/-- The parts of a range of the SRAM windows that lie in one store each (R39): every store begins on a multiple of 32 KiB. -/
def sramParts (a len : Nat) : List (Nat × Nat) :=
  if len = 0 then [] else
  (List.range ((a + len + 0x7FFF) / 0x8000 - a / 0x8000)).map fun i =>
    let lo := max a ((a / 0x8000 + i) * 0x8000)
    (lo, min (a + len) ((a / 0x8000 + i + 1) * 0x8000) - lo)

/-- Does a write into a part of an SRAM window write nothing, and is it recorded (R37, R40, R192)? -/
def State.windowFails (s : State) (a : Nat) : Option Bool :=
  if target a = .unmapped then some true else (s.windowBusy a).map (·.2)

/-- Bytes written into SRAM windows, part by part; a part that no store holds or whose store is busy is not written (R37, R40, R192). -/
def State.putSram (s : State) (owner : Owner) : List (Nat × Nat) → List Byte → State
  | [], _ => s
  | (a, n) :: t, bs =>
    let s := match s.windowFails a with
      | some true => s.noteAccess a
      | some false => s
      | none => s.store a (bs.take n) owner
    s.putSram owner t (bs.drop n)

/-- A unit's reads of SRAM windows that no store backs complete with an error reply and are recorded, by part (R37; log entry 79). -/
def State.noteReads (s : State) (ranges : List (Nat × Nat)) : State :=
  s.each (ranges.flatMap fun x => if sramBase ≤ x.1 then sramParts x.1 x.2 else []) fun s x =>
    if target x.1 = .unmapped then s.noteAccess x.1 else s

/-- Bytes read in an accumulation store: an element of an OPEN group that has not yet been added to reads as +0 (R191). `k` is its slot, `off`
the offset in the store. -/
def State.accRead (s : State) (r k off : Nat) (bs : List Byte) : List Byte :=
  bs.zipIdx.map fun (b, i) =>
    let g := (off + i) / 0x8000
    let row := (off + i) % 0x8000 / 256
    if s.fget (CORE_ACC_GRP_STATE r k g) == 1 && !((s.slot r k).begun.contains g && decide (row < s.fget (CORE_ACC_GRP_ROWS r k g))) then 0 else b

/-- Bytes read through SRAM windows. -/
def State.windowLoad (s : State) (a n : Nat) : List Byte :=
  match target a with
  | .accStore r k => s.accRead r k (a - accBase r k 0) (s.load a n)
  | _ => s.load a n

/-- Bytes that a unit reads: what the manual does not give for a part that no store backs is free (R37; log entry 79). -/
def State.loadAny (s : State) (a n : Nat) : List Byte :=
  if a < sramBase then s.load a n
  else (sramParts a n).flatMap fun x =>
    if target x.1 = .unmapped then (List.range x.2).map fun i => Config.freeByte ((s.freeCtr + 1) * 2 ^ 44 + x.1 + i) else s.windowLoad x.1 x.2

/-- Does a range of an access touch a slot window in a handover (R40)? -/
def State.handoverMeets (s : State) (ranges : List (Nat × Nat)) : Bool :=
  ranges.any fun x => decide (sramBase ≤ x.1) && (sramParts x.1 x.2).any fun y => s.inHandover y.1

/-- Is the owner a descriptor of a partition that a job-fatal fault has stopped? It writes nothing more (R419). -/
def State.ownerHalted (s : State) : Owner → Bool
  | .desc p _ | .snap p => s.pstate p == 5
  | _ => false

/-- Bytes written in DRAM or companion memory: nothing when a sector covered in part is uncorrectable (R329). -/
def State.putBytes (s : State) (owner : Owner) (a : Nat) (data : List Byte) : State :=
  let x := s.writeRange a data.length
  match x.2 with
  | none => x.1.store a data owner
  | some sec => x.1.memFault sec owner

/-- Bytes written at a DPA by a unit or an agent: sectors are encoded or read and merged under R329; memory that cannot be reached takes
nothing (R338, R426); SRAM windows under R37 and R40. -/
def State.put (s : State) (a : Nat) (data : List Byte) (owner : Owner) : State :=
  if s.ownerHalted owner then s
  else if sramBase ≤ a then s.putSram owner (sramParts a data.length) data
  else if s.refusedIn a data.length then
    s.each ((pcPieces a data.length).filter fun x => !s.dramRefuses x.1) fun s x => s.putBytes owner x.1 ((data.drop (x.1 - a)).take x.2)
  else s.putBytes owner a data

/-! ## Bookings -/

/-- The order of the booking list: by beat, then kind, then unit (R73). -/
def Booking.before (a b : Booking) : Bool :=
  decide (a.beat < b.beat) || (a.beat == b.beat && (decide (a.kind < b.kind) || (a.kind == b.kind && decide (a.unit < b.unit))))

/-- A booking enters the list in its place (R73). -/
def insertBooking (b : Booking) : List Booking → List Booking
  | [] => [b]
  | c :: t => if b.before c then b :: c :: t else c :: insertBooking b t

/-- May the booking stand in this list (R74): no second rotation of a region in a beat, and no rotation together with a clock or
voltage step of the region? -/
def bookable (l : List Booking) (b : Booking) : Bool :=
  !(l.any fun c => c.beat == b.beat && c.unit == b.unit &&
    ((b.kind == 1 && (c.kind == 1 || c.kind == 4)) || (b.kind == 4 && c.kind == 1)))

/-- The first beat from `beat` on in which the booking may stand, within `fuel` beats (R74). -/
def bookBeat (l : List Booking) (kind unit : Nat) : Nat → Nat → Nat
  | 0, beat => beat
  | f + 1, beat => if bookable l ⟨beat, kind, unit⟩ then beat else bookBeat l kind unit f (beat + 1)

/-- An action is booked in partition `p`, no earlier than two beats ahead and no earlier than `beat` (R73, R74). -/
def State.book (s : State) (p kind unit beat : Nat) : State :=
  s.updPart p fun q =>
    let b := bookBeat q.books kind unit (q.books.length + 1) (max beat (s.beat p + 2))
    { q with books := insertBooking ⟨b, kind, unit⟩ q.books }

/-- The next booking of a kind and unit. -/
def State.booked (s : State) (p kind unit : Nat) : Option Booking :=
  (s.part p).books.find? fun b => b.kind == kind && b.unit == unit

/-- A booked action moves to a later beat, with its note (R74); the beat shown for a rotation follows. -/
def State.moveBooking (s : State) (p : Nat) (b : Booking) : State :=
  let s := s.updPart p fun q => { q with books := q.books.filter (· != b) }
  let s := (s.book p b.kind b.unit (b.beat + 1)).noteHub 3 0 0
  if b.kind = 1 then s.fset (RGN_CAROUSEL_NEXT_BEAT b.unit) (((s.booked p 1 b.unit).map (·.beat)).getD 0) else s

end Sys2Proof.Machine
end

