-- ==== Sys2Proof/Machine/Checking.lean ====
section
/-! DEFINITION. Result checking: duplicate execution (R300 to R306), known-answer suites and suspect cores (R307 to R315). -/
namespace Sys2Proof.Machine

/-! ## Twins -/

/-- The twins of a region in the DUP phase, the older first (R302, R308). -/
def State.dupTwins (s : State) (r : Nat) : List Nat :=
  (if s.fget (RGN_TWIN_PHASE_TWIN0_PHASE r) = 2 then [s.fget (RGN_TWIN_IDS_TWIN0 r)] else []) ++
    (if s.fget (RGN_TWIN_PHASE_TWIN1_PHASE r) = 2 then [s.fget (RGN_TWIN_IDS_TWIN1 r)] else [])

/-- The samples of a kind that a twin holds. -/
def Region.queue (q : Region) (twin kind : Nat) : List Dup := q.dups.filter fun d => d.twin == twin && d.kind == kind

/-- The sampling rate of a kind (R300). -/
def State.dupRate (s : State) (r kind : Nat) : Nat :=
  match kind with
  | 0 => s.fget (RGN_CHK_CTRL_MAT_RATE r)
  | 1 => s.fget (RGN_CHK_CTRL_VEC_RATE r)
  | _ => s.fget (RGN_CHK_CTRL_ABC_RATE r)

/-- A sample skipped is counted (R302). -/
def State.dupSkip (s : State) (r kind : Nat) : State :=
  match kind with
  | 0 => s.fadd (RGN_DUP_MAT_SKIPPED r) 1
  | 1 => s.fadd (RGN_DUP_VEC_SKIPPED r) 1
  | _ => s.fadd (RGN_DUP_ABC_SKIPPED r) 1

/-- A sample compared is counted (R302). -/
def State.dupCount (s : State) (r kind : Nat) : State :=
  match kind with
  | 0 => s.fadd (RGN_DUP_MAT_SAMPLED r) 1
  | 1 => s.fadd (RGN_DUP_VEC_SAMPLED r) 1
  | _ => s.fadd (RGN_DUP_ABC_SAMPLED r) 1

/-- A sample meets the mirror queues of its region (R302): accepted where a DUP twin has room; a 16-bit pass takes the place of an
exact-mode pass that has not started; else skipped. -/
def State.dupOffer (s : State) (r : Nat) (d : Dup) : State :=
  let q := s.region r
  match (s.dupTwins r).find? fun t => decide ((q.queue t d.kind).length < 2) with
  | some t => s.updRegion r fun q => { q with dups := q.dups ++ [{ d with twin := t }] }
  | none =>
    match (s.dupTwins r).find? fun t => d.kind == 0 && !d.exact && ((q.queue t 0).drop 1).any (·.exact) with
    | some t =>
      let s := s.updRegion r fun q => { q with
        dups := match ((q.queue t 0).drop 1).find? (·.exact) with
          | some x => q.dups.reverse.erase x |>.reverse
          | none => q.dups }
      (s.updRegion r fun q => { q with dups := q.dups ++ [{ d with twin := t }] }).dupSkip r 0
    | none => s.dupSkip r d.kind

/-- A unit of work of a kind may be sampled, with probability 2^−n (R300): the decision is left to chance (log entry 12). -/
def State.sample (s : State) (r kind slot tag : Nat) (exact : Bool) (unit : Mirror) : State :=
  let n := s.dupRate r kind
  let hit := Config.chance s.freeCtr n % 2 ^ n == 0
  let s := s.tick
  if hit then s.dupOffer r ⟨kind, 0x3F, if kind = 2 then 0x3F else s.slotCore r slot, slot, tag, s.beat (s.regionPart r), exact, unit⟩ else s

/-- RGN_DUP_LOG of a region as a word. -/
def State.dupLog (s : State) (r : Nat) : Nat :=
  s.fget (RGN_DUP_LOG_VALID r) * 2 ^ 63 + s.fget (RGN_DUP_LOG_KIND r) * 2 ^ 61 + s.fget (RGN_DUP_LOG_TWIN r) * 2 ^ 48 +
    s.fget (RGN_DUP_LOG_WORKER r) * 2 ^ 42 + s.fget (RGN_DUP_LOG_SLOT r) * 2 ^ 36 + s.fget (RGN_DUP_LOG_TAG r)

/-- DUP_MISMATCH (R301, R305): logged, recorded with the sample's beat, both cores suspect, job-fatal. -/
def State.dupMismatch (s : State) (r : Nat) (d : Dup) : State :=
  let s := if s.flag (RGN_DUP_LOG_VALID r) then s
    else s.fsets [(RGN_DUP_LOG_VALID r, 1), (RGN_DUP_LOG_KIND r, d.kind), (RGN_DUP_LOG_TWIN r, d.twin), (RGN_DUP_LOG_WORKER r, d.worker),
      (RGN_DUP_LOG_SLOT r, d.slot), (RGN_DUP_LOG_TAG r, d.tag)]
  let s := s.suspect r d.twin
  let s := if d.worker < 42 then s.suspect r d.worker else s
  s.raise (s.regionPart r) .dupMismatch
    { unit := if d.kind = 2 then unitRegion r else unitSlot r d.slot, log := s.dupLog r, tag := d.tag, addr := d.beat }

/-- The outputs that a twin's replay delivers, when the bytes of `wrong` come out with these bits inverted (R301). -/
def Mirror.replay (m : Mirror) (wrong : List (Nat × Byte)) : List Byte :=
  wrong.foldl (fun l x => l.set x.1 (l.getD x.1 0 ^^^ x.2)) m.outs

/-- DUP_COMPARE: a twin has replayed its oldest sample of a kind from the mirrored streams and compares the digests (R301). -/
def dupCompare (r twin kind : Nat) (wrong : List (Nat × Byte)) (s : State) : State :=
  match (s.region r).queue twin kind with
  | [] => s
  | d :: _ =>
    let s := (s.updRegion r fun q => { q with dups := q.dups.erase d }).dupCount r kind
    if crc64 (d.unit.replay wrong) = d.unit.digest then s else s.dupMismatch r d

/-- DUP_COMPARE (R301). -/
def execDupCompare (r : Fin 4) (twin kind : Nat) (wrong : List (Nat × Byte)) (s : State) : Host.Outcome State Fault Refusal :=
  .next (dupCompare r twin kind wrong s)

/-! ## Suites (R307 to R315) -/

/-- Is a core retired? -/
def State.isRetired (s : State) (r core : Nat) : Bool := s.fbit (RGN_TWINS_RETIRED r) core

/-- The field of a core's voltage offset and its place there (RGN_VOFS0, RGN_VOFS1). -/
def vofsAt (r core : Nat) : Fld × Nat := if core < 21 then (RGN_VOFS0_STEPS r, 3 * core) else (RGN_VOFS1_STEPS r, 3 * (core - 21))

/-- The voltage offset of a core, in steps (R314). -/
def State.vofs (s : State) (r core : Nat) : Nat := bits (s.fget (vofsAt r core).1) (vofsAt r core).2 3

/-- The offset goes up by one step (R314). -/
def State.vofsUp (s : State) (r core : Nat) : State :=
  s.fset (vofsAt r core).1 (setBits (s.fget (vofsAt r core).1) (vofsAt r core).2 3 (s.vofs r core + 1))

/-- The voltage that a core needs with an offset, in mV (R452). -/
def State.coreMv (s : State) (r core ofs : Nat) : Nat := mgetD s.sec.part.vmin (64 * r + core) 0 + 10 * ofs

/-- The set-point that VDD_Cn needs: the highest voltage of its cores, plus 25 mV (R452). -/
def State.railTarget (s : State) (r : Nat) : Nat :=
  25 + ((List.range 42).filter fun c => !s.fbit (RGN_TWINS_RETIRED r) c).foldl (fun m c => max m (s.coreMv r c (s.vofs r c))) 0

/-- The set-point of an adjustable rail. -/
def State.railMv (s : State) (i : Nat) : Nat := mgetD s.power.rail i 0

/-- The voltage at which on-die trim holds a core: its own, at most 100 mV below the rail (R452). -/
def State.trimMv (s : State) (r core : Nat) : Nat := max (s.coreMv r core (s.vofs r core)) (s.railMv r - 100)

/-- One voltage step toward a target: at most 25 mV (R453). -/
def mvStep (cur target : Nat) : Nat := if cur ≤ target then min target (cur + 25) else max target (cur - 25)

/-- A step of region `r` is due (R453): booked as KIND 4 in a running partition, unless one is; at once in a stopped one. -/
def State.voltStep (s : State) (r : Nat) : State :=
  let p := s.regionPart r
  if s.railMv r = s.railTarget r then s
  else if s.running p = false then s.setRail r (s.railTarget r)
  else if (s.booked p 4 r).isSome then s
  else s.book p 4 r 0

/-- The booked step of region `r` takes effect at its boundary; what is left is booked again (R453). -/
def State.railMoves (s : State) (r : Nat) : State := (s.setRail r (mvStep (s.railMv r) (s.railTarget r))).voltStep r

/-- The next core after `c` in ascending cyclic order that is neither a twin nor retired, within `f` steps (R311, R312). -/
def State.nextWorker (s : State) (r : Nat) : Nat → Nat → Nat
  | 0, c => c
  | f + 1, c => if s.isTwin r ((c + 1) % 42) || s.isRetired r ((c + 1) % 42) then s.nextWorker r f ((c + 1) % 42) else (c + 1) % 42

/-- The slot of a physical core, if it holds one. -/
def State.slotOfCore (s : State) (r core : Nat) : Option Nat := (List.range 40).find? fun k => s.slotCore r k == core

/-- A retired twin leaves; the other twin, if any, is then the older one (R315). -/
def State.dropTwin (s : State) (r core : Nat) : State :=
  if s.fget (RGN_TWIN_IDS_TWIN0 r) = core then
    s.fsets [(RGN_TWIN_IDS_TWIN0 r, s.fget (RGN_TWIN_IDS_TWIN1 r)), (RGN_TWIN_PHASE_TWIN0_PHASE r, s.fget (RGN_TWIN_PHASE_TWIN1_PHASE r)),
      (RGN_TWIN_IDS_TWIN1 r, 0x3F), (RGN_TWIN_PHASE_TWIN1_PHASE r, 0)]
  else if s.fget (RGN_TWIN_IDS_TWIN1 r) = core then s.fsets [(RGN_TWIN_IDS_TWIN1 r, 0x3F), (RGN_TWIN_PHASE_TWIN1_PHASE r, 0)]
  else s

/-- A core is retired (R315): out of every role; a working core's slot goes to the older twin (R30); the retirement is recorded. -/
def State.retireCore (s : State) (r core : Nat) : State :=
  let s := s.fsetBit (RGN_TWINS_RETIRED r) core true
  let s := s.noteHub 0x00A 0 0
  let s := s.updRegion r fun q => { q with suites := q.suites.filter (·.1 != core), volts := q.volts.filter (· != core) }
  let s := match s.slotOfCore r core with
    | none => s.dropTwin r core
    | some k =>
      let t := s.fget (RGN_TWIN_IDS_TWIN0 r)
      if t = 0x3F then s.setDie r 3 else (s.fset (slotMapFld r k) t).dropTwin r t
  (if s.fget (RGN_CAROUSEL_NEXT_OUT r) = core then s.fset (RGN_CAROUSEL_NEXT_OUT r) (s.nextWorker r 42 core) else s).voltStep r

/-- KAK_FAIL of a core (R309, R310): counted and recorded with the beats in which it last passed a suite and last held a slot; job-fatal
for a twin's suite while KAK_STOP is 1, which in a FAULTED partition is one more pending fault (R419). -/
def State.kakFail (s : State) (r core : Nat) : State :=
  let s := ((s.fadd (RGN_KAK_STAT_FAILS r) 1).fset (RGN_KAK_STAT_LAST_FAIL r) core).fsetBit (RGN_SUSPECT_SUSPECT r) core true
  let pass := mgetD (s.region r).lastPass core 0
  let held := mgetD (s.region r).lastHeld core 0
  let p := s.regionPart r
  if s.isTwin r core && s.flag (RGN_CHK_CTRL_KAK_STOP r) && (s.active p || s.pstate p == 5) then
    s.raise p .kakFail { unit := unitCore r core, log := pass, addr := held }
  else s.record { code := Code.kakFail.num, unit := unitCore r core, part := some p, log := pass, addr := held }

/-- The answer to a failed suite of a suspect core (R314): a voltage step, in a running partition booked as KIND 4 (R73), then the suite
again; after four steps, or above 0.900 V (R452), retirement. -/
def State.moreVoltage (s : State) (r core : Nat) : State :=
  if 4 ≤ s.vofs r core ∨ 900 < s.coreMv r core (s.vofs r core + 1) then s.retireCore r core
  else
    let p := s.regionPart r
    if s.running p then
      let s := s.updRegion r fun q => { q with volts := q.volts.filter (· != core) ++ [core] }
      if (s.booked p 4 r).isSome then s else s.book p 4 r 0
    else ((s.vofsUp r core).voltStep r).runSuite r core

/-- The voltage step of a region takes effect: waiting offsets go up and their cores' suites run again (R314, R453). -/
def State.regionVolts (s : State) (r : Nat) : State :=
  let cores := (s.region r).volts
  let s := s.updRegion r fun q => { q with volts := [] }
  let s := (s.each cores fun s c => s.vofsUp r c).railMoves r
  s.each cores fun s c => s.runSuite r c

/-- The step of region `r` that was booked takes effect at once in a partition that has stopped (R314, R453), and at the START that
follows a fault (log entry 37). -/
def State.settleVolts (s : State) (r : Nat) : State :=
  if (s.region r).volts = [] ∧ s.railMv r = s.railTarget r then s else s.regionVolts r

/-- A suite failed. -/
def State.suiteFail (s : State) (r core : Nat) : State :=
  let s := s.updRegion r fun q => { q with suites := q.suites.filter (·.1 != core) }
  (s.kakFail r core).moreVoltage r core

/-- The operating interval of a region's rotation, in seconds (R311). -/
def State.rotationDue (s : State) (r : Nat) : Bool :=
  decide (60 * s.fget (RGN_CHK_CTRL_INTERVAL_MIN r) ≤ s.fget (RGN_TWIN_PHASE_SINCE_S r))

/-- A rotation that is due is booked while the owning partition runs and the older twin is in DUP (R311). -/
def State.bookRotation (s : State) (r : Nat) : State :=
  let p := s.regionPart r
  if s.running p && s.rotationDue r && s.fget (RGN_TWIN_PHASE_TWIN0_PHASE r) == 2 && (s.booked p 1 r).isNone && (s.region r).handover.isNone then
    let s := s.book p 1 r 0
    s.fset (RGN_CAROUSEL_NEXT_BEAT r) (((s.booked p 1 r).map (·.beat)).getD 0)
  else s

/-- ROTATION_DUE: SINCE_S has reached the interval (R311). -/
def execRotationDue (r : Fin 4) (s : State) : Host.Outcome State Fault Refusal := .next (s.bookRotation r)

end Sys2Proof.Machine
end

