-- ==== Sys2Proof/Machine/Jars.lean ====
section
/-! DEFINITION. Marble Jars: drops, takes and peeks at a jar's home (R123 to R127), allocation (R129). -/
namespace Sys2Proof.Machine

/-- The greatest count of a jar (R126). -/
def jarMax : Nat := 0xFFFFFFFF

/-- Waiting takes are served first in, first out, while the count reaches them (R124): the jar after, and who was served. -/
def serveTakes (count : Nat) : List (Waiter × Nat) → Nat × List (Waiter × Nat) × List Waiter
  | [] => (count, [], [])
  | (w, n) :: t => if n ≤ count then let x := serveTakes (count - n) t; (x.1, x.2.1, w :: x.2.2) else (count, (w, n) :: t, [])

/-- A jar with its waiting takes served. -/
def Jar.serve (j : Jar) : Jar × List Waiter :=
  let x := serveTakes j.count j.takes
  ({ j with count := x.1, takes := x.2.1 }, x.2.2)

/-- The instruction at the control core's PC, 32 bits of its instruction memory (R117). -/
def State.insnAt (s : State) (r k : Nat) : Nat := s.loadNat (imemBase r k + s.fget (CORE_CC_PC_PC r k)) 4

/-- Register x`i` of a control core; x0 reads zero. -/
def State.xget (s : State) (r k i : Nat) : Word := if i = 0 then 0 else mgetD (s.slot r k).x i 0

/-- Register x`i` written; x0 discards writes. -/
def State.xset (s : State) (r k i : Nat) (v : Word) : State :=
  if i = 0 then s else s.updSlot r k fun q => { q with x := mset q.x i v }

/-- An instruction retires: its result in rd, the PC moved on, no wait (R117, R119). -/
def State.retire (s : State) (r k rd : Nat) (v : Word) (pc : Nat) : State :=
  let s := s.xset r k rd v
  let s := (s.fset (CORE_CC_PC_PC r k) pc).fset (CORE_CC_STAT_WAIT r k) 0
  s.updSlot r k fun q => { q with instret := (q.instret + 1) % 2 ^ 64 }

/-- The PC of a control core. -/
def State.ccPc (s : State) (r k : Nat) : Nat := s.fget (CORE_CC_PC_PC r k)

/-- The control core traps (R118): mcause and the halting PC are kept, and CC_TRAP is raised with both in its record (log entry 20). -/
def State.ccTrap (s : State) (r k cause : Nat) : State :=
  let s := s.fsets [(CORE_CC_STAT_STATE r k, 3), (CORE_CC_STAT_CAUSE r k, cause), (CORE_CC_STAT_WAIT r k, 0)]
  s.raise (s.regionPart r) .ccTrap { unit := unitSlot r k, log := cause, addr := s.ccPc r k }

/-- An instruction of 32 bits retires and the next one in order follows; past the end of instruction memory that is an instruction access
fault (R117, R118). -/
def State.retireNext (s : State) (r k rd : Nat) (v : Word) : State :=
  let t := s.retire r k rd v (s.ccPc r k + 4)
  if s.ccPc r k + 4 < 0x10000 then t else t.ccTrap r k 1

/-- rd of an instruction word. -/
def insnRd (w : Nat) : Nat := bits w 7 5
/-- rs1 of an instruction word. -/
def insnRs1 (w : Nat) : Nat := bits w 15 5
/-- rs2 of an instruction word. -/
def insnRs2 (w : Nat) : Nat := bits w 20 5
/-- funct3 of an instruction word. -/
def insnF3 (w : Nat) : Nat := bits w 12 3
/-- funct7 of an instruction word. -/
def insnF7 (w : Nat) : Nat := bits w 25 7

/-- Is a held operation a drop? Takes and operations of control cores are abandoned at a stop (R122). -/
def HeldOp.isDrop : HeldOp → Bool
  | .drop _ _ _ => true
  | _ => false

/-- A served take (R124): a descriptor's header take has succeeded; a control core's JTAKE retires with 0 in rd. -/
def State.served (s : State) : Waiter → State
  | .desc o id => s.updDesc o id fun d => { d with took := true }
  | .core r k => s.retireNext r k (insnRd (s.insnAt r k)) 0

/-- A jar of partition `p`, if it is allocated. -/
def State.jar? (s : State) (p j : Nat) : Option Jar := mget? (s.part p).jars j

/-- The state with jar `j` of partition `p` changed. -/
def State.setJar (s : State) (p j : Nat) (x : Jar) : State := s.updPart p fun q => { q with jars := mset q.jars j x }

/-- Is the jar's home in a Carousel handover (R125)? -/
def State.homeHeld (s : State) (x : Jar) : Bool := (s.region x.region).handover == some x.slot

/-- Do the homes of the partition's jars perform operations (R127): until a job-fatal fault is raised? -/
def State.jarsLive (s : State) (p : Nat) : Bool := s.pstate p != 5

/-- A jar with served takes takes its place, and then the served takes go on. -/
def State.settleJar (s : State) (p j : Nat) (x : Jar) : State :=
  let y := x.serve
  (s.setJar p j y.1).each y.2 fun s w => s.served w

/-- An operation that meets a handover of its jar's home joins those held, once (R125). -/
def State.holdOp (s : State) (p : Nat) (x : HeldOp) : State :=
  if (s.part p).heldOps.contains x then s else s.updPart p fun q => { q with heldOps := q.heldOps ++ [x] }

/-- The outcome of a drop: done, or misuse under R126. -/
inductive JarOut
  | done (s : State)
  | misuse (s : State)

/-- A drop of `n` at the home (R123, R126), by `unit`. A drop that meets a handover is kept and performed when it ends (R125); an injection
armed on the jar makes it an overflow (R497). -/
def State.dropJar (s : State) (p j n unit : Nat) : JarOut :=
  if s.jarsLive p = false then .done s else
  match s.jar? p j with
  | none => .misuse s
  | some x =>
    if s.homeHeld x then .done (s.updPart p fun q => { q with heldOps := q.heldOps ++ [.drop j n unit] })
    else if s.injOn 6 p && s.fget JIB_INJ_TARGET == j then .misuse (s.injFire p)
    else if jarMax < x.count + n then .misuse s
    else .done (s.settleJar p j { x with count := x.count + n })

/-- A take of `n` at the home: served at once when it is the first and the count reaches it, else it waits (R123, R124); one that meets a
handover is kept (R125). The flag says whether it was served. -/
def State.takeJar (s : State) (p j n : Nat) (w : Waiter) : Option (State × Bool) :=
  match s.jar? p j with
  | none => none
  | some x =>
    if s.homeHeld x then some (s.holdOp p (.take j n w), false)
    else if x.takes = [] ∧ n ≤ x.count then some (s.setJar p j { x with count := x.count - n }, true)
    else some (s.setJar p j { x with takes := x.takes ++ [(w, n)] }, false)

/-- JTRY and TAKE_NOW: the take succeeds only when no take waits and the count reaches it (R124). -/
def Jar.tryTake (x : Jar) (n : Nat) : Option Jar :=
  if x.takes = [] ∧ n ≤ x.count then some { x with count := x.count - n } else none

/-- A drop that the hardware makes for partition `p`; one that is misuse raises JAR_MISUSE with the given cause (R126). -/
def State.dropOr (s : State) (p j n : Nat) (w : Cause) : State :=
  match s.dropJar p j n w.unit with
  | .done t => t
  | .misuse t => t.raise p .jarMisuse w

/-- Would drops of one cycle together take jar `j` past its greatest count (R126)? -/
def State.dropsOverflow (s : State) (p j : Nat) (l : List (Nat × Nat)) : Bool :=
  match s.jar? p j with
  | some x => !s.homeHeld x && decide (jarMax < x.count + (l.filter fun d => d.1 == j).foldl (fun n d => n + d.2) 0)
  | none => false

/-- Drops that arrive in the same cycle, as jar and marbles: where they would together overflow the count of a jar, each of them is refused
(R126). -/
def State.dropTogether (s : State) (p : Nat) (l : List (Nat × Nat)) (w : Cause) : State :=
  s.each l fun t d =>
    if d.2 = 0 ∨ t.jarsLive p = false then t
    else if s.dropsOverflow p d.1 l then t.raise p .jarMisuse w
    else t.dropOr p d.1 d.2 w

/-! ## Allocation (R129) -/

/-- Is jar `j` free? -/
def jarFree (jars : List (Nat × Jar)) (j : Nat) : Bool := (mget? jars j).isNone

/-- The length of the run of free jars from `j` on, within `f`. -/
def freeRun (jars : List (Nat × Jar)) : Nat → Nat → Nat
  | 0, _ => 0
  | f + 1, j => if jarFree jars j then 1 + freeRun jars f (j + 1) else 0

/-- The lowest run of `n` free jars among the 4,096. -/
def findRun (jars : List (Nat × Jar)) (n : Nat) : Option Nat :=
  (List.range 4096).find? fun j => decide (n ≤ freeRun jars (min n (4096 - j)) j)

/-- The longest run of free jars, by one pass: the run under way and the best so far. -/
def longestRun (jars : List (Nat × Jar)) : Nat :=
  ((List.range 4096).foldl (fun x j => if jarFree jars j then (x.1 + 1, max x.2 (x.1 + 1)) else (0, x.2)) ((0, 0) : Nat × Nat)).2

/-- A run of jars is allocated with counts of 0 and the named home. -/
def allocRun (r k : Nat) : Nat → Nat → List (Nat × Jar) → List (Nat × Jar)
  | 0, _, l => l
  | n + 1, j, l => allocRun r k n (j + 1) (mset l j ⟨r, k, 0, []⟩)

/-- Are held remote drops of the partition meant for jar `j` (R126)? -/
def Part.dropHeldFor (q : Part) (j : Nat) : Bool :=
  (q.streams.any fun t => t.held.any fun h => h.jar == j) || q.heldOps.any fun d =>
    match d with
    | .drop i _ _ => i == j
    | _ => false

end Sys2Proof.Machine
end

