-- ==== Sys2Proof/Machine/Fabric.lean ====
section
/-! DEFINITION. The fabric: routing (R356), credits and link retry (R351 to R353), ports that go DOWN (R361), device-fatal faults
(R424), streams of remote drops at their receiver (R132 to R134) and their refusal (R349, R357). -/
namespace Sys2Proof.Machine

/-! ## Routing -/

/-- SIZE_a of axis `a` (R354). -/
def State.axisSize (s : State) (a : Nat) : Nat :=
  match a with
  | 0 => s.fget FAB_AXIS_SIZE0
  | 1 => s.fget FAB_AXIS_SIZE1
  | 2 => s.fget FAB_AXIS_SIZE2
  | _ => s.fget FAB_AXIS_SIZE3

/-- The product of the sizes of the axes below `a`. -/
def State.axisStride (s : State) : Nat → Nat
  | 0 => 1
  | a + 1 => s.axisStride a * s.axisSize a

/-- The coordinate of node `n` along axis `a` ("Node IDs, topology and routing"). -/
def State.coord (s : State) (n a : Nat) : Nat := n / s.axisStride a % s.axisSize a

/-- Does axis `a` wrap? -/
def State.torus (s : State) (a : Nat) : Bool := s.fbit FAB_TOPO_TORUS a

/-- The lowest axis on which two nodes differ. -/
def State.firstAxis (s : State) (n m : Nat) : Option Nat :=
  (List.range (s.fget FAB_TOPO_NAXES)).find? fun a => s.coord n a != s.coord m a

/-- Is the direction along axis `a` toward node `dst` minus: the shorter way round on a torus, ties going plus; toward the
destination on a mesh (R356)? -/
def State.goesMinus (s : State) (a dst : Nat) : Bool :=
  let c := s.coord s.node a
  let d := s.coord dst a
  let n := s.axisSize a
  if s.torus a then decide ((c + n - d) % n < (d + n - c) % n) else decide (d < c)

/-- The ROLE that the next hop toward a node takes (R356). -/
def State.hopRole (s : State) (dst : Nat) : Nat :=
  if dst = s.node then 1
  else if s.fget FAB_TOPO_NAXES = 0 then 0
  else
    match s.firstAxis s.node dst with
    | some a => 8 + 2 * a + b2n (s.goesMinus a dst)
    | none => 1

/-- The candidate ports toward a node, ascending; for a locally issued flit only those open to the source partition (R356). -/
def State.candidates (s : State) (dst : Nat) (src : Option Nat) : List Nat :=
  (List.range 18).filter fun p => s.fget (FAB_PORT_CFG_ROLE p) == s.hopRole dst && s.portUp p &&
    match src with
    | some q => s.fbit (FAB_PORT_CFG_PARTS p) q
    | none => true

/-- The port of a flit: the hash of R356 picks among the candidates. -/
def State.route (s : State) (f : Flit) (src : Option Nat) : Option Nat :=
  let c := s.candidates f.dstNode src
  let h := xorN (xorN (xorN f.srcNode f.dstNode) f.epoch) (4 * f.srcPart + f.dstPart)
  if c = [] then none else List.head? (c.drop (h % c.length))

/-- The dateline class of a flit on its next hop (R356): 1 once it has crossed the wrap link of its torus axis, 0 again when it
turns onto another axis. `inRole` is the ROLE of the port it came in on. -/
def State.hopDl (s : State) (f : Flit) (p : Nat) (inRole : Option Nat) : Nat :=
  let role := s.fget (FAB_PORT_CFG_ROLE p)
  if role < 8 then 0
  else
    let a := (role - 8) / 2
    let c := s.coord s.node a
    let crosses := s.torus a && (if role % 2 = 0 then c + 1 == s.axisSize a else c == 0)
    let same := match inRole with
      | some r => decide (8 ≤ r) && (r - 8) / 2 == a
      | none => false
    if crosses then 1 else if same then f.dl else 0

/-! ## Sending -/

/-- The flits that the replay buffer of a port holds (R353). -/
def fabReplayDepth : Nat := 1024

/-- The receive buffers that a port grants per channel and dateline class (R351). -/
def fabCredits : List (Nat × Nat) := [(0, 512), (1, 512), (2, 32), (3, 32), (4, 64), (5, 64)]

/-- The key of a channel and dateline class. -/
def vcKey (vc dl : Nat) : Nat := 2 * vc + dl

/-- A NULL flit: ACK and credits only (R349). -/
def nullFlit (ack credit cvc cdl : Nat) : Flit :=
  { typ := 6, vc := 0, dl := 0, dstNode := 0, dstPart := 0, srcPart := 0, srcNode := 0, epoch := 0, addr := 0, payload := [], seq := 0
    ack, credit, cvc, cdl }

/-- The last SEQ received in order (R349); `seqRx` is the next one expected. -/
def Port.lastRx (q : Port) : Nat := (q.seqRx + 4095) % 4096

/-- A buffer of an inbound port is free again: a credit goes back with the ACK (R352). -/
def State.returnCredit (s : State) (p vc dl : Nat) : State := s.emit (.flit p (nullFlit (s.port p).lastRx 1 vc dl))

/-- May the flit leave port `p` now? -/
def Port.canSend (q : Port) (f : Flit) : Bool :=
  decide (0 < mgetD q.credits (vcKey f.vc f.dl) 0) && decide (q.unacked.length < fabReplayDepth) && !q.retraining

/-- A flit leaves port `p`: with the next SEQ and the ACK, at the cost of one credit; it stays in the replay buffer; the buffer
that it held is returned (R352, R353). -/
def State.fabEmit (s : State) (p : Nat) (f : Flit) (src : Option (Nat × Nat × Nat)) : State :=
  let q := s.port p
  let g := { f with seq := q.seqTx, ack := q.lastRx }
  let s := s.updPort p fun q => { q with
    credits := mset q.credits (vcKey f.vc f.dl) (mgetD q.credits (vcKey f.vc f.dl) 0 - 1)
    unacked := q.unacked ++ [g]
    seqTx := (q.seqTx + 1) % 4096 }
  let s := s.emit (.flit p g)
  match src with
  | some (i, vc, dl) => s.returnCredit i vc dl
  | none => s

/-- The source of a flit that waits in a port: a local partition, or 4 plus the inbound port of transit traffic (R351). -/
def txSource (w : Flit × Option (Nat × Nat × Nat)) : Nat :=
  match w.2 with
  | some (i, _, _) => 4 + i
  | none => w.1.srcPart

/-- The waiting flits that could take the next slot of a port: each the first of its source, channel and dateline class, with a credit. -/
def Port.ready (q : Port) : List (Flit × Option (Nat × Nat × Nat)) :=
  (q.tx.zipIdx.filter fun e => q.canSend e.1.1 && !((q.tx.take e.2).any fun w =>
    w.1.vc == e.1.1.vc && w.1.dl == e.1.1.dl && txSource w == txSource e.1)).map (·.1)

/-- The channel of the next slot (R351): VC 2, then VC 1, then VC 0; VC 0 once the others have taken three slots while one of its flits
waited. -/
def Port.nextVc (q : Port) (l : List (Flit × Option (Nat × Nat × Nat))) : Nat :=
  if 3 ≤ q.hi ∧ l.any (·.1.vc == 0) then 0 else if l.any (·.1.vc == 2) then 2 else if l.any (·.1.vc == 1) then 1 else 0

/-- The flit of the next slot: within its channel the sources take turns, the next in number after the one last served (R351). -/
def Port.next (q : Port) : Option (Flit × Option (Nat × Nat × Nat)) :=
  let vc := q.nextVc q.ready
  let last := mgetD q.turns vc 21
  (q.ready.filter (·.1.vc == vc)).foldl
    (fun best w => match best with
      | none => some w
      | some b => if (txSource w + 43 - last) % 22 < (txSource b + 43 - last) % 22 then some w else some b)
    none

/-- A slot of port `p` goes to a waiting flit. -/
def State.fabSlot (s : State) (p : Nat) (w : Flit × Option (Nat × Nat × Nat)) : State :=
  let s := s.updPort p fun q =>
    let tx := dropFirst (· == w) q.tx
    { q with tx := tx, hi := if w.1.vc = 0 ∨ !(tx.any (·.1.vc == 0)) then 0 else q.hi + 1, turns := mset q.turns w.1.vc (txSource w) }
  s.fabEmit p w.1 w.2

/-- Up to `n` slots go to waiting flits. -/
def State.fabSlots (s : State) (p : Nat) : Nat → State
  | 0 => s
  | n + 1 =>
    match (s.port p).next with
    | some w => (s.fabSlot p w).fabSlots p n
    | none => s

/-- Waiting flits leave as credits allow (R351, R352). -/
def State.fabDrain (s : State) (p : Nat) : State := s.fabSlots p (s.port p).tx.length

/-- A flit is sent on port `p`, or waits for a slot and a credit (R351, R352). -/
def State.fabPut (s : State) (p : Nat) (f : Flit) (src : Option (Nat × Nat × Nat)) : State :=
  (s.updPort p fun q => { q with tx := q.tx ++ [(f, src)] }).fabDrain p

/-- A locally issued flit of a partition: routed and sent, or none when there is no route (R356, R357). -/
def State.sendFlit (s : State) (f : Flit) : Option State :=
  match s.route f (some f.srcPart) with
  | some p => some (s.fabPut p { f with dl := s.hopDl f p none } none)
  | none => none

/-- A flit of partition `p` toward a destination partition. -/
def State.mkFlit (s : State) (typ vc p node part epoch addr : Nat) (payload : List Byte) : Flit :=
  { typ, vc, dl := 0, dstNode := node, dstPart := part, srcPart := p, srcNode := s.node, epoch, addr, payload, seq := 0, ack := 0
    credit := 0, cvc := 0, cdl := 0 }

/-- NO_ROUTE is logged in FAB_ERR_LOG, once until CLEAR. -/
def State.logNoRoute (s : State) (p node : Nat) : State :=
  if s.flag (FAB_ERR_LOG_VALID p) then s
  else s.fsets [(FAB_ERR_LOG_VALID p, 1), (FAB_ERR_LOG_KIND p, 1), (FAB_ERR_LOG_PORT p, 0x3F), (FAB_ERR_LOG_NODE p, node)]

/-- A partition raises NO_ROUTE toward a node (R357). -/
def State.noRoute (s : State) (p node : Nat) : State :=
  (s.logNoRoute p node).raise p .noRoute { unit := unitHub, log := node }

/-! ## Ports that go down, device-fatal faults -/

/-- The buffer of an inbound port that a flit held is free: its credit goes back when that port is up (R352). -/
def State.freeBuffer (s : State) (src : Option (Nat × Nat × Nat)) : State :=
  match src with
  | some (i, vc, dl) => if s.portUp i then s.returnCredit i vc dl else s
  | none => s

/-- What a port carried is discarded, transit flits included, whose buffers in other ports are free; transit flits in other ports' queues
that hold its receive buffers are discarded too (R352, R361). -/
def State.clearPort (s : State) (p : Nat) : State :=
  let held := ((s.port p).tx.map (·.2)).filter fun b => match b with
    | some (i, _, _) => i != p
    | none => false
  let s := s.updPort p fun q => { Port.idle with eccCount := q.eccCount }
  let s := { s with ports := s.ports.map fun (e : Nat × Port) => (e.1, { e.2 with tx := e.2.tx.filter fun w => match w.2 with
    | some (i, _, _) => i != p
    | none => true }) }
  s.each held fun s b => s.freeBuffer b

/-- LINK_DOWN in partition `q` for port `p` (R361). -/
def State.linkDown (s : State) (q p : Nat) : State :=
  let peer := s.fget (FAB_PORT_STAT_PEER_NODE p)
  let s := if s.flag (FAB_ERR_LOG_VALID q) then s
    else s.fsets [(FAB_ERR_LOG_VALID q, 1), (FAB_ERR_LOG_KIND q, 0), (FAB_ERR_LOG_PORT q, p), (FAB_ERR_LOG_NODE q, peer)]
  s.raise q .linkDown { unit := unitPort p, log := s.fget (FAB_PORT_STAT_STATE p) }

/-- A port goes DOWN (R361): its flits are discarded, its lanes are down, and running partitions whose PARTS bit is set raise
LINK_DOWN. Bring-up starts again from DOWN (R359). -/
def State.portDown (s : State) (p : Nat) : State :=
  let s := (s.clearPort p).fsets [(FAB_PORT_STAT_STATE p, 4), (FAB_PORT_STAT_LANES_UP p, 0)]
  s.each ((List.range 4).filter fun q => s.running q && s.fbit (FAB_PORT_CFG_PARTS p) q) fun s q => s.linkDown q p

/-- A device-fatal fault (R416, R424): the hub is device-fatal, the event is recorded, every partition in service faults with the code, then
fault tokens go out where ports still work, then every port goes DOWN. -/
def State.deviceFatal (s : State) (c : Code) (w : Cause) : State :=
  let first := !s.fatal
  let s := if first then
      s.fsets [(HUB_DEVFAULT_FATAL, 1), (HUB_DEVFAULT_CODE, c.num), (HUB_DEVFAULT_BEAT, if s.fget (BEAT_STATE_STATE 0) = 2 ∨ s.fget (BEAT_STATE_STATE 0) = 3 then s.beat 0 else 0)]
    else s
  let ps := [0, 1, 2, 3].filter fun p => decide (1 ≤ s.pstate p) && decide (s.pstate p ≤ 5)
  let s := s.record { code := c.num, fatal := true, unit := w.unit, log := w.log, addr := w.addr }
  let hit := ps.filter fun p => s.mayFault p c
  let s := s.each ps fun s p => if s.mayFault p c then s.raiseOne p c w else s.logFault p c w
  let s := s.each hit fun s p => (s.tellDomain p c).faultIrq p (partKey p)
  s.each ((List.range 18).filter fun p => s.fget (FAB_PORT_STAT_STATE p) != 0) fun s p =>
    (s.clearPort p).fsets [(FAB_PORT_STAT_STATE p, 4), (FAB_PORT_STAT_LANES_UP p, 0)]

/-! ## Receiving -/

/-- The 24 header bytes of a flit (R349). -/
def flitHeader (f : Flit) : List Byte :=
  natLe 1 f.typ ++ natLe 1 (f.vc + 4 * f.dl) ++ natLe 2 f.dstNode ++ natLe 1 (f.dstPart + 4 * f.srcPart) ++ natLe 1 0
    ++ natLe 2 f.srcNode ++ natLe 2 f.epoch ++ natLe 2 f.payload.length ++ natLe 6 f.addr ++ natLe 2 0
    ++ natLe 2 f.seq ++ natLe 2 (f.ack + 32768 * b2n f.nak)

/-- The 252 bytes of a flit before its CRC: header, payload, zeros, credits (R349). -/
def flitBody (f : Flit) : List Byte :=
  flitHeader f ++ f.payload ++ natLe (224 - f.payload.length) 0 ++ natLe 2 (f.credit + 4096 * f.cvc + 16384 * f.cdl) ++ natLe 2 0

/-- The 256 bytes of a flit on the lanes: its body and the CRC-32 over it (R349, R350). -/
def flitImage (f : Flit) : List Byte := flitBody f ++ natLe 4 (crc32 (flitBody f))

/-- A REPLY with a reason, toward the source of the refused flit (R349); sent from the addressed partition, and as transit traffic
since no descriptor issues it. -/
def State.reply (s : State) (f : Flit) (reason : Nat) : State :=
  let g : Flit := s.mkFlit 5 2 f.dstPart f.srcNode f.srcPart 0 0 (natLe 8 reason ++ (flitImage f).take 24)
  match s.route g none with
  | some p => s.fabPut p { g with dl := s.hopDl g p none } none
  | none => s

/-- Acknowledged flits leave the replay buffer; credits come in (R352, R353). -/
def State.fabTake (s : State) (p ack credit cvc cdl : Nat) : State :=
  s.updPort p fun q => { q with
    unacked := q.unacked.filter fun g => decide (2048 ≤ (ack + 4096 - g.seq) % 4096)
    credits := mset q.credits (vcKey cvc cdl) (mgetD q.credits (vcKey cvc cdl) 0 + credit) }

/-- An ACK with credits: what waited for them leaves (R352, R353). -/
def State.fabAck (s : State) (p ack credit cvc cdl : Nat) : State := (s.fabTake p ack credit cvc cdl).fabDrain p

/-- A NAK that names the last SEQ received in order goes to the peer of port `p`, in a NULL flit (R349, R353). -/
def State.sendNak (s : State) (p : Nat) : State :=
  let q := s.port p
  (s.updPort p fun q => { q with nakSent := true }).emit (.flit p { nullFlit q.lastRx 0 0 0 with nak := true })

/-- What ECC finds on a flit in the port buffers, the replay buffers or the crossbar: a single-bit error is corrected and counted, another is
device-fatal (R358). -/
def State.eccOr (s : State) (p : Nat) (e : FlitEcc) (k : State → State) : State :=
  match e with
  | .good => k s
  | .corrected => k (s.updPort p fun q => { q with eccCount := q.eccCount + 1 })
  | .bad => s.deviceFatal .fabInternal { unit := unitHub }

/-- Does an arriving flit conform: a TYPE and VC that are not reserved, reserved fields zero (R349, R350)? -/
def flitConforms (f : Flit) : Bool :=
  decide (1 ≤ f.typ) && decide (f.typ ≤ 7) && decide (f.vc ≤ 2) && decide (f.payload.length ≤ 224) && f.rsv == 0

/-- A flit as a command of TYPE `t` on channel `vc` brings it: a reserved TYPE or VC stays as it arrived. -/
def flitAs (f : Flit) (t vc : Nat) : Flit :=
  { f with typ := if 1 ≤ f.typ ∧ f.typ ≤ 7 then t else f.typ, vc := if f.vc = 3 then 3 else vc }

/-- A flit arrives on a port: a nonconforming one takes the port DOWN (R350). One ahead of its sequence shows a gap: the first asks for a
replay, and what follows is discarded until the replay arrives; one that has been received before is discarded (R353). One in sequence is
acknowledged and its credits taken; then `k` acts on it. -/
def State.fabIn (s : State) (p : Nat) (f : Flit) (k : State → State) : State :=
  if s.portUp p = false then s
  else if flitConforms f = false then s.portDown p
  else if f.typ = 6 then s.eccOr p f.ecc fun s => k (s.fabAck p f.ack f.credit f.cvc f.cdl)
  else if f.seq = (s.port p).seqRx then
    s.eccOr p f.ecc fun s =>
      k ((s.updPort p fun q => { q with seqRx := (q.seqRx + 1) % 4096, nakSent := false }).fabAck p f.ack f.credit f.cvc f.cdl)
  else if (s.port p).nakSent ∨ 2048 ≤ (f.seq + 4096 - (s.port p).seqRx) % 4096 then s
  else s.sendNak p

/-- A flit for another node is forwarded; with no route it is discarded and a REPLY with reason 4 goes to its source (R356 to
R358). -/
def State.transit (s : State) (p : Nat) (f : Flit) : State :=
  match s.route f none with
  | some o => s.fabPut o { f with dl := s.hopDl f o (some (s.fget (FAB_PORT_CFG_ROLE p))) } (some (p, f.vc, f.dl))
  | none => (if f.typ = 5 then s else s.reply f 4).returnCredit p f.vc f.dl

/-- A channel flit arrives: transit, or `k` consumes it for this node and its buffer is free again. -/
def State.flitIn (s : State) (p : Nat) (f : Flit) (k : State → State) : State :=
  s.fabIn p f fun s => if f.dstNode ≠ s.node then s.transit p f else (k s).returnCredit p f.vc f.dl

/-! ## Streams (R132 to R134) -/

/-- Is this the stream of a source and epoch? -/
def Stream.is (t : Stream) (node part epoch : Nat) : Bool := t.node == node && t.part == part && t.epoch == epoch

/-- The streams of partition `p` with the stream of a source and epoch changed; a new one is made when there is none. -/
def State.updStream (s : State) (p node part epoch : Nat) (f : Stream → Stream) : State :=
  s.updPart p fun q =>
    if q.streams.any (·.is node part epoch) then { q with streams := q.streams.map fun t => if t.is node part epoch then f t else t }
    else { q with streams := q.streams ++ [f ⟨node, part, epoch, 0, 0, [], []⟩] }

/-- A new stream with all 4,096 entries in use (R134)? -/
def State.streamsFull (s : State) (p node part epoch : Nat) : Bool :=
  !((s.part p).streams.any (·.is node part epoch)) && decide (4096 ≤ (s.part p).streams.length)

/-- Held drops whose data has landed are credited, in order (R132): dropped into their jars, and reported to the sender. -/
def State.creditDrops (s : State) (p node part epoch : Nat) : State :=
  match (s.part p).streams.find? (·.is node part epoch) with
  | none => s
  | some t =>
    let ready := t.held.takeWhile fun h => decide (h.upTo ≤ t.landed)
    let s := s.updStream p node part epoch fun t => { t with held := t.held.drop ready.length }
    let s := (s.dropTogether p (ready.map fun h => (h.jar, h.n)) { unit := unitHub }).each ready fun s _ => s.emit (.creditReport node part epoch)
    s.updPart p fun q => { q with streams := q.streams.filter fun t =>
      !(t.is node part epoch && t.landed == t.announced && t.held.isEmpty && t.arriving.isEmpty) }

/-- The leading pieces of a stream whose writes are acknowledged are visible: they count as landed, and drops are credited (R93, R132, R406); none
in a partition that has stopped or faulted (R127). -/
def State.landSettle (s : State) (p node part epoch : Nat) : State :=
  match (s.part p).streams.find? (·.is node part epoch) with
  | none => s
  | some t =>
    let l := t.arriving.takeWhile fun a => !s.glk.acksDue (.land p node part epoch a.1)
    let s := s.updStream p node part epoch fun t => { t with landed := t.landed + (l.map (·.2)).sum, arriving := t.arriving.drop l.length }
    if s.running p then s.creditDrops p node part epoch else s

/-- Writes have been acknowledged: what has landed is counted. -/
def State.landsGo (s : State) : State :=
  s.each allParts fun s p => s.each ((s.part p).streams.filter fun t => !t.arriving.isEmpty) fun s t => s.landSettle p t.node t.part t.epoch

/-- A write of stream data has failed: neither it nor what follows it ever leads the stream as visible (R132, R411). -/
def State.landLost (s : State) (p node part epoch upTo : Nat) : State :=
  s.updStream p node part epoch fun t => { t with arriving := t.arriving.takeWhile fun a => a.1 != upTo }

end Sys2Proof.Machine
end

