-- ==== Sys2Proof/Machine/Queues.lean ====
section
/-! DEFINITION. The queues between the stages of a core (R112 to R114). -/
namespace Sys2Proof.Machine

/-- The stages of a core (R112), with what feeds its load pipeline. -/
inductive Stage
  | fabric | loadPipeline | weightLoader | array (m : Nat) | accStore | epilogue | vector | storePipeline | controlCore | launchQueue
deriving DecidableEq, Repr

/-- The producer and the consumer of queue `q` (R112): WQ, AQ0 to AQ3, EQ, SQ, VI, VO, LQ, CQ. -/
def queueEnds (q : Nat) : Stage × Stage :=
  if q = 0 then (.loadPipeline, .weightLoader)
  else if q < 5 then (.loadPipeline, .array (q - 1))
  else if q = 5 then (.accStore, .epilogue)
  else if q = 6 then (.epilogue, .storePipeline)
  else if q = 7 then (.loadPipeline, .vector)
  else if q = 8 then (.vector, .storePipeline)
  else if q = 9 then (.fabric, .loadPipeline)
  else (.controlCore, .launchQueue)

/-- The depth of queue `q` (R112). -/
def queueDepth (q : Nat) : Nat := ([16, 32, 32, 32, 32, 32, 64, 16, 16, 32, 32][q]?).getD 0

/-- The bytes of an entry of queue `q` (R112): a row of 64 elements of at most two bytes, a row of 64 FP32 values, 256 bytes, a tile of 32 × 32
words, a flit, a descriptor. -/
def queueEntryBytes (q : Nat) : Nat := ([128, 128, 128, 128, 128, 256, 256, 4096, 4096, 256, 128][q]?).getD 0

/-- Queue `q` of a slot. -/
def State.coreQ (s : State) (r k q : Nat) : CoreQueue := mgetD (s.slot r k).queues q ⟨queueDepth q, []⟩

/-- Queue `q` of a slot changed. -/
def State.setCoreQ (s : State) (r k q : Nat) (x : CoreQueue) : State := s.updSlot r k fun t => { t with queues := mset t.queues q x }

/-- Credits held and entries present equal the depth: the check of every cycle (R114). -/
def CoreQueue.balanced (x : CoreQueue) (q : Nat) : Bool := x.credits + x.entries.length == queueDepth q

/-- The producer puts an entry into a queue and spends a credit; without one it waits (R113). -/
def CoreQueue.push (x : CoreQueue) (good : Bool) : Option CoreQueue :=
  if x.credits = 0 then none else some { credits := x.credits - 1, entries := x.entries ++ [good] }

/-- The consumer removes the oldest entry and returns its credit; facing an empty queue it waits (R113). The flag is the entry's parity. -/
def CoreQueue.pop (x : CoreQueue) : Option (CoreQueue × Bool) :=
  match x.entries with
  | [] => none
  | e :: t => some ({ credits := x.credits + 1, entries := t }, e)

/-- An entry of queue `q` whose parity is wrong reaches its consumer, which does not consume it (R114). The entries of a command that meet
no error are produced and consumed within it, so that their credits are back when it ends. -/
def State.stickEntry (s : State) (r k q : Nat) : State :=
  match (s.coreQ r k q).push false with
  | some x => s.setCoreQ r k q x
  | none => s

end Sys2Proof.Machine
end

