-- ==== Sys2Proof/Machine/Xlate.lean ====
section
/-! DEFINITION. Reads made at fetch through the link cache (R404) and the translation of virtual addresses (R44 to R48). -/
namespace Sys2Proof.Machine

/-- Why a fetch does not go on: a companion line is wanted, a damaged sector must be read first, or a check fails. -/
inductive Stop
  | need (line : Nat)
  | sector (dpa : Nat)
  | bad (c : Code)
deriving DecidableEq, Repr

/-- The result of a step of a fetch. -/
abbrev Fetched (α : Type) := Except Stop α

/-- Bytes read at fetch: companion lines must be held in S (R404), DRAM sectors must be sound (R331). -/
def State.fetchNat (s : State) (a n : Nat) : Fetched Nat :=
  if glkBase ≤ a ∧ a < glkEnd then
    match (linesOf a n).find? fun l => !s.glk.inS l with
    | some l => .error (.need l)
    | none => .ok (s.loadNat a n)
  else
    match (s.damagedIn [(a, n)]).head? with
    | some d => .error (.sector d)
    | none => .ok (s.loadNat a n)

/-- Does a DPA lie in the DRAM share of partition `p` (R38)? -/
def State.inShare (s : State) (p a : Nat) : Bool := decide (a < dramEnd) && partOfDram s.layout a == p

/-- Does a DPA lie in the GlaetLink window (R36)? -/
def inCompanion (a : Nat) : Bool := decide (glkBase ≤ a) && decide (a < glkEnd)

/-- May a table lie at this DPA (R47)? -/
def State.tableHome (s : State) (p a : Nat) : Bool := s.inShare p a || inCompanion a

/-- May a page of partition `p` map to this DPA (R46): its share, the GlaetLink window, or an SRAM window of its regions? -/
def State.pageHome (s : State) (p a : Nat) : Bool :=
  s.inShare p a || inCompanion a ||
    (decide (sramBase ≤ a) && decide (a < sramBase + 4 * 0x40000000) && s.regionPart ((a - sramBase) / 0x40000000) == p)

/-- VALID, WRITE and LEAF of a table entry, and its ADDR as a DPA (R45). -/
def pteValid (e : Nat) : Bool := bit e 0
/-- WRITE. -/
def pteWrite (e : Nat) : Bool := bit e 1
/-- LEAF. -/
def pteLeaf (e : Nat) : Bool := bit e 2
/-- ADDR [43:12] as a DPA. -/
def pteAddr (e : Nat) : Nat := bits e 12 32 * 4096

/-- The size of a page mapped at a level (R44). -/
def pageSize (level : Nat) : Nat := if level = 3 then 2 ^ 30 else if level = 2 then 2 ^ 21 else 4096

/-- Does a table entry keep R45 at its level: reserved bits zero, LEAF as the level asks, a page aligned? -/
def pteWellFormed (level e : Nat) : Bool :=
  bits e 3 9 == 0 && bits e 44 20 == 0 &&
    (if level = 1 then pteLeaf e else if level = 4 then !pteLeaf e else true) &&
    (!pteLeaf e || pteAddr e % pageSize level == 0)

/-- The walk from the table at `tbl` at a level (R44 to R47): the DPA of the byte at `va` and how many bytes of its page follow
from there. -/
def State.walk (s : State) (p va : Nat) (write : Bool) : Nat → Nat → Fetched (Nat × Nat)
  | 0, _ => .error (.bad .xlateFault)
  | level + 1, tbl => do
    if !s.tableHome p tbl then throw (.bad .xlateFault)
    let e ← s.fetchNat (tbl + bits va (12 + 9 * level) 9 * 8) 8
    if !pteValid e || !pteWellFormed (level + 1) e || (write && !pteWrite e) then throw (.bad .xlateFault)
    if pteLeaf e then
      let off := va % pageSize (level + 1)
      if s.pageHome p (pteAddr e) then pure (pteAddr e + off, pageSize (level + 1) - off) else throw (.bad .xlateFault)
    else s.walk p va write level (pteAddr e)

/-- The translation of one virtual address of partition `p` (R44). -/
def State.xlate (s : State) (p va : Nat) (write : Bool) : Fetched (Nat × Nat) :=
  if 2 ^ 48 ≤ va then .error (.bad .xlateFault) else
  s.walk p va write 4 (s.fget (HUB_PART_PTBASE_BASE p) * 4096)

/-- The DPA ranges of a virtual range, page by page; `fuel` bounds the pages. -/
def State.xlateRangeF (s : State) (p : Nat) (write : Bool) : Nat → Nat → Nat → Fetched (List (Nat × Nat))
  | 0, _, _ => .ok []
  | f + 1, va, len =>
    if len = 0 then .ok []
    else do
      let x ← s.xlate p va write
      let n := min len x.2
      let rest ← s.xlateRangeF p write f (va + n) (len - n)
      pure ((x.1, n) :: rest)

/-- The DPA ranges of the virtual range [va, va + len) of partition `p` (R46); an empty range holds no page (R90). -/
def State.xlateRange (s : State) (p va len : Nat) (write : Bool) : Fetched (List (Nat × Nat)) :=
  s.xlateRangeF p write (len / 4096 + 2) va len

/-- The translation of an extent on behalf of a unit that runs: damaged sectors of the page tables are read, corrected and counted as they are met
(R328); `fuel` bounds them. -/
def State.xlateRead (s : State) (p va len : Nat) (write : Bool) : Nat → State × Fetched (List (Nat × Nat))
  | 0 => (s, .error (.bad .memUncorr))
  | fuel + 1 =>
    match s.xlateRange p va len write with
    | .error (.sector a) =>
      let x := s.readQuiet a false
      if x.2 then x.1.xlateRead p va len write fuel else (x.1, .error (.sector a))
    | r => (s, r)

/-- Do two lists of ranges share a byte? -/
def rangesMeet (a b : List (Nat × Nat)) : Bool :=
  a.any fun x => b.any fun y => decide (x.1 < y.1 + y.2) && decide (y.1 < x.1 + x.2)

/-- No two members of a list of range sets share a byte. -/
def rangesApart : List (List (Nat × Nat)) → Bool
  | [] => true
  | a :: t => (t.all fun b => !rangesMeet a b) && rangesApart t

/-- An extent of a descriptor: virtual address, length, and whether it is written. -/
abbrev Extent := Nat × Nat × Bool

/-- Every extent of a descriptor is translated; those of length zero hold no page (R46, R90). -/
def State.xlateAll (s : State) (p : Nat) : List Extent → Fetched Unit
  | [] => .ok ()
  | x :: t => do
    let _ ← s.xlateRange p x.1 x.2.1 x.2.2
    s.xlateAll p t

/-- The DPA of a health record's first byte, when one is named (R176); all but FINALISE write it. -/
def State.healthDpa (s : State) (p addr : Nat) (write : Bool) : Fetched (Option Nat) :=
  if addr = 0 then .ok none else do
    let x ← s.xlate p addr write
    pure (some x.1)

/-- A record that a class reads at fetch: `n` bytes at a virtual address, as a number (R90). -/
def State.fetchRecord (s : State) (p va n : Nat) : Fetched Nat := do
  let rs ← s.xlateRange p va n false
  let parts ← rs.mapM fun x => (s.fetchNat x.1 x.2).map fun v => natLe x.2 v
  pure (leNat parts.flatten)

/-- A check of the class chapters: step 5 of R90. -/
def Fetched.check (b : Bool) : Fetched Unit := if b then .ok () else .error (.bad .descInvalid)

/-- One walk on the memory as the device holds it, without the link: the translation of a fetched descriptor (R48). -/
def State.heldWalk (s : State) (va : Nat) : Nat → Nat → Option (Nat × Nat)
  | 0, _ => none
  | level + 1, tbl =>
    let e := s.loadNat (tbl + bits va (12 + 9 * level) 9 * 8) 8
    if !pteValid e then none
    else if pteLeaf e then some (pteAddr e + va % pageSize (level + 1), pageSize (level + 1) - va % pageSize (level + 1))
    else s.heldWalk va level (pteAddr e)

/-- The held ranges of a virtual range, page by page. -/
def State.heldRangeF (s : State) (p : Nat) : Nat → Nat → Nat → List (Nat × Nat)
  | 0, _, _ => []
  | f + 1, va, len =>
    if len = 0 then []
    else
      match s.heldWalk va 4 (s.fget (HUB_PART_PTBASE_BASE p) * 4096) with
      | some x => (x.1, min len x.2) :: s.heldRangeF p f (va + min len x.2) (len - min len x.2)
      | none => []

/-- The DPA ranges of a range of a descriptor that has been translated at its fetch: that translation stays in force until it
completes (R46, R48; log entry 11). -/
def State.dpaRange (s : State) (p va len : Nat) : List (Nat × Nat) := s.heldRangeF p (len / 4096 + 2) va len

/-- The DPA of one byte of a translated range. -/
def State.dpa (s : State) (p va : Nat) : Nat :=
  ((s.heldWalk va 4 (s.fget (HUB_PART_PTBASE_BASE p) * 4096)).map (·.1)).getD 0

/-- The DPA ranges of extents. -/
def State.dpaRanges (s : State) (p : Nat) (l : List Extent) : List (Nat × Nat) := l.flatMap fun x => s.dpaRange p x.1 x.2.1

/-- Bytes read at a virtual address of a translated descriptor. -/
def State.vload (s : State) (p va n : Nat) : List Byte := (s.dpaRange p va n).flatMap fun x => s.loadAny x.1 x.2

/-- The little-endian number read there. -/
def State.vloadNat (s : State) (p va n : Nat) : Nat := leNat (s.vload p va n)

/-- The pieces of a byte string for a list of ranges. -/
def State.putRanges (s : State) (owner : Owner) : List (Nat × Nat) → List Byte → State
  | [], _ => s
  | (a, n) :: t, bs => (s.put a (bs.take n) owner).putRanges owner t (bs.drop n)

/-- Bytes written at a virtual address of a translated descriptor. -/
def State.vstore (s : State) (p va : Nat) (bs : List Byte) (owner : Owner) : State :=
  s.putRanges owner (s.dpaRange p va bs.length) bs

end Sys2Proof.Machine
end

