-- ==== Sys2Proof/Machine/Engine.lean ====
section
/-! DEFINITION. How a descriptor starts (R91), runs, and completes (R93): the frame that every class shares. -/
namespace Sys2Proof.Machine

/-- How the work of a descriptor ends when its start command runs: done, with a RESULT; under way, other commands finish it; not
yet, for want of something; or with a fault that arises from it. -/
inductive Run
  | done (s : State) (result : Nat)
  | going (s : State)
  | wait (s : State)
  | fault (s : State) (c : Code) (w : Cause)

/-- The unit that a record of a descriptor's own checks names: its ring, or its slot for a launched one (R120). -/
def checkCause (o : Origin) : Cause := { unit := originUnit o }

/-- The next descriptor of an origin that may run: the first that has started and not run, else the first not started, each only of
the class and operation that the command names. -/
def State.nextOf (s : State) (o : Origin) (is : Nat → Bool) : Option Desc :=
  match (s.flight o).find? fun d => d.started && !d.ran && is d.raw with
  | some d => some d
  | none =>
    match (s.flight o).find? fun d => !d.started with
    | some d => if is d.raw then some d else none
    | none => none

/-- The header take of R91, at its first attempt: asked at the jar's home, at once for a WAIT_N of 0 (R86). -/
def State.askTake (s : State) (o : Origin) (d : Desc) : State :=
  let p := s.originPart o
  if d.asked then s
  else if dWaitEn d.raw = false ∨ dWaitN d.raw = 0 then s.updDesc o d.id fun e => { e with asked := true, took := true }
  else
    match s.takeJar p (dWaitJar d.raw) (dWaitN d.raw) (.desc o d.id) with
    | none => s.descFault o d .jarMisuse (checkCause o)
    | some (t, got) => t.updDesc o d.id fun e => { e with asked := true, took := got }

/-- A parity or credit error of a core queue is logged with the slot and the queue number (R114). -/
def coreQueueCause (r k q : Nat) : Cause := { unit := unitSlot r k, log := q }

/-- What goes wrong physically while a descriptor runs on region `r`, slot `k`, as the fault that it raises (R29, R417). The checks of the unit
itself are met in its own work; damaged sectors when they are read. -/
def upsetFault (r k : Nat) : Upset → Option (Code × Cause)
  | .none | .check | .parity | .adder | .sector _ _ => none
  | .coreQueue q => some (.coreQueue, coreQueueCause r k q)
  | .storeUncorr a => some (.storeUncorr, { unit := unitSlot r k, addr := a })
  | .rgnFabric x => some (.rgnFabric, { unit := unitRegion x })

/-- Does the upset show in a unit that checks its work and the parity of its buffers and paths? -/
def ownUpset : Upset → Bool
  | .check | .parity => true
  | _ => false

/-- What goes wrong in a core queue stays there: the faulty entry is not consumed (R114). -/
def State.strikeQueue (s : State) (r k : Nat) : Upset → State
  | .coreQueue q => s.stickEntry r k q
  | _ => s

/-- Does another descriptor of the kind in partition `p` wait to run that started before this one? -/
def State.behindIn (s : State) (p : Nat) (is : Nat → Bool) (d : Desc) : Bool :=
  (s.flightOf p).any fun e => e.started && !e.ran && is e.raw && decide (e.order < d.order)

/-- Does another descriptor of the same kind and slot wait to run that started before this one (R153, R232)? -/
def State.behind (s : State) (is : Nat → Bool) (d : Desc) : Bool :=
  (s.flightOf (s.regionPart (dRegion d.raw))).any fun e =>
    e.started && !e.ran && is e.raw && dRegion e.raw == dRegion d.raw && dSlot e.raw == dSlot d.raw && decide (e.order < d.order)

/-- The descriptor has run; its results may still be on their way. -/
def State.ranDesc (s : State) (o : Origin) (id : Nat) (ready : Bool) (result : Nat) : State :=
  s.updDesc o id fun e => { e with ran := true, ready := ready, result := result }

/-- A fault of kinds 0x4 and 0x5 leaves memory as its rule says, so the descriptor's outputs are no mixture (R423). -/
def State.keepOuts (s : State) (o : Origin) (id : Nat) (c : Code) : State :=
  if 0x400 ≤ c.num ∧ c.num < 0x600 then s.updDesc o id fun e => { e with outs := [] } else s

/-- Do the outputs of a descriptor of this class hold mixtures when it is cut short (R193, R393, R423): matrix, vector, collective? The other
classes stop at a line boundary: their lines are old, or written (R254, R277, R287, R344; log entry 81). -/
def mixesOuts (raw : Nat) : Bool := [0x01, 0x02, 0x05].contains (dClass raw)

/-- The end of a run. -/
def Run.settle (x : Run) (o : Origin) (d : Desc) (inputs : List (Nat × Nat)) : State :=
  match x with
  | .done s r => (s.ranDesc o d.id true r).dropStream inputs
  | .going s => (s.ranDesc o d.id false 0).dropStream inputs
  | .wait s => s
  | .fault s c w => ((s.keepOuts o d.id c).descFault o d c w).dropStream inputs

/-- A started descriptor runs, when the companion lines that it reads have been delivered (R404): its damaged sectors are read
(R331), physical upsets raise their faults, then `run` does its work. -/
def State.runDesc (s : State) (o : Origin) (d : Desc) (inputs : List (Nat × Nat)) (u : Upset) (run : State → Desc → Run) : State :=
  let p := s.originPart o
  if d.noop then s.ranDesc o d.id true 0
  else if s.streamReady inputs = false then s.askStream inputs (.desc p d.id)
  else
    let s := match u with
      | .sector a e => s.strike [(a, e)]
      | _ => s
    let x := s.readFor p inputs
    match x.2 with
    | some a => (x.1.descFault o d .memUncorr (x.1.uncorrCause a)).dropStream inputs
    | none =>
      match upsetFault (dRegion d.raw) (dSlot d.raw) u with
      | some (c, v) => ((x.1.strikeQueue (dRegion d.raw) (dSlot d.raw) u).descFault o d c v).dropStream inputs
      | none => (run (x.1.noteReads inputs) d).settle o d inputs

/-- A started descriptor goes on, while no slot window that it reads or writes is being handed over (R40): it passes the checks that its class
makes at the start, once, or waits for what they want; then it runs. -/
def State.goDesc (s : State) (o : Origin) (d : Desc) (inputs outs : State → Desc → List (Nat × Nat)) (u : Upset)
    (run : State → Desc → Run) (atStart : State → Desc → Run) : State :=
  if d.noop = false ∧ s.handoverMeets (inputs s d ++ outs s d) then s
  else if d.passed then s.runDesc o d (inputs s d) u run
  else
    let go := fun (t : State) =>
      let t := t.updDesc o d.id fun e => { e with passed := true }
      match t.desc? o d.id with
      | some e => t.runDesc o e (inputs t e) u run
      | none => t
    match atStart s d with
    | .fault t c v => (t.keepOuts o d.id c).descFault o d c v
    | .wait t => t
    | .going t => go t
    | .done t _ => go t

/-- The start command of a class and operation (R91): the next descriptor of the origin takes its marbles, starts once its beat has
begun, passes the checks that its class makes at the start, and runs. With no such descriptor, or a partition that is not running, nothing happens. -/
def State.startDesc (s : State) (o : Origin) (is : Nat → Bool) (inputs : State → Desc → List (Nat × Nat)) (outs : State → Desc → List (Nat × Nat))
    (u : Upset) (run : State → Desc → Run) (atStart : State → Desc → Run := fun s _ => .going s) : State :=
  let p := s.originPart o
  if s.running p = false then s else
  match s.nextOf o is with
  | none => s
  | some d =>
    if d.started then s.goDesc o d inputs outs u run atStart
    else if s.beat p < d.eff then s
    else
      let s := s.askTake o d
      match s.desc? o d.id with
      | some e =>
        if e.took ∧ s.running p then
          let s := { s with descSeq := s.descSeq + 1 }.updDesc o d.id fun e =>
            { e with started := true, order := s.descSeq, step := s.stepOf p, outs := if e.noop || !mixesOuts e.raw then [] else outs s e }
          match s.desc? o d.id with
          | some e => s.goDesc o e inputs outs u run atStart
          | none => s
        else s
      | none => s

/-! ## Completion -/

/-- Does a fence's scope let it complete (R88, R120)? -/
def State.fenceLets (s : State) (o : Origin) (d : Desc) : Bool :=
  if dClass d.raw ≠ 0x0A then true
  else if dfield d.raw 32 0 8 = 0 then (s.flight o).head?.map (·.id) == some d.id
  else
    let p := s.originPart o
    ((s.flightOf p).all fun e => decide (d.id ≤ e.id)) &&
      (s.slotsOf p).all fun rk => (s.slot rk.1 rk.2).cq.all fun e => decide (d.id < e.1)

/-- Is the descriptor's home jar for its DONE drop in a handover (R125)? -/
def State.doneHeld (s : State) (p : Nat) (d : Desc) : Bool :=
  dDoneEn d.raw && match s.jar? p (dDoneJar d.raw) with
    | some x => s.homeHeld x
    | none => false

/-- May the descriptor complete (R93): it has run, its writes are acknowledged, its remote drops credited, its fence passed? -/
def State.mayComplete (s : State) (o : Origin) (d : Desc) : Bool :=
  d.ran && d.ready && d.remote.isEmpty && !s.glk.acksDue (.desc (s.originPart o) d.id) && s.fenceLets o d && !s.doneHeld (s.originPart o) d

/-- Steps 3 and 4 of R93: entry and interrupt for a ring's descriptor; a launched one just leaves the launch queue (R120). -/
def State.leave (s : State) (o : Origin) (d : Desc) : State :=
  let s := if dClass d.raw ≠ 0x05 ∨ d.noop then s
    else if dfield d.raw 32 0 8 < 5 then s.fadd (TCN_CNT_BULK_DONE (s.originPart o)) 1 else s.fadd (TCN_CNT_TC_DONE (s.originPart o)) 1
  match o with
  | .ring n => s.finishRing n d
  | .slot r k => s.updSlot r k fun q => { q with inflight := q.inflight.filter fun e => e.id != d.id }

/-- DESC_COMPLETE: the descriptor completes in the order of R93. -/
def descComplete (o : Origin) (id : Nat) (s : State) : State :=
  match s.desc? o id with
  | none => s
  | some d =>
    if s.running (s.originPart o) = false ∨ s.mayComplete o d = false then s
    else if dDoneEn d.raw = false ∨ dDoneN d.raw = 0 then s.leave o d
    else
      match s.dropJar (s.originPart o) (dDoneJar d.raw) (dDoneN d.raw) (originUnit o) with
      | .done t => t.leave o d
      | .misuse t => t.descFault o d .jarMisuse (checkCause o)

/-- DESC_COMPLETE (R93). -/
def execDescComplete (o : Origin) (id : Nat) (s : State) : Host.Outcome State Fault Refusal := .next (descComplete o id s)

/-- The start of a class without inputs, outputs or checks of its own. -/
def State.startPlain (s : State) (o : Origin) (is : Nat → Bool) (run : State → Desc → Run) : State :=
  s.startDesc o is (fun _ _ => []) (fun _ _ => []) .none run

/-- FENCE: the fence starts; its scope is judged when it completes (R88). -/
def execFence (o : Origin) (s : State) : Host.Outcome State Fault Refusal :=
  .next (s.startPlain o (fun raw => dClass raw == 0x0A) fun s _ => .done s 0)

end Sys2Proof.Machine
end

