-- ==== Sys2Proof/Machine/Fp.lean ====
section
/-! DEFINITION. Numbers: the formats of R159 to R162, exact values, the arithmetic of R163 to R166, rounding to nearest-even and
stochastic rounding (R171), and the generator of R198. -/
namespace Sys2Proof.Machine

/-- An exact value: a NaN, an infinity, or (−1)^neg × m × 2^e. -/
inductive Val
  | nan
  | inf (neg : Bool)
  | fin (neg : Bool) (m : Nat) (e : Int)
deriving DecidableEq, Repr

/-- A floating-point format: exponent and mantissa bits, bias, and whether an all-ones exponent is an infinity or NaN as in IEEE 754
(1), a NaN only for the greatest code (2), or an ordinary value (0). -/
structure Fmt where
  ebits : Nat
  mbits : Nat
  bias : Nat
  special : Nat
deriving DecidableEq, Repr

/-- binary32. -/
def fmt32 : Fmt := ⟨8, 23, 127, 1⟩

/-- The code that stands for FP32 where a field names a format (R177, R203). -/
def codeFp32 : Nat := 0xF

/-- The format of a code of R141; FP32 for 0xF. -/
def fmtOf (code : Nat) : Fmt :=
  match code with
  | 0 => ⟨8, 7, 127, 1⟩
  | 1 => ⟨5, 10, 15, 1⟩
  | 2 => ⟨4, 3, 7, 2⟩
  | 3 => ⟨5, 2, 15, 1⟩
  | 4 => ⟨3, 2, 3, 0⟩
  | 5 => ⟨2, 3, 1, 0⟩
  | 6 => ⟨2, 1, 1, 0⟩
  | _ => fmt32

/-- Bits per element of a code of R141; 32 for FP32. -/
def fmtBits (code : Nat) : Nat :=
  match code with
  | 0 => 16
  | 1 => 16
  | 2 => 8
  | 3 => 8
  | 4 => 6
  | 5 => 6
  | 6 => 4
  | 7 => 8
  | _ => 32

/-- Is the code an MX format with block scales (R141)? -/
def isMx (code : Nat) : Bool := decide (2 ≤ code) && decide (code ≤ 7)

/-- The unit exponent of a code (R141). -/
def unitExp (code : Nat) : Nat :=
  match code with
  | 2 => 9
  | 3 => 16
  | 4 => 4
  | 5 => 3
  | 6 => 1
  | 7 => 6
  | _ => 0

/-- emax of R173. -/
def emaxOf (code : Nat) : Int :=
  match code with
  | 2 => 8
  | 3 => 15
  | 4 => 4
  | 5 => 2
  | 6 => 2
  | _ => 0

/-- The exponent of the smallest subnormal of a format. -/
def Fmt.emin (f : Fmt) : Int := 1 - f.bias - f.mbits

/-- The code of the largest finite magnitude (R159). -/
def Fmt.maxRaw (f : Fmt) : Nat :=
  match f.special with
  | 1 => (2 ^ f.ebits - 1) * 2 ^ f.mbits - 1
  | 2 => 2 ^ (f.ebits + f.mbits) - 2
  | _ => 2 ^ (f.ebits + f.mbits) - 1

/-- The code of +∞ in a format that has it. -/
def Fmt.infRaw (f : Fmt) : Nat := (2 ^ f.ebits - 1) * 2 ^ f.mbits

/-- The canonical NaN (R165). -/
def Fmt.nanRaw (f : Fmt) : Nat := if f.special = 2 then 2 ^ (f.ebits + f.mbits) - 1 else if f.mbits = 2 then f.infRaw + 3 else f.infRaw + 2 ^ (f.mbits - 1)

/-- The sign bit of a format. -/
def Fmt.signBit (f : Fmt) (neg : Bool) : Nat := if neg then 2 ^ (f.ebits + f.mbits) else 0

/-- The value of a pattern (R159). -/
def Fmt.decode (f : Fmt) (b : Nat) : Val :=
  let s := bit b (f.ebits + f.mbits)
  let e := bits b f.mbits f.ebits
  let m := bits b 0 f.mbits
  if f.special = 1 ∧ e = 2 ^ f.ebits - 1 then (if m = 0 then .inf s else .nan)
  else if f.special = 2 ∧ e = 2 ^ f.ebits - 1 ∧ m = 2 ^ f.mbits - 1 then .nan
  else if e = 0 then .fin s m f.emin
  else .fin s (2 ^ f.mbits + m) (f.emin + (e - 1 : Nat))

/-- floor_log2 of a magnitude m × 2^e with m > 0. -/
def floorLog2 (m : Nat) (e : Int) : Int := (Nat.log2 m : Int) + e

/-- A magnitude cut to a grid of spacing 2^q: the grid count below it, the remainder and its denominator. -/
def gridCut (m : Nat) (e q : Int) : Nat × Nat × Nat :=
  if q ≤ e then (m * 2 ^ (e - q).toNat, 0, 1) else
    let d := 2 ^ (q - e).toNat
    (m / d, m % d, d)

/-- The grid count rounded: to nearest-even, or stochastically with the 16 bits given (R163, R171). -/
def gridRound (x : Nat × Nat × Nat) (rnd : Option Nat) : Nat :=
  match rnd with
  | none => if x.2.2 < 2 * x.2.1 ∨ (2 * x.2.1 = x.2.2 ∧ x.1 % 2 = 1) then x.1 + 1 else x.1
  | some r => if 65536 ≤ x.2.1 * 65536 / x.2.2 + r then x.1 + 1 else x.1

/-- The code of a magnitude rounded onto a format's grid, which goes on above the largest finite value (R171): a code above `maxRaw` is
an overflow. -/
def Fmt.roundRaw (f : Fmt) (m : Nat) (e : Int) (rnd : Option Nat) : Nat :=
  if m = 0 then 0
  else
    let q := max f.emin (floorLog2 m e - f.mbits)
    (q - f.emin).toNat * 2 ^ f.mbits + gridRound (gridCut m e q) rnd

/-! ## FP32 arithmetic -/

/-- The FP32 NaN (R165). -/
def nan32 : Nat := 0x7FC00000

/-- A pattern of FP32. -/
def inf32 (neg : Bool) : Nat := if neg then 0xFF800000 else 0x7F800000

/-- A value rounded once to FP32; an overflow gives an infinity (R163, R164). -/
def Val.to32r (v : Val) (rnd : Option Nat) : Nat :=
  match v with
  | .nan => nan32
  | .inf s => inf32 s
  | .fin s m e =>
    let r := fmt32.roundRaw m e rnd
    if fmt32.maxRaw < r then inf32 s else fmt32.signBit s + r

/-- A value rounded once to nearest-even FP32. -/
def Val.to32 (v : Val) : Nat := v.to32r none

/-- The value of an FP32 pattern. -/
def val32 (b : Nat) : Val := fmt32.decode b

/-- The signed integer mantissa at exponent `q`, which is at most the value's exponent. -/
def signedAt (neg : Bool) (m : Nat) (e q : Int) : Int := (if neg then -1 else 1) * (m * 2 ^ (e - q).toNat : Nat)

/-- An exact signed integer times 2^q as a value; zero takes the sign given. -/
def Val.ofInt (i : Int) (q : Int) (zneg : Bool) : Val := if i = 0 then .fin zneg 0 q else .fin (decide (i < 0)) i.natAbs q

/-- The exact sum (R163, R164). -/
def Val.add : Val → Val → Val
  | .nan, _ => .nan
  | _, .nan => .nan
  | .inf a, .inf b => if a = b then .inf a else .nan
  | .inf a, _ => .inf a
  | _, .inf b => .inf b
  | .fin s m e, .fin t n f =>
    let q := min e f
    .ofInt (signedAt s m e q + signedAt t n f q) q (s && t)

/-- The value with its sign turned. -/
def Val.neg : Val → Val
  | .nan => .nan
  | .inf a => .inf (!a)
  | .fin s m e => .fin (!s) m e

/-- The exact product. -/
def Val.mul : Val → Val → Val
  | .nan, _ => .nan
  | _, .nan => .nan
  | .inf a, .inf b => .inf (a != b)
  | .inf a, .fin t n _ => if n = 0 then .nan else .inf (a != t)
  | .fin s m _, .inf b => if m = 0 then .nan else .inf (s != b)
  | .fin s m e, .fin t n f => .fin (s != t) (m * n) (e + f)

/-- A quotient with 64 bits beyond the divisor's and a sticky bit: rounded onto any grid of this chapter as the exact quotient is. -/
def Val.div : Val → Val → Val
  | .nan, _ => .nan
  | _, .nan => .nan
  | .inf _, .inf _ => .nan
  | .inf a, .fin t _ _ => .inf (a != t)
  | .fin s _ _, .inf b => .fin (s != b) 0 0
  | .fin s m e, .fin t n f =>
    if n = 0 then (if m = 0 then .nan else .inf (s != t))
    else
      let k := 64 + Nat.log2 n + 1
      let x := m * 2 ^ k
      .fin (s != t) (2 * (x / n) + b2n (x % n != 0)) (e - f - k - 1)

/-- The integer square root of a number below 4^k, bit by bit. -/
def isqrtF : Nat → Nat → Nat
  | 0, _ => 0
  | k + 1, n =>
    let r := 2 * isqrtF k (n / 4)
    if (r + 1) * (r + 1) ≤ n then r + 1 else r

/-- The square root with a sticky bit (R164). -/
def Val.sqrt : Val → Val
  | .nan => .nan
  | .inf a => if a then .nan else .inf false
  | .fin s m e =>
    if m = 0 then .fin s 0 e
    else if s then .nan
    else
      let odd := e % 2 = 1
      let x := (if odd then 2 * m else m) * 2 ^ 96
      let r := isqrtF 128 x
      .fin false (2 * r + b2n (r * r != x)) ((if odd then e - 1 else e) / 2 - 48 - 1)

/-- Is the first value below the second? False when either is NaN. -/
def Val.lt : Val → Val → Bool
  | .nan, _ => false
  | _, .nan => false
  | .inf a, .inf b => a && !b
  | .inf a, _ => a
  | _, .inf b => !b
  | .fin s m e, .fin t n f => let q := min e f; decide (signedAt s m e q < signedAt t n f q)

/-- Equality of values; both zeros are equal, NaN equals nothing. -/
def Val.eqv : Val → Val → Bool
  | .nan, _ => false
  | _, .nan => false
  | .inf a, .inf b => a == b
  | .inf _, _ => false
  | _, .inf _ => false
  | .fin s m e, .fin t n f => let q := min e f; decide (signedAt s m e q = signedAt t n f q)

/-- FP32 addition. -/
def fadd32 (a b : Nat) : Nat := ((val32 a).add (val32 b)).to32
/-- FP32 subtraction. -/
def fsub32 (a b : Nat) : Nat := ((val32 a).add (val32 b).neg).to32
/-- FP32 multiplication. -/
def fmul32 (a b : Nat) : Nat := ((val32 a).mul (val32 b)).to32
/-- FP32 fused multiply-add, rounded once. -/
def ffma32 (a b c : Nat) : Nat := (((val32 a).mul (val32 b)).add (val32 c)).to32
/-- FP32 division. -/
def fdiv32 (a b : Nat) : Nat := ((val32 a).div (val32 b)).to32
/-- FP32 square root. -/
def fsqrt32 (a : Nat) : Nat := ((val32 a).sqrt).to32

/-- Is the pattern a NaN? -/
def isNan32 (a : Nat) : Bool := val32 a == .nan
/-- Is the pattern finite? -/
def isFin32 (a : Nat) : Bool := bits a 23 8 != 255
/-- Is the pattern a zero of either sign? -/
def isZero32 (a : Nat) : Bool := a % 2 ^ 31 == 0
/-- The sign bit. -/
def isNeg32 (a : Nat) : Bool := bit a 31
/-- The pattern with its sign turned; a NaN becomes canonical (R165). -/
def fneg32 (a : Nat) : Nat := if isNan32 a then nan32 else xorN (a % 2 ^ 32) (2 ^ 31)
/-- The magnitude; a NaN becomes canonical. -/
def fabs32 (a : Nat) : Nat := if isNan32 a then nan32 else a % 2 ^ 31

/-- Does `a` come before `b` in the order of maximum and minimum: −0 below +0 (R166)? Neither is NaN. -/
def ordLt32 (a b : Nat) : Bool :=
  (val32 a).lt (val32 b) || ((val32 a).eqv (val32 b) && isNeg32 a && !isNeg32 b)

/-- Maximum (R166). -/
def fmax32 (a b : Nat) : Nat := if isNan32 a || isNan32 b then nan32 else if ordLt32 a b then b else a
/-- Minimum (R166). -/
def fmin32 (a b : Nat) : Nat := if isNan32 a || isNan32 b then nan32 else if ordLt32 b a then b else a

/-- An integer as FP32, rounded once. -/
def ofInt32 (i : Int) : Nat := (Val.ofInt i 0 false).to32

/-- An FP32 pattern with a NaN made canonical (R165). -/
def canon32 (a : Nat) : Nat := if isNan32 a then nan32 else a % 2 ^ 32

/-! ## Elements -/

/-- The value of an element of a code of R141 without its scale; INT8 is n × 2^−6 (R160). -/
def elemVal (code b : Nat) : Val :=
  if code = 7 then .ofInt (sext 8 b) (-6) false else (fmtOf code).decode b

/-- An element widened to FP32: exact for BF16 and FP16 (R168), the value times the block scale, rounded once, for MX (R169). -/
def widen32 (code b scale : Nat) : Nat :=
  if isMx code then
    if scale = 0xFF then nan32 else ((elemVal code b).mul (.fin false 1 ((scale : Int) - 127))).to32
  else if code = codeFp32 then canon32 b
  else (elemVal code b).to32

/-! ## The rounding generator (R198) -/

/-- One round of Philox-4×32 on the counter. -/
def philoxRound (k0 k1 : Nat) (x : Nat × Nat × Nat × Nat) : Nat × Nat × Nat × Nat :=
  let p0 := 0xD2511F53 * x.1
  let p1 := 0xCD9E8D57 * x.2.2.1
  (xorN (xorN (bits p1 32 32) x.2.1) k0, bits p1 0 32, xorN (xorN (bits p0 32 32) x.2.2.2) k1, bits p0 0 32)

/-- `n` rounds, the key advanced between them. -/
def philoxF : Nat → Nat → Nat → Nat × Nat × Nat × Nat → Nat × Nat × Nat × Nat
  | 0, _, _, x => x
  | n + 1, k0, k1, x => philoxF n ((k0 + 0x9E3779B9) % 2 ^ 32) ((k1 + 0xBB67AE85) % 2 ^ 32) (philoxRound k0 k1 x)

/-- The 16 random bits for a seed, a step and a counter (R198). -/
def rnd16 (seed step x0 x1 x2 x3 : Nat) : Nat :=
  (philoxF 10 (xorN (bits seed 0 32) (bits step 0 32)) (xorN (bits seed 32 32) (bits step 32 16)) (x0, x1, x2, x3)).1 % 65536

/-- The generator of one use: seed, step and tensor ID (R199, R200). -/
structure Rng where
  seed : Nat
  step : Nat
  tensor : Nat
deriving DecidableEq, Repr

/-- rnd of a narrowing conversion at coordinates (r, c) (R199). -/
def Rng.conv (g : Rng) (r c : Nat) : Nat := rnd16 g.seed g.step (r % 2 ^ 32) (c % 2 ^ 32) 0xFFFFFFFF (g.tensor % 2 ^ 20 + 2 ^ 20)

/-- rnd of a group addition of K block `b` at coordinates (r, c) (R199). -/
def Rng.group (g : Rng) (r c b : Nat) : Nat := rnd16 g.seed g.step (r % 2 ^ 32) (c % 2 ^ 32) b (g.tensor % 2 ^ 20)

end Sys2Proof.Machine
end

