-- ==== Sys2Proof/Machine/Narrow.lean ====
section
/-! DEFINITION. Narrowing conversions (R170 to R175) and tensor health records (R176 to R179). -/
namespace Sys2Proof.Machine

/-- The counts of two sets of conversions together. -/
def Health.plus (a b : Health) : Health :=
  ⟨a.elements + b.elements, a.zeros + b.zeros, a.underflows + b.underflows, a.saturated + b.saturated, a.nonfinite + b.nonfinite,
    max a.maxExp b.maxExp, min a.minExp b.minExp, a.longK || b.longK, a.stochastic || b.stochastic⟩

/-- One value counted: its FP32 input, and what its output is. -/
def tally (inp : Nat) (zero under sat nonfin stoch : Bool) : Health :=
  match val32 inp with
  | .fin _ m e =>
    if m = 0 then ⟨1, b2n zero, b2n under, b2n sat, b2n nonfin, -0x8000, 0x7FFF, false, stoch⟩
    else ⟨1, b2n zero, b2n under, b2n sat, b2n nonfin, floorLog2 m e, floorLog2 m e, false, stoch⟩
  | _ => ⟨1, b2n zero, b2n under, b2n sat, b2n nonfin, -0x8000, 0x7FFF, false, stoch⟩

/-- FP32 narrowed to FP32, BF16 or FP16 under a tensor kind, with the generator's bits for TKIND 2 (R170, R171): the pattern, and
what it counts. STOCHASTIC is set for every finite value under TKIND 2, on the grid or not (DEDUCED, log entry 90). -/
def narrowPlain (code tkind inp rnd : Nat) : Nat × Health :=
  let v := val32 inp
  if code = codeFp32 then (canon32 inp, tally inp (isZero32 inp) false false (!isFin32 inp) false)
  else
    let f := fmtOf code
    match v with
    | .nan => (f.nanRaw, tally inp false false false true false)
    | .inf s => (f.signBit s + f.infRaw, tally inp false false false true false)
    | .fin s m e =>
      let r := f.roundRaw m e (if tkind = 2 then some rnd else none)
      let sat := decide (f.maxRaw < r)
      let out := if sat then (if tkind = 2 then f.infRaw else f.maxRaw) else r
      (f.signBit s + out, tally inp (r == 0) (m != 0 && r == 0) sat (sat && tkind == 2) (tkind == 2))

/-- An element of an MX block from its value times 2^−e: the pattern, whether it is zero, and whether it saturated (R173). -/
def mxElem (code : Nat) (s : Bool) (m : Nat) (e : Int) (rnd : Option Nat) : Nat × Bool × Bool :=
  if code = 7 then
    let n := gridRound (gridCut m e (-6)) rnd
    let c := min n 127
    ((if s then 256 - c else c) % 256, c == 0, decide (127 < n))
  else
    let f := fmtOf code
    let r := f.roundRaw m e rnd
    (f.signBit s + min r f.maxRaw, r == 0, decide (f.maxRaw < r))

/-- The exponent e of a block's scale: from its largest magnitude, with emax of the format, from −127 to 127 (R173). -/
def mxExp (code : Nat) (vals : List Nat) : Option Int :=
  vals.foldl
    (fun best v =>
      match val32 v with
      | .fin _ m e =>
        if m = 0 then best
        else
          let x := floorLog2 m e - emaxOf code
          some (match best with
            | some b => max b x
            | none => x)
      | _ => best)
    none
  |>.map fun x => max (-127) (min x 127)

/-- A block of FP32 values converted (R173, R174): its scale, its elements, its counts. `rnds` holds the generator's bits by
element. STOCHASTIC is set under TKIND 2 but for a block that is all zero or becomes 0xFF (DEDUCED, log entry 90). -/
def mxBlock (code tkind : Nat) (vals rnds : List Nat) : Nat × List Nat × Health :=
  if vals.any fun v => !isFin32 v then
    (0xFF, vals.map fun _ => 0, vals.foldl (fun h v => h.plus (tally v false false false true false)) .none)
  else
    match mxExp code vals with
    | none =>
      (0x7F, vals.map fun v => if isNeg32 v && code != 7 then (fmtOf code).signBit true else 0,
        vals.foldl (fun h v => h.plus (tally v true false false false false)) .none)
    | some e =>
      let xs := vals.zipIdx.map fun (v, i) =>
        match val32 v with
        | .fin s m q =>
          let y := mxElem code s m (q - e) (if tkind = 2 then some (rnds.getD i 0) else none)
          (y.1, tally v y.2.1 (m != 0 && y.2.1) y.2.2 false (tkind == 2))
        | _ => (0, Health.none)
      ((e + 127).toNat, xs.map (·.1), xs.foldl (fun h x => h.plus x.2) .none)

/-! ## Records -/

/-- The (TENSOR_ID, TKIND, FORMAT) triple of a merge as one number in the order of R178. -/
def healthTriple (tensor tkind format : Nat) : Nat := tensor % 2 ^ 20 * 64 + tkind % 4 * 16 + format % 16

/-- The fields of a record held as bytes 0 to 63 (R177). -/
def healthNat (h : Health) (nonempty mixed : Bool) (triple merges : Nat) : Nat :=
  min h.elements (2 ^ 64 - 1) + min h.zeros (2 ^ 64 - 1) * 2 ^ 64 + min h.underflows (2 ^ 64 - 1) * 2 ^ 128 +
    min h.saturated (2 ^ 64 - 1) * 2 ^ 192 + min h.nonfinite (2 ^ 64 - 1) * 2 ^ 256 +
    toTwos 16 h.maxExp * 2 ^ 320 + toTwos 16 h.minExp * 2 ^ 336 +
    (b2n nonempty + b2n (h.nonfinite != 0) * 2 + b2n h.longK * 4 + b2n h.stochastic * 8 + b2n mixed * 16) * 2 ^ 352 +
    (triple % 16 + triple / 16 % 4 * 16) * 2 ^ 360 + triple / 64 % 2 ^ 20 * 2 ^ 384 + min merges (2 ^ 32 - 1) * 2 ^ 416

/-- The counts that a record holds. -/
def healthOf (r : Nat) : Health :=
  ⟨bits r 0 64, bits r 64 64, bits r 128 64, bits r 192 64, bits r 256 64, sext 16 (bits r 320 16), sext 16 (bits r 336 16),
    bit r 354, bit r 355⟩

/-- The triple that a record holds. -/
def tripleOf (r : Nat) : Nat := healthTriple (bits r 384 20) (bits r 364 2) (bits r 360 4)

/-- A merge into a record (R178); into an empty one it writes the descriptor's own values. -/
def healthMerge (old : Nat) (h : Health) (tensor tkind format : Nat) : Nat :=
  let t := healthTriple tensor tkind format
  if old % 2 ^ 512 = 0 then healthNat h true false t 1
  else
    let m := healthNat ((healthOf old).plus h) true (bit old 356 || tripleOf old != t) (min (tripleOf old) t) (bits old 416 32 + 1)
    if bit old 353 && !bit m 353 then m + 2 ^ 353 else m

/-- A merge into the record at a DPA, whose sectors are decoded as any that is read, as one 64-byte write (R178, R328, R331). -/
def State.mergeAt (s : State) (m : HealthMerge) : State :=
  match s.readFor m.part [(m.at_, 64)] with
  | (t, some a) => t.memFault a m.owner
  | (s, none) => s.putRanges m.owner [(m.at_, 64)] (natLe 64 (healthMerge (s.loadNat m.at_ 64) m.add m.tensor m.tkind m.format))

/-- Merges into companion memory go on, in order within a line: an RD_ONCE brings the record's line, then a WR_PART of 64 bytes takes the merged
record there (R404). -/
def State.mergesGo (s : State) : State :=
  s.glk.merges.foldl
    (fun t m =>
      let l := lineOf (m.at_ - glkBase)
      let keep := t.updGlk fun g => { g with merges := g.merges ++ [m] }
      if t.glk.merges.any fun x => lineOf (x.at_ - glkBase) == l then keep
      else if t.glk.held.contains l then ((t.updGlk fun g => { g with held := g.held.filter (· != l) }).mergeAt m)
      else keep.askStream [(m.at_, 64)] m.owner)
    (s.updGlk fun g => { g with merges := [] })

/-- The counts are merged into the record at a virtual address, if one is named (R176, R178, R404). -/
def State.mergeHealth (s : State) (p addr : Nat) (h : Health) (tensor tkind format : Nat) (owner : Owner) : State :=
  if addr = 0 then s
  else
    match s.dpaRange p addr 64 with
    | (a, _) :: _ =>
      let m : HealthMerge := ⟨p, a, h, tensor, tkind, format, owner⟩
      if glkBase ≤ a ∧ a < glkEnd then (s.updGlk fun g => { g with merges := g.merges ++ [m] }).mergesGo else s.mergeAt m
    | [] => s

/-- The record of HEALTH_ADDR as an extent to translate, writable (R176). -/
def healthExtent (addr : Nat) : List (Nat × Nat × Bool) := if addr = 0 then [] else [(addr, 64, true)]

/-- Does HEALTH_ADDR keep R176: a multiple of 64 that translates to DRAM or companion memory? `dpa` is the record's DPA. -/
def healthFits (addr : Nat) (dpa : Option Nat) : Bool :=
  addr == 0 || (addr % 64 == 0 && match dpa with
    | some a => decide (a < sramBase)
    | none => true)

end Sys2Proof.Machine
end

