-- ==== Sys2Proof/Machine/Transcend.lean ====
section
/-! DEFINITION. The functions whose bits NGEN fixes and no chapter publishes: GELU and SiLU (R206), RSQRT, EXP, LOG, TANH and SIGM (R218). Each is
evaluated far beyond FP32 in integers scaled by 2^256; the result is any pattern within the error bound of R206 of the exact value rounded
to FP32, chosen by a free function of the operand (log entry 5). -/
namespace Sys2Proof.Machine

/-! ## Evaluation -/

/-- ln 2, scaled by 2^256. -/
def fxLn2 : Nat := 0xB17217F7D1CF79ABC9E3B39803F2F6AF40F343267298B62D8A0D175B8BAAFA2B

/-- √(2/π), scaled by 2^256. -/
def fxC : Nat := 0xCC42299EA1B284687E59E2805D5C717FA7053E60A24E0DB1808E369004C73A5D

/-- m × 2^e as an integer scaled by 2^256; finer digits are cut off. -/
def fxOf (s : Bool) (m : Nat) (e : Int) : Int :=
  let a : Nat := if -256 ≤ e then m * 2 ^ (e + 256).toNat else m / 2 ^ (-256 - e).toNat
  if s then -(a : Int) else a

/-- A scaled number kept within ±2^12: beyond it every function here has reached its limit on FP32. -/
def fxClamp (x : Int) : Int := max (-(2 ^ 268)) (min x (2 ^ 268))

/-- e^x for a scaled x: a number from 2^256 to 2^257 and the power of two that multiplies it, less 256. -/
def fxExp (x : Int) : Nat × Int :=
  let k := x / fxLn2
  let r := (x - k * fxLn2).toNat
  (((List.range 64).foldl (fun (a : Nat × Nat) i => let t := a.2 * r / 2 ^ 256 / (i + 1); (a.1 + t, t)) (2 ^ 256, 2 ^ 256)).1, k)

/-- The natural logarithm of m × 2^e for m > 0, scaled: by the powers of z = (m − 1)/(m + 1) of the mantissa from 1 to 2. -/
def fxLog (m : Nat) (e : Int) : Int :=
  let n := Nat.log2 m
  let a := m * 2 ^ 256 / 2 ^ n
  let z := (a - 2 ^ 256) * 2 ^ 256 / (a + 2 ^ 256)
  let z2 := z * z / 2 ^ 256
  let y := ((List.range 90).foldl (fun (x : Nat × Nat) i => (x.1 + x.2 / (2 * i + 1), x.2 * z2 / 2 ^ 256)) (0, z)).1
  (e + n) * fxLn2 + (2 * y : Nat)

/-- 1 / (1 + e^−x) for a scaled x: a number and the power of two that multiplies it. -/
def fxSigm (x : Int) : Nat × Int :=
  let y := fxExp (-x)
  if 0 ≤ y.2 then (2 ^ (768 + y.2.toNat) / (2 ^ 256 + y.1 * 2 ^ y.2.toNat), -(512 + y.2))
  else (2 ^ 768 / (2 ^ 256 + y.1 / 2 ^ (-y.2).toNat), -512)

/-- tanh of a magnitude m × 2^e: below 2^−20 by its series, else from e^−2a. -/
def fxTanh (m : Nat) (e : Int) : Nat × Int :=
  let a := (fxOf false m e).toNat
  if a < 2 ^ 236 then
    let a2 := a * a / 2 ^ 256
    let f := 2 ^ 256 - a2 / 3 + 2 * a2 * a2 / 2 ^ 256 / 15
    (m * f, e - 256)
  else
    let y := fxExp (-(2 * fxClamp a))
    let t := y.1 / 2 ^ (-y.2).toNat
    ((2 ^ 256 - t) * 2 ^ 256 / (2 ^ 256 + t), -256)

/-- 2 √(2/π) (x + 0.044715 x³) for a scaled x: GELU is x / (1 + e^ of its negative). -/
def fxGelu (x : Int) : Int :=
  let c := fxClamp x
  2 * (fxC * (c + 44715 * (c * c * c / 2 ^ 512) / 1000000) / 2 ^ 256)

/-- A function of R206 or R218 far beyond FP32, on a finite operand s m 2^e: its exact value but for errors far below any rounding. -/
def fnExact (f : Nat) (s : Bool) (m : Nat) (e : Int) : Val :=
  let x := fxOf s m e
  match f with
  | 0x0B =>
    let odd := e % 2 = 1
    .fin false (isqrtF 304 (2 ^ 600 / (if odd then 2 * m else m))) (-300 - (if odd then e - 1 else e) / 2)
  | 0x0D => let y := fxExp (fxClamp x); .fin false y.1 (y.2 - 256)
  | 0x0E => .ofInt (fxLog m e) (-256) false
  | 0x0F => let y := fxTanh m e; .fin s y.1 y.2
  | 0x10 => let y := fxSigm (fxClamp x); .fin false y.1 y.2
  | 0x103 => let y := fxSigm (fxClamp (fxGelu x)); .fin s (m * y.1) (e + y.2)
  | _ => let y := fxSigm (fxClamp x); .fin s (m * y.1) (e + y.2)

/-! ## The bound of R206 -/

/-- The place of an FP32 pattern among the finite ones, both zeros at 0. -/
def ord32 (b : Nat) : Int := if isNeg32 b then -(b % 2 ^ 31 : Nat) else (b % 2 ^ 31 : Nat)

/-- The pattern at a place; at 0 the zero with the sign given. -/
def ofOrd32 (neg : Bool) (o : Int) : Nat := if o < 0 ∨ (o = 0 ∧ neg) then 2 ^ 31 + o.natAbs else o.natAbs

/-- A finite FP32 pattern in units of 2^−149. -/
def units32 (b : Nat) : Int :=
  match val32 b with
  | .fin s m e => signedAt s m e (-149)
  | _ => 0

/-- The unit in the last place of an FP32 pattern, in units of 2^−149: 1 below 2^−126. -/
def ulp32 (b : Nat) : Nat := 2 ^ (max 1 (bits b 23 8) - 1)

/-- Is pattern `c` a result that R206 lets a function give whose exact value rounds to `y`: within four units in the last place, or within
2^−147 for the smallest values? -/
def within4 (y c : Nat) : Bool := isFin32 y && isFin32 c && decide ((units32 c - units32 y).natAbs ≤ 4 * ulp32 y)

/-- The pattern that a free function of the operand chooses among those within the bound: its candidates lie up to eight places from the
exact value rounded to FP32, which stands in for one beyond the bound. -/
def fnNear (f x y : Nat) : Nat :=
  let c := ofOrd32 (isNeg32 y) (ord32 y + ((Config.transcendental f (BitVec.ofNat 32 x)).toNat % 17 : Nat) - 8)
  if within4 y c then c else y

/-- The numbers that name the epilogue's GELU and SiLU among the functions whose bits NGEN fixes (R206). -/
def fnEpGelu : Nat := 0x103
/-- SiLU. -/
def fnEpSilu : Nat := 0x104

/-- A function of R206 or R218 on a finite operand: within its error bound, with bits that NGEN fixes (log entry 5). -/
def fnBits (f x : Nat) : Nat :=
  match val32 x with
  | .fin s m e => fnNear f x (fnExact f s m e).to32
  | _ => nan32

end Sys2Proof.Machine
end

