-- ==== Sys2Proof/Machine/Epilogue.lean ====
section
/-! DEFINITION. The epilogue of closing matrix descriptors (R202 to R209). -/
namespace Sys2Proof.Machine

/-! ## The record (R203) -/

/-- OUT_FMT of an epilogue record. -/
def epFmt (r : Nat) : Nat := dfield r 0 0 4
/-- TKIND. -/
def epKind (r : Nat) : Nat := dfield r 0 4 2
/-- ACT. -/
def epAct (r : Nat) : Nat := dfield r 1 0 4
/-- TSCALE. -/
def epTscale (r : Nat) : Nat := dfield r 4 0 32
/-- OUT_ADDR. -/
def epOut (r : Nat) : Nat := dfield r 8 0 64
/-- OUT_STRIDE. -/
def epStride (r : Nat) : Nat := dfield r 16 0 32
/-- OS_STRIDE. -/
def epOsStride (r : Nat) : Nat := dfield r 20 0 32
/-- OS_ADDR. -/
def epOs (r : Nat) : Nat := dfield r 24 0 64
/-- CSCALE_ADDR. -/
def epCscale (r : Nat) : Nat := dfield r 32 0 64
/-- BIAS_ADDR. -/
def epBias (r : Nat) : Nat := dfield r 40 0 64
/-- HEALTH_ADDR. -/
def epHealth (r : Nat) : Nat := dfield r 48 0 64
/-- TABLE_ADDR. -/
def epTable (r : Nat) : Nat := dfield r 56 0 64
/-- PARAM0. -/
def epParam0 (r : Nat) : Nat := dfield r 64 0 32
/-- PARAM1. -/
def epParam1 (r : Nat) : Nat := dfield r 68 0 32

/-- A block of rows that a closing descriptor writes: first row and count. -/
abbrev RowSpan := Nat × Nat

/-- Bits [63:48] of every address of a record are zero (R44). -/
def epAddrs (r : Nat) : Bool :=
  [epOut r, epOs r, epCscale r, epBias r, epHealth r, epTable r].all fun a => decide (a < 2 ^ 48)

/-- The reserved fields and encodings of a record, and the high bits of its addresses (R23, R44, R203). -/
def epLegal (r : Nat) : Bool :=
  (decide (epFmt r ≤ 7) || epFmt r == 0xF) && epKind r != 3 && decide (epAct r ≤ 5) && dfield r 0 6 2 == 0 && dfield r 1 4 4 == 0 &&
    dfield r 2 0 16 == 0 && dfield r 72 0 448 == 0 && epAddrs r

/-- The use of ACT's parameters (R204). -/
def epParams (r : Nat) : Bool :=
  match epAct r with
  | 2 => epTable r == 0 && !isNan32 (epParam0 r) && !isNan32 (epParam1 r) && !(val32 (epParam1 r)).lt (val32 (epParam0 r))
  | 5 => epTable r % 64 == 0 && isFin32 (epParam0 r) && isFin32 (epParam1 r) && !isNeg32 (epParam1 r) && !isZero32 (epParam1 r)
  | _ => epTable r == 0 && epParam0 r == 0 && epParam1 r == 0

/-- The rule of R204 for a record whose descriptor writes columns from `col0`, `ncol` of them, in the given rows. -/
def epFits (r col0 ncol : Nat) (rows : List RowSpan) : Bool :=
  epLegal r && epOut r % 128 == 0 && epStride r % 16 == 0 && decide (ceilDiv ((col0 + ncol) * fmtBits (epFmt r)) 8 ≤ epStride r) &&
    (if isMx (epFmt r) then
      epOs r != 0 && (if epKind r = 0 then rows.all fun x => x.1 % 32 == 0 && x.2 % 32 == 0 else col0 % 32 == 0)
    else epOs r == 0 && epOsStride r == 0) &&
    epCscale r % 4 == 0 && epBias r % 4 == 0 && epParams r && epHealth r % 64 == 0

/-- The output extents of a record (R208). -/
def epOuts (r col0 ncol : Nat) (rows : List RowSpan) : List (Nat × Nat × Bool) :=
  let b := fmtBits (epFmt r)
  let each := rows.flatMap fun x => (List.range x.2).map (· + x.1)
  let data := each.map fun i => (epOut r + i * epStride r + col0 * b / 8, ceilDiv (ncol * b) 8, true)
  let scales :=
    if isMx (epFmt r) then
      if epKind r = 0 then
        rows.flatMap fun x => (List.range (ceilDiv x.2 32)).map fun k => (epOs r + (x.1 / 32 + k) * epOsStride r + col0, ncol, true)
      else each.map fun i => (epOs r + i * epOsStride r + col0 / 32, ceilDiv ncol 32, true)
    else []
  data ++ scales

/-- The extents that the epilogue reads: column scales, biases, table; and its health record (R202). -/
def epIns (r col0 ncol : Nat) : List (Nat × Nat × Bool) :=
  (if epCscale r = 0 then [] else [(epCscale r + 4 * col0, 4 * ncol, false)]) ++
  (if epBias r = 0 then [] else [(epBias r + 4 * col0, 4 * ncol, false)]) ++
  (if epAct r = 5 then [(epTable r, 1024, false)] else []) ++ healthExtent (epHealth r)

/-! ## The pass -/

/-- The functions GELU and SiLU with their values at infinities and NaN (R206, R218). -/
def fnGated (f x : Nat) : Nat :=
  match val32 x with
  | .nan => nan32
  | .inf neg => if neg then 0x80000000 else 0x7F800000
  | _ => fnBits f x

/-- The floor of a positive value below 256. -/
def floorVal : Val → Nat
  | .fin _ m e => if 0 ≤ e then m * 2 ^ e.toNat else m / 2 ^ (-e).toNat
  | _ => 0

/-- The interpolated table (R207); `t` gives its entries. -/
def tableAct (t : Nat → Nat) (x0 invH x : Nat) : Nat :=
  let y := fmul32 (fsub32 x x0) invH
  if isNan32 y then nan32
  else if !(Val.lt (.fin false 0 0) (val32 y)) then canon32 (t 0)
  else if !(Val.lt (val32 y) (.fin false 255 0)) then canon32 (t 255)
  else
    let j := floorVal (val32 y)
    let f := fsub32 y (ofInt32 j)
    fadd32 (t j) (fmul32 f (fsub32 (t (j + 1)) (t j)))

/-- The activations (R206). -/
def actApply (act p0 p1 : Nat) (t : Nat → Nat) (x : Nat) : Nat :=
  match act with
  | 0 => canon32 x
  | 1 => if isNan32 x then nan32 else if Val.lt (.fin false 0 0) (val32 x) then x else 0
  | 2 => fmin32 (fmax32 x p0) p1
  | 3 => fnGated fnEpGelu x
  | 4 => fnGated fnEpSilu x
  | _ => tableAct t p0 p1 x

/-- One element of the pass before narrowing (R205). -/
def State.epValue (s : State) (p r acc c : Nat) : Nat :=
  let v := fmul32 acc (epTscale r)
  let v := if epCscale r = 0 then v else fmul32 v (s.vloadNat p (epCscale r + 4 * c) 4)
  let v := if epBias r = 0 then v else fadd32 v (s.vloadNat p (epBias r + 4 * c) 4)
  actApply (epAct r) (epParam0 r) (epParam1 r) (fun i => s.vloadNat p (epTable r + 4 * i) 4) v

/-- Patterns of `b` bits packed from bit 0 upward (R155). -/
def packBits (b : Nat) : List Nat → Nat
  | [] => 0
  | x :: t => x % 2 ^ b + 2 ^ b * packBits b t

/-- The bytes of a row of patterns. -/
def packBytes (b : Nat) (l : List Nat) : List Byte := natLe (ceilDiv (l.length * b) 8) (packBits b l)

/-- A list cut into pieces of `n`. -/
def chunksF {α : Type} (n : Nat) : Nat → List α → List (List α)
  | 0, _ => []
  | f + 1, l => if l.isEmpty then [] else l.take n :: chunksF n f (l.drop n)

/-- Pieces of 32. -/
def blocks32 {α : Type} (l : List α) : List (List α) := chunksF 32 (l.length / 32 + 1) l

/-- Element `j` of each row. -/
def columnOf (rows : List (List Nat)) (j : Nat) : List Nat := rows.map fun r => r.getD j 0

/-- A row of values narrowed to FP32, BF16 or FP16: its patterns and counts. -/
def narrowRow (g : Rng) (code tkind r c0 : Nat) (vals : List Nat) : List Nat × Health :=
  let xs := vals.zipIdx.map fun (v, j) => narrowPlain code tkind v (g.conv r (c0 + j))
  (xs.map (·.1), xs.foldl (fun h x => h.plus x.2) .none)

/-- A row of values converted to MX blocks of 32 columns: scales, elements, counts (R172, R173). -/
def mxRow (g : Rng) (code tkind r c0 : Nat) (vals : List Nat) : List Nat × List Nat × Health :=
  let bs := (blocks32 vals).zipIdx.map fun (v, k) => mxBlock code tkind v ((List.range 32).map fun j => g.conv r (c0 + 32 * k + j))
  (bs.map (·.1), bs.flatMap (·.2.1), bs.foldl (fun h x => h.plus x.2.2) .none)

/-- Blocks of 32 rows converted column by column (TKIND 0): scales by block and column, elements by row, counts. -/
def mxCols (code : Nat) (rows : List (List Nat)) : List (List Nat) × List (List Nat) × Health :=
  let bs := (blocks32 rows).map fun b => (List.range (b.headD []).length).map fun j => mxBlock code 0 (columnOf b j) []
  (bs.map (·.map (·.1)), bs.flatMap (fun cols => (List.range 32).map fun i => cols.map fun x => x.2.1.getD i 0),
    bs.foldl (fun h cols => cols.foldl (fun h x => h.plus x.2.2) h) .none)

/-- Values at rows from `r0` and columns from `c0` are converted and written with their scales: the output of an epilogue record's
layout (R205, R208), in which element (r, c) lies at `out` + r × stride + c × bits / 8. -/
def State.emitTile (s : State) (p : Nat) (owner : Owner) (g : Rng) (code tkind out stride os osStride r0 c0 : Nat) (rows : List (List Nat)) :
    State × Health :=
  let b := fmtBits code
  if isMx code = false then
    rows.zipIdx.foldl
      (fun x (row, i) =>
        let y := narrowRow g code tkind (r0 + i) c0 row
        (x.1.vstore p (out + (r0 + i) * stride + c0 * b / 8) (packBytes b y.1) owner, x.2.plus y.2))
      (s, .none)
  else if tkind = 0 then
    let y := mxCols code rows
    let s := y.1.zipIdx.foldl (fun s (sc, k) => s.vstore p (os + (r0 / 32 + k) * osStride + c0) (packBytes 8 sc) owner) s
    (y.2.1.zipIdx.foldl (fun s (row, i) => s.vstore p (out + (r0 + i) * stride + c0 * b / 8) (packBytes b row) owner) s, y.2.2)
  else
    rows.zipIdx.foldl
      (fun x (row, i) =>
        let y := mxRow g code tkind (r0 + i) c0 row
        let s := x.1.vstore p (os + (r0 + i) * osStride + c0 / 32) (packBytes 8 y.1) owner
        (s.vstore p (out + (r0 + i) * stride + c0 * b / 8) (packBytes b y.2.1) owner, x.2.plus y.2.2))
      (s, .none)

end Sys2Proof.Machine
end

