-- ==== Sys2Proof/Machine/Schedule.lean ====
section
/-! DEFINITION. The schedule unit of Abacus: group records and the step state (R256, R260, R261, R268, R271). -/
namespace Sys2Proof.Machine

/-! ## Group records (R261) -/

/-- DENOM: 0 SQRT, 1 SIGN, 2 UNIT, 3 MAXNORM. -/
def grDenom (g : Nat) : Nat := dfield g 0 0 2
/-- MOMENTS. -/
def grMoments (g : Nat) : Nat := dfield g 0 2 2
/-- BIASCORR. -/
def grBiascorr (g : Nat) : Bool := bit g 4
/-- FROZEN. -/
def grFrozen (g : Nat) : Bool := bit g 5
/-- SCHED. -/
def grSched (g : Nat) : Nat := dfield g 1 0 3
/-- A1. -/
def grA1 (g : Nat) : Nat := dfield g 4 0 32
/-- B1. -/
def grB1 (g : Nat) : Nat := dfield g 8 0 32
/-- A2. -/
def grA2 (g : Nat) : Nat := dfield g 12 0 32
/-- B2. -/
def grB2 (g : Nat) : Nat := dfield g 16 0 32
/-- EPS. -/
def grEps (g : Nat) : Nat := dfield g 20 0 32
/-- WD. -/
def grWd (g : Nat) : Nat := dfield g 24 0 32
/-- LR_PEAK. -/
def grPeak (g : Nat) : Nat := dfield g 28 0 32
/-- LR_MIN. -/
def grMin (g : Nat) : Nat := dfield g 32 0 32
/-- GAMMA. -/
def grGamma (g : Nat) : Nat := dfield g 36 0 32
/-- CLIP. -/
def grClip (g : Nat) : Nat := dfield g 40 0 32
/-- STEP0. -/
def grStep0 (g : Nat) : Nat := dfield g 48 0 48
/-- WARMUP. -/
def grWarmup (g : Nat) : Nat := dfield g 56 0 32
/-- DECAY. -/
def grDecay (g : Nat) : Nat := dfield g 60 0 32
/-- PERIOD. -/
def grPeriod (g : Nat) : Nat := dfield g 64 0 32
/-- MULT. -/
def grMult (g : Nat) : Nat := dfield g 68 0 32
/-- STEP_EVERY. -/
def grEvery (g : Nat) : Nat := dfield g 72 0 32
/-- MASK_ADDR. -/
def grMask (g : Nat) : Nat := dfield g 80 0 64

/-- The FP32 pattern of 1.0. -/
def fpOne : Nat := 0x3F800000
/-- The FP32 pattern of 0.5. -/
def fpHalf : Nat := 0x3F000000

/-- Is an FP32 pattern at least another, as values? -/
def fge32 (a b : Nat) : Bool := !(val32 a).lt (val32 b)

/-- Does a group record keep R261? -/
def grLegal (g : Nat) : Bool :=
  let d := grDenom g
  let m := grMoments g
  (if d = 0 ∨ d = 3 then m == 2 else decide (m ≤ 1)) && decide (grSched g ≤ 4) &&
    ([grA1 g, grB1 g, grA2 g, grB2 g, grEps g, grWd g, grPeak g, grMin g, grGamma g, grClip g].all isFin32) &&
    fge32 (grEps g) 0 && fge32 (grClip g) 0 && fge32 (grMin g) 0 && fge32 (grPeak g) (grMin g) &&
    (val32 0).lt (val32 (grGamma g)) && fge32 fpOne (grGamma g) && (grSched g == 4 || grGamma g == fpOne) &&
    decide (1 ≤ grMult g) && decide (grMult g ≤ 64) && (grPeriod g != 0 || grMult g == 1) &&
    (if (grSched g = 1 ∨ grSched g = 2) ∧ grPeriod g = 0 then decide (1 ≤ grDecay g) else true) &&
    (if grSched g = 4 then decide (1 ≤ grEvery g) else grEvery g == 0) &&
    dfield g 0 6 2 == 0 && dfield g 1 3 5 == 0 && dfield g 2 0 16 == 0 && dfield g 44 0 32 == 0 && dfield g 54 0 16 == 0 &&
    dfield g 76 0 32 == 0 && dfield g 88 0 320 == 0

/-! ## The step state (R268, R271) -/

/-- The scalar functions of the schedule unit, whose bits NGEN fixes (log entry 5). -/
def schedBits (f a b : Nat) : Nat := (Config.schedFn f (BitVec.ofNat 32 a) (BitVec.ofNat 32 b)).toNat

/-- cospi, exact at 0, 0.5 and 1. -/
def cospi (x : Nat) : Nat :=
  if isZero32 x then fpOne else if x = fpHalf then 0 else if x = fpOne then 0xBF800000 else schedBits 1 x 0

/-- rsqrt. -/
def schedRsqrt (x : Nat) : Nat := schedBits 2 x 0

/-- pow. -/
def schedPow (a b : Nat) : Nat := schedBits 3 a b

/-- A bias correction 1 / (1 − A^t), or 1.0 (R268). -/
def biasCorr (a : Nat) (t : Int) : Nat :=
  if t < 1 then fpOne
  else
    let c := fdiv32 fpOne (fsub32 fpOne (schedPow a (ofInt32 t)))
    if isFin32 c && !isZero32 c then c else fpOne

/-- The restart loop of R271: τ and len after it. -/
def restart (mult : Nat) : Nat → Nat → Nat → Nat × Nat
  | 0, tau, len => (tau, len)
  | f + 1, tau, len =>
    if tau < len then (tau, len)
    else if 2 ^ 48 < len * mult then (tau - len, 2 ^ 48)
    else restart mult f (tau - len) (len * mult)

/-- τ and len of R271 for a τ counted from the end of the warm-up. -/
def schedPoint (g tau : Nat) : Nat × Nat :=
  if grPeriod g = 0 then (min tau (grDecay g), grDecay g)
  else if grMult g = 1 then (tau % grPeriod g, grPeriod g)
  else restart (grMult g) 64 tau (grPeriod g)

/-- The learning rate of a group at step `s` (R271). -/
def schedLr (g s : Nat) : Nat :=
  let tau0 : Int := (s : Int) - grStep0 g
  let w := grWarmup g
  if tau0 < 0 then 0
  else if tau0 < w then fmul32 (grPeak g) (fdiv32 (ofInt32 (tau0 + 1)) (ofInt32 w))
  else
    let x := schedPoint g (tau0 - w).toNat
    let tau := x.1
    let span := fsub32 (grPeak g) (grMin g)
    let at_ := fdiv32 (ofInt32 tau) (ofInt32 x.2)
    match grSched g with
    | 0 => grPeak g
    | 1 => fadd32 (grMin g) (fmul32 span (fmul32 fpHalf (fadd32 fpOne (cospi at_))))
    | 2 => fsub32 (grPeak g) (fmul32 span at_)
    | 3 => fmax32 (grMin g) (fmul32 (grPeak g) (schedRsqrt (fdiv32 (ofInt32 (tau + max w 1 : Nat)) (ofInt32 (max w 1 : Nat)))))
    | _ => fmax32 (grMin g) (fmul32 (grPeak g) (schedPow (grGamma g) (ofInt32 (tau / grEvery g : Nat))))

/-- r1 of a group at step `s` (R268). -/
def schedR1 (g s : Nat) : Nat := if grBiascorr g then biasCorr (grA1 g) ((s : Int) - grStep0 g + 1) else fpOne
/-- r2 of a group at step `s` (R268). -/
def schedR2 (g s : Nat) : Nat := if grBiascorr g then biasCorr (grA2 g) ((s : Int) - grStep0 g + 1) else fpOne

/-! ## The group table (R260) -/

/-- The bytes of the table of partition `p`: address and length. -/
def State.tableRange (s : State) (p : Nat) : Nat × Nat :=
  (s.fget (ABC_TABLE_BASE (s.lead p)) * 4096, 128 * s.fget (ABC_TABLE_COUNT (s.lead p)))

/-- Does the table lie wholly within the partition's DRAM share or the GlaetLink window (R260)? -/
def State.tableFits (s : State) (p : Nat) : Bool :=
  let x := s.tableRange p
  x.2 == 0 || (s.inShare p x.1 && s.inShare p (x.1 + x.2 - 1)) || (inCompanion x.1 && inCompanion (x.1 + x.2 - 1))

/-- The schedule unit reads the group table (R260): records that break R261 raise GROUP_INVALID. -/
def State.loadGroups (s : State) (p : Nat) : State :=
  let x := s.tableRange p
  let y := s.readRanges [x]
  if y.2 = false then y.1
  else
    let s := y.1
    let gs := (List.range (s.fget (ABC_TABLE_COUNT (s.lead p)))).map fun i => s.loadNat (x.1 + 128 * i) 128
    let s := s.updPart p fun q => { q with abc := { q.abc with groups := gs, loaded := true } }
    let bad := gs.zipIdx.filterMap fun (g, i) => if grLegal g then none else some i
    s.each bad fun s i => s.raise p .groupInvalid { unit := unitRegion (s.lead p), log := i }

/-- The first beat of a run (R260): the step state is that of the counter; a misplaced table raises GROUP_INVALID, another one is read,
from companion memory once its lines have come. -/
def State.schedStart (s : State) (p : Nat) : State :=
  let x := s.tableRange p
  let s := (s.updPart p fun q => { q with abc := .idle }).fset (ABC_SCHED_TAG (s.lead p)) (s.stepOf p)
  if s.tableFits p = false then s.raise p .groupInvalid { unit := unitRegion (s.lead p), addr := x.1 }
  else if s.fetchReady [x] then (s.loadGroups p).useFetch [x]
  else s.askFetch [x] (.fetch p)

/-- STEP_STATE_READY: the schedule unit has computed the step state; waiting Abacus descriptors proceed (R260). -/
def stepStateReady (p : Nat) (s : State) : State :=
  if s.running p = false then s
  else
    let x := s.tableRange p
    let s := if (s.part p).abc.loaded then s
      else if s.fetchReady [x] then (s.loadGroups p).useFetch [x] else s.askFetch [x] (.fetch p)
    if (s.part p).abc.loaded ∧ s.running p then s.updPart p fun q => { q with abc := { q.abc with ready := true } } else s

/-- STEP_STATE_READY (R260). -/
def execStepStateReady (p : Fin 4) (s : State) : Host.Outcome State Fault Refusal := .next (stepStateReady p s)

end Sys2Proof.Machine
end

