-- ==== Sys2Proof/Machine/Abacus.lean ====
section
/-! DEFINITION. Abacus: update descriptors, class 0x04 (R255 to R277). -/
namespace Sys2Proof.Machine

/-! ## The body (R263) -/

/-- OP: 0 NORM, 1 FINALISE, 2 APPLY, 3 STEP_END. -/
def abOp (raw : Nat) : Nat := dfield raw 32 0 8
/-- GFMT. -/
def abGfmt (raw : Nat) : Nat := dfield raw 33 0 4
/-- WFMT. -/
def abWfmt (raw : Nat) : Nat := dfield raw 33 4 4
/-- GROUP. -/
def abGroup (raw : Nat) : Nat := dfield raw 34 0 13
/-- STEP. -/
def abStep (raw : Nat) : Nat := dfield raw 36 0 48
/-- N. -/
def abN (raw : Nat) : Nat := dfield raw 44 0 32
/-- E0. -/
def abE0 (raw : Nat) : Nat := dfield raw 48 0 40
/-- P_ADDR; NORM_ADDR of FINALISE. -/
def abP (raw : Nat) : Nat := dfield raw 56 0 64
/-- G_ADDR; HEALTH_ADDR of FINALISE. -/
def abG (raw : Nat) : Nat := dfield raw 64 0 64
/-- M1_ADDR. -/
def abM1 (raw : Nat) : Nat := dfield raw 72 0 64
/-- M2_ADDR. -/
def abM2 (raw : Nat) : Nat := dfield raw 80 0 64
/-- W_ADDR. -/
def abW (raw : Nat) : Nat := dfield raw 88 0 64
/-- WS_ADDR. -/
def abWs (raw : Nat) : Nat := dfield raw 96 0 64
/-- COLS. -/
def abCols (raw : Nat) : Nat := dfield raw 104 0 32
/-- W_STRIDE. -/
def abWstride (raw : Nat) : Nat := dfield raw 108 0 32
/-- WS_STRIDE. -/
def abWsStride (raw : Nat) : Nat := dfield raw 112 0 32
/-- REC_ADDR. -/
def abRec (raw : Nat) : Nat := dfield raw 120 0 64

/-- Is the descriptor of the update class? -/
def isUpdate (raw : Nat) : Bool := dClass raw == 0x04
/-- Is it this operation of the update class? -/
def isAbOp (op raw : Nat) : Bool := isUpdate raw && abOp raw == op

/-- Does the descriptor write a working copy? -/
def abCopies (raw : Nat) : Bool := abOp raw == 2 && abWfmt raw != 0xF
/-- Is it in an MX format? -/
def abMx (raw : Nat) : Bool := abCopies raw && isMx (abWfmt raw)

/-- Step 1 of R90 for an update descriptor (R263): reserved fields and encodings, fields that the operation does not use, and,
DEDUCED, body bytes that no table lists (R23; log entry 28). -/
def abStep1 (raw : Nat) : Bool :=
  let op := abOp raw
  let shard := op == 0 || op == 2
  decide (op ≤ 3) && dSlot raw == 0 && dfield raw 34 13 3 == 0 && dfield raw 42 0 16 == 0 && dfield raw 53 0 24 == 0 &&
    dfield raw 116 0 32 == 0 &&
    (if shard then abGfmt raw == 0 || abGfmt raw == 0xF else dfield raw 33 0 8 == 0 && abGroup raw == 0 && abN raw == 0 && abE0 raw == 0) &&
    (if op = 2 then decide (abWfmt raw ≤ 7) || abWfmt raw == 0xF else abWfmt raw == 0) &&
    (if op = 0 ∨ op = 3 then abP raw == 0 else true) && (if op = 3 then abG raw == 0 else true) &&
    (if op = 2 then true else abM1 raw == 0 && abM2 raw == 0) &&
    (abCopies raw || (abW raw == 0 && abCols raw == 0 && abWstride raw == 0)) && (abMx raw || (abWs raw == 0 && abWsStride raw == 0)) &&
    [abP raw, abG raw, abM1 raw, abM2 raw, abW raw, abWs raw, abRec raw].all fun a => decide (a < 2 ^ 48)

/-- A NORM or APPLY whose N is 0 is a no-operation (R276). -/
def abNoop (raw : Nat) : Bool := (abOp raw == 0 || abOp raw == 2) && abN raw == 0

/-- The rows of a working copy. -/
def abRows (raw : Nat) : Nat := if abCols raw = 0 then 0 else ceilDiv (abN raw) (abCols raw)

/-- The mask bytes that a range needs (R262). -/
def abMaskExtent (raw g : Nat) : List Extent :=
  if abN raw = 0 ∨ grMask g = 0 ∨ grFrozen g then []
  else [(grMask g + abE0 raw / 256, (abE0 raw + abN raw - 1) / 256 - abE0 raw / 256 + 1, false)]

/-- The extents of the working copy (R270). -/
def abCopyExtents (raw : Nat) : List Extent :=
  if abCopies raw then
    let b := fmtBits (abWfmt raw)
    ((List.range (abRows raw)).map fun i =>
      (abW raw + i * abWstride raw, ceilDiv (min (abCols raw) (abN raw - i * abCols raw) * b) 8, true)) ++
      (if abMx raw then (List.range (ceilDiv (abRows raw) 32)).map fun k => (abWs raw + k * abWsStride raw, abCols raw, true) else [])
  else []

/-- Every extent of an update descriptor (R264), but the freeze mask's. -/
def abExtents (raw : Nat) : List Extent :=
  let n := abN raw
  let opt := fun (a : Nat) (n : Nat) (w : Bool) => if a = 0 then [] else [((a, n, w) : Extent)]
  match abOp raw with
  | 0 => [(abG raw, n * fmtBits (abGfmt raw) / 8, false), (abRec raw, 64, true)]
  | 1 => [(abP raw, 64, false)] ++ opt (abG raw) 64 false ++ [(abRec raw, 64, true)]
  | 2 => [(abP raw, 4 * n, true), (abG raw, n * fmtBits (abGfmt raw) / 8, false)] ++ opt (abM1 raw) (4 * n) true ++
      opt (abM2 raw) (4 * n) true ++ [(abRec raw, 128, true)] ++ abCopyExtents raw
  | _ => [(abRec raw, 128, true)]

/-- The checks of R264 and of the Meaning column of R263. -/
def State.abStep5 (s : State) (p raw : Nat) : Bool :=
  let op := abOp raw
  decide (abGroup raw < s.fget (ABC_TABLE_COUNT (s.lead p))) && abE0 raw % 32 == 0 && decide (abE0 raw + abN raw ≤ 2 ^ 40) &&
    (if op = 0 ∨ op = 2 then [abP raw, abG raw, abM1 raw, abM2 raw, abW raw, abWs raw].all fun a => a % 128 == 0 else true) &&
    abRec raw != 0 && (if op = 1 ∨ op = 2 then abP raw != 0 else true) && (if op = 0 ∨ op = 2 then abG raw != 0 else true) &&
    (if op = 0 ∨ op = 1 then abRec raw % 64 == 0 else abRec raw % 128 == 0) && (if op = 1 then abP raw % 64 == 0 && abG raw % 64 == 0 else true) &&
    (if abCopies raw then
      abW raw != 0 && abCols raw != 0 && abWstride raw % 16 == 0 && decide (ceilDiv (abCols raw * fmtBits (abWfmt raw)) 8 ≤ abWstride raw)
    else true) &&
    (if abMx raw then
      abWs raw != 0 && abCols raw % 32 == 0 && abE0 raw % (32 * abCols raw) == 0 && abN raw % (32 * abCols raw) == 0
    else true) &&
    (if op = 3 then dRegion raw == s.lead p else true)

/-- The record of the descriptor's group; 0 when the table holds none. -/
def State.groupOf (s : State) (p raw : Nat) : Nat := (s.part p).abc.groups.getD (abGroup raw) 0

/-- Steps 4 and 5 of R90 for an update descriptor (R264). The mask's address stands in the group record: the fetch waits until the table has
been read (R260). -/
def abFetch (s : State) (p raw : Nat) : Fetched (List Nat) := do
  s.xlateAll p (abExtents raw)
  if abOp raw = 0 ∨ abOp raw = 2 then
    if !(s.part p).abc.loaded then throw (.need ((s.fget (ABC_TABLE_BASE (s.lead p)) * 4096 - glkBase) / 128))
    s.xlateAll p (abMaskExtent raw (s.groupOf p raw))
  let h ← if abOp raw = 1 then s.healthDpa p (abG raw) false else pure none
  Fetched.check (s.abStep5 p raw && (if abOp raw = 1 then healthFits (abG raw) h else true))
  pure []

/-- 2^−EXP as FP32, for a loss-scale exponent as its register holds it: the loss scale undone (R265, R269). -/
def unscaleOf (exp : Nat) : Nat := (127 - sext 8 exp).toNat * 2 ^ 23

/-- What an update descriptor latches when it starts: the loss-scale exponent in effect (R257), the mask bytes that its range needs (R262), and
for APPLY the first 16 bytes of its step record (R269). -/
structure Latched where
  exp : Nat
  mask : Nat
  head : Nat

/-- As the descriptor keeps it. -/
def Latched.work (x : Latched) : List Nat := [x.exp, x.mask, x.head]
/-- What the descriptor has latched. -/
def Desc.latched (d : Desc) : Latched := ⟨d.work.getD 0 0, d.work.getD 1 0, d.work.getD 2 0⟩
/-- GNORM2 of the step record. -/
def Latched.gnorm2 (x : Latched) : Nat := bits x.head 0 32
/-- Is SKIP of the step record not 0? -/
def Latched.skip (x : Latched) : Bool := bits x.head 64 64 != 0

/-- Is element `i` of the range frozen, when `mask` are the mask bytes of the range (R262)? -/
def abFrozen (raw g mask i : Nat) : Bool := grFrozen g || (grMask g != 0 && bit mask ((abE0 raw + i) / 32 - 8 * (abE0 raw / 256)))

/-- The runs of elements that are not frozen: first element and count, block by block of 32, joined. -/
def liveRuns (raw g mask : Nat) : List (Nat × Nat) :=
  ((List.range (ceilDiv (abN raw) 32)).foldl
    (fun acc b =>
      if abFrozen raw g mask (32 * b) then acc
      else
        let n := min 32 (abN raw - 32 * b)
        match acc with
        | (f, c) :: t => if f + c = 32 * b then (f, c + n) :: t else (32 * b, n) :: acc
        | [] => [(32 * b, n)])
    []).reverse

/-- The elements of the range that are not frozen. -/
def liveElems (raw g mask : Nat) : List Nat := (liveRuns raw g mask).flatMap fun x => (List.range x.2).map (· + x.1)

/-! ## Starting (R257, R259, R262, R264, R269) -/

/-- What an update descriptor reads as it starts: APPLY its step record's first 16 bytes, then, unless these say SKIP, as NORM does, the mask. -/
def State.abLatch (s : State) (o : Origin) (d : Desc) : Run :=
  let p := s.originPart o
  let raw := d.raw
  let owner := Owner.desc p d.id
  let head := if abOp raw = 2 then s.dpaRanges p [(abRec raw, 16, false)] else []
  if s.streamReady head = false then .wait (s.askStream head owner)
  else
    match s.readFor p head with
    | (t, some a) => .fault t .memUncorr (t.uncorrCause a)
    | (t, none) =>
      let x : Latched := ⟨t.fget (ABC_LOSS_EXP (t.lead p)), 0, if abOp raw = 2 then t.vloadNat p (abRec raw) 16 else 0⟩
      let ext := if abOp raw = 0 ∨ (abOp raw = 2 ∧ x.skip = false) then abMaskExtent raw (t.groupOf p raw) else []
      let mask := t.dpaRanges p ext
      if t.streamReady mask = false then .wait (t.askStream mask owner)
      else
        match t.readFor p mask with
        | (t, some a) => .fault t .memUncorr (t.uncorrCause a)
        | (t, none) =>
          let m := ext.foldl (fun _ e => t.vloadNat p e.1 e.2.1) 0
          .going (((t.noteReads (head ++ mask)).updDesc o d.id fun e => { e with work := { x with mask := m }.work }).dropStream (head ++ mask))

/-- An update descriptor starts: the step (R257), the last step (R259); once the step state is ready (R260), the moments of its group (R264); a
no-operation reads nothing. -/
def startUpdate (o : Origin) (s : State) (d : Desc) : Run :=
  let p := s.originPart o
  let raw := d.raw
  let w : Cause := { unit := unitRegion (dRegion raw) }
  let m := grMoments (s.groupOf p raw)
  if abStep raw ≠ s.stepOf p ∨ (abOp raw ≠ 1 ∧ abStep raw ≠ s.fget (ABC_SCHED_TAG (s.lead p))) then .fault s .stepSkew w
  else if abOp raw = 3 ∧ abStep raw = 2 ^ 48 - 1 then .fault s .stepWrap w
  else if (s.part p).abc.ready = false then .wait s
  else if abOp raw = 2 ∧ ((abM1 raw ≠ 0) ≠ (1 ≤ m) ∨ (abM2 raw ≠ 0) ≠ (m = 2)) then .fault s .descInvalid w
  else if d.noop then .going s
  else s.abLatch o d

/-- What an update descriptor reads as it runs (R265, R266, R269, R272): of the elements that are not frozen, the gradients and moments; an
APPLY that skips, nothing. -/
def abInputs (s : State) (o : Origin) (d : Desc) : List (Nat × Nat) :=
  let p := s.originPart o
  let raw := d.raw
  let rs := fun (l : List Extent) => s.dpaRanges p l
  let live := liveRuns raw (s.groupOf p raw) d.latched.mask
  let w := fmtBits (abGfmt raw) / 8
  let grads := rs (live.map fun x => (abG raw + x.1 * w, x.2 * w, false))
  match abOp raw with
  | 0 => rs [(abRec raw, 64, false)] ++ grads
  | 1 => rs ([((abP raw, 64, false) : Extent)] ++ if abG raw = 0 then [] else [(abG raw, 64, false)])
  | 2 =>
    if d.latched.skip then []
    else
      rs [(abRec raw + 64, 64, false)] ++ grads ++ rs [(abP raw, 4 * abN raw, false)] ++
        (if abM1 raw = 0 then [] else rs (live.map fun x => (abM1 raw + 4 * x.1, 4 * x.2, false))) ++
        (if abM2 raw = 0 then [] else rs (live.map fun x => (abM2 raw + 4 * x.1, 4 * x.2, false)))
  | _ => rs [(abRec raw + 8, 8, false)]

/-- The extents that an update descriptor is about to write (R265, R266, R269, R270, R272, R275). -/
def State.abWrites (s : State) (p : Nat) (d : Desc) : List Extent :=
  let raw := d.raw
  let live := liveRuns raw (s.groupOf p raw) d.latched.mask
  let at_ := fun (a : Nat) => if a = 0 then [] else live.map fun x => ((a + 4 * x.1, 4 * x.2, true) : Extent)
  let copy := if isMx (abWfmt raw) then abCopyExtents raw
    else if abCopies raw then
      let b := fmtBits (abWfmt raw) / 8
      (liveElems raw (s.groupOf p raw) d.latched.mask).map fun i =>
        (abW raw + i / abCols raw * abWstride raw + i % abCols raw * b, b, true)
    else []
  match abOp raw with
  | 0 | 1 => [(abRec raw, 64, true)]
  | 2 => if d.latched.skip then [] else at_ (abP raw) ++ at_ (abM1 raw) ++ at_ (abM2 raw) ++ copy ++ [(abRec raw + 64, 64, true)]
  | _ => [(abRec raw + 32, 8, true)]

/-- What it writes, as DPA ranges. -/
def abOutputs (s : State) (o : Origin) (d : Desc) : List (Nat × Nat) := s.dpaRanges (s.originPart o) (s.abWrites (s.originPart o) d)

/-- KIND of a failed check of Abacus (R277): 0 a lane's residue, 1 parity, 2 the norm adder, which only NORM uses. -/
def abcKind (op : Nat) : Upset → Option Nat
  | .check => some 0
  | .parity => some 1
  | .adder => if op = 0 then some 2 else none
  | _ => none

/-- ABC_CHECK_LOG takes the first ABC_CHECK since CLEAR (R277). -/
def State.abcLog (s : State) (raw kind : Nat) : State :=
  let r := dRegion raw
  if s.flag (ABC_CHECK_LOG_VALID r) then s
  else s.fsets [(ABC_CHECK_LOG_VALID r, 1), (ABC_CHECK_LOG_KIND r, kind), (ABC_CHECK_LOG_GROUP r, abGroup raw), (ABC_CHECK_LOG_TAG r, dTag raw)]

/-- ABC_CHECK_LOG of a region as a word. -/
def State.abcWord (s : State) (r : Nat) : Nat :=
  s.fget (ABC_CHECK_LOG_VALID r) * 2 ^ 63 + s.fget (ABC_CHECK_LOG_KIND r) * 2 ^ 61 + s.fget (ABC_CHECK_LOG_GROUP r) * 2 ^ 48 +
    s.fget (ABC_CHECK_LOG_TAG r)

/-! ## Snapshot holds (R294) -/

/-- A field of chunk `i` in a snapshot's list: byte `o` of its entry, `w` bits. -/
def chunkField (list i o w : Nat) : Nat := bits list (8 * (32 * i + o)) w

/-- NCHUNK of a snapshot descriptor (R291). -/
def snChunks (raw : Nat) : Nat := dfield raw 48 0 13

/-- The chunks still held: those that have not left, once the hold is placed (R293, R294). -/
def Snap.held (x : Snap) : List Nat := if x.streaming then (List.range (snChunks x.raw)).filter fun i => !x.left.contains i else []

/-- The first held chunk that a set of ranges meets. -/
def State.heldChunk (s : State) (p : Nat) (ranges : List (Nat × Nat)) : Option Nat :=
  match (s.part p).snap with
  | none => none
  | some x => x.held.find? fun i =>
      let mine := s.dpaRange p (chunkField x.list i 0 64) (chunkField x.list i 8 32)
      mine.any fun a => ranges.any fun b => decide (a.1 < b.1 + b.2) && decide (b.1 < a.1 + a.2)

/-- A chunk that an Abacus write waits for is sent next: it is pulled (R294). -/
def State.pullChunk (s : State) (p i : Nat) : State :=
  let pull := fun (x : Snap) => if x.pulled.contains i then x else { x with pulled := x.pulled ++ [i], pulls := x.pulls + 1 }
  s.updPart p fun q => { q with snap := q.snap.map pull }

/-! ## NORM and FINALISE (R265, R266) -/

/-- The record of R265 after a merge of a sum, a count and a flag (R178). -/
def normMerge (old sum n : Nat) (nf : Bool) : Nat :=
  min (bits old 0 320 + sum) (2 ^ 320 - 1) + min (bits old 320 64 + n) (2 ^ 64 - 1) * 2 ^ 320 +
    (1 + b2n (nf || bit old 385) * 2) * 2 ^ 384 + min (bits old 416 32 + 1) (2 ^ 32 - 1) * 2 ^ 416

/-- A finite magnitude in units of 2^−149. -/
def units149 (x : Nat) : Nat :=
  match val32 x with
  | .fin _ m e => m * 2 ^ (e + 149).toNat
  | _ => 0

/-- Element `i` of a packed array of gradients, widened and unscaled (R265). -/
def State.gradient (s : State) (p raw exp i : Nat) : Nat :=
  let w := fmtBits (abGfmt raw) / 8
  fmul32 (widen32 (abGfmt raw) (s.vloadNat p (abG raw + i * w) w) 0) (unscaleOf exp)

/-- NORM's work (R265). -/
def State.normWork (s : State) (p id raw : Nat) (x : Latched) : State :=
  let es := liveElems raw (s.groupOf p raw) x.mask
  let y := es.foldl
    (fun (y : Nat × Bool) i =>
      let g := s.gradient p raw x.exp i
      let q := fmul32 g g
      if isFin32 g && isFin32 q then (y.1 + units149 q, y.2) else (y.1, true))
    (0, false)
  s.vstore p (abRec raw) (natLe 64 (normMerge (s.vloadNat p (abRec raw) 64) y.1 es.length y.2)) (.desc p id)

/-- The payload of FINALISE (R266) from a norm record and a health record. -/
def finalPayload (norm health : Nat) : Nat :=
  let n2 := (Val.fin false (bits norm 0 320) (-149)).to32
  n2 + b2n (bit norm 385 || n2 == inf32 false || bit health 353) * 2 ^ 64

/-- FINALISE's work (R266). -/
def State.finalWork (s : State) (p id raw : Nat) : State :=
  let h := if abG raw = 0 then 0 else s.vloadNat p (abG raw) 64
  s.vstore p (abRec raw) (natLe 64 (finalPayload (s.vloadNat p (abP raw) 64) h)) (.desc p id)

/-! ## APPLY (R267 to R270, R273 to R275) -/

/-- The sign function of R269. -/
def fsign32 (x : Nat) : Nat := if isNan32 x then nan32 else if isZero32 x then 0 else if isNeg32 x then 0xBF800000 else fpOne

/-- What one element becomes: pn, m1n, m2n (R269). -/
def applyRule (g lr r1 r2 k p grad m1 m2 : Nat) : Nat × Nat × Nat :=
  let x := fmul32 grad k
  let first := ffma32 (grA1 g) m1 (fmul32 (grB1 g) x)
  let y : Nat × Nat × Nat := match grDenom g with
    | 0 =>
      let b := ffma32 (grA2 g) m2 (fmul32 (grB2 g) (fmul32 x x))
      (fdiv32 (fmul32 first r1) (fadd32 (fsqrt32 (fmul32 b r2)) (grEps g)), first, b)
    | 3 =>
      let b := fmax32 (fmul32 (grA2 g) m2) (fmul32 (grB2 g) (fabs32 x))
      (fdiv32 (fmul32 first r1) (fadd32 b (grEps g)), first, b)
    | 2 => (fmul32 first r1, first, 0)
    | _ => (fsign32 first, ffma32 (grA2 g) m1 (fmul32 (grB2 g) x), 0)
  let q := ffma32 (grWd g) p y.1
  (ffma32 (fneg32 lr) q p, y.2.1, y.2.2)

/-- The clip factor k of R269. -/
def clipFactor (g gnorm2 : Nat) : Nat :=
  let gn := fsqrt32 gnorm2
  if (val32 0).lt (val32 (grClip g)) && (val32 (grClip g)).lt (val32 gn) then fdiv32 (grClip g) gn else fpOne

/-- An FP32 value is written with a NaN made canonical (R165). -/
def State.word32 (s : State) (p a : Nat) : Nat := s.vloadNat p a 4

/-- FP32 values written from a virtual address. -/
def State.putWords (s : State) (p a : Nat) (l : List Nat) (owner : Owner) : State := s.vstore p a (packBytes 32 l) owner

/-- The fingerprint key of a step (R273). -/
def fpKey (seed step : Nat) : Nat :=
  let x := philoxF 10 (xorN (bits seed 0 32) (bits step 0 32)) (xorN (bits seed 32 32) (bits step 32 16)) (0xFFFFFFFE, 0xFFFFFFFE, 0xFFFFFFFE, 0x00200000)
  let h := x.1 + x.2.1 * 2 ^ 32 + x.2.2.1 * 2 ^ 64 + x.2.2.2 * 2 ^ 96
  if h = 0 then 1 else h

/-- The fingerprint of the words of a range (R274): `word i` is the word of group index `i`, 0 outside the range. -/
def fingerprint (h group e0 n : Nat) (word : Nat → Nat) : Nat :=
  let j0 := e0 / 4
  let js := List.range ((e0 + n + 3) / 4 - j0)
  (js.foldl
    (fun (x : Nat × Nat) j =>
      let b := 4 * (j0 + j)
      let m := word b + word (b + 1) * 2 ^ 32 + word (b + 2) * 2 ^ 64 + word (b + 3) * 2 ^ 96
      (xorN x.1 (gf128Mul m x.2), gf128Mul x.2 h))
    (0, gf128PowF 64 h (group * 2 ^ 38 + j0 + 1))).1

/-- The fingerprint record after a merge (R275). -/
def fpMerge (old fp step n nonfin : Nat) : Nat :=
  let had := bit old 352
  let mixed := bit old 353 || (had && bits old 128 48 != step)
  xorN (bits old 0 128) fp + (if had then bits old 128 48 else step) * 2 ^ 128 + (bits old 192 64 + n) % 2 ^ 64 * 2 ^ 192 +
    (bits old 256 64 + nonfin) % 2 ^ 64 * 2 ^ 256 + min (bits old 320 32 + 1) (2 ^ 32 - 1) * 2 ^ 320 + (1 + b2n mixed * 2) * 2 ^ 352

/-- The working copy of the parameters `pn` (R270). In an MX format whole blocks of 32 rows of a column are written; else the elements
that are not frozen. -/
def State.workingCopy (s : State) (p id raw : Nat) (pn : Array Nat) (frozen : Nat → Bool) : State :=
  let f := abWfmt raw
  let b := fmtBits f
  let c := abCols raw
  let owner := Owner.desc p id
  if isMx f then
    s.each (List.range (abRows raw / 32)) fun s k =>
      let rows := (List.range 32).map fun i => (List.range c).map fun j => pn.getD ((32 * k + i) * c + j) 0
      let y := mxCols f rows
      let s := y.1.zipIdx.foldl (fun s (sc, m) => s.vstore p (abWs raw + (k + m) * abWsStride raw) (packBytes 8 sc) owner) s
      y.2.1.zipIdx.foldl (fun s (row, i) => s.vstore p (abW raw + (32 * k + i) * abWstride raw) (packBytes b row) owner) s
  else
    s.each (List.range (abRows raw)) fun s i =>
      let cols := (List.range (min c (abN raw - i * c))).filter fun j => !frozen (i * c + j)
      s.each cols fun s j =>
        s.vstore p (abW raw + i * abWstride raw + j * b / 8) (natLe (b / 8) (narrowPlain f 0 (pn.getD (i * c + j) 0) 0).1) owner

/-- The live elements of an APPLY, run by run, with what they become: pn, m1n, m2n (R269). -/
def State.applyOuts (s : State) (p raw : Nat) (la : Latched) : List (Nat × List (Nat × Nat × Nat)) :=
  let g := s.groupOf p raw
  let st := abStep raw
  let lr := schedLr g st
  let r1 := schedR1 g st
  let r2 := schedR2 g st
  let m := grMoments g
  let k := clipFactor g la.gnorm2
  (liveRuns raw g la.mask).map fun x => (x.1, (List.range x.2).map fun j =>
    let i := x.1 + j
    applyRule g lr r1 r2 k (s.word32 p (abP raw + 4 * i)) (s.gradient p raw la.exp i) (if 1 ≤ m then s.word32 p (abM1 raw + 4 * i) else 0)
      (if m = 2 then s.word32 p (abM2 raw + 4 * i) else 0))

/-- The parameters of the range after an APPLY, frozen ones as they were. -/
def State.newParams (s : State) (p raw : Nat) (outs : List (Nat × List (Nat × Nat × Nat))) : Array Nat :=
  let old := ((List.range (abN raw)).map fun i => s.word32 p (abP raw + 4 * i)).toArray
  outs.foldl (fun (a : Array Nat) x => x.2.zipIdx.foldl (fun (a : Array Nat) (y, j) => a.set! (x.1 + j) y.1) a) old

/-- APPLY's work on a step that is not skipped (R269, R270, R274, R275). -/
def State.applyWork (s : State) (p id raw : Nat) (la : Latched) : State :=
  let st := abStep raw
  let m := grMoments (s.groupOf p raw)
  let n := abN raw
  let owner := Owner.desc p id
  let outs := s.applyOuts p raw la
  let pn := s.newParams p raw outs
  let bad := outs.foldl (fun c x => x.2.foldl (fun c y =>
    c + b2n (!isFin32 y.1) + b2n (decide (1 ≤ m) && !isFin32 y.2.1) + b2n (m == 2 && !isFin32 y.2.2)) c) 0
  let live := fun i => outs.any fun x => decide (x.1 ≤ i) && decide (i < x.1 + x.2.length)
  let s := s.each outs fun s x => s.putWords p (abP raw + 4 * x.1) (x.2.map (·.1)) owner
  let s := if 1 ≤ m then s.each outs fun s x => s.putWords p (abM1 raw + 4 * x.1) (x.2.map (·.2.1)) owner else s
  let s := if m = 2 then s.each outs fun s x => s.putWords p (abM2 raw + 4 * x.1) (x.2.map (·.2.2)) owner else s
  let s := if abCopies raw then s.workingCopy p id raw pn (fun i => !live i) else s
  let word := fun i => if abE0 raw ≤ i ∧ i < abE0 raw + n then pn.getD (i - abE0 raw) 0 else 0
  let fp := fingerprint (fpKey (s.seedOf p) st) (abGroup raw) (abE0 raw) n word
  s.vstore p (abRec raw + 64) (natLe 64 (fpMerge (s.vloadNat p (abRec raw + 64) 64) fp st n bad)) owner

/-- The working-copy element of element `i` (R270): its pattern. -/
def copyElem (raw : Nat) (pn : Array Nat) (i : Nat) : Nat :=
  let f := abWfmt raw
  let c := abCols raw
  if isMx f then
    let k := i / c / 32
    let rows := (List.range 32).map fun r => (List.range c).map fun j => pn.getD ((32 * k + r) * c + j) 0
    ((mxCols f rows).2.1.getD (i / c % 32) []).getD (i % c) 0
  else (narrowPlain f 0 (pn.getD i 0) 0).1

/-- A chunk of 2,048 elements of an APPLY as it is sampled (R300): step state, k, gradients, parameters and moments read; pn, m1n, m2n and
working-copy elements written, by ascending group index (R301). -/
def State.chunkMirror (s : State) (p raw chunk : Nat) (la : Latched) : Mirror :=
  let g := s.groupOf p raw
  let st := abStep raw
  let m := grMoments g
  let run := s.applyOuts p raw la
  let pn := s.newParams p raw run
  let mine := (run.flatMap fun x => x.2.zipIdx.map fun (y, j) => (x.1 + j, y)).filter fun x => (abE0 raw + x.1) / 2048 == chunk
  let word := fun (a i : Nat) => natLe 4 (s.word32 p (a + 4 * i))
  let outs := mine.flatMap fun x =>
    natLe 4 x.2.1 ++ (if 1 ≤ m then natLe 4 x.2.2.1 else []) ++ (if m = 2 then natLe 4 x.2.2.2 else []) ++
      if abCopies raw then natLe (ceilDiv (fmtBits (abWfmt raw)) 8) (copyElem raw pn x.1) else []
  ⟨[schedLr g st, schedR1 g st, schedR2 g st, clipFactor g la.gnorm2].flatMap (natLe 4) ++
      mine.flatMap fun x => natLe 4 (s.gradient p raw la.exp x.1) ++ word (abP raw) x.1 ++ (if 1 ≤ m then word (abM1 raw) x.1 else []) ++
        if m = 2 then word (abM2 raw) x.1 else [],
    outs, crc64 outs⟩

/-! ## STEP_END (R272) -/

/-- The loss scale after a step: CLEAN and EXP (R272). -/
def State.nextLoss (s : State) (r : Nat) (skip : Bool) : Nat × Int :=
  let e := sext 8 (s.fget (ABC_LOSS_EXP r))
  if skip then (0, if s.flag (ABC_LOSS_BACKOFF r) ∧ sext 8 (s.fget (ABC_LOSS_MIN_EXP r)) < e then e - 1 else e)
  else
    let c := min (s.fget (ABC_LOSS_CLEAN r) + 1) 0xFFFF
    let gi := s.fget (ABC_LOSS_GROWTH_INT r)
    if gi ≠ 0 ∧ gi ≤ c then (0, if e < sext 8 (s.fget (ABC_LOSS_MAX_EXP r)) then e + 1 else e) else (c, e)

/-- STEP_END's work (R272): the step state of the next step is staged with the new EXP. -/
def State.stepEndWork (s : State) (p id raw : Nat) : State :=
  let r := s.lead p
  let skip := s.vloadNat p (abRec raw + 8) 8 != 0
  let x := s.nextLoss r skip
  let s := s.fset (ABC_LOSS_CLEAN r) x.1
  let s := s.updPart p fun q => { q with abc := { q.abc with staged := some ((abStep raw + 1) % 2 ^ 48, toTwos 8 x.2) } }
  let s := s.vstore p (abRec raw + 32) (natLe 8 ((x.2 + 127).toNat * 2 ^ 23 + b2n skip * 2 ^ 32)) (.desc p id)
  let s := s.fset (ABC_STEP_NUMBER r) (abStep raw + 1)
  if skip then
    (s.fadd (ABC_STAT_SKIPS r) 1).record { code := Code.nonfiniteSkip.num, unit := unitRegion r, part := some p, tag := dTag raw, cls := 0x04 }
  else s

/-! ## Running -/

/-- The 2,048-element chunks that a range touches may be sampled (R300). -/
def State.sampleChunks (s : State) (p raw : Nat) (la : Latched) : State :=
  let first := abE0 raw / 2048
  s.each (List.range ((abE0 raw + abN raw + 2047) / 2048 - first)) fun t i =>
    t.sample (dRegion raw) 2 0x3F (dTag raw) true (s.chunkMirror p raw (first + i) la)

/-- An update descriptor runs (R276): in start order, when no snapshot holds what it writes (R294); `u` may be a failed check (R277). -/
def runUpdate (o : Origin) (u : Upset) (s : State) (d : Desc) : Run :=
  let p := s.originPart o
  let raw := d.raw
  if s.behind isUpdate d then .wait s
  else
    match s.heldChunk p (abOutputs s o d) with
    | some i => .wait (s.pullChunk p i)
    | none =>
      match abcKind (abOp raw) u with
      | some k => let t := s.abcLog raw k; .fault t .abcCheck { unit := unitRegion (dRegion raw), log := t.abcWord (dRegion raw) }
      | none =>
        match abOp raw with
        | 0 => .done (s.normWork p d.id raw d.latched) 0
        | 1 => .done (s.finalWork p d.id raw) 0
        | 2 => if d.latched.skip then .done s 1 else .done ((s.sampleChunks p raw d.latched).applyWork p d.id raw d.latched) 0
        | _ => .done (s.stepEndWork p d.id raw) 0

/-- The start command of an operation of the update class. -/
def State.updateCmd (s : State) (op : Nat) (o : Origin) (u : Upset) : State :=
  s.startDesc o (isAbOp op) (fun s d => abInputs s o d) (fun s d => abOutputs s o d) u (runUpdate o u) (startUpdate o)

/-- NORM (R265). -/
def execNorm (o : Origin) (u : Upset) (s : State) : Host.Outcome State Fault Refusal := .next (s.updateCmd 0 o u)
/-- FINALISE (R266). -/
def execFinalise (o : Origin) (u : Upset) (s : State) : Host.Outcome State Fault Refusal := .next (s.updateCmd 1 o u)
/-- APPLY (R269). -/
def execApply (o : Origin) (u : Upset) (s : State) : Host.Outcome State Fault Refusal := .next (s.updateCmd 2 o u)
/-- STEP_END (R272). -/
def execStepEnd (o : Origin) (u : Upset) (s : State) : Host.Outcome State Fault Refusal := .next (s.updateCmd 3 o u)

end Sys2Proof.Machine
end

