-- ==== Sys2Proof/Machine/Staged.lean ====
section
/-! DEFINITION. RWB fields: governing sets (R22), what a stop discards (R20), enables of rings (R78 to R80). -/
namespace Sys2Proof.Machine

/-! ## Ring enables -/

/-- The rings of partition `p` that are not OFF (R35). -/
def State.ringsOn (s : State) (p : Nat) : Nat := ((s.ringsOf p).filter fun n => s.ringState n != 0).length

/-- Is a ring's BASE in the GlaetLink window and aligned to the larger of 4 KiB and the ring's size (R81)? -/
def baseFits (base log2 entry : Nat) : Bool :=
  inGlk (base * 4096) && inGlk (base * 4096 + 2 ^ log2 * entry - 1) && base * 4096 % max 4096 (2 ^ log2 * entry) == 0
where
  /-- A DPA of the GlaetLink window. -/
  inGlk (a : Nat) : Bool := decide (glkBase ≤ a) && decide (a < glkEnd)

/-- Is a ring of `n`'s pair configured as R81 asks? -/
def State.ringConfigured (s : State) (n : Nat) : Bool :=
  let l := s.fget (HUB_RING_SQ_LOG2 n)
  let m := s.fget (HUB_RING_CQ_LOG2 n)
  decide (4 ≤ l) && decide (l ≤ 16) && decide (4 ≤ m) && decide (m ≤ 16) &&
    baseFits (s.fget (HUB_RING_SQ_BASE n)) l 128 && baseFits (s.fget (HUB_RING_CQ_BASE n)) m 32

/-- Is the enable of ring `n` refused (R78)? -/
def State.enableRefused (s : State) (n : Nat) : Bool :=
  let p := s.ringPart n
  decide (64 ≤ s.ringsOn p) || !s.ringConfigured n || s.pstate p == 0 || s.pstate p == 6

/-- The ring is reset for first use and becomes ACTIVE (R79, R80). -/
def State.ringOn (s : State) (n : Nat) : State :=
  (s.updRing n fun _ => .fresh).fsets
    [(HUB_RING_PTRS_HEAD n, 0), (HUB_RING_PTRS_HEAD_PH n, 0), (HUB_RING_PTRS_TAIL n, 0), (HUB_RING_PTRS_TAIL_PH n, 0),
      (HUB_RING_PTRS_CQ_TAIL n, 0), (HUB_RING_PTRS_CQ_PH n, 1), (HUB_RING_CNT0_FETCHED n, 0), (HUB_RING_CNT0_COMPLETED n, 0),
      (HUB_RING_CNT1_ERRORS n, 0), (HUB_RING_CNT1_NOOPS n, 0), (PWR_ERING_VALUE n, 0), (HUB_RING_PTRS_STATE n, 1), (HUB_RING_CTRL_ENABLE n, 1)]

/-- The ring becomes OFF: descriptors in flight are gone with it. -/
def State.ringOff (s : State) (n : Nat) : State :=
  (s.updRing n fun q => { q with inflight := [] }).fsets [(HUB_RING_PTRS_STATE n, 0), (HUB_RING_CTRL_ENABLE n, 0)]

/-- A value of ENABLE takes effect: the table of R80, the refusals of R78. -/
def State.applyEnable (s : State) (n v : Nat) : State :=
  let st := s.ringState n
  if v = 1 then
    if st = 0 then
      if s.enableRefused n then ((s.fset (HUB_RING_STAT_REFUSED n) 1).fset (HUB_RING_CTRL_ENABLE n) 0).noteDiscard (HUB_RING_CTRL n) 1
      else s.ringOn n
    else if st = 1 then s
    else (s.fset (HUB_RING_STAT_REFUSED n) 1).noteDiscard (HUB_RING_CTRL n) 1
  else if st = 1 then ((s.fset (HUB_RING_PTRS_STATE n) 2).fset (HUB_RING_CTRL_ENABLE n) 0).settleRing n
  else if st = 3 then s.ringOff n
  else s

/-- Is a staged value the WEIGHT of a ring's write that R80 discards in full: a 1 in ENABLE while the ring is DRAINING or HALTED? -/
def State.weightDropped (s : State) (key : Nat) : Bool :=
  let a := keyReg key
  let n := (a - 0xF0000001018) / 0x20
  decide (0xF0000001018 ≤ a) && decide (a < 0xF0000003000) && key == (HUB_RING_CTRL_WEIGHT n).key && decide (2 ≤ s.ringState n) &&
    mget? s.staged (HUB_RING_CTRL_ENABLE n).key == some 1

/-- Staged values that partition `p` governs take effect at its boundary (R20, R70); ring enables are judged in ascending ring
number (R80). -/
def State.applyStaged (s : State) (p : Nat) : State :=
  let mine := s.staged.filter fun e => (s.govern (keyReg e.1)).contains p && !s.weightDropped e.1
  let s := { s with staged := s.staged.filter fun e => !(s.govern (keyReg e.1)).contains p }
  s.each mine fun s e =>
    let a := keyReg e.1
    if 0xF0000001018 ≤ a ∧ a < 0xF0000003000 ∧ e.1 % 64 = 0 then s.applyEnable ((a - 0xF0000001018) / 0x20) e.2
    else { s with regs := mset s.regs e.1 e.2 }

end Sys2Proof.Machine
end

