-- ==== Sys2Proof/Machine/Beat.lean ====
section
/-! DEFINITION. The beat: forming a domain (R54, R55), closing a beat (R58 to R66), the stop (R75, R104). BEAT_BOUNDARY itself is
in Boundary.lean. -/
namespace Sys2Proof.Machine

/-! ## Formation -/

/-- The settings of partition `p` that its join symbol carries (R54). -/
def State.ownSettings (s : State) (p : Nat) : Settings :=
  ⟨s.fget (BEAT_DOMAIN_MEMBERS p), s.period p, s.fget (BEAT_GUARD_US p), s.fget (BEAT_CTRL_STRETCH_LIM p), s.flag (BEAT_CTRL_STRICT p)⟩

/-- The join symbol of partition `p` (R54). -/
def State.ownJoin (s : State) (p : Nat) (testing : Bool) : JoinMsg :=
  ⟨none, s.fget (BEAT_DOMAIN_ID p), s.node, Fin.ofNat 4 p, s.flag (BEAT_CTRL_ELIGIBLE p), testing,
    s.fget (BEAT_START_NUMBER p), s.ownSettings p, 0, 0⟩

/-- A member's latest join symbol replaces its earlier one; the port of its first one is kept (R362). -/
def addJoin (l : List JoinMsg) (m : JoinMsg) : List JoinMsg :=
  match l.find? fun x => x.node == m.node && x.part == m.part with
  | some x => l.map fun y => if y.node = m.node ∧ y.part = m.part then { m with port := x.port } else y
  | none => l ++ [m]

/-- Formation fails at partition `p`, which withdraws if it has joined (R54, R55). -/
def State.formFail (s : State) (p reason : Nat) : State :=
  let id := if s.fget (BEAT_STATE_STATE p) = 1 then s.domId p else none
  (s.formFailOne p reason).sendWithdraw id p

/-- Formation succeeds (R54): the master is known, the statistics are cleared; the master announces the first beat. -/
def State.formed (s : State) (p : Nat) (m : JoinMsg) : State :=
  let own := m.node = s.node ∧ m.part.val = p
  let s := s.fsets [(BEAT_DOMAIN_MASTER_NODE p, m.node), (BEAT_DOMAIN_MASTER_PART p, m.part.val), (BEAT_STATE_MASTER p, if own then 1 else 0),
    (BEAT_STATS_STRETCHES p, 0), (BEAT_STATS_OWN_LATE p, 0)]
  let s := s.updDom p fun d => { d with formed := true }
  if own then s.floodDom p none fun d => .announce d ⟨m.node, m.part, m.start, 0⟩ else s

/-- Formation is judged when the members are complete: all counted, none testing (R54); too many joined fails it at once (R55). Every
member judges the joins it has counted, the master alone the path delays (DEDUCED, log entry 73). -/
def State.judgeForm (s : State) (p : Nat) : State :=
  let l := (s.part p).dom.joined
  match masterOf l with
  | none => if s.fget (BEAT_DOMAIN_MEMBERS p) ≤ l.length ∧ l.all (fun j => !j.testing) then s.formFail p 6 else s
  | some m =>
    if m.settings.members < l.length then s.formFail p ((formCause l true (s.isMaster p)).getD 4)
    else if l.length = m.settings.members ∧ l.all (fun j => !j.testing) then
      match formCause l true (s.isMaster p) with
      | some c => s.formFail p c
      | none => s.formed p m
    else s

/-- Does partition `p` form with domain ID `id`? -/
def State.formsWith (s : State) (p id : Nat) : Bool := s.forming p && s.domId p == some id

/-- The join symbol that partition `p` last sent. -/
def State.sentJoin (s : State) (p : Nat) : Option JoinMsg :=
  (s.part p).dom.joined.find? fun j => j.node == s.node && j.part.val == p

/-- A member that forms with the domain of join `m` counts it (R54). It answers a join of a member that is new to it with its own join symbol,
so that members that START later learn of it (log entry 73). -/
def State.countJoin (s : State) (m : JoinMsg) (p : Nat) : State :=
  if s.formsWith p m.domain && !(m.node == s.node && m.part.val == p) then
    let new := !((s.part p).dom.joined.any fun j => j.node == m.node && j.part == m.part)
    let s := match s.sentJoin p with
      | some j => if new then s.flood none (.join j) else s
      | none => s
    (s.updDom p fun d => { d with joined := addJoin d.joined m }).judgeForm p
  else s

/-- Partition `p` joins: its join symbol goes out and counts, here and in the local members that form with its ID, whose joins it counts
(R54); with JOIN at 0 it is a domain of one, its own master. -/
def State.join (s : State) (p : Nat) (testing : Bool) : State :=
  let s := s.fset (BEAT_STATE_STATE p) 1
  if s.flag (BEAT_CTRL_JOIN p) then
    let m := s.ownJoin p testing
    let near := (allParts.filter fun q => q != p && s.formsWith q m.domain).filterMap s.sentJoin
    let s := (s.flood none (.join m)).updDom p fun d =>
      { d with id := some m.domain, joined := addJoin (near.foldl addJoin d.joined) m }
    (s.judgeForm p).each (allParts.filter (· != p)) fun s q => s.countJoin m q
  else
    let m := { s.ownJoin p testing with eligible := true, settings := { s.ownSettings p with members := 1 } }
    (s.updDom p fun d => { d with id := none, joined := [m] }).judgeForm p

/-- JOIN: a join symbol arrives. Members forming with its domain count it; it is passed on (R54), once while a local member that still forms
holds it unchanged. -/
def joinSym (m : JoinMsg) (s : State) : State :=
  let known := allParts.any fun p => s.formsWith p m.domain && (s.part p).dom.joined.contains
    { m with port := ((s.part p).dom.joined.find? fun x => x.node == m.node && x.part == m.part).bind (·.port) }
  let s := if known then s else s.flood (m.port.map (·.val)) (.join m)
  s.each allParts fun s p => s.countJoin m p

/-- JOIN (R54). -/
def execJoin (m : JoinMsg) (s : State) : Host.Outcome State Fault Refusal := .next (joinSym m s)

/-- WITHDRAW: a joined member withdraws, and formation fails (R55); the symbol is passed on. -/
def withdraw (domain node part : Nat) (s : State) : State :=
  (s.flood none (.withdraw domain node part)).withdrawLocal domain node part

/-- WITHDRAW (R55). -/
def execWithdraw (domain node : Nat) (part : Fin 4) (s : State) : Host.Outcome State Fault Refusal := .next (withdraw domain node part s)

/-- FORMATION_TIMEOUT: 1 s of time in which no joined member tests has passed since the first join (R55). -/
def formationTimeout (p : Nat) (s : State) : State :=
  if s.forming p && (s.part p).dom.joined.all fun j => !j.testing then
    match formCause (s.part p).dom.joined true (s.isMaster p) with
    | some c => s.formFail p c
    | none => s
  else s

/-- FORMATION_TIMEOUT (R55). -/
def execFormationTimeout (p : Fin 4) (s : State) : Host.Outcome State Fault Refusal := .next (formationTimeout p s)

/-! ## BEAT_IN -/

/-- Does partition `p` take its nominal boundaries from BEAT_IN: master of a running domain with SOURCE 1 (R57)? -/
def State.usesBeatIn (s : State) (p : Nat) : Bool :=
  s.running p && s.isMaster p && s.fget (BEAT_CTRL_SOURCE p) == 1

/-- BEAT_IN_EDGE: the edge gives the nominal boundary of the beat (R57). -/
def execBeatInEdge (p : Fin 4) (s : State) : Host.Outcome State Fault Refusal :=
  .next (if s.usesBeatIn p then s.updDom p fun d => { d with beatIn := 1 } else s)

/-- BEAT_IN_MISS: an edge missing or late: the master falls back to its timer for the beat, and a note is written (R57). -/
def execBeatInMiss (p : Fin 4) (s : State) : Host.Outcome State Fault Refusal :=
  .next (if s.usesBeatIn p then (s.updDom p fun d => { d with beatIn := 0 }).noteHub 5 0 0 else s)

/-! ## Closing a beat -/

/-- Pending entries of ring `n`: (pos(TAIL) − pos(HEAD)) mod 2S ("Submission rings and doorbells"). -/
def State.ringPending (s : State) (n : Nat) : Nat :=
  let z := s.sqSize n
  let t := s.fget (HUB_RING_PTRS_TAIL_PH n) * z + s.fget (HUB_RING_PTRS_TAIL n)
  let h := s.fget (HUB_RING_PTRS_HEAD_PH n) * z + s.fget (HUB_RING_PTRS_HEAD n)
  (t + 2 * z - h) % (2 * z)

/-- Does ring `n` let beat `b` close (R58): it fetches nothing, is empty, or has reached a descriptor of a later beat? -/
def State.ringLets (s : State) (n b : Nat) : Bool :=
  s.ringState n != 1 || s.fget (HUB_RING_CTRL_WEIGHT n) == 0 || s.ringPending n == 0 ||
    match (s.ring n).pausedAt with
    | some m => decide (b < m)
    | none => false

/-- The effective beats of the entries that wait in CQ, in order, as their validation would find them at beat `c` (R90, R120); `prev` is that of
the descriptor before them. -/
def waitingEffs (c : Nat) : Option Nat → List (Nat × Nat) → List Nat
  | _, [] => []
  | prev, e :: t =>
    let m := if dBeat e.2 = 0 then max c (prev.getD 0) else dBeat e.2
    m :: waitingEffs c (some m) t

/-- May partition `p` close its beat (R58): nothing fetched or launched for it is unfinished, every sample of an
earlier beat has been compared (R304), and every ring lets it? -/
def State.closable (s : State) (p : Nat) : Bool :=
  let b := s.beat p
  ((s.flightOf p).all fun d => decide (b < d.eff)) && ((s.regions p).all fun r => (s.region r).dups.all fun x => decide (b ≤ x.beat)) &&
    ((s.slotsOf p).all fun rk => (waitingEffs b (s.slot rk.1 rk.2).prevEff (s.slot rk.1 rk.2).cq).all fun m => decide (b < m)) &&
    (s.ringsOf p).all fun n => s.ringLets n b


/-- Two tokens merge: the greatest lateness, then the lowest node, then the lowest partition (R59). -/
def mergeToken (a b : Token) : Token :=
  if a.lateNs < b.lateNs then b
  else if b.lateNs < a.lateNs then a
  else if b.node < a.node ∨ (b.node = a.node ∧ b.part < a.part) then b else a

/-- A stretch: lateness rounded up to whole microseconds (R61). -/
def stretchUs (lateNs : Nat) : Nat := ceilDiv lateNs 1000

/-- A member's copy of the merged token in BEAT_LATE, and its statistics (R66). -/
def State.noteLate (s : State) (p : Nat) (b : BoundaryMsg) : State :=
  let s := s.fsets [(BEAT_LATE_NODE p, b.tok.node), (BEAT_LATE_PART p, b.tok.part), (BEAT_LATE_CAUSE p, b.tok.cause),
    (BEAT_LATE_LATE_US p, b.stretchUs), (BEAT_LATE_BEAT_LO p, (b.number - 1) % 65536)]
  let s := if (s.part p).dom.ownLate = 0 then s else s.fadd (BEAT_STATS_OWN_LATE p) 1
  if b.stretchUs = 0 then s else s.fadd (BEAT_STATS_STRETCHES p) 1

/-- Has the run of partition `p` received the boundary symbols that end beats CAND and CAND + 1 (R322)? -/
def State.sealable (s : State) (p : Nat) : Bool :=
  let c := s.fget (HUB_SEAL_CAND p)
  let q := s.part p
  decide (c ≠ 0) && decide (q.runFirst ≠ 0) && decide (q.runFirst ≤ c) && decide (c + 1 ≤ q.endedBeat) && !q.sealDead

/-- SEALED becomes 1 once the candidate can be sealed, and the note marble drops (R322). -/
def State.trySeal (s : State) (p : Nat) : State :=
  if s.flag (HUB_SEAL_SEALED p) || !s.sealable p then s
  else
    let s := s.fset (HUB_SEAL_SEALED p) 1
    if s.flag (HUB_SEAL_NOTE_EN p) then s.dropOr p (s.fget (HUB_SEAL_NOTE_JAR p)) 1 { unit := unitHub } else s

/-- The boundary symbol that ends beat `b` has arrived (R322). -/
def State.sealSees (s : State) (p b : Nat) : State := (s.updPart p fun q => { q with endedBeat := b }).trySeal p

/-- The boundary symbol reaches partition `p`: BEAT_LATE and BEAT_STATS update, the countdown starts, the stop beat is taken over,
the seal judged (R56, R66, R75, R322). In a partition that has already stopped after its stop beat the domain ends; one that has faulted
waits for the stall symbol. -/
def State.takeBoundary (s : State) (p : Nat) (b : BoundaryMsg) : State :=
  if s.pstate p = 5 then s
  else
    let s := (s.noteLate p b).sealSees p (b.number - 1)
    if s.running p then s.updDom p fun d => { d with boundary := some b, stopAt := if b.stop = 0 then d.stopAt else b.stop }
    else s.updDom p fun _ => .idle

/-- No origin: the stop came from no fault token. -/
def noOrigin : FaultOrigin := ⟨0xFFFF, 0, 0⟩

/-- The greatest beat number (R53). -/
def lastBeat : Nat := 0xFFFFFFFFFFFF

/-- The master, partition `p`, holds every token `at_` ns after D: it sends the boundary symbol of the next beat, with its stop beat and the
countdown to B + S (R56, R61, R75); after the last beat number the domain stalls (R53). -/
def State.masterEnds (s : State) (p : Nat) (t : Token) (at_ : Nat) : State :=
  if s.beat p = lastBeat then s.stallAll p none noOrigin
  else
    let b : BoundaryMsg := ⟨(s.domId p).getD 0, s.beat p + 1, s.fget (BEAT_GUARD_US p) * 1000 + stretchUs t.lateNs * 1000 - at_, t,
      stretchUs t.lateNs, s.fget (BEAT_STOP_AT p)⟩
    let ms := s.mates p
    (s.floodDom p none fun _ => .boundary b).each ms fun s q => s.takeBoundary q b

/-- The members of the domain: 1 for a domain of one. -/
def State.domMembers (s : State) (p : Nat) : Nat := if s.flag (BEAT_CTRL_JOIN p) then s.fget (BEAT_DOMAIN_MEMBERS p) else 1

/-- The members that must have sent their tokens before the device's merged token is complete: all of the domain at the master's device, the
subtree's and the device's own elsewhere (R59). -/
def State.tokensDue (s : State) (p : Nat) : Nat :=
  match s.hosted p with
  | some m => s.domMembers m
  | none => (s.part (s.chief p)).dom.subtree + (s.mates p).length

/-- The merged token of the device for the domain of partition `p`, and the members in it. -/
def State.tokens (s : State) (p : Nat) : Option Token × Nat :=
  let d := (s.part (s.chief p)).dom
  (d.merged, d.got)

/-- A token merged with what the device holds. -/
def State.mergedWith (s : State) (p : Nat) (t : Token) : Token := ((s.tokens p).1.map fun u => mergeToken u t).getD t

/-- A token for `n` members merges with what the device holds, `at_` ns after D; when complete it goes on toward the master, or the master
ends the beat (R59, R61). -/
def State.mergeIn (s : State) (p : Nat) (t : Token) (n at_ : Nat) : State :=
  let c := s.chief p
  let u := s.mergedWith p t
  let got := (s.tokens p).2 + n
  if got < s.tokensDue p then s.updDom c fun d => { d with merged := some u, got := got }
  else
    let s := s.updDom c fun d => { d with merged := none, got := 0 }
    match s.hosted p with
    | some m => s.masterEnds m u at_
    | none => s.sendUp p fun d => .closing d u got

/-- Strict mode: the overrun symbol leaves on each beat port but `not`, and every local member raises BEAT_OVERRUN (R63). -/
def State.overrunAll (s : State) (p : Nat) (not : Option Nat) (t : Token) : State :=
  let ms := s.mates p
  ((s.floodDom p not fun d => .overrun d t).endDom ms).each ms fun s q =>
    s.raise q .beatOverrun { unit := unitHub, log := t.node + t.part * 65536 }

/-- CLOSE_DEADLINE: the instant D (R58). In strict mode a member that has not closed and cannot close at D sends an overrun token
naming its leading cause; the master answers its own at once (R63). -/
def closeDeadline (p : Nat) (stalls : List Nat) (s : State) : State :=
  if s.running p = false ∨ (s.part p).dom.deadline then s
  else
    let late := s.flag (BEAT_CTRL_STRICT p) && !s.closable p
    let s := s.updDom p fun d => { d with deadline := true }
    if late then
      let t : Token := ⟨s.node, p, 0, causeOf 1 (s.stallsWith p stalls)⟩
      if (s.hosted p).isSome then s.overrunAll p none t else s.sendUp p fun d => .overrunToken d t
    else s

/-- CLOSE_DEADLINE (R58). -/
def execCloseDeadline (p : Fin 4) (stalls : List Nat) (s : State) : Host.Outcome State Fault Refusal := .next (closeDeadline p stalls s)

/-! ## The stop -/

/-- A ring's HEAD is rewound to its oldest held descriptor; the rewound ones count as not fetched (R104). -/
def State.rewindRing (s : State) (n : Nat) : State :=
  let l := (s.ring n).inflight
  match l with
  | [] => s.updRing n fun q => { q with pausedAt := none }
  | d :: _ =>
    let z := s.sqSize n
    let pos := (s.fget (HUB_RING_PTRS_HEAD_PH n) * z + s.fget (HUB_RING_PTRS_HEAD n) + 2 * z - l.length) % (2 * z)
    (s.updRing n fun q => { q with inflight := [], pausedAt := none }).fsets
      [(HUB_RING_PTRS_HEAD n, d.sq), (HUB_RING_PTRS_HEAD_PH n, pos / z), (HUB_RING_CNT0_FETCHED n, s.fget (HUB_RING_CNT0_FETCHED n) - l.length)]

/-- A running control core freezes at an instruction boundary; its wait is abandoned and its PC kept (R122). -/
def State.freezeCore (s : State) (r k : Nat) : State :=
  if s.fget (CORE_CC_STAT_STATE r k) = 1 then s.fsets [(CORE_CC_STAT_STATE r k, 2), (CORE_CC_STAT_WAIT r k, 0)] else s

/-- Is the waiter a descriptor? -/
def Waiter.isDesc : Waiter → Bool
  | .desc _ _ => true
  | .core _ _ => false

/-- The takes of control cores leave the jars (R122). -/
def Jar.dropCoreTakes (j : Jar) : Jar :=
  { j with takes := j.takes.filter fun t => t.1.isDesc }

/-- A staged step state takes effect (R256): its EXP and its tag. -/
def State.takeStep (s : State) (p : Nat) : State :=
  match (s.part p).abc.staged with
  | none => s
  | some (n, e) =>
    (s.fsets [(ABC_SCHED_TAG (s.lead p), n), (ABC_LOSS_EXP (s.lead p), e)]).updPart p fun q => { q with abc := { q.abc with staged := none } }

/-- Does a streaming snapshot keep the partition in the stopping state (R296)? -/
def State.snapStreams (s : State) (p : Nat) : Bool :=
  match (s.part p).snap with
  | some x => x.streaming
  | none => false

/-- The partition stops after its stop beat (R104): rings are rewound, control cores freeze, staged values go, the domain is left; a
snapshot that waits for its beat goes with its descriptor. DEDUCED, log entry 83: a DRAINING ring with nothing left in flight turns OFF; launched
descriptors and held drops stay. -/
def State.stopPart (s : State) (p : Nat) : State :=
  let s := (s.noteHeld p).updPart p fun q => { q with snap := none }
  let s := s.each (s.ringsOf p) fun s n => if s.ringState n = 0 then s else s.rewindRing n
  let s := s.each (s.slotsOf p) fun s rk => s.freezeCore rk.1 rk.2
  let s := s.updPart p fun q => { q with jars := q.jars.map (fun e => (e.1, e.2.dropCoreTakes)), heldOps := q.heldOps.filter HeldOp.isDrop }
  let s := s.each (s.regions p) fun s r => s.updRegion r fun q => { q with dups := [] }
  let s := s.takeStep p
  let s := s.fsets [(HUB_PART_CTRL_STATE p, 1), (BEAT_STATE_STATE p, 0), (BEAT_STATE_MASTER p, 0), (BEAT_DOMAIN_MASTER_NODE p, 0xFFFF),
    (BEAT_DOMAIN_MASTER_PART p, 0)]
  let s := s.each ((s.ringsOf p).filter fun n => s.ringState n == 2) fun s n => s.settleRing n
  let s := ((s.dropStaged p).dropBooks p).injDrop p
  s.each (s.regions p) State.settleVolts

/-- BEAT_STOP: a write of the last beat to run, on the master and at least two beats ahead; otherwise discarded (R75). -/
def beatStop (p at_ : Nat) (s : State) : State :=
  if s.running p ∧ s.isMaster p ∧ s.beat p + 2 ≤ at_ ∧ at_ ≤ lastBeat then s.fset (BEAT_STOP_AT p) at_
  else s.noteDiscard (BEAT_STOP p) at_

/-- BEAT_STOP (R75). -/
def execBeatStop (p : Fin 4) (at_ : Nat) (s : State) : Host.Outcome State Fault Refusal := .next (beatStop p at_ s)

/-! ## Tokens and symbols -/

/-- CLOSING_TOKEN: a token for `members` members arrives `atNs` after D and is merged (R59). -/
def execClosingToken (p : Fin 4) (tok : Token) (members atNs : Nat) (s : State) : Host.Outcome State Fault Refusal :=
  .next (if s.inDomain p then s.mergeIn p tok members atNs else s)

/-- OVERRUN_TOKEN: forwarded toward the master; the first at the master makes it send an overrun symbol (R63). -/
def overrunToken (p : Nat) (tok : Token) (s : State) : State :=
  if s.inDomain p = false then s
  else if (s.hosted p).isSome then s.overrunAll p none tok
  else s.sendUp p fun d => .overrunToken d tok

/-- OVERRUN_TOKEN (R63). -/
def execOverrunToken (p : Fin 4) (tok : Token) (s : State) : Host.Outcome State Fault Refusal := .next (overrunToken p tok s)

/-- FAULT_TOKEN: forwarded toward the master, which sends a stall symbol at once with its origin (R65, R422). -/
def faultToken (p : Nat) (org : FaultOrigin) (s : State) : State :=
  if s.inDomain p = false then s
  else if (s.hosted p).isSome then s.stallAll p none org
  else s.sendUp p fun d => .faultToken d org

/-- FAULT_TOKEN (R65). -/
def execFaultToken (p : Fin 4) (org : FaultOrigin) (s : State) : Host.Outcome State Fault Refusal := .next (faultToken p org s)

/-- STRETCH_LIMIT: the master, in a beat that runs on, lacks tokens at D plus the limit (R62). -/
def stretchLimit (p : Nat) (s : State) : State :=
  if s.inDomain p ∧ s.isMaster p ∧ (s.part p).dom.boundary = none ∧ (s.tokens p).2 < s.tokensDue p then s.stallAll p none noOrigin
  else s

/-- STRETCH_LIMIT (R62). -/
def execStretchLimit (p : Fin 4) (s : State) : Host.Outcome State Fault Refusal := .next (stretchLimit p s)

/-- STALL_SYMBOL: passed on, and each local member raises BEAT_STALL with the origin, unless it is the originator (R62, R422). -/
def stallSymbol (p : Nat) (org : FaultOrigin) (s : State) : State :=
  if s.inDomain p = false then s else s.stallAll p (s.parentPort p) org

/-- STALL_SYMBOL (R62). -/
def execStallSymbol (p : Fin 4) (org : FaultOrigin) (s : State) : Host.Outcome State Fault Refusal := .next (stallSymbol p org s)

/-- OVERRUN_SYMBOL: passed on, and each local member raises BEAT_OVERRUN (R63). -/
def overrunSymbol (p : Nat) (tok : Token) (s : State) : State :=
  if s.inDomain p = false then s else s.overrunAll p (s.parentPort p) tok

/-- OVERRUN_SYMBOL (R63). -/
def execOverrunSymbol (p : Fin 4) (tok : Token) (s : State) : Host.Outcome State Fault Refusal := .next (overrunSymbol p tok s)

/-- SYMBOL_TIMEOUT: no symbol within the stretch limit plus the guard after the member's close (R64). -/
def symbolTimeout (p : Nat) (s : State) : State :=
  if s.inDomain p ∧ (s.part p).dom.closed ∧ (s.part p).dom.boundary = none then s.raise p .beatStall { unit := unitHub } else s

/-- SYMBOL_TIMEOUT (R64). -/
def execSymbolTimeout (p : Fin 4) (s : State) : Host.Outcome State Fault Refusal := .next (symbolTimeout p s)

/-- A boundary symbol forwarded on port `q`: its countdown less the delay of the port and of the device's own crossbar (R362). -/
def State.forwarded (s : State) (b : BoundaryMsg) (q : Nat) : BoundaryMsg :=
  { b with countdownNs := b.countdownNs - s.fget (FAB_PORT_DELAY_DELAY_PS q) / 1000 - Config.crossbarNs }

/-- BOUNDARY_SYMBOL: forwarded with its countdown corrected (R362), and taken over by each local member of its domain (R56, R66). -/
def boundarySymbol (p : Nat) (b : BoundaryMsg) (s : State) : State :=
  if s.inDomain p = false ∨ (s.hosted p).isSome ∨ s.domId p ≠ some b.domain ∨ b.number ≠ s.beat p + 1 then s
  else
    let fwd := (s.beatPorts.filter fun q => some q != s.parentPort p).map fun q => Out.sym q (.boundary (s.forwarded b q))
    let ms := s.mates p
    ({ s with out := s.out ++ fwd }).each ms fun s q => s.takeBoundary q b

/-- BOUNDARY_SYMBOL (R56). -/
def execBoundarySymbol (p : Fin 4) (b : BoundaryMsg) (s : State) : Host.Outcome State Fault Refusal := .next (boundarySymbol p b s)

end Sys2Proof.Machine
end

