-- ==== Sys2Proof/Machine/Evr.lean ====
section
/-! DEFINITION. Music Box beyond its records: CLEAR and its flash erase (R441), the mirror (R440), operating seconds (R439). -/
namespace Sys2Proof.Machine

/-- The header of the mirror: MAGIC, EPOCH and the CRC-32 of both (R498). -/
def mirrorHeader (epoch : Nat) : List Byte :=
  let head := natLe 4 0x4D425844 ++ natLe 4 epoch
  head ++ natLe 4 (crc32 head)

/-- The epoch that a header holds, when MAGIC and its CRC match (R498). -/
def headerEpoch (h : List Byte) : Option Nat :=
  if leNat (h.take 4) = 0x4D425844 ∧ leNat ((h.drop 8).take 4) = crc32 (h.take 8) then some (leNat ((h.drop 4).take 4)) else none

/-- EVR_CLEAR: EPOCH advances, the records go, CLEARED is written at index 0, the header takes the new epoch and the erase of the record area
starts (R441). A CLEAR that still reads 1 starts nothing. -/
def evrClear (s : State) : State :=
  if s.flag EVR_CTRL_CLEAR then s
  else
    let next := s.recs.length
    let dropped := s.fget EVR_STAT_DROPPED
    let epoch := (s.fget EVR_STAT_EPOCH + 1) % 2 ^ 32
    let s := s.fsets [(EVR_STAT_EPOCH, epoch), (EVR_STAT_DROPPED, 0), (EVR_CTRL_CLEAR, 1), (EVR_MIRROR_MIRRORED, 0)]
    let s := { s with
      recs := []
      flash := { s.flash with header := mirrorHeader epoch, recs := [] }
      sec := { s.sec with erasing := true } }
    s.noteHub 0xF next dropped

/-- EVR_CLEAR (R441). -/
def execEvrClear (s : State) : Host.Outcome State Fault Refusal := .next (evrClear s)

/-- FLASH_ERASE_END: CLEAR reads 0, and mirroring goes on (R441). -/
def execFlashEraseEnd (s : State) : Host.Outcome State Fault Refusal :=
  .next ({ s with sec := { s.sec with erasing := false } }.fset EVR_CTRL_CLEAR 0)

/-- ERASE_SECTOR_TIMEOUT: a sector's erase has failed; the erase goes on (R441). -/
def execEraseSectorTimeout (s : State) : Host.Outcome State Fault Refusal := .next (if s.sec.erasing then s.fset EVR_MIRROR_FLASH_ERR 1 else s)

/-- RECORD_MIRROR: the next complete record is written to the record area, unless it is being erased; a failure sets FLASH_ERR (R440). -/
def recordMirror (ok : Bool) (s : State) : State :=
  let i := s.fget EVR_MIRROR_MIRRORED
  match s.recs[i]? with
  | some x =>
    if s.sec.erasing then s
    else if ok then { s with flash := { s.flash with recs := mset s.flash.recs i x } }.fset EVR_MIRROR_MIRRORED (i + 1)
    else s.fset EVR_MIRROR_FLASH_ERR 1
  | none => s

/-- RECORD_MIRROR (R440). -/
def execRecordMirror (ok : Bool) (s : State) : Host.Outcome State Fault Refusal := .next (recordMirror ok s)

/-- What the FEC of a fabric lane corrected in the second that passes: its codewords are counted, and more than 2^ERR_LOG2 symbols make the
lane due for recalibration (R363). -/
def State.countFec (s : State) (lane symbols words : Nat) : State :=
  let p := lane / 4
  let s := s.fadd (FAB_PORT_CNT0_FEC_CORR p) words
  if s.fget FAB_RECAL_ERR_LOG2 ≠ 0 ∧ 2 ^ s.fget FAB_RECAL_ERR_LOG2 < symbols then s.updPort p fun q => { q with early := some (lane % 4) } else s

/-- OP_SEC_TICK: a second passes while the hub is powered; the intervals since the regions' rotations grow with it (R311, R363, R439). -/
def opSecTick (fec : List (Fin 72 × Nat × Nat)) (glkFec : Nat) (s : State) : State :=
  let s := s.each [0, 1, 2, 3] fun s r => s.fadd (RGN_TWIN_PHASE_SINCE_S r) 1
  let s := s.each (List.range 12) fun s m => s.updStack m fun k => { k with since := k.since + 1 }
  ((s.fadd EVR_OPSEC_SECONDS 1).fadd GLK_CNT0_FEC_CORR glkFec).each fec fun s x => s.countFec x.1 x.2.1 x.2.2

/-- OP_SEC_TICK (R439). -/
def execOpSecTick (fec : List (Fin 72 × Nat × Nat)) (glkFec : Nat) (s : State) : Host.Outcome State Fault Refusal :=
  .next (if s.sec.resetLow then s else opSecTick fec glkFec s)

/-- OPSEC_STORE: the boot flash takes the count (R439). -/
def execOpsecStore (s : State) : Host.Outcome State Fault Refusal :=
  .next { s with flash := { s.flash with opSec := some (s.fget EVR_OPSEC_SECONDS) } }

end Sys2Proof.Machine
end

