-- ==== Sys2Proof/Machine/Mailbox.lean ====
section
/-! DEFINITION. Mailboxes (R444 to R449). -/
namespace Sys2Proof.Machine

/-- The mailbox channel `c`. -/
def State.chan (s : State) (c : Nat) : Chan := mgetD s.chans c .idle

/-- The state with channel `c` changed by `f`. -/
def State.updChan (s : State) (c : Nat) (f : Chan → Chan) : State := { s with chans := mset s.chans c (f (s.chan c)) }

/-- Endpoint A of a channel (R444). -/
def endA (c : Nat) : Endpoint := if c = 2 then .nutcracker else if 4 ≤ c ∧ c < 8 then .mgmtCore else .companion

/-- Endpoint B of a channel (R444). -/
def endB (c : Nat) : Endpoint :=
  if c = 0 then .nutcracker
  else if c ≤ 2 then .mgmtCore
  else if c < 8 then .opticalEngine (Fin.ofNat 4 c)
  else .controlCore (Fin.ofNat 4 ((c - 64) / 40)) (Fin.ofNat 40 ((c - 64) % 40))

/-- The channel of the control core of a slot (R444). -/
def coreChan (r k : Nat) : Nat := 64 + 40 * r + k

/-- The UNIT of an endpoint, as a stamp (R435, R446). -/
def endpointUnit : Endpoint → Nat
  | .companion => unitFw 0
  | .nutcracker => unitFw 1
  | .mgmtCore => unitFw 2
  | .opticalEngine e => unitEngine e
  | .controlCore r k => unitSlot r k

/-- Is an endpoint in reset (R448)? The companion is while GlaetLink is down; an optical engine also while it is isolated or off. -/
def State.inReset (s : State) (e : Endpoint) : Bool :=
  match e with
  | .companion => !s.glkUp
  | .opticalEngine i => s.epReset.contains e || s.fget (FAB_OE_STATE i) == 3 || s.fget (FAB_OE_STATE i) == 0
  | _ => s.epReset.contains e

/-- The receiver of a direction of a channel. -/
def receiver (c : Nat) : Dir → Endpoint
  | .toA => endA c
  | .toB => endB c

/-- The queue of a direction. -/
def Chan.queue (q : Chan) : Dir → List (Nat × Nat)
  | .toA => q.toA
  | .toB => q.toB

/-- The channel with the queue of a direction replaced. -/
def Chan.setQueue (q : Chan) (d : Dir) (l : List (Nat × Nat)) : Chan :=
  match d with
  | .toA => { q with toA := l }
  | .toB => { q with toB := l }

/-- The interrupt of the companion as sender of channel `c` (R447). -/
def State.mboxIrq (s : State) (c : Nat) (en : Fld) : State :=
  if endA c = .companion ∧ s.flag en then s.glkPut (irqMsg (s.fget (MBX_CFG_VECTOR c)) 1 c) else s

/-- OVF of the sender of a direction is set, with the note MBX_OVF (R445). -/
def State.mboxOvf (s : State) (c : Nat) (d : Dir) : State :=
  let s := match d with
    | .toB => s.fset (MBX_STAT_OVF c) 1
    | .toA => s.updChan c fun q => { q with flagsB := { q.flagsB with ovf := true } }
  s.noteHub 0x00C 0 0

/-- TIMEOUT of the sender of a direction is set, with the note MBX_TIMEOUT and the companion's interrupt (R447, R448). -/
def State.mboxTimeout (s : State) (c : Nat) (d : Dir) : State :=
  let s := match d with
    | .toB => s.fset (MBX_STAT_TIMEOUT c) 1
    | .toA => s.updChan c fun q => { q with flagsB := { q.flagsB with timeout := true } }
  let s := s.noteHub 0x00D 0 0
  match d with
  | .toB => s.mboxIrq c (MBX_CFG_IRQ_TIMEOUT c)
  | .toA => s

/-- EMPTY of the sender of a direction is set, with the companion's interrupt (R447). -/
def State.mboxEmpty (s : State) (c : Nat) (d : Dir) : State :=
  match d with
  | .toB => (s.fset (MBX_STAT_EMPTY c) 1).mboxIrq c (MBX_CFG_IRQ_EMPTY c)
  | .toA => s.updChan c fun q => { q with flagsB := { q.flagsB with empty := true } }

/-- A word is sent (R445, R446, R448): to a receiver in reset it is discarded and counted in LOST, with the sender's TIMEOUT set;
to a full queue it is discarded with OVF; else it is stamped and queued. -/
def State.mboxSend (s : State) (c : Nat) (d : Dir) (word stamp : Nat) : State :=
  if s.inReset (receiver c d) then (s.fadd (MBX_STAT_LOST c) 1).mboxTimeout c d
  else if 16 ≤ ((s.chan c).queue d).length then s.mboxOvf c d
  else s.updChan c fun q => q.setQueue d (q.queue d ++ [(word % 2 ^ 64, stamp)])

/-- The oldest word leaves its queue; a queue that becomes empty sets its sender's EMPTY (R447). -/
def State.mboxRemove (s : State) (c : Nat) (d : Dir) : State :=
  match (s.chan c).queue d with
  | [] => s
  | _ :: t =>
    let s := s.updChan c fun q => q.setQueue d t
    if t = [] then s.mboxEmpty c d else s

/-- The channels and directions whose receiver is an endpoint. -/
def towardEndpoint (e : Endpoint) : List (Nat × Dir) :=
  ((List.range 224).filter mbxChannelExists).flatMap fun c =>
    (if endA c = e then [(c, Dir.toA)] else []) ++ (if endB c = e then [(c, Dir.toB)] else [])

/-- Words queued toward an endpoint whose reset begins are discarded and counted, with the senders' TIMEOUT (R448). -/
def State.flushToward (s : State) (e : Endpoint) : State :=
  s.each (towardEndpoint e) fun s x =>
    let n := ((s.chan x.1).queue x.2).length
    if n = 0 then s
    else ((s.updChan x.1 fun q => q.setQueue x.2 []).fadd (MBX_STAT_LOST x.1) n).mboxTimeout x.1 x.2

/-- An endpoint enters reset (R448). -/
def State.resetEndpoint (s : State) (e : Endpoint) : State :=
  ({ s with epReset := e :: s.epReset.filter (· != e) }).flushToward e

/-! ## Commands -/

/-- May the companion send on channel `c` (R50)? Channel 2 and channels 4 to 7 are refused to it. -/
def companionChannel (c : Nat) : Bool := mbxChannelExists c && decide (endA c = .companion)

/-- MBX_TX: a companion write of MBX_TX sends a word (R445). -/
def mbxTx (c word : Nat) (s : State) : State :=
  if companionChannel c then s.mboxSend c .toB word (endpointUnit .companion) else s.noteAccess (MBX_TX c)

/-- MBX_TX (R445). -/
def execMbxTx (c word : Nat) (s : State) : Host.Outcome State Fault Refusal := .next (mbxTx c word s)

/-- MBOX_DELIVER: the oldest word toward the companion is sent as an MBOX message, when the link holds a credit for it, and
leaves its queue (R445). -/
def mboxDeliver (c : Nat) (s : State) : State :=
  match (s.chan c).toA with
  | [] => s
  | (w, _) :: _ =>
    if companionChannel c && s.glkUp && s.glk.canSend 6 then
      (s.glkPut { GlkMsg.bare 6 0 0 with arg := c, data := natLe 8 w }).mboxRemove c .toA
    else s

/-- MBOX_DELIVER (R445). -/
def execMboxDeliver (c : Nat) (s : State) : Host.Outcome State Fault Refusal := .next (mboxDeliver c s)

/-- Does an armed injection of kind 7 hold the receiver of a channel (R497)? -/
def State.mboxHeld (s : State) (c : Nat) : Bool := s.mboxHolds.contains c

/-- WORD_REMOVE: an endpoint on the XK4 side removes a word from a queue toward it (R447). -/
def wordRemove (c : Nat) (d : Dir) (s : State) : State :=
  if mbxChannelExists c && decide (receiver c d ≠ .companion) && !s.inReset (receiver c d) && !s.mboxHeld c then s.mboxRemove c d else s

/-- WORD_REMOVE (R447). -/
def execWordRemove (c : Nat) (d : Dir) (s : State) : Host.Outcome State Fault Refusal := .next (wordRemove c d s)

/-- The timeout limit of the sender of a direction, where the manual gives one: the companion's is TIMEOUT_US, a control core's
toward the companion is 0 (R447, R449). -/
def State.mboxLimit (s : State) (c : Nat) (d : Dir) : Option Nat :=
  match d with
  | .toB => if endA c = .companion then some (s.fget (MBX_CFG_TIMEOUT_US c)) else none
  | .toA => if 64 ≤ c then some 0 else none

/-- MBX_TIMEOUT: a queue that holds words has had none removed for its sender's limit; a limit of 0 disables it (R447). -/
def mbxTimeoutEvent (c : Nat) (d : Dir) (s : State) : State :=
  if mbxChannelExists c = false ∨ (s.chan c).queue d = [] ∨ s.mboxLimit c d = some 0 then s else s.mboxTimeout c d

/-- MBX_TIMEOUT (R447). -/
def execMbxTimeout (c : Nat) (d : Dir) (s : State) : Host.Outcome State Fault Refusal := .next (mbxTimeoutEvent c d s)

/-- ENDPOINT_RESET: an endpoint enters reset (R448). The companion's reset is GlaetLink's. -/
def execEndpointReset (e : Endpoint) (s : State) : Host.Outcome State Fault Refusal :=
  .next (if e = .companion then s else s.resetEndpoint e)

/-- ENDPOINT_READY: an endpoint reports ready and leaves reset (R448). -/
def execEndpointReady (e : Endpoint) (s : State) : Host.Outcome State Fault Refusal :=
  .next { s with epReset := s.epReset.filter (· != e) }

/-- The direction in which an endpoint sends on a channel, if it is one of its ends. -/
def sendDir (e : Endpoint) (c : Nat) : Option Dir :=
  if mbxChannelExists c = false then none else if endA c = e then some .toB else if endB c = e then some .toA else none

end Sys2Proof.Machine
end

