-- ==== Sys2Proof/Machine/Jib.lean ====
section
/-! DEFINITION. Jack-in-the-Box: tokens (R492 to R494) and injections (R497). -/
namespace Sys2Proof.Machine

/-- A fresh challenge (R493). -/
def State.drawChal (s : State) : State := (s.fset JIB_CHAL_CHAL s.free.toNat).tick

/-- The Nutcracker's use of companion memory has lost an access (R411). -/
def State.secFails (s : State) (u : SecUse) : Bool := s.sec.failed.contains u

/-- A use of companion memory begins. -/
def State.secBegins (s : State) (u : SecUse) : State := { s with sec := { s.sec with failed := s.sec.failed.filter (· != u) } }

/-- The big-endian number of a byte string. -/
def beNat (l : List Byte) : Nat := l.foldl (fun n b => n * 256 + b.toNat) 0

/-- The bytes `lo` to `lo + n − 1` of an object. -/
def sliceOf (l : List Byte) (lo n : Nat) : List Byte := (l.drop lo).take n

/-- The little-endian number at byte `lo`. -/
def numAt (l : List Byte) (lo n : Nat) : Nat := leNat (sliceOf l lo n)

/-- ECDSA P-384 verification against Ondinar's key, and HSS verification (R466), as the model names them (log entry 6). -/
def ecdsaOk (digest : Nat) (sig : List Byte) : Bool := Config.crypto 1 digest sig == 1
/-- HSS. -/
def hssOk (digest : Nat) (sig : List Byte) : Bool := Config.crypto 2 digest sig == 1

/-! ## Tokens -/

/-- The 192 bytes of the token presented. -/
def State.tokenRange (s : State) : Nat × Nat := (s.sec.tokenAt, 192)

/-- The first check of R493 that a token fails, as its reason; none when it passes. -/
def State.tokenReason (s : State) (t : List Byte) : Option Nat :=
  let zero := fun lo n => (sliceOf t lo n).all (· == 0)
  if numAt t 0 4 ≠ 0x5442494A ∨ numAt t 4 1 ≠ 1 ∨ !(zero 5 1 && zero 7 1 && zero 0x15 11 && zero 0x50 16) then some 1
  else if beNat (sliceOf t 0x20 48) ≠ Config.deviceId then some 9
  else if numAt t 8 8 ≠ s.fget JIB_CHAL_CHAL ∨ numAt t 0x10 5 ≤ s.fget EVR_OPSEC_SECONDS then some 13
  else if ecdsaOk (Config.sha384 (t.take 0x60)) (sliceOf t 0x60 96) then none
  else some 5

/-- The presentation of a token is over, with a refusal or not; a new challenge is drawn (R493). -/
def State.tokenOver (s : State) (reason : Option Nat) : State :=
  ((s.fsets [(JIB_UNLOCK_GO, 0), (JIB_STAT_PSTATE, if reason = none then 2 else 3), (JIB_STAT_REASON, reason.getD 0)]).dropStream [s.tokenRange]).drawChal

/-- The token is checked once its lines have come (R493). -/
def State.tokenCheck (s : State) : State :=
  if s.fget JIB_STAT_PSTATE ≠ 1 then s
  else if s.secFails .token then s.tokenOver (some 10)
  else if s.streamReady [s.tokenRange] = false then s
  else
    let t := s.load s.tokenRange.1 s.tokenRange.2
    match s.tokenReason t with
    | some r => s.tokenOver (some r)
    | none =>
      let s := (s.fsets [(JIB_STAT_UNLOCKED, 1), (JIB_STAT_SCOPE, numAt t 6 1)]).tokenOver none
      { s with sec := { s.sec with expires := numAt t 0x10 5 } }

/-- TOKEN_PRESENT: JIB_UNLOCK.GO: the token is read with RD_ONCE and checked (R493). A GO during a presentation, and an ADDR outside the
GlaetLink window, are discarded (R16). -/
def tokenPresent (s : State) : State :=
  let a := s.fget JIB_UNLOCK_ADDR * 4096
  if s.fget JIB_STAT_PSTATE = 1 ∨ a < glkBase ∨ glkEnd ≤ a then s.noteDiscard JIB_UNLOCK 1
  else
    let s := (s.fsets [(JIB_UNLOCK_GO, 1), (JIB_STAT_PSTATE, 1)]).secBegins .token
    let s := { s with sec := { s.sec with tokenAt := a } }
    (s.askStream [s.tokenRange] (.security .token)).tokenCheck

/-- TOKEN_PRESENT (R493). -/
def execTokenPresent (s : State) : Host.Outcome State Fault Refusal := .next (tokenPresent s)

/-- The RWB fields of JIB_CTRL and JIB_FAB. -/
def jibStaged : List Fld := (JIB_CTRL_fields ++ JIB_FAB_fields).filter fun f => f.acc == .rwb

/-- The unlock ends: an armed injection is discarded, zeros are staged, and a new challenge is drawn (R493, R494). -/
def lock (s : State) : State :=
  let s := s.fsets [(JIB_STAT_UNLOCKED, 0), (JIB_STAT_SCOPE, 0), (JIB_STAT_ARMED, 0), (JIB_INJ_ARM, 0)]
  (s.each jibStaged fun s f => s.stage f 0).drawChal

/-- LOCK (R494). -/
def execLock (s : State) : Host.Outcome State Fault Refusal := .next (lock s)

/-- UNLOCK_EXPIRY: operating seconds have reached EXPIRES (R494). -/
def unlockExpiry (s : State) : State :=
  if s.flag JIB_STAT_UNLOCKED ∧ s.sec.expires ≤ s.fget EVR_OPSEC_SECONDS then lock s else s

/-- UNLOCK_EXPIRY (R494). -/
def execUnlockExpiry (s : State) : Host.Outcome State Fault Refusal := .next (unlockExpiry s)

/-! ## Injections -/

/-- Does TARGET of JIB_INJ name what exists: for kind 5 a slot up to L39, for kind 7 a channel of R444 (R9)? What a write of
another TARGET does is DEDUCED: it is discarded as a reserved encoding (log entry 88). -/
def targetLegal (kind target : Nat) : Bool :=
  (kind != 5 || decide (bits target 4 6 < 40)) && (kind != 7 || mbxChannelExists (target % 256))

/-- Do the settings of JIB_INJ name a kind in SCOPE and keep its reserved encodings (R495, R497)? A TARGET outside the ranges of R9 is taken as
one (log entry 88). -/
def injLegal (scope kind k hold target : Nat) : Bool :=
  decide (4 ≤ kind) && bit scope kind && (kind != 4 || k != 0) && (kind != 7 || hold != 0) && targetLegal kind target

/-- INJECTION_ARM: JIB_INJ.ARM arms one injection (R497): it is discarded while another is armed; kind 7 fires at once; one whose partition
does not run is discarded (log entry 44), and so is a TARGET that names nothing (DEDUCED, log entry 88). -/
def injectionArm (s : State) : State :=
  if s.flag JIB_STAT_UNLOCKED = false then s.noteAccess JIB_INJ
  else if s.flag JIB_STAT_ARMED ∨ injLegal (s.fget JIB_STAT_SCOPE) (s.fget JIB_INJ_KIND) (s.fget JIB_INJ_K) (s.fget JIB_INJ_HOLD_US) (s.fget JIB_INJ_TARGET) = false then
    s.noteDiscard JIB_INJ 1
  else if s.running (s.fget JIB_CTRL_PART) = false then s
  else if s.fget JIB_INJ_KIND = 7 then
    let c := s.fget JIB_INJ_TARGET % 256
    { s with mboxHolds := c :: s.mboxHolds.filter (· != c) }.injFire (s.fget JIB_CTRL_PART)
  else s.fsets [(JIB_STAT_ARMED, 1), (JIB_INJ_ARM, 1)]

/-- INJECTION_ARM (R497). -/
def execInjectionArm (s : State) : Host.Outcome State Fault Refusal := .next (injectionArm s)

/-- MBX_HOLD_END: the receiver of a channel removes words again (R497). -/
def execMbxHoldEnd (c : Nat) (s : State) : Host.Outcome State Fault Refusal := .next { s with mboxHolds := s.mboxHolds.filter (· != c) }

end Sys2Proof.Machine
end

