-- ==== Sys2Proof/Machine/Ports.lean ====
section
/-! DEFINITION. Commands of the fabric ports, their flits and the optical engines (R346 to R367, R132 to R134). -/
namespace Sys2Proof.Machine

/-! ## Bring-up -/

/-- The optical engine of fabric lane `n` (R27). -/
def engineOfLane (n : Nat) : Nat := n / 18

/-- The lanes of port `p` that lie in engine `e`, as a mask (R27). -/
def lanesIn (p e : Nat) : Nat :=
  (List.range 4).foldl (fun m i => if engineOfLane (4 * p + i) = e then m + 2 ^ i else m) 0

/-- The number of lanes in a mask of four. -/
def laneCount (m : Nat) : Nat := m % 2 + m / 2 % 2 + m / 4 % 2 + m / 8 % 2

/-- The lanes of `m` that are not in `d`. -/
def maskMinus (m d : Nat) : Nat := (List.range 16).foldl (fun x i => if bit m i && !bit d i then x + 2 ^ i else x) 0

/-- The lanes of both masks. -/
def maskAnd (m d : Nat) : Nat := (List.range 16).foldl (fun x i => if bit m i && bit d i then x + 2 ^ i else x) 0

/-- Engine `e` is up (FAB_OEe.STATE). -/
def State.engineUp (s : State) (e : Nat) : Bool := s.fget (FAB_OE_STATE e) == 2

/-- The lanes of port `p` whose engines are up. -/
def State.litLanes (s : State) (p : Nat) : Nat :=
  (List.range 4).foldl (fun m i => if s.engineUp (engineOfLane (4 * p + i)) then m + 2 ^ i else m) 0

/-- A ROLE valid for the mode (R354, R356): LOOP in any mode, SWITCH in switched mode, an axis below NAXES in direct mode. -/
def State.roleValid (s : State) (role : Nat) : Bool :=
  role == 1 || (if s.fget FAB_TOPO_NAXES = 0 then role == 0 else decide (8 ≤ role) && decide ((role - 8) / 2 < s.fget FAB_TOPO_NAXES))

/-- What keeps a port in NO_ID (R354). -/
def State.noId (s : State) (role : Nat) : Bool :=
  let n := s.fget FAB_TOPO_NAXES
  s.node == 0xFFFF || (n != 0 && (decide (65535 < s.axisStride n) || decide (s.axisStride n ≤ s.node))) || !s.roleValid role

/-- FAB_PORT_CFG of port `p` is written (R354, R359): discarded while a partition is active; otherwise the port goes through OFF
and starts its bring-up, waits in NO_ID, or stays OFF. -/
def fabPortCfg (p value : Nat) (s : State) : State :=
  let role := bits value 4 4
  if s.anyActive ∨ (2 ≤ role ∧ role ≤ 7) then s.noteDiscard (FAB_PORT_CFG p) value
  else
    let s := s.fsets [(FAB_PORT_CFG_PARTS p, bits value 16 4), (FAB_PORT_CFG_BEAT p, bits value 8 1), (FAB_PORT_CFG_ROLE p, role),
      (FAB_PORT_CFG_ENABLE p, bits value 0 1)]
    let s := (s.clearPort p).fsets [(FAB_PORT_STAT_LANES_UP p, 0), (FAB_PORT_STAT_PEER_NODE p, 0xFFFF), (FAB_PORT_STAT_PEER_ROLE p, 0),
      (FAB_PORT_STAT_PEER_SWITCH p, 0), (FAB_PORT_STAT_PEER_BEAT p, 0), (FAB_PORT_DELAY_DELAY_PS p, 0)]
    s.fset (FAB_PORT_STAT_STATE p) (if bits value 0 1 = 0 then 0 else if s.noId role then 6 else 1)

/-- FAB_PORT_CFG (R354). -/
def execFabPortCfg (p : Fin 18) (value : Nat) (s : State) : Host.Outcome State Fault Refusal := .next (fabPortCfg p value s)

/-- Bring-up is under way: TRAINING, or DOWN, from which it starts again (R359, R361). -/
def State.portTraining (s : State) (p : Nat) : Bool :=
  (s.fget (FAB_PORT_STAT_STATE p) == 1 || s.fget (FAB_PORT_STAT_STATE p) == 4) && !s.fatal

/-- PORT_TRAIN_TIMEOUT: the attempt fails, is recorded and starts again (R359). -/
def portTrainTimeout (p : Nat) (s : State) : State :=
  if s.portTraining p then (s.fset (FAB_PORT_STAT_STATE p) 1).noteHub 4 0 0 else s

/-- PORT_TRAIN_TIMEOUT (R359). -/
def execPortTrainTimeout (p : Fin 18) (s : State) : Host.Outcome State Fault Refusal := .next (portTrainTimeout p s)

/-- Does the peer match the port's ROLE (R355)? -/
def State.roleMatches (s : State) (role node peerRole : Nat) (isSwitch : Bool) : Bool :=
  if role = 0 then isSwitch
  else if role = 1 then !isSwitch && node == s.node && peerRole == 1
  else
    let a := (role - 8) / 2
    let n := s.axisSize a
    let up := role % 2 == 0
    let c := s.coord s.node a
    let next := s.coord node a
    let step := if s.torus a then (if up then next == (c + 1) % n else c == (next + 1) % n)
      else if up then next == c + 1 else c == next + 1
    !isSwitch && peerRole == (if up then role + 1 else role - 1) && step && decide (node < s.axisStride (s.fget FAB_TOPO_NAXES)) &&
      ((List.range (s.fget FAB_TOPO_NAXES)).all fun b => b == a || s.coord node b == s.coord s.node b)

/-- The device's own LMGMT flit of bring-up: its node ID, the port's ROLE and number, and that an XK4 carries beat blocks (R355). -/
def State.ownCheck (s : State) (p lanes : Nat) : Lmgmt := .check s.node (s.fget (FAB_PORT_CFG_ROLE p)) p false true lanes false 0

/-- An echo goes out to measure the delay of port `p` (R362). -/
def State.sendEcho (s : State) (p : Nat) : State := s.emit (.lmgmt p .echo)

/-- The port is UP or DEGRADED, with its credits granted (R351, R359); its delay is measured (R362), and its first lane recalibration falls
due in its turn (R363). -/
def State.portComesUp (s : State) (p lit peerPort : Nat) (tincan : Bool) (win : Nat) : State :=
  ((s.updPort p fun q => { Port.idle with
    credits := fabCredits, adTincan := tincan, adWin := win, eccCount := q.eccCount, peerPort := peerPort
    recalAt := s.fget EVR_OPSEC_SECONDS }).fsets
      [(FAB_PORT_STAT_LANES_UP p, lit), (FAB_PORT_STAT_STATE p, if laneCount lit = 4 then 2 else 3)]).sendEcho p

/-- LMGMT: the two ends exchange node ID, ROLE and capabilities, and the role check ends bring-up as UP, DEGRADED or MISWIRED, or fewer
than two lanes leave it training; an echo is answered with this end's turnaround; the answer to an echo gives the one-way delay, half of what
the round trip leaves beside the turnaround (R355, R359, R362). -/
def lmgmt (p : Nat) (m : Lmgmt) (s : State) : State :=
  match m with
  | .echo => if s.portUp p then s.emit (.lmgmt p (.echoed 0 Config.turnaroundPs)) else s
  | .echoed rtt turn => if s.portUp p then s.fset (FAB_PORT_DELAY_DELAY_PS p) ((rtt - turn) / 2) else s
  | .check node role peerPort sw beat lanes tincan win =>
    let lit := maskAnd (lanes % 16) (s.litLanes p)
    if s.portTraining p = false ∨ laneCount lit < 2 then s
    else if s.noId (s.fget (FAB_PORT_CFG_ROLE p)) then s.fset (FAB_PORT_STAT_STATE p) 6
    else
      let s := (s.emit (.lmgmt p (s.ownCheck p lit))).fsets [(FAB_PORT_STAT_PEER_NODE p, if sw then 0xFFFF else node), (FAB_PORT_STAT_PEER_ROLE p, role),
        (FAB_PORT_STAT_PEER_SWITCH p, b2n sw), (FAB_PORT_STAT_PEER_BEAT p, b2n beat)]
      if s.roleMatches (s.fget (FAB_PORT_CFG_ROLE p)) node role sw then s.portComesUp p lit peerPort tincan win
      else (s.fset (FAB_PORT_STAT_STATE p) 5).noteHub 9 (s.node + node * 65536) 0

/-- LMGMT (R355). -/
def execLmgmt (p : Fin 18) (m : Lmgmt) (s : State) : Host.Outcome State Fault Refusal := .next (lmgmt p m s)

/-! ## Flits -/

/-- The payload of a DATA flit is written where it belongs; when it is visible it counts as landed (R132). -/
def State.landAt (s : State) (q : Nat) (f : Flit) (rs : List (Nat × Nat)) : State :=
  let old := (s.part q).streams.find? (·.is f.srcNode f.srcPart f.epoch)
  let upTo := (old.map fun t => t.landed + (t.arriving.map (·.2)).sum).getD 0 + f.payload.length
  let s := s.updStream q f.srcNode f.srcPart f.epoch fun t => { t with arriving := t.arriving ++ [(upTo, f.payload.length)] }
  (s.putRanges (.land q f.srcNode f.srcPart f.epoch upTo) rs f.payload).landSettle q f.srcNode f.srcPart f.epoch

/-- DATA of a stream lands in partition `q` (R132, R134, R349): refused when the partition is not running, when a new stream finds
the table full, or when a byte does not translate to writable memory; else written, counted, and held drops credited. A flit whose page-table
line must come from the companion waits for it, with those behind it (R47). -/
def landData (q : Nat) (f : Flit) (s : State) : State :=
  if s.running q = false then s.reply f 1
  else if (s.part q).inbound ≠ [] then s.updPart q fun x => { x with inbound := x.inbound ++ [f] }
  else if s.streamsFull q f.srcNode f.srcPart f.epoch then
    (s.reply f 3).raise q .dropHoldFull { unit := unitHub, log := f.srcNode + f.srcPart * 65536 + f.epoch * 2 ^ 32 }
  else
    match s.xlateRead q f.addr f.payload.length true (s.damage.length + 1) with
    | (t, .error (.sector a)) => (t.reply f 2).raise q .memUncorr (t.uncorrCause a)
    | (t, .error (.need l)) => (t.askShared l (.fetch q)).updPart q fun x => { x with inbound := x.inbound ++ [f] }
    | (t, .error (.bad _)) => t.reply f 2
    | (s, .ok rs) => s.landAt q f rs

/-- Page-table lines have come: the DATA flits that waited go on, in order (R47, R132). -/
def State.inboundGoes (s : State) (q : Nat) : State :=
  ((s.part q).inbound).foldl (fun s f => landData q f s) (s.updPart q fun x => { x with inbound := [] })

/-- DATA_FLIT: an arriving DATA flit (R132, R349, R356). -/
def dataFlit (p : Nat) (f : Flit) (s : State) : State := s.flitIn p (flitAs f 1 0) (landData f.dstPart f)

/-- DATA_FLIT (R132). -/
def execDataFlit (p : Fin 18) (f : Flit) (s : State) : Host.Outcome State Fault Refusal := .next (dataFlit p f s)

/-- A remote drop arrives at partition `q` (R132, R134): the block's jar and marbles, and the byte count that it announces. -/
def landDrop (q : Nat) (f : Flit) (s : State) : State :=
  let blk := leNat f.payload
  if s.running q = false then s.reply f 1
  else if s.streamsFull q f.srcNode f.srcPart f.epoch then
    (s.reply f 3).raise q .dropHoldFull { unit := unitHub, log := f.srcNode + f.srcPart * 65536 + f.epoch * 2 ^ 32 }
  else
    let s := s.updStream q f.srcNode f.srcPart f.epoch fun t =>
      let a := t.announced + bits blk 128 64
      { t with announced := a, held := t.held ++ [⟨a, bits blk 32 12, bits blk 64 32⟩] }
    s.creditDrops q f.srcNode f.srcPart f.epoch

/-- DROP_FLIT (R132). -/
def execDropFlit (p : Fin 18) (f : Flit) (s : State) : Host.Outcome State Fault Refusal :=
  .next (s.flitIn p (flitAs f 2 2) (landDrop f.dstPart f))

/-- TCN_LOG takes the first collective fault of partition `q` (KIND 0 COLL_MISMATCH, 1 COLL_GROUP_INVALID, 2 REMOTE_REFUSED). -/
def State.logColl (s : State) (q kind node part group tag : Nat) : State :=
  if s.flag (TCN_LOG_VALID q) then s
  else s.fsets [(TCN_LOG_VALID q, 1), (TCN_LOG_KIND q, kind), (TCN_LOG_SRC_PART q, part), (TCN_LOG_GROUP q, group),
    (TCN_LOG_SRC_NODE q, node), (TCN_LOG_TAG q, tag)]

/-- What the record of a collective fault carries (R434): a word of the form of TCN_LOG about that fault, whichever one TCN_LOG keeps. -/
def collWord (kind node part group tag : Nat) : Nat :=
  2 ^ 63 + kind * 2 ^ 61 + part * 2 ^ 56 + group * 2 ^ 48 + node * 2 ^ 32 + tag

/-- A fault that arises from the running collective `x` of partition `q` (R96). -/
def State.collFault (s : State) (q : Nat) (x : Coll) (c : Code) (w : Cause) : State :=
  match s.originOf q x.id with
  | some o =>
    match s.desc? o x.id with
    | some d => s.descFault o d c w
    | none => s.raise q c w
  | none => s.raise q c w

/-- Has the collective an extent of the refused flit's address: one that a member announced to it (R382)? -/
def Coll.names (x : Coll) (addr : Nat) : Bool := x.extents.any fun r => decide (r.2.2.1 ≤ addr) && decide (addr < r.2.2.1 + r.2.2.2)

/-- The running collective of partition `q` that sent a refused flit: a TINCAN flit is the Tin-Can engine's; a COLL flit is that of the
engine to which its ADDR was announced, else the bulk engine's where it runs one (log entry 41). -/
def Colls.refused (e : Colls) (tincan : Bool) (addr : Nat) : Option Coll :=
  if tincan then e.tc
  else match e.bulk, e.tc with
    | some x, some y => some (if y.names addr && !x.names addr then y else x)
    | none, y => y
    | x, none => x

/-- A flit of a collective of partition `q` was refused by a member (R357, R382): REMOTE_REFUSED with its log, or NO_ROUTE. -/
def State.collRefused (s : State) (q : Nat) (c : Code) (w : Cause) (node part : Nat) (tincan : Bool) (addr : Nat) : State :=
  match (s.part q).coll.refused tincan addr with
  | some x =>
    if c = .remoteRefused then
      let g := dfield x.raw 34 0 8
      (s.logColl q 2 node part g (dTag x.raw)).collFault q x c { w with log := collWord 2 node part g (dTag x.raw) }
    else s.collFault q x c w
  | none => s.raise q c w

/-- A refusal reaches the source partition (R134, R357): NO_ROUTE for reason 4, else REMOTE_REFUSED. It arises from the descriptor
that sends on the refused stream, when that is one of a ring or a launch queue. -/
def landReply (q : Nat) (f : Flit) (s : State) : State :=
  let reason := (leNat f.payload) % 256
  let h := leNat (f.payload.drop 8)
  let node := bits h 16 16
  let part := bits h 32 2
  let epoch := bits h 64 16
  let c : Code := if reason = 4 then .noRoute else .remoteRefused
  let s := if reason = 4 then s.logNoRoute q node else s
  let w : Cause := { unit := unitHub, log := reason + node * 256 }
  let mine := fun (d : Desc) => d.remote.contains (node, part, epoch)
  if bits h 0 8 = 3 ∨ bits h 0 8 = 4 then s.collRefused q c w node part (bits h 0 8 == 3) (bits h 96 48) else
  match (s.ringsOf q).findSome? fun n => ((s.ring n).inflight.find? mine).map fun d => (Origin.ring (Fin.ofNat 256 n), d) with
  | some (o, d) => s.descFault o d c w
  | none =>
    match (s.slotsOf q).findSome? fun rk => ((s.slot rk.1 rk.2).inflight.find? mine).map fun d => (Origin.slot (Fin.ofNat 4 rk.1) (Fin.ofNat 40 rk.2), d) with
    | some (o, d) => s.descFault o d c w
    | none => s.raise q c w

/-- REPLY_FLIT (R349). -/
def execReplyFlit (p : Fin 18) (f : Flit) (s : State) : Host.Outcome State Fault Refusal :=
  .next (s.flitIn p (flitAs f 5 2) (landReply f.dstPart f))

/-- NULL_FLIT: ACK and credits only (R349). -/
def execNullFlit (p : Fin 18) (f : Flit) (s : State) : Host.Outcome State Fault Refusal :=
  .next (s.fabIn p (flitAs f 6 0) id)

/-- A receiver's report that a remote drop was credited reaches its sender: a descriptor, or the snapshot engine (R133, R295). -/
def dropCreditReport (q node part epoch : Nat) (s : State) : State :=
  let key := (node, part, epoch)
  match (s.part q).sentDrops.find? fun x => x.1 == key with
  | none => s
  | some (_, who) =>
    let s := s.updPart q fun r => { r with sentDrops := dropFirst (fun x => x.1 == key) r.sentDrops }
    match who with
    | .desc o id => s.updDesc o id fun d => { d with remote := dropFirst (· == key) d.remote }
    | .snap => s.updPart q fun r => { r with snap := r.snap.map fun x => { x with credited := true } }
    | .core => s

/-- DROP_CREDIT_REPORT (R133). -/
def execDropCreditReport (q : Fin 4) (node part epoch : Nat) (s : State) : Host.Outcome State Fault Refusal :=
  .next (dropCreditReport q node part epoch s)

/-! ## Link retry -/

/-- FLIT_DISCARD: a flit that failed FEC or CRC is discarded and counted, and a NAK names the last good SEQ (R350, R353). -/
def flitDiscard (p : Nat) (c : DiscardCause) (s : State) : State :=
  if s.portUp p = false then s
  else
    let s := match c with
      | .fec => s.fadd (FAB_PORT_CNT0_FEC_UNCORR p) 1
      | .crc => s.fadd (FAB_PORT_CNT1_CRC_ERR p) 1
    s.sendNak p

/-- FLIT_DISCARD (R353). -/
def execFlitDiscard (p : Fin 18) (c : DiscardCause) (s : State) : Host.Outcome State Fault Refusal := .next (flitDiscard p c s)

/-- Every unacknowledged flit of port `p` is sent again, in order, and counted (R353). -/
def State.replayPort (s : State) (p : Nat) : State :=
  let u := (s.port p).unacked
  { s with out := s.out ++ u.map fun f => Out.flit p f }.fadd (FAB_PORT_CNT1_REPLAYS p) u.length

/-- NAK: flits up to ACK are acknowledged and the rest replayed from the replay buffer, which ECC watches; the eighth NAK in a row for one
SEQ makes the port retrain (R353, R358). -/
def fabNak (p ack : Nat) (ecc : FlitEcc) (s : State) : State :=
  if s.portUp p = false then s
  else s.eccOr p ecc fun s =>
    let s := s.fabTake p ack 0 0 0
    let n := if (s.port p).naks.1 = ack then (s.port p).naks.2 + 1 else 1
    if 8 ≤ n then (s.updPort p fun q => { q with naks := (ack, 0), retraining := true }).fadd (FAB_PORT_STAT_RETRAINS p) 1
    else ((s.updPort p fun q => { q with naks := (ack, n) }).replayPort p).fabDrain p

/-- NAK (R353). -/
def execNak (p : Fin 18) (ack : Nat) (ecc : FlitEcc) (s : State) : Host.Outcome State Fault Refusal := .next (fabNak p ack ecc s)

/-- PORT_RETRAIN_END: replay resumes from the oldest unacknowledged flit and the delay is measured again (R362), or after the third failure in a row the port goes DOWN
(R353). -/
def portRetrainEnd (p : Nat) (ok : Bool) (s : State) : State :=
  if (s.port p).retraining = false then s
  else if ok then (((s.updPort p fun q => { q with retraining := false, retrainFails := 0 }).replayPort p).fabDrain p).sendEcho p
  else if (s.port p).retrainFails + 1 < 3 then
    (s.updPort p fun q => { q with retrainFails := q.retrainFails + 1 }).fadd (FAB_PORT_STAT_RETRAINS p) 1
  else s.portDown p

/-- PORT_RETRAIN_END (R353). -/
def execPortRetrainEnd (p : Fin 18) (ok : Bool) (s : State) : Host.Outcome State Fault Refusal := .next (portRetrainEnd p ok s)

/-! ## Lanes -/

/-- Lanes leave a port: it goes on DEGRADED on the others with FAB_LANE_FAIL recorded, or goes DOWN with fewer than two
(R360, R361). -/
def State.loseLanes (s : State) (p mask : Nat) : State :=
  let left := maskMinus (s.fget (FAB_PORT_STAT_LANES_UP p)) mask
  if s.portUp p = false ∨ left = s.fget (FAB_PORT_STAT_LANES_UP p) then s
  else
    let s := s.record { code := Code.num .fabLaneFail, unit := unitPort p, log := mask }
    if laneCount left < 2 then s.portDown p
    else s.fsets [(FAB_PORT_STAT_LANES_UP p, left), (FAB_PORT_STAT_STATE p, 3)]

/-- LANE_LOSS: lanes lose lock; a port that fails to carry the beat blocks that its BEAT bit asks of it goes DOWN (R360, R361). -/
def laneLoss (p lanes : Nat) (beatLost : Bool) (s : State) : State :=
  let s := s.loseLanes p (lanes % 16)
  if beatLost && s.beatPorts.contains p then s.portDown p else s

/-- LANE_LOSS (R360). -/
def execLaneLoss (p : Fin 18) (lanes : Nat) (beatLost : Bool) (s : State) : Host.Outcome State Fault Refusal := .next (laneLoss p lanes beatLost s)

/-- Is this end of the link the one that schedules recalibrations: the lower port of a LOOP, the XK4 at a switch, the lower node ID of two
(R364)? -/
def State.schedules (s : State) (p : Nat) : Bool :=
  s.flag (FAB_PORT_STAT_PEER_SWITCH p) ||
    if s.fget (FAB_PORT_CFG_ROLE p) = 1 then decide (p < (s.port p).peerPort) else decide (s.node < s.fget (FAB_PORT_STAT_PEER_NODE p))

/-- The lane of port `p` leaves for recalibration (R363). -/
def State.laneLeaves (s : State) (p : Nat) : State :=
  let l := s.fget (FAB_PORT_RECAL_LANE p)
  (s.updPort p fun q => { q with laneOut := some l, laneRetry := false }).fsetBit (FAB_PORT_STAT_LANES_UP p) l false

/-- Can port `p` recalibrate a lane: UP, not retraining, no lane out (R363)? -/
def State.mayRecal (s : State) (p : Nat) : Bool :=
  s.fget (FAB_PORT_STAT_STATE p) == 2 && !(s.port p).retraining && (s.port p).laneOut.isNone

/-- The running partitions of the device. -/
def State.runningParts (s : State) : List Nat := [0, 1, 2, 3].filter s.running

/-- The beat shown for the recalibration of port `p` is that of the lowest running partition's booking, and the end that schedules sends the
peer an offer of it (R364). -/
def State.offerLane (s : State) (p : Nat) : State :=
  match s.runningParts.filterMap fun q => (s.booked q 3 p).map fun b => (q, b.beat) with
  | [] => s.fset (FAB_PORT_RECAL_BEAT p) 0
  | (q, b) :: _ =>
    let s := s.fset (FAB_PORT_RECAL_BEAT p) b
    if s.schedules p then s.emit (.recalOffer p (s.fget (BEAT_DOMAIN_ID q)) b (s.fget (FAB_PORT_RECAL_LANE p))) else s

/-- A lane recalibration of port `p` is booked in every running partition at the earliest beat allowed, and the peer is sent an offer; with
no running partition the lane leaves at once (R364). -/
def State.bookLane (s : State) (p : Nat) : State :=
  match s.runningParts with
  | [] => s.laneLeaves p
  | ps => (s.each ps fun s q => s.book q 3 p 0).offerLane p

/-- Has the interval since the port's last recalibration passed, or, for its first one, its part of an interval since it came UP (R363)? -/
def State.laneTime (s : State) (p : Nat) : Bool :=
  let q := s.port p
  let i := s.fget FAB_RECAL_INTERVAL_S
  decide (q.recalAt + (if q.recalled then i else p * i / 18) ≤ s.fget EVR_OPSEC_SECONDS)

/-- LANE_RECAL_DUE: at the scheduling end a lane falls due, by time or by its FEC, and is booked and offered, or leaves at once (R363, R364).
At the other end it is the scheduler's boundary instant, at which a lane offered without a booking here leaves (log entry 76). -/
def laneRecalDue (p : Nat) (s : State) : State :=
  match (s.port p).offered with
  | some l =>
    let s := s.updPort p fun q => { q with offered := none }
    if s.mayRecal p then (s.fset (FAB_PORT_RECAL_LANE p) l).laneLeaves p else s
  | none =>
    if s.mayRecal p = false ∨ s.schedules p = false ∨ s.fget (FAB_PORT_RECAL_BEAT p) ≠ 0 then s
    else match (s.port p).early with
    | some l => ((s.updPort p fun q => { q with early := none }).fset (FAB_PORT_RECAL_LANE p) l).bookLane p
    | none => if s.laneTime p then s.bookLane p else s

/-- LANE_RECAL_DUE (R363). -/
def execLaneRecalDue (p : Fin 18) (s : State) : Host.Outcome State Fault Refusal := .next (laneRecalDue p s)

/-- RECAL_OFFER: a peer's offer is booked for the same beat in the running partitions of the same domain; one that comes for a beat less than
two ahead, or of another domain, takes no booking (R73, R364). -/
def recalOffer (p domain beat lane : Nat) (s : State) : State :=
  if s.portUp p = false then s
  else
    let s := s.each allParts fun s q => if (s.booked q 3 p).isSome then s.updPart q fun x => { x with books := x.books.filter fun b => !(b.kind == 3 && b.unit == p) } else s
    let ps := s.runningParts.filter fun q => s.domId q == some domain && decide (s.beat q + 2 ≤ beat)
    if ps = [] then (s.updPort p fun q => { q with offered := some lane }).fset (FAB_PORT_RECAL_BEAT p) 0
    else
      (s.each ps fun s q => s.updPart q fun x => { x with books := insertBooking ⟨beat, 3, p⟩ x.books }).fsets
        [(FAB_PORT_RECAL_BEAT p, beat), (FAB_PORT_RECAL_LANE p, lane)]

/-- RECAL_OFFER (R364). -/
def execRecalOffer (p : Fin 18) (domain beat : Nat) (lane : Fin 4) (s : State) : Host.Outcome State Fault Refusal :=
  .next (recalOffer p domain beat lane s)

/-- The port's turn passes to its next lane (R363). -/
def State.nextLane (s : State) (p : Nat) : State :=
  (s.updPort p fun q => { q with laneOut := none, laneRetry := false, recalAt := s.fget EVR_OPSEC_SECONDS, recalled := true }).fset
    (FAB_PORT_RECAL_LANE p) ((s.fget (FAB_PORT_RECAL_LANE p) + 1) % 4)

/-- LANE_RECAL_END: the lane rejoins and the delay is measured again (R362); or it is retried once at once; or it leaves the port (R365). -/
def laneRecalEnd (p : Nat) (ok : Bool) (s : State) : State :=
  match (s.port p).laneOut with
  | none => s
  | some l =>
    if ok then ((s.nextLane p).fsetBit (FAB_PORT_STAT_LANES_UP p) l true).sendEcho p
    else if (s.port p).laneRetry = false then s.updPort p fun q => { q with laneRetry := true }
    else ((s.nextLane p).fsetBit (FAB_PORT_STAT_LANES_UP p) l true).loseLanes p (2 ^ l)

/-- LANE_RECAL_END (R365). -/
def execLaneRecalEnd (p : Fin 18) (ok : Bool) (s : State) : Host.Outcome State Fault Refusal := .next (laneRecalEnd p ok s)

/-! ## Optical engines -/

/-- Every lane of engine `e` leaves its port (R360). -/
def State.engineDark (s : State) (e : Nat) : State :=
  s.each (List.range 18) fun s p => if lanesIn p e = 0 then s else s.loseLanes p (lanesIn p e)

/-- FIREWALL_VIOLATION: dropped, counted and recorded; the 16th isolates the engine, whose gated modules bring nothing
more (R366). -/
def firewallViolation (e : Nat) (addr : Nat) (s : State) : State :=
  if s.fget (FAB_OE_STATE e) = 3 then s
  else
    let s := (s.fadd (FAB_OE_VIOL e) 1).noteHub 8 0 addr
    if s.fget (FAB_OE_VIOL e) = 16 then
      ((s.fset (FAB_OE_STATE e) 3).engineDark e).resetEndpoint (.opticalEngine (Fin.ofNat 4 e))
    else s

/-- FIREWALL_VIOLATION (R366). -/
def execFirewallViolation (e : Fin 4) (addr : Nat) (s : State) : Host.Outcome State Fault Refusal := .next (firewallViolation e addr s)

/-- ENDPOINT_WORD_SEND: the Nutcracker, the management core or an optical engine sends a word, stamped by the hub (R445, R446). A word of an
engine for a channel that is not its own is a violation (R366). -/
def endpointWordSend (e : Endpoint) (c word : Nat) (s : State) : State :=
  if e = .companion ∨ s.inReset e then s
  else match sendDir e c, e with
  | some d, _ => s.mboxSend c d word (endpointUnit e)
  | none, .opticalEngine n => firewallViolation n 0 s
  | none, _ => s

/-- ENDPOINT_WORD_SEND (R445). -/
def execEndpointWordSend (e : Endpoint) (c word : Nat) (s : State) : Host.Outcome State Fault Refusal :=
  .next (endpointWordSend e c word s)

/-- ENGINE_FAIL: an engine that is up counts as failed; its lanes leave their ports (R360, R367). -/
def engineFail (e : Nat) (s : State) : State :=
  if s.engineUp e then (s.fset (FAB_OE_STATE e) 4).engineDark e else s

/-- ENGINE_FAIL (R367). -/
def execEngineFail (e : Fin 4) (s : State) : Host.Outcome State Fault Refusal := .next (engineFail e s)

/-- ENGINE_READY: an engine that had failed is up again; its ports train again from DOWN (R367). One with a gated module stays
failed (R430). -/
def engineReady (e tempC : Nat) (s : State) : State :=
  let s := s.fset (FAB_OE_TEMP_C e) tempC
  let dead := s.deadLinks.any fun m => match m with
    | .engine x _ => x.val == e
    | _ => false
  if s.fget (FAB_OE_STATE e) = 4 ∧ dead = false then s.fset (FAB_OE_STATE e) 2 else s

/-- ENGINE_READY (R367). -/
def execEngineReady (e : Fin 4) (tempC : Nat) (s : State) : Host.Outcome State Fault Refusal := .next (engineReady e tempC s)

end Sys2Proof.Machine
end

