-- ==== Sys2Proof/Machine/Remote.lean ====
section
/-! DEFINITION. Sending a remote drop (R130, R131, R133), and the bytes of stream data (R131). -/
namespace Sys2Proof.Machine

/-- EN of a remote drop block (R130). -/
def blkEn (b : Nat) : Bool := bit b 23
/-- NODE of a remote drop block. -/
def blkNode (b : Nat) : Nat := bits b 0 16
/-- PART of a remote drop block. -/
def blkPart (b : Nat) : Nat := bits b 16 2
/-- EPOCH of a remote drop block. -/
def blkEpoch (b : Nat) : Nat := bits b 48 16

/-- Does a block keep R130's reserved fields and encodings: reserved bits zero, NODE not 0xFFFF when it sends? -/
def blkLegal (b : Nat) : Bool :=
  bits b 18 5 == 0 && bits b 24 8 == 0 && bits b 44 4 == 0 && bits b 96 32 == 0 && !(blkEn b && blkNode b == 0xFFFF)

/-- With EN at 0 every other field of a block must be 0 (R130). -/
def blkRelates (b : Nat) : Bool := blkEn b || b == 0

/-- The remote drop of a block leaves partition `p`, sent by `who`, announcing `bytes` bytes; none when there is no route (R130, R133, R356,
R357). -/
def State.sendDrop (s : State) (p blk bytes : Nat) (who : Dropper) : Option State :=
  (s.sendFlit (s.mkFlit 2 2 p (blkNode blk) (blkPart blk) (blkEpoch blk) 0 (natLe 16 blk ++ natLe 8 bytes))).map fun t =>
    t.updPart p fun q => { q with sentDrops := q.sentDrops ++ [((blkNode blk, blkPart blk, blkEpoch blk), who)] }

/-- Stream data leaves partition `p` for the block's destination, in flits of at most 224 bytes from destination address `addr`
on, in order (R131, R349). -/
def State.sendData (s : State) (p blk addr : Nat) : Nat → List Byte → Option State
  | 0, _ => some s
  | fuel + 1, data =>
    if data = [] then some s
    else
      match s.sendFlit (s.mkFlit 1 0 p (blkNode blk) (blkPart blk) (blkEpoch blk) addr (data.take 224)) with
      | none => none
      | some t => t.sendData p blk (addr + 224) fuel (data.drop 224)

/-- NO_ROUTE toward a block's node arises from the descriptor that sends (R357). -/
def State.noRouteRun (s : State) (p blk : Nat) : Run :=
  .fault (s.logNoRoute p (blkNode blk)) .noRoute { unit := unitHub, log := blkNode blk }

/-- A descriptor's remote drop is on its way: the descriptor completes after its credit is reported (R133). -/
def State.awaitDrop (s : State) (o : Origin) (id blk : Nat) : State :=
  s.updDesc o id fun e => { e with remote := e.remote ++ [(blkNode blk, blkPart blk, blkEpoch blk)] }

/-- The end of work that sends a descriptor's remote drop, when its block has EN at 1. -/
def State.dropRun (s : State) (o : Origin) (d : Desc) (blk bytes result : Nat) : Run :=
  if blkEn blk = false then .done s result
  else
    match s.sendDrop (s.originPart o) blk bytes (.desc o d.id) with
    | none => s.noRouteRun (s.originPart o) blk
    | some t => .done (t.awaitDrop o d.id blk) result

end Sys2Proof.Machine
end

