-- ==== Sys2Proof/Machine/CollPlan.lean ====
section
/-! DEFINITION. What a collective is before it moves a byte: groups and ranks (R369 to R373), the canonical order and its combinations
(R374, R375), the descriptor (R377 to R379), CHECK (R383), the phases of recursive halving (R384) and the Tin-Can tree (R387, R388). -/
namespace Sys2Proof.Machine

/-! ## Groups -/

/-- GID of a group entry held as bytes 0 to 63 (R369). -/
def geGid (e : Nat) : Nat := bits e 0 32
/-- PARTS. -/
def geParts (e : Nat) : Nat := bits e 32 4
/-- TINCAN. -/
def geTincan (e : Nat) : Bool := bit e 36
/-- SWITCH. -/
def geSwitch (e : Nat) : Bool := bit e 37
/-- WIN_LOG2. -/
def geWin (e : Nat) : Nat := bits e 40 8
/-- LO of axis `a`. -/
def geLo (e a : Nat) : Nat := bits e (64 + 64 * a) 16
/-- EXT of axis `a`. -/
def geExt (e a : Nat) : Nat := bits e (80 + 64 * a) 16
/-- STRIDE of axis `a`. -/
def geStride (e a : Nat) : Nat := bits e (96 + 64 * a) 16
/-- KIND of axis `a`: 0 FIXED, 1 RANGE. -/
def geKind (e a : Nat) : Nat := bits e (112 + 64 * a) 2
/-- MEMBERS. -/
def geMembers (e : Nat) : Nat := bits e 320 32

/-- The partitions that PARTS names, ascending. -/
def gePartList (e : Nat) : List Nat := [0, 1, 2, 3].filter fun q => bit (geParts e) q

/-- The RANGE axes, ascending. -/
def geAxes (e : Nat) : List Nat := [0, 1, 2, 3].filter fun a => geKind e a == 1

/-- The lengths of the group's dimensions, the partition dimension first (R372). -/
def geDims (e : Nat) : List Nat := (gePartList e).length :: (geAxes e).map (geExt e)

/-- The coordinate of a node along axis `a` as groups count it: in switched mode axis 0 is the node ID (R371). -/
def State.groupCoord (s : State) (node a : Nat) : Nat :=
  if s.fget FAB_TOPO_NAXES = 0 then (if a = 0 then node else 0) else s.coord node a

/-- SIZE_a as groups count it (R371). -/
def State.groupSize (s : State) (a : Nat) : Nat :=
  if s.fget FAB_TOPO_NAXES = 0 then (if a = 0 then 65535 else 0) else s.axisSize a

/-- May axis `a` be a RANGE axis: below NAXES, or axis 0 in switched mode (R370, R371)? -/
def State.groupAxis (s : State) (a : Nat) : Bool :=
  if s.fget FAB_TOPO_NAXES = 0 then a == 0 else decide (a < s.fget FAB_TOPO_NAXES)

/-- Does an axis of an entry keep R370? -/
def State.axisLegal (s : State) (e a : Nat) : Bool :=
  if geKind e a = 0 then geLo e a == 0 && geExt e a == 0 && geStride e a == 0
  else geKind e a == 1 && s.groupAxis a && decide (1 ≤ geExt e a) && decide (1 ≤ geStride e a) &&
    decide (geLo e a + (geExt e a - 1) * geStride e a < s.groupSize a)

/-- The index vector of partition `part` of `node`, if that is a member (R371, R372). -/
def State.indexOf (s : State) (e node part : Nat) : Option (List Nat) :=
  let ks := (geAxes e).map fun a =>
    let c := s.groupCoord node a
    if geLo e a ≤ c ∧ (c - geLo e a) % geStride e a = 0 ∧ (c - geLo e a) / geStride e a < geExt e a then some ((c - geLo e a) / geStride e a) else none
  let fixed := [0, 1, 2, 3].all fun a => geKind e a == 1 || !s.groupAxis a || s.groupCoord node a == s.groupCoord s.node a
  if bit (geParts e) part && fixed && ks.all Option.isSome then some ((gePartList e).idxOf part :: ks.map (·.getD 0)) else none

/-- The switch ports of the device that are up. -/
def State.switchPorts (s : State) : List Nat := (List.range 18).filter fun p => s.portUp p && s.flag (FAB_PORT_STAT_PEER_SWITCH p)

/-- TCN_SWITCH.TINCAN: every switch port advertises Tin-Can combining. -/
def State.switchTincan (s : State) : Bool := s.switchPorts != [] && s.switchPorts.all fun p => (s.port p).adTincan

/-- TCN_SWITCH.WIN_LOG2: the smallest advertised window; 0: no reduction. -/
def State.switchWin (s : State) : Nat :=
  match s.switchPorts with
  | [] => 0
  | p :: t => t.foldl (fun m q => min m (s.port q).adWin) (s.port p).adWin

/-- Is entry `e` of the table valid for partition `p` of this device, among all entries (R370)? -/
def State.entryValid (s : State) (p e : Nat) (all : List Nat) : Bool :=
  let switched := s.fget FAB_TOPO_NAXES == 0
  bits e 38 2 == 0 && bits e 48 16 == 0 && bits e 352 160 == 0 && ([0, 1, 2, 3].all fun a => s.axisLegal e a && bits e (114 + 64 * a) 14 == 0) &&
    decide (1 ≤ geMembers e) && decide (geMembers e ≤ 32768) && geMembers e == (geDims e).foldl (· * ·) 1 && (s.indexOf e s.node p).isSome &&
    (if geSwitch e then switched && decide (21 ≤ geWin e) && decide (geWin e ≤ 26) && decide (geWin e ≤ s.switchWin) else geWin e == 0) &&
    (!geTincan e || !switched || s.switchTincan) && decide ((all.filter fun x => geGid x == geGid e).length ≤ 1)

/-- The rank of an index vector: mixed radix, the first dimension least significant (R372). -/
def rankOf : List Nat → List Nat → Nat
  | l :: ls, i :: is => i + l * rankOf ls is
  | _, _ => 0

/-- The index vector of a rank. -/
def vecOf : List Nat → Nat → List Nat
  | [], _ => []
  | l :: ls, r => r % l :: vecOf ls (r / l)

/-- The rank of partition `p` of this device in the group of an entry. -/
def State.myRank (s : State) (e p : Nat) : Nat := rankOf (geDims e) ((s.indexOf e s.node p).getD [])

/-- The rank of a sender, if it is a member. -/
def State.senderRank (s : State) (e node part : Nat) : Option Nat := (s.indexOf e node part).map (rankOf (geDims e))

/-- The node and partition of the member with a rank (R371). -/
def State.memberAt (s : State) (e r : Nat) : Nat × Nat :=
  let v := vecOf (geDims e) r
  let axes := geAxes e
  let coord := fun a => if axes.contains a then geLo e a + v.getD (1 + axes.idxOf a) 0 * geStride e a else s.groupCoord s.node a
  let node := if s.fget FAB_TOPO_NAXES = 0 then coord 0
    else (List.range (s.fget FAB_TOPO_NAXES)).foldl (fun n a => n + coord a * s.axisStride a) 0
  (node, (gePartList e).getD (v.getD 0 0) 0)

/-! ## The descriptor (R377) -/

/-- Is the descriptor a collective with operation `op`? -/
def isColl (op raw : Nat) : Bool := dClass raw == 0x05 && dfield raw 32 0 8 == op
/-- OP. -/
def coOp (raw : Nat) : Nat := dfield raw 32 0 8
/-- DTYPE. -/
def coType (raw : Nat) : Nat := dfield raw 33 0 2
/-- ROP. -/
def coRop (raw : Nat) : Nat := dfield raw 33 2 3
/-- TKIND. -/
def coTkind (raw : Nat) : Nat := dfield raw 33 5 2
/-- GROUP. -/
def coGroup (raw : Nat) : Nat := dfield raw 34 0 8
/-- COUNT. -/
def coCount (raw : Nat) : Nat := dfield raw 36 0 32
/-- SRC. -/
def coSrc (raw : Nat) : Nat := dfield raw 40 0 64
/-- DST. -/
def coDst (raw : Nat) : Nat := dfield raw 48 0 64
/-- SCRATCH. -/
def coScratch (raw : Nat) : Nat := dfield raw 56 0 64
/-- ROOT. -/
def coRoot (raw : Nat) : Nat := dfield raw 64 0 32
/-- WORDOPS. -/
def coWordops (raw : Nat) : Nat := dfield raw 68 0 32
/-- TENSOR_ID. -/
def coTensor (raw : Nat) : Nat := dfield raw 72 0 20
/-- COL0. -/
def coCol0 (raw : Nat) : Nat := dfield raw 76 0 32
/-- DROP_BLK. -/
def coBlk (raw : Nat) : Nat := dfield raw 80 0 128
/-- HEALTH_ADDR. -/
def coHealth (raw : Nat) : Nat := dfield raw 96 0 64

/-- Is the operation one of the Tin-Can engine? -/
def coTc (raw : Nat) : Bool := decide (5 ≤ coOp raw)
/-- Does the operation reduce? -/
def coReduces (raw : Nat) : Bool := decide (coOp raw ≤ 1)
/-- Is it a BF16 SUM? -/
def coBf16Sum (raw : Nat) : Bool := coReduces raw && coType raw == 1 && coRop raw == 0
/-- s: the bytes of an element (R378). -/
def coSize (raw : Nat) : Nat := match coType raw with | 0 => 4 | 1 => 2 | 2 => 8 | _ => 1
/-- a: the bytes of an accumulator value (R378). -/
def coAcc (raw : Nat) : Nat := if coType raw = 2 then 8 else 4

/-- The elements of the reduced buffer: COUNT, or MEMBERS × COUNT for a REDUCE_SCATTER. -/
def coTotal (raw n : Nat) : Nat := if coOp raw = 1 then n * coCount raw else coCount raw

/-- Does the member with rank `i` use SRC (R378)? -/
def coReads (raw i : Nat) : Bool := coOp raw != 5 && (coOp raw != 3 || coRoot raw == i)
/-- The bytes read at SRC. -/
def coSrcLen (raw n : Nat) : Nat :=
  match coOp raw with
  | 1 => n * coCount raw * coSize raw
  | 4 => n * coCount raw * coSize raw
  | 5 => 0
  | 6 => 64
  | 7 => 64
  | _ => coCount raw * coSize raw
/-- Where the bytes read begin: FP_EXCHANGE reads bytes 64 to 127 of the step record. -/
def coSrcAt (raw : Nat) : Nat := if coOp raw = 7 then coSrc raw + 64 else coSrc raw
/-- The bytes written at DST. -/
def coDstLen (raw n : Nat) : Nat :=
  match coOp raw with
  | 2 => n * coCount raw * coSize raw
  | 4 => n * coCount raw * coSize raw
  | 5 => 0
  | 6 => 64
  | 7 => 0
  | _ => coCount raw * coSize raw
/-- The bytes of SCRATCH. -/
def coScratchLen (raw n : Nat) : Nat :=
  match coOp raw with
  | 0 => coCount raw * coAcc raw
  | 1 => n * coCount raw * coAcc raw
  | 7 => 64 * n
  | _ => 0

/-- Step 1 of R90 for a collective (R377); body bytes that no table lists are reserved too (DEDUCED, log entry 28). -/
def coStep1 (raw : Nat) : Bool :=
  dRegion raw == 0 && dSlot raw == 0 && decide (coOp raw ≤ 7) && decide (coRop raw ≤ 4) && coTkind raw != 3 && dfield raw 33 7 1 == 0 &&
    dfield raw 35 0 8 == 0 && dfield raw 74 4 4 == 0 && dfield raw 75 0 8 == 0 && dfield raw 104 0 192 == 0 && blkLegal (coBlk raw) &&
    (coOp raw != 6 || (coWordops raw != 0 && (List.range 8).all fun w => decide (bits (coWordops raw) (4 * w) 4 ≤ 8))) &&
    [coSrc raw, coDst raw, coScratch raw, coHealth raw].all fun a => decide (a < 2 ^ 48)

/-- A collective with a COUNT of 0 is a no-operation, but for those of the Tin-Can engine (R377, R378). -/
def coNoop (raw : Nat) : Bool := !coTc raw && coCount raw == 0

/-- The fields that the operation does not use are 0 (R377, R379). -/
def coUnused (raw : Nat) : Bool :=
  (coReduces raw || coRop raw == 0) && (coBf16Sum raw || (coTkind raw == 0 && coTensor raw == 0 && coCol0 raw == 0 && coHealth raw == 0)) &&
    (coOp raw != 5 || coSrc raw == 0) && (coDstLen raw 1 != 0 || decide (coOp raw ≤ 4) || coDst raw == 0) &&
    (coReduces raw || coOp raw == 7 || coScratch raw == 0) && (coOp raw == 3 || coRoot raw == 0) && (coOp raw == 6 || coWordops raw == 0)

/-- The rest of the checks of R377 to R379 that need no translation: `n` MEMBERS, `i` the own rank. -/
def coStep5 (raw n i : Nat) : Bool :=
  coUnused raw && (if coOp raw = 6 then coCount raw == 64 else decide (coOp raw ≤ 4) || coCount raw == 0) &&
    (!coReduces raw || (if coType raw = 2 then true else decide (coType raw ≤ 1) && decide (coRop raw ≤ 2))) &&
    (!coReads raw i || coSrc raw % 128 == 0) && coDst raw % 128 == 0 && coScratch raw % 128 == 0 && decide (coRoot raw < n) &&
    decide (n * coCount raw * coSize raw ≤ 2 ^ 40) && blkRelates (coBlk raw)

/-- The kept entry of a descriptor's group. -/
def State.entryOf (s : State) (p raw : Nat) : Nat := (s.part p).coll.groups.getD (coGroup raw) 0

/-- Steps 4 and 5 of R90 for a collective (R377 to R379). -/
def coFetch (s : State) (p raw : Nat) : Fetched (List Nat) := do
  let q := (s.part p).coll
  let e := s.entryOf p raw
  Fetched.check (decide (coGroup raw < q.groups.length) && s.entryValid p e q.groups)
  let n := geMembers e
  let i := s.myRank e p
  let src ← if coReads raw i then s.xlateRange p (coSrcAt raw) (coSrcLen raw n) false else pure []
  let dst ← s.xlateRange p (coDst raw) (coDstLen raw n) true
  let scr ← s.xlateRange p (coScratch raw) (coScratchLen raw n) true
  let h ← s.healthDpa p (coHealth raw) true
  let mayAlias := (coOp raw == 0 || coOp raw == 6) && coSrc raw == coDst raw
  Fetched.check (coStep5 raw n i && healthFits (coHealth raw) h && (scr.all fun x => s.inShare p x.1) && (mayAlias || !rangesMeet src dst) &&
    !rangesMeet src scr && !rangesMeet dst scr && !(blkEn (coBlk raw) && blkNode (coBlk raw) == s.node && blkPart (coBlk raw) == p))
  pure []

/-- CHECK (R383), as partition `p` computes it when the collective starts. -/
def State.collCheck (s : State) (p raw e : Nat) : Nat :=
  let body := (natLe 48 (raw / 2 ^ 256)).zipIdx.map fun (b, i) => if 8 ≤ i ∧ i < 32 then 0 else b
  let rng := if coBf16Sum raw ∧ coTkind raw = 2 then natLe 8 (s.seedOf p) ++ natLe 8 (s.stepOf p) else []
  crc32 (body ++ natLe 40 (e / 2 ^ 32) ++ rng)

/-! ## Combining (R374, R375, R388) -/

/-- The larger or smaller of two 64-bit two's complement words. -/
def smax64 (a b : Nat) : Nat := if sext 64 a < sext 64 b then b else a
/-- The smaller. -/
def smin64 (a b : Nat) : Nat := if sext 64 b < sext 64 a then b else a

/-- Two accumulator values combined, the lower index left (R375). -/
def coCombine (type rop a b : Nat) : Nat :=
  if type = 2 then
    match rop with
    | 0 => (a + b) % 2 ^ 64
    | 1 => smax64 a b
    | 2 => smin64 a b
    | 3 => Nat.lor a b
    | _ => Nat.land a b
  else
    match rop with
    | 0 => fadd32 a b
    | 1 => fmax32 a b
    | _ => fmin32 a b

/-- A contribution as an accumulator value: BF16 is widened (R375). -/
def coWiden (type x : Nat) : Nat := if type = 1 then widen32 0 x 0 else x

/-- Two FP32 lanes of a word combined. -/
def lanes2 (f : Nat → Nat → Nat) (a b : Nat) : Nat := f (bits a 0 32) (bits b 0 32) + f (bits a 32 32) (bits b 32 32) * 2 ^ 32

/-- Two 64-bit words combined under a word operation (R388). -/
def wordOp (op a b : Nat) : Nat :=
  match op with
  | 1 => (a + b) % 2 ^ 64
  | 2 => smax64 a b
  | 3 => smin64 a b
  | 4 => Nat.lor a b
  | 5 => Nat.land a b
  | 6 => lanes2 fadd32 a b
  | 7 => lanes2 fmax32 a b
  | 8 => lanes2 fmin32 a b
  | _ => a

/-- The word operations of a Tin-Can operation: WORDOPS; OR everywhere for the fingerprint exchange (R390). -/
def coOps (raw : Nat) : Nat := if coOp raw = 7 then 0x44444444 else coWordops raw

/-- Two 64-byte values combined word by word. -/
def combine64 (ops : Nat) (a b : List Byte) : List Byte :=
  (List.range 8).flatMap fun w => natLe 8 (wordOp (bits ops (4 * w) 4) (leNat ((a.drop (8 * w)).take 8)) (leNat ((b.drop (8 * w)).take 8)))

/-! ## The Tin-Can tree (R374, R387) -/

/-- ⌈log2 L⌉. -/
def clog2 (l : Nat) : Nat := if l ≤ 1 then 0 else log2F 64 (l - 1) + 1

/-- The steps below which index `x` leads its node: its trailing zeros, all of a dimension's for 0. -/
def leads (l x : Nat) : Nat := if x = 0 then clog2 l else ((List.range (clog2 l)).find? fun m => bit x m).getD 0

/-- An index vector with the index of dimension `d` replaced. -/
def setIdx (v : List Nat) (d x : Nat) : List Nat := v.set d x

/-- The members whose partials a member combines, in order (R374): dimension by dimension, level by level. -/
def treeKids (dims v : List Nat) : List Nat :=
  (List.range dims.length).flatMap fun d =>
    let l := dims.getD d 1
    let x := v.getD d 0
    if (v.take d).all (· == 0) then
      ((List.range (leads l x)).filter fun m => decide (x + 2 ^ m < l)).map fun m => rankOf dims (setIdx v d (x + 2 ^ m))
    else []

/-- The member to which a member's partial goes; none at the root. -/
def treeUp (dims v : List Nat) : Option Nat :=
  ((List.range dims.length).find? fun d => v.getD d 0 != 0).map fun d =>
    rankOf dims (setIdx v d (v.getD d 0 - 2 ^ leads (dims.getD d 1) (v.getD d 0)))

/-! ## Recursive halving (R384; log entry 40) -/

/-- The steps of a group: dimension and bit, the innermost dimension first (R384). -/
def haSteps (dims : List Nat) : List (Nat × Nat) :=
  dims.zipIdx.flatMap fun (l, d) => (List.range (clog2 l)).map fun k => (d, k)

/-- The member that holds the share of index `v` of a dimension of length `l`: `v` itself, or for an absent one the member that kept its
share unchanged for want of a partner. -/
def haRep (l : Nat) : Nat → Nat → Nat
  | 0, v => v
  | f + 1, v =>
    if v < l then v
    else
      match (List.range 17).find? fun m => decide (v / 2 ^ m * 2 ^ m < l) with
      | some m => haRep l f (v - 2 ^ (m - 1))
      | none => v

/-- The partners of index `x` in step `k`: the partner's index, and the lower index of the pair. -/
def haPairs (l k x : Nat) : List (Nat × Nat) :=
  if bit x k then
    ((List.range l).filter fun v => !bit v k && decide ((v + 2 ^ k) / 2 ^ k * 2 ^ k < l) && haRep l 17 (v + 2 ^ k) == x).map fun v => (v, v)
  else if (x + 2 ^ k) / 2 ^ k * 2 ^ k < l then [(haRep l 17 (x + 2 ^ k), x)] else []

/-- The pieces that a pair divides in step (d, k) with lower index `low`: those of the ranks that share the member's indices below `d`
and the low bits of `low`, on the side of bit `k` that `up` names. -/
def haPieces (dims v : List Nat) (d k low : Nat) (up : Bool) : List Nat :=
  (List.range (dims.foldl (· * ·) 1)).filter fun t =>
    let w := vecOf dims t
    w.take d == v.take d && w.getD d 0 % 2 ^ k == low % 2 ^ k && bit (w.getD d 0) k == up

/-- An exchange of a phase: the partner's rank, the pieces sent to it and received from it, whether the partner's value is the left
operand, and the ranks whose contributions to a piece the member and the partner hold by then (an ALL_TO_ALL sends the block of each). -/
structure Exchange where
  peer : Nat
  out : List Nat
  into : List Nat
  left : Bool
  mine : List Nat
  theirs : List Nat
deriving DecidableEq, Repr

/-- Has the side of a pair received the root's data by step (d, k) of a BROADCAST: is the root below it? -/
def haHasRoot (dims v : List Nat) (root d k side : Nat) : Bool :=
  let r := vecOf dims root
  r.drop (d + 1) == v.drop (d + 1) && r.getD d 0 / 2 ^ k == side / 2 ^ k

/-- The exchanges of a reduce step; in a BROADCAST only the root's data moves. -/
def haReduce (dims v : List Nat) (bcast : Option Nat) (d k : Nat) : List Exchange :=
  let x := v.getD d 0
  (haPairs (dims.getD d 1) k x).map fun (y, low) =>
    let up := bit x k
    let peer := rankOf dims (setIdx v d y)
    let mine := haPieces dims v d k low up
    let theirs := haPieces dims v d k low (!up)
    let side := fun (b : Bool) (r : Nat) => haHasRoot dims v r d k (if b then low + 2 ^ k else low)
    let ranks := List.range (dims.foldl (· * ·) 1)
    match bcast with
    | none => ⟨peer, theirs, mine, up, ranks.filter (side up), ranks.filter (side (!up))⟩
    | some r => ⟨peer, if side up r then theirs else [], if side (!up) r then mine else [], up, [], []⟩

/-- The exchanges of a gather step: a reduce step reversed. -/
def haGather (dims v : List Nat) (d k : Nat) : List Exchange :=
  (haReduce dims v none d k).map fun x => { x with out := x.into, into := x.out }

/-- The phases of a bulk collective at the member with rank `i`: its exchanges, and whether values are combined in it. The blocks of an
ALL_TO_ALL take the reduce steps, uncombined: each halving sends on the blocks for the members of the other half. -/
def haPhases (op : Nat) (dims : List Nat) (root i : Nat) : List (List Exchange × Bool) :=
  let v := vecOf dims i
  let st := haSteps dims
  let reduce := fun b c => st.map fun (d, k) => (haReduce dims v b d k, c)
  let gather := st.reverse.map fun (d, k) => (haGather dims v d k, false)
  match op with
  | 0 => reduce none true ++ gather
  | 1 => reduce none true
  | 3 => reduce (some root) false ++ gather
  | 4 => reduce none false
  | _ => gather

end Sys2Proof.Machine
end

