-- ==== Sys2Proof/Machine/Collective.lean ====
section
/-! DEFINITION. The collective engines: starting, the bulk path and its flits (R380 to R385), the Tin-Can path (R387, R388), the fingerprint
exchange (R390), faults (R391 to R393). -/
namespace Sys2Proof.Machine

/-! ## Engines and flits -/

/-- The collective that an engine of partition `p` runs: the Tin-Can engine's with `tc`, else the bulk engine's. -/
def State.engine (s : State) (p : Nat) (tc : Bool) : Option Coll := if tc then (s.part p).coll.tc else (s.part p).coll.bulk

/-- The state with an engine's collective set. -/
def State.setEngine (s : State) (p : Nat) (tc : Bool) (x : Option Coll) : State :=
  s.updPart p fun q => { q with coll := if tc then { q.coll with tc := x } else { q.coll with bulk := x } }

/-- Is the collective an operation of the Tin-Can engine that takes the bulk path (R387: the group's TINCAN is 0)? -/
def Coll.onBulk (x : Coll) : Bool := coTc x.raw && !geTincan x.entry

/-- Is the collective of an engine one whose values travel over the Tin-Can tree just now? -/
def Coll.inTree (x : Coll) : Bool := coTc x.raw && geTincan x.entry && !x.ident

/-- Is it one whose 64-byte value goes through the phases of R384 just now (R387)? -/
def Coll.small (x : Coll) : Bool := x.onBulk && !x.ident

/-- MEMBERS of the collective's group. -/
def Coll.members (x : Coll) : Nat := geMembers x.entry

/-- The leading cause of partition `p` at this moment (R60, R391): its stall times so far, which the clock counts, and the collective wait of
the beat as inherited. -/
def State.leadCause (s : State) (p : Nat) : Nat := causeOf 1 (s.stallsWith p (Config.stallsNow s.freeCtr))

/-- The 16-byte header of R382, with the sender's leading cause (R391). -/
def collHeader (x : Coll) (kind phase cause : Nat) : List Byte :=
  natLe 1 (kind + 16 * (phase % 16)) ++ natLe 1 cause ++ natLe 2 0 ++ natLe 4 (geGid x.entry) ++ natLe 4 x.seq ++ natLe 4 x.check

/-- What stops a collective that sends or reads: no route to a node (R357), an uncorrectable sector (R331). -/
inductive CollStop
  | noRoute (node : Nat)
  | uncorr (sector : Nat)
deriving DecidableEq, Repr

/-- What sending to members or reading for them gives: what it leaves, or the state that it leaves with what stopped it. -/
abbrev Sent (α : Type) := Except (State × CollStop) α

/-- A collective that was stopped (R331, R357, R392). -/
def State.collStopped (s : State) (p : Nat) (x : Coll) : CollStop → State
  | .noRoute n => (s.logNoRoute p n).collFault p x .noRoute { unit := unitHub, log := n }
  | .uncorr a => s.collFault p x .memUncorr (s.uncorrCause a)

/-- One flit of collective `x` of partition `p` toward a member (R382, R387). -/
def State.sendCollFlit (s : State) (p : Nat) (x : Coll) (typ vc : Nat) (dest : Nat × Nat) (kind phase addr : Nat) (data : List Byte) : Sent State :=
  match s.tick.sendFlit (s.mkFlit typ vc p dest.1 dest.2 0 addr (collHeader x kind phase (s.leadCause p) ++ data)) with
  | some t => .ok t
  | none => .error (s, .noRoute dest.1)

/-- Data of a phase toward a member, in DATA flits of at most 208 bytes (R382). -/
def State.sendCollData (s : State) (p : Nat) (x : Coll) (dest : Nat × Nat) (phase addr : Nat) : Nat → List Byte → Sent State
  | 0, _ => .ok s
  | fuel + 1, data =>
    if data = [] then .ok s
    else do
      let t ← s.sendCollFlit p x 4 0 dest 1 phase addr (data.take 208)
      t.sendCollData p x dest phase (addr + 208) fuel (data.drop 208)

/-- Memory that a running collective reads: its damaged sectors are decoded (R328, R331). -/
def State.collRead (s : State) (p va n : Nat) : Sent (State × List Byte) :=
  match s.readFor p (s.dpaRange p va n) with
  | (t, some a) => .error (t, .uncorr a)
  | (t, none) => .ok (t, t.vload p va n)

/-! ## Pieces -/

/-- The phases of the collective at its member (R384). The identification of outliers is an ALL_GATHER, which follows the phases of the
exchange where those were on the bulk path (R390). -/
def State.collPhases (s : State) (p : Nat) (x : Coll) : List (List Exchange × Bool) :=
  let of := fun op => haPhases op (geDims x.entry) (coRoot x.raw) (s.myRank x.entry p)
  if coTc x.raw then (if x.onBulk then of 0 else []) ++ (if x.ident then of 2 else []) else of (coOp x.raw)

/-- The elements of piece `t`: the first and how many. A 64-byte value is eight words. -/
def Coll.piece (x : Coll) (t : Nat) : Nat × Nat :=
  let cut := fun n => (t * n / x.members, (t + 1) * n / x.members - t * n / x.members)
  if x.ident then (t, 1)
  else if coTc x.raw then cut 8
  else if coOp x.raw = 0 ∨ coOp x.raw = 3 then cut (coCount x.raw)
  else (t * coCount x.raw, coCount x.raw)

/-- Where the data of a phase lands, and the bytes of an element there: partial sums in SCRATCH, other data at DST, member records in
SCRATCH (R384, R390); the words of a small value in the engine itself. -/
def Coll.land (x : Coll) (combine : Bool) : Nat × Nat :=
  if x.ident then (coScratch x.raw, 64)
  else if coTc x.raw then (0, 8)
  else if combine then (coScratch x.raw, coAcc x.raw) else (coDst x.raw, coSize x.raw)

/-- The extent that a member announces for a phase (R382): the whole of SCRATCH or DST. -/
def Coll.extent (x : Coll) (combine : Bool) : Nat × Nat :=
  ((x.land combine).1,
    if x.small then 64 else if x.ident ∨ combine then coScratchLen x.raw x.members else coDstLen x.raw x.members)

/-- Does the engine itself hold what a phase sends and receives: the words of a small value, the blocks of an ALL_TO_ALL? -/
def Coll.holds (x : Coll) : Bool := x.small || coOp x.raw == 4

/-- The bytes of a set of pieces in a phase; of an ALL_TO_ALL, a block for each of the sources. -/
def Coll.bytesOf (x : Coll) (combine : Bool) (ts srcs : List Nat) : Nat :=
  ts.foldl (fun n t => n + (x.piece t).2 * (x.land combine).2) 0 * (if coOp x.raw = 4 then srcs.length else 1)

/-- The bytes that an exchange sends in a phase. -/
def Coll.outBytes (x : Coll) (combine : Bool) (e : Exchange) : Nat := x.bytesOf combine e.out e.mine

/-- The bytes that an exchange receives in a phase. -/
def Coll.inBytes (x : Coll) (combine : Bool) (e : Exchange) : Nat := x.bytesOf combine e.into e.theirs

/-- The block of an ALL_TO_ALL from rank `j` to rank `t`: its place among the blocks that the engine holds. -/
def Coll.block (x : Coll) (j t : Nat) : Nat := j * x.members + t

/-- What an exchange of a phase sends of the bytes that the engine holds: the words of a small value, the blocks of an ALL_TO_ALL. -/
def Coll.stream (x : Coll) (e : Exchange) : List Byte :=
  if x.small then e.out.flatMap fun t => ((x.vals.drop (x.piece t).1).take (x.piece t).2).flatMap (natLe 8)
  else e.out.flatMap fun t => e.mine.flatMap fun j => mgetD x.slots (x.block j t) []

/-- What a member sends of piece `t` out of its values or memory, to a partner whose extent begins at `base`: the address and the bytes. -/
def State.pieceData (s : State) (p : Nat) (x : Coll) (combine : Bool) (base t : Nat) : Sent (State × Nat × List Byte) :=
  let r := x.piece t
  let u := (x.land combine).2
  if combine then .ok (s, base + r.1 * u, ((x.vals.drop r.1).take r.2).flatMap (natLe u))
  else do
    let y ← s.collRead p ((x.land combine).1 + r.1 * u) (r.2 * u)
    .ok (y.1, base + r.1 * u, y.2)

/-- Pieces toward a partner. -/
def State.sendPieces (s : State) (p : Nat) (x : Coll) (combine : Bool) (dest : Nat × Nat) (base : Nat) : List Nat → Sent State
  | [] => .ok s
  | t :: ts => do
    let d ← s.pieceData p x combine base t
    let s' ← d.1.sendCollData p x dest x.phase d.2.1 (d.2.2.length + 1) d.2.2
    s'.sendPieces p x combine dest base ts

/-- What an exchange sends toward a partner whose extent begins at `base`. -/
def State.sendExchange (s : State) (p : Nat) (x : Coll) (combine : Bool) (base : Nat) (e : Exchange) : Sent State :=
  let dest := s.memberAt x.entry e.peer
  if x.holds then s.sendCollData p x dest x.phase base (x.outBytes combine e + 1) (x.stream e) else s.sendPieces p x combine dest base e.out

/-! ## Results and the end -/

/-- The values of a narrowed element: its bytes and what it counts (R375). -/
def State.narrowRoot (s : State) (p : Nat) (x : Coll) (e v : Nat) : Nat × Health :=
  match coType x.raw with
  | 0 => (canon32 v, .none)
  | 1 =>
    let g : Rng := ⟨s.seedOf p, x.step, coTensor x.raw⟩
    narrowPlain 0 (coTkind x.raw) v (g.conv 0 (coCol0 x.raw + e))
  | _ => (v, .none)

/-- The member writes the root values that it holds at DST, narrowed once, and counts them (R381, R384). `lo` and `n` are their
place in the reduced buffer, `at_` their first element at DST. -/
def State.writeRoot (s : State) (p : Nat) (x : Coll) (lo n at_ : Nat) : State × Coll :=
  let ys := ((x.vals.drop lo).take n).zipIdx.map fun (v, j) => s.narrowRoot p x (lo + j) v
  (s.vstore p (coDst x.raw + at_ * coSize x.raw) (ys.flatMap fun y => natLe (coSize x.raw) y.1) (.desc p x.id),
    { x with health := ys.foldl (fun h y => h.plus y.2) x.health })

/-- The root values of the member's own piece: piece `i` of an ALL_REDUCE in its place, block `i` of a REDUCE_SCATTER at DST. -/
def State.writeOwnRoot (s : State) (p : Nat) (x : Coll) : State × Coll :=
  let r := x.piece (s.myRank x.entry p)
  s.writeRoot p x r.1 r.2 (if coOp x.raw = 1 then 0 else r.1)

/-- RESULT of a collective that completes (R378, R390). -/
def Coll.result (x : Coll) : Nat := if coOp x.raw = 7 then 0 else x.members

/-- The collective is over at this member: SCRATCH holds nothing defined, the engine is free, the remote drop leaves, and the descriptor is
ready to complete (R381). -/
def State.endColl (s : State) (p : Nat) (tc : Bool) (x : Coll) : State :=
  let s := s.each (s.dpaRange p (coScratch x.raw) (coScratchLen x.raw x.members)) fun s r => s.undef r.1 r.2
  let s := s.setEngine p tc none
  match s.originOf p x.id with
  | none => s
  | some o =>
    if blkEn (coBlk x.raw) then
      match s.sendDrop p (coBlk x.raw) 0 (.desc o x.id) with
      | some t => (t.awaitDrop o x.id (coBlk x.raw)).ranDesc o x.id true x.result
      | none => s.collStopped p x (.noRoute (blkNode (coBlk x.raw)))
    else s.ranDesc o x.id true x.result

/-- All is sent, landed and written: once the outputs are visible the member merges its health record, and once that is visible the collective
is over (R381). -/
def State.collOver (s : State) (p : Nat) (tc : Bool) (x : Coll) : State :=
  if s.glk.acksDue (.desc p x.id) then s.setEngine p tc (some x)
  else if coBf16Sum x.raw && !x.merged then
    let s := s.mergeHealth p (coHealth x.raw) x.health (coTensor x.raw) (coTkind x.raw) 0 (.desc p x.id)
    let x := { x with merged := true }
    if s.glk.acksDue (.desc p x.id) then s.setEngine p tc (some x) else s.endColl p tc x
  else s.endColl p tc x

/-- HUB_FPX_LOG as a word (R434). -/
def State.fpxLog (s : State) (p : Nat) : Nat :=
  s.fget (HUB_FPX_LOG_VALID p) * 2 ^ 63 + s.fget (HUB_FPX_LOG_SELF p) * 2 ^ 62 + s.fget (HUB_FPX_LOG_MAJORITY p) * 2 ^ 61 +
    s.fget (HUB_FPX_LOG_OUTLIERS p) * 2 ^ 32 + s.fget (HUB_FPX_LOG_FIRST_PART p) * 2 ^ 30 + s.fget (HUB_FPX_LOG_FIRST_NODE p)

/-- HUB_FPX_LOG takes the first REPLICA_DIVERGE. -/
def State.logFpx (s : State) (p : Nat) (self maj : Bool) (outliers part node : Nat) : State :=
  if s.flag (HUB_FPX_LOG_VALID p) then s
  else s.fsets [(HUB_FPX_LOG_VALID p, 1), (HUB_FPX_LOG_SELF p, b2n self), (HUB_FPX_LOG_MAJORITY p, b2n maj),
    (HUB_FPX_LOG_OUTLIERS p, min outliers 0xFFFF), (HUB_FPX_LOG_FIRST_PART p, part), (HUB_FPX_LOG_FIRST_NODE p, node)]

/-- Is a core of region `r` a working core: it holds a slot? -/
def State.holdsSlot (s : State) (r core : Nat) : Bool := (List.range 40).any fun k => s.slotCore r k == core

/-- Every working core of the partition becomes suspect (R319). -/
def State.suspectAll (s : State) (p : Nat) : State :=
  s.each (s.slotsOf p) fun s rk => s.suspect rk.1 (s.slotCore rk.1 rk.2)

/-- The majority key among member records: held by more than half of the set (R317). -/
def majorityKey (recs : List Nat) : Option Nat :=
  (recs.find? fun r => decide (recs.length < 2 * (recs.filter fun x => x % 2 ^ 256 == r % 2 ^ 256).length)).map (· % 2 ^ 256)

/-- Of two records the one with the lower node ID, then partition. -/
def lowerRec (a b : Nat) : Nat :=
  if bits b 256 16 < bits a 256 16 ∨ (bits b 256 16 = bits a 256 16 ∧ bits b 272 8 < bits a 272 8) then b else a

/-- The member records have been gathered: classification, HUB_FPX_LOG, REPLICA_DIVERGE (R317, R319, R390). -/
def State.classify (s : State) (p : Nat) (x : Coll) (recs : List Nat) : State :=
  let own := recs.getD (s.myRank x.entry p) 0
  let s := match majorityKey recs with
    | none => s.logFpx p false false 0 0 0xFFFF
    | some k =>
      let outs := recs.filter fun r => r % 2 ^ 256 != k
      let self := own % 2 ^ 256 != k
      match outs with
      | [] => s.logFpx p self true 0 0 0xFFFF
      | r :: t =>
        let f := t.foldl lowerRec r
        let s := s.logFpx p self true outs.length (bits f 272 2) (bits f 256 16)
        if self then s.suspectAll p else s
  s.collFault p x .replicaDiverge { unit := unitHub, log := s.fpxLog p }

/-- READY flits for the phase that begins, to each member that will write in it (R382). -/
def State.announce (s : State) (p : Nat) (x : Coll) (combine : Bool) : List Exchange → Sent State
  | [] => .ok s
  | e :: es =>
    if x.inBytes combine e = 0 then s.announce p x combine es
    else do
      let ext := x.extent combine
      let t ← s.sendCollFlit p x 4 0 (s.memberAt x.entry e.peer) 0 x.phase 0 (natLe 8 ext.1 ++ natLe 8 ext.2)
      t.announce p x combine es

/-- The extent that a member has announced for the phase with number `phase` (R382). -/
def Coll.announced (x : Coll) (peer phase : Nat) : Option (Nat × Nat × Nat × Nat) :=
  x.extents.find? fun r => r.1 == peer && r.2.1 == phase % 16

/-- May DATA flits leave: in the first phase only once every READY of it has come (R386)? -/
def Coll.mayLeave (x : Coll) (combine : Bool) (es : List Exchange) : Bool :=
  x.phase != 0 || es.all fun e => x.outBytes combine e == 0 || (x.announced e.peer 0).isSome

/-- The pieces of a phase leave toward each partner that has announced its extent (R382). -/
def State.sendPhase (s : State) (p : Nat) (x : Coll) (combine : Bool) : List Exchange → Sent (State × Coll)
  | [] => .ok (s, x)
  | e :: es =>
    if x.sent.contains e.peer || x.outBytes combine e == 0 then s.sendPhase p x combine es
    else
      match x.announced e.peer x.phase with
      | none => s.sendPhase p x combine es
      | some r => do
        let t ← s.sendExchange p x combine r.2.2.1 e
        t.sendPhase p { x with sent := x.sent ++ [e.peer], due := x.due + x.outBytes combine e } combine es

/-- Is a phase over: everything sent and everything landed? -/
def Coll.phaseDone (x : Coll) (combine : Bool) (es : List Exchange) : Bool :=
  es.all fun e => (x.outBytes combine e == 0 || x.sent.contains e.peer) && decide (x.inBytes combine e ≤ mgetD x.got e.peer 0)

/-- The combination of element `j`: that of R375, or the word operation of a small value (R388). -/
def Coll.combine (x : Coll) (j a b : Nat) : Nat :=
  if coTc x.raw then wordOp (bits (coOps x.raw) (4 * j) 4) a b else coCombine (coType x.raw) (coRop x.raw) a b

/-- Landed values of a piece take the place of the member's own, or are combined with them, the lower index left (R384). -/
def Coll.takePiece (x : Coll) (combine left : Bool) (t : Nat) (theirs : List Nat) : Coll :=
  let r := x.piece t
  let own := (x.vals.drop r.1).take r.2
  let new := if combine then (own.zip theirs).zipIdx.map fun (y, j) => if left then x.combine (r.1 + j) y.2 y.1 else x.combine (r.1 + j) y.1 y.2 else theirs
  { x with vals := x.vals.take r.1 ++ new ++ x.vals.drop (r.1 + r.2) }

/-- The pieces of a small value that an exchange has brought, one after another (R387). -/
def Coll.takeWords (x : Coll) (combine : Bool) (e : Exchange) : Coll :=
  (e.into.foldl (fun (y : Coll × List Byte) t =>
    let n := (x.piece t).2
    (y.1.takePiece combine e.left t ((List.range n).map fun j => leNat ((y.2.drop (8 * j)).take 8)), y.2.drop (8 * n)))
    (x, mgetD x.buf e.peer [])).1

/-- The blocks of an ALL_TO_ALL that an exchange has brought, one after another. -/
def Coll.takeBlocks (x : Coll) (e : Exchange) : Coll :=
  let n := coCount x.raw * coSize x.raw
  let got := mgetD x.buf e.peer []
  ((e.into.flatMap fun t => e.theirs.map fun j => x.block j t).zipIdx).foldl
    (fun y b => { y with slots := mset y.slots b.1 ((got.drop (b.2 * n)).take n) }) x

/-- The landed partial sums of a piece, read out of SCRATCH, are combined (R384). -/
def State.combinePiece (s : State) (p : Nat) (left : Bool) (x : Coll) (t : Nat) : Sent (State × Coll) := do
  let r := x.piece t
  let a := coAcc x.raw
  let y ← s.collRead p (coScratch x.raw + r.1 * a) (r.2 * a)
  .ok (y.1, x.takePiece true left t ((List.range r.2).map fun j => leNat ((y.2.drop (a * j)).take a)))

/-- A phase's data is taken: partial sums combined, words and blocks that the engine holds put in their places (R384). -/
def State.takePhase (s : State) (p : Nat) (x : Coll) (combine : Bool) (es : List Exchange) : Sent (State × Coll) :=
  if x.holds then .ok (s, es.foldl (fun x e => if x.small then x.takeWords combine e else x.takeBlocks e) x)
  else if combine then (es.flatMap fun e => e.into.map fun t => (e.left, t)).foldlM (fun y t => y.1.combinePiece p t.1 y.2 t.2) (s, x)
  else .ok (s, x)

/-- The phases of a bulk collective go on as far as they can (R384); `fuel` bounds the phases. -/
def State.bulkPhases (s : State) (p : Nat) : Nat → Coll → Sent (State × Coll)
  | 0, x => .ok (s, x)
  | fuel + 1, x =>
    match (s.collPhases p x)[x.phase]? with
    | none => .ok (s, { x with finished := x.due == 0 && x.owed.isEmpty })
    | some (es, c) =>
      if x.mayLeave c es = false then .ok (s, x)
      else do
        let (s, x) ← s.sendPhase p x c es
        if x.phaseDone c es = false then .ok (s, x)
        else
          let (s, x) ← s.takePhase p x c es
          let x := { x with phase := x.phase + 1, sent := [], got := [], buf := [] }
          let next := (s.collPhases p x)[x.phase]?
          let (s, x) := if coReduces x.raw ∧ c ∧ (next.map (·.2)) ≠ some true then s.writeOwnRoot p x else (s, x)
          match next with
          | none => s.bulkPhases p fuel x
          | some (es, c) => do
            let s ← s.announce p x c es
            s.bulkPhases p fuel x

/-- The phase that begins is announced, and what can go on does. -/
def State.bulkBegin (s : State) (p : Nat) (x : Coll) : Sent (State × Coll) :=
  let ph := s.collPhases p x
  match ph[x.phase]? with
  | none => s.bulkPhases p 1 x
  | some (es, c) => do
    let s ← s.announce p x c es
    s.bulkPhases p (ph.length + 2) x

/-! ## Combining in the switch (R385) -/

/-- Does the switch combine the collective (R385)? -/
def Coll.bySwitch (x : Coll) : Bool := coReduces x.raw && coType x.raw != 3 && geSwitch x.entry

/-- The bytes of all accumulator values. -/
def Coll.accBytes (x : Coll) : Nat := x.vals.length * coAcc x.raw

/-- The windows of the buffer. -/
def Coll.windows (x : Coll) : Nat := ceilDiv x.accBytes (2 ^ geWin x.entry)

/-- Where window `w` begins in the buffer, and its bytes. -/
def Coll.window (x : Coll) (w : Nat) : Nat × Nat := (w * 2 ^ geWin x.entry, min (2 ^ geWin x.entry) (x.accBytes - w * 2 ^ geWin x.entry))

/-- Has window `w` been returned whole? -/
def Coll.windowBack (x : Coll) (w : Nat) : Bool := decide ((x.window w).2 ≤ mgetD x.got w 0)

/-- The node that names the switch. -/
def switchNode : Nat := 0xFFFF

/-- The rank under which the switch's extents are kept: beyond every member's. -/
def Coll.switchRank (x : Coll) : Nat := x.members

/-- The windows that have been announced to the switch and not returned whole. -/
def Coll.inFlight (x : Coll) : List Nat := (List.range x.phase).filter fun w => !x.windowBack w

/-- Windows go to the switch in ascending order, at most two in flight: a READY with the extent in SCRATCH in which the result is to land, and,
when the switch's own READY for the window has come, its DATA; when all are back, every value is narrowed and written (R382, R385; log entry
41). -/
def State.switchGo (s : State) (p : Nat) : Nat → Coll → Sent (State × Coll)
  | 0, x => .ok (s, x)
  | fuel + 1, x =>
    let w := x.sent.length
    if x.phase < x.windows ∧ x.inFlight.length < 2 then do
      let r := x.window x.phase
      let s ← s.sendCollFlit p x 4 0 (switchNode, 0) 0 x.phase 0 (natLe 8 (coScratch x.raw + r.1) ++ natLe 8 r.2)
      s.switchGo p fuel { x with phase := x.phase + 1 }
    else if w < x.phase then
      match x.announced x.switchRank w with
      | none => .ok (s, x)
      | some e => do
        let r := x.window w
        let data := (x.vals.flatMap (natLe (coAcc x.raw)) |>.drop r.1).take r.2
        let s ← s.sendCollData p x (switchNode, 0) w e.2.2.1 (data.length + 1) data
        s.switchGo p fuel { x with sent := x.sent ++ [w], due := x.due + r.2, extents := x.extents.filter (· != e) }
    else if w = x.windows ∧ x.sent.all x.windowBack ∧ x.due = 0 ∧ x.owed = [] then do
      let y ← s.collRead p (coScratch x.raw) x.accBytes
      let a := coAcc x.raw
      let x := { x with vals := (List.range x.vals.length).map fun j => leNat ((y.2.drop (a * j)).take a), finished := true }
      .ok (if coOp x.raw = 1 then y.1.writeRoot p x (s.myRank x.entry p * coCount x.raw) (coCount x.raw) 0
        else y.1.writeRoot p x 0 (coCount x.raw) 0)
    else .ok (s, x)

/-! ## The Tin-Can engine (R387 to R390) -/

/-- A value of the tree leaves toward a member in a TINCAN flit (R387); `kind` 0 is a partial, 1 a result. -/
def State.sendValue (s : State) (p : Nat) (x : Coll) (rank kind : Nat) (v : List Byte) : Sent State :=
  s.sendCollFlit p x 3 1 (s.memberAt x.entry rank) kind 0 0 v

/-- The result goes down to each child. -/
def State.sendDown (s : State) (p : Nat) (x : Coll) (v : List Byte) : List Nat → Sent State
  | [] => .ok s
  | r :: rs => do
    let t ← s.sendValue p x r 1 v
    t.sendDown p x v rs

/-- The members whose partials this member combines. -/
def State.kids (s : State) (p : Nat) (x : Coll) : List Nat := treeKids (geDims x.entry) (vecOf (geDims x.entry) (s.myRank x.entry p))

/-- The 64-byte member record (R390). -/
def State.memberRecord (s : State) (p : Nat) (x : Coll) : List Byte :=
  ((mgetD x.slots (s.myRank x.entry p) []).take 32) ++ natLe 2 s.node ++ natLe 1 p ++ natLe 29 0

/-- Do the members agree: the AND of the halves of the result is zero (R317)? -/
def keysAgree (v : List Byte) : Bool := Nat.land (leNat (v.take 32)) (leNat (v.drop 32)) == 0

/-- The word that a word operation writes: canonical NaNs in its FP32 lanes (R165, R388). -/
def writtenWord (op w : Nat) : Nat := if 6 ≤ op then canon32 (bits w 0 32) + canon32 (bits w 32 32) * 2 ^ 32 else w

/-- The words of a TINCAN result at DST; a word whose operation is NONE is not written (R388). -/
def State.writeWords (s : State) (p : Nat) (x : Coll) (v : List Byte) : State :=
  s.each ((List.range 8).filter fun w => bits (coWordops x.raw) (4 * w) 4 != 0) fun s w =>
    s.vstore p (coDst x.raw + 8 * w) (natLe 8 (writtenWord (bits (coWordops x.raw) (4 * w) 4) (leNat ((v.drop (8 * w)).take 8)))) (.desc p x.id)

/-- The outliers are to be identified: the member's record is placed in its own SCRATCH, and the gather begins (R390). -/
def State.identify (s : State) (p : Nat) (x : Coll) : Sent (State × Coll) :=
  let x := { x with ident := true, phase := if x.onBulk then x.phase else 0, sent := [], got := [] }
  (s.vstore p (coScratch x.raw + 64 * s.myRank x.entry p) (s.memberRecord p x) (.desc p x.id)).bulkBegin p x

/-- The 64-byte result is there (R388, R390): the words are written, and the operation is over, or the exchange identifies outliers. -/
def State.takeValue (s : State) (p : Nat) (x : Coll) (v : List Byte) : Sent (State × Coll) :=
  if coOp x.raw = 7 ∧ keysAgree v = false then s.identify p { x with finished := false }
  else .ok (if coOp x.raw = 6 then s.writeWords p x v else s, { x with finished := true })

/-- The result has come up or down the tree (R387): it goes on down. -/
def State.takeResult (s : State) (p : Nat) (x : Coll) (v : List Byte) : Sent (State × Coll) := do
  let s ← s.sendDown p x v (s.kids p x)
  s.takeValue p { x with up := true } v

/-- The partial of this member's leaves and of its children's, once all have come (R374). -/
def Coll.partial_ (x : Coll) (own : Nat) (kids : List Nat) : Option (List Byte) :=
  if kids.all fun r => (mget? x.slots r).isSome then
    some (kids.foldl (fun v r => combine64 (coOps x.raw) v (mgetD x.slots r [])) (mgetD x.slots own []))
  else none

/-- The tree goes on: a complete partial goes up, and at the root it is the result (R387). -/
def State.treeGo (s : State) (p : Nat) (x : Coll) : Sent (State × Coll) :=
  let own := s.myRank x.entry p
  if x.up then .ok (s, x)
  else
    match x.partial_ own (s.kids p x) with
    | none => .ok (s, x)
    | some v =>
      match treeUp (geDims x.entry) (vecOf (geDims x.entry) own) with
      | none => s.takeResult p x v
      | some r => do
        let s ← s.sendValue p x r 0 v
        .ok (s, { x with up := true })

/-! ## An engine goes on -/

/-- LANDED flits leave for the data that has become visible (R382). -/
def State.payLanded (s : State) (p : Nat) (x : Coll) : Sent (State × Coll) := do
  if s.glk.acksDue (.desc p x.id) then .ok (s, x)
  else
    let s ← x.owed.foldlM (fun s o => s.sendCollFlit p x 4 0 (o.1, o.2.1) 2 o.2.2.1 0 (natLe 8 o.2.2.2)) s
    .ok (s, { x with owed := [] })

/-- A small value has been through its phases: it is the result (R387). -/
def State.smallDone (s : State) (p : Nat) (x : Coll) : Sent (State × Coll) :=
  if x.small && x.finished && !x.up then s.takeValue p { x with up := true } (x.vals.flatMap (natLe 8)) else .ok (s, x)

/-- The blocks of an ALL_TO_ALL lie at the member that they are for: they are written (R378). -/
def State.blocksDone (s : State) (p : Nat) (x : Coll) : State :=
  if coOp x.raw = 4 ∧ x.finished then
    s.vstore p (coDst x.raw) ((List.range x.members).flatMap fun j => mgetD x.slots (x.block j (s.myRank x.entry p)) []) (.desc p x.id)
  else s

/-- What an engine's collective does next: what it owes, then its tree, its windows or its phases. -/
def State.collStep (s : State) (p : Nat) (x : Coll) : Sent (State × Coll) := do
  let (s, x) ← s.payLanded p x
  if x.finished then .ok (s, x)
  else if x.inTree then s.treeGo p x
  else if x.bySwitch then s.switchGo p (2 * x.windows + 2) x
  else
    let (s, x) ← s.bulkPhases p ((s.collPhases p x).length + 2) x
    (s.blocksDone p x).smallDone p x

/-- An engine goes on as far as it can: a collective that has nothing left to do ends when all is visible, and the identification of outliers
ends in their classification (R381, R390). -/
def State.collGo (s : State) (p : Nat) (tc : Bool) : State :=
  match s.engine p tc with
  | none => s
  | some x =>
    match s.collStep p x with
    | .error e => (e.1.setEngine p tc (some x)).collStopped p x e.2
    | .ok (s, x) =>
      let s := s.setEngine p tc (some x)
      if x.finished = false then s
      else if x.ident then
        match (List.range x.members).foldlM (fun y t => do let z ← y.1.collRead p (coScratch x.raw + 64 * t) 64; .ok (z.1, y.2 ++ [leNat z.2])) (s, []) with
        | .ok y => y.1.classify p x y.2
        | .error e => e.1.collStopped p x e.2
      else s.collOver p tc x

/-- A collective comes to its engine: a root value that needs no phase is written (a group of one member), the first phase begins, and it goes
on (R384, R385, R387). -/
def State.collBegin (s : State) (p : Nat) (tc : Bool) (x : Coll) : State :=
  let first : Sent (State × Coll) :=
    if x.inTree ∨ x.bySwitch then .ok (s, x)
    else
      let (s, x) := if coReduces x.raw ∧ (s.collPhases p x).all (fun y => !y.2) then s.writeOwnRoot p x else (s, x)
      s.bulkBegin p x
  match first with
  | .ok (s, x) => (s.setEngine p tc (some { x with finished := false })).collGo p tc
  | .error e => (e.1.setEngine p tc (some x)).collStopped p x e.2

/-- Writes of the device have become visible: the engines go on (R381, R382, R406). -/
def State.collsGo (s : State) : State :=
  s.each allParts fun s p => ((s.collGo p false).collGo p true)

/-! ## Arriving flits -/

/-- KIND of a collective flit (R382). -/
def cfKind (f : Flit) : Nat := bits (leNat (f.payload.take 16)) 0 4
/-- PHASE. -/
def cfPhase (f : Flit) : Nat := bits (leNat (f.payload.take 16)) 4 4
/-- GID. -/
def cfGid (f : Flit) : Nat := bits (leNat (f.payload.take 16)) 32 32
/-- SEQ. -/
def cfSeq (f : Flit) : Nat := bits (leNat (f.payload.take 16)) 64 32
/-- CHECK. -/
def cfCheck (f : Flit) : Nat := bits (leNat (f.payload.take 16)) 96 32
/-- The data after the header. -/
def cfData (f : Flit) : List Byte := f.payload.drop 16

/-- Is the flit one of collective `x`? -/
def Coll.takes (x : Coll) (f : Flit) : Bool := geGid x.entry == cfGid f && x.seq == cfSeq f

/-- The started collective descriptor of a group and sequence number. -/
def State.collDesc (s : State) (q g seq : Nat) : Option Desc :=
  (s.flightOf q).find? fun d => dClass d.raw == 0x05 && d.started && !d.noop && coGroup d.raw == g && d.work.headD 0 == seq && d.work != []

/-- COLL_MISMATCH at partition `q` about a sender (R373, R383): logged, and arising from the local descriptor if it has started. -/
def State.mismatch (s : State) (q : Nat) (f : Flit) (g : Nat) (d : Option Desc) : State :=
  let tag := (d.map fun d => dTag d.raw).getD 0
  let s := s.logColl q 0 f.srcNode f.srcPart g tag
  let w : Cause := { unit := unitHub, log := collWord 0 f.srcNode f.srcPart g tag }
  match d with
  | none => s.raise q .collMismatch w
  | some d =>
    match s.originOf q d.id with
    | some o => s.descFault o d .collMismatch w
    | none => s.raise q .collMismatch w

/-- A flit of a collective that has not come to its engine is held until then (R387). -/
def State.holdEarly (s : State) (q : Nat) (f : Flit) : State := s.updPart q fun x => { x with coll := { x.coll with early := x.coll.early ++ [f] } }

/-- A collective flit of partition `q` passes the checks of its group and of CHECK (R373, R383), then `k` acts on it with its group entry's
index and the engine that runs its collective, if one does. -/
def State.collIn (s : State) (q : Nat) (f : Flit) (k : State → Nat → Option (Bool × Coll) → State) : State :=
  if s.running q = false then s.reply f 1
  else
    let c := (s.part q).coll
    match c.groups.findIdx? fun e => geGid e == cfGid f with
    | none => s.mismatch q f 0 none
    | some g =>
      let d := s.collDesc q g (cfSeq f)
      if (d.map fun d => d.work.getD 1 0 != cfCheck f).getD false then s.mismatch q f g d
      else
        match c.bulk, c.tc with
        | some x, y => if x.takes f then k s g (some (false, x)) else
          match y with
          | some z => if z.takes f then k s g (some (true, z)) else k s g none
          | none => k s g none
        | none, some z => if z.takes f then k s g (some (true, z)) else k s g none
        | none, none => k s g none

/-- Is the flit's sequence number one that the group of entry `g` has still to finish? -/
def State.seqAhead (s : State) (q g : Nat) (f : Flit) : Bool :=
  (s.collDesc q g (cfSeq f)).isSome || decide ((cfSeq f + 2 ^ 32 - mgetD (s.part q).coll.seqs g 0) % 2 ^ 32 < 2 ^ 31)

/-- CAUSE of a collective flit (R391). -/
def cfCause (f : Flit) : Nat := bits (leNat (f.payload.take 16)) 8 3

/-- An interval of collective wait ends with flit `f`: it counts as stall time of the cause that the flit carries (R391). -/
def State.countWait (s : State) (q : Nat) (f : Flit) (ns : Nat) : State :=
  if ns = 0 ∨ cfCause f = 0 then s
  else s.updPart q fun x =>
    let w := (List.range 7).map fun i => x.coll.waited.getD i 0 + (if i + 1 = cfCause f then ns else 0)
    { x with coll := { x.coll with waited := w } }

/-- The rank of the sender of a flit of collective `x`: a member's, or the switch's (R385). -/
def State.peerOf (s : State) (x : Coll) (f : Flit) : Option Nat :=
  if x.bySwitch then (if f.srcNode = switchNode then some x.switchRank else none) else s.senderRank x.entry f.srcNode f.srcPart

/-- READY: the extent that a member announces for a phase is noted, and data may leave (R382). -/
def State.takeReady (s : State) (q : Nat) (tc : Bool) (x : Coll) (f : Flit) : State :=
  match s.peerOf x f with
  | none => s
  | some r =>
    (s.setEngine q tc (some { x with extents := x.extents.filter (fun y => !(y.1 == r && y.2.1 == cfPhase f)) ++
      [(r, cfPhase f, leNat ((cfData f).take 8), leNat (((cfData f).drop 8).take 8))] })).collGo q tc

/-- A READY flit at partition `q` (R382). -/
def landReady (q : Nat) (f : Flit) (waitNs : Nat) (s : State) : State :=
  s.collIn q f fun s g x =>
    match x with
    | some (tc, x) => (s.countWait q f waitNs).takeReady q tc x f
    | none => if s.seqAhead q g f then s.holdEarly q f else s

/-- COLL_READY (R382). -/
def execCollReady (p : Fin 18) (f : Flit) (waitNs : Nat) (s : State) : Host.Outcome State Fault Refusal :=
  .next (s.flitIn p (flitAs f 4 0) (landReady f.dstPart f waitNs))

/-- Bytes laid over others from a place on. -/
def overlay (old : List Byte) (at_ : Nat) (new : List Byte) : List Byte :=
  (old ++ List.replicate (at_ - old.length) 0).take at_ ++ new ++ old.drop (at_ + new.length)

/-- The key under which the bytes of a DATA flit are counted, and the announced extent in which it must lie (R382): the sender's rank with this
phase's extent, or the window of the switch with its part of SCRATCH. -/
def State.dataPlace (s : State) (q : Nat) (x : Coll) (r : Nat) (f : Flit) : Option (Nat × Nat × Nat) :=
  if x.bySwitch then
    (x.inFlight.find? fun w => w % 16 == cfPhase f).map fun w => (w, coScratch x.raw + (x.window w).1, (x.window w).2)
  else
    match (s.collPhases q x)[x.phase]? with
    | some (es, c) =>
      if (es.any fun e => e.peer == r && x.inBytes c e != 0) ∧ cfPhase f = x.phase % 16 then some (r, x.extent c) else none
    | none => none

/-- DATA lands in its announced extent, is counted, and is reported landed once it is visible; outside it is refused (R382). -/
def State.takeData (s : State) (q : Nat) (tc : Bool) (x : Coll) (f : Flit) : State :=
  let n := (cfData f).length
  match (s.peerOf x f).bind fun r => s.dataPlace q x r f with
  | some (k, base, len) =>
    if base ≤ f.addr ∧ f.addr + n ≤ base + len then
      let s := if x.small then s else s.vstore q f.addr (cfData f) (.desc q x.id)
      let x := { x with
        got := mset x.got k (mgetD x.got k 0 + n)
        owed := x.owed ++ [(f.srcNode, f.srcPart, cfPhase f, n)]
        buf := if x.holds then mset x.buf k (overlay (mgetD x.buf k []) (f.addr - base) (cfData f)) else x.buf }
      (s.setEngine q tc (some x)).collGo q tc
    else s.reply f 2
  | none => s.reply f 2

/-- A DATA flit at partition `q`: of a member, or of a window from the switch (R382, R385). -/
def landCollData (q : Nat) (f : Flit) (waitNs : Nat) (s : State) : State :=
  s.collIn q f fun s _ x =>
    match x with
    | some (tc, x) => if x.inTree then s.reply f 2 else (s.countWait q f waitNs).takeData q tc x f
    | none => s.reply f 2

/-- COLL_DATA (R382). -/
def execCollData (p : Fin 18) (f : Flit) (waitNs : Nat) (s : State) : Host.Outcome State Fault Refusal :=
  .next (s.flitIn p (flitAs f 4 0) (landCollData f.dstPart f waitNs))

/-- LANDED: bytes that the member sent have been reported landed (R381, R382). -/
def landLanded (q : Nat) (f : Flit) (waitNs : Nat) (s : State) : State :=
  s.collIn q f fun s _ x =>
    match x with
    | some (tc, x) =>
      if x.inTree then s
      else ((s.countWait q f waitNs).setEngine q tc (some { x with due := x.due - leNat ((cfData f).take 8) })).collGo q tc
    | none => s

/-- COLL_LANDED (R382). -/
def execCollLanded (p : Fin 18) (f : Flit) (waitNs : Nat) (s : State) : Host.Outcome State Fault Refusal :=
  .next (s.flitIn p (flitAs f 4 0) (landLanded f.dstPart f waitNs))

/-- A value of the tree arrives from the member with rank `r`: a partial for its receive slot, or the result (R387). -/
def State.treeIn (s : State) (p : Nat) (x : Coll) (r kind : Nat) (v : List Byte) : State :=
  if kind = 0 then (s.setEngine p true (some { x with slots := mset x.slots r v })).collGo p true
  else if x.up && !x.finished then
    match s.takeResult p x v with
    | .ok (s, x) => (s.setEngine p true (some x)).collGo p true
    | .error e => (e.1.setEngine p true (some x)).collStopped p x e.2
  else s

/-- A TINCAN flit at partition `q` (R387): a partial or a result; an early one waits in its receive slot. -/
def landTincan (q : Nat) (f : Flit) (waitNs : Nat) (s : State) : State :=
  s.collIn q f fun s g x =>
    match x with
    | some (_, x) =>
      match s.senderRank x.entry f.srcNode f.srcPart with
      | some r => if x.inTree then (s.countWait q f waitNs).treeIn q x r (cfKind f) (cfData f) else s
      | none => s
    | none => if s.seqAhead q g f then s.holdEarly q f else s

/-- TINCAN_FLIT (R387). -/
def execTincanFlit (p : Fin 18) (f : Flit) (waitNs : Nat) (s : State) : Host.Outcome State Fault Refusal :=
  .next (s.flitIn p (flitAs f 3 1) (landTincan f.dstPart f waitNs))

/-! ## Starting (R380) -/

/-- At its start a collective takes its group's next sequence number and its CHECK; flits that came early must agree with it (R380, R383). -/
def startColl (o : Origin) (s : State) (d : Desc) : Run :=
  let p := s.originPart o
  let g := coGroup d.raw
  let e := s.entryOf p d.raw
  let n := mgetD (s.part p).coll.seqs g 0
  let c := s.collCheck p d.raw e
  let s := (s.updDesc o d.id fun x => { x with work := [n, c] }).updPart p fun q =>
    { q with coll := { q.coll with seqs := mset q.coll.seqs g ((n + 1) % 2 ^ 32) } }
  match (s.part p).coll.early.find? fun f => cfGid f == geGid e && cfSeq f == n && cfCheck f != c with
  | some f =>
    let tag := dTag d.raw
    .fault (s.logColl p 0 f.srcNode f.srcPart g tag) .collMismatch { unit := unitHub, log := collWord 0 f.srcNode f.srcPart g tag }
  | none => .going s

/-- A held flit meets its collective, now that its engine runs it. -/
def takeEarly (p : Nat) (s : State) (f : Flit) : State := if f.typ = 3 then landTincan p f 0 s else landReady p f 0 s

/-- The flits held for the engine's collective are taken, in order. -/
def State.takeEarlies (s : State) (p : Nat) (x : Coll) : State :=
  let mine := (s.part p).coll.early.filter x.takes
  let s := s.updPart p fun q => { q with coll := { q.coll with early := q.coll.early.filter fun f => !x.takes f } }
  s.each mine (takeEarly p)

/-- The end of the command that brings a collective to its engine. -/
def collRan (o : Origin) (d : Desc) (s : State) : Run :=
  match s.desc? o d.id with
  | some e => if e.ready then .done s e.result else .going s
  | none => .going s

/-- The record that an engine opens for a descriptor that it begins to run. -/
def State.openColl (s : State) (p : Nat) (d : Desc) (work vals : List Nat) : Coll :=
  { id := d.id, raw := d.raw, entry := s.entryOf p d.raw, seq := work.headD 0, check := work.getD 1 0, ident := false, step := d.step, phase := 0
    vals := vals, extents := [], sent := [], got := [], due := 0, owed := [], slots := [], buf := [], up := false, health := .none
    merged := false, finished := false }

/-- The fields of the descriptor that its start has set. -/
def State.workOf (s : State) (o : Origin) (d : Desc) : List Nat := ((s.desc? o d.id).map (·.work)).getD []

/-- Must a collective wait: its engine runs another, or one that started before it has not run (R380)? -/
def State.engineBusy (s : State) (o : Origin) (tc : Bool) (d : Desc) : Bool :=
  let p := s.originPart o
  (s.engine p tc).isSome || s.behindIn p (fun raw => dClass raw == 0x05 && coTc raw == tc) d

/-- A bulk collective runs: its contribution is read, its own part placed, and its first phase begins (R378, R384, R385). -/
def runBulk (o : Origin) (s : State) (d : Desc) : Run :=
  if s.engineBusy o false d then .wait s
  else
    let p := s.originPart o
    let raw := d.raw
    let e := s.entryOf p raw
    let n := geMembers e
    let i := s.myRank e p
    let bytes := if coReads raw i then s.vload p (coSrc raw) (coSrcLen raw n) else []
    let elems := (List.range (bytes.length / coSize raw)).map fun j => leNat ((bytes.drop (j * coSize raw)).take (coSize raw))
    let vals := if coReduces raw then elems.map (coWiden (coType raw)) else []
    let place := fun (at_ : Nat) (bs : List Byte) => s.vstore p at_ bs (.desc p d.id)
    let s := match coOp raw with
      | 2 => place (coDst raw + i * coCount raw * coSize raw) bytes
      | 3 => if coRoot raw = i then place (coDst raw) bytes else s
      | _ => s
    let x := s.openColl p d (s.workOf o d) vals
    let size := coCount raw * coSize raw
    let x := if coOp raw = 4 then { x with slots := (List.range n).map fun t => (x.block i t, (bytes.drop (t * size)).take size) } else x
    let s := s.collBegin p false x
    collRan o d (s.takeEarlies p x)

/-- The companion and DRAM ranges that a collective reads. -/
def collInputs (o : Origin) (s : State) (d : Desc) : List (Nat × Nat) :=
  let p := s.originPart o
  let e := s.entryOf p d.raw
  if coReads d.raw (s.myRank e p) then s.dpaRange p (coSrcAt d.raw) (coSrcLen d.raw (geMembers e)) else []

/-- The ranges that a collective writes. -/
def collOuts (o : Origin) (s : State) (d : Desc) : List (Nat × Nat) :=
  let p := s.originPart o
  let n := geMembers (s.entryOf p d.raw)
  s.dpaRange p (coDst d.raw) (coDstLen d.raw n) ++ s.dpaRange p (coScratch d.raw) (coScratchLen d.raw n)

/-- The start of a collective with operation `op` (R91, R380), which meets damaged sectors as `phys` says. -/
def State.startCollective (s : State) (o : Origin) (op : Nat) (phys : ReadUpset) (run : State → Desc → Run) : State :=
  (s.strike phys).startDesc o (isColl op) (collInputs o) (collOuts o) .none run (startColl o)

/-- ALL_REDUCE (R378). -/
def execAllReduce (o : Origin) (phys : ReadUpset) (s : State) : Host.Outcome State Fault Refusal := .next (s.startCollective o 0 phys (runBulk o))
/-- REDUCE_SCATTER (R378). -/
def execReduceScatter (o : Origin) (phys : ReadUpset) (s : State) : Host.Outcome State Fault Refusal := .next (s.startCollective o 1 phys (runBulk o))
/-- ALL_GATHER (R378). -/
def execAllGather (o : Origin) (phys : ReadUpset) (s : State) : Host.Outcome State Fault Refusal := .next (s.startCollective o 2 phys (runBulk o))
/-- BROADCAST (R378). -/
def execBroadcast (o : Origin) (phys : ReadUpset) (s : State) : Host.Outcome State Fault Refusal := .next (s.startCollective o 3 phys (runBulk o))
/-- ALL_TO_ALL (R378). -/
def execAllToAll (o : Origin) (phys : ReadUpset) (s : State) : Host.Outcome State Fault Refusal := .next (s.startCollective o 4 phys (runBulk o))

/-- The eight words of a 64-byte value. -/
def words8 (v : List Byte) : List Nat := (List.range 8).map fun w => leNat ((v.drop (8 * w)).take 8)

/-- The record of an operation of the Tin-Can engine with the 64-byte value `v`. -/
def State.openTree (s : State) (o : Origin) (d : Desc) (v : List Byte) : Coll :=
  let p := s.originPart o
  let x := s.openColl p d (s.workOf o d) (words8 v)
  { x with slots := [(s.myRank x.entry p, v)] }

/-- An operation of the Tin-Can engine runs with the 64-byte value `v`: early flits fill their receive slots and it goes on (R387). -/
def State.runTree (s : State) (o : Origin) (d : Desc) (v : List Byte) : Run :=
  let p := s.originPart o
  let x := s.openTree o d v
  collRan o d ((s.collBegin p true x).takeEarlies p x)

/-- BARRIER carries no value (R388). -/
def runBarrier (o : Origin) (s : State) (d : Desc) : Run := if s.engineBusy o true d then .wait s else s.runTree o d (natLe 64 0)

/-- BARRIER (R388). -/
def execBarrier (o : Origin) (s : State) : Host.Outcome State Fault Refusal := .next (s.startCollective o 5 [] (runBarrier o))

/-- TINCAN: the 64 bytes at SRC (R388). -/
def runTincan (o : Origin) (s : State) (d : Desc) : Run :=
  if s.engineBusy o true d then .wait s else s.runTree o d (s.vload (s.originPart o) (coSrc d.raw) 64)

/-- TINCAN (R388). -/
def execTincan (o : Origin) (phys : ReadUpset) (s : State) : Host.Outcome State Fault Refusal := .next (s.startCollective o 6 phys (runTincan o))

/-- The key of a step record's bytes 64 to 127, and whether the record passes (R316): NONEMPTY 1, MIXED 0. -/
def stepKey (r : Nat) : List Byte × Bool := (natLe 16 r ++ natLe 8 (bits r 192 64) ++ natLe 6 (bits r 128 48) ++ natLe 2 0, bit r 352 && !bit r 353)

/-- A member whose record fails contributes its value as far as it has a route and, on the bulk path, as its partners have announced their
extents (R390). -/
def State.contribute (s : State) (p : Nat) (x : Coll) : State :=
  let v := vecOf (geDims x.entry) (s.myRank x.entry p)
  let value := mgetD x.slots (s.myRank x.entry p) []
  if x.inTree then
    match match treeUp (geDims x.entry) v with
      | some r => s.sendValue p x r 0 value
      | none => s.sendDown p x value (s.kids p x) with
    | .ok s => s
    | .error e => e.1
  else
    let early := ((s.part p).coll.early.filter fun f => x.takes f && cfKind f == 0).filterMap fun f =>
      (s.senderRank x.entry f.srcNode f.srcPart).map fun r => (r, cfPhase f, leNat ((cfData f).take 8), leNat (((cfData f).drop 8).take 8))
    match s.bulkBegin p { x with extents := early } with
    | .ok y => y.1
    | .error e => e.1

/-- FP_EXCHANGE: the member contributes its key and its complement; one whose record fails contributes all-ones, where it has a
route, and raises REPLICA_DIVERGE (R316, R390). -/
def runFpExchange (o : Origin) (s : State) (d : Desc) : Run :=
  if s.engineBusy o true d then .wait s
  else
    let p := s.originPart o
    let k := stepKey (s.vloadNat p (coSrcAt d.raw) 64)
    if k.2 then s.runTree o d (k.1 ++ natLe 32 (2 ^ 256 - 1 - leNat k.1))
    else
      let s := s.logFpx p true false 0 0 0xFFFF
      let s := s.contribute p (s.openTree o d (natLe 64 (2 ^ 512 - 1)))
      .fault s .replicaDiverge { unit := unitHub, log := s.fpxLog p }

/-- FP_EXCHANGE (R390). -/
def execFpExchange (o : Origin) (phys : ReadUpset) (s : State) : Host.Outcome State Fault Refusal :=
  .next (s.startCollective o 7 phys (runFpExchange o))

/-! ## The group table (R368) -/

/-- The bytes of the collective group table of partition `p`. -/
def State.collTable (s : State) (p : Nat) : Nat × Nat := (s.fget (TCN_GTABLE_BASE p) * 4096, 64 * s.fget (TCN_GTABLE_COUNT p))

/-- Does it lie wholly within the partition's DRAM share or the GlaetLink window? -/
def State.collTableFits (s : State) (p : Nat) : Bool :=
  let x := s.collTable p
  x.2 == 0 || (s.inShare p x.1 && s.inShare p (x.1 + x.2 - 1)) || (inCompanion x.1 && inCompanion (x.1 + x.2 - 1))

/-- The table is read and kept, once its companion lines have come (R368); an uncorrectable sector raises MEM_UNCORR. -/
def State.loadColl (s : State) (p : Nat) : State :=
  let x := s.collTable p
  if (s.part p).coll.loaded || !s.collTableFits p then s
  else if s.fetchReady [x] = false then s.askFetch [x] (.fetch p)
  else
    let y := s.readRanges [x]
    let s := y.1.useFetch [x]
    if y.2 = false then s
    else
      let gs := (List.range (s.fget (TCN_GTABLE_COUNT p))).map fun i => s.loadNat (x.1 + 64 * i) 64
      s.updPart p fun q => { q with coll := { q.coll with groups := gs, loaded := true } }

/-- Is the table still to be read: it is in place, and lines of it have not come (R368)? -/
def State.tableDue (s : State) (p : Nat) : Bool := s.collTableFits p && !(s.part p).coll.loaded

/-- COLL_GROUP_INVALID at the first beat: for a misplaced table with its DPA, else for each entry that breaks R370 (R368). -/
def State.judgeColl (s : State) (p : Nat) : State :=
  let bad := fun (s : State) (g addr : Nat) =>
    (s.logColl p 1 0xFFFF 0 g 0).raise p .collGroupInvalid { unit := unitHub, log := collWord 1 0xFFFF 0 g 0, addr := addr }
  if s.collTableFits p = false then bad s 0 (s.collTable p).1
  else
    let gs := (s.part p).coll.groups
    s.each (gs.zipIdx.filter fun x => !s.entryValid p x.1 gs) fun s x => bad s x.2 0

end Sys2Proof.Machine
end

