-- ==== Sys2Proof/Machine/JarOps.lean ====
section
/-! DEFINITION. Jar descriptors, class 0x09 (R128, R129). -/
namespace Sys2Proof.Machine

/-- OP of a jar descriptor (R128). -/
def jarOp (raw : Nat) : Nat := dfield raw 32 0 8
/-- JAR. -/
def jarFirst (raw : Nat) : Nat := dfield raw 34 0 12
/-- N. -/
def jarN (raw : Nat) : Nat := dfield raw 36 0 32
/-- DROP_BLK. -/
def jarBlk (raw : Nat) : Nat := dfield raw 48 0 128

/-- Is the descriptor of the jar class with this operation? -/
def isJar (op raw : Nat) : Bool := dClass raw == 0x09 && jarOp raw == op

/-- Step 1 of R90 for a jar descriptor: reserved fields and encodings, the ranges of counts, the home of ALLOC (R24, R128). -/
def jarStep1 (raw : Nat) : Bool :=
  decide (jarOp raw ≤ 5) && dfield raw 33 0 8 == 0 && bits raw (8 * 34 + 12) 4 == 0 && dfield raw 40 0 64 == 0 &&
    dfield raw 64 0 512 == 0 &&
    (if jarOp raw = 5 then blkLegal (jarBlk raw) else jarBlk raw == 0) &&
    (if jarOp raw = 4 then jarN raw == 0 else true) &&
    (if jarOp raw ≤ 1 then decide (jarN raw ≤ 4096) else true) &&
    (if jarOp raw = 1 then decide (jarFirst raw + jarN raw ≤ 4096) else true) &&
    (if jarOp raw = 0 then true else dRegion raw == 0 && dSlot raw == 0)

/-- Step 5 of R90: JAR is 0 for ALLOC, the block of a remote drop is whole (R128, R130). -/
def jarStep5 (raw : Nat) : Bool :=
  (if jarOp raw = 0 then jarFirst raw == 0 else true) && (if jarOp raw = 5 then blkRelates (jarBlk raw) else true)

/-- Is a jar descriptor a no-operation: an N of 0 (R128)? PEEK has no N. -/
def jarNoop (raw : Nat) : Bool := jarOp raw != 4 && jarN raw == 0

/-- A jar operation that is misuse raises JAR_MISUSE (R126). -/
def jarMisuse (s : State) (o : Origin) (j : Nat) : Run := .fault s .jarMisuse { (checkCause o) with log := j }

/-- ALLOC: the lowest run of N free jars with the home that the header names, or the length of the longest free run (R129). -/
def runAlloc (o : Origin) (s : State) (d : Desc) : Run :=
  let p := s.originPart o
  match findRun (s.part p).jars (jarN d.raw) with
  | some j => .done (s.updPart p fun q => { q with jars := allocRun (dRegion d.raw) (dSlot d.raw) (jarN d.raw) j q.jars }) j
  | none => .done s (2 ^ 63 + longestRun (s.part p).jars)

/-- ALLOC (R129). -/
def execAlloc (o : Origin) (s : State) : Host.Outcome State Fault Refusal := .next (s.startPlain o (isJar 0) (runAlloc o))

/-- May jar `j` of partition `p` be freed (R126): allocated, with no waiting take and no held remote drop? -/
def State.freeable (s : State) (p j : Nat) : Bool :=
  match s.jar? p j with
  | some x => x.takes.isEmpty && !(s.part p).dropHeldFor j
  | none => false

/-- FREE: a run of allocated jars is released with its counts; one that is misused changes nothing (R126, R129). A home in a handover
holds it (R125). -/
def runFree (o : Origin) (s : State) (d : Desc) : Run :=
  let p := s.originPart o
  let js := (List.range (jarN d.raw)).map (· + jarFirst d.raw)
  match js.find? fun j => ((s.jar? p j).map s.homeHeld).getD false with
  | some j => .wait (s.holdOp p (.desc j o d.id))
  | none =>
    match js.find? fun j => !s.freeable p j with
    | some j => jarMisuse s o j
    | none => .done (s.updPart p fun q => { q with jars := mdrop q.jars fun j => js.contains j }) 0

/-- FREE (R129). -/
def execFree (o : Origin) (s : State) : Host.Outcome State Fault Refusal := .next (s.startPlain o (isJar 1) (runFree o))

/-- Is jar `j` of partition `p` allocated with its home in a handover (R125)? -/
def State.jarHeld (s : State) (p j : Nat) : Bool := ((s.jar? p j).map s.homeHeld).getD false

/-- DROP: N marbles into the jar (R123, R126); a home in a handover holds it (R125). -/
def runDrop (o : Origin) (s : State) (d : Desc) : Run :=
  let p := s.originPart o
  if s.jarHeld p (jarFirst d.raw) then .wait (s.holdOp p (.desc (jarFirst d.raw) o d.id))
  else
    match s.dropJar p (jarFirst d.raw) (jarN d.raw) (originUnit o) with
    | .done t => .done t 0
    | .misuse t => jarMisuse t o (jarFirst d.raw)

/-- DROP (R123). -/
def execDrop (o : Origin) (s : State) : Host.Outcome State Fault Refusal := .next (s.startPlain o (isJar 2) (runDrop o))

/-- TAKE_NOW: N marbles, only if the take succeeds at once; otherwise JAR_MISUSE (R124, R126). -/
def runTakeNow (o : Origin) (s : State) (d : Desc) : Run :=
  let p := s.originPart o
  match s.jar? p (jarFirst d.raw) with
  | none => jarMisuse s o (jarFirst d.raw)
  | some x =>
    if s.homeHeld x then .wait (s.holdOp p (.desc (jarFirst d.raw) o d.id))
    else
      match x.tryTake (jarN d.raw) with
      | some y => .done (s.setJar p (jarFirst d.raw) y) 0
      | none => jarMisuse s o (jarFirst d.raw)

/-- TAKE_NOW (R124). -/
def execTakeNow (o : Origin) (s : State) : Host.Outcome State Fault Refusal := .next (s.startPlain o (isJar 3) (runTakeNow o))

/-- PEEK: the count goes into RESULT (R124, R129). -/
def runPeek (o : Origin) (s : State) (d : Desc) : Run :=
  match s.jar? (s.originPart o) (jarFirst d.raw) with
  | none => jarMisuse s o (jarFirst d.raw)
  | some x =>
    if s.homeHeld x then .wait (s.holdOp (s.originPart o) (.desc (jarFirst d.raw) o d.id))
    else .done s x.count

/-- PEEK (R129). -/
def execPeek (o : Origin) (s : State) : Host.Outcome State Fault Refusal := .next (s.startPlain o (isJar 4) (runPeek o))

/-- The work of a jar descriptor at its home, by its operation: what a home performs when its handover ends (R125). -/
def runJarOp (o : Origin) (s : State) (d : Desc) : Run :=
  match jarOp d.raw with
  | 1 => runFree o s d
  | 2 => runDrop o s d
  | 3 => runTakeNow o s d
  | _ => runPeek o s d

/-- RDROP: the block's remote drop, announcing 0 bytes (R130). -/
def runRdrop (o : Origin) (s : State) (d : Desc) : Run := s.dropRun o d (jarBlk d.raw) 0 0

/-- RDROP (R130). -/
def execRdrop (o : Origin) (s : State) : Host.Outcome State Fault Refusal := .next (s.startPlain o (isJar 5) (runRdrop o))

end Sys2Proof.Machine
end

