-- ==== Sys2Proof/Machine/Jigsaw.lean ====
section
/-! DEFINITION. Jigsaw: memory and checkpoint descriptors, class 0x06 (R339 to R345). -/
namespace Sys2Proof.Machine

/-! ## The body (R340) -/

/-- Is the descriptor of the memory and checkpoint class? -/
def isJig (raw : Nat) : Bool := dClass raw == 0x06
/-- OP: 0 COPY, 1 ENCODE, 2 DECODE, 3 VERIFY. -/
def jgOp (raw : Nat) : Nat := dfield raw 32 0 8
/-- Is the descriptor of the class with this operation? -/
def isJgOp (op raw : Nat) : Bool := isJig raw && jgOp raw == op
/-- K. -/
def jgK (raw : Nat) : Nat := dfield raw 33 0 5
/-- M. -/
def jgM (raw : Nat) : Nat := dfield raw 34 0 3
/-- REMOTE. -/
def jgRemote (raw : Nat) : Bool := bit raw (34 * 8 + 7)
/-- ERASED. -/
def jgErased (raw : Nat) : Nat := dfield raw 36 0 20
/-- LEN. -/
def jgLen (raw : Nat) : Nat := dfield raw 40 0 40
/-- SRC. -/
def jgSrc (raw : Nat) : Nat := dfield raw 48 0 64
/-- DST. -/
def jgDst (raw : Nat) : Nat := dfield raw 56 0 64
/-- SHARD_ADDR. -/
def jgTable (raw : Nat) : Nat := dfield raw 64 0 64
/-- DROP_BLK. -/
def jgBlk (raw : Nat) : Nat := dfield raw 80 0 128

/-- Step 1 of R90 (R340). -/
def jgStep1 (raw : Nat) : Bool :=
  dRegion raw == 0 && dSlot raw == 0 && decide (jgOp raw ≤ 3) && decide (jgK raw ≤ 16) && dfield raw 33 5 3 == 0 && decide (jgM raw ≤ 4) &&
    dfield raw 34 3 4 == 0 && dfield raw 35 0 8 == 0 && dfield raw 36 20 12 == 0 && decide (jgLen raw ≤ 2 ^ 36) && dfield raw 45 0 24 == 0 &&
    dfield raw 72 0 64 == 0 && dfield raw 96 0 256 == 0 && blkLegal (jgBlk raw) &&
    [jgSrc raw, jgDst raw, jgTable raw].all fun a => decide (a < 2 ^ 48)

/-- Is it a no-operation (R340, R341)? -/
def jgNoop (raw : Nat) : Bool :=
  jgLen raw == 0 || (if jgOp raw = 0 then !jgRemote raw && jgSrc raw == jgDst raw else jgK raw == 0 || jgM raw == 0)

/-- The shards of the table. -/
def jgShards (raw : Nat) : List Nat := if jgOp raw = 0 then [] else List.range (jgK raw + jgM raw)

/-- Entry `i` of the shard table. -/
def shardAt (table i : Nat) : Nat := bits table (64 * i) 64

/-- Shard `i` is written (R342). -/
def jgWrites (raw i : Nat) : Bool :=
  match jgOp raw with
  | 1 => decide (jgK raw ≤ i)
  | 2 => bit (jgErased raw) i
  | _ => false

/-- The number of set bits among the 20 low ones. -/
def ones20 (n : Nat) : Nat := ((List.range 20).filter (bit n)).length

/-- The checks of R340 and R341 on the fields alone: step 5. -/
def jgStep5 (raw table : Nat) : Bool :=
  jgLen raw % 128 == 0 && (jgOp raw == 2 || jgErased raw == 0) &&
    (if jgOp raw = 0 then
      jgK raw == 0 && jgM raw == 0 && jgTable raw == 0 && jgSrc raw % 128 == 0 && jgDst raw % 128 == 0 &&
        (if jgRemote raw then blkRelates (jgBlk raw) else jgBlk raw == 0)
    else
      !jgRemote raw && jgSrc raw == 0 && jgDst raw == 0 && jgBlk raw == 0 && jgTable raw % 64 == 0 &&
        (jgShards raw).all fun i => shardAt table i % 128 == 0) &&
    (jgOp raw != 2 || (jgErased raw != 0 && decide (ones20 (jgErased raw) ≤ jgM raw) && decide (jgErased raw < 2 ^ (jgK raw + jgM raw))))

/-- Steps 4 and 5 of R90: the shard table is read, every extent translated, every check made. The answer is the table. -/
def jgFetch (s : State) (p raw : Nat) : Fetched (List Nat) := do
  let table ← s.fetchRecord p (jgTable raw) (8 * (jgShards raw).length)
  Fetched.check ((jgShards raw).all fun i => decide (shardAt table i < 2 ^ 48))
  let n := jgLen raw
  let src ← if jgOp raw = 0 then s.xlateRange p (jgSrc raw) n false else pure []
  let dst ← if jgOp raw = 0 ∧ jgRemote raw = false then s.xlateRange p (jgDst raw) n true else pure []
  let shards ← (jgShards raw).mapM fun i => s.xlateRange p (shardAt table i) n (jgWrites raw i)
  Fetched.check (jgStep5 raw table && (jgSrc raw == jgDst raw || !rangesMeet src dst) && rangesApart shards &&
    shards.all fun l => l.all fun x => s.inShare p x.1 || inCompanion x.1)
  pure [table]

/-! ## Execution (R342 to R344) -/

/-- The shard table of a fetched descriptor. -/
def Desc.table (d : Desc) : Nat := d.extra.headD 0

/-- The shards that the descriptor reads. -/
def jgReads (raw : Nat) : List Nat :=
  match jgOp raw with
  | 1 => List.range (jgK raw)
  | 2 => (jgShards raw).filter fun i => !bit (jgErased raw) i
  | 3 => jgShards raw
  | _ => []

/-- What a descriptor reads. -/
def jgInputs (s : State) (o : Origin) (d : Desc) : List (Nat × Nat) :=
  let p := s.originPart o
  if jgOp d.raw = 0 then s.dpaRange p (jgSrc d.raw) (jgLen d.raw)
  else (jgReads d.raw).flatMap fun i => s.dpaRange p (shardAt d.table i) (jgLen d.raw)

/-- What a descriptor writes in this device. -/
def jgOutputs (s : State) (o : Origin) (d : Desc) : List (Nat × Nat) :=
  let p := s.originPart o
  if jgOp d.raw = 0 then if jgRemote d.raw then [] else s.dpaRange p (jgDst d.raw) (jgLen d.raw)
  else ((jgShards d.raw).filter (jgWrites d.raw)).flatMap fun i => s.dpaRange p (shardAt d.table i) (jgLen d.raw)

/-- The shards' bytes, empty for those not read. -/
def State.shardData (s : State) (p raw table : Nat) : List (Array Byte) :=
  (jgShards raw).map fun i => if (jgReads raw).contains i then (s.vload p (shardAt table i) (jgLen raw)).toArray else #[]

/-- The symbols of the codeword at byte offset `b`; zero where a shard was not read. -/
def codeAt (data : List (Array Byte)) (b : Nat) : List Nat := data.map fun a => (a.getD b 0).toNat

/-- The whole codeword at an offset: parity computed for ENCODE, erased symbols for DECODE (R342). -/
def fullCode (raw : Nat) (code : List Nat) : List Nat :=
  match jgOp raw with
  | 1 => code.take (jgK raw) ++ rsParity (jgM raw) (code.take (jgK raw))
  | 2 =>
    let es := (jgShards raw).filter (bit (jgErased raw))
    let xs := rsErasures (jgM raw) code.length es code
    code.zipIdx.map fun (v, i) => if bit (jgErased raw) i then xs.getD (es.idxOf i) 0 else v
  | _ => code

/-- Is the codeword divisible by g_M (R339)? -/
def codeGood (raw : Nat) (code : List Nat) : Bool := (rsSyndromes (jgM raw) code).all (· == 0)

/-- JIG_LOG takes the first fault since CLEAR: 0 JIG_CHECK, 1 JIG_MISMATCH. -/
def State.jigLog (s : State) (p kind shard off : Nat) : State :=
  if s.flag (JIG_LOG_VALID p) then s
  else s.fsets [(JIG_LOG_VALID p, 1), (JIG_LOG_KIND p, kind), (JIG_LOG_SHARD p, shard), (JIG_LOG_OFFSET p, off)]

/-- JIG_LOG as a word. -/
def State.jigWord (s : State) (p : Nat) : Nat :=
  s.fget (JIG_LOG_VALID p) * 2 ^ 63 + s.fget (JIG_LOG_KIND p) * 2 ^ 62 + s.fget (JIG_LOG_SHARD p) * 2 ^ 40 + s.fget (JIG_LOG_OFFSET p)

/-- A fault of Jigsaw. -/
def State.jigFail (s : State) (p kind shard off : Nat) (c : Code) : Run :=
  let s := s.jigLog p kind shard off
  .fault s c { unit := unitHub, log := s.jigWord p }

/-- The first `n` bytes of the output shards are written: those of shard `i` up to `upTo i`. -/
def State.writeShards (s : State) (p raw table : Nat) (owner : Owner) (codes : List (List Nat)) (upTo : Nat → Nat) : State :=
  s.each ((jgShards raw).filter (jgWrites raw)) fun s i =>
    s.vstore p (shardAt table i) ((codes.take (upTo i)).map fun c => BitVec.ofNat 8 (c.getD i 0)) owner

/-- JIG_BYTES advances. -/
def State.jigBytes (s : State) (n : Nat) : State := s.fset JIG_BYTES_BYTES (s.fget JIG_BYTES_BYTES + n)

/-- ENCODE, DECODE and VERIFY run (R342). `bad` is a disagreement of the two encoders or a parity error of the buffers: the shard being
written and the byte offset (R344); a mismatch at its line or before stops the descriptor first (R342). -/
def runShards (o : Origin) (bad : Option (Nat × Nat)) (s : State) (d : Desc) : Run :=
  let p := s.originPart o
  let raw := d.raw
  if s.behindIn p isJig d then .wait s
  else
    let data := s.shardData p raw d.table
    let codes := (List.range (jgLen raw)).map fun b => fullCode raw (codeAt data b)
    let line := fun (n : Nat) => n / 128 * 128
    let owner := Owner.desc p d.id
    let miss := if jgOp raw = 2 ∨ jgOp raw = 3 then codes.findIdx? fun c => !codeGood raw c else none
    let s := s.jigBytes ((jgReads raw).length * jgLen raw)
    let first := match bad, miss with
      | some (_, off), some b => decide (jgOp raw = 2) && decide (b / 128 ≤ off / 128)
      | _, _ => false
    match (if first then none else bad), miss with
    | some (shard, off), _ =>
      (s.writeShards p raw d.table owner codes fun i => if i < shard then line off + 128 else line off).jigFail p 0 shard (line off) .jigCheck
    | none, some b =>
      if jgOp raw = 3 then .done s (2 ^ 63 + b)
      else (s.writeShards p raw d.table owner codes fun _ => line b).jigFail p 1 0x1F (line b) .jigMismatch
    | none, none => .done (s.writeShards p raw d.table owner codes fun _ => jgLen raw) 0

/-- COPY runs (R342): locally, or as stream data of its block, followed by the remote drop (R131). -/
def runCopy (o : Origin) (bad : Option (Nat × Nat)) (s : State) (d : Desc) : Run :=
  let p := s.originPart o
  let raw := d.raw
  if s.behindIn p isJig d then .wait s
  else
    let data := s.vload p (jgSrc raw) (jgLen raw)
    let cut := match bad with
      | some (_, off) => data.take (off / 128 * 128)
      | none => data
    let s := s.jigBytes data.length
    let sent := if jgRemote raw then s.sendData p (jgBlk raw) (jgDst raw) (cut.length + 1) cut else some (s.vstore p (jgDst raw) cut (.desc p d.id))
    match sent, bad with
    | none, _ => s.noRouteRun p (jgBlk raw)
    | some t, some (shard, off) => t.jigFail p 0 shard (off / 128 * 128) .jigCheck
    | some t, none => if jgRemote raw then t.dropRun o d (jgBlk raw) (jgLen raw) (jgLen raw) else .done t (jgLen raw)

/-- The start command of an operation of Jigsaw. -/
def State.jigCmd (s : State) (op : Nat) (o : Origin) (u : Upset) (run : State → Desc → Run) : State :=
  s.startDesc o (isJgOp op) (fun s d => jgInputs s o d) (fun s d => jgOutputs s o d) u run

/-- COPY (R342). -/
def execCopy (o : Origin) (u : Upset) (bad : Option (Nat × Nat)) (s : State) : Host.Outcome State Fault Refusal :=
  .next (s.jigCmd 0 o u (runCopy o bad))
/-- ENCODE (R342). -/
def execEncode (o : Origin) (u : Upset) (bad : Option (Nat × Nat)) (s : State) : Host.Outcome State Fault Refusal :=
  .next (s.jigCmd 1 o u (runShards o bad))
/-- DECODE (R342). -/
def execDecode (o : Origin) (u : Upset) (bad : Option (Nat × Nat)) (s : State) : Host.Outcome State Fault Refusal :=
  .next (s.jigCmd 2 o u (runShards o bad))
/-- VERIFY (R342). -/
def execVerify (o : Origin) (u : Upset) (bad : Option (Nat × Nat)) (s : State) : Host.Outcome State Fault Refusal :=
  .next (s.jigCmd 3 o u (runShards o bad))

end Sys2Proof.Machine
end

