-- ==== Sys2Proof/Machine/Layout.lean ====
section
/-! DEFINITION. Kaleidoscope: layout descriptors, class 0x03 (R236 to R254). -/
namespace Sys2Proof.Machine

/-! ## The body (R238) and the shape record (R239) -/

/-- Is the descriptor of the layout class? -/
def isLayout (raw : Nat) : Bool := dClass raw == 0x03

/-- SRC_FMT. -/
def kaSrc (raw : Nat) : Nat := dfield raw 32 0 4
/-- DST_FMT. -/
def kaDst (raw : Nat) : Nat := dfield raw 32 4 4
/-- TKIND. -/
def kaKind (raw : Nat) : Nat := dfield raw 33 0 2
/-- PAD: 0 NONE, 1 READ, 2 MATERIALISE. -/
def kaPad (raw : Nat) : Nat := dfield raw 33 2 2
/-- SBLKDIM. -/
def kaSblk (raw : Nat) : Nat := dfield raw 33 4 3
/-- NDIM. -/
def kaNdim (raw : Nat) : Nat := dfield raw 34 0 3
/-- TENSOR_ID. -/
def kaTensor (raw : Nat) : Nat := dfield raw 36 0 20
/-- SRC_ADDR. -/
def kaSrcAddr (raw : Nat) : Nat := dfield raw 40 0 64
/-- DST_FRAME. -/
def kaFrame (raw : Nat) : Nat := dfield raw 48 0 64
/-- SHAPE_ADDR. -/
def kaShape (raw : Nat) : Nat := dfield raw 56 0 64
/-- SRC_SCALE. -/
def kaSrcScale (raw : Nat) : Nat := dfield raw 64 0 64
/-- DST_SCALE. -/
def kaDstScale (raw : Nat) : Nat := dfield raw 72 0 64
/-- DST_SSTRIDE. -/
def kaDstSstride (raw : Nat) : Nat := dfield raw 80 0 32
/-- PAD_VALUE. -/
def kaPadValue (raw : Nat) : Nat := dfield raw 84 0 32
/-- HEALTH_ADDR. -/
def kaHealth (raw : Nat) : Nat := dfield raw 88 0 64

/-- A field of the shape record's entry for dimension `d`, at byte `o` of the entry. -/
def shField (sh d o w : Nat) : Nat := bits sh (8 * (48 * d + o)) w
/-- EXTENT. -/
def shExtent (sh d : Nat) : Nat := shField sh d 0 32
/-- SRC_EXTENT. -/
def shSrcExtent (sh d : Nat) : Nat := shField sh d 4 32
/-- PAD_LO. -/
def shPadLo (sh d : Nat) : Nat := shField sh d 8 32
/-- DST_ORIGIN. -/
def shOrigin (sh d : Nat) : Nat := shField sh d 12 32
/-- SRC_STRIDE. -/
def shSrcStride (sh d : Nat) : Nat := shField sh d 16 40
/-- DST_STRIDE. -/
def shDstStride (sh d : Nat) : Nat := shField sh d 24 40
/-- ROW_W. -/
def shRowW (sh d : Nat) : Nat := shField sh d 32 32
/-- COL_W. -/
def shColW (sh d : Nat) : Nat := shField sh d 36 32
/-- SRC_SSTRIDE. -/
def shSstride (sh d : Nat) : Nat := shField sh d 40 32

/-- Is a format code of R238 defined? -/
def kaFmtOk (f : Nat) : Bool := decide (f ≤ 7) || f == codeFp32

/-- Step 1 of R90 for a layout descriptor (R238): reserved fields and encodings, high address bits (R44). -/
def kaStep1 (raw : Nat) : Bool :=
  dSlot raw == 0 && kaFmtOk (kaSrc raw) && kaFmtOk (kaDst raw) && kaKind raw != 3 && kaPad raw != 3 && !bit raw (33 * 8 + 7) &&
    decide (1 ≤ kaNdim raw) && decide (kaNdim raw ≤ 6) && dfield raw 34 3 5 == 0 && dfield raw 35 0 8 == 0 &&
    dfield raw 36 20 12 == 0 && dfield raw 96 0 256 == 0 &&
    [kaSrcAddr raw, kaFrame raw, kaShape raw, kaSrcScale raw, kaDstScale raw, kaHealth raw].all fun a => decide (a < 2 ^ 48)

/-! ## Boxes -/

/-- Every index of a box, dimension 0 innermost. -/
def boxIdx : List Nat → List (List Nat)
  | [] => [[]]
  | n :: t => (boxIdx t).flatMap fun q => (List.range n).map (· :: q)

/-- The place of an index in the list of its box. -/
def boxPlace : List Nat → List Nat → Nat
  | n :: t, j :: q => j + n * boxPlace t q
  | _, _ => 0

/-- The weighted sum of an index. -/
def dot (a b : List Nat) : Nat := (a.zip b).foldl (fun x y => x + y.1 * y.2) 0

/-- The dimensions in use. -/
def kaDims (raw : Nat) : List Nat := List.range (kaNdim raw)

/-- EXTENT by dimension. -/
def kaExtents (raw sh : Nat) : List Nat := (kaDims raw).map (shExtent sh)

/-- The valid positions along each dimension, counted from PAD_LO (R240). -/
def kaValid (raw sh : Nat) : List Nat :=
  (kaDims raw).map fun d => min (shExtent sh d) (shPadLo sh d + shSrcExtent sh d) - min (shExtent sh d) (shPadLo sh d)

/-- The first written position along each dimension: under READ padding is not written (R241). -/
def kaLow (raw sh : Nat) : List Nat := (kaDims raw).map fun d => if kaPad raw = 1 then shPadLo sh d else 0

/-- The written positions along each dimension (R241). -/
def kaWritten (raw sh : Nat) : List Nat := if kaPad raw = 1 then kaValid raw sh else kaExtents raw sh

/-- DST_ORIGIN by dimension. -/
def kaOrigins (raw sh : Nat) : List Nat := (kaDims raw).map (shOrigin sh)
/-- SRC_STRIDE by dimension. -/
def kaSrcStrides (raw sh : Nat) : List Nat := (kaDims raw).map (shSrcStride sh)
/-- DST_STRIDE by dimension. -/
def kaDstStrides (raw sh : Nat) : List Nat := (kaDims raw).map (shDstStride sh)

/-- Index plus index. -/
def addIdx (a b : List Nat) : List Nat := (a.zip b).map fun x => x.1 + x.2

/-- The element offset of destination position `j` from DST_FRAME (R240). -/
def kaDstIdx (raw sh : Nat) (j : List Nat) : Nat := dot (addIdx (kaOrigins raw sh) j) (kaDstStrides raw sh)

/-- Does a box hold nothing? -/
def emptyBox (l : List Nat) : Bool := l.contains 0

/-! ## Runs (R237) -/

/-- The dimensions joined into a side's runs, innermost first: the one of stride 1, then every one whose stride equals the span. -/
def runDims (strides counts : List Nat) : Nat → Nat → List Nat → List Nat
  | 0, _, js => js
  | f + 1, span, js =>
    match (List.range strides.length).find? fun d => !js.contains d && strides.getD d 0 == span with
    | some d => runDims strides counts f (span * counts.getD d 0) (js ++ [d])
    | none => js

/-- The joined dimensions of a side. -/
def joined (strides counts : List Nat) : List Nat := runDims strides counts strides.length 1 []

/-- The elements of a run of a side. -/
def runLen (strides counts : List Nat) : Nat := (joined strides counts).foldl (fun n d => n * counts.getD d 1) 1

/-- The counts with the joined dimensions at 1: the box of run starts. A dimension of stride 0 repeats its elements (R240). -/
def startCounts (strides counts : List Nat) : List Nat :=
  (List.range counts.length).map fun d =>
    if (joined strides counts).contains d ∨ strides.getD d 0 = 0 then min 1 (counts.getD d 0) else counts.getD d 0

/-- The element offsets of a side's run starts. -/
def runStarts (strides counts : List Nat) : List Nat := (boxIdx (startCounts strides counts)).map fun j => dot j strides

/-- Does every run of a side begin on a 128-byte boundary (R237)? `base` is the bit address of its first element. -/
def runsAligned (base b : Nat) (strides counts : List Nat) : Bool :=
  emptyBox counts || (base % 1024 == 0 &&
    (List.range counts.length).all fun d =>
      (joined strides counts).contains d || decide (counts.getD d 0 ≤ 1) || strides.getD d 0 * b % 1024 == 0)

/-- The extents of a side's runs. -/
def runExtents (base b : Nat) (strides counts : List Nat) (write : Bool) : List Extent :=
  let n := runLen strides counts
  (runStarts strides counts).map fun i =>
    let lo := base + i * b
    (lo / 8, ceilDiv (lo + n * b) 8 - lo / 8, write)

/-- The bit address of the first written destination element. -/
def kaDstBase (raw sh : Nat) (low : List Nat) : Nat := kaFrame raw * 8 + kaDstIdx raw sh low * fmtBits (kaDst raw)

/-! ## Coordinates, blocks and scales (R243, R245, R246) -/

/-- The tensor coordinates of destination position `j` (R243). -/
def kaCoord (raw sh : Nat) (j : List Nat) : Nat × Nat :=
  let x := addIdx (kaOrigins raw sh) j
  (dot x ((kaDims raw).map (shRowW sh)) % 2 ^ 32, dot x ((kaDims raw).map (shColW sh)) % 2 ^ 32)

/-- The weight of a dimension in the coordinate along which blocks run (R245). -/
def kaBlockW (raw sh d : Nat) : Nat := if kaKind raw = 0 then shRowW sh d else shColW sh d

/-- The block dimension of an MX destination (R245). -/
def kaBlockDim (raw sh : Nat) : Nat := ((kaDims raw).find? fun d => kaBlockW raw sh d == 1).getD 0

/-- The blocks keep R172 under R245. -/
def kaBlocksFit (raw sh : Nat) : Bool :=
  ((kaDims raw).filter fun d => kaBlockW raw sh d == 1).length == 1 &&
    (let b := kaBlockDim raw sh
     shOrigin sh b % 32 == 0 && shExtent sh b % 32 == 0 &&
      (kaDims raw).all fun d => d == b || kaBlockW raw sh d % 32 == 0)

/-- The address of the scale of the block whose first element is at `j` (R208, R245). -/
def kaScaleAt (raw sh : Nat) (j : List Nat) : Nat :=
  let x := kaCoord raw sh j
  if kaKind raw = 0 then kaDstScale raw + x.1 / 32 * kaDstSstride raw + x.2
  else kaDstScale raw + x.1 * kaDstSstride raw + x.2 / 32

/-- The counts of the blocks of an MX destination. -/
def kaBlockCounts (raw sh : Nat) : List Nat :=
  (kaExtents raw sh).zipIdx.map fun (n, d) => if d = kaBlockDim raw sh then n / 32 else n

/-- The first position of each block. -/
def kaBlocks (raw sh : Nat) : List (List Nat) :=
  (boxIdx (kaBlockCounts raw sh)).map fun q => q.zipIdx.map fun (j, d) => if d = kaBlockDim raw sh then 32 * j else j

/-- The position `i` elements along the block dimension from `j`. -/
def kaAlong (raw sh : Nat) (j : List Nat) (i : Nat) : List Nat :=
  j.zipIdx.map fun (x, d) => if d = kaBlockDim raw sh then x + i else x

/-- The scale offset of a source index (R246). -/
def kaSrcScaleOff (raw sh : Nat) (x : List Nat) : Nat :=
  (x.zipIdx.map fun (v, d) => (if d = kaSblk raw then v / 32 else v) * shSstride sh d).foldl (· + ·) 0

/-! ## Checks at fetch (R247, R248) -/

/-- Dimensions with more than one position, in ascending order of DST_STRIDE, equal strides by dimension (R242). -/
def kaByStride (raw sh : Nat) : List Nat :=
  ((kaDims raw).filter fun d => decide (1 < shExtent sh d)).mergeSort fun a b => decide (shDstStride sh a ≤ shDstStride sh b)

/-- Each stride at least the previous one times the previous extent (R242). -/
def stridesNest (sh : Nat) : List Nat → Bool
  | a :: b :: t => decide (shDstStride sh a * shExtent sh a ≤ shDstStride sh b) && stridesNest sh (b :: t)
  | _ => true

/-- The shape record keeps R239: entries beyond NDIM zero, reserved fields zero. -/
def shapeLegal (raw sh : Nat) : Bool :=
  (List.range 6).all fun d =>
    if d < kaNdim raw then shField sh d 16 64 < 2 ^ 40 && shField sh d 24 64 < 2 ^ 40 && shField sh d 44 32 == 0
    else shField sh d 0 384 == 0

/-- At most 2^40 elements: the range of a count (R24, R239). -/
def shapeCounts (raw sh : Nat) : Bool := decide ((kaExtents raw sh).foldl (· * ·) 1 ≤ 2 ^ 40)

/-- May a conversion of the descriptor round stochastically: into BF16 or FP16 with TKIND 2, from another format or from PAD_VALUE (R244,
R241)? So the last bullet of R247 is read (DEDUCED, log entry 82). -/
def kaStochastic (raw : Nat) : Bool :=
  kaKind raw == 2 && decide (kaDst raw ≤ 1) && (kaSrc raw != kaDst raw || kaPad raw == 2)

/-- The checks of R239, R241, R242, R245 and R246 on a legal record, and the others of R247. -/
def kaStep5 (raw sh : Nat) : Bool :=
  let ds := kaDims raw
  shapeLegal raw sh && kaShape raw % 64 == 0 &&
    (kaPad raw != 0 || ds.all fun d => shPadLo sh d == 0 && decide (shExtent sh d ≤ shSrcExtent sh d)) &&
    ((kaByStride raw sh).all fun d => shDstStride sh d != 0) && stridesNest sh (kaByStride raw sh) &&
    decide ((ds.filter fun d => shDstStride sh d == 1).length ≤ 1) && decide ((ds.filter fun d => shSrcStride sh d == 1).length ≤ 1) &&
    (if isMx (kaSrc raw) then decide (kaSblk raw < kaNdim raw) && shSrcExtent sh (kaSblk raw) % 32 == 0 && kaSrcScale raw != 0
      else kaSblk raw == 0 && kaSrcScale raw == 0 && ds.all fun d => shSstride sh d == 0) &&
    (if isMx (kaDst raw) then kaDstScale raw != 0 && kaBlocksFit raw sh && kaPad raw != 1 else kaDstScale raw == 0 && kaDstSstride raw == 0) &&
    (!kaStochastic raw || kaBlocksFit raw sh) &&
    (kaPad raw == 2 || kaPadValue raw == 0) &&
    runsAligned (kaSrcAddr raw * 8) (fmtBits (kaSrc raw)) (kaSrcStrides raw sh) (kaValid raw sh) &&
    runsAligned (kaDstBase raw sh (kaLow raw sh)) (fmtBits (kaDst raw)) (kaDstStrides raw sh) (kaWritten raw sh)

/-- The scale extents of an MX source: those of its valid elements (R246). -/
def kaSrcScaleExtents (raw sh : Nat) : List Extent :=
  if isMx (kaSrc raw) then
    (boxIdx ((kaValid raw sh).zipIdx.map fun (n, d) => if d = kaSblk raw then ceilDiv n 32 else n)).map fun q =>
      (kaSrcScale raw + dot q ((kaDims raw).map (shSstride sh)), 1, false)
  else []

/-- The scale extents of an MX destination. -/
def kaDstScaleExtents (raw sh : Nat) : List Extent :=
  if isMx (kaDst raw) then (kaBlocks raw sh).map fun j => (kaScaleAt raw sh j, 1, true) else []

/-- What a layout descriptor reads: its valid source elements and their scales. -/
def kaReads (raw sh : Nat) : List Extent :=
  runExtents (kaSrcAddr raw * 8) (fmtBits (kaSrc raw)) (kaSrcStrides raw sh) (kaValid raw sh) false ++ kaSrcScaleExtents raw sh

/-- What it writes: the written positions and their scales. -/
def kaWrites (raw sh : Nat) : List Extent :=
  runExtents (kaDstBase raw sh (kaLow raw sh)) (fmtBits (kaDst raw)) (kaDstStrides raw sh) (kaWritten raw sh) true ++
    kaDstScaleExtents raw sh

/-- The destination positions, valid and padding alike: all are translated (R247). -/
def kaFrameExtents (raw sh : Nat) : List Extent :=
  runExtents (kaDstBase raw sh ((kaDims raw).map fun _ => 0)) (fmtBits (kaDst raw)) (kaDstStrides raw sh) (kaExtents raw sh) true

/-- Is any EXTENT 0 (R247)? -/
def kaEmpty (raw sh : Nat) : Bool := emptyBox (kaExtents raw sh)

/-- An identity copy (R248). -/
def kaIdentity (raw sh : Nat) : Bool :=
  kaSrcAddr raw * 8 == kaDstBase raw sh ((kaDims raw).map fun _ => 0) && kaSrc raw == kaDst raw && !isMx (kaSrc raw) &&
    kaSrcStrides raw sh == kaDstStrides raw sh && kaPad raw == 0

/-- Is a layout descriptor with this shape record a no-operation (R247, R248)? -/
def kaNoop (raw sh : Nat) : Bool := kaEmpty raw sh || kaIdentity raw sh

/-- The span of a side as a virtual range: from the lowest byte touched to the highest (R248). -/
def sideSpan (base b : Nat) (strides counts : List Nat) : Nat × Nat :=
  if emptyBox counts then (0, 0)
  else
    let last := dot (counts.map (· - 1)) strides
    (base / 8, ceilDiv (base + (last + 1) * b) 8 - base / 8)

/-- The DPA ranges of a span, page by page; pages that nothing maps hold no byte of either side. -/
def State.spanRanges (s : State) (p : Nat) : Nat → Nat → Nat → Fetched (List (Nat × Nat))
  | 0, _, _ => pure []
  | f + 1, va, len =>
    if len = 0 then pure []
    else
      let n := min len (4096 - va % 4096)
      match s.xlate p va false with
      | .ok x => (s.spanRanges p f (va + n) (len - n)).map ((x.1, n) :: ·)
      | .error (.bad _) => s.spanRanges p f (va + n) (len - n)
      | .error e => .error e

/-- The spans of R248 are compared DPA by DPA. -/
def State.kaOverlap (s : State) (p raw sh : Nat) : Fetched Bool := do
  let a := sideSpan (kaSrcAddr raw * 8) (fmtBits (kaSrc raw)) (kaSrcStrides raw sh) (kaValid raw sh)
  let b := sideSpan (kaDstBase raw sh (kaLow raw sh)) (fmtBits (kaDst raw)) (kaDstStrides raw sh) (kaWritten raw sh)
  let x ← s.spanRanges p (a.2 / 4096 + 2) a.1 a.2
  let y ← s.spanRanges p (b.2 / 4096 + 2) b.1 b.2
  pure (rangesMeet x y)

/-- Steps 4 and 5 of R90 for a layout descriptor: the shape record is read, every extent translated, every check made (R239, R247,
R248). The answer is the record. -/
def kaFetch (s : State) (p raw : Nat) : Fetched (List Nat) := do
  let sh ← s.fetchRecord p (kaShape raw) 288
  Fetched.check (shapeCounts raw sh)
  let none_ := kaEmpty raw sh
  if none_ then pure () else
    s.xlateAll p (kaReads raw sh)
    s.xlateAll p (kaFrameExtents raw sh)
    s.xlateAll p (kaDstScaleExtents raw sh)
  s.xlateAll p (healthExtent (kaHealth raw))
  let h ← s.healthDpa p (kaHealth raw) true
  Fetched.check (kaStep5 raw sh && healthFits (kaHealth raw) h)
  if kaNoop raw sh then pure ()
  else
    let o ← s.kaOverlap p raw sh
    if o then .error (.bad .layoutOverlap) else pure ()
  pure [sh]

/-! ## The extent checker (R249, R250) -/

/-- A box of frame indices: low corner and counts. -/
abbrev Box := List Nat × List Nat

/-- The box common to two boxes. -/
def boxMeet (a b : Box) : Box :=
  let lo := (a.1.zip b.1).map fun x => max x.1 x.2
  let hi := ((addIdx a.1 a.2).zip (addIdx b.1 b.2)).map fun x => min x.1 x.2
  (lo, (hi.zip lo).map fun x => x.1 - x.2)

/-- Does box `a` lie in box `b`? -/
def boxIn (a b : Box) : Bool := boxMeet a b == a

/-- The valid frame indices of a descriptor. -/
def kaValidBox (raw sh : Nat) : Box :=
  (addIdx (kaOrigins raw sh) ((kaDims raw).map (shPadLo sh)), kaValid raw sh)

/-- All of its frame indices. -/
def kaFullBox (raw sh : Nat) : Box := (kaOrigins raw sh, kaExtents raw sh)

/-- Does the materialised padding of the first meet the valid box of the second (R249)? -/
def padMeets (a sa b sb : Nat) : Bool :=
  let x := boxMeet (kaFullBox a sa) (kaValidBox b sb)
  kaPad a == 2 && !emptyBox x.2 && !(!emptyBox (kaValidBox a sa).2 && boxIn x (kaValidBox a sa))

/-- Do two layout descriptors share a frame (R249)? -/
def sameFrame (a sa b sb : Nat) : Bool := kaFrame a == kaFrame b && kaNdim a == kaNdim b && kaDstStrides a sa == kaDstStrides b sb

/-- Do a descriptor and an entry of its list clash (R249)? -/
def padClash (a sa b sb : Nat) : Bool := sameFrame a sa b sb && (padMeets a sa b sb || padMeets b sb a sa)

/-- The extent list of an origin (R249): body and shape record of each entry. -/
def State.extents (s : State) : Origin → List (Nat × Nat)
  | .ring n => (s.ring n).extents
  | .slot r k => (s.slot r k).extents

/-- The list with one more entry. -/
def State.addExtent (s : State) (o : Origin) (e : Nat × Nat) : State :=
  match o with
  | .ring n => s.updRing n fun q => { q with extents := q.extents ++ [e] }
  | .slot r k => s.updSlot r k fun q => { q with extents := q.extents ++ [e] }

/-- KAL_FAULT_LOG takes the first fault of its kinds since CLEAR: 0 PAD_CLASH, 1 EXTENT_FULL, 2 KAL_CHECK. -/
def State.kalLog (s : State) (o : Origin) (raw kind : Nat) : State :=
  let r := dRegion raw
  if s.flag (KAL_FAULT_LOG_VALID r) then s
  else
    let x := match o with
      | .ring n => (0, n.val)
      | .slot _ k => (1, k.val)
    s.fsets [(KAL_FAULT_LOG_VALID r, 1), (KAL_FAULT_LOG_KIND r, kind), (KAL_FAULT_LOG_LQ r, x.1), (KAL_FAULT_LOG_ORIGIN r, x.2),
      (KAL_FAULT_LOG_TENSOR_ID r, kaTensor raw), (KAL_FAULT_LOG_TAG r, dTag raw)]

/-! ## Execution (R240 to R246, R251 to R253) -/

/-- The shape record that a descriptor took at its fetch. -/
def Desc.shape (d : Desc) : Nat := d.extra.headD 0

/-- `n` bits at a bit address. -/
def State.vbits (s : State) (p a n : Nat) : Nat := bits (s.vloadNat p (a / 8) (ceilDiv (a % 8 + n) 8)) (a % 8) n

/-- The source index of destination position `j` (R240). -/
def kaSrcIdx (raw sh : Nat) (j : List Nat) : List Nat := (j.zip ((kaDims raw).map (shPadLo sh))).map fun y => y.1 - y.2

/-- Is destination position `j` valid (R240)? -/
def kaIsValid (raw sh : Nat) (j : List Nat) : Bool :=
  ((j.zip ((kaDims raw).map (shPadLo sh))).all fun y => decide (y.2 ≤ y.1)) &&
    ((kaSrcIdx raw sh j).zipIdx.all fun (v, d) => decide (v < shSrcExtent sh d))

/-- The FP32 value of destination position `j`: its source element widened, or PAD_VALUE (R240, R241, R244). -/
def State.kaValue (s : State) (p raw sh : Nat) (j : List Nat) : Nat :=
  let x := kaSrcIdx raw sh j
  if kaIsValid raw sh j then
    let b := fmtBits (kaSrc raw)
    let e := s.vbits p (kaSrcAddr raw * 8 + dot x (kaSrcStrides raw sh) * b) b
    let sc := if isMx (kaSrc raw) then s.vloadNat p (kaSrcScale raw + kaSrcScaleOff raw sh x) 1 else 0
    widen32 (kaSrc raw) e sc
  else kaPadValue raw

/-- The patterns of the written positions in the order of their box, the scales by block, and the counts (R244, R245). An element of equal
formats is copied: its value lies on the grid, so that nothing rounds. -/
def State.kaConvert (s : State) (p raw sh : Nat) (g : Rng) : List Nat × List (Nat × Nat) × Health :=
  let f := kaDst raw
  let low := kaLow raw sh
  let rnd := fun (j : List Nat) => let x := kaCoord raw sh j; g.conv x.1 x.2
  if isMx f then
    let bs := (kaBlocks raw sh).map fun j =>
      let js := (List.range 32).map (kaAlong raw sh j)
      (kaScaleAt raw sh j, mxBlock f (kaKind raw) (js.map (s.kaValue p raw sh)) (js.map rnd))
    let arr := bs.toArray
    let pats := (boxIdx (kaExtents raw sh)).map fun j =>
      let b := kaBlockDim raw sh
      let q := j.zipIdx.map fun (x, d) => if d = b then x / 32 else x
      let y := arr.getD (boxPlace (kaBlockCounts raw sh) q) (0, 0, [], Health.none)
      y.2.2.1.getD (j.getD b 0 % 32) 0
    (pats, bs.map fun y => (y.1, y.2.1), bs.foldl (fun h y => h.plus y.2.2.2) .none)
  else
    let xs := (boxIdx (kaWritten raw sh)).map fun j0 =>
      let j := addIdx low j0
      narrowPlain f (if kaSrc raw = f ∧ kaIsValid raw sh j then 1 else kaKind raw) (s.kaValue p raw sh j) (rnd j)
    (xs.map (·.1), [], xs.foldl (fun h x => h.plus x.2) .none)

/-- The indices of a run within the written box, in address order, from its start. -/
def runIdx (strides counts start : List Nat) : List (List Nat) :=
  let js := joined strides counts
  (boxIdx (js.map fun d => counts.getD d 1)).map fun q =>
    start.zipIdx.map fun (x, d) => match js.idxOf? d with
      | some i => x + q.getD i 0
      | none => x

/-- Patterns of `b` bits are written from a byte address on; the other bits of a last partial byte keep their contents. -/
def State.kaPut (s : State) (p a b : Nat) (l : List Nat) (owner : Owner) : State :=
  let n := l.length * b
  let k := ceilDiv n 8
  let keep := if n % 8 = 0 then 0 else s.vloadNat p a k / 2 ^ n * 2 ^ n
  s.vstore p a (natLe k (packBits b l + keep)) owner

/-- A layout descriptor's elements and scales are written (R240 to R246). The answer holds the counts. -/
def State.kaWrite (s : State) (p raw sh : Nat) (g : Rng) (owner : Owner) : State × Health :=
  let b := fmtBits (kaDst raw)
  let y := s.kaConvert p raw sh g
  let arr := y.1.toArray
  let counts := kaWritten raw sh
  let strides := kaDstStrides raw sh
  let base := kaDstBase raw sh (kaLow raw sh)
  let s := s.each (boxIdx (startCounts strides counts)) fun s st =>
    s.kaPut p ((base + dot st strides * b) / 8) b ((runIdx strides counts st).map fun q => arr.getD (boxPlace counts q) 0) owner
  (s.each y.2.1 fun s x => s.vstore p x.1 [BitVec.ofNat 8 x.2] owner, y.2.2)

/-- The lines that a side's runs occupy (R251). -/
def sideLines (b : Nat) (strides counts : List Nat) : Nat :=
  if emptyBox counts then 0 else (startCounts strides counts).foldl (· * ·) 1 * ceilDiv (runLen strides counts * b) 1024

/-- A layout descriptor starts: the extent checker (R249, R250). One with an EXTENT of 0 skips it (R247); an identity copy does not (R248). -/
def startLayout (o : Origin) (s : State) (d : Desc) : Run :=
  let r := dRegion d.raw
  let l := s.extents o
  if kaEmpty d.raw d.shape then .going s
  else if 64 ≤ l.length then .fault (s.kalLog o d.raw 1) .extentFull { unit := unitRegion r }
  else if l.any fun e => padClash d.raw d.shape e.1 e.2 then .fault (s.kalLog o d.raw 0) .padClash { unit := unitRegion r }
  else .going ((s.addExtent o (d.raw, d.shape)).accMax (KAL_STAT_LIST_MAX r) (l.length + 1))

/-- A layout descriptor runs: the copy (R251, R252); `check` is a failed check of its converters (R253). -/
def runLayout (o : Origin) (check : Bool) (s : State) (d : Desc) : Run :=
  let p := s.originPart o
  let r := dRegion d.raw
  if s.behind isLayout d then .wait s
  else if check then .fault (s.kalLog o d.raw 2) .kalCheck { unit := unitRegion r }
  else
    let s := s.accAdd (KAL_CYCLES_ACTIVE r)
      (ceilDiv (max (sideLines (fmtBits (kaSrc d.raw)) (kaSrcStrides d.raw d.shape) (kaValid d.raw d.shape))
        (sideLines (fmtBits (kaDst d.raw)) (kaDstStrides d.raw d.shape) (kaWritten d.raw d.shape))) 2)
    let x := s.kaWrite p d.raw d.shape ⟨s.seedOf p, d.step, kaTensor d.raw⟩ (.desc p d.id)
    let s := x.1.mergeHealth p (kaHealth d.raw) x.2 (kaTensor d.raw) (kaKind d.raw) (kaDst d.raw) (.desc p d.id)
    .done s ((kaWritten d.raw d.shape).foldl (· * ·) 1)

/-- LAYOUT: a layout descriptor starts and runs (R249, R251). -/
def layoutCmd (o : Origin) (u : Upset) (s : State) : State :=
  s.startDesc o isLayout
    (fun s d => s.dpaRanges (s.originPart o) (kaReads d.raw d.shape))
    (fun s d => s.dpaRanges (s.originPart o) (kaWrites d.raw d.shape))
    u (runLayout o (ownUpset u)) (startLayout o)

/-- LAYOUT (R238, R251). -/
def execLayout (o : Origin) (u : Upset) (s : State) : Host.Outcome State Fault Refusal := .next (layoutCmd o u s)

end Sys2Proof.Machine
end

