-- ==== Sys2Proof/Machine/Matrix.lean ====
section
/-! DEFINITION. Matrix descriptors: their body and checks (R154 to R157, R189), accumulation groups (R187 to R201), tile passes
(R148 to R152). -/
namespace Sys2Proof.Machine

/-! ## The body (R154) -/

/-- WFMT. -/
def mxW (raw : Nat) : Nat := dfield raw 32 0 4
/-- AFMT. -/
def mxA (raw : Nat) : Nat := dfield raw 32 4 4
/-- OPEN. -/
def mxOpen (raw : Nat) : Bool := bit raw (33 * 8)
/-- CLOSE. -/
def mxClose (raw : Nat) : Bool := bit raw (33 * 8 + 1)
/-- GSEL. -/
def mxGsel (raw : Nat) : Nat := dfield raw 34 0 2
/-- K_TILES. -/
def mxTiles (raw : Nat) : Nat := dfield raw 36 0 16
/-- W_ADDR. -/
def mxWAddr (raw : Nat) : Nat := dfield raw 40 0 64
/-- W_SCALE. -/
def mxWScale (raw : Nat) : Nat := dfield raw 48 0 64
/-- A_ADDR. -/
def mxAAddr (raw : Nat) : Nat := dfield raw 56 0 64
/-- A_SCALE. -/
def mxAScale (raw : Nat) : Nat := dfield raw 64 0 64
/-- A_STRIDE. -/
def mxAStride (raw : Nat) : Nat := dfield raw 72 0 32
/-- A_SSTRIDE. -/
def mxASStride (raw : Nat) : Nat := dfield raw 76 0 32
/-- ROW0[a]. -/
def mxRow0 (raw a : Nat) : Nat := dfield raw (80 + 4 * a) 0 32
/-- ROWS[a]. -/
def mxRows (raw a : Nat) : Nat := dfield raw (96 + a) 0 8
/-- TENSOR_ID. -/
def mxTensor (raw : Nat) : Nat := dfield raw 100 0 20
/-- KBLK0. -/
def mxKblk (raw : Nat) : Nat := dfield raw 104 0 32
/-- COL0. -/
def mxCol0 (raw : Nat) : Nat := dfield raw 108 0 32
/-- EPI_ADDR. -/
def mxEpi (raw : Nat) : Nat := dfield raw 112 0 64

/-- Is the descriptor of the matrix class? -/
def isMatrix (raw : Nat) : Bool := dClass raw == 0x01

/-- Is a code one of the floating-point MX formats? -/
def isFpMx (c : Nat) : Bool := decide (2 ≤ c) && decide (c ≤ 6)

/-- The mode of a format pair (R140): 1 16-bit, 2 8-bit, 3 4-bit; 0 for a pair that is not permitted. -/
def mxModeOf (w a : Nat) : Nat :=
  if w = a ∧ w ≤ 1 then 1
  else if w = 6 ∧ a = 6 then 3
  else if (isFpMx w ∧ isFpMx a) ∨ (w = 7 ∧ a = 7) then 2
  else 0

/-- The mode of a descriptor. -/
def mxMode (raw : Nat) : Nat := mxModeOf (mxW raw) (mxA raw)

/-- P of a mode (R140). -/
def mxPOf (mode : Nat) : Nat := if mode = 3 then 4 else if mode = 2 then 2 else 1

/-- P of a descriptor. -/
def mxP (raw : Nat) : Nat := mxPOf (mxMode raw)

/-- Is the mode exact? -/
def mxExact (raw : Nat) : Bool := decide (2 ≤ mxMode raw)

/-- The active arrays of a descriptor: those whose ROWS is not 0 (R188). -/
def mxActive (raw : Nat) : List Nat := [0, 1, 2, 3].filter fun a => mxRows raw a != 0

/-- The groups that a descriptor uses, ascending, each with its array and lane (R187). -/
def mxGroups (raw : Nat) : List (Nat × Nat × Nat) :=
  (mxActive raw).flatMap fun a => (List.range (mxP raw)).map fun q => (4 * a + mxGsel raw + q, a, q)

/-- The bytes of a weight tile (R155). -/
def mxTileBytes (raw : Nat) : Nat := 512 * mxP raw * fmtBits (mxW raw)

/-- The rows that a descriptor writes, by active array. -/
def mxSpans (raw : Nat) : List RowSpan := (mxActive raw).map fun a => (mxRow0 raw a, mxRows raw a)

/-- Step 1 of R90 for a matrix descriptor (R140, R154, R24, R44). -/
def mxStep1 (raw : Nat) : Bool :=
  mxMode raw != 0 && dfield raw 33 2 6 == 0 && dfield raw 34 2 6 == 0 && dfield raw 35 0 8 == 0 && decide (mxTiles raw ≤ 16384) &&
    dfield raw 38 0 16 == 0 && dfield raw 100 20 4 == 0 && dfield raw 103 0 8 == 0 && dfield raw 120 0 64 == 0 &&
    ([0, 1, 2, 3].all fun a => decide (mxRows raw a ≤ 128)) &&
    [mxWAddr raw, mxWScale raw, mxAAddr raw, mxAScale raw, mxEpi raw].all fun a => decide (a < 2 ^ 48)

/-- No-operation: K_TILES of 0, or every ROWS of 0 (R157). -/
def mxNoop (raw : Nat) : Bool := mxTiles raw == 0 || (mxActive raw).isEmpty

/-- The operand extents (R155). -/
def mxReads (raw : Nat) : List Extent :=
  let t := mxTiles raw
  let rows := (mxSpans raw).flatMap fun x => (List.range x.2).map (· + x.1)
  [(mxWAddr raw, t * mxTileBytes raw, false)] ++
    (if mxExact raw then [(mxWScale raw, t * 128 * mxP raw, false)] else []) ++
    (rows.map fun i => (mxAAddr raw + i * mxAStride raw, t * 8 * fmtBits (mxA raw), false)) ++
    (if mxExact raw then rows.map fun i => (mxAScale raw + i * mxASStride raw, 2 * t, false) else [])

/-- Do two rows spans overlap? -/
def spansOverlap (x y : RowSpan) : Bool := decide (x.1 < y.1 + y.2) && decide (y.1 < x.1 + x.2)

/-- The checks of R156 and R189 but those of the epilogue record. -/
def mxStep5 (raw : Nat) : Bool :=
  let ab := fmtBits (mxA raw)
  let t := mxTiles raw
  decide (mxGsel raw + mxP raw ≤ 4) && mxWAddr raw % 128 == 0 && mxAAddr raw % 128 == 0 && mxAStride raw % 128 == 0 &&
    decide (8 * t * ab ≤ mxAStride raw) &&
    (if mxExact raw then
      mxWScale raw % 128 == 0 && mxAScale raw % 16 == 0 && mxASStride raw % 16 == 0 && decide (2 * t ≤ mxASStride raw)
    else mxWScale raw == 0 && mxAScale raw == 0 && mxASStride raw == 0) &&
    (if mxClose raw then mxEpi raw != 0 && mxEpi raw % 128 == 0 && mxCol0 raw % 32 == 0 else mxEpi raw == 0) &&
    mxKblk raw % 2 == 0 && decide (mxKblk raw + 2 * t ≤ 0xFFFFFFFF) && decide (mxCol0 raw + 64 * mxP raw ≤ 2 ^ 32) &&
    ((mxSpans raw).all fun x => decide (x.1 + x.2 ≤ 2 ^ 32)) &&
    (if mxClose raw then (mxActive raw).all fun a => (mxActive raw).all fun b =>
        a == b || !spansOverlap (mxRow0 raw a, mxRows raw a) (mxRow0 raw b, mxRows raw b)
      else true)

/-- The epilogue record that a descriptor took at its fetch. -/
def Desc.epi (d : Desc) : Nat := d.extra.headD 0

/-- Does the descriptor have an epilogue record to read: CLOSE at 1 with an address? -/
def mxHasEpi (raw : Nat) : Bool := mxClose raw && mxEpi raw != 0

/-- Steps 4 and 5 of R90 for a matrix descriptor: the epilogue record is read, every extent translated, every check made (R202). An
address of the record with a bit above 47 has no translation: it breaks R44 (DEDUCED, log entry 60). The answer is the record. -/
def mxFetch (s : State) (p raw : Nat) : Fetched (List Nat) := do
  let n := 64 * mxP raw
  let rec_ ← if mxHasEpi raw then (s.fetchRecord p (mxEpi raw) 128).map fun r => [r] else pure []
  s.xlateAll p (mxReads raw)
  match rec_ with
  | [r] =>
    Fetched.check (epAddrs r)
    s.xlateAll p (epIns r (mxCol0 raw) n)
    s.xlateAll p (epOuts r (mxCol0 raw) n (mxSpans raw))
    let h ← s.healthDpa p (epHealth r) true
    Fetched.check (mxStep5 raw && epFits r (mxCol0 raw) n (mxSpans raw) && healthFits (epHealth r) h)
  | _ => Fetched.check (mxStep5 raw)
  pure rec_

/-! ## Groups (R187 to R193) -/

/-- The matrix descriptors of a slot that have been accepted by R190 and have tiles or an epilogue before them, in the order in which
they started (R153). -/
def State.matrixRuns (s : State) (r k : Nat) : List (Origin × Desc) :=
  let p := s.regionPart r
  let mine := fun (d : Desc) => isMatrix d.raw && d.passed && !d.ready && !d.noop && dRegion d.raw == r && dSlot d.raw == k
  let all := ((s.ringsOf p).flatMap fun n => ((s.ring n).inflight.filter mine).map fun d => (Origin.ring (Fin.ofNat 256 n), d)) ++
    ((s.slotsOf p).flatMap fun rk => ((s.slot rk.1 rk.2).inflight.filter mine).map fun d => (Origin.slot (Fin.ofNat 4 rk.1) (Fin.ofNat 40 rk.2), d))
  all.mergeSort fun a b => decide (a.2.order ≤ b.2.order)

/-- A group's state for R190: a group that an earlier descriptor of the core still uses with CLOSE at 1 counts as DRAINING. -/
def State.groupState (s : State) (r k g : Nat) : Nat :=
  if (s.matrixRuns r k).any fun x => mxClose x.2.raw && (mxGroups x.2.raw).any fun y => y.1 == g then 2
  else s.fget (CORE_ACC_GRP_STATE r k g)

/-- The continuation test of R190. -/
def State.groupMatches (s : State) (r k raw g a q : Nat) : Bool :=
  s.fget (CORE_ACC_GRP_MODE r k g) == mxMode raw && s.fget (CORE_ACC_GRP_TENSOR_ID r k g) == mxTensor raw &&
    s.fget (CORE_ACC_GRP_ROWS r k g) == mxRows raw a && s.fget (CORE_ACC_ORIGIN_ROW r k g) == mxRow0 raw a &&
    s.fget (CORE_ACC_ORIGIN_COL r k g) == mxCol0 raw + 64 * q && s.fget (CORE_ACC_KPOS_KNEXT r k g) == mxKblk raw

/-- Does a group fail the check of R190? -/
def State.groupFails (s : State) (r k raw : Nat) (x : Nat × Nat × Nat) : Bool :=
  let st := s.groupState r k x.1
  if mxOpen raw then st == 1 else !(st == 1 && s.groupMatches r k raw x.1 x.2.1 x.2.2)

/-- A group that passes: opened with its recorded items, or continued; KNEXT advances (R188, R190). -/
def State.useGroup (s : State) (r k raw : Nat) (x : Nat × Nat × Nat) : State :=
  let next := mxKblk raw + 2 * mxTiles raw
  let g := x.1
  if mxOpen raw then
    s.fsets [(CORE_ACC_GRP_STATE r k g, 1), (CORE_ACC_GRP_MODE r k g, mxMode raw), (CORE_ACC_GRP_TENSOR_ID r k g, mxTensor raw),
      (CORE_ACC_GRP_ROWS r k g, mxRows raw x.2.1), (CORE_ACC_GRP_LONG_K r k g, 0), (CORE_ACC_KPOS_KOPEN r k g, mxKblk raw),
      (CORE_ACC_KPOS_KNEXT r k g, next), (CORE_ACC_ORIGIN_COL r k g, mxCol0 raw + 64 * x.2.2),
      (CORE_ACC_ORIGIN_ROW r k g, mxRow0 raw x.2.1)]
  else s.fset (CORE_ACC_KPOS_KNEXT r k g) next

/-- The accumulation-store bytes of the groups that a descriptor uses: undefined when it is cut short (R193). -/
def mxGroupBytes (raw : Nat) : List (Nat × Nat) :=
  (mxGroups raw).map fun x => (accBase (dRegion raw) (dSlot raw) x.1, 0x8000)

/-- Does an earlier matrix descriptor of the slot still wait for its check (R153, R190)? -/
def State.matrixQueued (s : State) (d : Desc) : Bool :=
  (s.flightOf (s.regionPart (dRegion d.raw))).any fun e =>
    e.started && !e.passed && isMatrix e.raw && dRegion e.raw == dRegion d.raw && dSlot e.raw == dSlot d.raw && decide (e.order < d.order)

/-- The start of a matrix descriptor: every group is checked before anything is loaded; then they are opened or continued (R190). Checks are
made in the order of the starts. -/
def startMatrix (s : State) (d : Desc) : Run :=
  let r := dRegion d.raw
  let k := dSlot d.raw
  let gs := mxGroups d.raw
  if d.noop then .going s
  else if s.matrixQueued d then .wait s
  else
    match gs.find? (s.groupFails r k d.raw) with
    | some x => .fault s .descInvalid { unit := unitSlot r k, log := x.1 }
    | none =>
      if mxOpen d.raw ∧ (gs.any fun x => s.groupState r k x.1 == 2) then .wait s
      else .going ((s.each gs fun s x => s.useGroup r k d.raw x).updSlot r k fun q =>
        { q with begun := if mxOpen d.raw then q.begun.filter fun g => !(gs.any fun x => x.1 == g) else q.begun })

/-- What a matrix descriptor reads: its operands and what its epilogue reads. -/
def mxInputs (o : Origin) (s : State) (d : Desc) : List (Nat × Nat) :=
  let p := s.originPart o
  s.dpaRanges p (mxReads d.raw) ++ (if mxClose d.raw then s.dpaRanges p (epIns d.epi (mxCol0 d.raw) (64 * mxP d.raw)) else [])

/-- What a fault leaves undefined of a matrix descriptor's outputs: the contents of its groups. Outputs of its epilogue are old, or written
(R193). -/
def mxOutputs (d : Desc) : List (Nat × Nat) := mxGroupBytes d.raw

/-- MATRIX: a matrix descriptor starts, and its tiles stream (R190). Mismatches are found at the end of each tile (R152). -/
def matrix (o : Origin) (u : Upset) (s : State) : State :=
  s.startDesc o isMatrix (mxInputs o) (fun _ d => mxOutputs d) u (fun s _ => .going s) startMatrix

/-- MATRIX (R190). -/
def execMatrix (o : Origin) (u : Upset) (s : State) : Host.Outcome State Fault Refusal := .next (matrix o u s)

/-! ## Tile passes -/

/-- Element `j` of a packed row of `b`-bit elements. -/
def packed (row b j : Nat) : Nat := bits row (b * j) b

/-- The integer of a finite element in units of its format (R149); 0 for a non-finite one (R150). -/
def unitInt (code b : Nat) : Int :=
  match elemVal code b with
  | .fin s m e => signedAt s m e (-(unitExp code : Int))
  | _ => 0

/-- Is an element non-finite? -/
def elemBad (code b : Nat) : Bool :=
  match elemVal code b with
  | .fin _ _ _ => false
  | _ => true

/-- The weight rows of tile `t`, array row 0 to 63 (R155). -/
def State.wRows (s : State) (p raw t : Nat) : List Nat :=
  (List.range 64).map fun k => s.vloadNat p (mxWAddr raw + t * mxTileBytes raw + k * (mxTileBytes raw / 64)) (mxTileBytes raw / 64)

/-- The activation row of row `i` of an array, tile `t` (R155). -/
def State.aRow (s : State) (p raw a i t : Nat) : Nat :=
  s.vloadNat p (mxAAddr raw + (mxRow0 raw a + i) * mxAStride raw + t * 8 * fmtBits (mxA raw)) (8 * fmtBits (mxA raw))

/-- The column sum of the 16-bit modes: 64 products added in order, each addition rounded once (R148). -/
def sum16 (wf af : Nat) (w : List Nat) (x c : Nat) : Nat :=
  (w.zipIdx.foldl (fun acc (row, k) => ((elemVal af (packed x (fmtBits af) k)).mul (elemVal wf (packed row (fmtBits wf) c))).add (val32 acc) |>.to32) 0)

/-- A half-sum of the exact modes and its non-finite flag (R149, R150): `h` is the half. -/
def halfSum (wf af : Nat) (w : List Nat) (x c h : Nat) : Int × Bool :=
  ((w.drop (32 * h)).take 32).zipIdx.foldl
    (fun acc (row, k) =>
      let e := packed x (fmtBits af) (32 * h + k)
      let v := packed row (fmtBits wf) c
      (acc.1 + unitInt af e * unitInt wf v, acc.2 || elemBad af e || elemBad wf v))
    (0, false)

/-- One addition of a half-sum into an element (R195, R197): `v` exact, rounded once; an exact sum of zero gives +0. -/
def groupAdd (acc : Nat) (v : Val) (rnd : Option Nat) : Nat :=
  match (val32 acc).add v with
  | .fin s m e => if m = 0 then 0 else (Val.fin s m e).to32r rnd
  | x => x.to32

/-- By how many units the sums given are off at a row, half and column of an array, or in its checksum column (none). -/
def errSum (errs : List ArrErr) (a i h : Nat) (c : Option Nat) : Int :=
  errs.foldl (fun n e => if e.array.val = a ∧ e.row = i ∧ e.half.val = h ∧ e.col = c then n + e.delta else n) 0

/-- The element at tensor coordinates (r, c) after tile `t`'s additions: `x` its activation row, `xs` the row's scales by half, `ws`
the column's scales by half, `c` the tile column, `err` the units by which the delivered half-sums are off (R194, R195). -/
def tileElem (raw : Nat) (g : Rng) (w : List Nat) (acc x c r col b0 : Nat) (xs ws : List Nat) (err : Nat → Int) : Nat :=
  if mxExact raw then
    [0, 1].foldl
      (fun acc h =>
        let y := halfSum (mxW raw) (mxA raw) w x c h
        let xa := xs.getD h 0
        let xw := ws.getD h 0
        if y.2 || xa == 0xFF || xw == 0xFF then nan32
        else
          let v := Val.ofInt (y.1 + err h) ((xa + xw : Nat) - 254 - (unitExp (mxA raw) + unitExp (mxW raw) : Nat)) false
          groupAdd acc v (if g.seed = 0 then none else some (g.group r col (b0 + h))))
      acc
  else fadd32 acc (sum16 (mxW raw) (mxA raw) w x c)

/-- The element of a group. -/
def State.accElem (s : State) (r k g i n : Nat) : Nat := s.loadNat (accBase r k g + i * 256 + n * 4) 4

/-- Tile `t` is added into the rows of array `a`, lane `q` (R194 to R196); a group opened by this descriptor counts as +0 before its
first tile (R191). -/
def State.addTile (s : State) (p raw : Nat) (g : Rng) (w : List Nat) (t : Nat) (errs : List ArrErr) (x : Nat × Nat × Nat) : State :=
  let r := dRegion raw
  let k := dSlot raw
  let a := x.2.1
  let q := x.2.2
  let s := s.each (List.range (mxRows raw a)) fun s i =>
    let row := s.aRow p raw a i t
    let xs := if mxExact raw then [0, 1].map fun h => s.vloadNat p (mxAScale raw + (mxRow0 raw a + i) * mxASStride raw + 2 * t + h) 1 else []
    let out := (List.range 64).map fun n =>
      let c := 64 * q + n
      let ws := if mxExact raw then [0, 1].map fun h => s.vloadNat p (mxWScale raw + t * 128 * mxP raw + h * 64 * mxP raw + c) 1 else []
      let acc := if mxOpen raw ∧ t = 0 then 0 else s.accElem r k x.1 i n
      tileElem raw g w acc row c (mxRow0 raw a + i) (mxCol0 raw + c) (mxKblk raw + 2 * t) xs ws fun h => errSum errs a i h (some c)
    { s with mem := s.mem.writeBytes (accBase r k x.1 + i * 256) (packBytes 32 out) }
  s.updSlot r k fun q => { q with begun := if q.begun.contains x.1 then q.begun else q.begun ++ [x.1] }

/-- LONG_K is set in a group that adds a K block of index 32,768 or more, once, with its status record (R201). -/
def State.noteLongK (s : State) (p raw t : Nat) (x : Nat × Nat × Nat) : State :=
  let r := dRegion raw
  let k := dSlot raw
  if mxKblk raw + 2 * t + 1 < 32768 ∨ s.flag (CORE_ACC_GRP_LONG_K r k x.1) then s
  else
    ((s.fset (CORE_ACC_GRP_LONG_K r k x.1) 1).fadd (CORE_ACC_STAT_LONG_K r k) 1).record
      { code := Code.longK.num, unit := unitSlot r k, part := some p, log := x.1 }

/-! ## The checksum column (R151) -/

/-- C_k: the exact sum of the weights of a row, a non-finite one counting 0 (R150, R151). -/
def checksumOf (wf p row : Nat) : Int := (List.range (64 * p)).foldl (fun n c => n + unitInt wf (packed row (fmtBits wf) c)) 0

/-- An integer with its bit 0 inverted. -/
def flipBit0 (v : Int) : Int := if v % 2 = 0 then v + 1 else v - 1

/-- The checksum values of a tile by array row, as the loader forms them (R145, R151); an injection inverts bit 0 of C_0 (R497). -/
def checksums (wf p : Nat) (w : List Nat) (inj : Bool) : List Int :=
  w.zipIdx.map fun (row, k) => if inj && k == 0 then flipBit0 (checksumOf wf p row) else checksumOf wf p row

/-- The half-sum of the checksum cells for an activation row (R151). -/
def checkHalf (af : Nat) (cs : List Int) (x h : Nat) : Int :=
  ((cs.drop (32 * h)).take 32).zipIdx.foldl (fun n (c, k) => n + unitInt af (packed x (fmtBits af) (32 * h + k)) * c) 0

/-- The column adder's sum of the 64 × P data half-sums of row `i` of array `a`, as they left the grid (R151). -/
def columnAdder (wf af p : Nat) (w : List Nat) (x : Nat) (errs : List ArrErr) (a i h : Nat) : Int :=
  (List.range (64 * p)).foldl (fun n c => n + (halfSum wf af w x c h).1 + errSum errs a i h (some c)) 0

/-- Does the comparison of a row and half fail (R151)? -/
def mismatches (wf af p : Nat) (w : List Nat) (cs : List Int) (x : Nat) (errs : List ArrErr) (a i h : Nat) : Bool :=
  columnAdder wf af p w x errs a i h != checkHalf af cs x h + errSum errs a i h none

/-- The scales that the pass of tile `t` uses (R156). -/
def State.scaleBytes (s : State) (p raw t : Nat) : List Byte :=
  if mxExact raw then
    natLe (128 * mxP raw) (s.vloadNat p (mxWScale raw + t * 128 * mxP raw) (128 * mxP raw)) ++
      (mxActive raw).flatMap fun a => (List.range (mxRows raw a)).flatMap fun i =>
        natLe 2 (s.vloadNat p (mxAScale raw + (mxRow0 raw a + i) * mxASStride raw + 2 * t) 2)
  else []

/-- The streams of the pass of tile `t` (R300): weight rows, activation rows, scales, and by active array the swap flag. -/
def State.tileStreams (s : State) (p raw t : Nat) (w : List Nat) : List Byte :=
  w.flatMap (natLe (mxTileBytes raw / 64)) ++
    ((mxActive raw).flatMap fun a => (List.range (mxRows raw a)).flatMap fun i => natLe (8 * fmtBits (mxA raw)) (s.aRow p raw a i t)) ++
    s.scaleBytes p raw t ++ (mxActive raw).map fun a => BitVec.ofNat 8 a

/-- The values that the pass of tile `t` delivers to the accumulation store, in the order of R301: half-sums with their flags, or binary32
values; `errs` are the physical errors in its sums. -/
def State.tileOuts (s : State) (p raw t : Nat) (w : List Nat) (errs : List ArrErr) : List Byte :=
  (mxActive raw).flatMap fun a => (List.range (mxRows raw a)).flatMap fun i =>
    let x := s.aRow p raw a i t
    (List.range 64).flatMap fun n => (List.range (mxP raw)).flatMap fun q =>
      let c := 64 * q + n
      if mxExact raw then
        [0, 1].flatMap fun h =>
          let y := halfSum (mxW raw) (mxA raw) w x c h
          natLe 8 (toTwos 64 (y.1 + errSum errs a i h (some c))) ++ natLe 1 (b2n y.2)
      else natLe 4 (sum16 (mxW raw) (mxA raw) w x c)

/-- The first mismatch of array `a` in the pass of tile `t`, as row and half (R151, R152). -/
def State.firstMismatch (s : State) (p raw a t : Nat) (w : List Nat) (errs : List ArrErr) (inj : Bool) : Option (Nat × Nat) :=
  let cs := checksums (mxW raw) (mxP raw) w inj
  ((List.range (mxRows raw a)).flatMap fun i => [(i, 0), (i, 1)]).find? fun x =>
    mismatches (mxW raw) (mxA raw) (mxP raw) w cs (s.aRow p raw a x.1 t) errs a x.1 x.2

/-- The array at which an armed injection of kind 5 strikes in a pass of this descriptor, if any (R497). -/
def State.injArray (s : State) (p raw : Nat) : Option Nat :=
  let t := s.fget JIB_INJ_TARGET
  if s.injOn 5 p ∧ mxExact raw ∧ bits t 10 2 = dRegion raw ∧ bits t 4 6 = dSlot raw ∧ (mxActive raw).contains (bits t 0 2) then some (bits t 0 2) else none

/-- ARR_CHECK_LOG of an array as a word. -/
def State.arrayLog (s : State) (r k a : Nat) : Nat :=
  s.fget (ARR_CHECK_LOG_TAG r k a) + s.fget (ARR_CHECK_LOG_ROW r k a) * 2 ^ 32 + s.fget (ARR_CHECK_LOG_HALF r k a) * 2 ^ 41 +
    s.fget (ARR_CHECK_LOG_TILE r k a) * 2 ^ 42 + s.fget (ARR_CHECK_LOG_VALID r k a) * 2 ^ 63

/-- A mismatch is logged, the first of the array since CLEAR (R152). -/
def State.logMismatch (s : State) (raw a t : Nat) (x : Nat × Nat) : State :=
  let r := dRegion raw
  let k := dSlot raw
  if s.flag (ARR_CHECK_LOG_VALID r k a) then s
  else s.fsets [(ARR_CHECK_LOG_VALID r k a, 1), (ARR_CHECK_LOG_TILE r k a, t), (ARR_CHECK_LOG_HALF r k a, x.2),
    (ARR_CHECK_LOG_ROW r k a, x.1), (ARR_CHECK_LOG_TAG r k a, dTag raw)]

/-- The cause of ARRAY_CHECK: the slot, the array by the address of its ARR_CHECK_LOG, and what that log holds: tile, row and half (R152,
R434). -/
def State.arrayCause (s : State) (r k a : Nat) : Cause := { unit := unitSlot r k, log := s.arrayLog r k a, addr := ARR_CHECK_LOG r k a }

/-- The mismatches of a pass raise ARRAY_CHECK, from the descriptor (R152); those of further arrays are logged faults. -/
def State.raiseMismatches (s : State) (o : Origin) (d : Desc) (t : Nat) (l : List (Nat × Nat × Nat)) : State :=
  match l with
  | [] => s
  | x :: rest =>
    let r := dRegion d.raw
    let k := dSlot d.raw
    let s := s.each l fun s y => s.logMismatch d.raw y.1 t y.2
    let s := s.descFault o d .arrayCheck (s.arrayCause r k x.1)
    s.each rest fun s y => s.raise (s.regionPart r) .arrayCheck (d.cause (s.arrayCause r k y.1))

/-- The epilogue's outputs of `n` rows of one group: conversion, writes, counts (R205). -/
def State.epilogueRows (s : State) (p id raw rec : Nat) (g : Rng) (x : Nat × Nat × Nat) (n : Nat) : State × Health :=
  let c0 := mxCol0 raw + 64 * x.2.2
  let rows := (List.range n).map fun i => (List.range 64).map fun j => s.epValue p rec (s.accElem (dRegion raw) (dSlot raw) x.1 i j) (c0 + j)
  s.emitTile p (.desc p id) g (epFmt rec) (epKind rec) (epOut rec) (epStride rec) (epOs rec) (epOsStride rec) (mxRow0 raw x.2.1) c0 rows

/-- The epilogue's pass over one group (R205): its outputs and counts; the group is CLOSED when its last row is read (R188). -/
def State.epilogueGroup (s : State) (p id raw rec : Nat) (g : Rng) (x : Nat × Nat × Nat) : State × Health :=
  let r := dRegion raw
  let k := dSlot raw
  let y := s.epilogueRows p id raw rec g x (mxRows raw x.2.1)
  if y.1.running p = false then (y.1, y.2)
  else
    let h := { y.2 with longK := s.flag (CORE_ACC_GRP_LONG_K r k x.1) }
    (((y.1.fsets [(CORE_ACC_GRP_STATE r k x.1, 0), (CORE_ACC_GRP_MODE r k x.1, 0), (CORE_ACC_GRP_LONG_K r k x.1, 0)]).fadd
      (CORE_ACC_STAT_CLOSES r k) 1).accAdd (CORE_EPI_STAT_ROWS_READ r k) (mxRows raw x.2.1), h)

/-- The epilogue over groups in ascending order (R205). -/
def State.epilogueOver (s : State) (p : Nat) (d : Desc) (g : Rng) (gs : List (Nat × Nat × Nat)) : State × Health :=
  gs.foldl (fun x grp => if x.1.running p then let z := x.1.epilogueGroup p d.id d.raw d.epi g grp; (z.1, x.2.plus z.2) else x) (s, Health.none)

/-- The epilogue of a closing descriptor: its groups, then its health merge (R205, R209). -/
def State.epilogue (s : State) (p : Nat) (d : Desc) (g : Rng) : State :=
  let y := s.epilogueOver p d g (mxGroups d.raw)
  y.1.mergeHealth p (epHealth d.epi) y.2 (mxTensor d.raw) (epKind d.epi) (epFmt d.epi) (.desc p d.id)

/-- The rows of a group that have left the epilogue when its check fails at row `i`: MX output of TKIND 0 leaves by blocks of 32 rows
(R205, R299). -/
def epRowsOut (rec i : Nat) : Nat := if isMx (epFmt rec) ∧ epKind rec = 0 then i / 32 * 32 else i

/-- The ranges without the `n` bytes at `b`. -/
def cutRange (b n : Nat) (l : List (Nat × Nat)) : List (Nat × Nat) :=
  (l.flatMap fun x => [(x.1, min x.2 (b - x.1)), (max x.1 (b + n), x.1 + x.2 - max x.1 (b + n))]).filter fun x => x.2 != 0

/-- The adders' or the epilogue's check fails at row `i` of group `g`: ACC_CHECK, from the descriptor; the row is not written, the record
names slot, group (LOG) and row (ADDR) (R299). -/
def State.accFault (s : State) (o : Origin) (d : Desc) (g i : Nat) : State :=
  let r := dRegion d.raw
  let k := dSlot d.raw
  (s.updDesc o d.id fun e => { e with outs := cutRange (accBase r k g + i * 256) 256 e.outs }).descFault o d .accCheck { unit := unitSlot r k, log := g, addr := i }

/-- The epilogue's check fails at row `i` of group `g`: what it wrote before stays written, the row is not, and no merge takes place; ACC_CHECK,
with slot, group and row (R193, R299). -/
def State.epilogueFault (s : State) (o : Origin) (d : Desc) (rng : Rng) (g i : Nat) : State :=
  let p := s.originPart o
  let gs := mxGroups d.raw
  let t := (s.epilogueOver p d rng (gs.filter fun x => decide (x.1 < g))).1
  let t := match gs.find? fun x => x.1 == g with
    | some x => (t.epilogueRows p d.id d.raw d.epi rng x (epRowsOut d.epi i)).1
    | none => t
  if t.running p then t.descFault o d .accCheck { unit := unitSlot (dRegion d.raw) (dSlot d.raw), log := g, addr := i } else t

/-- The pass of tile `t` of a running matrix descriptor ends: its tile has been added, its rows compared (R151, R152); `hit` is the group and
row at which the accumulation adders' check fails (R299). The pass may be sampled (R300). After the last tile the descriptor is done, or its
groups are DRAINING (R158, R188). -/
def State.endTile (s : State) (o : Origin) (d : Desc) (errs : List ArrErr) (hit : Option (Nat × Nat)) : State :=
  let p := s.originPart o
  let r := dRegion d.raw
  let k := dSlot d.raw
  let t := d.work.headD 0
  let g : Rng := ⟨s.seedOf p, d.step, mxTensor d.raw⟩
  let w := s.wRows p d.raw t
  let inj := s.injArray p d.raw
  let bad := if mxExact d.raw then (mxActive d.raw).filterMap fun a => (s.firstMismatch p d.raw a t w errs (inj == some a)).map fun x => (a, x) else []
  let s := if inj.isSome then s.injFire p else s
  let held := s
  let s := s.each (mxGroups d.raw) fun s x => (s.addTile p d.raw g w t errs x).noteLongK p d.raw t x
  let s := s.each (mxActive d.raw) fun s a => (s.fadd (ARR_TILES_PASSES r k a) 1).accAdd (ARR_CYCLES_ACTIVE r k a) (mxRows d.raw a)
  let s := s.sample r 0 k (dTag d.raw) (mxExact d.raw)
    ⟨held.tileStreams p d.raw t w, held.tileOuts p d.raw t w [], crc64 (held.tileOuts p d.raw t w errs)⟩
  if bad ≠ [] then s.raiseMismatches o d t bad
  else if let some x := hit then held.accFault o d x.1 x.2
  else if t + 1 < mxTiles d.raw then s.updDesc o d.id fun e => { e with work := [t + 1] }
  else if mxClose d.raw then
    (s.fsets ((mxGroups d.raw).map fun x => (CORE_ACC_GRP_STATE r k x.1, 2))).updDesc o d.id fun e => { e with work := [t + 1] }
  else s.updDesc o d.id fun e => { e with ready := true }

/-- TILE_PASS_END: a pass of the oldest running matrix descriptor of a slot ends: the pass of a tile, with `errs` the physical errors in its
sums; or, once its last tile has passed and its groups are DRAINING, the pass of the epilogue over them (R205; log entry 80). `acc` is the
group and row at which the check of the adders or of the epilogue fails (R299). -/
def tilePassEnd (r k : Nat) (errs : List ArrErr) (acc : Option (Nat × Nat)) (s : State) : State :=
  match s.matrixRuns r k with
  | [] => s
  | (o, d) :: _ =>
    let p := s.originPart o
    if s.running p = false ∨ d.ran = false then s
    else
      let hit := acc.filter fun x => (mxGroups d.raw).any fun y => y.1 == x.1 && decide (x.2 < mxRows d.raw y.2.1)
      if d.work.headD 0 < mxTiles d.raw then s.endTile o d errs hit
      else
        let g : Rng := ⟨s.seedOf p, d.step, mxTensor d.raw⟩
        match hit with
        | some x => s.epilogueFault o d g x.1 x.2
        | none => (s.epilogue p d g).updDesc o d.id fun e => { e with ready := true }

/-- TILE_PASS_END (R152). -/
def execTilePassEnd (r : Fin 4) (k : Fin 40) (errs : List ArrErr) (acc : Option (Nat × Nat)) (s : State) : Host.Outcome State Fault Refusal :=
  .next (tilePassEnd r k errs acc s)

end Sys2Proof.Machine
end

