-- ==== Sys2Proof/Machine/Snapshot.lean ====
section
/-! DEFINITION. Snapshots: descriptors of class 0x08 and the snapshot engine (R291 to R296). -/
namespace Sys2Proof.Machine

/-- Is the descriptor of the snapshot class? -/
def isSnapshot (raw : Nat) : Bool := dClass raw == 0x08
/-- DEST: 1 a partition reached over the fabric. -/
def snRemote (raw : Nat) : Bool := bit raw (32 * 8)
/-- NOTE_JAR. -/
def snNoteJar (raw : Nat) : Nat := dfield raw 34 0 12
/-- NOTE_EN. -/
def snNoteEn (raw : Nat) : Bool := bit raw (34 * 8 + 15)
/-- NOTE_N. -/
def snNoteN (raw : Nat) : Nat := dfield raw 36 0 32
/-- LIST_ADDR. -/
def snList (raw : Nat) : Nat := dfield raw 40 0 64
/-- DST_ADDR. -/
def snDst (raw : Nat) : Nat := dfield raw 56 0 64
/-- STATUS_ADDR. -/
def snStatus (raw : Nat) : Nat := dfield raw 64 0 64
/-- DROP_BLK. -/
def snBlk (raw : Nat) : Nat := dfield raw 80 0 128

/-- SRC of chunk `i`. -/
def snSrc (list i : Nat) : Nat := chunkField list i 0 64
/-- LEN of chunk `i`. -/
def snLen (list i : Nat) : Nat := chunkField list i 8 32
/-- DST_OFF of chunk `i`. -/
def snOff (list i : Nat) : Nat := chunkField list i 16 64

/-- Step 1 of R90 for a snapshot (R291); body bytes that no table lists are reserved too (DEDUCED, log entry 28). -/
def snStep1 (raw : Nat) : Bool :=
  dRegion raw == 0 && dSlot raw == 0 && dfield raw 32 1 15 == 0 && dfield raw 34 12 3 == 0 && decide (snChunks raw ≤ 4096) &&
    dfield raw 48 13 51 == 0 && dfield raw 72 0 64 == 0 && dfield raw 96 0 256 == 0 && blkLegal (snBlk raw) &&
    [snList raw, snDst raw, snStatus raw].all fun a => decide (a < 2 ^ 48)

/-- A snapshot of no chunks is a no-operation. -/
def snNoop (raw : Nat) : Bool := snChunks raw == 0

/-- An entry of the chunk list keeps the table of R291. -/
def chunkLegal (list i : Nat) : Bool :=
  snSrc list i % 128 == 0 && snLen list i % 128 == 0 && decide (128 ≤ snLen list i) && decide (snLen list i ≤ 2 ^ 30) &&
    chunkField list i 12 32 == 0 && snOff list i % 128 == 0 && chunkField list i 24 64 == 0

/-- Steps 4 and 5 of R90 for a snapshot: the chunk list is read, the extents translated, the checks of R291 and R292 made. The answer is
the list. -/
def snFetch (s : State) (p raw : Nat) : Fetched (List Nat) := do
  let list ← s.fetchRecord p (snList raw) (32 * snChunks raw)
  let is := List.range (snChunks raw)
  let srcs ← is.mapM fun i => s.xlateRange p (snSrc list i) (snLen list i) false
  let dsts ← if snRemote raw then pure [] else is.mapM fun i => s.xlateRange p (snDst raw + snOff list i) (snLen list i) true
  let st ← s.xlateRange p (snStatus raw) 64 true
  Fetched.check (dBeat raw != 0 && dBeat raw != s.beat p && !dWaitEn raw && snList raw % 64 == 0 && (is.all (chunkLegal list)) &&
    (srcs.all fun l => l.all fun x => s.inShare p x.1) && rangesApart srcs && (dsts.all fun l => l.all fun x => inCompanion x.1) &&
    (st.all fun x => s.inShare p x.1 || inCompanion x.1) && (if snRemote raw then blkRelates (snBlk raw) else snBlk raw == 0))
  pure [list]

/-- A fetched snapshot takes the engine until it finishes (R292). -/
def State.takeEngine (s : State) (p id raw list : Nat) : State :=
  let x : Snap := ⟨id, raw, list, s.dpaRange p (snStatus raw) 64, dBeat raw, 0, false, [], [], 0, 0, false, false⟩
  s.updPart p fun q => { q with snap := some x }

/-- The boundary that begins beat `m` places the hold on every chunk (R293). -/
def State.placeHolds (s : State) (p m : Nat) : State :=
  let hold := fun (x : Snap) => if x.beat = m then { x with streaming := true, step := s.stepOf p } else x
  s.updPart p fun q => { q with snap := q.snap.map hold }

/-- SNAPSHOT: the descriptor starts and completes with RESULT 0 (R293). -/
def execSnapshot (o : Origin) (s : State) : Host.Outcome State Fault Refusal :=
  .next (s.startPlain o isSnapshot fun s _ => .done s 0)

/-- The chunk that leaves next: the first pulled, else the first of the list (R294). -/
def Snap.next (x : Snap) : Option Nat :=
  match x.pulled.find? fun i => x.held.contains i with
  | some i => some i
  | none => x.held.head?

/-- Chunk `i` has been read as `data` and is sent: stored in companion memory, or over the fabric as stream data (R131, R292). No route
raises NO_ROUTE (R357). -/
def State.sendChunk (s : State) (p : Nat) (x : Snap) (i : Nat) (data : List Byte) : Option State :=
  if snRemote x.raw then s.sendData p (snBlk x.raw) (snDst x.raw + snOff x.list i) (data.length + 1) data
  else some (s.vstore p (snDst x.raw + snOff x.list i) data (.snap p))

/-- The remote drop follows the last chunk (R131, R291). -/
def State.snapDrop (s : State) (p : Nat) (x : Snap) : Option State :=
  if snRemote x.raw && blkEn (snBlk x.raw) && x.held.isEmpty then
    (s.sendDrop p (snBlk x.raw) x.bytes .snap).map fun t => t.updPart p fun q => { q with snap := some { x with dropSent := true } }
  else some s

/-- CHUNK_LEFT: the next chunk has been read whole into the engine, is released and sent (R294). An uncorrectable sector in it raises
MEM_UNCORR (R331). -/
def chunkLeft (p : Nat) (phys : ReadUpset) (s : State) : State :=
  match (s.part p).snap with
  | none => s
  | some x =>
    match x.next with
    | none => s
    | some i =>
      let rs := s.dpaRange p (snSrc x.list i) (snLen x.list i)
      let y := (s.strike phys).readFor p rs
      match y.2 with
      | some a => y.1.raise p .memUncorr (y.1.uncorrCause a)
      | none =>
        let data := rs.flatMap fun r => y.1.load r.1 r.2
        let x := { x with left := x.left ++ [i], bytes := x.bytes + data.length }
        let s := y.1.updPart p fun q => { q with snap := some x }
        match (s.sendChunk p x i data).bind fun t => t.snapDrop p x with
        | some t => t
        | none => s.noRoute p (blkNode (snBlk x.raw))

/-- CHUNK_LEFT (R294). -/
def execChunkLeft (p : Fin 4) (phys : ReadUpset) (s : State) : Host.Outcome State Fault Refusal := .next (chunkLeft p phys s)

/-- May the snapshot finish: every chunk has left, every byte is visible (R295)? -/
def State.snapDone (s : State) (p : Nat) (x : Snap) : Bool :=
  x.streaming && x.held.isEmpty && !s.glk.acksDue (.snap p) && (!(snRemote x.raw && blkEn (snBlk x.raw)) || x.credited)

/-- SNAPSHOT_FINISH: the status record, the note marbles, the engine (R295); a partition that was stopping stops (R296). -/
def snapshotFinish (p : Nat) (s : State) : State :=
  match (s.part p).snap with
  | none => s
  | some x =>
    if s.snapDone p x = false then s
    else
      let s := s.putRanges (.snap p) x.statusAt (x.record 1 (s.beat p))
      let s := if snNoteEn x.raw ∧ snNoteN x.raw ≠ 0 then s.dropOr p (snNoteJar x.raw) (snNoteN x.raw) { unit := unitHub } else s
      let s := s.updPart p fun q => { q with snap := none }
      if s.pstate p = 4 then s.stopPart p else s

/-- SNAPSHOT_FINISH (R295). -/
def execSnapshotFinish (p : Fin 4) (s : State) : Host.Outcome State Fault Refusal := .next (snapshotFinish p s)

end Sys2Proof.Machine
end

