-- ==== Sys2Proof/Machine/Vector.lean ====
section
/-! DEFINITION. Vector descriptors and their programs (R211 to R235). -/
namespace Sys2Proof.Machine

/-! ## The body (R225) -/

/-- PROG_LEN. -/
def vxLen (raw : Nat) : Nat := dfield raw 32 0 7
/-- TKIND. -/
def vxKind (raw : Nat) : Nat := dfield raw 33 0 2
/-- ITERS. -/
def vxIters (raw : Nat) : Nat := dfield raw 34 0 16
/-- PROG_ADDR. -/
def vxProg (raw : Nat) : Nat := dfield raw 40 0 64
/-- B[n]. -/
def vxBase (raw n : Nat) : Nat := dfield raw (48 + 8 * n) 0 64
/-- STRIDE[n]. -/
def vxStride (raw n : Nat) : Nat := dfield raw (80 + 4 * n) 0 32
/-- HEALTH_ADDR. -/
def vxHealth (raw : Nat) : Nat := dfield raw 96 0 64
/-- TENSOR_ID. -/
def vxTensor (raw : Nat) : Nat := dfield raw 104 0 20
/-- ROW0. -/
def vxRow0 (raw : Nat) : Nat := dfield raw 108 0 32
/-- COL0. -/
def vxCol0 (raw : Nat) : Nat := dfield raw 112 0 32

/-- Is the descriptor of the vector class? -/
def isVector (raw : Nat) : Bool := dClass raw == 0x02

/-! ## Instructions (R215, R216) -/

/-- OP. -/
def viOp (w : Nat) : Nat := bits w 58 6
/-- VD of form A, VR of form M. -/
def viD (w : Nat) : Nat := bits w 53 5
/-- VA. -/
def viA (w : Nat) : Nat := bits w 48 5
/-- VB. -/
def viB (w : Nat) : Nat := bits w 43 5
/-- VC. -/
def viC (w : Nat) : Nat := bits w 38 5
/-- SB. -/
def viSb (w : Nat) : Bool := bit w 37
/-- SC. -/
def viSc (w : Nat) : Bool := bit w 36
/-- SUM. -/
def viSum (w : Nat) : Nat := bits w 32 4
/-- POST. -/
def viPost (w : Nat) : Bool := bit w 31
/-- SHAPE. -/
def viShape (w : Nat) : Nat := bits w 29 2
/-- COUNT. -/
def viCount (w : Nat) : Nat := bits w 0 13
/-- BASE. -/
def viBase (w : Nat) : Nat := bits w 51 2
/-- SBASE. -/
def viSbase (w : Nat) : Nat := bits w 49 2
/-- FMT. -/
def viFmt (w : Nat) : Nat := bits w 45 4
/-- FLAG. -/
def viFlag (w : Nat) : Bool := bit w 44
/-- OFFSET. -/
def viOffset (w : Nat) : Nat := bits w 13 31

/-- Is the instruction of form M: LD, ST or LDH? -/
def viMem (w : Nat) : Bool := viOp w == 0x30 || viOp w == 0x31 || viOp w == 0x32

/-- The sources that an opcode of form A uses: A, B, C; none for an opcode that is reserved (R217). -/
def viSources (op : Nat) : Option (Bool × Bool × Bool) :=
  if op = 0x04 ∨ op = 0x16 then some (true, true, true)
  else if op = 0x23 then some (false, false, false)
  else if [0x01, 0x02, 0x03, 0x05, 0x06, 0x09, 0x13, 0x14, 0x15, 0x18, 0x19, 0x1A, 0x1B].contains op then some (true, true, false)
  else if [0x07, 0x08, 0x0A, 0x0B, 0x0C, 0x0D, 0x0E, 0x0F, 0x10, 0x11, 0x12, 0x1C, 0x1D, 0x20, 0x21, 0x22, 0x28, 0x29, 0x2A, 0x2B, 0x2C,
    0x2F].contains op then some (true, false, false)
  else none

/-- Is the opcode a reduction? -/
def viReduces (op : Nat) : Bool := decide (0x28 ≤ op) && decide (op ≤ 0x2C)

/-- Does a range of `n` registers from `v` on stay within V31 (R212)? -/
def rangeFits (v n : Nat) : Bool := decide (v + n ≤ 32)

/-- The registers of a range of `count` elements. -/
def regsOf (count : Nat) : Nat := ceilDiv count 1024

/-- The checks of R215, R217, R222 and R227 on an instruction of form A. -/
def viFormA (w : Nat) : Bool :=
  match viSources (viOp w) with
  | none => false
  | some (a, b, c) =>
    let op := viOp w
    let n := regsOf (viCount w)
    let posts := op == 0x2F || (viReduces op && viPost w)
    bits w 13 16 == 0 && decide (viCount w ≤ 4096) &&
      (if op = 0x2F then viD w == 0 else true) && (a || viA w == 0) && (b || (viB w == 0 && !viSb w)) && (c || (viC w == 0 && !viSc w)) &&
      (posts || viSum w == 0) && (!viPost w || op == 0x2F || (viReduces op && viShape w == 0)) &&
      (if viReduces op then viShape w != 3 else viShape w == 0) && (if op = 0x2B then viShape w == 0 else true) &&
      (if op = 0x22 then viCount w % 1024 == 0 else true) &&
      (op == 0x2F || rangeFits (viD w) (if viReduces op && viShape w == 0 then min n 1 else n)) &&
      (!a || rangeFits (viA w) (if op = 0x21 ∨ op = 0x2F then 1 else n)) &&
      (!b || rangeFits (viB w) (if viSb w then 1 else n)) && (!c || rangeFits (viC w) (if viSc w then 1 else n))

/-- The checks of R216 and R227 on an instruction of form M within its descriptor. -/
def viFormM (raw w : Nat) : Bool :=
  let f := viFmt w
  let b := fmtBits f
  let n := viCount w
  let base := viBase w
  rangeFits (viD w) (regsOf n) && decide (n ≤ 4096) &&
    (if viOp w = 0x32 then
      !viFlag w && n == 16 && viSbase w == 0 && f == 0 && (vxBase raw base + viOffset w) % 64 == 0 && vxStride raw base % 16 == 0 &&
        (decide (vxIters raw ≤ 1) || vxStride raw base % 64 == 0)
    else
      !(decide (8 ≤ f) && decide (f ≤ 0xD)) && (vxBase raw base + viOffset w) % 16 == 0 && vxStride raw base % 16 == 0 &&
        (if isMx f then viOffset w % (4 * b) == 0 && n % 32 == 0 && vxStride raw base % (4 * b) == 0 else viSbase w == 0) &&
        (if viOp w = 0x31 ∧ isMx f then vxKind raw != 0 && (vxCol0 raw + viOffset w * 8 / b) % 32 == 0 else true) &&
        (if viOp w = 0x31 ∧ viFlag w then f != 0xE else true))

/-- Does a program name base `n`? -/
def vxNames (prog : List Nat) (n : Nat) : Bool :=
  prog.any fun w => viMem w && (viBase w == n || (viOp w != 0x32 && isMx (viFmt w) && viSbase w == n))

/-- The formats of the counted stores of a program. -/
def vxCounted (prog : List Nat) : List Nat := (prog.filter fun w => viOp w == 0x31 && viFlag w).map viFmt

/-- Step 1 of R90 for a vector descriptor (R225). -/
def vxStep1 (raw : Nat) : Bool :=
  decide (vxLen raw ≤ 64) && dfield raw 32 7 1 == 0 && vxKind raw != 3 && dfield raw 33 2 6 == 0 && dfield raw 36 0 32 == 0 &&
    dfield raw 104 20 4 == 0 && dfield raw 107 0 8 == 0 && dfield raw 116 0 96 == 0 &&
    [vxProg raw, vxBase raw 0, vxBase raw 1, vxBase raw 2, vxBase raw 3, vxHealth raw].all fun a => decide (a < 2 ^ 48)

/-- No-operation: PROG_LEN or ITERS of 0 (R232). -/
def vxNoop (raw : Nat) : Bool := vxLen raw == 0 || vxIters raw == 0

/-- The address of a form M instruction's data in iteration `i` (R226). -/
def vxData (raw w i : Nat) : Nat := vxBase raw (viBase w) + i * vxStride raw (viBase w) + viOffset w

/-- The address of its scales (R226). -/
def vxScale (raw w i : Nat) : Nat := vxBase raw (viSbase w) + i * vxStride raw (viSbase w) + viOffset w / (4 * fmtBits (viFmt w))

/-- The extents of an instruction in iteration `i` (R226). -/
def viExtents (raw w i : Nat) : List Extent :=
  if viMem w = false then []
  else if viOp w = 0x32 then [(vxData raw w i, 64, false)]
  else
    let wr := viOp w == 0x31
    (vxData raw w i, ceilDiv (viCount w * fmtBits (viFmt w)) 8, wr) ::
      (if isMx (viFmt w) then [(vxScale raw w i, ceilDiv (viCount w) 32, wr)] else [])

/-- The iterations in which an instruction acts: only the first for an LD with ONCE (R216). -/
def viIters (raw w : Nat) : List Nat := List.range (if viOp w = 0x30 ∧ viFlag w then min 1 (vxIters raw) else vxIters raw)

/-- Every extent of every iteration, and the health record (R226). -/
def vxExtents (raw : Nat) (prog : List Nat) : List Extent :=
  (prog.flatMap fun w => (viIters raw w).flatMap fun i => viExtents raw w i) ++ healthExtent (vxHealth raw)

/-- Steps 4 and 5 of R90 for a vector descriptor: the program is read, every extent translated, every check made (R226, R227). The answer
is the program. -/
def vxFetch (s : State) (p raw : Nat) : Fetched (List Nat) := do
  let bytes ← s.fetchRecord p (vxProg raw) (8 * vxLen raw)
  let prog := (List.range (vxLen raw)).map fun i => bits bytes (64 * i) 64
  s.xlateAll p (vxExtents raw prog)
  let h ← s.healthDpa p (vxHealth raw) true
  let c := vxCounted prog
  Fetched.check (vxProg raw % 64 == 0 && (prog.all fun w => if viMem w then viFormM raw w else viFormA w) && healthFits (vxHealth raw) h &&
    ([0, 1, 2, 3].all fun n => vxNames prog n || vxBase raw n == 0) && (c.all fun f => f == c.headD 0))
  pure prog

/-! ## The start -/

/-- The start of a vector descriptor: the slot's engine takes it, one at a time, with every tile register at +0 (R213, R232). -/
def runVector (o : Origin) (s : State) (d : Desc) : Run :=
  let r := dRegion d.raw
  let k := dSlot d.raw
  if (s.slot r k).vec.isSome ∨ s.behind isVector d then .wait s
  else .going (s.updSlot r k fun q => { q with vec := some ⟨o, d.id, 0, 0, d.step, false, [], .none, [], [], []⟩ })

/-- The memory that a vector descriptor of partition `p` reads, or writes (R226). -/
def vxRanges (p : Nat) (wr : Bool) (s : State) (d : Desc) : List (Nat × Nat) :=
  s.dpaRanges p ((vxExtents d.raw d.extra).filter fun e => e.2.2 == wr)

/-- VECTOR: a vector descriptor starts (R225). The engine's own checks fail at its instructions (R235). -/
def vectorStart (o : Origin) (u : Upset) (s : State) : State :=
  s.startDesc o isVector (vxRanges (s.originPart o) false) (vxRanges (s.originPart o) true) u (runVector o)

/-- VECTOR (R225). -/
def execVector (o : Origin) (u : Upset) (s : State) : Host.Outcome State Fault Refusal := .next (vectorStart o u s)

/-! ## Running an instruction -/

/-- Element `e` of the operand at register `r` (R212). -/
def VecRun.el (v : VecRun) (r e : Nat) : Nat := mgetD v.v (r * 1024 + e) 0

/-- Element `e` of the operand at register `r` written. -/
def VecRun.setEl (v : VecRun) (r e x : Nat) : VecRun := { v with v := mset v.v (r * 1024 + e) (x % 2 ^ 32) }

/-- Elements of the operand at register `r` written: pairs of element and value. -/
def VecRun.setEls (v : VecRun) (r : Nat) (l : List (Nat × Nat)) : VecRun := l.foldl (fun v x => v.setEl r x.1 x.2) v

/-- What an instruction does: it is done, in a state, with what the engine holds; or its post waits (R223). -/
inductive VecOut
  | done (s : State) (v : VecRun)
  | wait

/-- VEC_CHECK_LOG of a slot as a word. -/
def State.vecLog (s : State) (r k : Nat) : Nat :=
  s.fget (VEC_CHECK_LOG_TAG r k) + s.fget (VEC_CHECK_LOG_PARITY r k) * 2 ^ 36 + s.fget (VEC_CHECK_LOG_COL r k) * 2 ^ 37 +
    s.fget (VEC_CHECK_LOG_ROW r k) * 2 ^ 42 + s.fget (VEC_CHECK_LOG_REG r k) * 2 ^ 47 + s.fget (VEC_CHECK_LOG_INSN r k) * 2 ^ 52 +
    s.fget (VEC_CHECK_LOG_VALID r k) * 2 ^ 63

/-- A failed check of the engine: logged, the first since CLEAR, and raised as VEC_CHECK (R235). -/
def State.vecFail (s : State) (r k : Nat) (v : VecRun) (d : Desc) (m : VecMiss) : State :=
  let s := if s.flag (VEC_CHECK_LOG_VALID r k) then s
    else s.fsets [(VEC_CHECK_LOG_VALID r k, 1), (VEC_CHECK_LOG_INSN r k, v.pc), (VEC_CHECK_LOG_REG r k, m.reg),
      (VEC_CHECK_LOG_ROW r k, m.row), (VEC_CHECK_LOG_COL r k, m.col), (VEC_CHECK_LOG_PARITY r k, b2n m.parity),
      (VEC_CHECK_LOG_TAG r k, dTag d.raw)]
  s.descFault v.o d .vecCheck { unit := unitSlot r k, log := s.vecLog r k }

/-- The 32 tile registers as bytes. -/
def regBytes (v : List (Nat × Nat)) : List Byte := (List.range (32 * 1024)).flatMap fun i => natLe 4 (mgetD v i 0)

/-- What is mirrored and digested of an iteration that ends (R300). -/
def VecRun.mirror (v : VecRun) : Mirror :=
  let outs := v.outs ++ regBytes v.v
  ⟨regBytes v.first ++ v.loads, outs, crc64 outs⟩

/-- The engine goes on to the next instruction, the next iteration, or the end: its health is merged and the descriptor is done
(R229, R232). The end of an iteration may be sampled (R300). -/
def State.vecAdvance (s : State) (r k : Nat) (d : Desc) (v : VecRun) : State :=
  let v := { v with postWait := false }
  let s := if v.pc + 1 = vxLen d.raw then s.sample r 1 k (dTag d.raw) true v.mirror else s
  if v.pc + 1 < vxLen d.raw then s.updSlot r k fun q => { q with vec := some { v with pc := v.pc + 1 } }
  else if v.iter + 1 < vxIters d.raw then s.updSlot r k fun q => { q with vec := some { v with pc := 0, iter := v.iter + 1, first := v.v, loads := [], outs := [] } }
  else
    let p := s.originPart v.o
    let s := match vxCounted d.extra with
      | f :: _ => s.mergeHealth p (vxHealth d.raw) v.health (vxTensor d.raw) (vxKind d.raw) f (.desc p v.id)
      | [] => s
    (s.updSlot r k fun q => { q with vec := none }).updDesc v.o v.id fun e => { e with ready := true }

/-- The instruction that a slot's engine is at, when it has opcode `op`, is performed by `f` (R232); `chk` says where the engine's own
check fails, if it does (R235). -/
def State.vecStep (s : State) (r k op : Nat) (chk : Option VecMiss) (f : State → Desc → VecRun → Nat → VecOut) : State :=
  match (s.slot r k).vec with
  | none => s
  | some v =>
    match s.desc? v.o v.id with
    | none => s
    | some d =>
      let w := d.extra.getD v.pc 0
      if s.running (s.originPart v.o) = false ∨ viOp w ≠ op then s
      else
        match chk with
        | some m => s.vecFail r k v d m
        | none =>
          match f s d v w with
          | .done t x => t.vecAdvance r k d x
          | .wait => s.updSlot r k fun q => { q with vec := some { v with postWait := true } }

/-- An elementwise instruction: `g` gives element e from the elements of the sources (R214, R217). -/
def vecLanes (g : Nat → Nat → Nat → Nat) (s : State) (_ : Desc) (v : VecRun) (w : Nat) : VecOut :=
  let out := (List.range (viCount w)).map fun e =>
    (e, g (v.el (viA w) e) (v.el (viB w) (if viSb w then 0 else e)) (v.el (viC w) (if viSc w then 0 else e)))
  .done s (v.setEls (viD w) out)

/-- A lane function of one source. -/
def lane1 (g : Nat → Nat) (a _ _ : Nat) : Nat := g a
/-- A lane function of two sources. -/
def lane2 (g : Nat → Nat → Nat) (a b _ : Nat) : Nat := g a b

/-- 1.0 in FP32. -/
def one32 : Nat := 0x3F800000

/-- A function whose bits NGEN fixes (R218): `zero` its value at ±0 by sign, `neg` whether a negative finite operand is invalid, `pinf` and
`ninf` its values at the infinities. -/
def fnSpecial (f : Nat) (zero : Bool → Nat) (neg : Bool) (pinf ninf x : Nat) : Nat :=
  match val32 x with
  | .nan => nan32
  | .inf s => if s then ninf else pinf
  | .fin s m _ => if m = 0 then zero s else if neg ∧ s then nan32 else fnBits f x

/-- RSQRT (R218). -/
def vRsqrt : Nat → Nat := fnSpecial 0x0B inf32 true 0 nan32
/-- EXP (R218): a finite operand whose result is at least 2^128, that is from 0x42B1_7218 on, gives +∞. -/
def vExp (x : Nat) : Nat := if 0x42B17218 ≤ x ∧ x < 0x7F800000 then inf32 false else fnSpecial 0x0D (fun _ => one32) false (inf32 false) 0 x
/-- LOG (R218). -/
def vLog : Nat → Nat := fnSpecial 0x0E (fun _ => inf32 true) true (inf32 false) nan32
/-- TANH (R218). -/
def vTanh : Nat → Nat := fnSpecial 0x0F (fun s => if s then 0x80000000 else 0) false one32 0xBF800000
/-- SIGM (R218). -/
def vSigm : Nat → Nat := fnSpecial 0x10 (fun _ => 0x3F000000) false one32 0

/-- A comparison as INT32 (R217). -/
def vCmp (c : Val → Val → Bool) (a b : Nat) : Nat := b2n (c (val32 a) (val32 b))

/-- INT32 to FP32 (R217). -/
def vCvtif (a : Nat) : Nat := ofInt32 (sext 32 a)

/-- FP32 to INT32: nearest-even, clamped; NaN gives 0 (R217). -/
def vCvtfi (a : Nat) : Nat :=
  match val32 a with
  | .nan => 0
  | .inf s => if s then 0x80000000 else 0x7FFFFFFF
  | .fin s m e =>
    let n := gridRound (gridCut m e 0) none
    if s then toTwos 32 (-(min n (2 ^ 31) : Nat)) else min n (2 ^ 31 - 1)

/-! ## Reductions (R219 to R222) -/

/-- One level of the tree of R219. -/
def treeLevel : List (Option Nat) → List (Option Nat)
  | [] => []
  | [x] => [x]
  | x :: y :: t =>
    (match x, y with
      | some a, some b => some (fadd32 a b)
      | some a, none => some a
      | none, b => b) :: treeLevel t

/-- `n` levels of the tree. -/
def treeLevels : Nat → List (Option Nat) → List (Option Nat)
  | 0, l => l
  | n + 1, l => treeLevels n (treeLevel l)

/-- The sum of the leaves in the fixed tree of 2^`n` leaves; absent leaves are `none`. -/
def treeSum (n : Nat) (leaves : List (Option Nat)) : Option Nat := ((treeLevels n leaves).headD none).map canon32

/-- The maximum or minimum of a list (R166). -/
def foldMax (g : Nat → Nat → Nat) (l : List Nat) : Option Nat :=
  match l with
  | [] => none
  | x :: t => some (canon32 (t.foldl g x))

/-- The leaves of a reduction that are present, with the place of its result, by shape: for ALL the one tree; for ROW and COL one for each
tile row or column that has an element (R219). `pick` reads the leaves. -/
def reduceSets (w : Nat) : List (Nat × List Nat) :=
  let n := viCount w
  let regs := List.range (regsOf n)
  match viShape w with
  | 0 => [(0, List.range n)]
  | 1 => regs.flatMap fun m => (List.range 32).map fun i => (1024 * m + 32 * i, ((List.range 32).map fun j => 1024 * m + 32 * i + j).filter fun e => decide (e < n))
  | _ => regs.flatMap fun m => (List.range 32).map fun j => (1024 * m + j, ((List.range 32).map fun i => 1024 * m + 32 * i + j).filter fun e => decide (e < n))

/-- A post into a summary register: it waits while the register is fresh (R119, R223). -/
def State.postSum (s : State) (r k i : Nat) (x : Nat) : Option State :=
  if (s.slot r k).fresh.contains i then none
  else some (s.updSlot r k fun q => { q with sums := mset q.sums i (BitVec.ofNat 64 x), fresh := i :: q.fresh })

/-- The end of an instruction that may post `x` (R222). -/
def vecPost (s : State) (v : VecRun) (d : Desc) (w x : Nat) (posts : Bool) : VecOut :=
  if posts then
    match s.postSum (dRegion d.raw) (dSlot d.raw) (viSum w) x with
    | some t => .done t { v with outs := v.outs ++ natLe 8 x }
    | none => .wait
  else .done s v

/-- A reduction (R219, R221): `g` gives the result of the present leaves, `empty` what an empty one posts. -/
def vecReduce (g : List Nat → Option Nat) (empty : Nat) (s : State) (d : Desc) (v : VecRun) (w : Nat) : VecOut :=
  let out := (reduceSets w).filterMap fun x => (if x.2.isEmpty then none else g (x.2.map (v.el (viA w)))).map fun y => (x.1, y)
  let y := (out.head?.map (·.2)).getD empty
  vecPost s (v.setEls (viD w) out) d w (if viCount w = 0 then empty else y) (viPost w)

/-- RSUM's leaves: for ALL the index space 0 to 4,095, else 32 leaves in order; those present come first (R219). -/
def sumLeaves (l : List Nat) : Option Nat := treeSum 12 (l.map some)

/-- The first place of a maximum: of the first NaN when there is one, else of the greatest element (R166, R220). -/
def argMax (l : List Nat) : Option (Nat × Nat) :=
  match l.findIdx? isNan32 with
  | some i => some (nan32, i)
  | none => (foldMax fmax32 l).map fun m => (m, (l.findIdx? fun x => !ordLt32 x m).getD 0)

/-- RAMAX (R220). -/
def vecArgMax (s : State) (d : Desc) (v : VecRun) (w : Nat) : VecOut :=
  match argMax ((List.range (viCount w)).map (v.el (viA w))) with
  | none => vecPost s v d w (inf32 true + 0xFFFFFFFF * 2 ^ 32) (viPost w)
  | some (m, i) => vecPost s ((v.setEl (viD w) 0 m).setEl (viD w) 1 i) d w (m + i * 2 ^ 32) (viPost w)

/-- TRANS: element (i, j) receives element (j, i), register by register (R217). -/
def vecTrans (s : State) (_ : Desc) (v : VecRun) (w : Nat) : VecOut :=
  .done s (v.setEls (viD w) ((List.range (viCount w)).map fun e => (e, v.el (viA w) (e / 1024 * 1024 + e % 32 * 32 + e % 1024 / 32))))

/-- BCAST: element 0 of VA into every element (R217). -/
def vecBcast (s : State) (_ : Desc) (v : VecRun) (w : Nat) : VecOut :=
  .done s (v.setEls (viD w) ((List.range (viCount w)).map fun e => (e, v.el (viA w) 0)))

/-- IOTA: INT32 e (R217). -/
def vecIota (s : State) (_ : Desc) (v : VecRun) (w : Nat) : VecOut :=
  .done s (v.setEls (viD w) ((List.range (viCount w)).map fun e => (e, e)))

/-- POST: element 0 of VA is posted (R222). -/
def vecPostOp (s : State) (d : Desc) (v : VecRun) (w : Nat) : VecOut := vecPost s v d w (v.el (viA w) 0) true

/-! ## Memory (R226, R228 to R231) -/

/-- LD: elements are read and widened; with ONCE only in iteration 0 (R216, R228). -/
def vecLd (s : State) (d : Desc) (v : VecRun) (w : Nat) : VecOut :=
  if viFlag w ∧ v.iter ≠ 0 then .done s v
  else
    let p := s.originPart v.o
    let b := fmtBits (viFmt w)
    let data := s.vloadNat p (vxData d.raw w v.iter) (ceilDiv (viCount w * b) 8)
    let scales := if isMx (viFmt w) then s.vloadNat p (vxScale d.raw w v.iter) (ceilDiv (viCount w) 32) else 0
    let out := (List.range (viCount w)).map fun e =>
      let x := packedAt data b e
      (e, if 0xE ≤ viFmt w then x else widen32 (viFmt w) x (bits scales (8 * (e / 32)) 8))
    .done s { v.setEls (viD w) out with loads := v.loads ++ natLe (ceilDiv (viCount w * b) 8) data ++ natLe (if isMx (viFmt w) then ceilDiv (viCount w) 32 else 0) scales }
where
  /-- Element `e` of packed data. -/
  packedAt (data b e : Nat) : Nat := bits data (b * e) b

/-- ST: elements are narrowed and stored, counted with H (R228, R229). -/
def vecSt (s : State) (d : Desc) (v : VecRun) (w : Nat) : VecOut :=
  let p := s.originPart v.o
  let f := viFmt w
  let b := fmtBits f
  let vals := (List.range (viCount w)).map (v.el (viD w))
  let owner := Owner.desc p v.id
  let a := vxData d.raw w v.iter
  let g : Rng := ⟨s.seedOf p, v.step, vxTensor d.raw⟩
  let r := vxRow0 d.raw + v.iter
  let c := vxCol0 d.raw + viOffset w * 8 / b
  let stored := fun (bs : List Byte) => { v with outs := v.outs ++ bs }
  if f = 0xE then .done (s.vstore p a (packBytes 32 vals) owner) (stored (packBytes 32 vals))
  else if isMx f then
    let y := mxRow g f (vxKind d.raw) r c vals
    let s := (s.vstore p (vxScale d.raw w v.iter) (packBytes 8 y.1) owner).vstore p a (packBytes b y.2.1) owner
    let v := stored (packBytes b y.2.1 ++ packBytes 8 y.1)
    .done s (if viFlag w then { v with health := v.health.plus y.2.2 } else v)
  else
    let y := narrowRow g f (vxKind d.raw) r c vals
    let v := stored (packBytes b y.1)
    .done (s.vstore p a (packBytes b y.1) owner) (if viFlag w then { v with health := v.health.plus y.2 } else v)

/-- LDH: the sixteen words of a health record (R230). -/
def vecLdh (s : State) (d : Desc) (v : VecRun) (w : Nat) : VecOut :=
  let x := s.vloadNat (s.originPart v.o) (vxData d.raw w v.iter) 64
  .done s { v.setEls (viD w) ((List.range 16).map fun e => (e, bits x (32 * e) 32)) with loads := v.loads ++ natLe 64 x }

end Sys2Proof.Machine
end

