-- ==== Sys2Proof/Machine/Yoyo.lean ====
section
/-! DEFINITION. Yo-Yo: activation descriptors, class 0x07 (R278 to R288). -/
namespace Sys2Proof.Machine

/-! ## The body (R281) -/

/-- Is the descriptor of the activation class? -/
def isActivation (raw : Nat) : Bool := dClass raw == 0x07
/-- OP: 0 STASH, 1 RECALL, 2 RELEASE, 3 GROUP_ROWS. -/
def yoOp (raw : Nat) : Nat := dfield raw 32 0 8
/-- Is the descriptor of the activation class with this operation? -/
def isYoOp (op raw : Nat) : Bool := isActivation raw && yoOp raw == op
/-- FORM: 0 COPY, 1 NARROW, 2 MASK, 3 INDEX16, 4 RECOMPUTE. -/
def yoForm (raw : Nat) : Nat := dfield raw 33 0 3
/-- POOL. -/
def yoPool (raw : Nat) : Nat := dfield raw 33 3 1
/-- SPILL. -/
def yoSpill (raw : Nat) : Bool := bit raw (33 * 8 + 4)
/-- FREE. -/
def yoFree (raw : Nat) : Bool := bit raw (33 * 8 + 5)
/-- FMT. -/
def yoFmt (raw : Nat) : Nat := dfield raw 34 0 4
/-- HANDLE. -/
def yoHandle (raw : Nat) : Nat := dfield raw 36 0 16
/-- ROWS. -/
def yoRows (raw : Nat) : Nat := dfield raw 40 0 32
/-- COLS. -/
def yoCols (raw : Nat) : Nat := dfield raw 44 0 32
/-- ADDR. -/
def yoAddr (raw : Nat) : Nat := dfield raw 48 0 64
/-- STRIDE. -/
def yoStride (raw : Nat) : Nat := dfield raw 56 0 32
/-- SSTRIDE. -/
def yoSstride (raw : Nat) : Nat := dfield raw 60 0 32
/-- SADDR. -/
def yoSaddr (raw : Nat) : Nat := dfield raw 64 0 64
/-- HEALTH_ADDR. -/
def yoHealth (raw : Nat) : Nat := dfield raw 72 0 64
/-- TENSOR_ID. -/
def yoTensor (raw : Nat) : Nat := dfield raw 80 0 20
/-- DSTRIDE. -/
def yoDstride (raw : Nat) : Nat := dfield raw 84 0 32
/-- VIDX_ADDR. -/
def yoVidx (raw : Nat) : Nat := dfield raw 88 0 64
/-- DST_ADDR. -/
def yoDst (raw : Nat) : Nat := dfield raw 96 0 64
/-- SEG_ADDR. -/
def yoSeg (raw : Nat) : Nat := dfield raw 104 0 64
/-- VCOUNT. -/
def yoVcount (raw : Nat) : Nat := dfield raw 112 0 13
/-- PERM_ADDR. -/
def yoPerm (raw : Nat) : Nat := dfield raw 120 0 64

/-- INT32, as R281 codes it. -/
def codeInt32 : Nat := 0xE

/-- Step 1 of R90 (R281): reserved fields and encodings, ranges of counts, high address bits (R44); body bytes that no table lists are
reserved too (DEDUCED, log entry 28). -/
def yoStep1 (raw : Nat) : Bool :=
  dSlot raw == 0 && decide (yoOp raw ≤ 3) && decide (yoForm raw ≤ 4) && dfield raw 33 6 2 == 0 &&
    (yoFmt raw ≤ 1 || codeInt32 ≤ yoFmt raw || (yoOp raw == 1 && decide (yoFmt raw ≤ 7))) &&
    dfield raw 34 4 12 == 0 && dfield raw 38 0 16 == 0 && dfield raw 80 20 12 == 0 && dfield raw 112 13 51 == 0 &&
    decide (yoVcount raw ≤ 4096) && (yoOp raw != 3 || decide (yoRows raw ≤ 1048576)) &&
    [yoAddr raw, yoSaddr raw, yoHealth raw, yoVidx raw, yoDst raw, yoSeg raw, yoPerm raw].all fun a => decide (a < 2 ^ 48)

/-- Is an activation descriptor a no-operation (R24, R281)? A RELEASE has no count. -/
def yoNoop (raw : Nat) : Bool :=
  yoOp raw != 2 && (yoRows raw == 0 || yoCols raw == 0 || (yoOp raw == 3 && yoVcount raw == 0))

/-- Is a RECALL to MX? -/
def yoToMx (raw : Nat) : Bool := yoOp raw == 1 && isMx (yoFmt raw)

/-- The bytes of one row at ADDR. -/
def yoRowBytes (raw : Nat) : Nat := if yoOp raw = 3 then yoCols raw else yoCols raw * fmtBits (yoFmt raw) / 8

/-- A field that the operation does not use is 0 (R281). -/
def yoUnused (raw : Nat) : Bool :=
  (yoOp raw == 0 || (yoForm raw == 0 && yoPool raw == 0 && !yoSpill raw && yoTensor raw == 0)) &&
    (yoPool raw == 0 || !yoSpill raw) && (yoOp raw == 1 || !yoFree raw) && (decide (yoOp raw ≤ 1) || yoFmt raw == 0) &&
    (yoOp raw != 3 || yoHandle raw == 0) &&
    (yoOp raw != 2 || (yoRows raw == 0 && yoCols raw == 0 && yoAddr raw == 0 && yoStride raw == 0)) &&
    (yoToMx raw || (yoSstride raw == 0 && yoSaddr raw == 0)) && ((yoOp raw == 0 && yoForm raw == 1) || yoHealth raw == 0) &&
    (yoOp raw == 3 || (yoDstride raw == 0 && yoVidx raw == 0 && yoDst raw == 0 && yoSeg raw == 0 && yoVcount raw == 0 && yoPerm raw == 0))

/-- The rest of R281's checks: step 5 of R90. -/
def State.yoStep5 (s : State) (raw : Nat) : Bool :=
  yoUnused raw &&
    ([yoAddr raw, yoStride raw, yoSaddr raw, yoSstride raw, yoDstride raw, yoVidx raw, yoDst raw, yoSeg raw, yoPerm raw].all fun a => a % 16 == 0) &&
    (decide (1 < yoOp raw) || decide (yoRowBytes raw ≤ yoStride raw)) &&
    (yoOp raw != 0 || yoForm raw != 1 || yoCols raw % 32 == 0) && (yoOp raw != 0 || yoForm raw != 3 || yoFmt raw == codeInt32) &&
    (!yoToMx raw || yoFmt raw == 2) && (yoOp raw != 3 || yoCols raw % 16 == 0) &&
    (yoOp raw == 3 || decide (yoHandle raw < s.fget (YOY_TABLE_ENTRIES (dRegion raw))))

/-- The rows at an address: extents of `n` bytes, `stride` apart. -/
def rowExtents (a n stride rows : Nat) (w : Bool) : List Extent := (List.range rows).map fun i => (a + i * stride, n, w)

/-- What an activation descriptor reads at virtual addresses. A RECOMPUTE stash reads nothing (R282). -/
def yoReads (raw : Nat) : List Extent :=
  if yoOp raw = 0 then if yoForm raw = 4 then [] else rowExtents (yoAddr raw) (yoRowBytes raw) (yoStride raw) (yoRows raw) false
  else if yoOp raw = 3 then (yoVidx raw, 2 * yoRows raw, false) :: rowExtents (yoAddr raw) (yoCols raw) (yoStride raw) (yoRows raw) false
  else []

/-- What it writes at virtual addresses. -/
def yoWrites (raw : Nat) : List Extent :=
  if yoOp raw = 1 then
    rowExtents (yoAddr raw) (yoRowBytes raw) (yoStride raw) (yoRows raw) true ++
      (if yoToMx raw then rowExtents (yoSaddr raw) (ceilDiv (yoCols raw) 32) (yoSstride raw) (yoRows raw) true else [])
  else if yoOp raw = 3 then
    rowExtents (yoDst raw) (yoCols raw) (yoDstride raw) (yoRows raw) true ++ [(yoSeg raw, 8 * yoVcount raw, true)] ++
      (if yoPerm raw = 0 then [] else [(yoPerm raw, 4 * yoRows raw, true)])
  else []

/-- Steps 4 and 5 of R90 for an activation descriptor. -/
def yoFetch (s : State) (p raw : Nat) : Fetched (List Nat) := do
  s.xlateAll p (yoReads raw ++ yoWrites raw ++ healthExtent (yoHealth raw))
  let h ← s.healthDpa p (yoHealth raw) true
  Fetched.check (s.yoStep5 raw && healthFits (yoHealth raw) h)
  pure []

/-! ## The keep table and the chunks (R279, R280) -/

/-- The size of a chunk: 1 MiB. -/
def chunkBytes : Nat := 2 ^ 20

/-- Local chunks of region `r`. -/
def State.yoLocal (s : State) (r : Nat) : Nat := s.fget (YOY_POOL_CHUNKS r)

/-- A handle of region `r`, when it is not EMPTY. -/
def State.handle? (s : State) (r h : Nat) : Option Handle := mget? (s.region r).handles h

/-- The DPA of chunk `c`: local chunks first, then spill chunks (R280). -/
def State.chunkDpa (s : State) (r c : Nat) : Nat :=
  if c < s.yoLocal r then (s.fget (YOY_POOL_BASE r) + c) * chunkBytes else (s.fget (YOY_SPILL_BASE r) + (c - s.yoLocal r)) * chunkBytes

/-- The chunks in use. -/
def Region.chunksUsed (q : Region) : List Nat := q.handles.flatMap fun h => h.2.chunks

/-- The first `n` free chunks among those from `lo` on, of which there are `count`, when there are so many (R280). -/
def State.freeChunks (s : State) (r lo count n : Nat) : Option (List Nat) :=
  let used := (s.region r).chunksUsed
  let l := (((List.range count).map (· + lo)).filter fun c => !used.contains c).take n
  if l.length = n then some l else none

/-- Local chunks held under a pool: YOY_USED.ACT and YOY_USED.KEEP. -/
def State.yoUsed (s : State) (r pool : Nat) : Nat :=
  (s.region r).handles.foldl (fun n h => if h.2.st = 1 ∧ h.2.pool = pool then n + h.2.chunks.length else n) 0

/-- YOY_STAT.SPILL_USED. -/
def State.yoSpilled (s : State) (r : Nat) : Nat :=
  (s.region r).handles.foldl (fun n h => if h.2.st = 2 then n + h.2.chunks.length else n) 0

/-- YOY_USED.NOTKEPT. -/
def State.yoNotkept (s : State) (r : Nat) : Nat := min ((s.region r).handles.filter fun h => h.2.st == 3).length 0xFFFFF

/-- A handle takes its tensor: its table entry and its chain in the map. -/
def State.keepHandle (s : State) (r h : Nat) (x : Handle) (owner : Owner) : State :=
  let s := (s.updRegion r fun q => { q with handles := mset q.handles h x }).touchEntry r h
  s.each (s.chainWords r x.chunks) fun s w => s.put w.1 w.2 owner

/-- A handle returns to EMPTY and its chunks are free (R285); their map entries mean nothing any more (log entry 13). -/
def State.emptyHandle (s : State) (r h : Nat) : State := s.restoreHandle r h none

/-- Is an activation descriptor of the region that started before this one still running: not run, or its writes not all acknowledged (R287)? -/
def State.yoBehind (s : State) (d : Desc) : Bool :=
  let p := s.regionPart (dRegion d.raw)
  (s.flightOf p).any fun e =>
    e.started && isActivation e.raw && dRegion e.raw == dRegion d.raw && decide (e.order < d.order) && (!e.ran || s.glk.acksDue (.desc p e.id))

/-- The descriptor notes what its handle was before it changes it (R287). -/
def State.noteUndo (s : State) (o : Origin) (d : Desc) : State :=
  s.updDesc o d.id fun e => { e with undo := some (yoHandle d.raw, s.handle? (dRegion d.raw) (yoHandle d.raw)) }

/-- Initialisation at a START after a write of the four registers (R279). -/
def State.yoInit (s : State) (r : Nat) : State :=
  if (s.region r).yoyoDirty = false then s
  else
    let s := s.undef (s.fget (YOY_TABLE_BASE r) * 4096) (32 * s.fget (YOY_TABLE_ENTRIES r))
    let s := s.undef (s.fget (YOY_MAP_BASE r) * 4096) (4 * (s.yoLocal r + s.fget (YOY_SPILL_CHUNKS r)))
    s.updRegion r fun q => { q with handles := [], yoyoDirty := false }

/-- The DPA ranges of `n` kept bytes in a chain of chunks. -/
def State.keptRanges (s : State) (r n : Nat) (chunks : List Nat) : List (Nat × Nat) :=
  chunks.zipIdx.map fun (c, i) => (s.chunkDpa r c, min chunkBytes (n - i * chunkBytes))

/-- The bytes that a form keeps (R282). -/
def keptBytes (form fmt rows cols : Nat) : Nat :=
  match form with
  | 0 => rows * cols * fmtBits fmt / 8
  | 1 => rows * cols * 33 / 32
  | 2 => ceilDiv (rows * cols) 8
  | 3 => rows * cols * 2
  | _ => 0

/-! ## Failures -/

/-- YOY_LOG takes the first failure since CLEAR. -/
def State.yoLog (s : State) (raw kind : Nat) : State :=
  let r := dRegion raw
  if s.flag (YOY_LOG_VALID r) then s
  else s.fsets [(YOY_LOG_VALID r, 1), (YOY_LOG_KIND r, kind), (YOY_LOG_HANDLE r, if kind = 3 then 0 else yoHandle raw), (YOY_LOG_TAG r, dTag raw)]

/-- YOY_LOG as a word. -/
def State.yoWord (s : State) (r : Nat) : Nat :=
  s.fget (YOY_LOG_VALID r) * 2 ^ 63 + s.fget (YOY_LOG_KIND r) * 2 ^ 60 + s.fget (YOY_LOG_HANDLE r) * 2 ^ 32 + s.fget (YOY_LOG_TAG r)

/-- A failure of an activation descriptor. -/
def State.yoFail (s : State) (raw kind : Nat) (c : Code) : Run :=
  let s := s.yoLog raw kind
  .fault s c { unit := unitRegion (dRegion raw), log := s.yoWord (dRegion raw) }

/-! ## STASH (R282, R283) -/

/-- Where a stash of `n` chunks goes (R283): its placement code with its chunks, or failure. -/
def State.place (s : State) (raw : Nat) : Option (Nat × List Nat) :=
  let r := dRegion raw
  let n := ceilDiv (keptBytes (yoForm raw) (yoFmt raw) (yoRows raw) (yoCols raw)) chunkBytes
  let budget := if yoPool raw = 0 then s.fget (YOY_BUDGET_ACT r) else s.fget (YOY_BUDGET_KEEP r)
  let here := if s.yoUsed r (yoPool raw) + n ≤ budget then s.freeChunks r 0 (s.yoLocal r) n else none
  if yoForm raw = 4 then some (2, [])
  else
    match here with
    | some l => some (0, l)
    | none =>
      if yoPool raw = 1 then some (2, [])
      else if yoSpill raw then (s.freeChunks r (s.yoLocal r) (s.fget (YOY_SPILL_CHUNKS r)) n).map fun l => (1, l)
      else none

/-- Does the stash read its source: it is stored in chunks of an EMPTY handle (R283)? -/
def State.stashReads (s : State) (raw : Nat) : Bool :=
  (s.handle? (dRegion raw) (yoHandle raw)).isNone &&
    match s.place raw with
    | some x => decide (x.1 ≤ 1)
    | none => false

/-- Element (i, j) at ADDR, as its pattern. -/
def State.yoElem (s : State) (p raw i j : Nat) : Nat :=
  let w := fmtBits (yoFmt raw) / 8
  s.vloadNat p (yoAddr raw + i * yoStride raw + j * w) w

/-- The FP32 value of element (i, j); the manual states none for an INT32 element that is narrowed, so it is a free function of its bits (log
entry 14). -/
def State.yoValue (s : State) (p raw i j : Nat) : Nat :=
  let e := s.yoElem p raw i j
  if yoFmt raw = codeInt32 then (Config.int32Narrow (BitVec.ofNat 32 e)).toNat else widen32 (yoFmt raw) e 0

/-- The bit that MASK keeps of an element, if it is a zero or one (R282). -/
def maskBit (fmt e : Nat) : Option Nat :=
  if fmt = codeInt32 then if e ≤ 1 then some e else none
  else if isZero32 (widen32 fmt e 0) then some 0
  else if widen32 fmt e 0 = 0x3F800000 then some 1
  else none

/-- A sequence of options, all there or none. -/
def allSome {α : Type} : List (Option α) → Option (List α)
  | [] => some []
  | none :: _ => none
  | some a :: t => (allSome t).map (a :: ·)

/-- The coordinates of a tensor, row by row. -/
def rowMajor (rows cols : Nat) : List (Nat × Nat) := (List.range rows).flatMap fun i => (List.range cols).map fun j => (i, j)

/-- The bytes that a stash keeps, with its counts; none when the form cannot hold an element (R282). -/
def State.stashBytes (s : State) (p raw : Nat) : Option (List Byte × Health) :=
  let ij := rowMajor (yoRows raw) (yoCols raw)
  match yoForm raw with
  | 0 => some ((List.range (yoRows raw)).flatMap fun i => s.vload p (yoAddr raw + i * yoStride raw) (yoRowBytes raw), .none)
  | 1 =>
    let bs := (List.range (yoRows raw)).flatMap fun i =>
      (blocks32 ((List.range (yoCols raw)).map fun j => s.yoValue p raw i j)).map fun v => mxBlock 2 1 v []
    some (packBytes 8 (bs.flatMap (·.2.1)) ++ packBytes 8 (bs.map (·.1)), bs.foldl (fun h b => h.plus b.2.2) .none)
  | 2 => (allSome (ij.map fun x => maskBit (yoFmt raw) (s.yoElem p raw x.1 x.2))).map fun l => (packBytes 1 l, .none)
  | _ =>
    (allSome (ij.map fun x => let e := s.yoElem p raw x.1 x.2; if e < 65536 then some e else none)).map fun l => (packBytes 16 l, .none)

/-- STASH runs (R283). -/
def runStash (o : Origin) (s : State) (d : Desc) : Run :=
  let p := s.originPart o
  let raw := d.raw
  let r := dRegion raw
  let h := yoHandle raw
  let owner := Owner.desc p d.id
  if s.yoBehind d then .wait s
  else if (s.handle? r h).isSome then s.yoFail raw 0 .yoyHandle
  else
    match s.place raw with
    | none => s.yoFail raw 1 .yoyFull
    | some (code, chunks) =>
      let x : Handle := ⟨code + 1, yoForm raw, yoFmt raw, yoRows raw, yoCols raw, yoTensor raw, yoPool raw, chunks⟩
      if code = 2 then .done (s.keepHandle r h x owner) 2
      else
        match s.stashBytes p raw with
        | none => s.yoFail raw 2 .yoyLossy
        | some (bs, hl) =>
          let s := (s.noteUndo o d).putRanges owner (s.keptRanges r bs.length chunks) bs
          let s := if yoForm raw = 1 then s.mergeHealth p (yoHealth raw) hl (yoTensor raw) 1 2 owner else s
          .done (if s.running p then s.keepHandle r h x owner else s) code

/-- The start command of an operation of the activation class. -/
def State.yoCmd (s : State) (op : Nat) (o : Origin) (u : Upset) (inputs : State → Desc → List (Nat × Nat)) (run : State → Desc → Run) : State :=
  s.startDesc o (isYoOp op) inputs (fun s d => s.dpaRanges (s.originPart o) (yoWrites d.raw)) u run

/-- STASH (R283). -/
def execStash (o : Origin) (u : Upset) (s : State) : Host.Outcome State Fault Refusal :=
  .next (s.yoCmd 0 o u (fun s d => if s.stashReads d.raw then s.dpaRanges (s.originPart o) (yoReads d.raw ++ healthExtent (yoHealth d.raw)) else []) (runStash o))

/-! ## RECALL and RELEASE (R285) -/

/-- The number of bytes of a handle. -/
def Handle.bytes (x : Handle) : Nat := keptBytes x.form x.fmt x.rows x.cols

/-- Does a RECALL fit the handle (R285)? -/
def Handle.fits (x : Handle) (raw : Nat) : Bool :=
  x.rows == yoRows raw && x.cols == yoCols raw && (x.fmt == yoFmt raw || (x.form == 1 && yoFmt raw == 2))

/-- The kept bytes of a handle. -/
def State.keptOf (s : State) (r : Nat) (x : Handle) : List Byte := (s.keptRanges r x.bytes x.chunks).flatMap fun y => s.load y.1 y.2

/-- Element (i, j) of a recalled tensor, as a pattern of its format (R285). -/
def recalled (x : Handle) (kept : Array Byte) (i j : Nat) : Nat :=
  let e := i * x.cols + j
  let at_ := fun n => (kept.getD n 0).toNat
  match x.form with
  | 1 =>
    let v := widen32 2 (at_ e) (at_ (x.rows * x.cols + e / 32))
    if x.fmt = codeInt32 then (Config.int32Recall (BitVec.ofNat 32 v)).toNat else (narrowPlain x.fmt 1 v 0).1
  | 2 => if bit (at_ (e / 8)) (e % 8) then (if x.fmt = codeInt32 then 1 else (narrowPlain x.fmt 0 0x3F800000 0).1) else 0
  | _ => at_ (2 * e) + 256 * at_ (2 * e + 1)

/-- Row `i` of a recalled tensor, as bytes. -/
def recallRow (raw : Nat) (x : Handle) (kept : Array Byte) (i : Nat) : List Byte :=
  if x.form = 0 then (kept.toList.drop (i * yoRowBytes raw)).take (yoRowBytes raw)
  else if yoFmt raw = 2 then (kept.toList.drop (i * x.cols)).take x.cols
  else packBytes (fmtBits x.fmt) ((List.range x.cols).map fun j => recalled x kept i j)

/-- The tensor is written at ADDR, a NARROW one in its MX form with its scales at SADDR (R285). -/
def State.recallWrite (s : State) (p id raw : Nat) (x : Handle) (kept : Array Byte) : State :=
  let owner := Owner.desc p id
  let t := s.each (List.range x.rows) fun t i => t.vstore p (yoAddr raw + i * yoStride raw) (recallRow raw x kept i) owner
  if yoFmt raw = 2 then
    t.each (List.range x.rows) fun t i =>
      t.vstore p (yoSaddr raw + i * yoSstride raw) ((kept.toList.drop (x.rows * x.cols + i * (x.cols / 32))).take (x.cols / 32)) owner
  else t

/-- RECALL runs (R285). -/
def runRecall (o : Origin) (s : State) (d : Desc) : Run :=
  let p := s.originPart o
  let raw := d.raw
  let r := dRegion raw
  if s.yoBehind d then .wait s
  else
    match s.handle? r (yoHandle raw) with
    | none => s.yoFail raw 0 .yoyHandle
    | some x =>
      if x.fits raw = false then s.yoFail raw 0 .yoyHandle
      else
        let s := if x.st = 3 then s.noteUndo o d else (s.noteUndo o d).recallWrite p d.id raw x (s.keptOf r x).toArray
        .done (if yoFree raw ∧ s.running p then s.emptyHandle r (yoHandle raw) else s) (x.st - 1)

/-- What a RECALL reads: the kept bytes. -/
def recallInputs (s : State) (d : Desc) : List (Nat × Nat) :=
  match s.handle? (dRegion d.raw) (yoHandle d.raw) with
  | some x => if x.fits d.raw then s.keptRanges (dRegion d.raw) x.bytes x.chunks else []
  | none => []

/-- RECALL (R285). -/
def execRecall (o : Origin) (u : Upset) (s : State) : Host.Outcome State Fault Refusal := .next (s.yoCmd 1 o u recallInputs (runRecall o))

/-- RELEASE runs (R285). -/
def runRelease (s : State) (d : Desc) : Run :=
  if s.yoBehind d then .wait s
  else
    match s.handle? (dRegion d.raw) (yoHandle d.raw) with
    | none => s.yoFail d.raw 0 .yoyHandle
    | some _ => .done (s.emptyHandle (dRegion d.raw) (yoHandle d.raw)) 0

/-- RELEASE (R285). -/
def execRelease (o : Origin) (u : Upset) (s : State) : Host.Outcome State Fault Refusal := .next (s.yoCmd 2 o u (fun _ _ => []) runRelease)

/-! ## GROUP_ROWS (R288) -/

/-- The source rows in the order of their destinations: by variant, then by source row. -/
def variantOrder (idx : Array Nat) (vcount : Nat) : List Nat :=
  (List.range vcount).flatMap fun v => (List.range idx.size).filter fun i => idx.getD i 0 == v

/-- The rows of a variant. -/
def variantCount (idx : Array Nat) (v : Nat) : Nat := (idx.toList.filter (· == v)).length

/-- The segment table: FIRST and COUNT per variant (R288). -/
def segTable (idx : Array Nat) : Nat → Nat → List Byte
  | 0, _ => []
  | n + 1, v => natLe 4 (idx.toList.filter fun x => decide (x < v)).length ++ natLe 4 (variantCount idx v) ++ segTable idx n (v + 1)

/-- GROUP_ROWS runs: the index array is checked whole before anything is written (R288). -/
def runGroupRows (o : Origin) (s : State) (d : Desc) : Run :=
  let p := s.originPart o
  let raw := d.raw
  let owner := Owner.desc p d.id
  let n := yoVcount raw
  let idx := ((List.range (yoRows raw)).map fun i => s.vloadNat p (yoVidx raw + 2 * i) 2).toArray
  if s.yoBehind d then .wait s
  else if idx.any fun v => decide (4096 ≤ v) || decide (n ≤ v) then s.yoFail raw 3 .variantRange
  else
    let order := variantOrder idx n
    let t := s.each order.zipIdx fun t x =>
      t.vstore p (yoDst raw + x.2 * yoDstride raw) (s.vload p (yoAddr raw + x.1 * yoStride raw) (yoCols raw)) owner
    let t := t.vstore p (yoSeg raw) (segTable idx n 0) owner
    let t := if yoPerm raw = 0 then t else t.vstore p (yoPerm raw) (order.flatMap (natLe 4)) owner
    .done t ((List.range n).filter fun v => variantCount idx v != 0).length

/-- GROUP_ROWS (R288). -/
def execGroupRows (o : Origin) (u : Upset) (s : State) : Host.Outcome State Fault Refusal :=
  .next (s.yoCmd 3 o u (fun s d => s.dpaRanges (s.originPart o) (yoReads d.raw)) (runGroupRows o))

end Sys2Proof.Machine
end

