-- ==== Sys2Proof/Machine/Fetch.lean ====
section
/-! DEFINITION. Fetching descriptors from rings and launch queues (R85, R90, R94, R95, R120), program launches (R121) and RESYNC
descriptors (R89), doorbells (R83) and completion-head writes (R99). -/
namespace Sys2Proof.Machine

/-! ## The checks of R90 -/

/-- The header's reserved fields, and its SLOT encoding (R86). -/
def headStep1 (raw : Nat) : Bool :=
  dfield raw 1 2 6 == 0 && dfield raw 2 2 6 == 0 && dfield raw 3 6 2 == 0 && dfield raw 14 0 16 == 0 && dfield raw 16 12 3 == 0 &&
    dfield raw 18 12 3 == 0 && dfield raw 28 0 32 == 0 && decide (dSlot raw < 40)

/-- With WAIT_EN or DONE_EN at 0, the matching jar and count are 0 (R86); judged last of all (DEDUCED, log entry 28). -/
def headStep5 (raw : Nat) : Bool :=
  (dWaitEn raw || (dWaitJar raw == 0 && dWaitN raw == 0)) && (dDoneEn raw || (dDoneJar raw == 0 && dDoneN raw == 0))

/-- Does the class use REGION (R86)? -/
def usesRegion (raw : Nat) : Bool :=
  [0x01, 0x02, 0x03, 0x04, 0x07, 0x0B].contains (dClass raw) || (dClass raw == 0x09 && jarOp raw == 0)

/-- Step 1 of R90 for a fence (R88). -/
def fenceStep1 (raw : Nat) : Bool := dRegion raw == 0 && dSlot raw == 0 && decide (dfield raw 32 0 8 ≤ 1) && dfield raw 33 0 760 == 0

/-- ENTRY of a program launch (R121). -/
def plEntry (raw : Nat) : Nat := dfield raw 32 0 16

/-- Step 1 of R90 for a program launch (R121). -/
def launchStep1 (raw : Nat) : Bool := dfield raw 34 0 48 == 0 && dfield raw 72 0 448 == 0

/-- DEST of a RESYNC descriptor (R89). -/
def rsDest (raw : Nat) : Nat := dfield raw 32 0 64

/-- Step 1 of R90 for a RESYNC descriptor (R89, R44). -/
def resyncStep1 (raw : Nat) : Bool := dRegion raw == 0 && dSlot raw == 0 && dfield raw 40 0 704 == 0 && decide (rsDest raw < 2 ^ 48)

/-- Step 1 of R90 by class (R87). -/
def classStep1 (raw : Nat) : Bool :=
  match dClass raw with
  | 0x01 => mxStep1 raw
  | 0x02 => vxStep1 raw
  | 0x03 => kaStep1 raw
  | 0x04 => abStep1 raw
  | 0x05 => coStep1 raw
  | 0x06 => jgStep1 raw
  | 0x07 => yoStep1 raw
  | 0x08 => snStep1 raw
  | 0x09 => jarStep1 raw
  | 0x0A => fenceStep1 raw
  | 0x0B => launchStep1 raw
  | 0x0C => resyncStep1 raw
  | _ => false

/-- What a launched descriptor may be (R120): not of class 0x0B or 0x0C, of the core's own region, of its own slot for matrix and vector
classes, with COMPLETE and IRQ at 0. -/
def launchable (o : Origin) (raw : Nat) : Bool :=
  match o with
  | .ring _ => true
  | .slot r k => dClass raw != 0x0B && dClass raw != 0x0C && (!usesRegion raw || dRegion raw == r.val) &&
      (decide (2 < dClass raw) || dSlot raw == k.val) && !dComplete raw && !dIrq raw

/-- Step 1 of R90. -/
def State.step1 (s : State) (o : Origin) (raw : Nat) : Bool :=
  headStep1 raw && classStep1 raw && (!usesRegion raw || s.regionPart (dRegion raw) == s.originPart o) && launchable o raw

/-- Step 2 of R90: the effective beat of a descriptor, or BEAT_PAST, or DESC_INVALID (R67, R68, R90). `prev` is that of the previous
descriptor of its ring or launch queue. -/
def State.effBeat (s : State) (p raw : Nat) (prev : Option Nat) : Fetched Nat :=
  let c := s.beat p
  let closed := (s.part p).dom.closed
  let m := dBeat raw
  if m = 0 then .ok (max (if closed then c + 1 else c) (prev.getD 0))
  else if m < c ∨ (m = c ∧ closed) then .error (.bad .beatPast)
  else if m < prev.getD 0 then .error (.bad .descInvalid)
  else .ok m

/-- Step 3 of R90: the header jars are allocated (R126). -/
def State.headJars (s : State) (p raw : Nat) : Bool :=
  (!dWaitEn raw || (s.jar? p (dWaitJar raw)).isSome) && (!dDoneEn raw || (s.jar? p (dDoneJar raw)).isSome)

/-- Steps 4 and 5 of R90 for a RESYNC descriptor (R89): its page is writable companion memory. -/
def rsFetch (s : State) (p raw : Nat) : Fetched (List Nat) := do
  let x ← s.xlate p (rsDest raw / 4096 * 4096) true
  if !inCompanion x.1 then throw (.bad .xlateFault)
  Fetched.check (rsDest raw % 4096 == 0)
  pure [x.1]

/-- Steps 4 and 5 of R90 by class: the records read at fetch. -/
def State.classFetch (s : State) (p raw : Nat) : Fetched (List Nat) :=
  match dClass raw with
  | 0x01 => mxFetch s p raw
  | 0x02 => vxFetch s p raw
  | 0x03 => kaFetch s p raw
  | 0x04 => abFetch s p raw
  | 0x05 => coFetch s p raw
  | 0x06 => jgFetch s p raw
  | 0x07 => yoFetch s p raw
  | 0x08 => snFetch s p raw
  | 0x09 => do Fetched.check (jarStep5 raw); pure []
  | 0x0B => do Fetched.check (plEntry raw % 2 == 0); pure []
  | 0x0C => rsFetch s p raw
  | _ => .ok []

/-- Is the descriptor a no-operation (R24)? `extra` holds the records read at its fetch. -/
def classNoop (raw : Nat) (extra : List Nat) : Bool :=
  match dClass raw with
  | 0x01 => mxNoop raw
  | 0x02 => vxNoop raw
  | 0x03 => kaNoop raw (extra.headD 0)
  | 0x04 => abNoop raw
  | 0x05 => coNoop raw
  | 0x06 => jgNoop raw
  | 0x07 => yoNoop raw
  | 0x08 => snNoop raw
  | 0x09 => jarNoop raw
  | _ => false

/-- The checks of R90 in their order: the effective beat and the records read, or what stops the fetch. -/
def State.validate (s : State) (o : Origin) (raw : Nat) (prev : Option Nat) : Fetched (Nat × List Nat) := do
  let p := s.originPart o
  Fetched.check (s.step1 o raw)
  let eff ← s.effBeat p raw prev
  if !s.headJars p raw then throw (.bad .jarMisuse)
  let extra ← s.classFetch p raw
  Fetched.check (headStep5 raw)
  pure (eff, extra)

/-- Must fetch pause before the descriptor (R67, R292): its beat lies more than one ahead, or it is a second snapshot? -/
def State.mustPause (s : State) (p raw : Nat) : Bool :=
  decide (s.beat p + 1 < dBeat raw) || (isSnapshot raw && (s.part p).snap.isSome)

/-- A validated descriptor. -/
def mkDesc (id sq raw : Nat) (x : Nat × List Nat) : Desc :=
  ⟨id, sq, raw, x.1, classNoop raw x.2, x.2, false, false, false, false, 0, 0, false, [], [], 0, [], false, 0, none⟩

/-- A fetched snapshot takes the engine (R292). -/
def State.noteFetched (s : State) (p : Nat) (d : Desc) : State :=
  if isSnapshot d.raw && !d.noop then s.takeEngine p d.id d.raw (d.extra.headD 0) else s

/-- What an attempt to validate a descriptor comes to, once damaged sectors that it reads have been read (R328, R331): the state with the
effective beat and records, a line of companion memory to wait for, or the code of the failing check. `fuel` bounds the sectors. -/
def State.tryValidate (s : State) (o : Origin) (raw : Nat) (prev : Option Nat) : Nat → State × Except Stop (Nat × List Nat)
  | 0 => (s, .error (.bad .memUncorr))
  | fuel + 1 =>
    match s.validate o raw prev with
    | .error (.sector a) =>
      let x := s.readQuiet a false
      if x.2 then x.1.tryValidate o raw prev fuel else (x.1, .error (.sector a))
    | r => (s, r)

/-- The cause that the record of a failed fetch carries. -/
def State.fetchCause (s : State) (o : Origin) (c : Stop) : Cause :=
  match c with
  | .sector a => s.uncorrCause a
  | _ => checkCause o

/-- The code of a failed fetch. -/
def Stop.code : Stop → Code
  | .bad c => c
  | _ => .memUncorr

/-! ## Fetch arbitration (R100) -/

/-- HEAD of a ring moves past the entry fetched (R85). -/
def State.headNext (s : State) (n : Nat) : State :=
  let i := s.fget (HUB_RING_PTRS_HEAD n)
  let s := s.fadd (HUB_RING_CNT0_FETCHED n) 1
  if i + 1 = s.sqSize n then s.fsets [(HUB_RING_PTRS_HEAD n, 0), (HUB_RING_PTRS_HEAD_PH n, 1 - s.fget (HUB_RING_PTRS_HEAD_PH n))]
  else s.fset (HUB_RING_PTRS_HEAD n) (i + 1)

/-- May ring `n` fetch (R94, R95, R100): ACTIVE, its partition running, entries pending, a weight, fewer than 64 in flight, a completion entry
to reserve, and not paused (R67)? -/
def State.canFetch (s : State) (n : Nat) : Bool :=
  s.ringState n == 1 && s.running (s.ringPart n) && decide (0 < s.ringPending n) && s.fget (HUB_RING_CTRL_WEIGHT n) != 0 &&
    decide ((s.ring n).inflight.length < 64) && decide (s.cqUsed n + (s.ring n).inflight.length < s.cqSize n) &&
    match (s.ring n).pausedAt with
    | some m => decide (m ≤ s.beat (s.ringPart n) + 1)
    | none => true

/-- The address of the entry at HEAD. -/
def State.entryAt (s : State) (n : Nat) : Nat := s.fget (HUB_RING_SQ_BASE n) * 4096 + 128 * s.fget (HUB_RING_PTRS_HEAD n)

/-- Does partition `p` wait for companion memory with a fetch: for an entry, a table, a record (R84, R90)? -/
def State.fetchWaits (s : State) (p : Nat) : Bool :=
  (s.glk.outst ++ s.glk.deferred.map (·.2)).any fun x =>
    match x.owner with
    | .fetch q => q == p
    | .walk q (.ring _) => q == p
    | _ => false

/-- The ring of partition `p` whose turn it is: the one visited, while it can fetch and has fetched fewer than WEIGHT in the visit; else the
next that can fetch, in ascending number (R100). None while a fetch waits for companion memory. -/
def State.visitRing (s : State) (p : Nat) : Option Nat :=
  if s.fetchWaits p then none
  else
    let l := (s.ringsOf p).filter s.canFetch
    let v := (s.part p).visit
    if l.contains v.1 ∧ v.2 < s.fget (HUB_RING_CTRL_WEIGHT v.1) then some v.1
    else match l.find? fun n => decide (v.1 < n) with
      | some n => some n
      | none => l.head?

/-- The ring that fetches next: turns rotate one descriptor at a time among the partitions with a fetchable ring (R100). -/
def State.nextRing (s : State) : Option Nat := ([1, 2, 3, 4].map fun i => (s.turn + i) % 4).findSome? s.visitRing

/-- Ring `n` of partition `p` has fetched a descriptor, or ends its visit: the turn passes on, the visit goes on unless the ring is empty or
paused (R100). -/
def State.passTurn (s : State) (p n : Nat) (fetched : Bool) : State :=
  let v := (s.part p).visit
  let m := if s.canFetch n = false then 256 else if v.1 = n then v.2 + 1 else 1
  (if fetched then { s with turn := p } else s).updPart p fun q => { q with visit := (n, m) }

/-! ## DESC_FETCH -/

/-- The entry at HEAD fails with a code: it is fetched, and its completion entry carries the code (R90, R96). -/
def State.rejectEntry (s : State) (n raw : Nat) (c : Code) (w : Cause) : State :=
  let d := mkDesc s.descSeq (s.fget (HUB_RING_PTRS_HEAD n)) raw (0, [])
  (({ s.dropOnce with descSeq := s.descSeq + 1 }.headNext n).passTurn (s.ringPart n) n true).descFault (.ring (Fin.ofNat 256 n)) d c w

/-- The entry at HEAD has been read as `raw`: it is fetched, or pauses the ring, or waits for a line of companion memory, or fails (R90). -/
def State.fetchEntry (s : State) (n raw : Nat) : State :=
  let o := Origin.ring (Fin.ofNat 256 n)
  let p := s.ringPart n
  if s.mustPause p raw then
    (s.updRing n fun q => { q with pausedAt := if s.beat p + 1 < dBeat raw then some (dBeat raw) else none }).passTurn p n false
  else
    let x := s.tryValidate o raw (s.ring n).prevEff (s.damage.length + 1)
    match x.2 with
    | .error (.need l) => x.1.askShared l (.walk p o)
    | .error c => x.1.rejectEntry n raw c.code (s.fetchCause o c)
    | .ok v =>
      let d := mkDesc s.descSeq (s.fget (HUB_RING_PTRS_HEAD n)) raw v
      let t := { x.1.dropOnce with descSeq := s.descSeq + 1 }.headNext n
      ((t.updRing n fun q => { q with inflight := q.inflight ++ [d], prevEff := some v.1, pausedAt := none }).passTurn p n true).noteFetched p d

/-- DESC_FETCH: the hub fetches the entry at HEAD through the link cache, when it is the ring's turn (R84, R100, R404). An uncorrectable
error in the ring's state is device-fatal (R417). -/
def descFetch (n : Nat) (phys : ReadUpset) (s : State) : State :=
  let s := s.strike phys
  if phys.any fun x => decide (x.1 = HUB_RING_PTRS n) && eccFails x.2 then s.deviceFatal .hubInternal { unit := unitHub }
  else if s.nextRing ≠ some n then s
  else
    let l := (s.entryAt n - glkBase) / 128
    if s.glk.inS l then (s.touchLine l).fetchEntry n (s.loadNat (s.entryAt n) 128)
    else s.askShared l (.fetch (s.ringPart n))

/-- DESC_FETCH (R90). -/
def execDescFetch (n : Fin 256) (phys : ReadUpset) (s : State) : Host.Outcome State Fault Refusal := .next (descFetch n phys s)

/-! ## Launch queues (R120) -/

/-- The oldest entry of CQ fails with a code (R90, R120). -/
def State.rejectLaunch (s : State) (r k : Nat) (id raw : Nat) (c : Code) (w : Cause) : State :=
  (s.dropOnce.updSlot r k fun q => { q with cq := q.cq.drop 1 }).descFault (.slot (Fin.ofNat 4 r) (Fin.ofNat 40 k)) (mkDesc id 0 raw (0, [])) c w

/-- The oldest waiting entry of CQ is validated as a fetch, unless it waits for its beat or for a line of companion memory; it leaves CQ, and
its credit goes back (R113, R120). One with a parity error is not consumed and raises CORE_QUEUE (R114). The flag says whether the queue
went on. -/
def State.drainOne (s : State) (r k : Nat) : State × Bool :=
  match (s.slot r k).cq, (s.coreQ r k 10).pop with
  | (id, raw) :: rest, some (c, good) =>
    let o := Origin.slot (Fin.ofNat 4 r) (Fin.ofNat 40 k)
    let p := s.regionPart r
    if s.running p = false ∨ s.mustPause p raw then (s, false)
    else if good = false then (s.raise p .coreQueue (coreQueueCause r k 10), false)
    else
      let x := s.tryValidate o raw (s.slot r k).prevEff (s.damage.length + 1)
      match x.2 with
      | .error (.need l) => (x.1.askShared l (.walk p o), false)
      | .error e => ((x.1.setCoreQ r k 10 c).rejectLaunch r k id raw e.code (s.fetchCause o e), false)
      | .ok v =>
        let d := mkDesc id 0 raw v
        (((x.1.dropOnce.setCoreQ r k 10 c).updSlot r k fun q => { q with cq := rest, inflight := q.inflight ++ [d], prevEff := some v.1 }).noteFetched p d, true)
  | _, _ => (s, false)

/-- Waiting entries of CQ are validated in order; `fuel` bounds them. -/
def State.drainCq (s : State) (r k : Nat) : Nat → State
  | 0 => s
  | fuel + 1 => let x := s.drainOne r k; if x.2 then x.1.drainCq r k fuel else x.1

/-- Every launch queue of partition `p` goes on. -/
def State.drainPart (s : State) (p : Nat) : State := s.each (s.slotsOf p) fun s rk => s.drainCq rk.1 rk.2 32

/-! ## Program launches and RESYNC descriptors -/

/-- Is the descriptor a program launch? -/
def isLaunch (raw : Nat) : Bool := dClass raw == 0x0B

/-- Is the control core idle or halted: by a trap or by a fault of its partition (R118, R121, R122)? -/
def State.ccFree (s : State) (r k : Nat) : Bool :=
  let st := s.fget (CORE_CC_STAT_STATE r k)
  st == 0 || st == 3 || st == 4

/-- The program starts: ENTRY, the arguments in a0 to a3, the other registers 0 (R121). -/
def runLaunch (s : State) (d : Desc) : Run :=
  let r := dRegion d.raw
  let k := dSlot d.raw
  let args := (List.range 4).map fun i => (10 + i, BitVec.ofNat 64 (dfield d.raw (40 + 8 * i) 0 64))
  let s := s.updSlot r k fun q => { q with x := args.foldl (fun m a => mset m a.1 a.2) [], reservation := none }
  .done (s.fsets [(CORE_CC_PC_PC r k, plEntry d.raw), (CORE_CC_STAT_STATE r k, 1), (CORE_CC_STAT_WAIT r k, 0)]) 0

/-- PROGRAM_LAUNCH: the descriptor starts once its control core is idle or halted (R121). -/
def programLaunch (o : Origin) (s : State) : State :=
  match s.nextOf o isLaunch with
  | some d => if s.ccFree (dRegion d.raw) (dSlot d.raw) then s.startPlain o isLaunch runLaunch else s
  | none => s

/-- PROGRAM_LAUNCH (R121). -/
def execProgramLaunch (o : Origin) (s : State) : Host.Outcome State Fault Refusal := .next (programLaunch o s)

/-- RESYNC: the ring's request joins the queue of requests (R106). -/
def execResync (o : Origin) (s : State) : Host.Outcome State Fault Refusal :=
  .next (s.startPlain o (fun raw => dClass raw == 0x0C) fun s d =>
    .going { s with resyncQ := s.resyncQ ++ [⟨d.extra.headD 0, some (o, d.id)⟩] })

/-! ## Doorbells and completion heads -/

/-- A value of HUB_RING_DB or HUB_RING_CQDB as a position and its index: phase and index of a ring of `z` entries. -/
def dbIndex (value : Nat) : Nat := bits value 0 16

/-- A discarded doorbell: DB_ERR, and a record of the ring and the value (R83). -/
def State.dbError (s : State) (n value : Nat) : State := (s.fset (HUB_RING_STAT_DB_ERR n) 1).noteDiscard (HUB_RING_DB n) value

/-- DOORBELL: a new TAIL (R83). A TAIL not less than S is a reserved encoding (R16). DEDUCED, log entry 89: in OFF the row of R83 for OFF comes first;
elsewhere such a TAIL leaves DB_ERR alone. -/
def doorbell (n value : Nat) (s : State) : State :=
  let z := s.sqSize n
  if s.ringState n = 0 then s.dbError n value
  else if z ≤ dbIndex value then s.noteDiscard (HUB_RING_DB n) value
  else
    let old := s.fget (HUB_RING_PTRS_TAIL_PH n) * z + s.fget (HUB_RING_PTRS_TAIL n)
    let d := (bits value 16 1 * z + dbIndex value + 2 * z - old) % (2 * z)
    if d = 0 then s
    else if z < s.ringPending n + d then s.dbError n value
    else s.fsets [(HUB_RING_PTRS_TAIL n, dbIndex value), (HUB_RING_PTRS_TAIL_PH n, bits value 16 1)]

/-- DOORBELL (R83). -/
def execDoorbell (n : Fin 256) (value : Nat) (s : State) : Host.Outcome State Fault Refusal := .next (doorbell n value s)

/-- COMPLETION_HEAD_WRITE: completion entries are freed (R99). A HEAD not less than S is a reserved encoding (R16). DEDUCED, log entry 89: in OFF
CQ_ERR comes first; elsewhere such a HEAD leaves CQ_ERR alone. -/
def completionHead (n value : Nat) (s : State) : State :=
  let z := s.cqSize n
  let bad := (s.fset (HUB_RING_STAT_CQ_ERR n) 1).noteDiscard (HUB_RING_CQDB n) value
  if s.ringState n = 0 then bad
  else if z ≤ dbIndex value then s.noteDiscard (HUB_RING_CQDB n) value
  else
    let cpos := ((1 - bits value 16 1) * z + dbIndex value) % (2 * z)
    let d := (cpos + 2 * z - (s.ring n).cqHead) % (2 * z)
    if d = 0 then s
    else if d ≤ s.cqUsed n then s.updRing n fun q => { q with cqHead := cpos }
    else bad

/-- COMPLETION_HEAD_WRITE (R99). -/
def execCompletionHeadWrite (n : Fin 256) (value : Nat) (s : State) : Host.Outcome State Fault Refusal := .next (completionHead n value s)

/-- RING_ENABLE: ENABLE of HUB_RING_CTRL is written: at once or staged for the boundary (R78, R80). -/
def ringEnable (n : Nat) (on : Bool) (s : State) : State :=
  if s.governed (HUB_RING_CTRL n) then s.stage (HUB_RING_CTRL_ENABLE n) (b2n on) else s.applyEnable n (b2n on)

/-- RING_ENABLE (R80). -/
def execRingEnable (n : Fin 256) (on : Bool) (s : State) : Host.Outcome State Fault Refusal := .next (ringEnable n on s)

end Sys2Proof.Machine
end

