-- ==== Sys2Proof/Machine/Power.lean ====
section
/-! DEFINITION. Power, droop and temperature (R450 to R463). -/
namespace Sys2Proof.Machine

/-! ## Rails and energy (R450, R451, R461 to R463) -/

/-- The number of rails. -/
def railCount : Nat := 23

/-- The greatest current of a rail in the row order of R450, in 0.1 A. -/
def railMaxDa (i : Nat) : Nat :=
  if i < 4 then 10000 else if i < 8 then 1500 else if i < 12 then 1300 else if i < 16 then 100 else if i < 20 then 1200
  else if i = 20 then 2800 else 600

/-- The set-point of a rail in mV; that of VDDH and VPP is JEDEC HBM4's (log entry 16). -/
def State.railSet (s : State) (i : Nat) : Nat :=
  if i < 4 ∨ i = 20 then s.railMv i
  else if i < 8 ∨ i = 21 then 800
  else if 16 ≤ i then 900
  else Config.railSetpoint i

/-- One rail's answer, or its miss (R451): 20 misses in a row make it failed. -/
def State.pollRail (s : State) (i : Nat) : Option (Nat × Nat) → State
  | some (mv, da) =>
    let s := s.fsets [(PWR_RAIL_STATE i, 0), (PWR_RAIL_VOUT_MV i, mv), (PWR_RAIL_IOUT_DA i, da)]
    { s with power := { s.power with missRow := mset s.power.missRow i 0 } }
  | none =>
    let n := mgetD s.power.missRow i 0 + 1
    let s := (s.fadd (PWR_RAIL_MISSES i) 1).fset (PWR_RAIL_STATE i) (if 20 ≤ n then 2 else 1)
    { s with power := { s.power with missRow := mset s.power.missRow i n } }

/-- A rail's power in 0.1 mW: its reading, or its greatest current at its set-point once it has failed (R451). -/
def State.railPower (s : State) (i : Nat) : Nat :=
  if s.fget (PWR_RAIL_STATE i) = 2 then s.railSet i * railMaxDa i else s.fget (PWR_RAIL_VOUT_MV i) * s.fget (PWR_RAIL_IOUT_DA i)

/-- The energy register `f` advances. -/
def State.addEnergy (s : State) (f : Fld) (e : Nat) : State := s.fset f (s.fget f + e)

/-- A_n: the events of a ring, by kind, weighted with the part record's weights (R461, R462). -/
def State.activity (s : State) (events : List (Nat × Nat)) : Nat := events.foldl (fun x e => x + e.2 * mgetD s.sec.part.weights e.1 0) 0

/-- One rail's energy of the interval (R461, R462): whole µJ, the fraction carried; each ring's share by activity, the rest to PWR_EOVH.
`act` gives the events of rings, by kind. -/
def State.railEnergy (s : State) (i : Nat) (act : List (Nat × List (Nat × Nat))) : State :=
  let a := (s.sec.part.idle.getD i 0, act.map fun r => (r.1, s.activity r.2))
  let n := s.railPower i + mgetD s.power.carry i 0
  let e := n / 200
  let s := { s with power := { s.power with carry := mset s.power.carry i (n % 200) } }
  let all := a.1 + a.2.foldl (fun x r => x + r.2) 0
  let shares := a.2.map fun r => (r.1, e * r.2 / all)
  let s := s.each shares fun s x =>
    let p := s.ringPart x.1
    let q := { s.power with lastPart := mset s.power.lastPart p (mgetD s.power.lastPart p 0 + x.2) }
    ({ s with power := q }.addEnergy (PWR_ERING_VALUE x.1) x.2).addEnergy (PWR_EPART_VALUE p) x.2
  (s.addEnergy PWR_EOVH_VALUE (e - shares.foldl (fun x r => x + r.2) 0)).addEnergy PWR_ETOTAL_VALUE e

/-- RAIL_POLL: every rail is read, and the interval's energy is attributed (R451, R461 to R463). `reads` holds each rail's answer in mV and
0.1 A, `act` the events on each rail by ring and kind. -/
def railPoll (reads : List (Option (Nat × Nat))) (act : List (List (Nat × List (Nat × Nat)))) (s : State) : State :=
  let rails := List.range railCount
  let s := s.each rails fun s i => s.pollRail i (reads.getD i none)
  let s := { s with power := { s.power with lastPart := [] } }
  let s := s.each rails fun s i => s.railEnergy i (act.getD i [])
  let pkg := rails.foldl (fun x i => x + s.railPower i) 0
  let since := [0, 1, 2, 3].map fun p =>
    let x := mgetD s.power.since p (0, 0, 0)
    (p, x.1 + 1, x.2.1 + pkg, x.2.2 + mgetD s.power.lastPart p 0)
  let s := { s with power := { s.power with lastPkg := pkg, since := since } }
  (s.fset PWR_STAT_PKG_W (pkg / 10000)).addEnergy PWR_ESEQ_VALUE 1

/-- RAIL_POLL (R451). -/
def execRailPoll (reads : List (Option (Nat × Nat))) (act : List (List (Nat × List (Nat × Nat)))) (s : State) :
    Host.Outcome State Fault Refusal :=
  .next (railPoll reads act s)

/-! ## Issue levels (R454 to R456, R459) -/

/-- Is cycle `c` of a window of 64 an issue cycle at level `l` (R454)? -/
def issueCycle (l c : Nat) : Bool := decide (c * l / 64 < (c + 1) * l / 64)

/-- PWR_LEVEL's LEVEL of a region. -/
def levelFld (r : Nat) : Fld := ⟨PWR_LEVEL, 16 * r, 7, .ro, 64⟩
/-- PWR_LEVEL's LIMIT of a region. -/
def limitFld (r : Nat) : Fld := ⟨PWR_LEVEL, 16 * r + 8, 3, .ro, 0⟩

/-- Is region `r` in thermal emergency (R459)? -/
def State.inEmergency (s : State) (r : Nat) : Bool := s.power.emerg.contains r

/-- Does a temperature of region `r` stand at or above its emergency threshold (R459)? -/
def State.tooHot (s : State) (r : Nat) : Bool :=
  decide (s.fget PWR_THERM_EMERG_C ≤ s.fget (PWR_TEMP_HOT_C r)) || decide (s.fget PWR_THERM_EMERG_C ≤ s.fget (PWR_TEMP_HUB_C r)) ||
    decide (s.fget PWR_THERM_HBM_EMERG_C ≤ s.fget (PWR_TEMP_HBM_C r))

/-- An emergency begins: the level falls to 16 without waiting for a boundary (R459). -/
def State.emergency (s : State) (r : Nat) : State :=
  if s.inEmergency r || !s.tooHot r then s
  else
    let s := { s with power := { s.power with emerg := s.power.emerg ++ [r] } }
    ((s.fset (levelFld r) 16).fset (limitFld r) 6).fadd (PWR_TEMP_EMERGS r) 1

/-- The limiter of a cap on a power of `num` / `den` W (R455). -/
def capLevel (l num den cap hyst : Nat) : Nat :=
  if cap = 0 then 64
  else if cap * den < num then l * cap * den / num
  else if num + hyst * den ≤ cap * den then l + 4
  else l

/-- The limiter of a temperature (R455). -/
def tempLevel (l t thr em : Nat) : Nat := if em ≤ t then 16 else if thr ≤ t then l - 4 else if t + 5 ≤ thr then l + 4 else l

/-- A level within its range. -/
def clampLevel (l : Nat) : Nat := max 16 (min l 64)

/-- The five limiters of region `r` for the next beat in the order of R455, after the closing beat's counts have been latched; `cycles` is
the number of cycles of the closing beat. -/
def State.limiters (s : State) (p r cycles : Nat) : List Nat :=
  let l := s.fget (levelFld r)
  let x := mgetD s.power.since p (0, 0, 0)
  let n := if x.1 = 0 then 1 else x.1
  let pkg := if x.1 = 0 then s.power.lastPkg else x.2.1
  let own := if x.1 = 0 then mgetD s.power.lastPart p 0 else x.2.2
  let stretch := s.fget (PWR_DROOP_CNT_STRETCH r)
  [capLevel l pkg (n * 10000) (s.fget PWR_CAP_PKG_W) (s.fget PWR_CAP_HYST_W),
    capLevel l own (n * 50) (s.fget (PWR_PCAP_W p)) (s.fget PWR_CAP_HYST_W),
    tempLevel l (max (s.fget (PWR_TEMP_HOT_C r)) (s.fget (PWR_TEMP_HUB_C r))) (s.fget PWR_THERM_THROTTLE_C) (s.fget PWR_THERM_EMERG_C),
    tempLevel l (s.fget (PWR_TEMP_HBM_C r)) (s.fget PWR_THERM_HBM_THROTTLE_C) (s.fget PWR_THERM_HBM_EMERG_C),
    if cycles < stretch * 100 then l - 4 else l + 4]

/-- The level of region `r` for the next beat takes effect at the boundary, with its limiter; an emergency whose cause is gone ends
(R455, R459). -/
def State.setLevel (s : State) (p r cycles : Nat) : State :=
  let ls := (s.limiters p r cycles).map clampLevel
  let l := ls.foldl min 64
  let hot := s.inEmergency r && s.tooHot r
  let s := if hot then s else { s with power := { s.power with emerg := s.power.emerg.filter (· != r) } }
  if hot then (s.fset (levelFld r) 16).fset (limitFld r) 6
  else (s.fset (levelFld r) l).fset (limitFld r) (if l < 64 then 1 + ls.idxOf l else 0)

/-- The levels of partition `p`'s regions at its boundary; the next interval of readings begins (R455). -/
def State.setLevels (s : State) (p cycles : Nat) : State :=
  let s := s.each (s.regions p) fun s r => s.setLevel p r cycles
  { s with power := { s.power with since := mset s.power.since p (0, 0, 0) } }

/-- PWR_STAT.STATE (R456). -/
def State.pwrState (s : State) : Nat :=
  if !s.power.emerg.isEmpty then 2
  else if [0, 1, 2, 3].any fun r => decide (s.fget (levelFld r) < 64) && (s.fget (limitFld r) == 1 || s.fget (limitFld r) == 2) then 1
  else 0

/-! ## Sensors -/

/-- A hub step: booked in every running partition, or at once when none runs (R453). -/
def State.hubStep (s : State) (want : Nat) : State :=
  let s := { s with power := { s.power with hubWant := want } }
  match [0, 1, 2, 3].filter s.running with
  | [] => s.setRail 20 want
  | ps => s.each ps fun s p => s.book p 4 0x3F 0

/-- VDD_HUB goes up by 10 mV as the hottest hub sensor rises through 85 °C, and down again as it falls through 80 °C (R453). -/
def State.hubVoltage (s : State) (hub : Nat) : State :=
  if s.power.hubHot = false ∧ 85 ≤ hub then
    ({ s with power := { s.power with hubHot := true } }).hubStep (s.power.hubWant + 10)
  else if s.power.hubHot ∧ hub < 80 then
    ({ s with power := { s.power with hubHot := false } }).hubStep (s.power.hubWant - 10)
  else s

/-- SENSOR_READ: the hottest sensor of each die (temperature, number) and of the hub are read (R458, R459). -/
def sensorRead (dies : List (Nat × Nat)) (hub : Nat) (s : State) : State :=
  let s := s.each [0, 1, 2, 3] fun s r =>
    s.fsets [(PWR_TEMP_HOT_C r, (dies.getD r (0, 0)).1), (PWR_TEMP_HOT_ID r, (dies.getD r (0, 0)).2), (PWR_TEMP_HUB_C r, hub)]
  (s.hubVoltage hub).each [0, 1, 2, 3] fun s r => s.emergency r

/-- SENSOR_READ (R458). -/
def execSensorRead (dies : List (Nat × Nat)) (hub : Nat) (s : State) : Host.Outcome State Fault Refusal := .next (sensorRead dies hub s)

/-- HBM_TEMP_READ: the temperatures of the twelve stacks are read (R336, R458, R459). -/
def hbmTempRead (temps : List Nat) (s : State) : State :=
  let s := s.each [0, 1, 2, 3] fun s r =>
    s.fset (PWR_TEMP_HBM_C r) (max (max (temps.getD (3 * r) 0) (temps.getD (3 * r + 1) 0)) (temps.getD (3 * r + 2) 0))
  let s := s.each (List.range 12) fun s m =>
    s.updStack m fun k => { k with temp := some (temps.getD m 0), tempAt := some (k.tempAt.getD (temps.getD m 0)) }
  s.each [0, 1, 2, 3] fun s r => s.emergency r

/-- HBM_TEMP_READ (R458). -/
def execHbmTempRead (temps : List Nat) (s : State) : Host.Outcome State Fault Refusal := .next (hbmTempRead temps s)

/-- DROOP: a detector stretches the region's clock for some cycles, which count as one event (R457). -/
def execDroop (r : Fin 4) (cycles : Nat) (s : State) : Host.Outcome State Fault Refusal :=
  .next ((s.fadd (PWR_DROOP_CNT_EVENTS r) 1).accAdd (PWR_DROOP_CNT_STRETCH r) cycles)

/-- THERMAL_TRIP: THERMTRIP_N goes low and stays low; THERM_TRIP is device-fatal (R460). -/
def execThermalTrip (s : State) : Host.Outcome State Fault Refusal :=
  .next ({ s with power := { s.power with trip := true } }.deviceFatal .thermTrip { unit := unitHub })

end Sys2Proof.Machine
end

