-- ==== Sys2Proof/Machine/Scrub.lean ====
section
/-! DEFINITION. Commands of the memory stacks: scrubbing (R332), recalibration passes and visits (R335 to R338), row sparing
(R333, R334). -/
namespace Sys2Proof.Machine

/-- The size of a stack: 80 GiB (R8). -/
def stackSize : Nat := 80 * GiB

/-- The DPA of a stack address: the inverse of R42 under a layout. -/
def dpaOfStack (layout m sa : Nat) : Nat :=
  let parts := partsOf layout
  let shared := decide (layout ≠ 2) && decide (layout ≠ 5) && decide (parts > 1)
  let p := if shared then sa / (stackSize / parts) else if layout = 2 then m / 6 else if layout = 5 then m / 3 else 0
  let set := stackSet layout p
  let n := set.length
  let base := if shared then p * (stackSize / parts) else 0
  let q := (sa - base) / 4096
  let slot := m - set.headD 0
  let r := (slot + n * 64 - interleaveF q) % n
  p * shareSize layout + (q * n + r) * 4096 + sa % 4096

/-- The partitions whose stack set contains stack `m` (R42). -/
def State.partsOfStack (s : State) (m : Nat) : List Nat :=
  (List.range (partsOf s.layout)).filter fun p => (stackSet s.layout p).contains m

/-- The stack is trained and in service (MEM_STAT.UP). -/
def State.stackUp (s : State) (m : Nat) : Bool := s.fbit (MEM_STAT_UP (m / 3)) (m % 3)

/-- The scrubber of stack `m` goes on to the next sector; after the last its pass is complete, and the rows of the stack leave the watch lists
(R330, R332, R333). -/
def State.scrubOn (s : State) (m : Nat) : State :=
  let n := (s.stack m).scrub + 1
  if n * 64 < stackSize then s.updStack m fun k => { k with scrub := n }
  else
    ((s.fadd (MEM_SCRUB_PASSES (m / 3)) 1).updStack m fun k => { k with scrub := 0, noted := [] }).updRegion (m / 3) fun q =>
      { q with watch := q.watch.filter fun e => e.1.1 != m }

/-- SCRUB_READ: the scrubber of stack `m` reads its next sector, in ascending stack address, which physical errors may have struck; one of a
pseudo-channel out of service is skipped (R338). A listed sector is not reported again (R330, R332). -/
def scrubRead (m : Nat) (errs : List (Nat × Byte)) (s : State) : State :=
  let addr := (s.stack m).scrub * 64
  if s.stackUp m = false then s
  else if (s.stack m).outPc.contains (pcOf addr) then s.scrubOn m
  else
    let a := dpaOfStack s.layout m addr
    let s := s.strike [(a, errs)]
    let r := m / 3
    let known := (s.region r).bad.contains a
    let s :=
      match sectorDecode (s.errsAt a) with
      | .uncorrectable =>
        if known then s
        else
          let t := (s.logUncorr a true).raise (partOfDram s.layout a) .memUncorr (s.uncorrCause a)
          if (t.region r).bad.length < 64 then t.updRegion r fun q => { q with bad := q.bad ++ [a] } else t
      | _ => (s.readSector a true).1
    s.scrubOn m

/-- SCRUB_READ (R332). -/
def execScrubRead (m : Fin 12) (errs : List (Nat × Byte)) (s : State) : Host.Outcome State Fault Refusal := .next (scrubRead m errs s)

/-- A pass of stack `m` begins (R335). -/
def State.startPass (s : State) (m : Nat) : State :=
  (s.updStack m fun k => { k with pass := some 0, visit := none, retry := false, waits := false }).fsetBit (MEM_STAT_RECAL (m / 3)) (m % 3) true

/-- Has the temperature of a stack moved by `c` °C since its last pass (R336)? -/
def Stack.moved (k : Stack) (c : Nat) : Bool :=
  match k.temp, k.tempAt with
  | some a, some b => decide (a + c ≤ b) || decide (b + c ≤ a)
  | _, _ => false

/-- Is a pass of stack `m` due: INTERVAL_S seconds since the last, or DELTA_C °C (R336)? -/
def State.passDue (s : State) (m : Nat) : Bool :=
  decide (s.fget (MEM_RECAL_INTERVAL_S (m / 3)) ≤ (s.stack m).since) || (s.stack m).moved (s.fget (MEM_RECAL_DELTA_C (m / 3)))

/-- Does a pass run in region `r` (R335)? -/
def State.passRuns (s : State) (r : Nat) : Bool := [0, 1, 2].any fun i => (s.stack (3 * r + i)).pass.isSome

/-- The beats that a pass spans under a period: ⌈1,600 µs / period⌉ (R337). -/
def passBeats (period : Nat) : Nat := ceilDiv 1600 period

/-- The first beat that begins after the passes of the region that run or are booked have ended (R336). -/
def State.afterPasses (s : State) (p r : Nat) : Nat :=
  let now := if s.passRuns r then s.beat p + passBeats (s.period p) + 1 else 0
  ((s.part p).books.filter fun b => b.kind == 2 && b.unit / 3 == r).foldl (fun x b => max x (b.beat + passBeats (s.period p))) now

/-- RECAL_DUE: a pass that is due is booked in every running partition whose stack set contains the stack; with none it runs at once, or
when the pass of its region that runs has ended (R336; from when intervals count: log entry 86). -/
def recalDue (m : Nat) (s : State) : State :=
  if s.stackUp m = false ∨ (s.stack m).pass.isSome ∨ s.passDue m = false then s else
  match (s.partsOfStack m).filter s.running with
  | [] => if s.passRuns (m / 3) then s.updStack m fun k => { k with waits := true } else s.startPass m
  | ps => s.each ps fun s p => if (s.booked p 2 m).isSome then s else s.book p 2 m (s.afterPasses p (m / 3))

/-- RECAL_DUE (R336). -/
def execRecalDue (m : Fin 12) (s : State) : Host.Outcome State Fault Refusal := .next (recalDue m s)

/-- The pass of stack `m` ends; one of the region that waited begins. -/
def State.endPass (s : State) (m : Nat) : State :=
  let s := (s.updStack m fun k => { k with pass := none, visit := none, retry := false, since := 0, tempAt := k.temp }).fsetBit (MEM_STAT_RECAL (m / 3)) (m % 3) false
  match [0, 1, 2].find? fun i => (s.stack (3 * (m / 3) + i)).waits with
  | some i => s.startPass (3 * (m / 3) + i)
  | none => s

/-- The next pseudo-channel of a pass, out-of-service ones skipped (R338). -/
def nextVisit (k : Stack) (v : Nat) : Option Nat := ((List.range 64).filter fun i => decide (v ≤ i) && !k.outPc.contains i).head?

/-- VISIT_START: the next visit of the pass takes its pseudo-channel out of service (R335). -/
def visitStart (m : Nat) (s : State) : State :=
  let k := s.stack m
  match k.pass, k.visit with
  | some v, none =>
    match nextVisit k v with
    | some i => s.updStack m fun k => { k with pass := some i, visit := some i }
    | none => s.endPass m
  | _, _ => s

/-- VISIT_START (R335). -/
def execVisitStart (m : Fin 12) (s : State) : Host.Outcome State Fault Refusal := .next (visitStart m s)

/-- The visit to pseudo-channel `i` is over: the pass goes on, or ends after the last (R335). -/
def State.advancePass (s : State) (m i : Nat) : State :=
  let s := s.updStack m fun k => { k with pass := some (i + 1), visit := none, retry := false }
  if (nextVisit (s.stack m) (i + 1)).isNone then s.endPass m else s

/-- A due row of the visited pseudo-channel is spared with soft repair: its sectors are read and corrected, then written back. Its bank must have
a spare row and the state block an entry; otherwise MEM_SPARE_OUT is recorded and SPARE_OUT set (R333, R334, R470). A THRESH of 0 disables it. -/
def State.spareRow (s : State) (m i : Nat) (spare : Bool) : State :=
  match (s.stack m).due.find? fun row => row.1 == i with
  | none => s
  | some row =>
    if s.fget (MEM_SPARE_THRESH (m / 3)) = 0 then s
    else
      let s := (s.updStack m fun k => { k with due := k.due.filter (· != row) }).updRegion (m / 3) fun q =>
        { q with watch := q.watch.filter fun e => e.1 != (m, row) }
      if spare && decide (s.fieldRows.length < 448) then
        let inRow := fun (a : Nat) => let x := stackAddr s.layout a; x.1 == m && rowOfAddr m x.2 == row
        let s := s.each ((s.damage.map fun d => d.1 * 64).filter fun a => decide (a < dramEnd) && inRow a) fun s a => (s.readSector a false).1
        let s := s.fadd (MEM_CNT_SPARED (m / 3) (m % 3)) 1
        let s := { s with fieldRows := s.fieldRows ++ [(m, row.1, row.2)] }
        s.record { code := 6, note := true, unit := unitStack m }
      else (s.record { code := Code.num .memSpareOut, unit := unitStack m }).fsetBit (MEM_STAT_SPARE_OUT (m / 3)) (m % 3) true

/-- VISIT_END: the pseudo-channel is retrained, with at most one row spared; or it is retried once; or it stays out of service
and every partition whose stack set contains the stack raises MEM_TRAIN (R333 to R335, R338). -/
def visitEnd (m : Nat) (ok spare : Bool) (s : State) : State :=
  match (s.stack m).visit with
  | none => s
  | some i =>
    if ok then (s.spareRow m i spare).advancePass m i
    else if (s.stack m).retry = false then s.updStack m fun k => { k with visit := none, retry := true }
    else
      let s := s.updStack m fun k => { k with outPc := k.outPc ++ [i] }
      let s := s.advancePass m i
      s.each (s.partsOfStack m) fun s p => s.raise p .memTrain { unit := unitStack m }

/-- VISIT_END (R335). -/
def execVisitEnd (m : Fin 12) (ok spare : Bool) (s : State) : Host.Outcome State Fault Refusal := .next (visitEnd m ok spare s)

end Sys2Proof.Machine
end

