-- ==== Sys2Proof/Machine/Boundary.lean ====
section
/-! DEFINITION. The first beat (R54), the close of a member (R58, R75, R104), the boundary (R70 to R74), Carousel handovers (R311, R312)
and the sealing candidate (R322). -/
namespace Sys2Proof.Machine

/-! ## Counters latched at a boundary -/

/-- The fields of a slot that are latched at each boundary (R115, "Registers" of the chapters on cores). -/
def slotLatches (r k : Nat) : List Fld :=
  ((List.range 11).flatMap fun i => [CORE_QSTALL_FULL r k i, CORE_QSTALL_EMPTY r k i]) ++
    ((List.range 4).flatMap fun m => [ARR_CYCLES_ACTIVE r k m, ARR_CYCLES_SWAP_WAIT r k m]) ++
    [CORE_EPI_STAT_ROWS_READ r k, CORE_EPI_STAT_BUSY r k, VEC_CYCLES_ACTIVE r k, VEC_CYCLES_POST_WAIT r k]

/-- The fields that a boundary of partition `p` latches. -/
def State.latches (s : State) (p : Nat) : List Fld :=
  [TCN_WAIT_BULK_NS p, TCN_WAIT_TC_NS p] ++
    ((s.regions p).flatMap fun r => [KAL_STAT_LIST_MAX r, KAL_CYCLES_ACTIVE r, KAL_CYCLES_WAIT r, PWR_DROOP_CNT_STRETCH r]) ++
    ((s.slotsOf p).flatMap fun rk => slotLatches rk.1 rk.2)

/-- The counts of the closing beat are latched and start again from zero (R115); `counts` brings what the clock counted, by field key. -/
def State.latchCounts (s : State) (p : Nat) (counts : List (Nat × Nat)) : State :=
  let fs := s.latches p
  let keys := fs.map (·.key)
  let acc := (counts.filter fun c => keys.contains c.1).foldl (fun m c => mset m c.1 (mgetD m c.1 0 + c.2)) s.acc
  let live := fs.filter fun f => mgetD acc f.key 0 != 0
  let s := { s with acc := mdrop acc keys.contains, regs := mdrop s.regs keys.contains }.updPart p fun q => { q with coll := { q.coll with waited := [] } }
  s.each live fun s f => s.fset f (min (mgetD acc f.key 0) (2 ^ f.width - 1))

/-! ## The first beat -/

/-- A run begins: its counts and its power readings are of no earlier time (R115, R455, R457; log entry 37). -/
def State.freshCounts (s : State) (p : Nat) : State :=
  let keys := (s.latches p).map (·.key)
  { s with acc := mdrop s.acc keys.contains, power := { s.power with since := mset s.power.since p (0, 0, 0) } }

/-- BEAT_OUT pulses at the boundaries of the domain of Partition 0 (R57). -/
def State.beatPulse (s : State) (p : Nat) : State := if p = 0 then s.emit .beatOut else s

/-- Does the announcement name a master that has joined, with the number of its BEAT_START, and does the partition form with it (R53,
R54)? -/
def State.mayBegin (s : State) (p : Nat) (a : FirstBeatAnn) : Bool :=
  s.pstate p == 2 && s.fget (BEAT_STATE_STATE p) == 1 && !s.tableDue p && !((s.regions p).any fun r => (s.region r).suites.any fun c => (s.slotOfCore r c.1).isSome) &&
    match s.domMaster p with
    | some m => m.node == a.masterNode && m.part == a.masterPart && m.start == a.number && a.number != 0 &&
      (!s.isMaster p || (s.part p).dom.formed)
    | none => false

/-- A member that is not the master takes the announcement over; a device without the master passes it on once (R54, R362). -/
def State.takeAnnounce (s : State) (p : Nat) (a : FirstBeatAnn) : State :=
  if s.isMaster p then s
  else
    let s := match s.domMaster p with
      | some m => if (s.part p).dom.formed then s else s.formed p m
      | none => s
    if (s.hosted p).isSome || (s.mates p).any fun q => s.fget (BEAT_STATE_STATE q) == 2 then s
    else s.floodDom p (s.parentPort p) fun d => .announce d a

/-- FIRST_BEAT: the partition becomes running in the announced beat (R54, R102); its schedule unit takes the step state of the counter (R260)
and its group tables are judged (R260, R368). -/
def firstBeat (p : Nat) (a : FirstBeatAnn) (s : State) : State :=
  if s.mayBegin p a = false then s
  else
    let s := s.takeAnnounce p a
    let s := s.fsets [(BEAT_NOW_NUMBER p, a.number), (HUB_PART_CTRL_STATE p, 3), (BEAT_STATE_STATE p, 2)]
    let s := s.updPart p fun q => { q with runFirst := a.number, endedBeat := 0, dom := { q.dom with subtree := a.subtree } }
    let s := (((s.freshCounts p).beatPulse p).schedStart p).judgeColl p
    s.each (s.regions p) fun s r => s.bookRotation r

/-- FIRST_BEAT (R54). -/
def execFirstBeat (p : Fin 4) (ann : FirstBeatAnn) (s : State) : Host.Outcome State Fault Refusal := .next (firstBeat p ann s)

/-! ## Closing -/

/-- The stop beat has closed: the partition enters stopping, and stops once no snapshot streams (R104, R296). -/
def State.endRun (s : State) (p : Nat) : State :=
  if s.snapStreams p then s.fsets [(HUB_PART_CTRL_STATE p, 4), (BEAT_STATE_STATE p, 3)] else s.stopPart p

/-- A stopped partition whose domain's last boundary symbol has come leaves the domain. -/
def State.leaveDomain (s : State) (p : Nat) : State :=
  if s.pstate p = 1 ∧ (s.part p).dom.boundary.isSome then s.updDom p fun _ => .idle else s

/-- MEMBER_CLOSE: the member closes its beat at or after the deadline and its closing token joins the merged one (R58 to R60); after the
domain's stop beat the partition stops (R75, R104). `stalls` are the stall times of codes 1 to 6. -/
def memberClose (p lateNs : Nat) (stalls : List Nat) (s : State) : State :=
  let d := (s.part p).dom
  if s.running p = false ∨ d.deadline = false ∨ d.closed ∨ d.ended ∨ s.closable p = false then s
  else
    let s := s.updDom p fun d => { d with closed := true, ownLate := lateNs }
    let s := s.mergeIn p ⟨s.node, p, lateNs, causeOf lateNs (s.stallsWith p stalls)⟩ 1 lateNs
    if d.stopAt = s.beat p ∧ s.running p then (s.endRun p).leaveDomain p else s

/-- MEMBER_CLOSE (R58). -/
def execMemberClose (p : Fin 4) (lateNs : Nat) (stalls : List Nat) (s : State) : Host.Outcome State Fault Refusal :=
  .next (memberClose p lateNs stalls s)

/-! ## Booked actions (R73, R74) -/

/-- A booking leaves the lists of the partitions. -/
def State.unbook (s : State) (ps : List Nat) (b : Booking) : State :=
  s.each ps fun s p => s.updPart p fun q => { q with books := q.books.filter fun c => !(c.kind == b.kind && c.unit == b.unit) }

/-- A rotation whose beat has come: the older twin, in DRAIN, takes the slot of NEXT_OUT in a handover; one that cannot start moves (R74,
R312). -/
def State.beginRotation (s : State) (p : Nat) (b : Booking) : State :=
  let r := b.unit
  let ready := s.fget (RGN_TWIN_IDS_TWIN0 r) ≠ 0x3F ∧ s.fget (RGN_TWIN_PHASE_TWIN0_PHASE r) = 3 ∧ (s.region r).handover = none
  match s.slotOfCore r (s.fget (RGN_CAROUSEL_NEXT_OUT r)) with
  | some k =>
    if ready then ((s.unbook [p] b).fset (RGN_CAROUSEL_NEXT_BEAT r) 0).updRegion r fun q => { q with handover := some k }
    else s.moveBooking p b
  | none =>
    (if s.fget (RGN_TWIN_PHASE_TWIN0_PHASE r) = 3 then s.fset (RGN_TWIN_PHASE_TWIN0_PHASE r) 2 else s).moveBooking p b

/-- The older twin of a region goes to DRAIN in the beat before its rotation (R308, R312). -/
def State.drainTwin (s : State) (r : Nat) : State :=
  if s.fget (RGN_TWIN_PHASE_TWIN0_PHASE r) = 2 then s.fset (RGN_TWIN_PHASE_TWIN0_PHASE r) 3 else s

/-- Has the booked beat come in every partition that holds the booking? An action that several partitions have booked starts no earlier than
any of them has it (R74). -/
def State.dueForAll (s : State) (b : Booking) : Bool :=
  allParts.all fun q => ((s.part q).books.filter fun c => c.kind == b.kind && c.unit == b.unit).all fun c => decide (c.beat ≤ s.beat q)

/-- A booking that cannot start moves in every partition that holds it (R74). -/
def State.moveAll (s : State) (b : Booking) : State :=
  s.each allParts fun s q =>
    match s.booked q b.kind b.unit with
    | some c => s.moveBooking q c
    | none => s

/-- A booked action whose beat has come begins; or waits for the beats of the other partitions that have it booked; or moves to a later beat
(R73, R74). -/
def State.beginBooked (s : State) (p : Nat) (b : Booking) : State :=
  if s.dueForAll b = false then s
  else match b.kind with
  | 1 => s.beginRotation p b
  | 2 =>
    if (s.stack b.unit).pass.isSome then s.unbook allParts b
    else if s.passRuns (b.unit / 3) then s.moveAll b
    else (s.unbook allParts b).startPass b.unit
  | 3 =>
    if s.fget (FAB_PORT_RECAL_BEAT b.unit) = 0 then s.unbook allParts b
    else if s.mayRecal b.unit then ((s.unbook allParts b).fset (FAB_PORT_RECAL_BEAT b.unit) 0).laneLeaves b.unit
    else (s.moveAll b).offerLane b.unit
  | _ => if b.unit < 4 then (s.unbook allParts b).regionVolts b.unit else (s.unbook allParts b).setRail 20 s.power.hubWant

/-- A booking whose beat has passed without its action, which waited for other partitions, moves to the beat that begins, with its note (R74;
log entry 74). -/
def State.moveLate (s : State) (p number : Nat) : State :=
  s.each ((s.part p).books.filter fun c => decide (c.beat < number)) fun s c =>
    (s.updPart p fun q => { q with books := insertBooking { c with beat := number } (q.books.filter (· != c)) }).noteHub 3 0 0

/-! ## The boundary -/

/-- What the closing beat leaves behind: the tokens of the domain, the lists of extents in flight (R251), the pauses of rings that the new
beat ends (R67). -/
def State.closeBooks (s : State) (p : Nat) : State :=
  let s := s.updDom p fun d => { d with closed := false, ownLate := 0, boundary := none, deadline := false }
  let s := s.each (s.ringsOf p) fun s n => if (s.ring n).extents = [] then s else s.updRing n fun q => { q with extents := [] }
  s.each (s.slotsOf p) fun s rk => if (s.slot rk.1 rk.2).extents = [] then s else s.updSlot rk.1 rk.2 fun q => { q with extents := [] }

/-- The beat number advances: staged RWB values and the staged step state take effect, the levels are set, booked actions begin (R70). -/
def State.nextBeat (s : State) (p : Nat) (b : BoundaryMsg) : State :=
  let s := (s.applyStaged p).takeStep p
  let s := s.setLevels p ((s.period p + b.stretchUs) * 2100)
  let s := (s.fset (BEAT_NOW_NUMBER p) b.number).closeBooks p
  let s := s.moveLate p b.number
  let s := s.each ((s.part p).books.filter fun c => decide (c.beat ≤ b.number)) fun s c => s.beginBooked p c
  s.each ((s.part p).books.filter fun c => c.kind == 1 && c.beat == b.number + 1) fun s c => s.drainTwin c.unit

/-- BEAT_BOUNDARY: the countdown of the boundary symbol expires and the next beat begins in the order of R70. -/
def beatBoundary (p : Nat) (counts : List (Nat × Nat)) (s : State) : State :=
  match (s.part p).dom.boundary with
  | none => s
  | some b =>
    if s.running p = false then s
    else
      let s := (((s.latchCounts p counts).nextBeat p b).placeHolds p b.number).beatPulse p
      let s := s.each (s.regions p) fun s r => s.bookRotation r
      s.drainPart p

/-- BEAT_BOUNDARY (R70). -/
def execBeatBoundary (p : Fin 4) (counts : List (Nat × Nat)) (s : State) : Host.Outcome State Fault Refusal := .next (beatBoundary p counts s)

/-! ## Handovers (R312) -/

/-- The older twin `t` takes slot `k`; the outgoing core `w` becomes the newer twin. -/
def State.swapTwin (s : State) (r k w t : Nat) : State :=
  let s := s.fset (slotMapFld r k) t
  let t1 := s.fget (RGN_TWIN_IDS_TWIN1 r)
  if t1 = 0x3F then s.fsets [(RGN_TWIN_IDS_TWIN0 r, w), (RGN_TWIN_PHASE_TWIN0_PHASE r, 1)]
  else s.fsets [(RGN_TWIN_IDS_TWIN0 r, t1), (RGN_TWIN_PHASE_TWIN0_PHASE r, s.fget (RGN_TWIN_PHASE_TWIN1_PHASE r)), (RGN_TWIN_IDS_TWIN1 r, w),
    (RGN_TWIN_PHASE_TWIN1_PHASE r, 1)]

/-- A handover that succeeds: the slot map, the twins, the pointer and the interval (R311, R312). -/
def State.rotate (s : State) (r k : Nat) : State :=
  let w := s.slotCore r k
  let s := s.swapTwin r k w (s.fget (RGN_TWIN_IDS_TWIN0 r))
  let s := s.updRegion r fun q =>
    { q with handover := none, lastHeld := mset q.lastHeld w (s.beat (s.regionPart r)), rotations := (q.rotations + 1) % 2 ^ 32 }
  let s := s.fsets [(RGN_CAROUSEL_NEXT_OUT r, s.nextWorker r 42 w), (RGN_TWIN_PHASE_SINCE_S r, 0), (RGN_CAROUSEL_NEXT_BEAT r, 0)]
  s.runSuite r w

/-! ## The seal (R322) -/

/-- SEAL_CANDIDATE: a write of HUB_SEAL; a new CAND clears SEALED and starts the judgement again, another write leaves both. -/
def sealCandidate (p value : Nat) (s : State) : State :=
  let c := bits value 0 48
  let new := c != s.fget (HUB_SEAL_CAND p)
  let s := s.fsets [(HUB_SEAL_CAND p, c), (HUB_SEAL_NOTE_JAR p, bits value 48 12), (HUB_SEAL_NOTE_EN p, bits value 60 1)]
  if new then ((s.fset (HUB_SEAL_SEALED p) 0).updPart p fun q => { q with sealDead := false }).trySeal p else s

/-- SEAL_CANDIDATE (R322). -/
def execSealCandidate (p : Fin 4) (value : Nat) (s : State) : Host.Outcome State Fault Refusal := .next (sealCandidate p value s)

end Sys2Proof.Machine
end

