-- ==== Sys2Proof/Machine/Die.lean ====
section
/-! DEFINITION. Loss of a compute die and die-to-die errors (R426 to R430). -/
namespace Sys2Proof.Machine

/-- Does the module end at die `d`? -/
def linkEnds : DieLink → Nat → Bool
  | .hub x _, d => x.val == d
  | .bridge b _, d => b.val == d || (b.val + 1) % 4 == d
  | .engine _ _, _ => false

/-- What a module carries (R33, R489). -/
inductive LinkRole
  | core | memory | hubTraffic | forwarded | engine
deriving DecidableEq, Repr

/-- The role of a module in a layout, which training assigns in phase 2 and which holds until the next start-up: bridge modules by the profile
and by whether the bridge joins regions of one partition, hub modules always alike (R33, R489). -/
def linkRole (layout : Nat) : DieLink → LinkRole
  | .hub _ i => if i.val < 8 then .hubTraffic else .forwarded
  | .bridge b i =>
    let cores := if partOfRegion layout b ≠ partOfRegion layout ((b.val + 1) % 4) then 0 else if pooled layout then 12 else 4
    if i.val < cores then .core else .memory
  | .engine _ _ => .engine

/-- The gates of die `d` close: the region reads isolated, and every partition that depends on the die raises the fault (R426, R430). -/
def State.isolate (s : State) (d v : Nat) (c : Code) : State :=
  let s := { s.setDie d v with retraining := s.retraining.filter fun m => !linkEnds m d }
  s.each ((List.range 4).filter fun p => dependsOn s.layout p d) fun s p => s.raise p c { unit := unitDie d }

/-- ISOLATE_DIE: reset, loss of clock or of heartbeat of a compute die (R426). -/
def execIsolateDie (d : Fin 4) (s : State) : Host.Outcome State Fault Refusal :=
  .next (if s.isolated d then s else s.isolate d 1 .dieLost)

/-- Is the module gated: its die isolated, its bridge out of service, its engine isolated (R366, R426, R430)? -/
def State.gated (s : State) (m : DieLink) : Bool :=
  ((List.range 4).any fun d => s.isolated d && linkEnds m d) ||
    match m with
    | .bridge b _ => s.fbit HUB_DIE_STAT_BRIDGE_OUT b
    | .engine e _ => s.fget (FAB_OE_STATE e) == 3 || s.deadLinks.contains m
    | .hub _ _ => false

/-- D2D_RETRY: a replay is counted; 16 in a row for one flit, or more than 65,536 in one second, make the module retrain (R429). -/
def d2dRetry (m : DieLink) (inRow inSecond : Nat) (s : State) : State :=
  if s.gated m then s
  else
    let s := s.fadd HUB_D2D_CNT_RETRIES 1
    if (16 ≤ inRow ∨ 65536 < inSecond) ∧ s.retraining.contains m = false then
      { s.fadd HUB_D2D_CNT_RETRAINS 1 with retraining := s.retraining ++ [m] }
    else s

/-- D2D_RETRY (R429). -/
def execD2dRetry (m : DieLink) (inRow inSecond : Nat) (s : State) : Host.Outcome State Fault Refusal := .next (d2dRetry m inRow inSecond s)

/-- The partitions that a lost bridge stops (R430): those that contain both dies, and those spread over all twelve stacks. -/
def bridgeHits (layout b : Nat) : List Nat :=
  (List.range (partsOf layout)).filter fun p =>
    (partOfRegion layout b == p && partOfRegion layout ((b + 1) % 4) == p) || !nearOnly layout

/-- A module has failed persistently: it is gated; an engine's keeps a list of its own, for the engine itself may be ready again (R430). -/
def State.persist (s : State) : DieLink → State
  | .hub d _ => s.isolate d 2 .d2dPersist
  | .bridge b _ =>
    let s := { s.fsetBit HUB_DIE_STAT_BRIDGE_OUT b true with
      retraining := s.retraining.filter fun m => match m with
        | .bridge c _ => c != b
        | _ => true }
    s.each (bridgeHits s.layout b) fun s p => s.raise p .d2dPersist { unit := unitDie b }
  | .engine e i => engineFail e { s with deadLinks := s.deadLinks ++ [.engine e i] }

/-- MODULE_RETRAIN_END: the retrain ends; one that fails gates the module (R429, R430). -/
def moduleRetrainEnd (m : DieLink) (ok : Bool) (s : State) : State :=
  if s.retraining.contains m then
    let s := { s with retraining := s.retraining.filter (· != m) }
    if ok then s else s.persist m
  else s

/-- MODULE_RETRAIN_END (R430). -/
def execModuleRetrainEnd (m : DieLink) (ok : Bool) (s : State) : Host.Outcome State Fault Refusal := .next (moduleRetrainEnd m ok s)

end Sys2Proof.Machine
end

