-- ==== Sys2Proof/Machine/Start.lean ====
section
/-! DEFINITION. START and CLEAR of a partition (R102, R103, R314, R428), the suites of its cores (R309), and the context commands that save
and restore its jars (R137, R138). -/
namespace Sys2Proof.Machine

/-! ## START (R102, R103) -/

/-- Fields back at their reset values. -/
def State.clearFlds (s : State) (l : List Fld) : State := { s with regs := mdrop s.regs (l.map (·.key)).contains }

/-- The cores of region `r` that are not retired. -/
def State.usable (s : State) (r : Nat) : Nat := ((List.range 42).filter fun c => !s.isRetired r c).length

/-- Is a region of the partition out of service, or a stack of its set that failed training (R31, R326)? -/
def State.regionsOut (s : State) (p : Nat) : Bool :=
  ((s.regions p).any fun r => s.dieState r == 3) || (stackSet s.layout p).any fun m => s.dieState (m / 3) == 3 && !s.stackUp m

/-- Does a die or bridge that is out of service stop the partition's start (R430)? -/
def State.persists (s : State) (p : Nat) : Bool :=
  ((List.range 4).any fun d => dependsOn s.layout p d && s.dieState d == 2) ||
    (List.range 4).any fun b => s.fbit HUB_DIE_STAT_BRIDGE_OUT b && (bridgeHits s.layout b).contains p

/-- The first of the checks made when START is accepted that fails (R103). -/
def State.startReason (s : State) (p : Nat) : Option Nat :=
  if s.flag (HUB_PART_PTBASE_ENABLE p) = false then some 1
  else if s.regionsOut p then some 2
  else if s.persists p then some 3
  else if (stackSet s.layout p).any fun m => !(s.stack m).outPc.isEmpty then some 8
  else if s.period p ≤ 2 * s.fget (BEAT_GUARD_US p) then some 7
  else none

/-- The isolated dies that a START of the partition rejoins (R428). -/
def State.toRejoin (s : State) (p : Nat) : List Nat := (List.range 4).filter fun d => dependsOn s.layout p d && s.dieState d == 1

/-- Does another partition that is active depend on the die (R428)? -/
def State.dieInUse (s : State) (p d : Nat) : Bool := allParts.any fun q => q != p && s.active q && dependsOn s.layout q d

/-- The stacks whose DRAM a rejoin loses are recorded; the manual names no code for the record, so it is free (log entry 22). -/
def State.recordStacks (s : State) (d : Nat) : State :=
  s.each [3 * d, 3 * d + 1, 3 * d + 2] fun s m => (s.record { code := s.free.toNat % 4096, note := true, unit := unitStack m }).tick

/-- A die rejoins: its DRAM is zeroed, its stacks have no history; it is in service, or out of it with fewer than 40 usable cores or an
untrained stack (R428, R31, R326). -/
def State.rejoinDie (s : State) (d : Nat) : State :=
  let layout := s.layout
  let s := { s with
    mem := s.mem.zeroDie layout d
    damage := mdrop s.damage fun k => decide (64 * k < dramEnd) && stackOf layout (64 * k) / 3 == d }
  let s := s.each [3 * d, 3 * d + 1, 3 * d + 2] fun s m => (s.updStack m fun k => { Stack.idle with outPc := k.outPc })
  let s := s.updRegion d fun q => { q with bad := [], watch := [] }
  let s := s.fset (MEM_STAT_RECAL d) 0
  (s.setDie d (if s.usable d < 40 ∨ s.fget (MEM_STAT_UP d) ≠ 7 then 3 else 0)).recordStacks d

/-- The slots of partition `p` whose cores are suspect, as region and core (R314). -/
def State.suspectCores (s : State) (p : Nat) : List (Nat × Nat) :=
  ((s.slotsOf p).map fun rk => (rk.1, s.slotCore rk.1 rk.2)).filter fun rc => s.fbit (RGN_SUSPECT_SUSPECT rc.1) rc.2

/-- Do suites of working cores of partition `p` run (R314)? -/
def State.testing (s : State) (p : Nat) : Bool :=
  (s.regions p).any fun r => (s.region r).suites.any fun c => (s.slotOfCore r c.1).isSome

/-- What a new run forgets: the beats of the descriptors before it (R90), the counts since START, the collective engines (R368, R380). A
frozen control core resumes (R122). -/
def State.freshRun (s : State) (p : Nat) : State :=
  let s := s.each (s.ringsOf p) fun s n => if (s.ring n).prevEff = none ∧ (s.ring n).pausedAt = none then s else s.updRing n fun q => { q with prevEff := none, pausedAt := none }
  let s := s.each (s.slotsOf p) fun s rk =>
    let s := if (s.slot rk.1 rk.2).prevEff = none then s else s.updSlot rk.1 rk.2 fun q => { q with prevEff := none }
    if s.fget (CORE_CC_STAT_STATE rk.1 rk.2) = 2 then s.fset (CORE_CC_STAT_STATE rk.1 rk.2) 1 else s
  let s := s.clearFlds ([TCN_CNT_BULK_DONE p, TCN_CNT_TC_DONE p] ++ (s.slotsOf p).map fun rk => CORE_LAUNCHQ_LAUNCHED rk.1 rk.2)
  s.updPart p fun q => { q with coll := .idle, dom := .idle, inbound := [] }

/-- The tests of a starting partition are over: a region may have gone out of service (R315); else, once its group table is read, it joins,
testing no more (R54, R368). -/
def State.goOn (s : State) (p : Nat) : State := if s.regionsOut p then s.formFail p 2 else if s.tableDue p then s else s.join p false

/-- A START that has passed its checks and rejoins: voltage steps that a fault left waiting take effect (log entry 37), suites of suspect cores run, Yo-Yo is
initialised, the group table is read, and the partition joins (R54, R279, R314, R368). -/
def State.testAndJoin (s : State) (p : Nat) : State :=
  let s := s.each (s.regions p) State.settleVolts
  let s := s.each (s.suspectCores p) fun s rc => s.runSuite rc.1 rc.2
  let s := (s.each (s.regions p) fun s r => s.yoInit r).loadColl p
  if s.running p || s.pstate p != 2 then s
  else if s.testing p then s.join p true else s.goOn p

/-- START (R102, R103): `bad` are the dies whose rejoin fails. In a partition out of service it is discarded, and REASON says why (R326, R430;
log entry 85); none starts until GlaetLink is up (R414). -/
def start (p : Nat) (bad : List (Fin 4)) (s : State) : State :=
  if s.pstate p = 6 ∧ s.fatal = false then (s.noteDiscard (HUB_PART_CTRL p) 1).fset (HUB_PART_CTRL_REASON p) (if s.regionsOut p then 2 else 3)
  else if s.pstate p ≠ 1 ∨ s.fatal ∨ s.flag (HUB_PART_CTX_BUSY p) ∨ s.glkUp = false then s.noteDiscard (HUB_PART_CTRL p) 1
  else
    match s.startReason p with
    | some r => s.fset (HUB_PART_CTRL_REASON p) r
    | none =>
      let dies := s.toRejoin p
      let s := s.fsets [(HUB_PART_CTRL_REASON p, 0), (HUB_PART_CTRL_STATE p, 2)]
      if dies.any (s.dieInUse p) then s.formFail p 3
      else
        let s := s.each (dies.filter fun d => !bad.any fun b => b.val == d) fun s d => s.rejoinDie d
        if dies.any fun d => bad.any fun b => b.val == d then s.formFail p 3
        else if s.regionsOut p then s.formFail p 2
        else (s.freshRun p).testAndJoin p

/-- START (R102). -/
def execStart (p : Fin 4) (bad : List (Fin 4)) (s : State) : Host.Outcome State Fault Refusal := .next (start p bad s)

/-- SUITE_END: the suite of a core ends; `outs` are its kernels' outputs as they left the core. It passes when the digest of each is the stored
one (R307 to R309, R314). The last one of a starting partition's working cores lets its start go on. -/
def suiteEnd (r core : Nat) (outs : List (List Byte)) (s : State) : State :=
  match mget? (s.region r).suites core with
  | none => s
  | some stored =>
    let p := s.regionPart r
    let before := s.testing p
    let s := if outs.map crc64 = stored then s.suitePass r core else s.suiteFail r core
    if s.pstate p = 2 ∧ before ∧ s.testing p = false then s.goOn p else s

/-- SUITE_END (R309). -/
def execSuiteEnd (r : Fin 4) (core : Nat) (outs : List (List Byte)) (s : State) : Host.Outcome State Fault Refusal := .next (suiteEnd r core outs s)

/-! ## CLEAR (R102) -/

/-- The log fields of partition `p` whose VALID a CLEAR clears, and the registers of its accumulation groups. -/
def State.clearedFlds (s : State) (p : Nat) : List Fld :=
  ((s.slotsOf p).flatMap fun rk =>
    ((List.range 4).map fun m => ARR_CHECK_LOG_VALID rk.1 rk.2 m) ++ [VEC_CHECK_LOG_VALID rk.1 rk.2] ++
      (List.range 16).flatMap fun g => [CORE_ACC_GRP_STATE rk.1 rk.2 g, CORE_ACC_GRP_MODE rk.1 rk.2 g, CORE_ACC_GRP_LONG_K rk.1 rk.2 g]) ++
    ((s.regions p).flatMap fun r => [KAL_FAULT_LOG_VALID r, ABC_CHECK_LOG_VALID r, YOY_LOG_VALID r, RGN_DUP_LOG_VALID r]) ++
    (([0, 1, 2, 3].filter fun r => s.fget (MEM_ERR_LOG_PART r) == p).map fun r => MEM_ERR_LOG_VALID r) ++
    [HUB_FPX_LOG_VALID p, JIG_LOG_VALID p, FAB_ERR_LOG_VALID p, TCN_LOG_VALID p, BEAT_NOW_NUMBER p, HUB_PART_CTRL_FAULT p, HUB_PART_FLT_LOST p,
      HUB_PART_FLT_ORIGIN_NODE p, HUB_PART_FLT_ORIGIN_PART p, HUB_PART_FLT_ORIGIN_CODE p, BEAT_STATE_STATE p, BEAT_STATE_MASTER p,
      BEAT_DOMAIN_MASTER_NODE p, BEAT_DOMAIN_MASTER_PART p]

/-- A ring that is not OFF goes OFF. -/
def State.offRing (s : State) (n : Nat) : State := if s.ringState n = 0 then s else s.ringOff n

/-- A control core holds no command, its queues no entry, no descriptor and no held work. -/
def State.idleSlot (s : State) (rk : Nat × Nat) : State :=
  let q := s.slot rk.1 rk.2
  if q.cq.isEmpty && q.inflight.isEmpty && q.fresh.isEmpty && q.extents.isEmpty && q.vec.isNone && q.queues.isEmpty && q.begun.isEmpty then s
  else s.updSlot rk.1 rk.2 fun q => { q with cq := [], inflight := [], fresh := [], extents := [], vec := none, queues := [], begun := [] }

/-- CLEAR: rings OFF, held work discarded, FAULT 0, the pending faults gone, groups CLOSED, logs open again; the partition is stopped (R102,
R188, R224, R420). -/
def clear (p : Nat) (s : State) : State :=
  if s.pstate p ≠ 5 ∨ s.fatal then s.noteDiscard (HUB_PART_CTRL p) 2
  else
    let s := (s.each (s.ringsOf p) State.offRing).each (s.slotsOf p) State.idleSlot
    let s := s.clearFlds (s.clearedFlds p)
    let s := s.updPart p fun q => { q with pend := [], dom := .idle, coll := .idle, runFirst := 0, endedBeat := 0, sentDrops := [] }
    s.fset (HUB_PART_CTRL_STATE p) 1

/-- CLEAR (R102). -/
def execClear (p : Fin 4) (s : State) : Host.Outcome State Fault Refusal := .next (clear p s)

/-! ## Context commands (R137, R138) -/

/-- The length of a jar image: 96 KiB. -/
def ctxLen : Nat := 0x18000

/-- Does the image lie wholly within the GlaetLink window or the partition's share? -/
def State.ctxFits (s : State) (p a : Nat) : Bool :=
  (inCompanion a && inCompanion (a + ctxLen - 1)) || (s.inShare p a && s.inShare p (a + ctxLen - 1))

/-- Does a take wait or is a drop held (R138)? -/
def Part.jarsBusy (q : Part) : Bool :=
  (q.jars.any fun j => !j.2.takes.isEmpty) || !q.heldOps.isEmpty || q.streams.any fun t => !t.held.isEmpty

/-- The two bytes of a jar at 0x4000 + 2 × j. -/
def jarEntry (regions : List Nat) : Option Jar → Nat
  | none => 0
  | some x => 0x8000 + regions.idxOf x.region * 64 + x.slot

/-- The 16 bytes of a stream entry. -/
def streamEntry (t : Stream) : List Byte :=
  natLe 2 t.node ++ natLe 2 t.part ++ natLe 2 t.epoch ++ natLe 2 0 ++ natLe 8 (toTwos 64 ((t.landed : Int) - t.announced))

/-- The jar image of partition `p` (R137). -/
def State.jarImage (s : State) (p : Nat) : List Byte :=
  let q := s.part p
  let js := List.range 4096
  (js.flatMap fun j => natLe 4 (((s.jar? p j).map (·.count)).getD 0)) ++ (js.flatMap fun j => natLe 2 (jarEntry (s.regions p) (s.jar? p j))) ++
    natLe 4 0x4A415253 ++ natLe 4 1 ++ natLe 4 (s.regions p).length ++ natLe 4 q.streams.length ++ natLe 0x1FF0 0 ++
    (q.streams.flatMap streamEntry) ++ natLe (16 * (4096 - q.streams.length)) 0

/-- A context command is accepted: only in a stopped partition, one at a time (R137). -/
def State.ctxAccepts (s : State) (p : Nat) : Bool := s.pstate p == 1 && !s.flag (HUB_PART_CTX_BUSY p) && !s.fatal

/-- The command begins: BUSY; a SAVE whose conditions hold writes its image (R138). -/
def State.ctxBegin (s : State) (p cmd addr : Nat) : State :=
  if s.ctxAccepts p = false then s.noteDiscard (HUB_PART_CTX p) (addr / 4096 * 4096 + cmd)
  else
    let a := addr / 4096 % 2 ^ 32 * 4096
    let fits := s.ctxFits p a
    let bad := cmd != 3 && !fits || cmd == 1 && (s.part p).jarsBusy
    let s := s.fsets [(HUB_PART_CTX_ADDR p, a / 4096), (HUB_PART_CTX_BUSY p, 1), (HUB_PART_CTX_ERR p, 0)]
    let s := s.updPart p fun q => { q with ctx := some ⟨cmd, a, bad⟩ }
    if bad then (if cmd = 1 ∧ fits then s.undef a ctxLen else s)
    else if cmd = 1 then s.put a (s.jarImage p) (.ctx p)
    else if cmd = 2 then s.askStream [(a, ctxLen)] (.ctx p)
    else s

/-- SAVE (R138). -/
def execSave (p : Fin 4) (addr : Nat) (s : State) : Host.Outcome State Fault Refusal := .next (s.ctxBegin p 1 addr)

/-- RESTORE (R138). -/
def execRestore (p : Fin 4) (addr : Nat) (s : State) : Host.Outcome State Fault Refusal := .next (s.ctxBegin p 2 addr)

/-- EMPTY (R138). -/
def execEmpty (p : Fin 4) (addr : Nat) (s : State) : Host.Outcome State Fault Refusal := .next (s.ctxBegin p 3 addr)

/-- Does an image keep the conditions of RESTORE (R138)? -/
def State.imageLegal (s : State) (p a : Nat) : Bool :=
  s.loadNat (a + 0x6000) 4 == 0x4A415253 && s.loadNat (a + 0x6004) 4 == 1 && s.loadNat (a + 0x6008) 4 == (s.regions p).length &&
    (List.range 4096).all fun j =>
      let e := s.loadNat (a + 0x4000 + 2 * j) 2
      bits e 8 7 == 0 && (!bit e 15 || (decide (bits e 6 2 < (s.regions p).length) && decide (bits e 0 6 < 40)))

/-- The jars of an image. -/
def State.imageJars (s : State) (p a : Nat) : List (Nat × Jar) :=
  (List.range 4096).filterMap fun j =>
    let e := s.loadNat (a + 0x4000 + 2 * j) 2
    if bit e 15 then some (j, ⟨(s.regions p).getD (bits e 6 2) 0, bits e 0 6, s.loadNat (a + 4 * j) 4, []⟩) else none

/-- The streams of an image: landed minus announced is all that counts (R132). -/
def State.imageStreams (s : State) (a : Nat) : List Stream :=
  (List.range 4096).filterMap fun e =>
    let w := s.loadNat (a + 0x8000 + 16 * e) 16
    let d := sext 64 (bits w 64 64)
    if w = 0 then none
    else some ⟨bits w 0 16, bits w 16 2, bits w 32 16, d.toNat, (-d).toNat, [], []⟩

/-- A context command ends: BUSY falls, with ERR when it failed (R138). -/
def State.ctxEnd (s : State) (p : Nat) (bad : Bool) : State :=
  (s.fsets [(HUB_PART_CTX_BUSY p, 0), (HUB_PART_CTX_ERR p, b2n bad)]).updPart p fun q => { q with ctx := none }

/-- A failed SAVE leaves its area undefined (R138). -/
def State.ctxFail (s : State) (p : Nat) (c : CtxCmd) : State :=
  (if c.cmd = 1 ∧ s.ctxFits p c.addr ∧ c.bad = false then s.undef c.addr ctxLen else s).ctxEnd p true

/-- CONTEXT_DONE: the command finishes and its effects appear, or it fails and changes no jar state; an uncorrectable sector faults the
stopped partition (R138, R421), and memory that cannot be reached fails the command (R338). It waits for the companion's answers. -/
def contextDone (p : Nat) (phys : ReadUpset) (s : State) : State :=
  match (s.part p).ctx with
  | none => s
  | some c =>
    let rs := [(c.addr, ctxLen)]
    if c.bad || (c.cmd != 3 && s.refusedIn c.addr ctxLen) then (s.ctxFail p c).dropStream rs
    else if c.cmd = 3 then (s.updPart p fun q => { q with jars := [], streams := [] }).ctxEnd p false
    else if c.cmd = 1 then (if s.glk.acksDue (.ctx p) then s else s.ctxEnd p false)
    else if s.streamReady rs = false then s.askStream rs (.ctx p)
    else
      let x := (s.strike phys).readFor p rs
      match x.2 with
      | some a => ((x.1.ctxEnd p true).raise p .memUncorr (x.1.uncorrCause a)).dropStream rs
      | none =>
        let s := x.1
        if s.imageLegal p c.addr then
          ((s.updPart p fun q => { q with jars := s.imageJars p c.addr, streams := s.imageStreams c.addr }).ctxEnd p false).dropStream rs
        else (s.ctxEnd p true).dropStream rs

/-- CONTEXT_DONE (R138). -/
def execContextDone (p : Fin 4) (phys : ReadUpset) (s : State) : Host.Outcome State Fault Refusal := .next (contextDone p phys s)

end Sys2Proof.Machine
end

