-- ==== Sys2Proof/Machine/GlkLink.lean ====
section
/-! DEFINITION. GlaetLink as a link (R394 to R397, R414, R415): training, replay and retraining, lanes, link down; the companion's answers
to the device's requests (R399, R403, R406, R411) and its snoops (R403). -/
namespace Sys2Proof.Machine

/-- The log register of GlaetLink as a word. -/
def State.glkLog (s : State) : Nat :=
  s.fget GLK_ERR_LOG_VALID * 2 ^ 63 + s.fget GLK_ERR_LOG_KIND * 2 ^ 60 + s.fget GLK_ERR_LOG_REASON * 2 ^ 56 +
    s.fget GLK_ERR_LOG_PART * 2 ^ 54 + s.fget GLK_ERR_LOG_NOPART * 2 ^ 53 + s.fget GLK_ERR_LOG_PA

/-! ## Training (R395) and link down (R414) -/

/-- Training starts, with the MIN_LANES of now. -/
def State.glkTrain (s : State) : State :=
  (s.fsets [(GLK_STAT_STATE, 1), (GLK_STAT_LANES_UP, 0)]).updGlk fun g =>
    { Glk.reset with lost := g.lost, nextTag := g.nextTag, minLanes := s.fget GLK_CTRL_MIN_LANES }

/-- A training attempt fails: it is recorded, and training starts again (R395). -/
def State.glkTrainFail (s : State) : State := (s.noteHub 4 0 0).glkTrain

/-- A context command loses its accesses. -/
def State.ctxLost (s : State) (p : Nat) : State := s.updPart p fun q => { q with ctx := q.ctx.map fun c => { c with bad := true } }

/-- On whose behalf the writes of a RESYNC request are made. -/
def State.resyncOwner (s : State) (q : ResyncReq) : Owner :=
  match q.by_ with
  | some (o, id) => .desc (s.originPart o) id
  | none => .resync

/-- A RESYNC request whose write has failed is over: its block has no DONE. -/
def State.resyncLost (s : State) (o : Owner) : State :=
  match s.resyncNow with
  | some x => if s.resyncOwner x.req = o then { s with resyncNow := none } else s
  | none => s

/-- The reads and writes of the units that no partition's fault covers end without data (R411, R414). -/
def State.endAccess (s : State) (o : Owner) : State :=
  let s := s.resyncLost o
  match o with
  | .ctx p => s.ctxLost p
  | .land p node part epoch upTo => s.landLost p node part epoch upTo
  | .security u => ({ s with sec := { s.sec with failed := u :: s.sec.failed.filter (· != u) } }).tokenCheck
  | _ => s

/-- GlaetLink goes down: the steps of R414 in their order. -/
def State.glkDown (s : State) : State :=
  let s := s.fset GLK_STAT_STATE 1
  let s := s.each ([0, 1, 2, 3].filter s.active) fun s p => s.raise p .glkDown { unit := unitGlk, log := s.glkLog }
  let s := s.each (s.glk.outst ++ s.glk.deferred.map (·.2)) fun s o => s.endAccess o.owner
  let s := (s.fset GLK_CTRL_RETRAIN 0).flushToward .companion
  (s.updGlk fun g => { g with lost := true }).glkTrain

/-! ## Messages that arrive (R353, R396 to R398, R401) -/

/-- A message arrives in a flit: one in sequence is taken, and then `k` acts on it; a header that does not conform takes the link down, or fails
the training. One ahead of its sequence shows a gap: the first asks for a replay with a NAK, and what follows is discarded until the replay; one
that has been received before is discarded. -/
def State.glkAccept (s : State) (h : GlkHead) (slots : Nat) (ok : Bool) (k : State → State) : State :=
  if s.glk.follows h = false then
    if s.glk.nakSent ∨ 2048 ≤ (h.seq + 4096 - s.glk.seqRx) % 4096 then s
    else (s.updGlk fun g => { g with nakSent := true }).glkEmpty true 0 0
  else if ok = false then (if s.glkUp then s.glkDown else s.glkTrainFail)
  else k (s.glkTake h slots)

/-- A message arrives while the link is up. -/
def State.glkIn (s : State) (h : GlkHead) (slots : Nat) (ok : Bool) (k : State → State) : State :=
  if s.glkUp = false then s else s.glkAccept h slots ok k

/-- Must a message of the companion wait (R406): an INV_ACK has not been sent, or messages before it wait? -/
def Glk.behindSnoop (g : Glk) : Bool := (g.waiting.any fun m => m.cls == 2 && m.op == 1) || !g.late.isEmpty

/-- A message is kept back, with its receive buffer. -/
def State.keepLate (s : State) (m : LateMsg) : State := s.updGlk fun g => { g with late := g.late ++ [m] }

/-- A word from the companion enters the queue of its channel (R413, R445). -/
def State.takeWord (s : State) (c word : Nat) : State :=
  let s := s.glkFree 6
  if companionChannel c then s.mboxSend c .toB word (endpointUnit .companion) else s

/-- Does the header of a MGMT message conform: 8 to 64 bytes of data (R399)? -/
def headMgmt (h : GlkHead) : Bool := !h.rsv && decide (1 ≤ h.size) && decide (h.size ≤ 4)

/-- The bytes of data that a header announces (R398). -/
def headBytes (h : GlkHead) : Nat := if h.size = 0 then 0 else 2 ^ (h.size + 2)

/-- CAPS: the companion's capabilities come while the link trains; the device answers with its own, which no rule states (a free value), and with
its receive buffers as credits (R395, R401; log entry 48). -/
def capsIn (data : List Byte) (h : GlkHead) (s : State) : State :=
  if s.fget GLK_STAT_STATE = 1 ∧ s.glk.capsSeen = false then
    s.glkAccept h (slotsOf data.length) (headMgmt h && headFits h data.length) fun s =>
      let s := s.tick.updGlk fun g => { g with capsSeen := true, seqTx := 2 }
      (s.emit (.glk ⟨0, s.glk.lastRx, false, 0, 0, some { GlkMsg.bare 7 0 0 with data := natLe 8 s.free.toNat }⟩)).emit
        (.glk ⟨1, s.glk.lastRx, false, 0, 0, some { GlkMsg.bare 7 1 0 with data := glkBuffers.flatMap (natLe 2) }⟩)
  else s.glkIn h (slotsOf data.length) (headMgmt h && headFits h data.length) fun s => s.glkFree 7

/-- CAPS (R395). -/
def execCaps (data : List Byte) (h : GlkHead) (s : State) : Host.Outcome State Fault Refusal := .next (capsIn data h s)

/-- The lanes of a mask (R395). -/
def glkLanes (m : Nat) : Nat := ((List.range 16).filter (bit m)).length

/-- The least credits that the companion must advertise, by class (R401). -/
def leastCredits : List (Nat × Nat) := [(0, 64), (2, 64), (3, 256), (5, 16), (6, 16), (7, 8)]

/-- The link comes up, when enough lanes have trained and enough credits are advertised; a link that had gone down counts
it and records its return (R395, R401, R415). -/
def State.glkComesUp (s : State) (lanes : Nat) (credits : List Nat) : State :=
  if glkLanes lanes < s.glk.minLanes ∨ leastCredits.any fun c => decide (credits.getD c.1 0 < c.2) then s.glkTrainFail
  else
    let s := s.fsets [(GLK_STAT_LANES_UP, lanes), (GLK_STAT_STATE, if glkLanes lanes = 16 then 2 else 3)]
    let lost := s.glk.lost
    let s := s.updGlk fun g => { g with credits := (List.range 8).map fun c => (c, credits.getD c 0), lost := false }
    let s := s.glkDrain
    if lost then (s.fadd GLK_STAT_DOWNS 1).noteHub 0xB 0 0 else s

/-- CREDIT_INIT: the companion's credits end the training (R395). -/
def creditInit (lanes : Nat) (credits : List Nat) (h : GlkHead) (s : State) : State :=
  if s.fget GLK_STAT_STATE ≠ 1 ∨ s.glk.capsSeen = false then s
  else s.glkAccept h (slotsOf (headBytes h)) (headMgmt h) fun s => s.glkComesUp lanes credits

/-- CREDIT_INIT (R395). -/
def execCreditInit (lanes : Nat) (credits : List Nat) (h : GlkHead) (s : State) : Host.Outcome State Fault Refusal :=
  .next (creditInit (lanes % 65536) credits h s)

/-- GLK_TRAINING_TIMEOUT: 200 ms have passed; training starts again (R395). -/
def execGlkTrainingTimeout (s : State) : Host.Outcome State Fault Refusal :=
  .next (if s.fget GLK_STAT_STATE = 1 then s.glkTrainFail else s)

/-- DOWN_NOTICE: the companion takes the link down (R414). -/
def downNotice (h : GlkHead) (s : State) : State := s.glkIn h (slotsOf (headBytes h)) (headMgmt h) State.glkDown

/-- DOWN_NOTICE (R414). -/
def execDownNotice (h : GlkHead) (s : State) : Host.Outcome State Fault Refusal := .next (downNotice h s)

/-- ECHO: the message is sent back as it came (R399). -/
def echo (data : List Byte) (h : GlkHead) (s : State) : State :=
  s.glkIn h (slotsOf data.length) (headMgmt h && headFits h data.length) fun s => (s.glkFree 7).glkPut { GlkMsg.bare 7 3 0 with data := data }

/-- ECHO (R399). -/
def execEcho (data : List Byte) (h : GlkHead) (s : State) : Host.Outcome State Fault Refusal := .next (echo data h s)

/-- MBOX_WORD: an MBOX message from the companion enters the queue of its channel (R445, R413). -/
def mboxWord (c word : Nat) (h : GlkHead) (s : State) : State :=
  s.glkIn h (slotsOf 8) (headFits h 8) fun s => if s.glk.behindSnoop then s.keepLate (.word c word) else s.takeWord c word

/-- MBOX_WORD (R445). -/
def execMboxWord (c word : Nat) (h : GlkHead) (s : State) : Host.Outcome State Fault Refusal := .next (mboxWord c word h s)

/-! ## Replay and retraining (R396) -/

/-- The unacknowledged flits are sent again, in order, and counted. -/
def State.glkReplay (s : State) : State :=
  let u := s.glk.unacked
  { s with out := s.out ++ u.map fun (e : Nat × GlkMsg) => Out.glk ⟨e.1, s.glk.lastRx, false, 0, 0, some e.2⟩ }.fadd GLK_CNT1_REPLAYS u.length

/-- The link retrains without dropping a message. -/
def State.glkRetrain (s : State) : State :=
  ((s.updGlk fun g => { g with retraining := true, naks := 0 }).fset GLK_CTRL_RETRAIN 1).fadd GLK_STAT_RETRAINS 1

/-- GLK_RETRAIN: a write of GLK_CTRL.RETRAIN makes a link that is up retrain (R396). -/
def glkRetrainNow (s : State) : State := if s.glkUp && !s.glk.retraining then s.glkRetrain else s

/-- GLK_RETRAIN (R396). -/
def execGlkRetrain (s : State) : Host.Outcome State Fault Refusal := .next (glkRetrainNow s)

/-- GLK_RETRAIN_END: replay resumes; the third failure in a row takes the link down (R396). -/
def glkRetrainEnd (ok : Bool) (s : State) : State :=
  if s.glk.retraining = false then s
  else if ok then
    (((s.updGlk fun g => { g with retraining := false, retrainFails := 0 }).fset GLK_CTRL_RETRAIN 0).glkReplay).glkDrain
  else if s.glk.retrainFails + 1 < 3 then
    (s.updGlk fun g => { g with retrainFails := g.retrainFails + 1 }).fadd GLK_STAT_RETRAINS 1
  else s.glkDown

/-- GLK_RETRAIN_END (R396). -/
def execGlkRetrainEnd (ok : Bool) (s : State) : Host.Outcome State Fault Refusal := .next (glkRetrainEnd ok s)

/-- GLK_FLIT_DISCARD: the receiver counts it and asks for a replay (R353, R396). -/
def glkFlitDiscard (c : DiscardCause) (s : State) : State :=
  if s.glkUp = false then s
  else
    let s := match c with
      | .fec => s.fadd GLK_CNT0_FEC_UNCORR 1
      | .crc => s.fadd GLK_CNT1_CRC_ERR 1
    (s.updGlk fun g => { g with nakSent := true }).glkEmpty true 0 0

/-- GLK_FLIT_DISCARD (R396). -/
def execGlkFlitDiscard (c : DiscardCause) (s : State) : Host.Outcome State Fault Refusal := .next (glkFlitDiscard c s)

/-- GLK_NAK: the rest after `ack` is replayed; the eighth in a row makes the link retrain (R396). -/
def glkNak (ack : Nat) (s : State) : State :=
  if s.glkUp = false then s
  else
    let s := s.updGlk fun g => { g.acked ack with naks := (g.acked ack).naks + 1 }
    if 8 ≤ s.glk.naks then s.glkRetrain else s.glkReplay

/-- GLK_NAK (R396). -/
def execGlkNak (ack : Nat) (s : State) : Host.Outcome State Fault Refusal := .next (glkNak ack s)

/-! ## Lanes (R396, R414) -/

/-- Lanes are lost for good: the link goes on DEGRADED, or goes down with fewer than MIN_LANES. The lane out for recalibration remains one
of the link's. -/
def State.glkLoseLanes (s : State) (mask : Nat) : State :=
  let left := maskMinus (s.fget GLK_STAT_LANES_UP) mask
  let out := match s.glk.laneOut with
    | some l => !bit mask l
    | none => false
  if s.glkUp = false then s
  else if left = 0 ∨ glkLanes left + b2n out < s.glk.minLanes then s.glkDown
  else
    let s := s.updGlk fun g => if out then g else { g with laneOut := none, laneRetry := false }
    if left = s.fget GLK_STAT_LANES_UP then s else s.fsets [(GLK_STAT_LANES_UP, left), (GLK_STAT_STATE, 3)]

/-- GLK_LANE_LOSS (R414). -/
def execGlkLaneLoss (lanes : Nat) (s : State) : Host.Outcome State Fault Refusal := .next (s.glkLoseLanes (lanes % 65536))

/-- The lane of the link that falls due next: each after the one before it, lane 0 after lane 15 (R396). -/
def State.glkLaneDue (s : State) : Option Nat :=
  ((List.range 16).map fun i => (s.glk.laneNext + i) % 16).find? fun l => s.fbit GLK_STAT_LANES_UP l

/-- GLK_LANE_RECAL: the lane that is due leaves for its recalibration, one at a time (R396). -/
def glkLaneRecal (lane : Nat) (s : State) : State :=
  if s.glkUp && !s.glk.retraining && s.glk.laneOut.isNone && s.glkLaneDue == some lane then
    (s.updGlk fun g => { g with laneOut := some lane, laneRetry := false, laneNext := (lane + 1) % 16 }).fsetBit GLK_STAT_LANES_UP lane false
  else s

/-- GLK_LANE_RECAL (R396). -/
def execGlkLaneRecal (lane : Fin 16) (s : State) : Host.Outcome State Fault Refusal := .next (glkLaneRecal lane s)

/-- GLK_LANE_RECAL_END: the lane rejoins; or it tries again; or, failing twice, it leaves the link (R396). -/
def glkLaneRecalEnd (lane : Nat) (ok : Bool) (s : State) : State :=
  if s.glk.laneOut ≠ some lane then s
  else
    let back := (s.updGlk fun g => { g with laneOut := none, laneRetry := false }).fsetBit GLK_STAT_LANES_UP lane true
    if ok then back
    else if s.glk.laneRetry = false then s.updGlk fun g => { g with laneRetry := true }
    else back.glkLoseLanes (2 ^ lane)

/-- GLK_LANE_RECAL_END (R396). -/
def execGlkLaneRecalEnd (lane : Fin 16) (ok : Bool) (s : State) : Host.Outcome State Fault Refusal := .next (glkLaneRecalEnd lane ok s)

/-! ## Snoops and answers -/

/-- SNP_INV: the line goes to I, a read of it that is outstanding will leave it there, and INV_ACK is sent (R403). An address inside a line
shows a peer that does not conform (R398, R400). -/
def snpInv (tag addr : Nat) (h : GlkHead) (s : State) : State :=
  s.glkIn h 1 (headFits h 0 && addr % 128 == 0 && decide (addr < 2 ^ 42)) fun s =>
    let l := lineOf addr
    let s := (s.glkFree 1).fadd GLK_CACHE_CNT_SNOOPS 1
    let s := s.updGlk fun g => { g with
      shared := g.shared.filter (· != l)
      outst := g.outst.map fun o => if o.op = 0 ∧ lineOf o.pa = l then { o with snooped := true } else o }
    s.glkPut (GlkMsg.bare 2 1 tag)

/-- SNP_INV (R403). -/
def execSnpInv (tag addr : Nat) (h : GlkHead) (s : State) : Host.Outcome State Fault Refusal := .next (snpInv tag addr h s)

/-- The outstanding request of a tag. -/
def Glk.request (g : Glk) (tag : Nat) : Option Outst := g.outst.find? fun o => o.tag == tag

/-- A request is answered or given up: what R406 kept behind it may go. -/
def State.glkSettle (s : State) (tag : Nat) : State :=
  (s.updGlk fun g => { g with outst := g.outst.filter fun o => o.tag != tag }).glkUndefer

/-- A line for fetch use has come: a starting partition's group table can be read, and it joins (R368); DATA flits that waited for a page-table
line land (R132); its launch queues go on (R120). -/
def State.fetchGoesOn (s : State) (p : Nat) : State :=
  let due := s.pstate p == 2 && s.tableDue p
  let s := if due then s.loadColl p else s
  let s := if due ∧ s.pstate p = 2 ∧ s.tableDue p = false ∧ s.testing p = false then s.goOn p else s
  (s.inboundGoes p).drainPart p

/-- GLK_DATA: the answer to a read brings its line: into S, unless a snoop came first (R403), or for stream use (R404). An answer to no
outstanding read is discarded (R411). -/
def glkData (tag : Nat) (data : List Byte) (phys : ReadUpset) (h : GlkHead) (s : State) : State :=
  s.glkIn h (slotsOf data.length) (headFits h data.length && data.length == 128) fun s =>
    let s := s.glkFree 3
    match s.glk.request tag with
    | none => s
    | some o =>
      if o.isWrite then s
      else
        let l := lineOf o.pa
        let s := { s with mem := s.mem.writeBytes (glkBase + 128 * l) data }
        let s := if o.op = 1 then s.updGlk fun g => { g with held := l :: g.held.filter (· != l) }
          else if o.snooped then s.updGlk fun g => { g with once := l :: g.once.filter (· != l) }
          else s.fillLine l
        let s := ((s.glkSettle tag).mergesGo).strike phys
        if o.op = 0 then s.each allParts State.fetchGoesOn else if o.owner = .security .token then s.tokenCheck else s

/-- GLK_DATA (R399). -/
def execGlkData (tag : Nat) (data : List Byte) (phys : ReadUpset) (h : GlkHead) (s : State) : Host.Outcome State Fault Refusal :=
  .next (glkData tag data phys h s)

/-- A RESYNC request goes on once its writes are acknowledged: its last line goes out; then it is over, and a ring's request is ready to
complete (R106, R107). -/
def State.resyncGoes (s : State) : State :=
  match s.resyncNow with
  | none => s
  | some x =>
    if s.glk.acksDue (s.resyncOwner x.req) then s
    else
      match x.last with
      | some l => { s with resyncNow := some { x with last := none } }.store (x.req.dest + 0xF80) l (s.resyncOwner x.req)
      | none =>
        let s := { s with resyncNow := none }.fset HUB_RESYNC_STAT_SEQ_LO x.seq
        match x.req.by_ with
        | some (o, id) => s.ranDesc o id true 0
        | none => s

/-- WR_ACK: a write is complete, and what waits for it goes: interrupts, merges, stream data, collectives (R132, R381, R404, R406). -/
def wrAck (tag : Nat) (h : GlkHead) (s : State) : State :=
  s.glkIn h 1 (headFits h 0) fun s =>
    let s := s.glkFree 2
    match s.glk.request tag with
    | some o =>
      if o.isWrite then
        let s := s.updGlk fun g => { g with irqs := g.irqs.map fun w => if w.tag = some tag then { w with tag := none } else w }
        (s.glkSettle tag).flushIrqs.mergesGo.resyncGoes.landsGo.collsGo
      else s
    | none => s

/-- WR_ACK (R406). -/
def execWrAck (tag : Nat) (h : GlkHead) (s : State) : Host.Outcome State Fault Refusal := .next (wrAck tag h s)

/-- The partition for which a request was made. -/
def Owner.part : Owner → Option Nat
  | .fetch p | .snap p | .walk p _ | .desc p _ | .entry p _ | .ctx p | .land p _ _ _ _ => some p
  | _ => none

/-- GLK_ERR_LOG takes the first failure (R411). -/
def State.logGlk (s : State) (o : Outst) (kind reason : Nat) : State :=
  if s.flag GLK_ERR_LOG_VALID then s
  else s.fsets [(GLK_ERR_LOG_VALID, 1), (GLK_ERR_LOG_KIND, kind), (GLK_ERR_LOG_REASON, reason), (GLK_ERR_LOG_PART, (o.owner.part).getD 0),
    (GLK_ERR_LOG_NOPART, b2n (o.owner.part).isNone), (GLK_ERR_LOG_PA, o.pa)]

/-- The partition of a failed access raises its fault, from the descriptor concerned when that is in flight (R96, R411); one that may not
fault only leaves the record. -/
def State.raiseGlk (s : State) (p : Nat) (owner : Owner) (c : Code) (w : Cause) : State :=
  if !s.mayFault p c && s.pstate p != 5 then
    s.record { code := c.num, unit := w.unit, part := some p, log := w.log, addr := w.addr }
  else if s.pstate p = 5 then s.raise p c w
  else
    match owner with
    | .desc q id =>
      match s.originOf q id with
      | some o =>
        match s.desc? o id with
        | some d => s.descFault o d c w
        | none => s.raise p c w
      | none => s.raise p c w
    | .walk _ (.ring n) => if s.canFetch n then s.rejectEntry n (s.loadNat (s.entryAt n) 128) c w else s.raise p c w
    | .walk _ (.slot r k) =>
      match (s.slot r k).cq, (s.coreQ r k 10).pop with
      | (id, raw) :: _, some (x, _) => (s.setCoreQ r k 10 x).rejectLaunch r k id raw c w
      | _, _ => s.raise p c w
    | _ => s.raise p c w

/-- A request fails (R411): it is logged and recorded, nothing is written with its data, and its partition faults. -/
def State.glkFail (s : State) (o : Outst) (c : Code) (kind reason : Nat) : State :=
  let s := (s.logGlk o kind reason).updGlk fun g => { g with irqs := g.irqs.filter fun w => w.tag != some o.tag }
  let w : Cause := { unit := unitGlk, log := s.glkLog, addr := glkBase + o.pa }
  let s := s.endAccess o.owner
  let s := match o.owner.part with
    | some p => s.raiseGlk p o.owner c w
    | none => s.record { code := c.num, unit := w.unit, log := w.log, addr := w.addr }
  (s.glkSettle o.tag).flushIrqs

/-- GLK_ERR: a request is refused with a reason of R410; any other reason shows a peer that does not conform (R398, R411). -/
def glkErr (tag reason : Nat) (h : GlkHead) (s : State) : State :=
  s.glkIn h 1 (headFits h 0 && decide (8 ≤ reason) && decide (reason ≤ 10)) fun s =>
    let s := s.glkFree 2
    match s.glk.request tag with
    | some o => s.glkFail o .glkRefused 0 reason
    | none => s

/-- GLK_ERR (R411). -/
def execGlkErr (tag reason : Nat) (h : GlkHead) (s : State) : Host.Outcome State Fault Refusal := .next (glkErr tag reason h s)

/-- GLK_TIMEOUT: no answer has come within TIMEOUT_US (R411). -/
def glkTimeout (tag : Nat) (s : State) : State :=
  match s.glk.request tag with
  | some o => s.glkFail o .glkTimeout 1 0
  | none => s

/-- GLK_TIMEOUT (R411). -/
def execGlkTimeout (tag : Nat) (s : State) : Host.Outcome State Fault Refusal := .next (glkTimeout tag s)

/-- A doorbell message rings (R83, R407), unless the hub is device-fatal (R409). -/
def State.takeDoorbell (s : State) (n value : Nat) : State :=
  let s := s.glkFree 4
  if s.fatal then s else doorbell n value s

/-- Does a companion write before it wait for a handover, so that a doorbell must wait (R40, R406)? -/
def Glk.writeWaits (g : Glk) : Bool := g.parked.any fun x => x.data.isSome

/-- DBELL: a doorbell message rings, after the snoops and writes sent before it (R406, R407). -/
def dbell (n : Fin 256) (value : Nat) (h : GlkHead) (s : State) : State :=
  s.glkIn h (slotsOf 8) (headFits h 8) fun s =>
    if s.glk.behindSnoop || s.glk.writeWaits then s.keepLate (.db n value) else s.takeDoorbell n value

/-- DBELL (R407). -/
def execDbell (n : Fin 256) (value : Nat) (h : GlkHead) (s : State) : Host.Outcome State Fault Refusal := .next (dbell n value h s)

end Sys2Proof.Machine
end

