-- ==== Sys2Proof/Machine/Security.lean ====
section
/-! DEFINITION. The Nutcracker at work: signed objects (R464 to R468), the state block (R469 to R472), presentations (R478), attestation (R481 to
R483), installation of images (R475), self-checks (R473). -/
namespace Sys2Proof.Machine

/-! ## Signed objects -/

/-- The largest body of an object by TYPE (R464). -/
def bodyLimit (type : Nat) : Nat :=
  match type with
  | 1 => 8 * 2 ^ 20
  | 2 => 64 * 2 ^ 10
  | 3 => 4 * 2 ^ 20
  | _ => 2 * 2 ^ 20

/-- The length of the header (R465). -/
def headLen : Nat := 0x1600

/-- LEN of an object. -/
def objBody (o : List Byte) : Nat := numAt o 0xC 4

/-- SVN of an object. -/
def objSvn (o : List Byte) : Nat := numAt o 8 2

/-- The digest D of an object, its measurement (R466). -/
def objDigest (o : List Byte) : Nat := Config.sha384 (o.take 0x50)

/-- Step 1 of R466 on the header: the reason of a failure. -/
def headReason (o : List Byte) (type : Nat) : Option Nat :=
  if numAt o 0 4 ≠ 0x4749534F ∨ numAt o 5 1 ≠ 1 then some 1
  else if numAt o 4 1 ≠ type then some 2
  else if bodyLimit type < objBody o then some 1
  else if numAt o 6 1 ≠ 0xA1 then some 8
  else none

/-- The verification of a whole object in the order of R466: the reason of the first failure. -/
def objReason (o : List Byte) (type minSvn : Nat) : Option Nat :=
  match headReason o type with
  | some r => some r
  | none =>
    if beNat (sliceOf o 0x20 48) ≠ Config.sha384 (sliceOf o headLen (objBody o)) then some 4
    else if ecdsaOk (objDigest o) (sliceOf o 0x50 96) = false then some 5
    else if hssOk (objDigest o) (sliceOf o 0xB0 5396) = false then some 6
    else if objSvn o < minSvn then some 7
    else none

/-- The field of SEC_SVN that holds the minimum of a TYPE. -/
def svnFld (type : Nat) : Fld :=
  match type with
  | 1 => SEC_SVN_FW
  | 2 => SEC_SVN_PR
  | 3 => SEC_SVN_KAK
  | _ => SEC_SVN_OE

/-! ## The state block -/

/-- The bytes 0x000 to 0xFCF of a state block (R470). -/
def StateBlock.body (b : StateBlock) : List Byte :=
  let car := fun (c : CarPos) => natLe 1 c.nextOut ++ natLe 1 c.twin0 ++ natLe 1 c.twin1 ++ natLe 1 0 ++ natLe 4 c.since ++ natLe 12 0
  let row := fun (x : Nat × Nat × Nat) => natLe 8 (x.1 * 2 ^ 60 + x.2.1 * 2 ^ 54 + x.2.2 % 2 ^ 32)
  let rows := b.spared.flatMap row
  natLe 8 b.seq ++ (b.svnMin.flatMap (natLe 2)) ++ natLe 16 b.hssRes ++ b.carousel.flatMap car ++ b.retired.flatMap (natLe 8) ++
    b.suspect.flatMap (natLe 8) ++ (b.vofs.flatMap fun v => natLe 8 v.1 ++ natLe 8 v.2) ++ natLe 16 0 ++ rows ++ natLe (0xE00 - rows.length) 0 ++ natLe 0xD0 0

/-- The 4 KiB of a state-block slot: the block and its MAC with the state key (R470, R479; log entry 6). -/
def StateBlock.slotBytes (b : StateBlock) : List Byte := b.body ++ natLe 48 (Config.crypto 5 0 b.body)

/-- The four minimum SVNs in effect. -/
def State.svnMins (s : State) : List Nat := [1, 2, 3, 4].map fun t => s.fget (svnFld t)

/-- The state block as it would be written now, with SEQ C + 1 (R470, R471, R477). -/
def State.newBlock (s : State) : StateBlock :=
  { seq := (s.rpmc.counter + 1) % 2 ^ 32
    svnMin := s.svnMins
    hssRes := s.sec.block.hssRes
    carousel := [0, 1, 2, 3].map fun r =>
      ⟨s.fget (RGN_CAROUSEL_NEXT_OUT r), s.fget (RGN_TWIN_IDS_TWIN0 r), s.fget (RGN_TWIN_IDS_TWIN1 r), s.fget (RGN_TWIN_PHASE_SINCE_S r)⟩
    retired := [0, 1, 2, 3].map fun r => s.fget (RGN_TWINS_RETIRED r)
    suspect := [0, 1, 2, 3].map fun r => s.fget (RGN_SUSPECT_SUSPECT r)
    vofs := [0, 1, 2, 3].map fun r => (s.fget (RGN_VOFS0_STEPS r), s.fget (RGN_VOFS1_STEPS r))
    spared := s.fieldRows }

/-- A block with the next SEQ is written, read back and committed (R471). -/
def State.commit (s : State) (b : StateBlock) : State :=
  let c := (s.rpmc.counter + 1) % 2 ^ 32
  let b := { b with seq := c }
  let s := { s with
    rpmc := { s.rpmc with counter := c, slots := mset s.rpmc.slots (c % 64) b }
    sec := { s.sec with block := b } }
  s.fset SEC_STATE_SEQ c

/-- Has the state block been accepted at this start (R473)? -/
def State.blockTaken (s : State) : Bool := !s.sec.resetLow && decide (3 ≤ s.fget SEC_BOOT_STAGE)

/-- The block to write now: before the Carousel of start-up, its positions and cores are those of the accepted block. -/
def State.blockNow (s : State) : StateBlock :=
  if s.fget HUB_START_PHASE < 7 then { s.sec.block with svnMin := s.svnMins, spared := s.fieldRows } else s.newBlock

/-- STATE_BLOCK_WRITE: a new block is committed; or power is lost before the counter moves; or within the write (R471, R472). -/
def stateBlockWrite (how : BlockEnd) (s : State) : State :=
  if s.blockTaken = false then s
  else
    let c := (s.rpmc.counter + 1) % 2 ^ 32
    match how with
    | .committed => s.commit s.blockNow
    | .uncounted => { s with rpmc := { s.rpmc with slots := mset s.rpmc.slots (c % 64) { s.blockNow with seq := c } } }
    | .torn => { s with rpmc := { s.rpmc with slots := merase s.rpmc.slots (c % 64) } }

/-- STATE_BLOCK_WRITE (R471). -/
def execStateBlockWrite (how : BlockEnd) (s : State) : Host.Outcome State Fault Refusal := .next (stateBlockWrite how s)

/-- The minimum SVN of a TYPE rises to that of an accepted object, and the change is committed (R468). -/
def State.raiseSvn (s : State) (type svn : Nat) : State :=
  if s.fget (svnFld type) < svn then
    let s := s.fset (svnFld type) svn
    s.commit s.blockNow
  else s

/-! ## Refusals -/

/-- A refusal is recorded as IMAGE_REFUSED; before the firmware runs it is held (R467, R473). -/
def State.refused (s : State) (type reason : Nat) : State :=
  if s.fget SEC_BOOT_STAGE < 5 then { s with sec := { s.sec with refused := s.sec.refused ++ [(reason, type)] } }
  else s.record { code := 7, note := true, unit := unitFw 1, log := reason, addr := type }

/-- A presentation is refused: SEC_LOAD_STAT, during start-up SEC_BOOT.REASON, and the record (R467, R474, R478). -/
def State.loadRefused (s : State) (reason : Nat) : State :=
  let s := s.fsets [(SEC_LOAD_STAT_STATE, 3), (SEC_LOAD_STAT_REASON, reason), (SEC_LOAD_GO, 0)]
  let s := if s.fget SEC_BOOT_STAGE < 6 then s.fset SEC_BOOT_REASON reason else s
  s.refused s.sec.loadType reason

/-! ## Presentations (R478) -/

/-- Is the presentation one of those refused with reason 13? So is one made once start-up has stopped (log entry 23). -/
def State.notPermitted (s : State) : Bool :=
  let stage := s.fget SEC_BOOT_STAGE
  s.flag SEC_BOOT_STOPPED || match s.sec.loadType with
  | 1 => decide (3 < stage) && !(s.sec.loadInstall && stage == 6)
  | 2 => decide (4 < stage)
  | 4 => s.anyActive
  | _ => false

/-- OBJECT_PRESENT: SEC_LOAD.GO: the Nutcracker begins to read the object with RD_ONCE, or refuses it with reason 13; a GO while BUSY, an
unknown TYPE or an ADDR outside the GlaetLink window is discarded (R16, R478). -/
def objectPresent (s : State) : State :=
  let type := s.fget SEC_LOAD_TYPE
  let a := s.fget SEC_LOAD_ADDR * 4096
  if s.fget SEC_LOAD_STAT_STATE = 1 ∨ type = 0 ∨ 4 < type ∨ a < glkBase ∨ glkEnd ≤ a then s.noteDiscard SEC_LOAD 1
  else
    let s := { s with sec := { s.sec with loadAt := a, loadType := type, loadInstall := s.flag SEC_LOAD_INSTALL } }
    if s.notPermitted then s.loadRefused 13
    else
      let s := (s.fsets [(SEC_LOAD_STAT_STATE, 1), (SEC_LOAD_STAT_REASON, 0), (SEC_LOAD_GO, 1)]).secBegins .load
      s.askStream [(a, headLen)] (.security .load)

/-- OBJECT_PRESENT (R478). -/
def execObjectPresent (s : State) : Host.Outcome State Fault Refusal := .next (objectPresent s)

/-- The state block of a device that has not written one yet holds the twins and retirements of the factory record, and for NEXT_OUT the
lowest-numbered working core of each region (R477). -/
def StateBlock.factory (b : StateBlock) (x : PartRecord) : StateBlock :=
  if b.seq ≠ 0 then b
  else
    { b with
      retired := x.retired
      carousel := b.carousel.zipIdx.map fun (c, r) =>
        let t := x.twins.getD r (0x3F, 0x3F)
        let out := ((List.range 42).find? fun k => !bit (x.retired.getD r 0) k && k != t.1 && k != t.2).getD 0
        { c with nextOut := out, twin0 := t.1, twin1 := t.2 } }

/-- The part record takes effect: NGEN, and what start-up, the power manager and die-to-die training take from it (R6, R452, R461, R462, R476, R489; log entry 87). -/
def State.takePart (s : State) (x : PartRecord) (digest : Nat) : State :=
  let s := s.fset HUB_NUMERICS_NGEN x.ngen
  { s with sec := { s.sec with mPr := digest, part := x, block := s.sec.block.factory x } }

/-- Engine firmware is loaded into the four engines, but for isolated ones; their ports retrain from OFF (R366, R478). -/
def State.loadEngines (s : State) (digest : Nat) : State :=
  let s := { s with sec := { s.sec with mOe := s.sec.mOe.zipIdx.map fun (x : Nat × Nat) => if s.fget (FAB_OE_STATE x.2) = 3 then x.1 else digest } }
  let s := s.each ([0, 1, 2, 3] : List (Fin 4)) fun s e =>
    if s.fget (FAB_OE_STATE e) = 3 then s
    else (if s.fget (FAB_OE_STATE e) = 4 then s else s.fset (FAB_OE_STATE e) 2).resetEndpoint (.opticalEngine e)
  s.each (List.range 18) fun s p =>
    if s.flag (FAB_PORT_CFG_ENABLE p) then
      fabPortCfg p (1 + s.fget (FAB_PORT_CFG_ROLE p) * 16 + s.fget (FAB_PORT_CFG_BEAT p) * 256 + s.fget (FAB_PORT_CFG_PARTS p) * 65536) s
    else s

/-- An accepted firmware image (R474, R475): the boot image of stage 3, installed when INSTALL is 1; or an update. -/
def State.takeImage (s : State) (obj : List Byte) : State :=
  let install := fun (s : State) => { s with sec := { s.sec with install := some obj } }
  if s.fget SEC_BOOT_STAGE = 6 then install s
  else
    let s := s.raiseSvn 1 (objSvn obj)
    let s := { s with sec := { s.sec with mFw := objDigest obj } }
    let s := if s.sec.loadInstall then install s else s
    if s.fget SEC_BOOT_STAGE = 3 then s.fsets [(SEC_BOOT_STAGE, 4), (SEC_BOOT_WAIT, 0)] else s

/-- An accepted object takes effect (R468, R476, R478). -/
def State.takeObject (s : State) (type : Nat) (obj : List Byte) (part : PartRecord) (kak : Bundle) : State :=
  match type with
  | 1 => s.takeImage obj
  | 2 =>
    let s := (s.raiseSvn 2 (objSvn obj)).takePart part (objDigest obj)
    if s.fget SEC_BOOT_STAGE = 4 then s.fsets [(SEC_BOOT_STAGE, 5), (SEC_BOOT_WAIT, 0)] else s
  | 3 =>
    let s := s.raiseSvn 3 (objSvn obj)
    { s with sec := { s.sec with mKak := objDigest obj, kernels := kak.kernels } }
  | _ =>
    let s := s.raiseSvn 4 (objSvn obj)
    s.loadEngines (objDigest obj)

/-- PRESENTATION_END: the object has been read and verified (R466): it is accepted with its effect, or refused. A part record bound to another
device stops start-up (R476); a bundle whose declared suite time exceeds 120 s is refused with a reason that the manual does not give (R307).
It waits for the companion's answers, and for the minimum SVNs of the state block (R468, R473). -/
def presentationEnd (part : PartRecord) (kak : Bundle) (s : State) : State :=
  let a := s.sec.loadAt
  let type := s.sec.loadType
  if s.fget SEC_LOAD_STAT_STATE ≠ 1 ∨ s.fget SEC_BOOT_STAGE < 3 then s
  else if s.secFails .load then (s.loadRefused 10).dropStream [(a, headLen + bodyLimit type)]
  else if s.streamReady [(a, headLen)] = false then s.askStream [(a, headLen)] (.security .load)
  else
    match headReason (s.load a headLen) type with
    | some r => (s.loadRefused r).dropStream [(a, headLen)]
    | none =>
      let r := (a, headLen + objBody (s.load a headLen))
      if glkEnd < a + r.2 then (s.loadRefused 10).dropStream [(a, headLen)]
      else if s.streamReady [r] = false then s.askStream [r] (.security .load)
      else
        let obj := s.load a r.2
        let s := s.dropStream [r]
        match objReason obj type (s.fget (svnFld type)) with
        | some c => s.loadRefused c
        | none =>
          if type = 2 ∧ part.deviceId ≠ Config.deviceId then (s.loadRefused 9).fset SEC_BOOT_STOPPED 1
          else if type = 3 ∧ 120 < kak.seconds then (s.loadRefused (s.free.toNat % 256)).tick
          else (s.fsets [(SEC_LOAD_STAT_STATE, 2), (SEC_LOAD_STAT_REASON, 0), (SEC_LOAD_GO, 0)]).takeObject type obj part kak

/-- PRESENTATION_END (R466). -/
def execPresentationEnd (part : PartRecord) (kak : Bundle) (s : State) : Host.Outcome State Fault Refusal :=
  .next (presentationEnd part kak s)

/-- IMAGE_INSTALL: after stage 6, the running firmware writes an accepted image into the boot flash (R475). -/
def imageInstall (s : State) : State :=
  match s.sec.install with
  | some obj =>
    if s.fget SEC_BOOT_STAGE = 6 then { s with flash := { s.flash with image := some obj }, sec := { s.sec with install := none } } else s
  | none => s

/-- IMAGE_INSTALL (R475). -/
def execImageInstall (s : State) : Host.Outcome State Fault Refusal := .next (imageInstall s)

/-- SELF_CHECK: after stage 6, a failed check of the Nutcracker or of the management core raises SEC_FAULT (R473). -/
def selfCheck (ok : Bool) (s : State) : State :=
  if s.sec.resetLow ∨ s.fget SEC_BOOT_STAGE ≠ 6 ∨ ok then s else s.deviceFatal .secFault { unit := unitFw 1 }

/-- SELF_CHECK (R473). -/
def execSelfCheck (ok : Bool) (s : State) : Host.Outcome State Fault Refusal := .next (selfCheck ok s)

/-! ## Attestation (R481 to R483) -/

/-- HSS indices: 2^20. -/
def hssMax : Nat := 2 ^ 20

/-- A request is refused: the area stays as it is (R481, R482). -/
def State.attRefused (s : State) (reason : Nat) : State := s.fsets [(SEC_ATT_STAT_STATE, 4), (SEC_ATT_STAT_REASON, reason), (SEC_ATT_GO, 0)]

/-- A GO that is discarded: one while a request is pending, or an ADDR outside the GlaetLink window (R16). -/
def State.attBad (s : State) (len : Nat) : Bool :=
  s.flag SEC_ATT_GO || decide (s.fget SEC_ATT_ADDR * 4096 < glkBase) || decide (glkEnd < s.fget SEC_ATT_ADDR * 4096 + len)

/-- A request begins for the area that SEC_ATT.ADDR names now. -/
def State.attBegins (s : State) : State :=
  let s := (s.fset SEC_ATT_GO 1).secBegins .attest
  { s with sec := { s.sec with attAt := s.fget SEC_ATT_ADDR * 4096 } }

/-- ATTESTATION_REPORT: SEC_ATT.GO with KIND 0: the nonce is read, and the request waits to sign (R482); with no HSS index left it is refused
(R481). -/
def attestationReport (s : State) : State :=
  if s.attBad 0x2000 then s.noteDiscard SEC_ATT 1
  else if hssMax ≤ s.fget SEC_ATT_STAT_HSS_NEXT then s.attRefused 14
  else
    let s := s.attBegins.fset SEC_ATT_STAT_STATE 1
    s.askStream [(s.sec.attAt + 0x10, 32)] (.security .attest)

/-- ATTESTATION_REPORT (R482). -/
def execAttestationReport (s : State) : Host.Outcome State Fault Refusal := .next (attestationReport s)

/-- The next HSS index is taken; the first of a block reserves it (R481). -/
def State.takeHss (s : State) : State :=
  let q := s.fget SEC_ATT_STAT_HSS_NEXT
  let s := if 64 * s.sec.block.hssRes ≤ q then s.commit { s.blockNow with hssRes := s.sec.block.hssRes + 1 } else s
  s.fset SEC_ATT_STAT_HSS_NEXT (q + 1)

/-- A 48-byte digest, big-endian as FIPS 180 prints it. -/
def digestBytes (d : Nat) : List Byte := (natLe 48 d).reverse

/-- Bytes 0x000 to 0x1FF of a report with index `q` (R483). -/
def State.reportHead (s : State) (q : Nat) (nonce : List Byte) : List Byte :=
  let flags := s.fget JIB_STAT_UNLOCKED + b2n (s.sec.mKak != 0) * 2 + s.fget SEC_BOOT_SOURCE * 4 + b2n s.sec.item1 * 8
  let oe := fun (e : Nat) => if s.fget (FAB_OE_STATE e) = 0 ∨ s.fget (FAB_OE_STATE e) = 1 then 0 else s.sec.mOe.getD e 0
  natLe 4 0x54414B58 ++ natLe 2 1 ++ natLe 1 flags ++ natLe 1 0xA1 ++ natLe 1 (s.fget HUB_NUMERICS_NGEN) ++ natLe 1 (s.fget HUB_NUMERICS_EBOUND) ++
    natLe 2 s.layout ++ natLe 4 s.node ++ nonce ++ natLe 8 (s.fget EVR_OPSEC_SECONDS) ++ natLe 8 (s.fget EVR_PWRCYC_COUNT) ++ natLe 8 s.sec.attSeq ++
    natLe 4 q ++ natLe 4 (s.fget SEC_STATE_SEQ) ++ (s.svnMins.flatMap (natLe 2)) ++ natLe 8 0 ++ digestBytes Config.deviceId ++
    digestBytes s.sec.mFw ++ digestBytes s.sec.mPr ++ digestBytes s.sec.mKak ++ ([0, 1, 2, 3].flatMap fun e => digestBytes (oe e)) ++ natLe 32 0

/-- The whole area of a report: both signatures over the digest of its head, zeros, and DONE (R483). -/
def State.reportArea (s : State) (q : Nat) (nonce : List Byte) : List Byte :=
  let head := s.reportHead q nonce
  let d := Config.sha384 head
  head ++ natLe 96 (Config.crypto 3 d []) ++ natLe 5076 (Config.crypto 4 d (natLe 4 q)) ++ natLe (0x1FF8 - 0x1634) 0 ++ natLe 8 s.sec.attSeq

/-- The area is written, its last line after the others (R482). -/
def State.areaBegins (s : State) (area : List Byte) : State :=
  let s := { s with sec := { s.sec with area := area, areaSent := 1 } }.fset SEC_ATT_STAT_STATE 2
  s.store s.sec.attAt (area.take (area.length - 128)) (.security .attest)

/-- Has the last report begun at least 60 s ago (R482)? -/
def State.attMayBegin (s : State) : Bool :=
  match s.sec.attBegan with
  | some t => decide (t + 60 ≤ s.fget EVR_OPSEC_SECONDS)
  | none => true

/-- REPORT_SIGNING: a waiting report, its nonce read, begins once 60 s have passed since the last one: its fields are latched, its index is
taken, and its area is written (R481 to R483). A nonce that cannot be read refuses it. -/
def reportSigning (s : State) : State :=
  let nonce := (s.sec.attAt + 0x10, 32)
  if s.fget SEC_ATT_STAT_STATE ≠ 1 then s
  else if s.secFails .attest then (s.attRefused 10).dropStream [nonce]
  else if s.attMayBegin = false ∨ s.streamReady [nonce] = false then s
  else
    let q := s.fget SEC_ATT_STAT_HSS_NEXT
    let bytes := s.load nonce.1 32
    let s := (s.dropStream [nonce]).takeHss
    let s := { s with sec := { s.sec with attBegan := some (s.fget EVR_OPSEC_SECONDS), attSeq := s.sec.attSeq + 1 } }
    s.areaBegins (s.reportArea q bytes)

/-- REPORT_SIGNING (R482). -/
def execReportSigning (s : State) : Host.Outcome State Fault Refusal := .next (reportSigning s)

/-- CERTIFICATES: SEC_ATT.GO with KIND 1: the 16 KiB area takes the length and the certificates (R482). -/
def certificates (s : State) : State :=
  if s.attBad 0x4000 then s.noteDiscard SEC_ATT 3
  else
    let c := s.rpmc.certs.take (0x4000 - 8)
    s.attBegins.areaBegins (natLe 8 c.length ++ c ++ natLe (0x4000 - 8 - c.length) 0)

/-- CERTIFICATES (R482). -/
def execCertificates (s : State) : Host.Outcome State Fault Refusal := .next (certificates s)

/-- REPORT_COMPLETE: the writes of an area are acknowledged: its last line goes out; then the area is complete and GO clears (R482, R483). A
write that fails refuses the request. -/
def reportComplete (s : State) : State :=
  if s.fget SEC_ATT_STAT_STATE ≠ 2 then s
  else if s.secFails .attest then s.attRefused 10
  else if s.glk.acksDue (.security .attest) then s
  else if s.sec.areaSent = 1 then
    let n := s.sec.area.length - 128
    { s with sec := { s.sec with areaSent := 2 } }.store (s.sec.attAt + n) (s.sec.area.drop n) (.security .attest)
  else { s with sec := { s.sec with area := [], areaSent := 0 } }.fsets [(SEC_ATT_STAT_STATE, 3), (SEC_ATT_GO, 0)]

/-- REPORT_COMPLETE (R483). -/
def execReportComplete (s : State) : Host.Outcome State Fault Refusal := .next (reportComplete s)

end Sys2Proof.Machine
end

