-- ==== Sys2Proof/Machine/Boot.lean ====
section
/-! DEFINITION. Reset (R487), the boot stages (R472 to R476) and the start-up phases (R488 to R490). -/
namespace Sys2Proof.Machine

/-! ## Reset and the ROM -/

/-- RESET: everything goes to its reset value. The two flashes, what memory holds, the companion's side and the model's own counters stay; a warm
reset keeps HUB_START_CFG, HUB_LAYOUT.NEXT, a low THERMTRIP_N and the test port (R34, R460, R487). -/
def reset (warm : Bool) (s : State) : State :=
  let t := { State.reset with
    flash := s.flash, rpmc := s.rpmc, mem := s.mem, damage := s.damage, freeCtr := s.freeCtr, out := s.out, pending := s.pending
    tap := if warm then s.tap else .reset
    sec := { Sec.reset with cold := !warm }
    power := { Power.reset with trip := warm && s.power.trip } }
  if warm then t.fsets [(HUB_START_CFG_FIT, s.fget HUB_START_CFG_FIT), (HUB_LAYOUT_NEXT, s.fget HUB_LAYOUT_NEXT)] else t

/-- RESET (R487). -/
def execReset (warm : Bool) (s : State) : Host.Outcome State Fault Refusal := .next (reset warm s)

/-- The boot source is the companion: the ROM trains GlaetLink (R395, R474). -/
def State.bootCompanion (s : State) : State :=
  let s := s.fset SEC_BOOT_SOURCE 1
  if s.fget GLK_STAT_STATE = 0 then s.glkTrain else s

/-- START_UP: RESET_N rises; phase 0 begins, from the companion when the directory names it or cannot be read (R474, R488). -/
def startUp (s : State) : State :=
  if s.sec.resetLow = false then s
  else
    let s := { s with sec := { s.sec with resetLow := false } }
    if s.flash.companion || !s.flash.directory then s.bootCompanion else s

/-- START_UP (R488). -/
def execStartUp (s : State) : Host.Outcome State Fault Refusal := .next (startUp s)

/-- A stage fails: start-up stops there (R473). -/
def State.bootStop (s : State) (reason : Nat) : State := s.fsets [(SEC_BOOT_STOPPED, 1), (SEC_BOOT_REASON, reason)]

/-- The state block that R472 accepts, and whether its first item gave it. -/
def Rpmc.accepted (m : Rpmc) : Option (StateBlock × Bool) :=
  let next := (m.counter + 1) % 2 ^ 32
  match mget? m.slots (next % 64), mget? m.slots (m.counter % 64) with
  | some b, old => if b.seq = next then some (b, true) else
    match old with
    | some c => if c.seq = m.counter then some (c, false) else none
    | none => none
  | none, some c => if c.seq = m.counter then some (c, false) else none
  | none, none => none

/-- Stage 2: the state block is accepted, and what it holds for the Nutcracker takes effect; or start-up stops with reason 11 (R472, R481). -/
def State.stateStage (s : State) (ok : Bool) : State :=
  match s.rpmc.accepted with
  | some (b, item1) =>
    if ok then
      let s := { s with
        rpmc := if item1 then { s.rpmc with counter := b.seq } else s.rpmc
        sec := { s.sec with block := b, item1 := item1 }
        fieldRows := b.spared }
      let s := s.each ([1, 2, 3, 4].zip b.svnMin) fun s x => s.fset (svnFld x.1) x.2
      s.fsets [(SEC_ATT_STAT_HSS_NEXT, 64 * b.hssRes), (SEC_STATE_SEQ, b.seq), (SEC_BOOT_STAGE, 3)]
    else s.bootStop 11
  | none => s.bootStop 11

/-- Stage 3: the image in the flash is verified; one that is refused or absent makes the companion the boot source (R474). -/
def State.imageStage (s : State) (ok : Bool) : State :=
  let toCompanion := fun (s : State) (reason : Nat) => ((s.refused 1 reason).fsets [(SEC_BOOT_REASON, reason), (SEC_BOOT_WAIT, 1)]).bootCompanion
  if s.sec.mFw ≠ 0 then s.fsets [(SEC_BOOT_STAGE, 4), (SEC_BOOT_WAIT, 0)]
  else if s.fget SEC_BOOT_SOURCE = 1 then s.fset SEC_BOOT_WAIT 1
  else
    match s.flash.image with
    | some obj =>
      if ok = false then toCompanion s 15
      else
        match objReason obj 1 (s.fget SEC_SVN_FW) with
        | some r => toCompanion s r
        | none =>
          let s := s.raiseSvn 1 (objSvn obj)
          { s with sec := { s.sec with mFw := objDigest obj } }.fset SEC_BOOT_STAGE 4
    | none => toCompanion s 15

/-- Stage 4: the part record is verified, or waited for (R474, R476). -/
def State.partStage (s : State) (x : StageEnd) : State :=
  let stop := fun (s : State) (reason : Nat) => (s.refused 2 reason).bootStop reason
  if s.sec.mPr ≠ 0 then s.fsets [(SEC_BOOT_STAGE, 5), (SEC_BOOT_WAIT, 0)]
  else if s.fget SEC_BOOT_SOURCE = 1 then s.fset SEC_BOOT_WAIT 1
  else
    match s.flash.partRec with
    | some obj =>
      if x.ok = false then stop s 15
      else
        match objReason obj 2 (s.fget SEC_SVN_PR) with
        | some r => stop s r
        | none =>
          if x.part.deviceId ≠ Config.deviceId then stop s 9
          else ((s.raiseSvn 2 (objSvn obj)).takePart x.part (objDigest obj)).fset SEC_BOOT_STAGE 5
    | none => stop s 15

/-- The mirrored records that a start-up restores: from index 0 on, as long as they carry the header's epoch (R440). -/
def restoredRecs (m : List (Nat × Rec)) (epoch : Nat) : Nat → Nat → List Rec
  | 0, _ => []
  | fuel + 1, i =>
    match mget? m i with
    | some x => if x.epoch = epoch then x :: restoredRecs m epoch fuel (i + 1) else []
    | none => []

/-- Music Box is restored from its mirror; without a valid header, nothing is, and the record area is erased behind a new header (R440,
R498). -/
def State.restoreEvr (s : State) : State :=
  match headerEpoch s.flash.header with
  | some e =>
    let l := restoredRecs s.flash.recs e evrDepth 0
    { s with recs := l }.fsets [(EVR_STAT_EPOCH, e), (EVR_STAT_DROPPED, 0), (EVR_MIRROR_MIRRORED, l.length)]
  | none =>
    { s with recs := [], flash := { s.flash with header := mirrorHeader 0, recs := [] }, sec := { s.sec with erasing := true } }.fsets
      [(EVR_STAT_EPOCH, 0), (EVR_STAT_DROPPED, 0), (EVR_MIRROR_MIRRORED, 0)]

/-- A record made before the recorder was restored follows POWER_UP (R436). -/
def State.reRecord (s : State) (x : Rec) : State :=
  if s.evrFull then s.fadd EVR_STAT_DROPPED 1
  else { s with recs := s.recs ++ [{ x with opSec := s.fget EVR_OPSEC_SECONDS, pwr := s.fget EVR_PWRCYC_COUNT, epoch := s.fget EVR_STAT_EPOCH }] }

/-- The bundle in the flash is verified; a refused one leaves none (R307, R478). -/
def State.bootBundle (s : State) (kak : Bundle) : State :=
  match s.flash.bundle with
  | none => s
  | some obj =>
    match objReason obj 3 (s.fget SEC_SVN_KAK) with
    | some r => s.refused 3 r
    | none =>
      if 120 < kak.seconds then (s.refused 3 (s.free.toNat % 256)).tick
      else
        let s := s.raiseSvn 3 (objSvn obj)
        { s with sec := { s.sec with mKak := objDigest obj, kernels := kak.kernels } }

/-- The engine firmware in the flash is verified; refused firmware leaves the engines unpowered (R367, R478). -/
def State.bootEngines (s : State) : State :=
  match s.flash.engine with
  | none => s
  | some obj =>
    match objReason obj 4 (s.fget SEC_SVN_OE) with
    | some r => (s.refused 4 r).fsets ([0, 1, 2, 3].map fun e => (FAB_OE_STATE e, 1))
    | none =>
      let s := s.raiseSvn 4 (objSvn obj)
      { s with sec := { s.sec with mOe := List.replicate 4 (objDigest obj) } }.fsets ([0, 1, 2, 3].map fun e => (FAB_OE_STATE e, 2))

/-- Stage 5: Music Box, operating seconds and power cycles are restored, POWER_UP is written first, then what was held; the bundle and the engine
firmware are verified; after a power-up the layout setting is loaded. Start-up is handed on (R34, R439, R440, R473). -/
def State.firmwareStage (s : State) (x : StageEnd) : State :=
  let early := s.recs
  let op := match s.flash.opSec with
    | some n => min (n + 60) (2 ^ 40 - 1)
    | none => 0
  let pwr := min (s.flash.pwrCyc + 1) (2 ^ 32 - 1)
  let s := { s.restoreEvr with flash := { s.restoreEvr.flash with pwrCyc := pwr } }.fsets [(EVR_OPSEC_SECONDS, op), (EVR_PWRCYC_COUNT, pwr), (SEC_BOOT_STAGE, 5)]
  let s := s.noteHub 0xE 0 0
  let s := s.each early State.reRecord
  let held := s.sec.refused
  let s := s.each held fun s e => s.refused e.2 e.1
  let s := ({ s with sec := { s.sec with refused := [] } }.bootBundle x.kak).bootEngines
  let s := if s.sec.cold then s.fset HUB_LAYOUT_NEXT (s.flash.layout.getD 0) else s
  s.fsets [(SEC_BOOT_STAGE, 6), (HUB_START_PHASE, 1)]

/-- BOOT_STAGE_END: the work of the stage in progress ends: the next stage begins, or start-up stops or waits (R473). A failed ROM test is
device-fatal; no reason of R467 names it, so REASON is free (log entry 23). -/
def bootStageEnd (x : StageEnd) (s : State) : State :=
  if s.sec.resetLow ∨ s.flag SEC_BOOT_STOPPED then s
  else
    match s.fget SEC_BOOT_STAGE with
    | 0 => if x.ok then s.fset SEC_BOOT_STAGE 1 else ((s.bootStop (s.free.toNat % 256)).tick).deviceFatal .secFault { unit := unitFw 1 }
    | 1 => if x.ok then (s.fset SEC_BOOT_STAGE 2).drawChal else s.bootStop 12
    | 2 => s.stateStage x.ok
    | 3 => s.imageStage x.ok
    | 4 => s.partStage x
    | 5 => s.firmwareStage x
    | _ => s

/-- BOOT_STAGE_END (R473). -/
def execBootStageEnd (x : StageEnd) (s : State) : Host.Outcome State Fault Refusal := .next (bootStageEnd x s)

/-! ## The phases -/

/-- The fields of the accepted block for region `r` (R313, R477): its retirements, suspicions, offsets and Carousel position. -/
def State.loadRegion (s : State) (r : Nat) : State :=
  let b := s.sec.block
  let c := b.carousel.getD r ⟨0, 0x3F, 0x3F, 0⟩
  s.fsets [(RGN_TWINS_RETIRED r, b.retired.getD r 0), (RGN_SUSPECT_SUSPECT r, b.suspect.getD r 0), (RGN_VOFS0_STEPS r, (b.vofs.getD r (0, 0)).1),
    (RGN_VOFS1_STEPS r, (b.vofs.getD r (0, 0)).2), (RGN_CAROUSEL_NEXT_OUT r, c.nextOut), (RGN_TWIN_IDS_TWIN0 r, c.twin0), (RGN_TWIN_IDS_TWIN1 r, c.twin1),
    (RGN_TWIN_PHASE_SINCE_S r, c.since)]

/-- Phase 1: the set-points of the adjustable rails (R452). -/
def State.clocksPhase (s : State) : State := 
  (s.each [0, 1, 2, 3] fun s r => s.setRail r ((s.loadRegion r).railTarget r)).setRail 20 s.power.hubWant

/-- Phase 2: training applies the part record's lane remap, which `Sec.part` holds; modules that fail it have failed persistently; the layout
takes effect (R6, R34, R489). -/
def State.d2dPhase (s : State) (x : PhaseEnd) : State := (s.fset HUB_LAYOUT_CURRENT (s.fget HUB_LAYOUT_NEXT)).each x.failed State.persist

/-- Phase 3: the field interconnect test (R490). -/
def State.fitPhase (s : State) (x : PhaseEnd) : State :=
  (s.fsets [(HUB_FIT_STAT_RAN, 1), (HUB_FIT_STAT_REPAIRED, x.repaired), (HUB_FIT_STAT_FAILED, x.failed.length)]).each x.failed State.persist

/-- Phase 4: recorded rows are repaired for good (R333), the stacks are trained and zeroed; one that fails puts its region out of service (R325, R326). The stacks of an isolated die cannot
be reached. -/
def State.hbmPhase (s : State) (x : PhaseEnd) : State :=
  let s := { s with mem := s.mem.zeroRange 0 dramEnd, hardRows := s.fieldRows }.goodOver 0 dramEnd
  s.each (List.range 12) fun s m =>
    if s.isolated (m / 3) then s
    else if x.badStacks.any fun b => b.val == m then
      (s.setDie (m / 3) 3).record { code := 4, note := true, unit := unitStack m }
    else s.fsetBit (MEM_STAT_UP (m / 3)) (m % 3) true

/-- Phase 5: the stores, region buffers and control-core memories are zeroed; every level is 64. -/
def State.regionsPhase (s : State) : State :=
  let s := { s with mem := s.mem.zeroRange sramBase (4 * 0x40000000) }
  s.each [0, 1, 2, 3] fun s r => (s.fset (levelFld r) 64).fset (limitFld r) 0

/-- The cores that hold the slots of region `r`: those neither retired nor named twins, then the twins, the older first, while they are fewer
than 40 (R30). -/
def State.holders (s : State) (r : Nat) : List Nat :=
  let twins := [s.fget (RGN_TWIN_IDS_TWIN0 r), s.fget (RGN_TWIN_IDS_TWIN1 r)].filter fun c => c != 0x3F && !s.isRetired r c
  (((List.range 42).filter fun c => !s.isRetired r c && !twins.contains c) ++ twins).take 40

/-- The slot map, the twins and the pointer of a region (R30, R31, R311): a twin that holds a slot, or is retired, is no twin; the twins run their
suites; with fewer than 40 cores the region is out of service. -/
def State.startRegion (s : State) (r : Nat) : State :=
  let s := s.loadRegion r
  let held := s.holders r
  let twins := ([s.fget (RGN_TWIN_IDS_TWIN0 r), s.fget (RGN_TWIN_IDS_TWIN1 r)].filter fun c => c != 0x3F && !s.isRetired r c && !held.contains c)
  let s := s.each held.zipIdx fun s x => s.fset (slotMapFld r x.2) x.1
  let s := s.fsets [(RGN_TWIN_IDS_TWIN0 r, twins.getD 0 0x3F), (RGN_TWIN_IDS_TWIN1 r, twins.getD 1 0x3F),
    (RGN_TWIN_PHASE_TWIN0_PHASE r, b2n (decide (0 < twins.length))), (RGN_TWIN_PHASE_TWIN1_PHASE r, b2n (decide (1 < twins.length)))]
  let out := s.fget (RGN_CAROUSEL_NEXT_OUT r)
  let s := if s.isTwin r out || s.isRetired r out then s.fset (RGN_CAROUSEL_NEXT_OUT r) (s.nextWorker r 42 out) else s
  let s := s.each twins fun s c => s.runSuite r c
  let s := if s.usable r < 40 ∧ s.dieState r = 0 then s.setDie r 3 else s
  if s.dieState r = 3 then s.each (List.range 40) fun s k => s.fset (slotMapFld r k) 0x3F else s

/-- Phase 6: the Carousel of every region; without a bundle KAK_ABSENT is recorded (R307, R313, R499). -/
def State.carouselPhase (s : State) : State :=
  let s := if s.sec.mKak = 0 then s.record { code := Code.num .kakAbsent, unit := unitFw 1 } else s
  s.each [0, 1, 2, 3] State.startRegion

/-- READY: the first state of every partition (R488): absent, out of service under R31, R326 or R430, or stopped. -/
def State.ready (s : State) : State :=
  s.each allParts fun s p =>
    s.fset (HUB_PART_CTRL_STATE p) (if partsOf s.layout ≤ p then 0 else if s.regionsOut p || s.persists p then 6 else 1)

/-- The phase that follows. -/
def State.toPhase (s : State) (n : Nat) : State := s.fset HUB_START_PHASE n

/-- PHASE_END: the phase in progress ends (R488). Phase 0 ends with its boot stages; phase 7 once GlaetLink is up; READY ends with the next
reset. -/
def phaseEnd (x : PhaseEnd) (s : State) : State :=
  let s' := s.fset HUB_START_ELAPSED_MS (min x.elapsedMs 0xFFFF)
  match s.fget HUB_START_PHASE with
  | 1 => s'.clocksPhase.toPhase 2
  | 2 => (s'.d2dPhase x).toPhase (if s.flag HUB_START_CFG_FIT then 3 else 4)
  | 3 => (s'.fitPhase x).toPhase 4
  | 4 => (s'.hbmPhase x).toPhase 5
  | 5 => s'.regionsPhase.toPhase 6
  | 6 =>
    let t := s'.carouselPhase.toPhase 7
    if t.fget GLK_STAT_STATE = 0 then t.glkTrain else t
  | 7 => if s.glkUp then s'.ready.toPhase 8 else s
  | _ => s

/-- PHASE_END (R488). -/
def execPhaseEnd (x : PhaseEnd) (s : State) : Host.Outcome State Fault Refusal := .next (phaseEnd x s)

end Sys2Proof.Machine
end

