-- ==== Sys2Proof/Machine/Rv.lean ====
section
/-! DEFINITION. The control core's base instructions: RV64IMAC (R117), with the compressed forms expanded into the words of the
32-bit forms that they stand for. The encodings are those of the RISC-V standard that the manual names (log entry 20). -/
namespace Sys2Proof.Machine

/-! ## Words of the base formats -/

/-- The word of an R-type instruction. -/
def rType (op f3 f7 rd rs1 rs2 : Nat) : Nat := op + rd * 2 ^ 7 + f3 * 2 ^ 12 + rs1 * 2 ^ 15 + rs2 * 2 ^ 20 + f7 * 2 ^ 25
/-- The word of an I-type instruction; `imm` is its 12-bit pattern. -/
def iType (op f3 rd rs1 imm : Nat) : Nat := op + rd * 2 ^ 7 + f3 * 2 ^ 12 + rs1 * 2 ^ 15 + imm % 4096 * 2 ^ 20
/-- The word of an S-type instruction. -/
def sType (op f3 rs1 rs2 imm : Nat) : Nat :=
  op + bits imm 0 5 * 2 ^ 7 + f3 * 2 ^ 12 + rs1 * 2 ^ 15 + rs2 * 2 ^ 20 + bits imm 5 7 * 2 ^ 25
/-- The word of a B-type instruction. -/
def bType (f3 rs1 rs2 imm : Nat) : Nat :=
  0x63 + bits imm 11 1 * 2 ^ 7 + bits imm 1 4 * 2 ^ 8 + f3 * 2 ^ 12 + rs1 * 2 ^ 15 + rs2 * 2 ^ 20 + bits imm 5 6 * 2 ^ 25 +
    bits imm 12 1 * 2 ^ 31
/-- The word of JAL. -/
def jType (rd imm : Nat) : Nat :=
  0x6F + rd * 2 ^ 7 + bits imm 12 8 * 2 ^ 12 + bits imm 11 1 * 2 ^ 20 + bits imm 1 10 * 2 ^ 21 + bits imm 20 1 * 2 ^ 31

/-- The pattern of `w2` bits that sign-extends the `w`-bit pattern `n`. -/
def widen (w w2 n : Nat) : Nat := toTwos w2 (sext w n)

/-! ## Compressed forms -/

/-- Quadrant 0 of the compressed forms. -/
def rvc0 (c : Nat) : Option Nat :=
  let rd := 8 + bits c 2 3
  let rs := 8 + bits c 7 3
  let iw := bits c 10 3 * 8 + bits c 6 1 * 4 + bits c 5 1 * 64
  let id := bits c 10 3 * 8 + bits c 5 2 * 64
  match bits c 13 3 with
  | 0 =>
    let imm := bits c 11 2 * 16 + bits c 7 4 * 64 + bits c 6 1 * 4 + bits c 5 1 * 8
    if imm = 0 then none else some (iType 0x13 0 rd 2 imm)
  | 2 => some (iType 0x03 2 rd rs iw)
  | 3 => some (iType 0x03 3 rd rs id)
  | 6 => some (sType 0x23 2 rs rd iw)
  | 7 => some (sType 0x23 3 rs rd id)
  | _ => none

/-- The arithmetic forms of quadrant 1. -/
def rvc1Arith (c : Nat) : Option Nat :=
  let rd := 8 + bits c 7 3
  let rs := 8 + bits c 2 3
  let imm := bits c 2 5 + bits c 12 1 * 32
  match bits c 10 2 with
  | 0 => some (iType 0x13 5 rd rd imm)
  | 1 => some (iType 0x13 5 rd rd (imm + 0x400))
  | 2 => some (iType 0x13 7 rd rd (widen 6 12 imm))
  | _ =>
    match bits c 12 1 * 4 + bits c 5 2 with
    | 0 => some (rType 0x33 0 0x20 rd rd rs)
    | 1 => some (rType 0x33 4 0 rd rd rs)
    | 2 => some (rType 0x33 6 0 rd rd rs)
    | 3 => some (rType 0x33 7 0 rd rd rs)
    | 4 => some (rType 0x3B 0 0x20 rd rd rs)
    | 5 => some (rType 0x3B 0 0 rd rd rs)
    | _ => none

/-- Quadrant 1 of the compressed forms. -/
def rvc1 (c : Nat) : Option Nat :=
  let rd := bits c 7 5
  let imm := bits c 2 5 + bits c 12 1 * 32
  match bits c 13 3 with
  | 0 => some (iType 0x13 0 rd rd (widen 6 12 imm))
  | 1 => if rd = 0 then none else some (iType 0x1B 0 rd rd (widen 6 12 imm))
  | 2 => some (iType 0x13 0 rd 0 (widen 6 12 imm))
  | 3 =>
    if rd = 2 then
      let i := bits c 12 1 * 512 + bits c 6 1 * 16 + bits c 5 1 * 64 + bits c 3 2 * 128 + bits c 2 1 * 32
      if i = 0 then none else some (iType 0x13 0 2 2 (widen 10 12 i))
    else if imm = 0 then none
    else some (0x37 + rd * 2 ^ 7 + widen 6 20 imm * 2 ^ 12)
  | 4 => rvc1Arith c
  | 5 =>
    let i := bits c 12 1 * 2048 + bits c 11 1 * 16 + bits c 9 2 * 256 + bits c 8 1 * 1024 + bits c 7 1 * 64 + bits c 6 1 * 128 +
      bits c 3 3 * 2 + bits c 2 1 * 32
    some (jType 0 (widen 12 21 i))
  | f =>
    let i := bits c 12 1 * 256 + bits c 10 2 * 8 + bits c 5 2 * 64 + bits c 3 2 * 2 + bits c 2 1 * 32
    some (bType (f - 6) (8 + bits c 7 3) 0 (widen 9 13 i))

/-- Quadrant 2 of the compressed forms. -/
def rvc2 (c : Nat) : Option Nat :=
  let rd := bits c 7 5
  let rs2 := bits c 2 5
  match bits c 13 3 with
  | 0 => some (iType 0x13 1 rd rd (rs2 + bits c 12 1 * 32))
  | 2 => if rd = 0 then none else some (iType 0x03 2 rd 2 (bits c 12 1 * 32 + bits c 4 3 * 4 + bits c 2 2 * 64))
  | 3 => if rd = 0 then none else some (iType 0x03 3 rd 2 (bits c 12 1 * 32 + bits c 5 2 * 8 + bits c 2 3 * 64))
  | 4 =>
    if bits c 12 1 = 0 then
      if rs2 = 0 then (if rd = 0 then none else some (iType 0x67 0 0 rd 0)) else some (rType 0x33 0 0 rd 0 rs2)
    else if rs2 = 0 then (if rd = 0 then some 0x00100073 else some (iType 0x67 0 1 rd 0))
    else some (rType 0x33 0 0 rd rd rs2)
  | 6 => some (sType 0x23 2 2 rs2 (bits c 9 4 * 4 + bits c 7 2 * 64))
  | 7 => some (sType 0x23 3 2 rs2 (bits c 10 3 * 8 + bits c 7 3 * 64))
  | _ => none

/-- The instruction at the low end of 32 bits of instruction memory: its 32-bit form and its length; none for an illegal compressed
form. -/
def rvWord (w : Nat) : Option (Nat × Nat) :=
  match w % 4 with
  | 0 => (rvc0 (w % 65536)).map (·, 2)
  | 1 => (rvc1 (w % 65536)).map (·, 2)
  | 2 => (rvc2 (w % 65536)).map (·, 2)
  | _ => some (w, 4)

/-! ## Arithmetic -/

/-- A 32-bit result sign-extended to 64 bits. -/
def sx32 (v : Word) : Word := (v.truncate 32).signExtend 64

/-- The operations of OP with funct7 0x00 or 0x20. -/
def rvAlu (f3 : Nat) (alt : Bool) (a b : Word) : Word :=
  match f3 with
  | 0 => if alt then a - b else a + b
  | 1 => a <<< (b.toNat % 64)
  | 2 => if a.slt b then 1 else 0
  | 3 => if a.ult b then 1 else 0
  | 4 => a ^^^ b
  | 5 => if alt then a.sshiftRight (b.toNat % 64) else a >>> (b.toNat % 64)
  | 6 => a ||| b
  | _ => a &&& b

/-- The 32-bit operations of OP-32 with funct7 0x00 or 0x20. -/
def rvAlu32 (f3 : Nat) (alt : Bool) (a b : Word) : Option Word :=
  let x := a.truncate 32
  match f3 with
  | 0 => some (sx32 (if alt then a - b else a + b))
  | 1 => some ((x <<< (b.toNat % 32)).signExtend 64)
  | 5 => some ((if alt then x.sshiftRight (b.toNat % 32) else x >>> (b.toNat % 32)).signExtend 64)
  | _ => none

/-- Signed and unsigned division and remainder with the standard's results for a zero divisor. -/
def rvDivs {n : Nat} (f3 : Nat) (a b : BitVec n) : BitVec n :=
  match f3 with
  | 4 => if b = 0 then BitVec.allOnes n else a.sdiv b
  | 5 => if b = 0 then BitVec.allOnes n else a / b
  | 6 => if b = 0 then a else a.srem b
  | _ => if b = 0 then a else a % b

/-- The operations of the M extension. -/
def rvMul (f3 : Nat) (a b : Word) : Word :=
  match f3 with
  | 0 => a * b
  | 1 => ((a.signExtend 128 * b.signExtend 128) >>> 64).truncate 64
  | 2 => ((a.signExtend 128 * b.zeroExtend 128) >>> 64).truncate 64
  | 3 => ((a.zeroExtend 128 * b.zeroExtend 128) >>> 64).truncate 64
  | f => rvDivs f a b

/-- The 32-bit operations of the M extension. -/
def rvMul32 (f3 : Nat) (a b : Word) : Option Word :=
  let x : BitVec 32 := a.truncate 32
  let y : BitVec 32 := b.truncate 32
  match f3 with
  | 0 => some ((x * y).signExtend 64)
  | 1 => none
  | 2 => none
  | 3 => none
  | f => some ((rvDivs f x y).signExtend 64)

/-- Is a branch taken? None for a funct3 that no branch has. -/
def rvBranch (f3 : Nat) (a b : Word) : Option Bool :=
  match f3 with
  | 0 => some (a == b)
  | 1 => some (a != b)
  | 4 => some (a.slt b)
  | 5 => some (!a.slt b)
  | 6 => some (a.ult b)
  | 7 => some (!a.ult b)
  | _ => none

/-- What an atomic operation stores. -/
def rvAmo {n : Nat} (f5 : Nat) (m v : BitVec n) : Option (BitVec n) :=
  match f5 with
  | 0x01 => some v
  | 0x00 => some (m + v)
  | 0x04 => some (m ^^^ v)
  | 0x0C => some (m &&& v)
  | 0x08 => some (m ||| v)
  | 0x10 => some (if m.slt v then m else v)
  | 0x14 => some (if m.slt v then v else m)
  | 0x18 => some (if m.ult v then m else v)
  | 0x1C => some (if m.ult v then v else m)
  | _ => none

/-! ## Execution -/

/-- What an instruction does: it retires; it retires and the next one cannot be fetched; it traps with a cause; or it is one of
the instructions that have commands of their own. -/
inductive RvOut
  | next (s : State)
  | nextTrap (s : State) (cause target : Nat)
  | trap (cause : Nat)
  | other

/-- The instruction retires with `v` in rd and goes on at `target`; a target outside instruction memory is an instruction access
fault there (R117). -/
def State.goTo (s : State) (r k rd : Nat) (v : Word) (target : Nat) : RvOut :=
  if target < 0x10000 then .next (s.retire r k rd v target) else .nextTrap (s.retire r k rd v target) 1 target

/-- The fault of a data access (R117): misaligned, or outside data memory; `k` is 4 for a load, 6 for a store. -/
def dmemFault (k : Nat) (a : Word) (n : Nat) : Option Nat :=
  if a.toNat % n ≠ 0 then some k
  else if 0x10000 ≤ a.toNat ∧ a.toNat + n ≤ 0x20000 then none
  else some (k + 1)

/-- The DPA of a data-memory address. -/
def dmemDpa (r k : Nat) (a : Nat) : Nat := dmemBase r k + (a - 0x10000)

/-- A store of the control core; it keeps a reservation unless it overlaps it. -/
def State.dmemStore (s : State) (r k a n v : Nat) : State :=
  ({ s with mem := s.mem.writeNat (dmemDpa r k a) n v }).endReservations (dmemDpa r k a) n

/-- A loaded value by funct3: the signed widths, then the unsigned ones. -/
def loadExtend (f3 v : Nat) : Option Word :=
  match f3 with
  | 0 => some ((BitVec.ofNat 8 v).signExtend 64)
  | 1 => some ((BitVec.ofNat 16 v).signExtend 64)
  | 2 => some ((BitVec.ofNat 32 v).signExtend 64)
  | 3 => some (BitVec.ofNat 64 v)
  | 4 => some (BitVec.ofNat 64 v)
  | 5 => some (BitVec.ofNat 64 v)
  | 6 => some (BitVec.ofNat 64 v)
  | _ => none

/-- LOAD. -/
def rvLoad (s : State) (r k w pc len : Nat) : RvOut :=
  let f3 := insnF3 w
  let a := s.xget r k (insnRs1 w) + (BitVec.ofNat 12 (bits w 20 12)).signExtend 64
  let n := 2 ^ (f3 % 4)
  if f3 = 7 then .trap 2
  else
    match dmemFault 4 a n with
    | some c => .trap c
    | none =>
      match loadExtend f3 (s.loadNat (dmemDpa r k a.toNat) n) with
      | some v => s.goTo r k (insnRd w) v (pc + len)
      | none => .trap 2

/-- STORE. -/
def rvStore (s : State) (r k w pc len : Nat) : RvOut :=
  let f3 := insnF3 w
  let a := s.xget r k (insnRs1 w) + (BitVec.ofNat 12 (bits w 7 5 + bits w 25 7 * 32)).signExtend 64
  if 3 < f3 then .trap 2
  else
    match dmemFault 6 a (2 ^ f3) with
    | some c => .trap c
    | none => (s.dmemStore r k a.toNat (2 ^ f3) (s.xget r k (insnRs2 w)).toNat).goTo r k 0 0 (pc + len)

/-- The old value of an atomic access, as rd receives it. -/
def amoOld (n v : Nat) : Word := if n = 4 then (BitVec.ofNat 32 v).signExtend 64 else BitVec.ofNat 64 v

/-- The value that an atomic operation of `n` bytes stores. -/
def amoNew (n f5 m v : Nat) : Option Nat :=
  if n = 4 then (rvAmo f5 (BitVec.ofNat 32 m) (BitVec.ofNat 32 v)).map (·.toNat)
  else (rvAmo f5 (BitVec.ofNat 64 m) (BitVec.ofNat 64 v)).map (·.toNat)

/-- The A extension: LR, SC and the read-modify-write operations (R117). -/
def rvAtomic (s : State) (r k w pc len : Nat) : RvOut :=
  let f3 := insnF3 w
  let f5 := bits w 27 5
  let n := 2 ^ f3
  let a := s.xget r k (insnRs1 w)
  let dpa := dmemDpa r k a.toNat
  let v := s.xget r k (insnRs2 w)
  if f3 ≠ 2 ∧ f3 ≠ 3 then .trap 2
  else if f5 = 2 then
    if insnRs2 w ≠ 0 then .trap 2
    else
      match dmemFault 4 a n with
      | some c => .trap c
      | none =>
        (s.updSlot r k fun q => { q with reservation := some (dpa / 8 * 8) }).goTo r k (insnRd w) (amoOld n (s.loadNat dpa n)) (pc + len)
  else
    match dmemFault 6 a n with
    | some c => .trap c
    | none =>
      if f5 = 3 then
        let ok := (s.slot r k).reservation == some (dpa / 8 * 8)
        let s := if ok then s.dmemStore r k a.toNat n v.toNat else s
        (s.updSlot r k fun q => { q with reservation := none }).goTo r k (insnRd w) (if ok then 0 else 1) (pc + len)
      else
        match amoNew n f5 (s.loadNat dpa n) v.toNat with
        | some x => (s.dmemStore r k a.toNat n x).goTo r k (insnRd w) (amoOld n (s.loadNat dpa n)) (pc + len)
        | none => .trap 2

/-- OP-IMM. -/
def rvOpImm (s : State) (r k w pc len : Nat) : RvOut :=
  let f3 := insnF3 w
  let a := s.xget r k (insnRs1 w)
  let imm := (BitVec.ofNat 12 (bits w 20 12)).signExtend 64
  let sh := BitVec.ofNat 64 (bits w 20 6)
  let top := bits w 26 6
  if f3 = 1 then (if top = 0 then s.goTo r k (insnRd w) (rvAlu 1 false a sh) (pc + len) else .trap 2)
  else if f3 = 5 then
    (if top = 0 ∨ top = 0x10 then s.goTo r k (insnRd w) (rvAlu 5 (top == 0x10) a sh) (pc + len) else .trap 2)
  else s.goTo r k (insnRd w) (rvAlu f3 false a imm) (pc + len)

/-- OP-IMM-32. -/
def rvOpImm32 (s : State) (r k w pc len : Nat) : RvOut :=
  let f3 := insnF3 w
  let a := s.xget r k (insnRs1 w)
  let imm := (BitVec.ofNat 12 (bits w 20 12)).signExtend 64
  let f7 := insnF7 w
  let b := if f3 = 0 then imm else BitVec.ofNat 64 (bits w 20 5)
  if f3 ≠ 0 ∧ f7 ≠ 0 ∧ (f3 ≠ 5 ∨ f7 ≠ 0x20) then .trap 2
  else
    match rvAlu32 f3 (f3 != 0 && f7 == 0x20) a b with
    | some v => s.goTo r k (insnRd w) v (pc + len)
    | none => .trap 2

/-- OP and OP-32. -/
def rvOp (s : State) (r k w pc len : Nat) (half : Bool) : RvOut :=
  let f3 := insnF3 w
  let f7 := insnF7 w
  let a := s.xget r k (insnRs1 w)
  let b := s.xget r k (insnRs2 w)
  let v : Option Word :=
    if f7 = 1 then (if half then rvMul32 f3 a b else some (rvMul f3 a b))
    else if f7 = 0 ∨ (f7 = 0x20 ∧ (f3 = 0 ∨ f3 = 5)) then (if half then rvAlu32 f3 (f7 == 0x20) a b else some (rvAlu f3 (f7 == 0x20) a b))
    else none
  match v with
  | some v => s.goTo r k (insnRd w) v (pc + len)
  | none => .trap 2

/-- A target: the PC moved by a sign-extended offset. -/
def rvTarget (pc : Nat) (off : Word) : Nat := (BitVec.ofNat 64 pc + off).toNat

/-- BRANCH. -/
def rvBr (s : State) (r k w pc len : Nat) : RvOut :=
  let off := (BitVec.ofNat 13 (bits w 8 4 * 2 + bits w 25 6 * 32 + bits w 7 1 * 2048 + bits w 31 1 * 4096)).signExtend 64
  match rvBranch (insnF3 w) (s.xget r k (insnRs1 w)) (s.xget r k (insnRs2 w)) with
  | some true => s.goTo r k 0 0 (rvTarget pc off)
  | some false => s.goTo r k 0 0 (pc + len)
  | none => .trap 2

/-- The CSRs that the manual gives the control core besides those of R449: cycle, time and instret, which are read-only, and mtvec,
which is ignored. -/
def rvCsrKnown (c : Nat) : Bool := c == 0xC00 || c == 0xC01 || c == 0xC02 || c == 0x305

/-- Does a CSR instruction write (CSRRW and CSRRWI always; the others unless rs1 or the immediate is 0)? -/
def csrWrites (w : Nat) : Bool := insnF3 w % 4 == 1 || insnRs1 w != 0

/-- Does a CSR instruction read (CSRRW and CSRRWI not into x0)? -/
def csrReads (w : Nat) : Bool := insnF3 w % 4 != 1 || insnRd w != 0

/-- What a CSR holds (R117): time reads zero; instret the instructions retired; cycle and mtvec a free value (log entry 20). -/
def State.csrRead (s : State) (r k c : Nat) : Word :=
  if c = 0xC02 then BitVec.ofNat 64 (s.slot r k).instret
  else if c = 0xC01 then 0
  else s.free

/-- SYSTEM: the CSR instructions on the CSRs of R117. -/
def rvSystem (s : State) (r k w pc len : Nat) : RvOut :=
  let c := bits w 20 12
  if w = 0x00000073 then .other
  else if w = 0x00100073 then .trap 3
  else if insnF3 w = 0 ∨ insnF3 w = 4 then .trap 2
  else if 0x7C0 ≤ c ∧ c ≤ 0x7C2 then .other
  else if rvCsrKnown c = false ∨ (csrWrites w ∧ 0xC00 ≤ c) then .trap 2
  else (s.tick).goTo r k (insnRd w) (s.csrRead r k c) (pc + len)

/-- One instruction of 32 bits by its major opcode. -/
def rvExec (s : State) (r k w pc len : Nat) : RvOut :=
  match w % 128 with
  | 0x37 => s.goTo r k (insnRd w) ((BitVec.ofNat 32 (bits w 12 20 * 4096)).signExtend 64) (pc + len)
  | 0x17 => s.goTo r k (insnRd w) (BitVec.ofNat 64 pc + (BitVec.ofNat 32 (bits w 12 20 * 4096)).signExtend 64) (pc + len)
  | 0x6F =>
    let off := (BitVec.ofNat 21 (bits w 21 10 * 2 + bits w 20 1 * 2048 + bits w 12 8 * 4096 + bits w 31 1 * 2 ^ 20)).signExtend 64
    s.goTo r k (insnRd w) (BitVec.ofNat 64 (pc + len)) (rvTarget pc off)
  | 0x67 =>
    if insnF3 w ≠ 0 then .trap 2
    else
      let t := (s.xget r k (insnRs1 w) + (BitVec.ofNat 12 (bits w 20 12)).signExtend 64).toNat
      s.goTo r k (insnRd w) (BitVec.ofNat 64 (pc + len)) (t / 2 * 2)
  | 0x63 => rvBr s r k w pc len
  | 0x03 => rvLoad s r k w pc len
  | 0x23 => rvStore s r k w pc len
  | 0x13 => rvOpImm s r k w pc len
  | 0x1B => rvOpImm32 s r k w pc len
  | 0x33 => rvOp s r k w pc len false
  | 0x3B => rvOp s r k w pc len true
  | 0x0F => if insnF3 w = 0 then s.goTo r k 0 0 (pc + len) else .trap 2
  | 0x2F => rvAtomic s r k w pc len
  | 0x73 => rvSystem s r k w pc len
  | 0x0B => if insnF7 w = 0 then .other else .trap 0x3F
  | _ => .trap 2

/-- The instruction at the PC of a control core: its 32-bit form and its length; none when it is illegal or runs past the end of
instruction memory. -/
def State.ccInsn (s : State) (r k : Nat) : Option (Nat × Nat) := rvWord (s.insnAt r k)

/-- The instruction at the PC (R117): an instruction that crosses the end of instruction memory is an instruction access fault, an
illegal compressed form an illegal instruction. -/
def State.ccStep (s : State) (r k : Nat) : RvOut :=
  match s.ccInsn r k with
  | none => .trap 2
  | some (w, len) => if 0x10000 < s.ccPc r k + len then .trap 1 else rvExec s r k w (s.ccPc r k) len

/-- Does the control core run (R122)? -/
def State.ccRuns (s : State) (r k : Nat) : Bool :=
  s.fget (CORE_CC_STAT_STATE r k) == 1 && s.running (s.regionPart r) && (s.region r).handover != some k

/-- BASE_INSTRUCTION: an ordinary instruction executes (R117). -/
def baseInstruction (r k : Nat) (s : State) : State :=
  if s.ccRuns r k = false then s
  else
    match s.ccStep r k with
    | .next t => t
    | .nextTrap t c _ => t.ccTrap r k c
    | _ => s

/-- BASE_INSTRUCTION (R117). -/
def execBaseInstruction (r : Fin 4) (k : Fin 40) (s : State) : Host.Outcome State Fault Refusal := .next (baseInstruction r k s)

/-- ECALL: the program ends; a0 [31:0] goes into EXIT, and the control core becomes idle (R118). -/
def ecall (r k : Nat) (s : State) : State :=
  if s.ccRuns r k && (s.ccInsn r k).map (·.1) == some 0x00000073 then
    let a0 := (s.xget r k 10).toNat % 2 ^ 32
    (s.retire r k 0 0 (s.ccPc r k + 4)).fsets [(CORE_CC_STAT_EXIT r k, a0), (CORE_CC_STAT_STATE r k, 0)]
  else s

/-- ECALL (R118). -/
def execEcall (r : Fin 4) (k : Fin 40) (s : State) : Host.Outcome State Fault Refusal := .next (ecall r k s)

end Sys2Proof.Machine
end

