-- ==== Sys2Proof/Machine/CcMail.lean ====
section
/-! DEFINITION. The control core's mailbox CSRs (R449). -/
namespace Sys2Proof.Machine

/-- The operand of a CSR instruction: rs1, or the 5-bit immediate. -/
def State.csrArg (s : State) (r k w : Nat) : Word := if insnF3 w < 4 then s.xget r k (insnRs1 w) else BitVec.ofNat 64 (insnRs1 w)

/-- What a CSR instruction writes over `old`. -/
def State.csrNew (s : State) (r k w : Nat) (old : Word) : Word :=
  match insnF3 w % 4 with
  | 1 => s.csrArg r k w
  | 2 => old ||| s.csrArg r k w
  | _ => old &&& ~~~(s.csrArg r k w)

/-- The CSR instruction at the PC of a running control core, when it names CSR `c`. -/
def State.csrAt (s : State) (r k c : Nat) : Option Nat :=
  match s.ccInsn r k with
  | some (w, _) =>
    if s.ccRuns r k && w % 128 == 0x73 && insnF3 w != 0 && insnF3 w != 4 && bits w 20 12 == c then some w else none
  | none => none

/-- The CSR instruction retires with the value read in rd. -/
def State.csrDone (s : State) (r k w : Nat) (v : Word) : State := s.retireNext r k (insnRd w) v

/-- MBXTX: reads zero; a write sends the word toward the companion (R445, R449). -/
def mbxtx (r k : Nat) (s : State) : State :=
  match s.csrAt r k 0x7C0 with
  | none => s
  | some w =>
    let t := if csrWrites w then s.mboxSend (coreChan r k) .toA (s.csrNew r k w 0).toNat (unitSlot r k) else s
    t.csrDone r k w 0

/-- MBXTX (R449). -/
def execMbxtx (r : Fin 4) (k : Fin 40) (s : State) : Host.Outcome State Fault Refusal := .next (mbxtx r k s)

/-- MBXRX: a read removes and returns the oldest word, zero when there is none; a write is ignored (R449). -/
def mbxrx (r k : Nat) (s : State) : State :=
  match s.csrAt r k 0x7C1 with
  | none => s
  | some w =>
    let c := coreChan r k
    if csrReads w && !s.mboxHeld c then
      match (s.chan c).toB with
      | [] => s.csrDone r k w 0
      | x :: _ => (s.mboxRemove c .toB).csrDone r k w (BitVec.ofNat 64 x.1)
    else s.csrDone r k w 0

/-- MBXRX (R449). -/
def execMbxrx (r : Fin 4) (k : Fin 40) (s : State) : Host.Outcome State Fault Refusal := .next (mbxrx r k s)

/-- The value of MBXST (R449). -/
def State.mbxst (s : State) (r k : Nat) : Nat :=
  let q := s.chan (coreChan r k)
  q.toB.length + q.toA.length * 256 + b2n q.flagsB.empty * 2 ^ 16 + b2n q.flagsB.timeout * 2 ^ 17 + b2n q.flagsB.ovf * 2 ^ 18 +
    (((q.toB.head?.map (·.2)).getD 0) % 4096) * 2 ^ 20

/-- The channel with the flags that have a 1 in bits [18:16] cleared. -/
def Chan.clearFlags (q : Chan) (v : Nat) : Chan :=
  { q with flagsB := ⟨q.flagsB.empty && !bit v 16, q.flagsB.timeout && !bit v 17, q.flagsB.ovf && !bit v 18⟩ }

/-- MBXST: the status is read (R449). -/
def mbxstRead (r k : Nat) (s : State) : State :=
  match s.csrAt r k 0x7C2 with
  | none => s
  | some w => if csrWrites w then s else s.csrDone r k w (BitVec.ofNat 64 (s.mbxst r k))

/-- MBXST (R449). -/
def execMbxst (r : Fin 4) (k : Fin 40) (s : State) : Host.Outcome State Fault Refusal := .next (mbxstRead r k s)

/-- MBXST_CLEAR: a write clears the flags whose bits are 1 (R449). -/
def mbxstClear (r k : Nat) (s : State) : State :=
  match s.csrAt r k 0x7C2 with
  | none => s
  | some w =>
    if csrWrites w then
      let old := BitVec.ofNat 64 (s.mbxst r k)
      let v := (s.csrNew r k w old).toNat
      (s.updChan (coreChan r k) fun q => q.clearFlags v).csrDone r k w old
    else s

/-- MBXST_CLEAR (R449). -/
def execMbxstClear (r : Fin 4) (k : Fin 40) (s : State) : Host.Outcome State Fault Refusal := .next (mbxstClear r k s)

end Sys2Proof.Machine
end

