-- ==== Sys2Proof/Machine/Vendor.lean ====
section
/-! DEFINITION. The vendor instructions of the control core (R119, R120), and the trap (R118). -/
namespace Sys2Proof.Machine

/-- The vendor instruction with this funct3 at the PC of a control core. -/
def State.vendorWord (s : State) (r k f3 : Nat) : Option Nat :=
  match s.ccInsn r k with
  | some (w, len) => if w % 128 == 0x0B && insnF7 w == 0 && insnF3 w == f3 && decide (s.ccPc r k + len ≤ 0x10000) then some w else none
  | none => none

/-- The vendor instruction with this funct3 at the PC of a running control core. -/
def State.vendorAt (s : State) (r k f3 : Nat) : Option Nat := if s.ccRuns r k then s.vendorWord r k f3 else none

/-- A vendor instruction retires with a result. -/
def State.vendorDone (s : State) (r k w : Nat) (v : Word) : State := s.retireNext r k (insnRd w) v

/-- The jar that rs1 names: bits [11:0] (R119). -/
def State.vJar (s : State) (r k w : Nat) : Nat := (s.xget r k (insnRs1 w)).toNat % 4096
/-- The count that rs2 names: bits [31:0] (R119). -/
def State.vCount (s : State) (r k w : Nat) : Nat := (s.xget r k (insnRs2 w)).toNat % 2 ^ 32
/-- The address that rs1 names. -/
def State.vAddr (s : State) (r k w : Nat) : Nat := (s.xget r k (insnRs1 w)).toNat

/-- The control core waits: WAIT shows for what (CORE_CC_STAT). -/
def State.ccWait (s : State) (r k code : Nat) : State := s.fset (CORE_CC_STAT_WAIT r k) code

/-- JAR_MISUSE by a control core (R126). -/
def State.coreMisuse (s : State) (r k j : Nat) : State := s.raise (s.regionPart r) .jarMisuse { unit := unitSlot r k, log := j }

/-- The instruction's jar operation meets a handover of the jar's home, and is held there in order (R125). -/
def State.holdCore (s : State) (r k w : Nat) : State :=
  s.holdOp (s.regionPart r) (.core (s.vJar r k w) r k)

/-- The drop of JDROP at the jar's home (R119, R123). -/
def jdropAt (r k w : Nat) (s : State) : State :=
  match s.dropJar (s.regionPart r) (s.vJar r k w) (s.vCount r k w) (unitSlot r k) with
  | .done t => t.vendorDone r k w 0
  | .misuse t => t.coreMisuse r k (s.vJar r k w)

/-- JDROP (R119, R123). A home in a handover holds it (R125). -/
def jdrop (r k : Nat) (s : State) : State :=
  match s.vendorAt r k 0 with
  | none => s
  | some w => if s.jarHeld (s.regionPart r) (s.vJar r k w) then s.holdCore r k w else jdropAt r k w s

/-- JDROP (R119). -/
def execJdrop (r : Fin 4) (k : Fin 40) (s : State) : Host.Outcome State Fault Refusal := .next (jdrop r k s)

/-- JTAKE: the take is served at once, or waits at the jar's home and retires when it is served (R119, R124). -/
def jtake (r k : Nat) (s : State) : State :=
  match s.vendorAt r k 1 with
  | none => s
  | some w =>
    if s.fget (CORE_CC_STAT_WAIT r k) = 1 then s
    else
      match s.takeJar (s.regionPart r) (s.vJar r k w) (s.vCount r k w) (.core r k) with
      | none => s.coreMisuse r k (s.vJar r k w)
      | some (t, true) => t.vendorDone r k w 0
      | some (t, false) => t.ccWait r k 1

/-- JTAKE (R119). -/
def execJtake (r : Fin 4) (k : Fin 40) (s : State) : Host.Outcome State Fault Refusal := .next (jtake r k s)

/-- JTRY at the jar's home: rd receives 1 if the take succeeds at once, 0 if not (R119, R124). -/
def jtryAt (r k w : Nat) (s : State) : State :=
  let p := s.regionPart r
  match s.jar? p (s.vJar r k w) with
  | none => s.coreMisuse r k (s.vJar r k w)
  | some x =>
    match x.tryTake (s.vCount r k w) with
    | some y => (s.setJar p (s.vJar r k w) y).vendorDone r k w 1
    | none => s.vendorDone r k w 0

/-- JTRY (R119, R124). A home in a handover holds it (R125). -/
def jtry (r k : Nat) (s : State) : State :=
  match s.vendorAt r k 2 with
  | none => s
  | some w => if s.jarHeld (s.regionPart r) (s.vJar r k w) then s.holdCore r k w else jtryAt r k w s

/-- JTRY (R119). -/
def execJtry (r : Fin 4) (k : Fin 40) (s : State) : Host.Outcome State Fault Refusal := .next (jtry r k s)

/-- JPEEK at the jar's home: rd receives the count (R119, R124). -/
def jpeekAt (r k w : Nat) (s : State) : State :=
  match s.jar? (s.regionPart r) (s.vJar r k w) with
  | none => s.coreMisuse r k (s.vJar r k w)
  | some x => s.vendorDone r k w (BitVec.ofNat 64 x.count)

/-- JPEEK (R119, R124). A home in a handover holds it (R125). -/
def jpeek (r k : Nat) (s : State) : State :=
  match s.vendorAt r k 3 with
  | none => s
  | some w => if s.jarHeld (s.regionPart r) (s.vJar r k w) then s.holdCore r k w else jpeekAt r k w s

/-- The jar instruction at the PC of a control core is performed at its home: what a home performs when its handover ends (R125). -/
def State.coreJarOp (s : State) (r k : Nat) : State :=
  match s.vendorWord r k 0, s.vendorWord r k 2, s.vendorWord r k 3 with
  | some w, _, _ => jdropAt r k w s
  | none, some w, _ => jtryAt r k w s
  | none, none, some w => jpeekAt r k w s
  | none, none, none => s

/-- JPEEK (R119). -/
def execJpeek (r : Fin 4) (k : Fin 40) (s : State) : Host.Outcome State Fault Refusal := .next (jpeek r k s)

/-- The DPA of `n` bytes of data memory at a control-core address, or the cause of the access fault (R117; log entry 20). -/
def vData (r k a n : Nat) : Option Nat := if 0x10000 ≤ a ∧ a + n ≤ 0x20000 then some (dmemBase r k + (a - 0x10000)) else none

/-- The mcause of the exception that a vendor instruction meets (R118): LAUNCH misaligned, LAUNCH or JRDROP outside data memory. -/
def State.vendorTrap (s : State) (r k : Nat) : Option Nat :=
  match s.vendorAt r k 4, s.vendorAt r k 5 with
  | some w, _ => if (vData r k (s.vAddr r k w) 16).isNone then some 5 else none
  | none, some w =>
    if s.vAddr r k w % 128 ≠ 0 then some 4 else if (vData r k (s.vAddr r k w) 128).isNone then some 5 else none
  | none, none => none

/-- JRDROP: the block in data memory sends its remote drop, which announces 0 bytes (R119, R130). DEDUCED, log entry 34: a block whose reserved
bits are set is sent as if they were not, and NODE 0xFFFF is a node without a route; the manual states no outcome for either (R9). -/
def jrdrop (r k : Nat) (s : State) : State :=
  match s.vendorAt r k 4 with
  | none => s
  | some w =>
    match vData r k (s.vAddr r k w) 16 with
    | none => s
    | some a =>
      let p := s.regionPart r
      let blk := s.loadNat a 16
      if blkEn blk = false then s.vendorDone r k w 0
      else
        match s.sendDrop p blk 0 .core with
        | some t => t.vendorDone r k w 0
        | none => s.noRoute p (blkNode blk)

/-- JRDROP (R119). -/
def execJrdrop (r : Fin 4) (k : Fin 40) (s : State) : Host.Outcome State Fault Refusal := .next (jrdrop r k s)

/-- Descriptors launched and not completed: CORE_LAUNCHQ.OCCUPANCY. -/
def State.occupancy (s : State) (r k : Nat) : Nat := (s.slot r k).cq.length + (s.slot r k).inflight.length

/-- LAUNCH: the descriptor in data memory is copied into CQ, once CQ has a credit and the launch queue room (R113, R119, R120); `parityBad`: its
parity will be wrong when the launch queue removes it (R114). -/
def launch (r k : Nat) (parityBad : Bool) (s : State) : State :=
  match s.vendorAt r k 5 with
  | none => s
  | some w =>
    match if s.vAddr r k w % 128 = 0 then vData r k (s.vAddr r k w) 128 else none with
    | none => s
    | some a =>
      if 32 ≤ s.occupancy r k then s.ccWait r k 4
      else
        match (s.coreQ r k 10).push (!parityBad) with
        | none => s.ccWait r k 4
        | some c =>
          let raw := s.loadNat a 128
          let id := s.descSeq
          let s := (({ s with descSeq := id + 1 }.setCoreQ r k 10 c).updSlot r k fun q => { q with cq := q.cq ++ [(id, raw)] }).fadd (CORE_LAUNCHQ_LAUNCHED r k) 1
          (s.vendorDone r k w 0).drainCq r k 32

/-- LAUNCH (R120). -/
def execLaunch (r : Fin 4) (k : Fin 40) (parityBad : Bool) (s : State) : Host.Outcome State Fault Refusal := .next (launch r k parityBad s)

/-- BWAIT: rd receives BEAT_NOW.NUMBER once it has reached rs1 (R119). -/
def bwait (r k : Nat) (s : State) : State :=
  match s.vendorAt r k 6 with
  | none => s
  | some w =>
    let b := s.beat (s.regionPart r)
    if s.vAddr r k w ≤ b then s.vendorDone r k w (BitVec.ofNat 64 b) else s.ccWait r k 2

/-- BWAIT (R119). -/
def execBwait (r : Fin 4) (k : Fin 40) (s : State) : Host.Outcome State Fault Refusal := .next (bwait r k s)

/-- SUMRD: a fresh summary register is read into rd and becomes stale (R119). -/
def sumrd (r k : Nat) (s : State) : State :=
  match s.vendorAt r k 7 with
  | none => s
  | some w =>
    let i := s.vAddr r k w % 16
    if (s.slot r k).fresh.contains i then
      (s.vendorDone r k w (mgetD (s.slot r k).sums i 0)).updSlot r k fun q => { q with fresh := q.fresh.filter (· != i) }
    else s.ccWait r k 3

/-- SUMRD (R119). -/
def execSumrd (r : Fin 4) (k : Fin 40) (s : State) : Host.Outcome State Fault Refusal := .next (sumrd r k s)

/-- CC_TRAP: the instruction at the PC raises an exception (R118). -/
def ccTrapCmd (r k : Nat) (s : State) : State :=
  if s.ccRuns r k = false then s
  else
    match s.ccStep r k with
    | .trap c => s.ccTrap r k c
    | _ =>
      match s.vendorTrap r k with
      | some c => s.ccTrap r k c
      | none => s

/-- CC_TRAP (R118). -/
def execCcTrap (r : Fin 4) (k : Fin 40) (s : State) : Host.Outcome State Fault Refusal := .next (ccTrapCmd r k s)

end Sys2Proof.Machine
end

