-- ==== Sys2Proof/Machine/Handover.lean ====
section
/-! DEFINITION. The end of a Carousel handover, and the jar operations that it held (R125, R312). -/
namespace Sys2Proof.Machine

/-- The take of a waiter is refused at the jar's home (R126). -/
def State.refuseTake (s : State) (p j : Nat) : Waiter → State
  | .desc o id =>
    match s.desc? o id with
    | some d => s.descFault o d .jarMisuse { (checkCause o) with log := j }
    | none => s.raise p .jarMisuse { unit := unitHub, log := j }
  | .core r k => s.coreMisuse r k j

/-- A held operation is performed at its jar's home (R124, R125); none is after a job-fatal fault (R127); a stopped partition keeps its drops (log entry 83). -/
def State.performHeld (s : State) (p : Nat) (x : HeldOp) : State :=
  if s.jarsLive p = false then s
  else
    match x with
    | .drop j n u => s.dropOr p j n { unit := u }
    | .take j n w =>
      match s.takeJar p j n w with
      | none => s.refuseTake p j w
      | some (t, true) => t.served w
      | some (t, false) => t
    | .desc _ o id =>
      match s.desc? o id with
      | some d => (runJarOp o s d).settle o d []
      | none => s
    | .core _ r k => s.coreJarOp r k

/-- Is slot `k` of region `r` the home of the jar that a held operation names? One whose jar is gone is held by no home. -/
def State.heldAt (s : State) (p r k : Nat) (x : HeldOp) : Bool :=
  match s.jar? p x.jar with
  | some y => y.region == r && y.slot == k
  | none => true

/-- What slot `k` of region `r` held is performed in order of arrival: the end of a handover (R125). -/
def State.releaseHeld (s : State) (p r k : Nat) : State :=
  let mine := (s.part p).heldOps.filter (s.heldAt p r k)
  (s.updPart p fun q => { q with heldOps := q.heldOps.filter fun x => !s.heldAt p r k x }).each mine fun s x => s.performHeld p x

/-- HANDOVER_END: the slot map changes and what the handover held goes on; or CAROUSEL_FAIL, and the slot stays with its core (R312). -/
def handoverEnd (r : Nat) (ok : Bool) (s : State) : State :=
  match (s.region r).handover with
  | none => s
  | some k =>
    let p := s.regionPart r
    if ok then (s.rotate r k).releaseHeld p r k
    else
      let s := (s.updRegion r fun q => { q with handover := none }).fset (RGN_TWIN_PHASE_TWIN0_PHASE r) 2
      (s.releaseHeld p r k).raise p .carouselFail { unit := unitSlot r k }

end Sys2Proof.Machine
end

