-- ==== Sys2Proof/Machine/Views.lean ====
section
/-! DEFINITION. What a register reads as (R14 to R17): stored fields, and fields that show what units hold. Bytes of Music Box records and
its window (R434, R442). -/
namespace Sys2Proof.Machine

/-! ## Music Box records -/

/-- The 64 bytes of a record (R434). -/
def Rec.bytes (x : Rec) : List Byte :=
  natLe 2 (x.code % 4096 + b2n x.note * 4096) ++ natLe 2 x.unit ++ natLe 4 ((x.part.getD 0) % 4 + b2n x.part.isNone * 4) ++ natLe 8 (x.opSec % 2 ^ 40) ++
    natLe 8 x.pwr ++ natLe 8 (x.beat % 2 ^ 48) ++ natLe 8 x.log ++ natLe 4 x.tag ++ natLe 4 (x.cls % 256) ++ natLe 8 x.addr ++
    natLe 7 x.epoch ++ natLe 1 0x80

/-- The byte `o` of the record area: record o / 64; zero where none stands (R442). -/
def State.recByte (s : State) (o : Nat) : Byte :=
  match s.recs[o / 64]? with
  | some x => x.bytes.getD (o % 64) 0
  | none => 0

/-- The bytes of EVR_WINDOW from offset `o` on (R442). -/
def State.windowBytes (s : State) (o n : Nat) : List Byte :=
  (List.range n).map fun i => s.recByte (64 * s.fget EVR_CURSOR_BASE + o + i)

/-! ## Fields that show what units hold -/

/-- The descriptor of partition `p` that runs in a unit: the first started and not complete of those that `is` names. -/
def State.runs (s : State) (p : Nat) (is : Nat → Bool) : Option Desc := (s.flightOf p).find? fun d => d.started && !d.ready && is d.raw

/-- The views of a status register with a running descriptor: BUSY and TAG. -/
def busyTag (d : Option Desc) (busy tag : Fld) : List (Fld × Nat) := [(busy, b2n d.isSome), (tag, (d.map fun d => dTag d.raw).getD 0)]

/-- The views of the registers of ring `n` (R77, R95). -/
def State.ringViews (s : State) (n : Nat) : List (Fld × Nat) :=
  [(HUB_RING_PTRS_IN_FLIGHT n, (s.ring n).inflight.length), (HUB_RING_PTRS_PART n, s.ringPart n), (HUB_RING_STAT_STATE n, s.ringState n),
    (HUB_RING_CFG_PART n, s.ringPart n)]

/-- The views of a slot's registers. -/
def State.slotViews (s : State) (r k : Nat) : List (Fld × Nat) :=
  let p := s.regionPart r
  let here := fun (is : Nat → Bool) (raw : Nat) => is raw && dRegion raw == r && dSlot raw == k
  let mx := s.runs p (here isMatrix)
  let q := s.slot r k
  let vec := q.vec
  let fresh := q.fresh.foldl (fun n i => n + 2 ^ i) 0
  [(CORE_LAUNCHQ_OCCUPANCY r k, q.cq.length + q.inflight.length),
    (CORE_ACC_STAT_OPEN r k, ((List.range 16).filter fun g => s.fget (CORE_ACC_GRP_STATE r k g) != 0).length),
    (VEC_STAT_FRESH r k, fresh), (VEC_STAT_INSN r k, (vec.map (·.pc)).getD 0), (VEC_STAT_POSTWAIT r k, b2n ((vec.map (·.postWait)).getD false)),
    (VEC_STAT_BUSY r k, b2n vec.isSome), (VEC_ITER_ITER r k, (vec.map (·.iter)).getD 0),
    (VEC_ITER_TAG r k, ((vec.bind fun v => s.desc? v.o v.id).map fun d => dTag d.raw).getD 0)] ++
  (List.range 4).flatMap fun m =>
    [(ARR_STAT_BUSY r k m, b2n mx.isSome), (ARR_STAT_MODE r k m, (mx.map fun d => mxMode d.raw).getD 0),
      (ARR_STAT_CHECKING r k m, b2n ((mx.map fun d => mxExact d.raw).getD false))]

/-- The forecast of a stack: the booked pass of the lowest partition that has one (R337). -/
def State.forecast (s : State) (m : Nat) : List Nat :=
  match allParts.filterMap fun p => (s.booked p 2 m).map fun b => (p, b.beat) with
  | [] => [0, 0, 0]
  | (p, b) :: _ =>
    let t := s.period p
    [ceilDiv 1600 t, if t ≤ 1600 then 50 else ceilDiv (50 * 1600) t, b]

/-- The views of a region's registers. The schedule registers of a region that does not lead show those of the lead region. -/
def State.regionViews (s : State) (r : Nat) : List (Fld × Nat) :=
  let p := s.regionPart r
  let l := s.lead p
  let here := fun (is : Nat → Bool) (raw : Nat) => is raw && dRegion raw == r
  let ab := s.runs p (here isUpdate)
  let yo := s.runs p (here isActivation)
  busyTag (s.runs p (here isLayout)) (KAL_STAT_BUSY r) (KAL_STAT_TAG r) ++ busyTag ab (ABC_STAT_BUSY r) (ABC_STAT_TAG r) ++
  busyTag yo (YOY_STAT_BUSY r) (YOY_STAT_TAG r) ++
  [(ABC_STAT_OP r, (ab.map fun d => abOp d.raw).getD 0), (ABC_STAT_LEAD r, b2n (l == r)), (YOY_STAT_OP r, (yo.map fun d => yoOp d.raw).getD 0),
    (YOY_STAT_SPILL_USED r, s.yoSpilled r), (YOY_USED_NOTKEPT r, s.yoNotkept r), (YOY_USED_KEEP r, s.yoUsed r 1), (YOY_USED_ACT r, s.yoUsed r 0)] ++
  ((ABC_TABLE_fields r).zip (ABC_TABLE_fields l) ++ (ABC_STEP_fields r).zip (ABC_STEP_fields l) ++ (ABC_LOSS_fields r).zip (ABC_LOSS_fields l) ++
    (ABC_SCHED_fields r).zip (ABC_SCHED_fields l)).map (fun x => (x.1, s.fget x.2)) ++
  (List.range 3).flatMap fun i =>
    let f := s.forecast (3 * r + i)
    [(MEM_FCAST_BEATS r i, min (f.getD 0 0) 255), (MEM_FCAST_LOSS_BP r i, f.getD 1 0), (MEM_FCAST_BEAT r i, f.getD 2 0)]

/-- The views of a partition's own registers. -/
def State.partViews (s : State) (p : Nat) : List (Fld × Nat) :=
  let c := (s.part p).coll
  let g := fun (x : Option Coll) => (x.map fun c => coGroup c.raw).getD 0
  let op := fun (x : Option Coll) => (x.map fun c => coOp c.raw).getD 0
  [(HUB_PART_FLT_PENDING p, (s.part p).pend.length),
    (HUB_SNAP_LEFT p, ((s.part p).snap.map (·.left.length)).getD 0),
    (HUB_SNAP_STATE p, ((s.part p).snap.map fun x => if x.streaming then 2 else 1).getD 0),
    (TCN_STAT_TC_GROUP p, g c.tc), (TCN_STAT_BULK_GROUP p, g c.bulk), (TCN_STAT_TC_OP p, op c.tc - 5), (TCN_STAT_BULK_OP p, op c.bulk),
    (TCN_STAT_TC_BUSY p, b2n c.tc.isSome), (TCN_STAT_BULK_BUSY p, b2n c.bulk.isSome)] ++
  ((s.part p).books.take 16).zipIdx.flatMap fun x =>
    [(BEAT_BOOK_KIND p x.2, x.1.kind), (BEAT_BOOK_UNIT p x.2, x.1.unit), (BEAT_BOOK_BEAT p x.2, x.1.beat)]

/-- The views of a mailbox page (R444, R448). -/
def State.mboxViews (s : State) (c : Nat) : List (Fld × Nat) :=
  [(MBX_STAT_PEER_RESET c, b2n (s.inReset (endB c))), (MBX_STAT_RX_COUNT c, (s.chan c).toA.length), (MBX_STAT_TX_COUNT c, (s.chan c).toB.length)]

/-- The Jigsaw descriptor that runs, with its partition. -/
def State.jigRuns (s : State) : Option (Nat × Desc) := (allParts.filterMap fun p => (s.runs p isJig).map fun d => (p, d)).head?

/-- The views of the registers of the device as a whole. -/
def State.devViews (s : State) : List (Fld × Nat) :=
  let j := s.jigRuns
  let regs := (s.resyncQ.filter fun q => q.by_.isNone).length + (match s.resyncNow with
    | some x => b2n x.req.by_.isNone
    | none => 0)
  [(HUB_RESYNC_STAT_PENDING, regs), (EVR_STAT_FULL, b2n s.evrFull), (EVR_STAT_NEXT, s.recs.length), (GLK_STAT_WIDTH, ((List.range 16).filter (s.fbit GLK_STAT_LANES_UP)).length),
    (PWR_STAT_CAP_W, s.fget PWR_CAP_PKG_W), (PWR_STAT_STATE, s.pwrState), (JIG_STAT_BUSY, b2n j.isSome),
    (JIG_STAT_TAG, (j.map fun x => dTag x.2.raw).getD 0), (JIG_STAT_PART, (j.map (·.1)).getD 0), (JIG_STAT_OP1, (j.map fun x => bits (jgOp x.2.raw) 1 1).getD 0),
    (TCN_SWITCH_TINCAN, b2n s.switchTincan), (TCN_SWITCH_REDUCE, b2n (s.switchWin != 0)), (TCN_SWITCH_WIN_LOG2, s.switchWin)]

/-- The views that stand in the register at DPA `a`. -/
def State.views (s : State) (a : Nat) : List (Fld × Nat) :=
  let l := if 0xF0100000000 ≤ a ∧ a < 0xF0104000000 then
      let r := (a - 0xF0100000000) / 0x1000000
      let o := (a - 0xF0100000000) % 0x1000000
      if 0x800000 ≤ o then s.slotViews r ((o - 0x800000) / 0x20000) else s.regionViews r
    else if 0xF0000100000 ≤ a ∧ a < 0xF0000200000 then s.ringViews ((a - 0xF0000100000) / 0x1000)
    else if 0xF0000001000 ≤ a ∧ a < 0xF0000003000 then s.ringViews ((a - 0xF0000001000) / 0x20)
    else if 0xF0000050000 ≤ a ∧ a < 0xF0000060000 then s.mboxViews ((a - 0xF0000050000) / 0x100)
    else s.devViews ++ allParts.flatMap s.partViews
  l.filter fun v => v.1.reg == a

/-- What a field reads as: zero for WO, what a unit shows, or what is stored (R17). -/
def State.fieldReads (s : State) (views : List (Fld × Nat)) (f : Fld) : Nat :=
  if f.acc = .wo then 0
  else match views.find? fun v => v.1.key == f.key with
    | some v => v.2 % 2 ^ f.width
    | none => s.fget f

/-- The 64 bits that the register at DPA `a` reads as (R14, R15). -/
def State.regReads (s : State) (a : Nat) : Nat :=
  let vs := s.views a
  (fieldsAt a).foldl (fun n f => n + s.fieldReads vs f * 2 ^ f.lsb) 0

end Sys2Proof.Machine
end

