-- ==== Sys2Proof/Machine/Resync.lean ====
section
/-! DEFINITION. RESYNC: the register request (R106) and the device summary block (R107 to R111). -/
namespace Sys2Proof.Machine

/-- A register write with a reserved encoding, or one that a rule discards: it changes nothing and is recorded (R16). -/
def State.discard (s : State) (a value : Nat) : State := s.noteDiscard a value

/-- HUB_RESYNC: a write queues a request; with four of them queued or in progress it is counted in DROPPED (R106). A DEST outside the
GlaetLink window is a reserved encoding; a device-fatal hub answers with an error. -/
def hubResync (dest : Nat) (s : State) : State :=
  let a := bits dest 12 32 * 4096
  if s.fatal then s
  else if inCompanion a = false then s.discard HUB_RESYNC dest
  else if 4 ≤ s.fieldReads s.devViews HUB_RESYNC_STAT_PENDING then s.fadd HUB_RESYNC_STAT_DROPPED 1
  else { s with resyncQ := s.resyncQ ++ [⟨a, none⟩] }

/-- HUB_RESYNC (R106). -/
def execHubResync (dest : Nat) (s : State) : Host.Outcome State Fault Refusal := .next (hubResync dest s)

/-! ## The block -/

/-- The bytes of a region's entry (R109). -/
def State.sumRegion (s : State) (r : Nat) : List Byte :=
  let st := if s.dieState r = 3 then 1 else if s.isolated r then 2 else 0
  let map := (List.range 40).foldl (fun n k => n + s.slotCore r k * 2 ^ (6 * k)) 0
  natLe 1 st ++ natLe 1 (s.regionPart r) ++ natLe 1 (s.fget (RGN_TWIN_IDS_TWIN0 r)) ++ natLe 1 (s.fget (RGN_TWIN_IDS_TWIN1 r)) ++
    natLe 8 (s.fget (RGN_TWINS_RETIRED r)) ++ natLe 4 (s.region r).rotations ++ natLe 8 (s.fget (RGN_CAROUSEL_NEXT_BEAT r)) ++ natLe 40 map

/-- Open accumulation groups of a region. -/
def State.openGroups (s : State) (r : Nat) : Nat :=
  (List.range 40).foldl (fun n k => n + ((List.range 16).filter fun g => s.fget (CORE_ACC_GRP_STATE r k g) != 0).length) 0

/-- Takes that wait on jars. -/
def Part.takesWaiting (q : Part) : Nat := q.jars.foldl (fun n j => n + j.2.takes.length) 0

/-- Remote drops held for their data. -/
def Part.dropsHeld (q : Part) : Nat := q.streams.foldl (fun n t => n + t.held.length) 0

/-- The bytes of a partition's entry (R110). -/
def State.sumPart (s : State) (p : Nat) : List Byte :=
  let q := s.part p
  natLe 1 (s.pstate p) ++ natLe 1 (s.fget (HUB_PART_CTRL_REASON p)) ++ natLe 2 (s.fget (HUB_PART_CTRL_FAULT p)) ++ natLe 4 (s.ringsOn p) ++
    natLe 8 (s.beat p) ++ natLe 8 (s.stepOf p) ++ natLe 2 (s.fget (BEAT_STATE_STATE p)) ++ natLe 2 (s.fget (BEAT_DOMAIN_MASTER_NODE p)) ++
    natLe 4 (s.fget (BEAT_DOMAIN_ID p)) ++ natLe 8 (s.regReads (BEAT_LATE p)) ++ natLe 8 (s.regReads (BEAT_STATS p)) ++
    natLe 2 (min (q.jars.filter fun j => j.2.count != 0).length 0xFFFF) ++ natLe 2 (min q.takesWaiting 0xFFFF) ++ natLe 4 (min q.dropsHeld 0xFFFF) ++
    ([0, 1, 2, 3].flatMap fun r => natLe 2 (if s.regionPart r = p then s.openGroups r else 0)) ++ natLe 192 (s.fget (PWR_PCAP_W p))

/-- The bytes of a pending fault's entry (R111). -/
def PendFault.bytes (f : PendFault) : List Byte :=
  natLe 2 (f.code % 4096 + f.part % 4 * 4096) ++ natLe 2 f.unit ++ natLe 4 f.evr ++ natLe 8 f.beat

/-- A fault in its place among others, the oldest first. -/
def insertFault (f : PendFault) : List PendFault → List PendFault
  | [] => [f]
  | g :: t => if f.order < g.order then f :: g :: t else g :: insertFault f t

/-- The pending faults of the device, the oldest first. -/
def State.faultList (s : State) : List PendFault := ([0, 1, 2, 3].flatMap fun p => (s.part p).pend).foldr insertFault []

/-- The 4,096 bytes of the device summary block (R108). -/
def State.summary (s : State) (q : ResyncReq) (seq : Nat) : List Byte :=
  let ring := match q.by_ with
    | some (.ring n, _) => n.val
    | _ => 0
  let faults := s.faultList.take 32
  natLe 4 0x53344B58 ++ natLe 4 1 ++ natLe 8 seq ++ natLe 8 (s.fget EVR_OPSEC_SECONDS) ++ natLe 4 (s.fget EVR_PWRCYC_COUNT) ++
    natLe 1 (s.layout + s.fget HUB_LAYOUT_NEXT * 8) ++ natLe 1 (b2n q.by_.isSome) ++ natLe 2 ring ++ natLe 2 s.node ++ natLe 2 s.pwrState ++
    natLe 2 (s.fget PWR_STAT_PKG_W) ++ natLe 2 (s.fget PWR_CAP_PKG_W) ++ natLe 2 s.recs.length ++ natLe 2 (b2n s.evrFull) ++
    natLe 4 (min s.faultList.length 0xFFFF) ++ natLe 16 0 ++
    ([0, 1, 2, 3].flatMap s.sumRegion) ++ ([0, 1, 2, 3].flatMap s.sumPart) ++ ((List.range 256).flatMap fun n => natLe 8 (s.regReads (HUB_RING_PTRS n))) ++
    (faults.flatMap PendFault.bytes) ++ natLe (512 - 16 * faults.length) 0 ++ natLe 184 0 ++ natLe 8 seq

/-- Is the request still one to serve: a register's, or that of a descriptor in flight in an active partition? -/
def State.resyncLive (s : State) (q : ResyncReq) : Bool :=
  match q.by_ with
  | some (o, id) => s.active (s.originPart o) && (s.desc? o id).isSome
  | none => true

/-- RESYNC_SAMPLE: the oldest request is served: every field of its block is latched, and the block is written, its last line after the
others (R106, R107). Requests are served one at a time. -/
def resyncSample (s : State) : State :=
  match s.resyncQ with
  | [] => s
  | q :: t =>
    if s.resyncNow.isSome || !s.glkUp then s
    else
      let s := { s with resyncQ := t }
      if s.resyncLive q = false then s
      else
        let seq := s.resyncSeq + 1
        let b := s.summary q seq
        { s with resyncSeq := seq, resyncNow := some ⟨q, seq, some (b.drop 0xF80)⟩ }.store q.dest (b.take 0xF80) (s.resyncOwner q)

/-- RESYNC_SAMPLE (R107). -/
def execResyncSample (s : State) : Host.Outcome State Fault Refusal := .next (resyncSample s)

end Sys2Proof.Machine
end

