-- ==== Sys2Proof/Machine/RegAccess.lean ====
section
/-! DEFINITION. Accesses to register space (R14 to R22, R37, R41, R49, R50): which are refused, what a read answers, and what a write does:
it is discarded under R16 or a rule that records a discarded write, or its fields take effect and its action begins. -/
namespace Sys2Proof.Machine

/-! ## Which accesses are refused -/

/-- The window of Music Box records (R442). -/
def inEvrWindow (a : Nat) : Bool := decide (0xF0000041000 ≤ a) && decide (a < 0xF0000042000)

/-- Does a register, or the record window, stand at DPA `a` (R37, R49)? -/
def regMapped (a : Nat) : Bool := inEvrWindow a || !(fieldsAt (a / 8 * 8)).isEmpty

/-- Is the block of DPA `a` served while the hub is device-fatal (R409): EVR_, MBX_ and SEC_? -/
def servedFatal (a : Nat) : Bool := decide (0xF0000030000 ≤ a) && decide (a < 0xF0000060000)

/-- Is a write of DPA `a` from GlaetLink refused under R50 (R444, R484, R495)? -/
def State.writeRefused (s : State) (a : Nat) : Bool :=
  let b := a / 8 * 8
  if 0xF0000030000 ≤ a ∧ a < 0xF0000040000 then b != SEC_LOAD && b != SEC_ATT
  else if 0xF0000060000 ≤ a ∧ a < 0xF0000070000 then b != JIB_UNLOCK && !s.flag JIB_STAT_UNLOCKED
  else if 0xF0000050000 ≤ a ∧ a < 0xF0000060000 then !companionChannel ((a - 0xF0000050000) / 0x100)
  else false

/-- Do the accesses to a region's units fail with reason 4 (R41): its die isolated, or, for its windows and slot blocks, the region out of
service? -/
def State.regionRefuses (s : State) (r : Nat) (units : Bool) : Bool :=
  s.isolated r || (units && s.dieState r == 3)

/-- The reason with which a companion access to register space fails (R410), and whether it is recorded (R14, R37, R50). -/
def State.regError (s : State) (a size : Nat) (write : Bool) : Option (Nat × Bool) :=
  if s.fatal ∧ servedFatal a = false then some (5, false)
  else if regMapped a = false then some (1, true)
  else if (size ≠ 4 ∧ size ≠ 8) ∨ a % size ≠ 0 then some (3, true)
  else if write ∧ s.writeRefused a then some (2, true)
  else match regRegion a with
    | some (r, units) => if s.regionRefuses r units then some (4, false) else none
    | none => none

/-- The state after an access that completes with an error reply (R14, R37). -/
def State.regFailed (s : State) (a : Nat) (e : Nat × Bool) : State := if e.2 then s.noteAccess a else s

/-- The bytes that a read of register space answers (R12, R14). -/
def State.regBytes (s : State) (a size : Nat) : List Byte :=
  if inEvrWindow a then s.windowBytes (a - 0xF0000041000) size
  else natLe size (bits (s.regReads (a / 8 * 8)) (8 * (a % 8)) (8 * size))

/-! ## Writes -/

/-- A write to a register: its DPA, the bits that the write covers and their values (R14). -/
structure RegWrite where
  reg : Nat
  mask : Nat
  value : Nat
deriving DecidableEq, Repr

/-- The write of `size` bytes at DPA `a`. -/
def RegWrite.of (a size value : Nat) : RegWrite :=
  ⟨a / 8 * 8, (2 ^ (8 * size) - 1) * 2 ^ (8 * (a % 8)), value % 2 ^ (8 * size) * 2 ^ (8 * (a % 8))⟩

/-- Does the write cover a bit of the field? -/
def RegWrite.covers (w : RegWrite) (f : Fld) : Bool := bits w.mask f.lsb f.width != 0

/-- The bits that the write covers of a field, and zeros in its other bits. -/
def RegWrite.raw (w : RegWrite) (f : Fld) : Nat := bits w.value f.lsb f.width

/-- What a field's uncovered bits keep: the value staged in this beat or in effect; nothing of a field that cannot be read (R14). -/
def State.keeps (s : State) (f : Fld) : Nat := if f.acc = .rwb then s.stagedGet f else if f.acc = .wo then 0 else s.fget f

/-- A field as merged from its written bits and its uncovered bits (R14). -/
def State.merged (s : State) (w : RegWrite) (f : Fld) : Nat :=
  let m := bits w.mask f.lsb f.width
  if m = 2 ^ f.width - 1 then w.raw f
  else ((List.range f.width).map fun i => b2n (if bit m i then bit (w.raw f) i else bit (s.keeps f) i) * 2 ^ i).sum

/-- Does the write leave the field in a range? A field that it does not cover is not judged. -/
def State.within (s : State) (w : RegWrite) (f : Fld) (lo hi : Nat) : Bool :=
  !w.covers f || (decide (lo ≤ s.merged w f) && decide (s.merged w f ≤ hi))

/-! ### Encodings marked reserved (R16) -/

/-- HUB_RING_SQ or HUB_RING_CQ (R81). -/
def State.ringRegLegal (s : State) (w : RegWrite) (log base : Fld) (entry : Nat) : Bool :=
  let l := s.merged w log
  l == 0 || (decide (4 ≤ l) && decide (l ≤ 16) && baseFits (s.merged w base) l entry)

/-- The registers of the hub block. -/
def State.hubLegal (s : State) (w : RegWrite) : Bool :=
  let o := w.reg - regBase
  if w.reg = HUB_LAYOUT then s.within w HUB_LAYOUT_NEXT 0 5
  else if 0x1000 ≤ o ∧ o < 0x3000 then
    let n := (o - 0x1000) / 0x20
    if w.reg = HUB_RING_SQ n then s.ringRegLegal w (HUB_RING_SQ_LOG2 n) (HUB_RING_SQ_BASE n) 128
    else if w.reg = HUB_RING_CQ n then s.ringRegLegal w (HUB_RING_CQ_LOG2 n) (HUB_RING_CQ_BASE n) 32
    else if w.reg = HUB_RING_CFG n then decide (4 ≤ s.layout) || s.within w (HUB_RING_CFG_PART n) 0 (partsOf s.layout - 1)
    else true
  else allParts.all fun p => w.reg != HUB_PART_CTRL p || s.within w (HUB_PART_CTRL_CMD p) 0 2

/-- The registers of a BEAT_ page. -/
def State.beatLegal (s : State) (w : RegWrite) (p : Nat) : Bool :=
  if w.reg = BEAT_CTRL p then s.within w (BEAT_CTRL_STRETCH_LIM p) 1 15 && s.within w (BEAT_CTRL_SOURCE p) 0 1
  else if w.reg = BEAT_PERIOD p then s.within w (BEAT_PERIOD_US p) 20 20000
  else if w.reg = BEAT_GUARD p then s.within w (BEAT_GUARD_US p) 2 100
  else if w.reg = BEAT_START p then s.within w (BEAT_START_NUMBER p) 1 (2 ^ 48 - 1)
  else if w.reg = BEAT_DOMAIN p then s.within w (BEAT_DOMAIN_MEMBERS p) 1 32768
  else true

/-- The registers of the PWR_ block. -/
def State.pwrLegal (s : State) (w : RegWrite) : Bool :=
  if w.reg = PWR_CAP then s.within w PWR_CAP_HYST_W 0 1000 && s.within w PWR_CAP_PKG_W 1500 4200
  else if w.reg = PWR_THERM then
    s.within w PWR_THERM_HBM_EMERG_C 70 100 && s.within w PWR_THERM_HBM_THROTTLE_C 60 99 && s.within w PWR_THERM_EMERG_C 70 104 &&
      s.within w PWR_THERM_THROTTLE_C 60 103 && decide (s.merged w PWR_THERM_HBM_THROTTLE_C < s.merged w PWR_THERM_HBM_EMERG_C) &&
      decide (s.merged w PWR_THERM_THROTTLE_C < s.merged w PWR_THERM_EMERG_C)
  else if w.reg = PWR_DROOP then s.within w PWR_DROOP_MARGIN_MV 20 100
  else allParts.all fun p => w.reg != PWR_PCAP p || (s.merged w (PWR_PCAP_W p) == 0 || s.within w (PWR_PCAP_W p) 200 4200)

/-- Does an address field of 4 KiB units name the GlaetLink window? A field that is not covered is not judged. -/
def State.inWindow (s : State) (w : RegWrite) (f : Fld) : Bool := !w.covers f || inCompanion (s.merged w f * 4096)

/-- The registers of the SEC_ block; a GO while one is pending is discarded under R16 (R478, R482). -/
def State.secLegal (s : State) (w : RegWrite) : Bool :=
  if w.reg = SEC_LOAD then
    s.inWindow w SEC_LOAD_ADDR && s.within w SEC_LOAD_TYPE 1 4 && !(s.fget SEC_LOAD_STAT_STATE == 1 && w.raw SEC_LOAD_GO == 1)
  else if w.reg = SEC_ATT then s.inWindow w SEC_ATT_ADDR && s.within w SEC_ATT_KIND 0 1 && !(s.flag SEC_ATT_GO && w.raw SEC_ATT_GO == 1)
  else true

/-- May a perturbation of this kind be written (R495)? -/
def State.inScope (s : State) (kind : Nat) : Bool := bit (s.fget JIB_STAT_SCOPE) kind

/-- The registers of the JIB_ block (R493, R495 to R497). -/
def State.jibLegal (s : State) (w : RegWrite) : Bool :=
  if w.reg = JIB_UNLOCK then s.inWindow w JIB_UNLOCK_ADDR && !(s.fget JIB_STAT_PSTATE == 1 && w.raw JIB_UNLOCK_GO == 1)
  else if w.reg = JIB_CTRL then
    let q := s.merged w JIB_CTRL_BP_QUEUE
    (!w.covers JIB_CTRL_BP_QUEUE || decide (q ≤ 10) || q == 16 || q == 31) && (s.merged w JIB_CTRL_D2D_8NS == 0 || s.inScope 0) &&
      (s.merged w JIB_CTRL_BP_HOLD == 0 || s.inScope 2) && (s.merged w JIB_CTRL_JITTER_US == 0 || s.inScope 3)
  else if w.reg = JIB_FAB then s.merged w JIB_FAB_FAB_NS == 0 || s.inScope 1
  else if w.reg = JIB_INJ then
    let kind := s.merged w JIB_INJ_KIND
    (!w.covers JIB_INJ_KIND || injLegal (s.fget JIB_STAT_SCOPE) kind (s.merged w JIB_INJ_K) (s.merged w JIB_INJ_HOLD_US) (s.merged w JIB_INJ_TARGET)) &&
      (kind != 7 || s.merged w JIB_INJ_HOLD_US != 0) && targetLegal kind (s.merged w JIB_INJ_TARGET) && !(s.flag JIB_STAT_ARMED && w.raw JIB_INJ_ARM == 1)
  else true

/-- The registers of a region block. -/
def State.regionLegal (s : State) (w : RegWrite) (r : Nat) : Bool :=
  if w.reg = ABC_TABLE r then s.within w (ABC_TABLE_COUNT r) 0 8192
  else if w.reg = ABC_LOSS r then
    let e := sext 8 (s.merged w (ABC_LOSS_EXP r))
    let lo := sext 8 (s.merged w (ABC_LOSS_MIN_EXP r))
    let hi := sext 8 (s.merged w (ABC_LOSS_MAX_EXP r))
    decide (-126 ≤ lo) && decide (lo ≤ e) && decide (e ≤ hi) && decide (hi ≤ 126)
  else if w.reg = YOY_TABLE r then s.within w (YOY_TABLE_ENTRIES r) 0 65536
  else if w.reg = RGN_CHK_CTRL r then
    s.within w (RGN_CHK_CTRL_INTERVAL_MIN r) 5 240 && s.within w (RGN_CHK_CTRL_ABC_RATE r) 4 8 && s.within w (RGN_CHK_CTRL_VEC_RATE r) 4 8 &&
      s.within w (RGN_CHK_CTRL_MAT_RATE r) 4 8
  else if w.reg = MEM_SCRUB r then s.within w (MEM_SCRUB_PACE_H r) 1 12
  else if w.reg = MEM_RECAL r then s.within w (MEM_RECAL_DELTA_C r) 1 31 && s.within w (MEM_RECAL_INTERVAL_S r) 1 255
  else true

/-- Is the write free of reserved encodings (R16)? -/
def State.legal (s : State) (w : RegWrite) : Bool :=
  let a := w.reg
  if a < 0xF0000010000 then s.hubLegal w
  else if a < 0xF0000020000 then s.beatLegal w ((a - 0xF0000010000) / 0x1000)
  else if a < 0xF0000030000 then s.pwrLegal w
  else if a < 0xF0000040000 then s.secLegal w
  else if 0xF0000060000 ≤ a ∧ a < 0xF0000070000 then s.jibLegal w
  else if a = GLK_CTRL then s.within w GLK_CTRL_TIMEOUT_US 10 65535 && s.within w GLK_CTRL_FETCH_WAYS 1 15 && s.within w GLK_CTRL_MIN_LANES 8 16
  else if a = GLK_RECAL then s.within w GLK_RECAL_INTERVAL_S 1 255
  else if a = FAB_TOPO then s.within w FAB_TOPO_NAXES 0 4
  else if a = FAB_RECAL then s.within w FAB_RECAL_ERR_LOG2 0 40 && s.within w FAB_RECAL_INTERVAL_S 1 255
  else if 0xF00000C0000 ≤ a ∧ a < 0xF00000C4000 then
    let p := (a - 0xF00000C0000) / 0x1000
    a != TCN_GTABLE p || s.within w (TCN_GTABLE_COUNT p) 0 256
  else match regRegion a with
    | some (r, _) => s.regionLegal w r
    | none => true

/-! ### Writes at a time when the register may not be written -/

/-- The set-up registers of a partition that may not be written while it is starting, running or stopping (R48, R76, R105, HUB_PART_SEED). -/
def setUpRegs (p : Nat) : List Nat :=
  [HUB_PART_PTBASE p, HUB_PART_SEED p, BEAT_CTRL p, BEAT_PERIOD p, BEAT_GUARD p, BEAT_START p, BEAT_DOMAIN p, TCN_GTABLE p]

/-- The registers of Abacus that hold state of the partition, in its lead region. -/
def abacusRegs (r : Nat) : List Nat := [ABC_TABLE r, ABC_STEP r, ABC_LOSS r]

/-- The registers of Yoyo that may be written only while the partition is stopped (R278). -/
def yoyoRegs (r : Nat) : List Nat := [YOY_POOL r, YOY_SPILL r, YOY_TABLE r, YOY_MAP r]

/-- Is a write of the register discarded at this time (R82, R105, R278, R354, 10 "Registers", 16 "Registers")? -/
def State.untimely (s : State) (w : RegWrite) : Bool :=
  let a := w.reg
  let o := a - regBase
  if 0x1000 ≤ o ∧ o < 0x3000 then
    let n := (o - 0x1000) / 0x20
    [HUB_RING_SQ n, HUB_RING_CQ n, HUB_RING_CFG n].contains a && s.ringState n != 0
  else if [FAB_NODE, FAB_TOPO, FAB_AXIS].contains a || (List.range 18).any fun p => a == FAB_PORT_CFG p then s.anyActive
  else if a = GLK_CTRL then w.covers GLK_CTRL_FETCH_WAYS && s.anyActive
  else match regRegion a with
    | some (r, _) =>
      let p := s.regionPart r
      ((abacusRegs r).contains a && (s.active p || r != s.lead p)) || ((yoyoRegs r).contains a && s.pstate p != 1)
    | none => allParts.any fun p => (setUpRegs p).contains a && s.active p

/-! ### What a write does -/

/-- A field takes what is written to it (R17): nothing where it is not covered, read only, or starts an action. -/
def State.writeField (s : State) (w : RegWrite) (f : Fld) : State :=
  if w.covers f = false then s
  else match f.acc with
    | .rw => s.fset f (s.merged w f)
    | .rwb => s.stage f (s.merged w f)
    | .w1c => s.fset f (s.fget f &&& (2 ^ f.width - 1 - w.raw f))
    | _ => s

/-- The fields of the register take what is written. -/
def State.writeFields (s : State) (w : RegWrite) : State := s.each (fieldsAt w.reg) fun s f => s.writeField w f

/-- The whole register as the write leaves it. -/
def State.mergedWord (s : State) (w : RegWrite) : Nat := (fieldsAt w.reg).foldl (fun n f => n + s.merged w f * 2 ^ f.lsb) 0

/-- A ring's set-up registers: the owner is fixed in layouts 4 and 5 (R77); an ENABLE is judged now when no partition that governs it runs,
else at its boundary (R22, R80). -/
def State.writeRing (s : State) (w : RegWrite) (n : Nat) : State :=
  if w.reg = HUB_RING_CFG n ∧ 4 ≤ s.layout then s.writeField w (HUB_RING_CFG_VECTOR n)
  else if w.reg = HUB_RING_CTRL n then
    let v := s.merged w (HUB_RING_CTRL_ENABLE n)
    if w.covers (HUB_RING_CTRL_ENABLE n) = false then s.writeField w (HUB_RING_CTRL_WEIGHT n)
    else if s.governed w.reg then (s.writeField w (HUB_RING_CTRL_WEIGHT n)).stage (HUB_RING_CTRL_ENABLE n) v
    else if v = 1 ∧ 2 ≤ s.ringState n then s.applyEnable n v
    else (s.writeField w (HUB_RING_CTRL_WEIGHT n)).applyEnable n v
  else s.writeFields w

/-- The registers of the hub block. -/
def State.writeHub (s : State) (w : RegWrite) : State :=
  let o := w.reg - regBase
  let p := o % 0x20 / 8
  if 0x1000 ≤ o ∧ o < 0x3000 then s.writeRing w ((o - 0x1000) / 0x20)
  else if w.reg = HUB_RESYNC then (if w.covers HUB_RESYNC_DEST then hubResync (w.raw HUB_RESYNC_DEST * 4096) s else s)
  else if w.reg = HUB_PART_CTRL p ∧ p < 4 then
    match w.raw (HUB_PART_CTRL_CMD p) with
    | 1 => start p [] s
    | 2 => clear p s
    | _ => s
  else if w.reg = HUB_PART_CTX p ∧ p < 4 then
    if w.raw (HUB_PART_CTX_CMD p) = 0 then s.writeFields w
    else s.ctxBegin p (w.raw (HUB_PART_CTX_CMD p)) (s.merged w (HUB_PART_CTX_ADDR p) * 4096)
  else if w.reg = HUB_SEAL p ∧ p < 4 then sealCandidate p (s.mergedWord w) s
  else s.writeFields w

/-- GLK_CTRL: lines beyond the new FETCH_WAYS leave the link cache (R404), and RETRAIN starts a retrain (R396). -/
def State.writeGlkCtrl (s : State) (w : RegWrite) : State :=
  let s := s.writeFields w
  let s := s.updGlk fun g => { g with shared := g.shared.take s.fetchLines }
  if w.raw GLK_CTRL_RETRAIN = 1 then glkRetrainNow s else s

/-- The registers of the SEC_ block (R478, R482). -/
def State.writeSec (s : State) (w : RegWrite) : State :=
  let t := s.writeFields w
  if w.reg = SEC_LOAD ∧ w.raw SEC_LOAD_GO = 1 then objectPresent t
  else if w.reg = SEC_ATT ∧ w.raw SEC_ATT_GO = 1 then (if t.fget SEC_ATT_KIND = 0 then attestationReport t else certificates t)
  else t

/-- The registers of the JIB_ block (R493, R494, R497). -/
def State.writeJib (s : State) (w : RegWrite) : State :=
  let t := s.writeFields w
  if w.reg = JIB_UNLOCK then
    let t := if w.raw JIB_UNLOCK_LOCK = 1 then lock t else t
    if w.raw JIB_UNLOCK_GO = 1 then tokenPresent t else t
  else if w.reg = JIB_INJ ∧ w.raw JIB_INJ_ARM = 1 then injectionArm t
  else t

/-- A mailbox page: MBX_TX sends a word; a 32-bit write sends one whose other half is zero (R445). -/
def State.writeMbx (s : State) (w : RegWrite) (c : Nat) : State := if w.reg = MBX_TX c then mbxTx c w.value s else s.writeFields w

/-- A doorbell page (R83, R99): its two doorbells, and the ring's status register. -/
def State.writeDoorbell (s : State) (w : RegWrite) (n : Nat) : State :=
  if w.reg = HUB_RING_DB n then (if w.covers (HUB_RING_DB_TAIL n) then doorbell n w.value s else s)
  else if w.reg = HUB_RING_CQDB n then (if w.covers (HUB_RING_CQDB_HEAD n) then completionHead n w.value s else s)
  else s.writeFields w

/-- A region block: a write of Yoyo's set-up makes its state that of the new registers (R278). -/
def State.writeRegion (s : State) (w : RegWrite) (r : Nat) : State :=
  let t := s.writeFields w
  if (yoyoRegs r).contains w.reg then t.updRegion r fun q => { q with yoyoDirty := true } else t

/-- FAB_NODE, FAB_TOPO or FAB_AXIS: ports in NO_ID whose conditions no longer hold begin to train, and ports that train under them wait in
NO_ID (R354). -/
def State.writeFabric (s : State) (w : RegWrite) : State :=
  (s.writeFields w).each (List.range 18) fun s p =>
    let st := s.fget (FAB_PORT_STAT_STATE p)
    if s.noId (s.fget (FAB_PORT_CFG_ROLE p)) ∧ (st = 4 ∨ st = 5) then s.fset (FAB_PORT_STAT_STATE p) 6
    else if st = 1 ∨ st = 6 then s.fset (FAB_PORT_STAT_STATE p) (if s.noId (s.fget (FAB_PORT_CFG_ROLE p)) then 6 else 1) else s

/-- A write that is not discarded takes effect. -/
def State.writeTaken (s : State) (w : RegWrite) : State :=
  let a := w.reg
  if a < 0xF0000010000 then s.writeHub w
  else if a < 0xF0000020000 then
    let p := (a - 0xF0000010000) / 0x1000
    if a = BEAT_STOP p then beatStop p (s.merged w (BEAT_STOP_AT p)) s else s.writeFields w
  else if a < 0xF0000030000 then s.writeFields w
  else if a < 0xF0000040000 then s.writeSec w
  else if a < 0xF0000050000 then
    let s := s.writeFields w
    if a = EVR_CTRL ∧ w.raw EVR_CTRL_CLEAR = 1 then evrClear s else s
  else if a < 0xF0000060000 then s.writeMbx w ((a - 0xF0000050000) / 0x100)
  else if a < 0xF0000070000 then s.writeJib w
  else if a = GLK_CTRL then s.writeGlkCtrl w
  else if a < 0xF0000080000 then s.writeFields w
  else if a < 0xF00000A4000 ∧ a = FAB_PORT_CFG ((a - 0xF0000080000) / 0x2000) then fabPortCfg ((a - 0xF0000080000) / 0x2000) (s.mergedWord w) s
  else if a = FAB_NODE ∨ a = FAB_TOPO ∨ a = FAB_AXIS then s.writeFabric w
  else if 0xF0000100000 ≤ a ∧ a < 0xF0000200000 then s.writeDoorbell w ((a - 0xF0000100000) / 0x1000)
  else match regRegion a with
    | some (r, _) => s.writeRegion w r
    | none => s.writeFields w

/-- A note REG_DISCARD that the write itself caused holds the value written (R499). -/
def State.logWritten (s : State) (before : Nat) (w : RegWrite) : State :=
  { s with recs := s.recs.zipIdx.map fun x =>
      if before ≤ x.2 ∧ x.1.note ∧ x.1.code = 1 ∧ x.1.addr = w.reg then { x.1 with log := w.value } else x.1 }

/-- A write of a register that no rule refuses: discarded in full and recorded, or in effect (R14 to R17). -/
def State.regStore (s : State) (w : RegWrite) : State :=
  if s.untimely w || !s.legal w then s.noteDiscard w.reg w.value
  else
    let n := s.recs.length
    let t := s.writeTaken w
    if t.recs.length = n + 1 then t.logWritten n w else t

/-- A companion write of `size` bytes to register space: the state after it, and the reason of its error reply. -/
def State.regWrite (s : State) (a size value : Nat) : State × Option Nat :=
  match s.regError a size true with
  | some e => (s.regFailed a e, some e.1)
  | none => if inEvrWindow a then (s, none) else (s.regStore (.of a size value), none)

/-- REG_WRITE: a register write that no other command names (R14 to R17). -/
def execRegWrite (addr size value : Nat) (s : State) : Host.Outcome State Fault Refusal := .next (s.regWrite addr size value).1

end Sys2Proof.Machine
end

