-- ==== Sys2Proof/Machine/Companion.lean ====
section
/-! DEFINITION. The companion's reads and writes over GlaetLink: DRAM, the SRAM windows and register space (R40, R41, R192, R407 to R410), and
the end of a Carousel handover, which performs the accesses that it held (R40, R312). -/
namespace Sys2Proof.Machine

/-! ## Answers (R399) -/

/-- A read is answered with its data. -/
def State.answerData (s : State) (tag : Nat) (data : List Byte) : State := s.glkPut { GlkMsg.bare 3 0 tag with data := data }

/-- A write is answered with WR_ACK. -/
def State.answerAck (s : State) (tag : Nat) : State := s.glkPut (GlkMsg.bare 2 0 tag)

/-- An access is answered with ERR and a reason of R410. -/
def State.answerErr (s : State) (tag reason : Nat) : State := s.glkPut { GlkMsg.bare 2 2 tag with arg := reason }

/-! ## Which memory accesses fail -/

/-- Memory accesses are 8 to 128 bytes wide and naturally aligned (R407). -/
def memSizeOk (a size : Nat) : Bool := [8, 16, 32, 64, 128].contains size && a % size == 0

/-- The reason with which a companion access to memory fails before it reads or writes anything (R410), and whether it is recorded. -/
def State.memError (s : State) (a size : Nat) (write : Bool) : Option (Nat × Bool) :=
  let busy := if write then s.windowBusy a else none
  if s.fatal then some (5, false)
  else match target a with
    | .unmapped | .companion | .registers => some (1, true)
    | .dram => if memSizeOk a size = false then some (3, true) else if s.dramRefuses a then some (4, false) else none
    | .coreStore r _ | .accStore r _ | .ccImem r _ | .ccDmem r _ | .regionBuf r =>
      if memSizeOk a size = false then some (3, true) else if s.regionRefuses r true then some (4, false) else busy

/-! ## Accesses -/

/-- An uncorrectable word of an SRAM window that a read of the range meets. -/
def wordStruck (u : ReadUpset) (a size : Nat) : Option Nat :=
  (u.find? fun x => decide (sramBase ≤ x.1) && decide (a ≤ x.1) && decide (x.1 < a + size) && !x.2.isEmpty).map (·.1)

/-- A read that the companion has sent is performed and answered (R407, R331). -/
def State.serveRead (s : State) (tag a size : Nat) (phys : ReadUpset) : State :=
  if target a = .registers then
    match s.regError a size false with
    | some e => (s.regFailed a e).answerErr tag e.1
    | none => s.answerData tag (s.regBytes a size)
  else match s.memError a size false with
    | some e => (s.regFailed a e).answerErr tag e.1
    | none =>
      match wordStruck phys a size with
      | some w => (s.raise (s.regionPart ((a - sramBase) / 0x40000000)) .storeUncorr { unit := (s.accessUnit w).1, addr := w }).answerErr tag 6
      | none =>
        let x := (s.strike phys).readRanges [(a, size)]
        if x.2 then x.1.answerData tag (x.1.windowLoad a size) else x.1.answerErr tag 6

/-- A write that the companion has sent is performed and answered; one that covers part of an uncorrectable sector writes nothing
(R329, R331, R407). -/
def State.serveWrite (s : State) (tag a : Nat) (data : List Byte) (phys : ReadUpset) : State :=
  if target a = .registers then
    let x := s.regWrite a data.length (leNat data)
    match x.2 with
    | some r => x.1.answerErr tag r
    | none => x.1.answerAck tag
  else match s.memError a data.length true with
    | some e => (s.regFailed a e).answerErr tag e.1
    | none =>
      let x := (s.strike phys).writeRange a data.length
      match x.2 with
      | some sec => (x.1.raise (partOfDram x.1.layout sec) .memUncorr (x.1.uncorrCause sec)).answerErr tag 6
      | none => (x.1.store a data .resync).answerAck tag

/-- An access is performed, and its receive buffers are free. -/
def State.servePark (s : State) (x : Parked) : State :=
  match x.data with
  | some d => ((s.glkFree 0).glkFree 3).serveWrite x.tag x.addr d x.phys
  | none => (s.glkFree 0).serveRead x.tag x.addr x.size x.phys

/-- An access is performed, or its slot's handover holds it (R40). -/
def State.serveOrPark (s : State) (x : Parked) : State :=
  if s.fatal = false ∧ s.inHandover x.addr then s.updGlk fun g => { g with parked := g.parked ++ [x] } else s.servePark x

/-- An access of the companion is taken, after the snoops and accesses sent before it (R406). -/
def State.takeAccess (s : State) (x : Parked) : State := if s.glk.behindSnoop then s.keepLate (.access x) else s.serveOrPark x

/-- Messages that their order kept back are performed, in order, as far as they may be (R406). -/
def State.latesGo (s : State) : State :=
  s.glk.late.foldl
    (fun s m =>
      let keep := s.keepLate m
      if s.glk.behindSnoop then keep
      else match m with
        | .db n v => if s.glk.writeWaits then keep else s.takeDoorbell n v
        | .word c w => s.takeWord c w
        | .access x => s.serveOrPark x)
    (s.updGlk fun g => { g with late := [] })

/-- GLK_CREDIT_RETURN: replay entries are freed, credits come back, waiting messages leave, and what waited for a snoop's answer is performed
(R401, R406). -/
def glkCreditReturn (ack cls n : Nat) (s : State) : State :=
  if s.glkUp = false then s
  else
    ((s.updGlk fun g => { g.acked ack with credits := mset g.credits cls (mgetD g.credits cls 0 + n) }).glkDrain).latesGo

/-- GLK_CREDIT_RETURN (R401). -/
def execGlkCreditReturn (ack cls n : Nat) (s : State) : Host.Outcome State Fault Refusal := .next (glkCreditReturn ack cls n s)

/-- GLK_RD: a REQ RD of the companion; a slot in a handover holds it, and its receive buffer with it (R40, R401). Physical errors strike the
sectors that it names. -/
def glkRd (tag a size : Nat) (phys : ReadUpset) (h : GlkHead) (s : State) : State :=
  s.glkIn h 1 (!h.rsv && decide (h.size ≤ 5)) fun s =>
    s.takeAccess ⟨tag, a, size, none, phys⟩

/-- GLK_RD (R407). -/
def execGlkRd (tag addr size : Nat) (phys : ReadUpset) (h : GlkHead) (s : State) : Host.Outcome State Fault Refusal :=
  .next (glkRd tag addr size phys h s)

/-- GLK_WR: a REQ WR of the companion with its DATA, whose SIZE the header here gives; a slot in a handover holds it, and its receive buffers
with it (R40, R401). -/
def glkWr (tag a : Nat) (data : List Byte) (phys : ReadUpset) (h : GlkHead) (s : State) : State :=
  s.glkIn h (1 + slotsOf data.length) (headFits h data.length) fun s =>
    s.takeAccess ⟨tag, a, data.length, some data, phys⟩

/-- GLK_WR (R407). -/
def execGlkWr (tag addr : Nat) (data : List Byte) (phys : ReadUpset) (h : GlkHead) (s : State) : Host.Outcome State Fault Refusal :=
  .next (glkWr tag addr data phys h s)

/-! ## What a handover held (R40) -/

/-- The accesses held for slot `k` of region `r` are performed, in order. -/
def State.unpark (s : State) (r k : Nat) : State :=
  let mine := s.glk.parked.filter fun x => slotAt x.addr == some (r, k)
  let s := s.updGlk fun g => { g with parked := g.parked.filter fun x => slotAt x.addr != some (r, k) }
  if s.glkUp then (s.each mine State.servePark).glkUndefer.latesGo else s

/-- HANDOVER_END: the slot has its holder again, and the companion's accesses to it go on (R40, R312). -/
def handoverOver (r : Nat) (ok : Bool) (s : State) : State :=
  match (s.region r).handover with
  | none => s
  | some k => (handoverEnd r ok s).unpark r k

/-- HANDOVER_END (R312). -/
def execHandoverEnd (r : Fin 4) (ok : Bool) (s : State) : Host.Outcome State Fault Refusal := .next (handoverOver r ok s)

end Sys2Proof.Machine
end

