-- ==== Sys2Proof/Machine/Tap.lean ====
section
/-! DEFINITION. The test access port (R491). -/
namespace Sys2Proof.Machine

/-- Does an instruction take effect only while RESET_N is low? -/
def TapInst.gated : TapInst → Bool
  | .extest | .clamp | .highz | .extestPulse | .extestTrain => true
  | _ => false

/-- The instruction in effect: a gated one acts as BYPASS while RESET_N is high. -/
def State.tapActs (s : State) : TapInst := if s.tap.inst.gated && !s.sec.resetLow then .bypass else s.tap.inst

/-- The IDCODE word: version, part number, Ondinar's JEP106 identity and 1. -/
def idcode : Nat := 0x1 * 2 ^ 28 + 0x4C96 * 2 ^ 12 + 1 + Config.jep106.toNat * 2

/-- The bits of a word, the lowest first. -/
def wordBits (n w : Nat) : List Bool := (List.range w).map (bit n)

/-- An instruction becomes the port's, and TDO shifts out `dr`. -/
def State.tapTo (s : State) (i : TapInst) (dr : List Bool) : State := { s with tap := { s.tap with inst := i, dr := dr } }

/-- An instruction that drives the boundary cells: in effect only while RESET_N is low, otherwise it acts as BYPASS. `pins` are what the
cells capture; `drive` what they are given to drive. -/
def State.tapDrive (s : State) (i : TapInst) (pins drive : List Bool) : State :=
  if s.sec.resetLow then { s with tap := ⟨i, drive, pins⟩ } else s.tapTo i [false]

/-- BYPASS (R491). -/
def execBypass (s : State) : Host.Outcome State Fault Refusal := .next (s.tapTo .bypass [false])

/-- IDCODE (R491). -/
def execIdcode (s : State) : Host.Outcome State Fault Refusal := .next (s.tapTo .idcode (wordBits idcode 32))

/-- SAMPLE_PRELOAD: the cells capture the signals, and take the values to drive later, without touching a pin (R491). -/
def execSamplePreload (pins load : List Bool) (s : State) : Host.Outcome State Fault Refusal := .next { s with tap := ⟨.sample, load, pins⟩ }

/-- EXTEST (R491). -/
def execExtest (pins load : List Bool) (s : State) : Host.Outcome State Fault Refusal := .next (s.tapDrive .extest pins load)

/-- CLAMP: the cells drive what they hold, and the bypass register is selected (R491). -/
def execClamp (s : State) : Host.Outcome State Fault Refusal := .next (s.tapTo .clamp [false])

/-- HIGHZ: the outputs float, and the bypass register is selected (R491). -/
def execHighz (s : State) : Host.Outcome State Fault Refusal := .next (s.tapTo .highz [false])

/-- EXTEST_PULSE (R491). -/
def execExtestPulse (pins load : List Bool) (s : State) : Host.Outcome State Fault Refusal := .next (s.tapDrive .extestPulse pins load)

/-- EXTEST_TRAIN (R491). -/
def execExtestTrain (pins load : List Bool) (s : State) : Host.Outcome State Fault Refusal := .next (s.tapDrive .extestTrain pins load)

/-- TAP_RESET: TRST_N selects IDCODE (R491; log entry 10). -/
def execTapReset (s : State) : Host.Outcome State Fault Refusal := .next { s with tap := { s.tap with inst := .idcode, dr := wordBits idcode 32 } }

end Sys2Proof.Machine
end

