-- ==== Sys2Proof/Machine/VectorOps.lean ====
section
/-! DEFINITION. The instructions of vector programs, one meaning each (R217 to R230). -/
namespace Sys2Proof.Machine

/-- ADD (R217). -/
def execAdd (r : Fin 4) (k : Fin 40) (chk : Option VecMiss) (s : State) : Host.Outcome State Fault Refusal :=
  .next (s.vecStep r k 0x01 chk (vecLanes (lane2 fadd32)))

/-- SUB (R217). -/
def execSub (r : Fin 4) (k : Fin 40) (chk : Option VecMiss) (s : State) : Host.Outcome State Fault Refusal :=
  .next (s.vecStep r k 0x02 chk (vecLanes (lane2 fsub32)))

/-- MUL (R217). -/
def execMul (r : Fin 4) (k : Fin 40) (chk : Option VecMiss) (s : State) : Host.Outcome State Fault Refusal :=
  .next (s.vecStep r k 0x03 chk (vecLanes (lane2 fmul32)))

/-- FMA (R217). -/
def execFma (r : Fin 4) (k : Fin 40) (chk : Option VecMiss) (s : State) : Host.Outcome State Fault Refusal :=
  .next (s.vecStep r k 0x04 chk (vecLanes ffma32))

/-- MAX (R217). -/
def execMax (r : Fin 4) (k : Fin 40) (chk : Option VecMiss) (s : State) : Host.Outcome State Fault Refusal :=
  .next (s.vecStep r k 0x05 chk (vecLanes (lane2 fmax32)))

/-- MIN (R217). -/
def execMin (r : Fin 4) (k : Fin 40) (chk : Option VecMiss) (s : State) : Host.Outcome State Fault Refusal :=
  .next (s.vecStep r k 0x06 chk (vecLanes (lane2 fmin32)))

/-- ABS (R217). -/
def execAbs (r : Fin 4) (k : Fin 40) (chk : Option VecMiss) (s : State) : Host.Outcome State Fault Refusal :=
  .next (s.vecStep r k 0x07 chk (vecLanes (lane1 fabs32)))

/-- NEG (R217). -/
def execNeg (r : Fin 4) (k : Fin 40) (chk : Option VecMiss) (s : State) : Host.Outcome State Fault Refusal :=
  .next (s.vecStep r k 0x08 chk (vecLanes (lane1 fneg32)))

/-- DIV (R217). -/
def execDiv (r : Fin 4) (k : Fin 40) (chk : Option VecMiss) (s : State) : Host.Outcome State Fault Refusal :=
  .next (s.vecStep r k 0x09 chk (vecLanes (lane2 fdiv32)))

/-- SQRT (R217). -/
def execSqrt (r : Fin 4) (k : Fin 40) (chk : Option VecMiss) (s : State) : Host.Outcome State Fault Refusal :=
  .next (s.vecStep r k 0x0A chk (vecLanes (lane1 fsqrt32)))

/-- RSQRT (R218). -/
def execRsqrt (r : Fin 4) (k : Fin 40) (chk : Option VecMiss) (s : State) : Host.Outcome State Fault Refusal :=
  .next (s.vecStep r k 0x0B chk (vecLanes (lane1 vRsqrt)))

/-- RECIP (R217). -/
def execRecip (r : Fin 4) (k : Fin 40) (chk : Option VecMiss) (s : State) : Host.Outcome State Fault Refusal :=
  .next (s.vecStep r k 0x0C chk (vecLanes (lane1 (fdiv32 one32))))

/-- EXP (R218). -/
def execExp (r : Fin 4) (k : Fin 40) (chk : Option VecMiss) (s : State) : Host.Outcome State Fault Refusal :=
  .next (s.vecStep r k 0x0D chk (vecLanes (lane1 vExp)))

/-- LOG (R218). -/
def execLog (r : Fin 4) (k : Fin 40) (chk : Option VecMiss) (s : State) : Host.Outcome State Fault Refusal :=
  .next (s.vecStep r k 0x0E chk (vecLanes (lane1 vLog)))

/-- TANH (R218). -/
def execTanh (r : Fin 4) (k : Fin 40) (chk : Option VecMiss) (s : State) : Host.Outcome State Fault Refusal :=
  .next (s.vecStep r k 0x0F chk (vecLanes (lane1 vTanh)))

/-- SIGM (R218). -/
def execSigm (r : Fin 4) (k : Fin 40) (chk : Option VecMiss) (s : State) : Host.Outcome State Fault Refusal :=
  .next (s.vecStep r k 0x10 chk (vecLanes (lane1 vSigm)))

/-- GELU (R218). -/
def execGelu (r : Fin 4) (k : Fin 40) (chk : Option VecMiss) (s : State) : Host.Outcome State Fault Refusal :=
  .next (s.vecStep r k 0x11 chk (vecLanes (lane1 (fnGated fnEpGelu))))

/-- SILU (R218). -/
def execSilu (r : Fin 4) (k : Fin 40) (chk : Option VecMiss) (s : State) : Host.Outcome State Fault Refusal :=
  .next (s.vecStep r k 0x12 chk (vecLanes (lane1 (fnGated fnEpSilu))))

/-- CMPEQ (R217). -/
def execCmpeq (r : Fin 4) (k : Fin 40) (chk : Option VecMiss) (s : State) : Host.Outcome State Fault Refusal :=
  .next (s.vecStep r k 0x13 chk (vecLanes (lane2 (vCmp Val.eqv))))

/-- CMPLT (R217). -/
def execCmplt (r : Fin 4) (k : Fin 40) (chk : Option VecMiss) (s : State) : Host.Outcome State Fault Refusal :=
  .next (s.vecStep r k 0x14 chk (vecLanes (lane2 (vCmp Val.lt))))

/-- CMPLE (R217). -/
def execCmple (r : Fin 4) (k : Fin 40) (chk : Option VecMiss) (s : State) : Host.Outcome State Fault Refusal :=
  .next (s.vecStep r k 0x15 chk (vecLanes (lane2 (vCmp fun a b => a.lt b || a.eqv b))))

/-- SEL (R217). -/
def execSel (r : Fin 4) (k : Fin 40) (chk : Option VecMiss) (s : State) : Host.Outcome State Fault Refusal :=
  .next (s.vecStep r k 0x16 chk (vecLanes (fun a b c => if c = 0 then b else a)))

/-- IADD (R217). -/
def execIadd (r : Fin 4) (k : Fin 40) (chk : Option VecMiss) (s : State) : Host.Outcome State Fault Refusal :=
  .next (s.vecStep r k 0x18 chk (vecLanes (lane2 fun a b => (a + b) % 2 ^ 32)))

/-- IAND (R217). -/
def execIand (r : Fin 4) (k : Fin 40) (chk : Option VecMiss) (s : State) : Host.Outcome State Fault Refusal :=
  .next (s.vecStep r k 0x19 chk (vecLanes (lane2 Nat.land)))

/-- IOR (R217). -/
def execIor (r : Fin 4) (k : Fin 40) (chk : Option VecMiss) (s : State) : Host.Outcome State Fault Refusal :=
  .next (s.vecStep r k 0x1A chk (vecLanes (lane2 Nat.lor)))

/-- IXOR (R217). -/
def execIxor (r : Fin 4) (k : Fin 40) (chk : Option VecMiss) (s : State) : Host.Outcome State Fault Refusal :=
  .next (s.vecStep r k 0x1B chk (vecLanes (lane2 xorN)))

/-- CVTIF (R217). -/
def execCvtif (r : Fin 4) (k : Fin 40) (chk : Option VecMiss) (s : State) : Host.Outcome State Fault Refusal :=
  .next (s.vecStep r k 0x1C chk (vecLanes (lane1 vCvtif)))

/-- CVTFI (R217). -/
def execCvtfi (r : Fin 4) (k : Fin 40) (chk : Option VecMiss) (s : State) : Host.Outcome State Fault Refusal :=
  .next (s.vecStep r k 0x1D chk (vecLanes (lane1 vCvtfi)))

/-- MOV (R217). -/
def execMov (r : Fin 4) (k : Fin 40) (chk : Option VecMiss) (s : State) : Host.Outcome State Fault Refusal :=
  .next (s.vecStep r k 0x20 chk (vecLanes (lane1 id)))

/-- BCAST (R217). -/
def execBcast (r : Fin 4) (k : Fin 40) (chk : Option VecMiss) (s : State) : Host.Outcome State Fault Refusal :=
  .next (s.vecStep r k 0x21 chk vecBcast)

/-- TRANS (R217). -/
def execTrans (r : Fin 4) (k : Fin 40) (chk : Option VecMiss) (s : State) : Host.Outcome State Fault Refusal :=
  .next (s.vecStep r k 0x22 chk vecTrans)

/-- IOTA (R217). -/
def execIota (r : Fin 4) (k : Fin 40) (chk : Option VecMiss) (s : State) : Host.Outcome State Fault Refusal :=
  .next (s.vecStep r k 0x23 chk vecIota)

/-- RSUM (R219). -/
def execRsum (r : Fin 4) (k : Fin 40) (chk : Option VecMiss) (s : State) : Host.Outcome State Fault Refusal :=
  .next (s.vecStep r k 0x28 chk (vecReduce sumLeaves 0))

/-- RMAX (R219). -/
def execRmax (r : Fin 4) (k : Fin 40) (chk : Option VecMiss) (s : State) : Host.Outcome State Fault Refusal :=
  .next (s.vecStep r k 0x29 chk (vecReduce (foldMax fmax32) (inf32 true)))

/-- RMIN (R219). -/
def execRmin (r : Fin 4) (k : Fin 40) (chk : Option VecMiss) (s : State) : Host.Outcome State Fault Refusal :=
  .next (s.vecStep r k 0x2A chk (vecReduce (foldMax fmin32) (inf32 false)))

/-- RAMAX (R220). -/
def execRamax (r : Fin 4) (k : Fin 40) (chk : Option VecMiss) (s : State) : Host.Outcome State Fault Refusal :=
  .next (s.vecStep r k 0x2B chk vecArgMax)

/-- RNF (R217). -/
def execRnf (r : Fin 4) (k : Fin 40) (chk : Option VecMiss) (s : State) : Host.Outcome State Fault Refusal :=
  .next (s.vecStep r k 0x2C chk (vecReduce (fun l => some (l.filter fun x => !isFin32 x).length) 0))

/-- POST (R222). -/
def execPost (r : Fin 4) (k : Fin 40) (chk : Option VecMiss) (s : State) : Host.Outcome State Fault Refusal :=
  .next (s.vecStep r k 0x2F chk vecPostOp)

/-- LD (R228). -/
def execLd (r : Fin 4) (k : Fin 40) (chk : Option VecMiss) (s : State) : Host.Outcome State Fault Refusal :=
  .next (s.vecStep r k 0x30 chk vecLd)

/-- ST (R228). -/
def execSt (r : Fin 4) (k : Fin 40) (chk : Option VecMiss) (s : State) : Host.Outcome State Fault Refusal :=
  .next (s.vecStep r k 0x31 chk vecSt)

/-- LDH (R230). -/
def execLdh (r : Fin 4) (k : Fin 40) (chk : Option VecMiss) (s : State) : Host.Outcome State Fault Refusal :=
  .next (s.vecStep r k 0x32 chk vecLdh)

end Sys2Proof.Machine
end

