-- ==== Sys2Proof/Machine/Dispatch.lean ====
section
/-! DEFINITION. One arm per command: each calls the one meaning of its command. -/
namespace Sys2Proof.Machine

/-- The effect of a command on everything but the queue of waiting commands. -/
def exec (i : Instr) (s : State) : Host.Outcome State Fault Refusal :=
  match i with
  | .reset warm => Sys2Proof.Machine.execReset warm s
  | .startUp => Sys2Proof.Machine.execStartUp s
  | .bootStageEnd x => Sys2Proof.Machine.execBootStageEnd x s
  | .phaseEnd x => Sys2Proof.Machine.execPhaseEnd x s
  | .selfCheck ok => Sys2Proof.Machine.execSelfCheck ok s
  | .stateBlockWrite how => Sys2Proof.Machine.execStateBlockWrite how s
  | .imageInstall => Sys2Proof.Machine.execImageInstall s
  | .opSecTick fec glkFec => Sys2Proof.Machine.execOpSecTick fec glkFec s
  | .opsecStore => Sys2Proof.Machine.execOpsecStore s
  | .recordMirror ok => Sys2Proof.Machine.execRecordMirror ok s
  | .regWrite addr size value => Sys2Proof.Machine.execRegWrite addr size value s
  | .start p bad => Sys2Proof.Machine.execStart p bad s
  | .clear p => Sys2Proof.Machine.execClear p s
  | .save p addr => Sys2Proof.Machine.execSave p addr s
  | .restore p addr => Sys2Proof.Machine.execRestore p addr s
  | .empty p addr => Sys2Proof.Machine.execEmpty p addr s
  | .contextDone p phys => Sys2Proof.Machine.execContextDone p phys s
  | .doorbell n value => Sys2Proof.Machine.execDoorbell n value s
  | .dbell n value h => Sys2Proof.Machine.execDbell n value h s
  | .completionHeadWrite n value => Sys2Proof.Machine.execCompletionHeadWrite n value s
  | .ringEnable n on => Sys2Proof.Machine.execRingEnable n on s
  | .hubResync dest => Sys2Proof.Machine.execHubResync dest s
  | .resyncSample => Sys2Proof.Machine.execResyncSample s
  | .beatStop p at_ => Sys2Proof.Machine.execBeatStop p at_ s
  | .sealCandidate p value => Sys2Proof.Machine.execSealCandidate p value s
  | .evrClear => Sys2Proof.Machine.execEvrClear s
  | .flashEraseEnd => Sys2Proof.Machine.execFlashEraseEnd s
  | .eraseSectorTimeout => Sys2Proof.Machine.execEraseSectorTimeout s
  | .objectPresent => Sys2Proof.Machine.execObjectPresent s
  | .presentationEnd part kak => Sys2Proof.Machine.execPresentationEnd part kak s
  | .attestationReport => Sys2Proof.Machine.execAttestationReport s
  | .certificates => Sys2Proof.Machine.execCertificates s
  | .reportSigning => Sys2Proof.Machine.execReportSigning s
  | .reportComplete => Sys2Proof.Machine.execReportComplete s
  | .tokenPresent => Sys2Proof.Machine.execTokenPresent s
  | .lock => Sys2Proof.Machine.execLock s
  | .unlockExpiry => Sys2Proof.Machine.execUnlockExpiry s
  | .injectionArm => Sys2Proof.Machine.execInjectionArm s
  | .mbxHoldEnd c => Sys2Proof.Machine.execMbxHoldEnd c s
  | .glkRetrain => Sys2Proof.Machine.execGlkRetrain s
  | .glkRetrainEnd ok => Sys2Proof.Machine.execGlkRetrainEnd ok s
  | .fabPortCfg p value => Sys2Proof.Machine.execFabPortCfg p value s
  | .mbxTx c word => Sys2Proof.Machine.execMbxTx c word s
  | .mboxWord c word h => Sys2Proof.Machine.execMboxWord c word h s
  | .mboxDeliver c => Sys2Proof.Machine.execMboxDeliver c s
  | .wordRemove c dir => Sys2Proof.Machine.execWordRemove c dir s
  | .mbxTimeout c dir => Sys2Proof.Machine.execMbxTimeout c dir s
  | .endpointReset e => Sys2Proof.Machine.execEndpointReset e s
  | .endpointReady e => Sys2Proof.Machine.execEndpointReady e s
  | .glkRd tag addr size phys h => Sys2Proof.Machine.execGlkRd tag addr size phys h s
  | .glkWr tag addr data phys h => Sys2Proof.Machine.execGlkWr tag addr data phys h s
  | .snpInv tag addr h => Sys2Proof.Machine.execSnpInv tag addr h s
  | .glkData tag data phys h => Sys2Proof.Machine.execGlkData tag data phys h s
  | .wrAck tag h => Sys2Proof.Machine.execWrAck tag h s
  | .glkErr tag reason h => Sys2Proof.Machine.execGlkErr tag reason h s
  | .glkTimeout tag => Sys2Proof.Machine.execGlkTimeout tag s
  | .caps data h => Sys2Proof.Machine.execCaps data h s
  | .creditInit lanes credits h => Sys2Proof.Machine.execCreditInit lanes credits h s
  | .downNotice h => Sys2Proof.Machine.execDownNotice h s
  | .echo data h => Sys2Proof.Machine.execEcho data h s
  | .glkTrainingTimeout => Sys2Proof.Machine.execGlkTrainingTimeout s
  | .glkFlitDiscard cause => Sys2Proof.Machine.execGlkFlitDiscard cause s
  | .glkNak ack => Sys2Proof.Machine.execGlkNak ack s
  | .glkLaneRecal lane => Sys2Proof.Machine.execGlkLaneRecal lane s
  | .glkLaneRecalEnd lane ok => Sys2Proof.Machine.execGlkLaneRecalEnd lane ok s
  | .glkLaneLoss lanes => Sys2Proof.Machine.execGlkLaneLoss lanes s
  | .portTrainTimeout p => Sys2Proof.Machine.execPortTrainTimeout p s
  | .lmgmt p m => Sys2Proof.Machine.execLmgmt p m s
  | .dataFlit p f => Sys2Proof.Machine.execDataFlit p f s
  | .dropFlit p f => Sys2Proof.Machine.execDropFlit p f s
  | .replyFlit p f => Sys2Proof.Machine.execReplyFlit p f s
  | .nullFlit p f => Sys2Proof.Machine.execNullFlit p f s
  | .tincanFlit p f w => Sys2Proof.Machine.execTincanFlit p f w s
  | .collReady p f w => Sys2Proof.Machine.execCollReady p f w s
  | .collData p f w => Sys2Proof.Machine.execCollData p f w s
  | .collLanded p f w => Sys2Proof.Machine.execCollLanded p f w s
  | .flitDiscard p c => Sys2Proof.Machine.execFlitDiscard p c s
  | .nak p ack ecc => Sys2Proof.Machine.execNak p ack ecc s
  | .portRetrainEnd p ok => Sys2Proof.Machine.execPortRetrainEnd p ok s
  | .laneLoss p lanes beatLost => Sys2Proof.Machine.execLaneLoss p lanes beatLost s
  | .laneRecalDue p => Sys2Proof.Machine.execLaneRecalDue p s
  | .recalOffer p domain beat lane => Sys2Proof.Machine.execRecalOffer p domain beat lane s
  | .laneRecalEnd p ok => Sys2Proof.Machine.execLaneRecalEnd p ok s
  | .firewallViolation e addr => Sys2Proof.Machine.execFirewallViolation e addr s
  | .engineFail e => Sys2Proof.Machine.execEngineFail e s
  | .engineReady e tempC => Sys2Proof.Machine.execEngineReady e tempC s
  | .join m => Sys2Proof.Machine.execJoin m s
  | .withdraw domain node part => Sys2Proof.Machine.execWithdraw domain node part s
  | .formationTimeout p => Sys2Proof.Machine.execFormationTimeout p s
  | .firstBeat p ann => Sys2Proof.Machine.execFirstBeat p ann s
  | .beatInEdge p => Sys2Proof.Machine.execBeatInEdge p s
  | .beatInMiss p => Sys2Proof.Machine.execBeatInMiss p s
  | .closeDeadline p stalls => Sys2Proof.Machine.execCloseDeadline p stalls s
  | .memberClose p lateNs stalls => Sys2Proof.Machine.execMemberClose p lateNs stalls s
  | .closingToken p tok members atNs => Sys2Proof.Machine.execClosingToken p tok members atNs s
  | .overrunToken p tok => Sys2Proof.Machine.execOverrunToken p tok s
  | .faultToken p org => Sys2Proof.Machine.execFaultToken p org s
  | .stretchLimit p => Sys2Proof.Machine.execStretchLimit p s
  | .stallSymbol p org => Sys2Proof.Machine.execStallSymbol p org s
  | .overrunSymbol p tok => Sys2Proof.Machine.execOverrunSymbol p tok s
  | .symbolTimeout p => Sys2Proof.Machine.execSymbolTimeout p s
  | .boundarySymbol p b => Sys2Proof.Machine.execBoundarySymbol p b s
  | .beatBoundary p counts => Sys2Proof.Machine.execBeatBoundary p counts s
  | .handoverEnd r ok => Sys2Proof.Machine.execHandoverEnd r ok s
  | .rotationDue r => Sys2Proof.Machine.execRotationDue r s
  | .suiteEnd r core outs => Sys2Proof.Machine.execSuiteEnd r core outs s
  | .dupCompare r twin kind wrong => Sys2Proof.Machine.execDupCompare r twin kind wrong s
  | .descFetch n phys => Sys2Proof.Machine.execDescFetch n phys s
  | .descComplete o id => Sys2Proof.Machine.execDescComplete o id s
  | .matrix o u => Sys2Proof.Machine.execMatrix o u s
  | .tilePassEnd r k errs acc => Sys2Proof.Machine.execTilePassEnd r k errs acc s
  | .vector o u => Sys2Proof.Machine.execVector o u s
  | .layout o u => Sys2Proof.Machine.execLayout o u s
  | .norm o u => Sys2Proof.Machine.execNorm o u s
  | .finalise o u => Sys2Proof.Machine.execFinalise o u s
  | .apply o u => Sys2Proof.Machine.execApply o u s
  | .stepEnd o u => Sys2Proof.Machine.execStepEnd o u s
  | .stepStateReady p => Sys2Proof.Machine.execStepStateReady p s
  | .allReduce o phys => Sys2Proof.Machine.execAllReduce o phys s
  | .reduceScatter o phys => Sys2Proof.Machine.execReduceScatter o phys s
  | .allGather o phys => Sys2Proof.Machine.execAllGather o phys s
  | .broadcast o phys => Sys2Proof.Machine.execBroadcast o phys s
  | .allToAll o phys => Sys2Proof.Machine.execAllToAll o phys s
  | .barrier o => Sys2Proof.Machine.execBarrier o s
  | .tincan o phys => Sys2Proof.Machine.execTincan o phys s
  | .fpExchange o phys => Sys2Proof.Machine.execFpExchange o phys s
  | .copy o u bad => Sys2Proof.Machine.execCopy o u bad s
  | .encode o u bad => Sys2Proof.Machine.execEncode o u bad s
  | .decode o u bad => Sys2Proof.Machine.execDecode o u bad s
  | .verify o u bad => Sys2Proof.Machine.execVerify o u bad s
  | .stash o u => Sys2Proof.Machine.execStash o u s
  | .recallOp o u => Sys2Proof.Machine.execRecall o u s
  | .release o u => Sys2Proof.Machine.execRelease o u s
  | .groupRows o u => Sys2Proof.Machine.execGroupRows o u s
  | .snapshot o => Sys2Proof.Machine.execSnapshot o s
  | .chunkLeft p phys => Sys2Proof.Machine.execChunkLeft p phys s
  | .snapshotFinish p => Sys2Proof.Machine.execSnapshotFinish p s
  | .alloc o => Sys2Proof.Machine.execAlloc o s
  | .free o => Sys2Proof.Machine.execFree o s
  | .drop o => Sys2Proof.Machine.execDrop o s
  | .takeNow o => Sys2Proof.Machine.execTakeNow o s
  | .peek o => Sys2Proof.Machine.execPeek o s
  | .rdrop o => Sys2Proof.Machine.execRdrop o s
  | .fence o => Sys2Proof.Machine.execFence o s
  | .programLaunch o => Sys2Proof.Machine.execProgramLaunch o s
  | .resync o => Sys2Proof.Machine.execResync o s
  | .jdrop r k => Sys2Proof.Machine.execJdrop r k s
  | .jtake r k => Sys2Proof.Machine.execJtake r k s
  | .jtry r k => Sys2Proof.Machine.execJtry r k s
  | .jpeek r k => Sys2Proof.Machine.execJpeek r k s
  | .jrdrop r k => Sys2Proof.Machine.execJrdrop r k s
  | .launch r k parityBad => Sys2Proof.Machine.execLaunch r k parityBad s
  | .bwait r k => Sys2Proof.Machine.execBwait r k s
  | .sumrd r k => Sys2Proof.Machine.execSumrd r k s
  | .ecall r k => Sys2Proof.Machine.execEcall r k s
  | .ccTrap r k => Sys2Proof.Machine.execCcTrap r k s
  | .baseInstruction r k => Sys2Proof.Machine.execBaseInstruction r k s
  | .mbxtx r k => Sys2Proof.Machine.execMbxtx r k s
  | .mbxrx r k => Sys2Proof.Machine.execMbxrx r k s
  | .mbxst r k => Sys2Proof.Machine.execMbxst r k s
  | .mbxstClear r k => Sys2Proof.Machine.execMbxstClear r k s
  | .add r k chk => Sys2Proof.Machine.execAdd r k chk s
  | .sub r k chk => Sys2Proof.Machine.execSub r k chk s
  | .mul r k chk => Sys2Proof.Machine.execMul r k chk s
  | .fma r k chk => Sys2Proof.Machine.execFma r k chk s
  | .max r k chk => Sys2Proof.Machine.execMax r k chk s
  | .min r k chk => Sys2Proof.Machine.execMin r k chk s
  | .abs r k chk => Sys2Proof.Machine.execAbs r k chk s
  | .neg r k chk => Sys2Proof.Machine.execNeg r k chk s
  | .div r k chk => Sys2Proof.Machine.execDiv r k chk s
  | .sqrt r k chk => Sys2Proof.Machine.execSqrt r k chk s
  | .rsqrt r k chk => Sys2Proof.Machine.execRsqrt r k chk s
  | .recip r k chk => Sys2Proof.Machine.execRecip r k chk s
  | .exp r k chk => Sys2Proof.Machine.execExp r k chk s
  | .log r k chk => Sys2Proof.Machine.execLog r k chk s
  | .tanh r k chk => Sys2Proof.Machine.execTanh r k chk s
  | .sigm r k chk => Sys2Proof.Machine.execSigm r k chk s
  | .gelu r k chk => Sys2Proof.Machine.execGelu r k chk s
  | .silu r k chk => Sys2Proof.Machine.execSilu r k chk s
  | .cmpeq r k chk => Sys2Proof.Machine.execCmpeq r k chk s
  | .cmplt r k chk => Sys2Proof.Machine.execCmplt r k chk s
  | .cmple r k chk => Sys2Proof.Machine.execCmple r k chk s
  | .sel r k chk => Sys2Proof.Machine.execSel r k chk s
  | .iadd r k chk => Sys2Proof.Machine.execIadd r k chk s
  | .iand r k chk => Sys2Proof.Machine.execIand r k chk s
  | .ior r k chk => Sys2Proof.Machine.execIor r k chk s
  | .ixor r k chk => Sys2Proof.Machine.execIxor r k chk s
  | .cvtif r k chk => Sys2Proof.Machine.execCvtif r k chk s
  | .cvtfi r k chk => Sys2Proof.Machine.execCvtfi r k chk s
  | .mov r k chk => Sys2Proof.Machine.execMov r k chk s
  | .bcast r k chk => Sys2Proof.Machine.execBcast r k chk s
  | .trans r k chk => Sys2Proof.Machine.execTrans r k chk s
  | .iota r k chk => Sys2Proof.Machine.execIota r k chk s
  | .rsum r k chk => Sys2Proof.Machine.execRsum r k chk s
  | .rmax r k chk => Sys2Proof.Machine.execRmax r k chk s
  | .rmin r k chk => Sys2Proof.Machine.execRmin r k chk s
  | .ramax r k chk => Sys2Proof.Machine.execRamax r k chk s
  | .rnf r k chk => Sys2Proof.Machine.execRnf r k chk s
  | .post r k chk => Sys2Proof.Machine.execPost r k chk s
  | .ld r k chk => Sys2Proof.Machine.execLd r k chk s
  | .st r k chk => Sys2Proof.Machine.execSt r k chk s
  | .ldh r k chk => Sys2Proof.Machine.execLdh r k chk s
  | .scrubRead m errs => Sys2Proof.Machine.execScrubRead m errs s
  | .recalDue m => Sys2Proof.Machine.execRecalDue m s
  | .visitStart m => Sys2Proof.Machine.execVisitStart m s
  | .visitEnd m ok spare => Sys2Proof.Machine.execVisitEnd m ok spare s
  | .isolateDie d => Sys2Proof.Machine.execIsolateDie d s
  | .d2dRetry m inRow inSecond => Sys2Proof.Machine.execD2dRetry m inRow inSecond s
  | .moduleRetrainEnd m ok => Sys2Proof.Machine.execModuleRetrainEnd m ok s
  | .railPoll reads act => Sys2Proof.Machine.execRailPoll reads act s
  | .sensorRead dies hub => Sys2Proof.Machine.execSensorRead dies hub s
  | .hbmTempRead temps => Sys2Proof.Machine.execHbmTempRead temps s
  | .droop r cycles => Sys2Proof.Machine.execDroop r cycles s
  | .thermalTrip => Sys2Proof.Machine.execThermalTrip s
  | .bypass => Sys2Proof.Machine.execBypass s
  | .idcode => Sys2Proof.Machine.execIdcode s
  | .samplePreload pins load => Sys2Proof.Machine.execSamplePreload pins load s
  | .extest pins load => Sys2Proof.Machine.execExtest pins load s
  | .clamp => Sys2Proof.Machine.execClamp s
  | .highz => Sys2Proof.Machine.execHighz s
  | .extestPulse pins load => Sys2Proof.Machine.execExtestPulse pins load s
  | .extestTrain pins load => Sys2Proof.Machine.execExtestTrain pins load s
  | .dropCreditReport q node part epoch => Sys2Proof.Machine.execDropCreditReport q node part epoch s
  | .endpointWordSend e c word => Sys2Proof.Machine.execEndpointWordSend e c word s
  | .glkCreditReturn ack cls n => Sys2Proof.Machine.execGlkCreditReturn ack cls n s
  | .tapReset => Sys2Proof.Machine.execTapReset s

end Sys2Proof.Machine
end

