-- ==== Sys2Proof/Safety.lean ====
section
/-! DEFINITION. What a claim means by a safe run, and the words that the claims share. -/
namespace Sys2Proof.Machine

/-- The outcome is a next state: no fault, no refusal. -/
def Runs (o : Host.Outcome State Fault Refusal) : Prop := ∃ t, o = .next t

/-- The memory stands in its canonical form: equal memories are equal data. -/
def Canonical (s : State) : Prop := s.mem.wf = true

/-- The invariant of the block: memory and the store of register fields stand in their canonical forms, and no mailbox queue holds more than its
16 words (R444). -/
structure Inv (s : State) : Prop where
  mem : s.mem.wf = true
  regs : msorted s.regs = true
  boxes : ∀ c d, ((s.chan c).queue d).length ≤ 16

/-- A run of `n` steps. -/
def runSteps : Nat → State → Host.Outcome State Fault Refusal
  | 0, s => .next s
  | n + 1, s =>
    match step s with
    | .next t => runSteps n t
    | o => o

/-- Every byte of memory reads the same in two states. -/
def SameMem (s t : State) : Prop := ∀ a, t.mem.read a = s.mem.read a

/-- Every register field but those named reads the same in two states. -/
def SameRegs (s t : State) (except : List Fld) : Prop := ∀ f : Fld, (∀ e ∈ except, f.key ≠ e.key) → t.fget f = s.fget f

/-- Nothing but GlaetLink and what has been sent differs between two states. -/
def LinkOnly (s t : State) : Prop := t = { s with glk := t.glk, out := t.out }

/-- Nothing but Music Box, with its count of records dropped, and GlaetLink, which carries its interrupts, differs between two states. -/
def NoteOnly (s t : State) : Prop :=
  t = { s with regs := t.regs, recs := t.recs, glk := t.glk, out := t.out } ∧ SameRegs s t [EVR_STAT_DROPPED] ∧ ∃ l, t.recs = s.recs ++ l

/-- The record of an event stands at the end of Music Box, or a full Music Box has only counted it (R437, R438). -/
def Recorded (s t : State) (e : Event) : Prop :=
  if s.evrFull then t.recs = s.recs ∧ t.fget EVR_STAT_DROPPED = satAdd 16 (s.fget EVR_STAT_DROPPED) 1 else t.recs = s.recs ++ [s.recOf e]

/-- No ranges of memory. -/
abbrev noRanges : State → Desc → List (Nat × Nat) := fun _ _ => []

/-- The descriptor `id` of origin `o`, of partition `p`, starts in the state `s` (R91): it is marked as started, with its place among the starts, the step of its partition (R200)
and, where a stop may leave them part written, its outputs. -/
def State.markStarted (s : State) (o : Origin) (p id : Nat) (outs : State → Desc → List (Nat × Nat)) : State :=
  { s with descSeq := s.descSeq + 1 }.updDesc o id fun e =>
    { e with started := true, order := s.descSeq, step := s.stepOf p, outs := if e.noop || !mixesOuts e.raw then [] else outs s e }

/-- The descriptor `d` of origin `o` is the next of those that `is` names, and it works now: its partition runs, it has started and passed the
checks of its class at the start (R91), it is no no-operation, no handover holds a slot that it reads or writes (R40, R312), and all that it
reads is there and good: its companion lines have been delivered, and no sector that it reads is uncorrectable (R331, R404). -/
structure RunsNow (s : State) (o : Origin) (is : Nat → Bool) (ins outs : State → Desc → List (Nat × Nat)) (d : Desc) : Prop where
  running : s.running (s.originPart o) = true
  next : s.nextOf o is = some d
  started : d.started = true
  passed : d.passed = true
  work : d.noop = false
  free : s.handoverMeets (ins s d ++ outs s d) = false
  lines : s.streamReady (ins s d) = true
  good : (s.readFor (s.originPart o) (ins s d)).2 = none

/-- The state in which a descriptor of origin `o` has read its inputs `l`: what the reads corrected is counted, and SRAM that is not mapped is noted
(R328, log entry 79). -/
def State.reading (s : State) (o : Origin) (l : List (Nat × Nat)) : State := ((s.readFor (s.originPart o) l).1).noteReads l

/-- The descriptor `d` of origin `o`, the next of those that `is` names, starts now (R91): its partition runs, its beat has come, and it has taken its
marbles; `t` is the state in which it is marked as started, and `f` the descriptor there. -/
structure StartsNow (s : State) (o : Origin) (is : Nat → Bool) (outs : State → Desc → List (Nat × Nat)) (d : Desc) (t : State) (f : Desc) : Prop where
  running : s.running (s.originPart o) = true
  next : s.nextOf o is = some d
  fresh : d.started = false
  reached : d.eff ≤ s.beat (s.originPart o)
  took : ∃ e, (s.askTake o d).desc? o d.id = some e ∧ e.took = true ∧ t = (s.askTake o d).markStarted o (s.originPart o) d.id outs
  still : (s.askTake o d).running (s.originPart o) = true
  marked : t.desc? o d.id = some f

/-- What an elementwise instruction gives for element `e`: a lane function of the elements of its sources (R212, R214). -/
def laneEl (g : Nat → Nat → Nat → Nat) (v : VecRun) (w e : Nat) : Nat :=
  g (v.el (viA w) e) (v.el (viB w) (if viSb w then 0 else e)) (v.el (viC w) (if viSc w then 0 else e))

/-- The engine of slot Lk of region `r` is at instruction `w` of its descriptor `d`, with the registers and places of `v` (R232). -/
def VectorAt (s : State) (r k : Nat) (d : Desc) (v : VecRun) (w : Nat) : Prop :=
  (s.slot r k).vec = some v ∧ s.desc? v.o v.id = some d ∧ d.extra.getD v.pc 0 = w ∧ s.running (s.originPart v.o) = true

/-- The flit `f` that arrives on fabric port `p` is accepted there, conforming, good and in sequence, and is for this node; `t` is the state with it
acknowledged and its credits taken (R350, R352, R353). -/
structure FlitLands (s t : State) (p : Nat) (f : Flit) : Prop where
  up : s.portUp p = true
  conforms : flitConforms f = true
  numbered : f.typ ≠ 6
  inOrder : f.seq = (s.port p).seqRx
  good : f.ecc = .good
  acked : t = (s.updPort p fun q => { q with seqRx := (q.seqRx + 1) % 4096, nakSent := false }).fabAck p f.ack f.credit f.cvc f.cdl
  mine : f.dstNode = t.node

/-- The GlaetLink message with the header `h` that arrives in `n` slots comes in sequence on a link that is up; `t` is the state with its flit
received and the acknowledgement and credits of that flit taken (R353, R396, R397). -/
structure MsgComes (s t : State) (h : GlkHead) (n : Nat) : Prop where
  up : s.glkUp = true
  inOrder : s.glk.follows h = true
  taken : t = s.glkTake h n

/-- A collective flit at partition `q` is one of the collective `x` that the engine `tc` of the partition runs, and agrees with its group and
its CHECK (R373, R383). -/
structure CollTakes (s : State) (q : Nat) (f : Flit) (tc : Bool) (x : Coll) : Prop where
  running : s.running q = true
  group : ∃ g, (s.part q).coll.groups.findIdx? (fun e => geGid e == cfGid f) = some g ∧ ((s.collDesc q g (cfSeq f)).map fun d => d.work.getD 1 0 != cfCheck f).getD false = false
  engine : if tc then (s.part q).coll.tc = some x ∧ ∀ y, (s.part q).coll.bulk = some y → y.takes f = false else (s.part q).coll.bulk = some x
  takes : x.takes f = true

end Sys2Proof.Machine
end

