-- ==== Sys2Proof/Certificates/Slice0/Obligations.lean ====
section
/-! DEFINITION. The statements of this row: what the commands do, what they leave unchanged, what every step keeps. -/
open Sys2Proof Sys2Proof.Machine


/-- For every command c and state s, the step of s with c at the front of its queue is exec of c on s with the rest of the queue; with no command waiting the step leaves the block as it is (the second clause is the model's choice: log entry 1). (95_what_each_step_holds.md) -/
def Obligations.StepRunsFront : Prop :=
  (∀ (c : Instr) (rest : List Instr) (s : State), step { s with pending := c :: rest } = exec c { s with pending := rest }) ∧
    ∀ s : State, s.pending = [] → step s = .next s

/-- After reset memory lists nothing and is canonical, the register store is in order, no mailbox holds a word, no command waits, nothing has been sent, Music Box holds no record, RESET_N is low, every register field reads its reset value, and every partition and ring is idle. The reset values that the manual leaves open are the model's (log entries 9 and 16). (00_scope.md, 21_bringup_test.md) -/
def Obligations.ResetState : Prop :=
  Inv State.reset ∧ State.reset.pending = [] ∧ State.reset.out = [] ∧ State.reset.recs = [] ∧ State.reset.sec.resetLow = true ∧
    (∀ f : Fld, State.reset.fget f = f.reset) ∧ (∀ p, State.reset.part p = .idle) ∧ ∀ n, State.reset.ring n = .fresh

/-- For every state s with the invariant (memory in its canonical form, the store of register fields in rising order, at most 16 words in each mailbox queue: R444) and every step of it to a state t, t has the invariant. It is stated for all states, not only for those that a run reaches. (13_memory.md, 00_scope.md, 18_recorder_mailboxes.md) -/
def Obligations.StepKeepsInv : Prop :=
  ∀ s t : State, Inv s → step s = .next t → Inv t

/-- For every command c and state s, exec answers a next state t: no command faults or is refused. t has the queue of s; the counter of free values has not fallen, so no free value is drawn twice; and what left the package before is still the beginning of what has left it, so nothing sent is taken back. Where each mailbox queue of s holds at most 16 words, so does each of t (the queues of R444, the admission rule of R445). (95_what_each_step_holds.md, 00_scope.md, 18_recorder_mailboxes.md) -/
def Obligations.StepAlwaysGoesOn : Prop :=
  ∀ (c : Instr) (s : State), ∃ t, exec c s = .next t ∧ t.pending = s.pending ∧ s.freeCtr ≤ t.freeCtr ∧ (∃ l, t.out = s.out ++ l) ∧
    ((∀ b d, ((s.chan b).queue d).length ≤ 16) → ∀ b d, ((t.chan b).queue d).length ≤ 16)

/-- In every state, a run of as many steps as commands wait completes and leaves none waiting; what left the package before it is the beginning of what has left it after. (95_what_each_step_holds.md) -/
def Obligations.QueueDrains : Prop :=
  ∀ s : State, ∃ t, runSteps s.pending.length s = .next t ∧ t.pending = [] ∧ ∃ l, t.out = s.out ++ l

/-- JOIN: while one partition of the device forms in the domain that a join symbol names, and the members that it counts stay fewer than its master expects, the symbol is counted among its joined members (the latest symbol of a member replaces its earlier one), and nothing else changes but that copies of it, and of this member's own join symbol, leave on beat ports. WITHDRAW: when a member that this partition has counted withdraws, the withdrawal is passed on and its formation fails, with the first cause of R55 that the joined members give or else reason 4; a member that counts the domain as formed, before its first beat, fails with reason 7 when its master withdraws and with 4 when another does, unless it is the master, which lets that pass (the model's choice, log entry 73). FORMATION_TIMEOUT: with no member testing, the formation fails with the cause of R55 that holds, and its own withdrawal leaves. A failed formation leaves the partition stopped with that reason, its BEAT_STATE idle, no master, no domain, every byte of memory and every other register as it was. It says of JOIN, WITHDRAW and FORMATION_TIMEOUT that exec answers a next state, the one given, under conditions on the state and the operands alone. (02_beat.md) -/
def Obligations.FormationOutcomes : Prop :=
  (∀ (s : State) (m : JoinMsg) (p : Fin 4) (w : JoinMsg), s.formsWith p m.domain = true → (m.node = s.node → m.part ≠ p) →
      (∀ q : Fin 4, q ≠ p → s.formsWith q m.domain = false) → masterOf (addJoin (s.part p).dom.joined m) = some w →
      (addJoin (s.part p).dom.joined m).length < w.settings.members →
      ∃ l : List Out, (∀ o ∈ l, ∃ q ∈ s.beatPorts, o = .sym q (.join m) ∨ ∃ j, s.sentJoin p = some j ∧ o = .sym q (.join j)) ∧
        exec (.join m) s = .next ({ s with out := s.out ++ l }.updDom p fun d => { d with joined := addJoin d.joined m })) ∧
    (∀ (s : State) (domain node : Nat) (part p : Fin 4), s.fget (BEAT_STATE_STATE p) = 1 → s.domId p = some domain →
      (∃ j ∈ (s.part p).dom.joined, j.node = node ∧ j.part = part) → (∀ q : Fin 4, q ≠ p → s.fget (BEAT_STATE_STATE q) ≠ 1) →
      ((s.part p).dom.formed = false → exec (.withdraw domain node part) s = .next ((s.flood none (.withdraw domain node part)).formFailOne p
        ((formCause (s.part p).dom.joined false (s.isMaster p)).getD 4))) ∧
      ∀ m, (s.part p).dom.formed = true → s.domMaster p = some m →
        (m.node = node → m.part = part → exec (.withdraw domain node part) s = .next ((s.flood none (.withdraw domain node part)).formFailOne p 7)) ∧
        (m.node ≠ node ∨ m.part ≠ part → (m.node ≠ s.node ∨ m.part ≠ p) →
          exec (.withdraw domain node part) s = .next ((s.flood none (.withdraw domain node part)).formFailOne p 4)) ∧
        (m.node ≠ node ∨ m.part ≠ part → m.node = s.node → m.part = p → exec (.withdraw domain node part) s = .next (s.flood none (.withdraw domain node part)))) ∧
    (∀ (s : State) (p : Fin 4) (c : Nat), s.forming p = true → (∀ j ∈ (s.part p).dom.joined, j.testing = false) →
      formCause (s.part p).dom.joined true (s.isMaster p) = some c → exec (.formationTimeout p) s = .next (s.formFail p c)) ∧
    (∀ (s : State) (p : Fin 4) (c d : Nat), s.fget (BEAT_STATE_STATE p) = 1 → s.domId p = some d → (∀ q : Fin 4, q ≠ p → s.fget (BEAT_STATE_STATE q) ≠ 1) →
      s.formFail p c = (s.formFailOne p c).flood none (.withdraw d (s.formFailOne p c).node p)) ∧
    ∀ (s : State) (p : Fin 4) (c : Nat), (s.formFailOne p c).pstate p = 1 ∧ (s.formFailOne p c).fget (HUB_PART_CTRL_REASON p) = c % 256 ∧
      (s.formFailOne p c).fget (BEAT_STATE_STATE p) = 0 ∧ ((s.formFailOne p c).part p).dom = .idle ∧ SameMem s (s.formFailOne p c) ∧
      SameRegs s (s.formFailOne p c) [HUB_PART_CTRL_STATE p, HUB_PART_CTRL_REASON p, BEAT_STATE_STATE p, BEAT_STATE_MASTER p,
        BEAT_DOMAIN_MASTER_NODE p, BEAT_DOMAIN_MASTER_PART p]

/-- FIRST_BEAT, on a partition that is starting, whose collective group table has been read and whose suites have ended, and which forms with the master and in the beat (its BEAT_START, not 0) that the announcement names: BEAT_NOW takes the announced number, the partition is running, its run begins at that beat. The counts that boundaries latch and the power readings of its levels begin anew, BEAT_OUT pulses for partition 0, the schedule unit begins, bad entries of the collective group table are raised, and the rotations of its regions are booked. It says of FIRST_BEAT that exec answers a next state, the one given, under conditions on the state and the operands alone. (02_beat.md, 10_abacus.md) -/
def Obligations.FirstBeatBegins : Prop :=
  ∀ (s : State) (p : Fin 4) (a : FirstBeatAnn), s.mayBegin p a = true → ∃ u : State,
    u = ((s.takeAnnounce p a).fsets [(BEAT_NOW_NUMBER p, a.number), (HUB_PART_CTRL_STATE p, 3), (BEAT_STATE_STATE p, 2)]).updPart p
      (fun q => { q with runFirst := a.number, endedBeat := 0, dom := { q.dom with subtree := a.subtree } }) ∧
    u.pstate p = 3 ∧ u.beat p = a.number % 2 ^ 48 ∧ u.fget (BEAT_STATE_STATE p) = 2 ∧ (u.part p).runFirst = a.number ∧
    (∃ m, s.domMaster p = some m ∧ m.start = a.number ∧ a.number ≠ 0) ∧
    exec (.firstBeat p a) s = .next (((((u.freshCounts p).beatPulse p).schedStart p).judgeColl p).each (((((u.freshCounts p).beatPulse p).schedStart p).judgeColl p).regions p)
      fun t r => t.bookRotation r)

/-- CLOSE_DEADLINE: at the close deadline a member that does not run in strict mode, or that can close, only notes that the deadline has come; one in strict mode that cannot close also makes an overrun token that names it and its leading cause, which goes toward the master, or at the device of the master ends the domain with an overrun symbol. MEMBER_CLOSE: a running member that may close its beat, at or after the deadline, notes the close and its lateness, and its token joins the merged one of its device; after the last beat to run its partition ends its run. CLOSING_TOKEN: tokens that do not complete what the device waits for are merged and nothing else happens; the last one makes the master of the device end the beat, and on a device without the master sends the merged token on toward the master. It says of CLOSE_DEADLINE, MEMBER_CLOSE and CLOSING_TOKEN that exec answers a next state, the one given, under conditions on the state and the operands alone. (02_beat.md) -/
def Obligations.BeatCloses : Prop :=
  (∀ (s : State) (p : Fin 4) (stalls : List Nat), s.running p = true → (s.part p).dom.deadline = false →
      (s.flag (BEAT_CTRL_STRICT p) = false ∨ s.closable p = true) →
      exec (.closeDeadline p stalls) s = .next (s.updDom p fun d => { d with deadline := true })) ∧
    (∀ (s u : State) (p : Fin 4) (stalls : List Nat) (t : Token), s.running p = true → (s.part p).dom.deadline = false → s.flag (BEAT_CTRL_STRICT p) = true →
      s.closable p = false → u = s.updDom p (fun d => { d with deadline := true }) → t = ⟨s.node, p, 0, causeOf 1 (s.stallsWith p stalls)⟩ →
      (∀ m, s.hosted p = some m → exec (.closeDeadline p stalls) s = .next (u.overrunAll p none t)) ∧
      ∀ d q, s.hosted p = none → s.domId p = some d → s.parentPort p = some q →
        exec (.closeDeadline p stalls) s = .next (u.emit (.sym q (.overrunToken d t)))) ∧
    (∀ (s : State) (p : Fin 4) (late : Nat) (stalls : List Nat), s.running p = true → (s.part p).dom.deadline = true →
      (s.part p).dom.closed = false → (s.part p).dom.ended = false → s.closable p = true →
      ∃ u : State, u = (s.updDom p fun d => { d with closed := true, ownLate := late }).mergeIn p ⟨s.node, p, late, causeOf late (s.stallsWith p stalls)⟩ 1 late ∧
        exec (.memberClose p late stalls) s = .next (if (s.part p).dom.stopAt = u.beat p ∧ u.running p then (u.endRun p).leaveDomain p else u)) ∧
    ∀ (s u : State) (p : Fin 4) (t : Token) (n ns : Nat), s.inDomain p = true → u = s.updDom (s.chief p) (fun d => { d with merged := none, got := 0 }) →
      ((s.tokens p).2 + n < s.tokensDue p → exec (.closingToken p t n ns) s = .next (s.updDom (s.chief p) fun d =>
        { d with merged := some (s.mergedWith p t), got := (s.tokens p).2 + n })) ∧
      (∀ m, s.tokensDue p ≤ (s.tokens p).2 + n → s.hosted p = some m → exec (.closingToken p t n ns) s = .next (u.masterEnds m (s.mergedWith p t) ns)) ∧
      ∀ d q, s.tokensDue p ≤ (s.tokens p).2 + n → s.hosted p = none → s.domId p = some d → s.parentPort p = some q →
        exec (.closingToken p t n ns) s = .next (u.emit (.sym q (.closing d (s.mergedWith p t) ((s.tokens p).2 + n))))

/-- In a partition whose domain has formed and not ended. FAULT_TOKEN: at the device of the master the domain stalls, with the origin of the token; another device passes the token toward the master. OVERRUN_TOKEN: at the device of the master the domain ends with an overrun; another device passes the token on. STRETCH_LIMIT: a master that lacks tokens stalls its domain. STALL_SYMBOL and OVERRUN_SYMBOL: passed on away from the master, and obeyed. SYMBOL_TIMEOUT: a member that has closed and received no boundary symbol raises BEAT_STALL. A stall sends the symbol on, ends the domain, and stops each member of the device but the origin: it keeps the origin in HUB_PART_FLT_ORIGIN and raises BEAT_STALL with code, partition and node of the origin in its record; an overrun sends the symbol on, ends the domain, and raises BEAT_OVERRUN with the member that the token names. It says of FAULT_TOKEN, OVERRUN_TOKEN, STRETCH_LIMIT, STALL_SYMBOL, OVERRUN_SYMBOL and SYMBOL_TIMEOUT that exec answers a next state, the one given, under conditions on the state and the operands alone. (02_beat.md) -/
def Obligations.BeatSymbols : Prop :=
  (∀ (s : State) (p : Fin 4) (f : FaultOrigin), s.inDomain p = true →
      (∀ m, s.hosted p = some m → exec (.faultToken p f) s = .next (s.stallAll p none f)) ∧
      ∀ d q, s.hosted p = none → s.domId p = some d → s.parentPort p = some q → exec (.faultToken p f) s = .next (s.emit (.sym q (.faultToken d f)))) ∧
    (∀ (s : State) (p : Fin 4) (t : Token), s.inDomain p = true →
      (∀ m, s.hosted p = some m → exec (.overrunToken p t) s = .next (s.overrunAll p none t)) ∧
      ∀ d q, s.hosted p = none → s.domId p = some d → s.parentPort p = some q → exec (.overrunToken p t) s = .next (s.emit (.sym q (.overrunToken d t)))) ∧
    (∀ (s : State) (p : Fin 4), s.inDomain p = true → s.isMaster p = true → (s.part p).dom.boundary = none → (s.tokens p).2 < s.tokensDue p →
      exec (.stretchLimit p) s = .next (s.stallAll p none noOrigin)) ∧
    (∀ (s : State) (p : Fin 4) (f : FaultOrigin), s.inDomain p = true → exec (.stallSymbol p f) s = .next (s.stallAll p (s.parentPort p) f)) ∧
    (∀ (s : State) (p : Fin 4) (t : Token), s.inDomain p = true → exec (.overrunSymbol p t) s = .next (s.overrunAll p (s.parentPort p) t)) ∧
    (∀ (s : State) (p : Fin 4), s.inDomain p = true → (s.part p).dom.closed = true → (s.part p).dom.boundary = none →
      exec (.symbolTimeout p) s = .next (s.raise p .beatStall { unit := unitHub })) ∧
    (∀ (s : State) (p : Fin 4) (d : Nat) (not : Option Nat) (f : FaultOrigin) (t : Token), s.domId p = some d → s.mates p = [p.val] →
      (¬ (f.node = s.node ∧ f.part = p) → s.stallAll p not f = ((s.flood not (.stall d f)).updDom p fun x => { x with ended := true }).stallOne p f) ∧
      s.overrunAll p not t = ((s.flood not (.overrun d t)).updDom p fun x => { x with ended := true }).raise p .beatOverrun
        { unit := unitHub, log := t.node + t.part * 65536 }) ∧
    ∀ (s u : State) (p : Fin 4) (f : FaultOrigin), u = s.fsets [(HUB_PART_FLT_ORIGIN_NODE p, f.node), (HUB_PART_FLT_ORIGIN_PART p, f.part),
        (HUB_PART_FLT_ORIGIN_CODE p, f.code)] → u.mayFault p .beatStall = true → s.stallOne p f =
      ((u.raiseOne p .beatStall { unit := unitHub, log := f.code * 2 ^ 34 + f.part * 2 ^ 46 + f.node * 2 ^ 48 }).endMember p).faultIrq p (partKey p)

/-- BOUNDARY_SYMBOL, at the one running member of a device without the master, whose seal has been judged, for the boundary that begins its next beat: BEAT_LATE takes node, partition, cause and stretch of the merged token and the low bits of the number of the beat that ends; OWN_LATE counts when the member was late and STRETCHES when the beat stretched, both holding at their greatest value; the countdown starts, and a stop beat that the master sends along is taken over; the symbol leaves on every other beat port, its countdown less the delay of that port and of the crossbar (log entry 75). No other register and no byte of memory changes. It says of BOUNDARY_SYMBOL that exec answers a next state, the one given, under conditions on the state and the operands alone. (02_beat.md) -/
def Obligations.BoundarySymbolTaken : Prop :=
  ∀ (s : State) (p : Fin 4) (b : BoundaryMsg), s.inDomain p = true → s.hosted p = none → s.domId p = some b.domain → s.mates p = [p.val] →
    b.number = s.beat p + 1 → s.running p = true →
    s.flag (HUB_SEAL_SEALED p) = true → b.tok.node < 65536 → b.tok.part < 4 → b.tok.cause < 8 → b.stretchUs < 2 ^ 24 →
    ∃ t, exec (.boundarySymbol p b) s = .next t ∧ t.fget (BEAT_LATE_NODE p) = b.tok.node ∧ t.fget (BEAT_LATE_PART p) = b.tok.part ∧
      t.fget (BEAT_LATE_CAUSE p) = b.tok.cause ∧ t.fget (BEAT_LATE_LATE_US p) = b.stretchUs ∧ t.fget (BEAT_LATE_BEAT_LO p) = s.beat p % 65536 ∧
      t.fget (BEAT_STATS_OWN_LATE p) = (if (s.part p).dom.ownLate = 0 then s.fget (BEAT_STATS_OWN_LATE p) else satAdd 32 (s.fget (BEAT_STATS_OWN_LATE p)) 1) ∧
      t.fget (BEAT_STATS_STRETCHES p) = (if b.stretchUs = 0 then s.fget (BEAT_STATS_STRETCHES p) else satAdd 32 (s.fget (BEAT_STATS_STRETCHES p)) 1) ∧
      (t.part p).dom = { (s.part p).dom with boundary := some b, stopAt := if b.stop = 0 then (s.part p).dom.stopAt else b.stop } ∧
      (∀ q ∈ s.beatPorts, some q ≠ s.parentPort p → Out.sym q (.boundary { b with
        countdownNs := b.countdownNs - s.fget (FAB_PORT_DELAY_DELAY_PS q) / 1000 - Config.crossbarNs }) ∈ t.out) ∧ SameMem s t ∧
      SameRegs s t [BEAT_LATE_NODE p, BEAT_LATE_PART p, BEAT_LATE_CAUSE p, BEAT_LATE_LATE_US p, BEAT_LATE_BEAT_LO p, BEAT_STATS_OWN_LATE p,
        BEAT_STATS_STRETCHES p]

/-- BEAT_STOP: on a running master, a beat at least two ahead is taken as the last beat to run and no other register changes; on a member that is not the master, or less than two beats ahead, the write is discarded and recorded. BEAT_IN_EDGE and BEAT_IN_MISS, on a running master that takes its boundaries from BEAT_IN: the edge gives the nominal boundary; a missing one leaves the timer and a note in Music Box. SEAL_CANDIDATE: a new candidate clears SEALED and is judged; a write of the same candidate leaves SEALED alone. BEAT_BOUNDARY: when the countdown of a boundary symbol expires in a running partition, its counters latch, its next beat begins (staged values, staged settings, bookings), snapshot holds are placed, BEAT_OUT pulses for partition 0, rotations are booked, and its held work goes on. It says of BEAT_STOP, BEAT_IN_EDGE, BEAT_IN_MISS, SEAL_CANDIDATE and BEAT_BOUNDARY that exec answers a next state, the one given, under conditions on the state and the operands alone. (02_beat.md, 12_result_checking.md) -/
def Obligations.BeatControl : Prop :=
  (∀ (s : State) (p : Fin 4) (n : Nat), s.running p = true → s.isMaster p = true → s.beat p + 2 ≤ n → n < 2 ^ 48 →
      exec (.beatStop p n) s = .next (s.fset (BEAT_STOP_AT p) n) ∧ (s.fset (BEAT_STOP_AT p) n).fget (BEAT_STOP_AT p) = n ∧
        SameRegs s (s.fset (BEAT_STOP_AT p) n) [BEAT_STOP_AT p]) ∧
    (∀ (s : State) (p : Fin 4) (n : Nat), (s.isMaster p = false ∨ n < s.beat p + 2) →
      exec (.beatStop p n) s = .next (s.noteDiscard (BEAT_STOP p) n)) ∧
    (∀ (s : State) (p : Fin 4), s.running p = true → s.isMaster p = true → s.fget (BEAT_CTRL_SOURCE p) = 1 →
      exec (.beatInEdge p) s = .next (s.updDom p fun d => { d with beatIn := 1 }) ∧
      exec (.beatInMiss p) s = .next ((s.updDom p fun d => { d with beatIn := 0 }).noteHub 5 0 0)) ∧
    (∀ (s : State) (p : Fin 4) (v : Nat), bits v 0 48 ≠ s.fget (HUB_SEAL_CAND p) → exec (.sealCandidate p v) s =
      .next ((((s.fsets [(HUB_SEAL_CAND p, bits v 0 48), (HUB_SEAL_NOTE_JAR p, bits v 48 12), (HUB_SEAL_NOTE_EN p, bits v 60 1)]).fset
        (HUB_SEAL_SEALED p) 0).updPart p fun q => { q with sealDead := false }).trySeal p)) ∧
    (∀ (s : State) (p : Fin 4) (v : Nat), bits v 0 48 = s.fget (HUB_SEAL_CAND p) → exec (.sealCandidate p v) s =
      .next (s.fsets [(HUB_SEAL_CAND p, bits v 0 48), (HUB_SEAL_NOTE_JAR p, bits v 48 12), (HUB_SEAL_NOTE_EN p, bits v 60 1)])) ∧
    ∀ (s : State) (p : Fin 4) (counts : List (Nat × Nat)) (b : BoundaryMsg), s.running p = true → (s.part p).dom.boundary = some b →
      ∃ u : State, u = (((s.latchCounts p counts).nextBeat p b).placeHolds p b.number).beatPulse p ∧
        exec (.beatBoundary p counts) s = .next ((u.each (u.regions p) fun t r => t.bookRotation r).drainPart p)

/-- Merging tokens is associative, and commutative for tokens of different members; and the merged token of a device is one of the tokens it holds, with the greatest lateness, and among equal latenesses the lowest node and then the lowest partition. With a stall time for each of the codes 1 to 7 (a collective wait for a late member without stall time of its own counts for WORK, 7): a member on time names NONE (0); a late member that recorded no stall time names WORK; any other names the code with the greatest stall time, and the lowest such code among equals. (02_beat.md) -/
def Obligations.TokensMerge : Prop :=
  ((∀ a b c : Token, mergeToken (mergeToken a b) c = mergeToken a (mergeToken b c)) ∧
    (∀ a b : Token, (a.node, a.part) ≠ (b.node, b.part) → mergeToken a b = mergeToken b a) ∧
    ∀ (a : Token) (l : List Token), ∃ t ∈ a :: l, l.foldl mergeToken a = t ∧
      ∀ u ∈ a :: l, u.lateNs < t.lateNs ∨ (u.lateNs = t.lateNs ∧ (t.node < u.node ∨ (t.node = u.node ∧ t.part ≤ u.part)))) ∧
  ∀ (late : Nat) (stalls : List Nat), stalls.length = 7 →
    (late = 0 → causeOf late stalls = 0) ∧ (late ≠ 0 → (∀ x ∈ stalls, x = 0) → causeOf late stalls = 7) ∧
      (late ≠ 0 → (∃ x ∈ stalls, x ≠ 0) → ∃ i x, causeOf late stalls = i + 1 ∧ stalls[i]? = some x ∧ (∀ y ∈ stalls, y ≤ x) ∧
        ∀ (j : Nat) (y : Nat), j < i → stalls[j]? = some y → y < x)

/-- For a ring of S entries whose head and tail are indices of it, with old_pending and d as R83 defines them. A doorbell while the ring is OFF, or with d greater than S less old_pending, is discarded: DB_ERR is set, Music Box records the write, and the tail stays. A TAIL not less than S is discarded as a reserved encoding. d = 0 has no effect. Otherwise TAIL and its phase take the new value, and exactly d more entries are pending. A DBELL message that comes in sequence, with no access before it waiting, is performed as the doorbell; a discarded doorbell is not a fault, and the ring goes on from its previous tail. It says of DOORBELL and DBELL that exec answers a next state, the one given, under conditions on the state and the operands alone. (R83) -/
def Obligations.DoorbellRule : Prop :=
  ∀ (s : State) (n : Fin 256) (v S old new h d : Nat), S = s.sqSize n → s.fget (HUB_RING_PTRS_TAIL n) < S → s.fget (HUB_RING_PTRS_TAIL_PH n) ≤ 1 →
    s.fget (HUB_RING_PTRS_HEAD n) < S → s.fget (HUB_RING_PTRS_HEAD_PH n) ≤ 1 → S ≤ 65536 →
    old = s.fget (HUB_RING_PTRS_TAIL_PH n) * S + s.fget (HUB_RING_PTRS_TAIL n) → new = bits v 16 1 * S + bits v 0 16 →
    h = s.fget (HUB_RING_PTRS_HEAD_PH n) * S + s.fget (HUB_RING_PTRS_HEAD n) → d = (new + 2 * S - old) % (2 * S) →
    s.ringPending n = (old + 2 * S - h) % (2 * S) ∧
    (s.ringState n = 0 → exec (.doorbell n v) s = .next ((s.fset (HUB_RING_STAT_DB_ERR n) 1).noteDiscard (HUB_RING_DB n) v)) ∧
    (s.ringState n ≠ 0 → S ≤ bits v 0 16 → exec (.doorbell n v) s = .next (s.noteDiscard (HUB_RING_DB n) v)) ∧
    (s.ringState n ≠ 0 → bits v 0 16 < S → d = 0 → exec (.doorbell n v) s = .next s) ∧
    (s.ringState n ≠ 0 → bits v 0 16 < S → 0 < d → s.ringPending n + d ≤ S → ∃ t, exec (.doorbell n v) s = .next t ∧
      t = s.fsets [(HUB_RING_PTRS_TAIL n, bits v 0 16), (HUB_RING_PTRS_TAIL_PH n, bits v 16 1)] ∧
      t.fget (HUB_RING_PTRS_TAIL n) = bits v 0 16 ∧ t.fget (HUB_RING_PTRS_TAIL_PH n) = bits v 16 1 ∧ t.ringPending n = s.ringPending n + d) ∧
    (s.ringState n ≠ 0 → bits v 0 16 < S → 0 < d → S < s.ringPending n + d →
      exec (.doorbell n v) s = .next ((s.fset (HUB_RING_STAT_DB_ERR n) 1).noteDiscard (HUB_RING_DB n) v)) ∧
    (∀ u : State, NoteOnly (s.fset (HUB_RING_STAT_DB_ERR n) 1) u → u.fget (HUB_RING_STAT_DB_ERR n) = 1 ∧
      u.fget (HUB_RING_PTRS_TAIL n) = s.fget (HUB_RING_PTRS_TAIL n) ∧ u.fget (HUB_RING_PTRS_TAIL_PH n) = s.fget (HUB_RING_PTRS_TAIL_PH n)) ∧
    ∀ (hd : GlkHead) (t : State), MsgComes s t hd (slotsOf 8) → headFits hd 8 = true → t.glk.behindSnoop = false → t.glk.writeWaits = false → t.fatal = false →
      exec (.dbell n v hd) s = exec (.doorbell n v) (t.glkFree 4)

/-- For a completion ring of S entries whose freed position lies below 2S, with cpos, d and w as R99 defines them. A write while the ring is OFF, or with d greater than w, is discarded and sets CQ_ERR; a HEAD not less than S is discarded as a reserved encoding; d = 0 has no effect; otherwise the head moves to the new position and d of the w entries are freed. Right after an enable w is 0. It says of COMPLETION_HEAD_WRITE that exec answers a next state, the one given, under conditions on the state and the operands alone. (R99) -/
def Obligations.CompletionHeadRule : Prop :=
  ∀ (s : State) (n : Fin 256) (v S c d : Nat), S = s.cqSize n → (s.ring n).cqHead < 2 * S → c = ((1 - bits v 16 1) * S + bits v 0 16) % (2 * S) →
    d = (c + 2 * S - (s.ring n).cqHead) % (2 * S) →
    s.cqUsed n = ((1 - s.fget (HUB_RING_PTRS_CQ_PH n)) * S + s.fget (HUB_RING_PTRS_CQ_TAIL n) + 2 * S - (s.ring n).cqHead) % (2 * S) ∧
    (s.ringState n = 0 → exec (.completionHeadWrite n v) s = .next ((s.fset (HUB_RING_STAT_CQ_ERR n) 1).noteDiscard (HUB_RING_CQDB n) v)) ∧
    (s.ringState n ≠ 0 → S ≤ bits v 0 16 → exec (.completionHeadWrite n v) s = .next (s.noteDiscard (HUB_RING_CQDB n) v)) ∧
    (s.ringState n ≠ 0 → bits v 0 16 < S → d = 0 → exec (.completionHeadWrite n v) s = .next s) ∧
    (s.ringState n ≠ 0 → bits v 0 16 < S → 0 < d → d ≤ s.cqUsed n → ∃ t, exec (.completionHeadWrite n v) s = .next t ∧
      t = s.updRing n (fun q => { q with cqHead := c }) ∧ t.cqUsed n = s.cqUsed n - d) ∧
    (s.ringState n ≠ 0 → bits v 0 16 < S → s.cqUsed n < d →
      exec (.completionHeadWrite n v) s = .next ((s.fset (HUB_RING_STAT_CQ_ERR n) 1).noteDiscard (HUB_RING_CQDB n) v)) ∧
    (s.ringOn n).cqUsed n = 0

/-- While a partition that governs the ring runs, ENABLE is staged for the boundary. Otherwise a 1 to a ring that is OFF enables it, or, when R78 refuses the enable, sets REFUSED, leaves ENABLE at 0 and is recorded; a 0 to an ACTIVE ring makes it DRAINING, and OFF when nothing is in flight. A ring that is enabled is ACTIVE with head, tail, their phases, the completion tail and the counters at 0, nothing in flight and no completion entry freed. It says of RING_ENABLE that exec answers a next state, the one given, under conditions on the state and the operands alone. (03_commands.md) -/
def Obligations.RingEnables : Prop :=
  (∀ (s : State) (n : Fin 256) (on : Bool), s.governed (HUB_RING_CTRL n) = true →
      exec (.ringEnable n on) s = .next { s with staged := mset s.staged (HUB_RING_CTRL_ENABLE n).key (b2n on) }) ∧
    (∀ (s : State) (n : Fin 256), s.governed (HUB_RING_CTRL n) = false → s.ringState n = 0 → s.enableRefused n = false →
      exec (.ringEnable n true) s = .next (s.ringOn n)) ∧
    (∀ (s : State) (n : Fin 256), s.governed (HUB_RING_CTRL n) = false → s.ringState n = 0 → s.enableRefused n = true → exec (.ringEnable n true) s =
      .next (((s.fset (HUB_RING_STAT_REFUSED n) 1).fset (HUB_RING_CTRL_ENABLE n) 0).noteDiscard (HUB_RING_CTRL n) 1)) ∧
    (∀ (s : State) (n : Fin 256), s.governed (HUB_RING_CTRL n) = false → s.ringState n = 1 → exec (.ringEnable n false) s =
      .next (((s.fset (HUB_RING_PTRS_STATE n) 2).fset (HUB_RING_CTRL_ENABLE n) 0).settleRing n)) ∧
    ∀ (s : State) (n : Fin 256), (s.ringOn n).ringState n = 1 ∧ (s.ringOn n).ring n = .fresh ∧
      ∀ f ∈ [HUB_RING_PTRS_HEAD n, HUB_RING_PTRS_HEAD_PH n, HUB_RING_PTRS_TAIL n, HUB_RING_PTRS_TAIL_PH n, HUB_RING_PTRS_CQ_TAIL n, HUB_RING_CNT0_FETCHED n,
        HUB_RING_CNT0_COMPLETED n, HUB_RING_CNT1_ERRORS n, HUB_RING_CNT1_NOOPS n], (s.ringOn n).fget f = 0

/-- For a ring whose turn it is to fetch. An entry whose line is not in the link cache is asked for. One whose declared beat lies more than one ahead pauses the ring at that beat; a second snapshot pauses it too. One that fails a check of R90 leaves the ring with an entry of that code and faults its partition. One that passes the checks enters the ring in flight behind the descriptors fetched before it, with its effective beat, and HEAD moves past it; a snapshot takes its engine; and the turn passes on. An uncorrectable error in the hub's ring state is HUB_INTERNAL, device-fatal (R421). It says of DESC_FETCH that exec answers a next state, the one given, under conditions on the state and the operands alone. (03_commands.md, 16_glaetlink.md) -/
def Obligations.RingFetches : Prop :=
  (∀ (s : State) (n : Fin 256) (phys : ReadUpset), (∃ x ∈ phys, x.1 = HUB_RING_PTRS n ∧ eccFails x.2 = true) →
      exec (.descFetch n phys) s = .next ((s.strike phys).deviceFatal .hubInternal { unit := unitHub })) ∧
    ∀ (s u : State) (n : Fin 256) (phys : ReadUpset) (l p raw : Nat), (∀ x ∈ phys, x.1 ≠ HUB_RING_PTRS n) → u = s.strike phys → u.nextRing = some n.val →
    l = (u.entryAt n - glkBase) / 128 → p = u.ringPart n → raw = u.loadNat (u.entryAt n) 128 →
    (u.glk.inS l = false → exec (.descFetch n phys) s = .next (u.askShared l (.fetch p))) ∧
    (u.glk.inS l = true → u.mustPause p raw = true → exec (.descFetch n phys) s = .next (((u.touchLine l).updRing n fun q =>
      { q with pausedAt := if u.beat p + 1 < dBeat raw then some (dBeat raw) else none }).passTurn p n false)) ∧
    (∀ (w : State) (c : Code), u.glk.inS l = true → u.mustPause p raw = false →
      (u.touchLine l).tryValidate (.ring n) raw (u.ring n).prevEff (u.damage.length + 1) = (w, .error (.bad c)) →
      exec (.descFetch n phys) s = .next (w.rejectEntry n raw c (checkCause (.ring n)))) ∧
    ∀ (w : State) (v : Nat × List Nat), u.glk.inS l = true → u.mustPause p raw = false →
      (u.touchLine l).tryValidate (.ring n) raw (u.ring n).prevEff (u.damage.length + 1) = (w, .ok v) → ∃ d : Desc,
      d = mkDesc u.descSeq (u.fget (HUB_RING_PTRS_HEAD n)) raw v ∧ d.raw = raw ∧ d.eff = v.1 ∧ d.started = false ∧
      exec (.descFetch n phys) s = .next (((({ w.dropOnce with descSeq := u.descSeq + 1 }).headNext n).updRing n fun q =>
        { q with inflight := q.inflight ++ [d], prevEff := some v.1, pausedAt := none }).passTurn p n true |>.noteFetched p d)

/-- DESC_COMPLETE: a descriptor of a running partition that may complete drops its marbles, if it has any to drop, and then leaves (its entry, its interrupt, its counts). FENCE: a fence that starts has run, with RESULT 0, and its scope is judged at its completion. PROGRAM_LAUNCH: on a control core that is idle or halted the program starts at ENTRY with its four arguments in x10 to x13 and every other register zero. RESYNC: a ring descriptor and a write of HUB_RESYNC each put a request at the end of the queue. RESYNC_SAMPLE: with the link up and none in progress the oldest request is served: its block is latched at once and all but its last line is written. It says of DESC_COMPLETE, FENCE, PROGRAM_LAUNCH, RESYNC, HUB_RESYNC and RESYNC_SAMPLE that exec answers a next state, the one given, under conditions on the state and the operands alone. (03_commands.md, 04_cores_jars.md) -/
def Obligations.DescriptorsComplete : Prop :=
  (∀ (s : State) (o : Origin) (id : Nat) (d : Desc), s.desc? o id = some d → s.running (s.originPart o) = true → s.mayComplete o d = true →
      (dDoneEn d.raw = false ∨ dDoneN d.raw = 0 → exec (.descComplete o id) s = .next (s.leave o d)) ∧
      ∀ t, dDoneEn d.raw = true → dDoneN d.raw ≠ 0 → s.dropJar (s.originPart o) (dDoneJar d.raw) (dDoneN d.raw) (originUnit o) = .done t →
        exec (.descComplete o id) s = .next (t.leave o d)) ∧
    (∀ (s : State) (o : Origin) (d : Desc), RunsNow s o (fun raw => dClass raw == 0x0A) noRanges noRanges d →
      exec (.fence o) s = .next (s.ranDesc o d.id true 0)) ∧
    (∀ (s : State) (o : Origin) (d : Desc), RunsNow s o isLaunch noRanges noRanges d → s.ccFree (dRegion d.raw) (dSlot d.raw) = true → ∃ u : State, exec (.programLaunch o) s = .next (u.ranDesc o d.id true 0) ∧
        u.fget (CORE_CC_PC_PC (dRegion d.raw) (dSlot d.raw)) = plEntry d.raw ∧ u.fget (CORE_CC_STAT_STATE (dRegion d.raw) (dSlot d.raw)) = 1 ∧
        ((u.slot (dRegion d.raw) (dSlot d.raw)).x = (List.range 4).map fun i => (10 + i, BitVec.ofNat 64 (dfield d.raw (40 + 8 * i) 0 64)))) ∧
    (∀ (s : State) (o : Origin) (d : Desc), RunsNow s o (fun raw => dClass raw == 0x0C) noRanges noRanges d →
      exec (.resync o) s = .next (({ s with resyncQ := s.resyncQ ++ [(⟨d.extra.headD 0, some (o, d.id)⟩ : ResyncReq)] } : State).ranDesc o d.id false 0)) ∧
    (∀ (s : State) (dest : Nat), s.fatal = false → inCompanion (bits dest 12 32 * 4096) = true → s.fieldReads s.devViews HUB_RESYNC_STAT_PENDING < 4 →
      exec (.hubResync dest) s = .next { s with resyncQ := s.resyncQ ++ [⟨bits dest 12 32 * 4096, none⟩] }) ∧
    ∀ (s u : State) (q : ResyncReq) (l : List ResyncReq), s.resyncQ = q :: l → s.resyncNow = none → s.glkUp = true → u = { s with resyncQ := l } →
      u.resyncLive q = true → exec .resyncSample s = .next ({ u with resyncSeq := u.resyncSeq + 1, resyncNow := some ⟨q, u.resyncSeq + 1, some ((u.summary q (u.resyncSeq + 1)).drop 0xF80)⟩ }.store q.dest
          ((u.summary q (u.resyncSeq + 1)).take 0xF80) (u.resyncOwner q))

/-- START of a partition that is not stopped, that has a context command under way, while GlaetLink is not up (R414), or of a device-fatal hub is discarded and recorded; of one that is out of service it is also discarded, with REASON 2 or 3 (log entry 85). Of a stopped one, REASON names the first check of R103 that fails, and nothing else changes. When every check passes and no die has to rejoin, REASON is 0, STATE is 2 and the partition tests its suspect cores and joins. It says of START that exec answers a next state, the one given, under conditions on the state and the operands alone. (03_commands.md, 01_organisation.md) -/
def Obligations.PartitionStarts : Prop :=
  (∀ (s : State) (p : Fin 4) (bad : List (Fin 4)), s.fatal = true ∨ s.pstate p ≠ 6 ∧ (s.pstate p ≠ 1 ∨ s.flag (HUB_PART_CTX_BUSY p) = true ∨ s.glkUp = false) →
      exec (.start p bad) s = .next (s.noteDiscard (HUB_PART_CTRL p) 1)) ∧
    (∀ (s : State) (p : Fin 4) (bad : List (Fin 4)), s.pstate p = 6 → s.fatal = false → exec (.start p bad) s =
      .next ((s.noteDiscard (HUB_PART_CTRL p) 1).fset (HUB_PART_CTRL_REASON p) (if s.regionsOut p then 2 else 3))) ∧
    (∀ (s : State) (p : Fin 4) (bad : List (Fin 4)) (r : Nat), s.pstate p = 1 → s.fatal = false → s.flag (HUB_PART_CTX_BUSY p) = false → s.glkUp = true →
      s.startReason p = some r → exec (.start p bad) s = .next (s.fset (HUB_PART_CTRL_REASON p) r)) ∧
    (∀ (s : State) (p : Fin 4), (s.startReason p = some 1 ↔ s.flag (HUB_PART_PTBASE_ENABLE p) = false) ∧
      (s.startReason p = some 2 ↔ s.flag (HUB_PART_PTBASE_ENABLE p) = true ∧ s.regionsOut p = true) ∧
      (s.startReason p = some 3 ↔ s.flag (HUB_PART_PTBASE_ENABLE p) = true ∧ s.regionsOut p = false ∧ s.persists p = true) ∧
      (s.startReason p = none → 2 * s.fget (BEAT_GUARD_US p) < s.period p ∧ ∀ m ∈ stackSet s.layout p, (s.stack m).outPc = [])) ∧
    ∀ (s u : State) (p : Fin 4) (bad : List (Fin 4)), s.pstate p = 1 → s.fatal = false → s.flag (HUB_PART_CTX_BUSY p) = false → s.glkUp = true → s.startReason p = none →
      s.toRejoin p = [] → u = s.fsets [(HUB_PART_CTRL_REASON p, 0), (HUB_PART_CTRL_STATE p, 2)] →
      exec (.start p bad) s = .next ((u.freshRun p).testAndJoin p) ∧ u.pstate p = 2 ∧ u.fget (HUB_PART_CTRL_REASON p) = 0 ∧
        SameRegs s u [HUB_PART_CTRL_REASON p, HUB_PART_CTRL_STATE p] ∧ SameMem s u

/-- CLEAR of a partition that is not FAULTED, or of a device-fatal hub, is discarded and recorded. Otherwise the partition is STOPPED with FAULT 0; its rings are OFF; its control cores hold no command, no descriptor and no held work; its accumulation groups are CLOSED; VALID of its check logs is 0; no fault waits. Its jars and streams, the other partitions, every byte of memory and what has been sent are unchanged. It says of CLEAR that exec answers a next state, the one given, under conditions on the state and the operands alone. (03_commands.md, 17_faults.md) -/
def Obligations.ClearStops : Prop :=
  ∀ (s : State) (p : Fin 4), (s.pstate p ≠ 5 ∨ s.fatal = true → exec (.clear p) s = .next (s.noteDiscard (HUB_PART_CTRL p) 2)) ∧
    (s.pstate p = 5 → s.fatal = false → ∃ t, exec (.clear p) s = .next t ∧ t.pstate p = 1 ∧ t.fget (HUB_PART_CTRL_FAULT p) = 0 ∧
      (∀ n ∈ s.ringsOf p, t.ringState n = 0) ∧
      (∀ x ∈ s.slotsOf p, (t.slot x.1 x.2).cq = [] ∧ (t.slot x.1 x.2).inflight = [] ∧ (t.slot x.1 x.2).fresh = [] ∧
        t.fget (VEC_CHECK_LOG_VALID x.1 x.2) = 0 ∧ (∀ m < 4, t.fget (ARR_CHECK_LOG_VALID x.1 x.2 m) = 0) ∧ ∀ g < 16, t.fget (CORE_ACC_GRP_STATE x.1 x.2 g) = 0) ∧
      (∀ r ∈ s.regions p, t.fget (KAL_FAULT_LOG_VALID r) = 0 ∧ t.fget (ABC_CHECK_LOG_VALID r) = 0 ∧ t.fget (YOY_LOG_VALID r) = 0 ∧ t.fget (RGN_DUP_LOG_VALID r) = 0) ∧
      (t.part p).pend = [] ∧ (t.part p).jars = (s.part p).jars ∧ (t.part p).streams = (s.part p).streams ∧ (∀ q, q ≠ p.val → t.part q = s.part q) ∧
      SameMem s t ∧ t.out = s.out)

/-- In a stopped partition without a context command under way, SAVE, RESTORE and EMPTY of an image that fits begin: BUSY is 1, ERR 0, ADDR the address; SAVE writes the jar image there, RESTORE asks for the lines of the image that the companion holds. CONTEXT_DONE of an EMPTY leaves the partition without jars and streams; of a SAVE it ends once its writes are acknowledged; of a RESTORE it gives the jars and streams of a legal image, and fails with ERR 1 and no change to the jars otherwise, with MEM_UNCORR where a sector of the image cannot be corrected; a command that could not be performed ends with ERR 1. It says of SAVE, RESTORE, EMPTY and CONTEXT_DONE that exec answers a next state, the one given, under conditions on the state and the operands alone. (04_cores_jars.md) -/
def Obligations.ContextCommands : Prop :=
  (∀ (s : State) (p : Fin 4) (addr a : Nat), s.pstate p = 1 → s.flag (HUB_PART_CTX_BUSY p) = false → s.fatal = false → a = addr / 4096 % 2 ^ 32 * 4096 →
      s.ctxFits p a = true → ∃ u : State, u.fget (HUB_PART_CTX_ADDR p) = a / 4096 ∧ u.fget (HUB_PART_CTX_BUSY p) = 1 ∧ u.fget (HUB_PART_CTX_ERR p) = 0 ∧
        SameMem s u ∧ SameRegs s u [HUB_PART_CTX_ADDR p, HUB_PART_CTX_BUSY p, HUB_PART_CTX_ERR p] ∧
        (∀ cmd, (∃ t : State, t = u.updPart p (fun q => { q with ctx := some ⟨cmd, a, false⟩ }) ∧
          (cmd = 1 → (s.part p).jarsBusy = false → exec (.save p addr) s = .next (t.put a (s.jarImage p) (.ctx p))) ∧
          (cmd = 2 → exec (.restore p addr) s = .next (t.askStream [(a, ctxLen)] (.ctx p))) ∧ (cmd = 3 → exec (.empty p addr) s = .next t)))) ∧
    (∀ (s : State) (p : Fin 4) (c : CtxCmd) (phys : ReadUpset), (s.part p).ctx = some c → c.bad = false → (c.cmd ≠ 3 → s.refusedIn c.addr ctxLen = false) →
      (c.cmd = 3 → exec (.contextDone p phys) s = .next ((s.updPart p fun q => { q with jars := [], streams := [] }).ctxEnd p false)) ∧
      (c.cmd = 1 → s.glk.acksDue (.ctx p) = false → exec (.contextDone p phys) s = .next (s.ctxEnd p false)) ∧
      (c.cmd = 1 → s.glk.acksDue (.ctx p) = true → exec (.contextDone p phys) s = .next s) ∧
      (∀ u : State, c.cmd = 2 → s.streamReady [(c.addr, ctxLen)] = true → (s.strike phys).readFor p [(c.addr, ctxLen)] = (u, none) →
        exec (.contextDone p phys) s = .next (State.dropStream (if u.imageLegal p c.addr then
            (u.updPart p fun q => { q with jars := u.imageJars p c.addr, streams := u.imageStreams c.addr }).ctxEnd p false
          else u.ctxEnd p true) [(c.addr, ctxLen)])) ∧
      ∀ (u : State) (a : Nat), c.cmd = 2 → s.streamReady [(c.addr, ctxLen)] = true → (s.strike phys).readFor p [(c.addr, ctxLen)] = (u, some a) →
        exec (.contextDone p phys) s = .next (((u.ctxEnd p true).raise p .memUncorr (u.uncorrCause a)).dropStream [(c.addr, ctxLen)])) ∧
    (∀ (s : State) (p : Fin 4) (c : CtxCmd) (phys : ReadUpset), (s.part p).ctx = some c → c.bad = true →
      exec (.contextDone p phys) s = .next ((s.ctxEnd p true).dropStream [(c.addr, ctxLen)])) ∧
    ∀ (s : State) (p : Fin 4) (bad : Bool), (s.ctxEnd p bad).fget (HUB_PART_CTX_BUSY p) = 0 ∧ (s.ctxEnd p bad).fget (HUB_PART_CTX_ERR p) = b2n bad ∧
      ((s.ctxEnd p bad).part p).jars = (s.part p).jars ∧ ((s.ctxEnd p bad).part p).streams = (s.part p).streams ∧ ((s.ctxEnd p bad).part p).ctx = none

/-- ALLOC: when N neighbouring jars are free, the lowest such run is allocated with counts of 0 and the home of the header, RESULT is its first jar, and no other jar changes; when there is none, nothing is allocated and RESULT has bit 63 set beside the length of the longest free run. FREE releases its run when every jar of it is allocated, has no waiting take and no drop held for it; otherwise it changes no jar and raises JAR_MISUSE with the first jar at fault. It says of ALLOC and FREE that exec answers a next state, the one given, under conditions on the state and the operands alone. (04_cores_jars.md) -/
def Obligations.JarsAllocate : Prop :=
  (∀ (s : State) (o : Origin) (d : Desc) (j : Nat), RunsNow s o (isJar 0) noRanges noRanges d → findRun (s.part (s.originPart o)).jars (jarN d.raw) = some j →
      ∃ u : State, exec (.alloc o) s = .next (u.ranDesc o d.id true j) ∧ j + jarN d.raw ≤ 4096 ∧
        (∀ i, j ≤ i → i < j + jarN d.raw → s.jar? (s.originPart o) i = none ∧ u.jar? (s.originPart o) i = some ⟨dRegion d.raw, dSlot d.raw, 0, []⟩) ∧
        (∀ i, i < j ∨ j + jarN d.raw ≤ i → u.jar? (s.originPart o) i = s.jar? (s.originPart o) i) ∧
        (∀ i < j, ∃ k, i ≤ k ∧ k < i + jarN d.raw ∧ (s.jar? (s.originPart o) k ≠ none ∨ 4096 ≤ k)) ∧ SameMem s u ∧ SameRegs s u []) ∧
    (∀ (s : State) (o : Origin) (d : Desc), RunsNow s o (isJar 0) noRanges noRanges d → findRun (s.part (s.originPart o)).jars (jarN d.raw) = none →
      exec (.alloc o) s = .next (s.ranDesc o d.id true (2 ^ 63 + longestRun (s.part (s.originPart o)).jars)) ∧
      ∀ i < 4096, ∃ k, i ≤ k ∧ k < i + jarN d.raw ∧ (s.jar? (s.originPart o) k ≠ none ∨ 4096 ≤ k)) ∧
    (∀ (s : State) (o : Origin) (d : Desc), RunsNow s o (isJar 1) noRanges noRanges d →
      (∀ i < jarN d.raw, ∃ x : Jar, s.jar? (s.originPart o) (i + jarFirst d.raw) = some x ∧ x.takes = [] ∧ s.homeHeld x = false ∧
        (s.part (s.originPart o)).dropHeldFor (i + jarFirst d.raw) = false) →
      ∃ u : State, exec (.free o) s = .next (u.ranDesc o d.id true 0) ∧ (∀ i < jarN d.raw, u.jar? (s.originPart o) (i + jarFirst d.raw) = none) ∧
        ∀ i, i < jarFirst d.raw ∨ jarFirst d.raw + jarN d.raw ≤ i → u.jar? (s.originPart o) i = s.jar? (s.originPart o) i) ∧
    ∀ (s : State) (o : Origin) (d : Desc) (i : Nat), RunsNow s o (isJar 1) noRanges noRanges d → i < jarN d.raw →
      (∀ k < jarN d.raw, ((s.jar? (s.originPart o) (k + jarFirst d.raw)).map s.homeHeld).getD false = false) →
      s.freeable (s.originPart o) (i + jarFirst d.raw) = false → (∀ k < i, s.freeable (s.originPart o) (k + jarFirst d.raw) = true) →
      exec (.free o) s = .next ((s.keepOuts o d.id .jarMisuse).descFault o d .jarMisuse { (checkCause o) with log := i + jarFirst d.raw })

/-- At a home that performs operations, outside a Carousel handover and with no injection armed on the jar: DROP of N adds N marbles and serves waiting takes; a drop past 0xFFFFFFFF is JAR_MISUSE. Serving: the served takes are the oldest ones in their order, what they took and what is left are the marbles that were there, and the oldest take left does not fit. TAKE_NOW takes N at once if no take waits and the count reaches N, else it is JAR_MISUSE. PEEK returns the count. RDROP sends the block as a remote drop of 0 bytes when EN is 1, and does nothing else when it is 0. It says of DROP, TAKE_NOW, PEEK and RDROP that exec answers a next state, the one given, under conditions on the state and the operands alone. (04_cores_jars.md) -/
def Obligations.MarblesConserved : Prop :=
  (∀ (s : State) (o : Origin) (d : Desc) (x : Jar), RunsNow s o (isJar 2) noRanges noRanges d → s.jarsLive (s.originPart o) = true →
      s.jar? (s.originPart o) (jarFirst d.raw) = some x → s.homeHeld x = false → s.injOn 6 (s.originPart o) = false →
      (x.count + jarN d.raw ≤ 0xFFFFFFFF → exec (.drop o) s =
        .next ((s.settleJar (s.originPart o) (jarFirst d.raw) { x with count := x.count + jarN d.raw }).ranDesc o d.id true 0)) ∧
      (0xFFFFFFFF < x.count + jarN d.raw → exec (.drop o) s =
        .next ((s.keepOuts o d.id .jarMisuse).descFault o d .jarMisuse { (checkCause o) with log := jarFirst d.raw }))) ∧
    (∀ x : Jar, ∃ l : List (Waiter × Nat), x.takes = l ++ x.serve.1.takes ∧ x.serve.2 = l.map Prod.fst ∧ x.serve.1.count + (l.map Prod.snd).sum = x.count ∧
      (∀ e ∈ x.serve.1.takes.head?, x.serve.1.count < e.2) ∧ x.serve.1.region = x.region ∧ x.serve.1.slot = x.slot) ∧
    (∀ (s : State) (o : Origin) (d : Desc) (x : Jar), RunsNow s o (isJar 3) noRanges noRanges d → s.jar? (s.originPart o) (jarFirst d.raw) = some x →
      s.homeHeld x = false →
      (x.takes = [] → jarN d.raw ≤ x.count → exec (.takeNow o) s =
        .next ((s.setJar (s.originPart o) (jarFirst d.raw) { x with count := x.count - jarN d.raw }).ranDesc o d.id true 0)) ∧
      (x.takes ≠ [] ∨ x.count < jarN d.raw → exec (.takeNow o) s =
        .next ((s.keepOuts o d.id .jarMisuse).descFault o d .jarMisuse { (checkCause o) with log := jarFirst d.raw }))) ∧
    (∀ (s : State) (o : Origin) (d : Desc) (x : Jar), RunsNow s o (isJar 4) noRanges noRanges d → s.jar? (s.originPart o) (jarFirst d.raw) = some x →
      s.homeHeld x = false → exec (.peek o) s = .next (s.ranDesc o d.id true x.count)) ∧
    ∀ (s : State) (o : Origin) (d : Desc), RunsNow s o (isJar 5) noRanges noRanges d →
      (blkEn (jarBlk d.raw) = false → exec (.rdrop o) s = .next (s.ranDesc o d.id true 0)) ∧
      ∀ u : State, blkEn (jarBlk d.raw) = true → s.sendDrop (s.originPart o) (jarBlk d.raw) 0 (.desc o d.id) = some u →
        exec (.rdrop o) s = .next ((u.awaitDrop o d.id (jarBlk d.raw)).ranDesc o d.id true 0)

/-- When an instruction of 32 bits retires and does not stand at the end of instruction memory, rd holds its result, x0 still reads zero, every other register reads as before, the PC is 4 higher, WAIT is 0, and no memory, no other register field and no other partition state changes. At the end of instruction memory the next fetch is an instruction access fault. A running control core at an instruction word of opcode 0x0B with funct7 0 is at the vendor instruction that funct3 names. (04_cores_jars.md) -/
def Obligations.CoreRetires : Prop :=
  (∀ (s : State) (r : Fin 4) (k : Fin 40) (rd : Nat) (v : Word), s.ccPc r k + 4 < 0x10000 →
      (∀ i, (s.retireNext r k rd v).xget r k i = if i = 0 then 0 else if i = rd then v else s.xget r k i) ∧
      (s.retireNext r k rd v).ccPc r k = s.ccPc r k + 4 ∧ (s.retireNext r k rd v).fget (CORE_CC_STAT_WAIT r k) = 0 ∧
      SameMem s (s.retireNext r k rd v) ∧ SameRegs s (s.retireNext r k rd v) [CORE_CC_PC_PC r k, CORE_CC_STAT_WAIT r k] ∧
      (s.retireNext r k rd v).parts = s.parts ∧ (s.retireNext r k rd v).out = s.out) ∧
    (∀ (s : State) (r : Fin 4) (k : Fin 40) (rd : Nat) (v : Word), 0x10000 ≤ s.ccPc r k + 4 →
      s.retireNext r k rd v = (s.retire r k rd v (s.ccPc r k + 4)).ccTrap r k 1) ∧
    ∀ (s : State) (r : Fin 4) (k : Fin 40) (w f3 : Nat), s.ccRuns r k = true → s.insnAt r k = w → w % 128 = 0x0B → insnF7 w = 0 → insnF3 w = f3 →
      s.ccPc r k + 4 ≤ 0x10000 → s.vendorAt r k f3 = some w

/-- At the vendor instruction w of slot Lk of region r, with the jar and the count that rs1 and rs2 name: JDROP performs the drop and retires, or is JAR_MISUSE. JTAKE takes and retires when no take waits and the count reaches n, else it waits behind the takes before it. JTRY returns 1 and takes under the same condition, else 0, and changes nothing. JPEEK returns the count. A jar that is not allocated is JAR_MISUSE. An operation on a jar whose home is in handover is held in its order of arrival. JRDROP sends the block in data memory, or is NO_ROUTE. LAUNCH copies its descriptor into CQ and spends a credit, or waits while CQ holds 32 or no credit is left. BWAIT returns the beat once it has reached rs1. SUMRD returns a fresh summary register and makes it stale. It says of JDROP, JTAKE, JTRY, JPEEK, JRDROP, LAUNCH, BWAIT and SUMRD that exec answers a next state, the one given, under conditions on the state and the operands alone. (04_cores_jars.md) -/
def Obligations.VendorInstructions : Prop :=
  ∀ (s : State) (r : Fin 4) (k : Fin 40) (w : Nat) (p j n : Nat), p = s.regionPart r → j = s.vJar r k w → n = s.vCount r k w →
    (s.vendorAt r k 0 = some w → s.jarHeld p j = false → (∀ t, s.dropJar p j n (unitSlot r k) = .done t → exec (.jdrop r k) s = .next (t.vendorDone r k w 0)) ∧
      ∀ t, s.dropJar p j n (unitSlot r k) = .misuse t → exec (.jdrop r k) s = .next (t.coreMisuse r k j)) ∧
    (∀ (i : Instr) (f : Nat), (i, f) ∈ [(.jdrop r k, 0), (.jtry r k, 2), (.jpeek r k, 3)] → s.vendorAt r k f = some w → s.jarHeld p j = true →
      exec i s = .next (s.holdOp p (.core j r k))) ∧
    (s.vendorAt r k 1 = some w → s.fget (CORE_CC_STAT_WAIT r k) ≠ 1 → ∀ x : Jar, s.jar? p j = some x →
      (s.homeHeld x = false → x.takes = [] → n ≤ x.count → exec (.jtake r k) s = .next ((s.setJar p j { x with count := x.count - n }).vendorDone r k w 0)) ∧
      (s.homeHeld x = false → x.takes ≠ [] ∨ x.count < n →
        exec (.jtake r k) s = .next ((s.setJar p j { x with takes := x.takes ++ [(.core r k, n)] }).ccWait r k 1)) ∧
      (s.homeHeld x = true → exec (.jtake r k) s = .next ((s.holdOp p (.take j n (.core r k))).ccWait r k 1))) ∧
    (s.vendorAt r k 2 = some w → ∀ x : Jar, s.jar? p j = some x → s.homeHeld x = false →
      (x.takes = [] → n ≤ x.count → exec (.jtry r k) s = .next ((s.setJar p j { x with count := x.count - n }).vendorDone r k w 1)) ∧
      (x.takes ≠ [] ∨ x.count < n → exec (.jtry r k) s = .next (s.vendorDone r k w 0))) ∧
    (s.vendorAt r k 3 = some w → ∀ x : Jar, s.jar? p j = some x → s.homeHeld x = false → exec (.jpeek r k) s = .next (s.vendorDone r k w (BitVec.ofNat 64 x.count))) ∧
    (s.jar? p j = none → (s.vendorAt r k 2 = some w → exec (.jtry r k) s = .next (s.coreMisuse r k j)) ∧
      (s.vendorAt r k 3 = some w → exec (.jpeek r k) s = .next (s.coreMisuse r k j)) ∧
      (s.vendorAt r k 1 = some w → s.fget (CORE_CC_STAT_WAIT r k) ≠ 1 → exec (.jtake r k) s = .next (s.coreMisuse r k j))) ∧
    (s.vendorAt r k 4 = some w → ∀ a blk, vData r k (s.vAddr r k w) 16 = some a → blk = s.loadNat a 16 →
      (blkEn blk = false → exec (.jrdrop r k) s = .next (s.vendorDone r k w 0)) ∧
      (∀ t : State, blkEn blk = true → s.sendDrop p blk 0 .core = some t → exec (.jrdrop r k) s = .next (t.vendorDone r k w 0)) ∧
      (blkEn blk = true → s.sendDrop p blk 0 .core = none → exec (.jrdrop r k) s = .next (s.noRoute p (blkNode blk)))) ∧
    (s.vendorAt r k 5 = some w → ∀ a (bad : Bool), s.vAddr r k w % 128 = 0 → vData r k (s.vAddr r k w) 128 = some a →
      (32 ≤ s.occupancy r k ∨ (s.coreQ r k 10).credits = 0 → exec (.launch r k bad) s = .next (s.ccWait r k 4)) ∧
      (s.occupancy r k < 32 → ∀ c : CoreQueue, (s.coreQ r k 10).credits = c.credits + 1 → c.entries = (s.coreQ r k 10).entries ++ [!bad] →
        exec (.launch r k bad) s = .next ((((({ s with descSeq := s.descSeq + 1 }.setCoreQ r k 10 c).updSlot r k fun q => { q with cq := q.cq ++ [(s.descSeq, s.loadNat a 128)] }).fadd
          (CORE_LAUNCHQ_LAUNCHED r k) 1).vendorDone r k w 0).drainCq r k 32))) ∧
    (s.vendorAt r k 6 = some w → (s.vAddr r k w ≤ s.beat p → exec (.bwait r k) s = .next (s.vendorDone r k w (BitVec.ofNat 64 (s.beat p)))) ∧
      (s.beat p < s.vAddr r k w → exec (.bwait r k) s = .next (s.ccWait r k 2))) ∧
    (s.vendorAt r k 7 = some w → ∀ i, i = s.vAddr r k w % 16 →
      (i ∈ (s.slot r k).fresh → exec (.sumrd r k) s = .next ((s.vendorDone r k w (mgetD (s.slot r k).sums i 0)).updSlot r k fun q => { q with fresh := q.fresh.filter (· != i) })) ∧
      (i ∉ (s.slot r k).fresh → exec (.sumrd r k) s = .next (s.ccWait r k 3)))

/-- A running control core executes the instruction at its PC: the register and immediate arithmetic of RV64IM, a branch not taken and LUI are stated here with their results; an instruction that cannot go on past the end of instruction memory traps after it. ECALL makes the core idle with the low half of a0 in EXIT and changes nothing else but its PC. An exception halts the core: STATE 3, CAUSE the cause, and CC_TRAP is raised with cause and PC in its record. It says of BASE_INSTRUCTION, ECALL and CC_TRAP that exec answers a next state, the one given, under conditions on the state and the operands alone. (04_cores_jars.md) -/
def Obligations.ProgramsRun : Prop :=
  (∀ (s t : State) (r : Fin 4) (k : Fin 40), s.ccRuns r k = true → s.ccStep r k = .next t → exec (.baseInstruction r k) s = .next t) ∧
    (∀ (s t : State) (r : Fin 4) (k : Fin 40) (c target : Nat), s.ccRuns r k = true → s.ccStep r k = .nextTrap t c target →
      exec (.baseInstruction r k) s = .next (t.ccTrap r k c)) ∧
    (∀ (s : State) (r : Fin 4) (k : Fin 40) (w len pc : Nat) (a b : Word), s.ccInsn r k = some (w, len) → pc = s.ccPc r k → pc + len < 0x10000 →
      a = s.xget r k (insnRs1 w) → b = s.xget r k (insnRs2 w) →
      (w % 128 = 0x33 → insnF7 w = 0 ∨ insnF7 w = 0x20 ∧ (insnF3 w = 0 ∨ insnF3 w = 5) →
        s.ccStep r k = .next (s.retire r k (insnRd w) (rvAlu (insnF3 w) (insnF7 w == 0x20) a b) (pc + len))) ∧
      (w % 128 = 0x33 → insnF7 w = 1 → s.ccStep r k = .next (s.retire r k (insnRd w) (rvMul (insnF3 w) a b) (pc + len))) ∧
      (w % 128 = 0x13 → insnF3 w = 0 → s.ccStep r k = .next (s.retire r k (insnRd w) (a + (BitVec.ofNat 12 (bits w 20 12)).signExtend 64) (pc + len))) ∧
      (w % 128 = 0x63 → insnF3 w = 0 → a ≠ b → s.ccStep r k = .next (s.retire r k 0 0 (pc + len))) ∧
      (w % 128 = 0x37 → s.ccStep r k = .next (s.retire r k (insnRd w) ((BitVec.ofNat 32 (bits w 12 20 * 4096)).signExtend 64) (pc + len)))) ∧
    (∀ (s : State) (r : Fin 4) (k : Fin 40) (len : Nat), s.ccRuns r k = true → s.ccInsn r k = some (0x73, len) → ∃ t : State, exec (.ecall r k) s = .next t ∧
      t.fget (CORE_CC_STAT_STATE r k) = 0 ∧ t.fget (CORE_CC_STAT_EXIT r k) = (s.xget r k 10).toNat % 2 ^ 32 ∧ SameMem s t ∧
      SameRegs s t [CORE_CC_STAT_STATE r k, CORE_CC_STAT_EXIT r k, CORE_CC_STAT_WAIT r k, CORE_CC_PC_PC r k]) ∧
    (∀ (s : State) (r : Fin 4) (k : Fin 40) (c : Nat), s.ccRuns r k = true → s.ccStep r k = .trap c → exec (.ccTrap r k) s = .next (s.ccTrap r k c)) ∧
    (∀ (s : State) (r : Fin 4) (k : Fin 40) (c : Nat), s.ccRuns r k = true → (∀ x, s.ccStep r k ≠ .trap x) → s.vendorTrap r k = some c → exec (.ccTrap r k) s = .next (s.ccTrap r k c)) ∧
    ∀ (s : State) (r : Fin 4) (k : Fin 40) (c : Nat), s.ccTrap r k c = State.raise (s.fsets [(CORE_CC_STAT_STATE r k, 3), (CORE_CC_STAT_CAUSE r k, c), (CORE_CC_STAT_WAIT r k, 0)])
      (State.regionPart (s.fsets [(CORE_CC_STAT_STATE r k, 3), (CORE_CC_STAT_CAUSE r k, c), (CORE_CC_STAT_WAIT r k, 0)]) r) .ccTrap { unit := unitSlot r k, log := c, addr := s.ccPc r k }

/-- A CSR instruction on MBXTX returns 0 and, when it writes, sends the word toward the companion. One on MBXRX that reads removes and returns the oldest word, and returns 0 when there is none. One on MBXST returns the status; one that writes it clears the flags with a 1 in bits 18 to 16 and returns the status before. It says of MBXTX, MBXRX, MBXST and MBXST_CLEAR that exec answers a next state, the one given, under conditions on the state and the operands alone. (18_recorder_mailboxes.md) -/
def Obligations.MailboxCsrs : Prop :=
  ∀ (s : State) (r : Fin 4) (k : Fin 40) (w : Nat),
    (s.csrAt r k 0x7C0 = some w → csrWrites w = true →
      exec (.mbxtx r k) s = .next ((s.mboxSend (coreChan r k) .toA (s.csrNew r k w 0).toNat (unitSlot r k)).csrDone r k w 0)) ∧
    (s.csrAt r k 0x7C0 = some w → csrWrites w = false → exec (.mbxtx r k) s = .next (s.csrDone r k w 0)) ∧
    (s.csrAt r k 0x7C1 = some w → (∀ x l, csrReads w = true → s.mboxHeld (coreChan r k) = false → (s.chan (coreChan r k)).toB = x :: l →
        exec (.mbxrx r k) s = .next ((s.mboxRemove (coreChan r k) .toB).csrDone r k w (BitVec.ofNat 64 x.1))) ∧
      ((s.chan (coreChan r k)).toB = [] ∨ csrReads w = false → exec (.mbxrx r k) s = .next (s.csrDone r k w 0))) ∧
    (s.csrAt r k 0x7C2 = some w → csrWrites w = false → exec (.mbxst r k) s = .next (s.csrDone r k w (BitVec.ofNat 64 (s.mbxst r k)))) ∧
    (s.csrAt r k 0x7C2 = some w → csrWrites w = true → ∃ v : Nat, v = (s.csrNew r k w (BitVec.ofNat 64 (s.mbxst r k))).toNat ∧
      exec (.mbxstClear r k) s = .next ((s.updChan (coreChan r k) fun q => { q with flagsB := ⟨q.flagsB.empty && !bit v 16, q.flagsB.timeout && !bit v 17, q.flagsB.ovf && !bit v 18⟩ }).csrDone
        r k w (BitVec.ofNat 64 (s.mbxst r k))))

/-- A matrix descriptor that starts, with no earlier one of its slot before its checks, checks its groups before anything is read: one that fails the check is DESC_INVALID with the group in its record, and nothing has been opened. When all pass, it waits while it opens a group that still drains; otherwise each group is opened with its items, or continued, KNEXT is behind the last K block of the descriptor, and the descriptor has passed. A matrix descriptor that has passed and has all its inputs runs: it waits for its tiles. A vector descriptor that runs, on a slot whose engine is free, takes the engine: first instruction, first iteration, every tile register +0, no counts, with the step of its start; otherwise it waits. It says of MATRIX and VECTOR that exec answers a next state, the one given, under conditions on the state and the operands alone. (05_arrays.md, 07_accumulation.md, 08_vector.md) -/
def Obligations.EnginesStart : Prop :=
  (∀ (s t : State) (o : Origin) (d f : Desc) (up : Upset), StartsNow s o isMatrix (fun _ d => mxOutputs d) d t f → f.noop = false → f.passed = false →
      t.handoverMeets (mxInputs o t f ++ mxOutputs f) = false → t.matrixQueued f = false →
      ∀ (r k : Nat) (gs : List (Nat × Nat × Nat)), r = dRegion f.raw → k = dSlot f.raw → gs = mxGroups f.raw →
      (∀ x, gs.find? (t.groupFails r k f.raw) = some x → exec (.matrix o up) s =
        .next ((t.keepOuts o f.id .descInvalid).descFault o f .descInvalid { unit := unitSlot r k, log := x.1 })) ∧
      ((∀ x ∈ gs, t.groupFails r k f.raw x = false) → (mxOpen f.raw = true ∧ (∃ x ∈ gs, t.groupState r k x.1 = 2) → exec (.matrix o up) s = .next t) ∧
        ((mxOpen f.raw = true → ∀ x ∈ gs, t.groupState r k x.1 ≠ 2) → ∀ (v : State) (e : Desc),
          v = ((t.each gs fun s x => s.useGroup r k f.raw x).updSlot r k fun q =>
            { q with begun := if mxOpen f.raw then q.begun.filter fun g => !(gs.any fun x => x.1 == g) else q.begun }).updDesc o f.id (fun e => { e with passed := true }) →
          v.desc? o f.id = some e → exec (.matrix o up) s = .next (v.runDesc o e (mxInputs o v e) up fun s _ => .going s)))) ∧
    (∀ (s : State) (o : Origin) (d : Desc), RunsNow s o isMatrix (mxInputs o) (fun _ d => mxOutputs d) d →
      exec (.matrix o .none) s = .next (((s.reading o (mxInputs o s d)).ranDesc o d.id false 0).dropStream (mxInputs o s d))) ∧
    (∀ (s : State) (r : Fin 4) (k : Fin 40) (raw : Nat) (x : Nat × Nat × Nat), x.1 < 16 →
      (mxOpen raw = true → (s.useGroup r k raw x).fget (CORE_ACC_GRP_STATE r k x.1) = 1 ∧ (s.useGroup r k raw x).fget (CORE_ACC_GRP_MODE r k x.1) = mxMode raw % 4 ∧
        (s.useGroup r k raw x).fget (CORE_ACC_GRP_LONG_K r k x.1) = 0 ∧ (s.useGroup r k raw x).fget (CORE_ACC_KPOS_KOPEN r k x.1) = mxKblk raw % 2 ^ 32) ∧
      (s.useGroup r k raw x).fget (CORE_ACC_KPOS_KNEXT r k x.1) = (mxKblk raw + 2 * mxTiles raw) % 2 ^ 32 ∧
      (mxOpen raw = false → SameRegs s (s.useGroup r k raw x) [CORE_ACC_KPOS_KNEXT r k x.1]) ∧ SameMem s (s.useGroup r k raw x)) ∧
    ∀ (s u : State) (o : Origin) (d : Desc), RunsNow s o isVector (vxRanges (s.originPart o) false) (vxRanges (s.originPart o) true) d →
      u = s.reading o (vxRanges (s.originPart o) false s d) →
      ((u.slot (dRegion d.raw) (dSlot d.raw)).vec = none → u.behind isVector d = false → exec (.vector o .none) s =
        .next (((u.updSlot (dRegion d.raw) (dSlot d.raw) fun q => { q with vec := some ⟨o, d.id, 0, 0, d.step, false, [], .none, [], [], []⟩ }).ranDesc o d.id false 0).dropStream
          (vxRanges (s.originPart o) false s d))) ∧
      ((u.slot (dRegion d.raw) (dSlot d.raw)).vec ≠ none ∨ u.behind isVector d = true → exec (.vector o .none) s = .next u)

/-- The check of a half-sum finds an error exactly when the errors of its columns do not add up to that of its checksum cell; a tile without errors passes. The pass of the oldest running matrix descriptor of a slot adds its tile to every group that it uses, records a first K block from 32768 on, counts passes and rows, and may be sampled. Before the last tile the next one follows; after it the descriptor is ready, or, when CLOSE is 1, its groups are DRAINING and the pass of the epilogue follows. A checksum mismatch raises ARRAY_CHECK instead of going on; a failed accumulation check raises ACC_CHECK from the state before the pass. The pass of the epilogue makes the descriptor ready, or raises ACC_CHECK. It says of TILE_PASS_END that exec answers a next state, the one given, under conditions on the state and the operands alone. (05_arrays.md, 07_accumulation.md, 12_result_checking.md) -/
def Obligations.TilePasses : Prop :=
  (∀ (wf af p : Nat) (w : List Nat) (x : Nat) (errs : List ArrErr) (a i h : Nat), mismatches wf af p w (checksums wf p w false) x errs a i h =
      ((List.range (64 * p)).foldl (fun n c => n + errSum errs a i h (some c)) 0 != errSum errs a i h none)) ∧
    ∀ (s : State) (r : Fin 4) (k : Fin 40) (o : Origin) (d : Desc) (l : List (Origin × Desc)) (p t : Nat) (g : Rng), s.matrixRuns r k = (o, d) :: l → d.ran = true →
    p = s.originPart o → s.running p = true → t = d.work.headD 0 → g = ⟨s.seedOf p, d.step, mxTensor d.raw⟩ →
    (∀ (w : List Nat) (errs : List ArrErr) (u : State), t < mxTiles d.raw → s.injArray p d.raw = none → w = s.wRows p d.raw t →
      u = State.sample (State.each (s.each (mxGroups d.raw) fun q x => (q.addTile p d.raw g w t errs x).noteLongK p d.raw t x) (mxActive d.raw) fun q a =>
        (q.fadd (ARR_TILES_PASSES r k a) 1).accAdd (ARR_CYCLES_ACTIVE r k a) (mxRows d.raw a)) r 0 k (dTag d.raw) (mxExact d.raw)
        ⟨s.tileStreams p d.raw t w, s.tileOuts p d.raw t w [], crc64 (s.tileOuts p d.raw t w errs)⟩ →
      (errs = [] ∨ mxExact d.raw = false →
        (t + 1 < mxTiles d.raw → exec (.tilePassEnd r k errs none) s = .next (u.updDesc o d.id fun e => { e with work := [t + 1] })) ∧
        (mxTiles d.raw ≤ t + 1 → mxClose d.raw = false → exec (.tilePassEnd r k errs none) s = .next (u.updDesc o d.id fun e => { e with ready := true })) ∧
        (mxTiles d.raw ≤ t + 1 → mxClose d.raw = true → exec (.tilePassEnd r k errs none) s =
          .next ((u.fsets ((mxGroups d.raw).map fun x => (CORE_ACC_GRP_STATE r k x.1, 2))).updDesc o d.id fun e => { e with work := [t + 1] })) ∧
        ∀ x i, (∃ y ∈ mxGroups d.raw, y.1 = x ∧ i < mxRows d.raw y.2.1) → exec (.tilePassEnd r k errs (some (x, i))) s = .next (s.accFault o d x i)) ∧
      ∀ a x acc, mxExact d.raw = true → mxActive d.raw = [a] → s.firstMismatch p d.raw a t w errs false = some x →
        exec (.tilePassEnd r k errs acc) s = .next (u.raiseMismatches o d t [(a, x)])) ∧
    (mxTiles d.raw ≤ t → ∀ errs, exec (.tilePassEnd r k errs none) s = .next ((s.epilogue p d g).updDesc o d.id fun e => { e with ready := true }) ∧
      ∀ x i, (∃ y ∈ mxGroups d.raw, y.1 = x ∧ i < mxRows d.raw y.2.1) → exec (.tilePassEnd r k errs (some (x, i))) s = .next (s.epilogueFault o d g x i))

/-- At an instruction of the engine with this opcode: without a failed check, element e of the destination receives, for every e below COUNT, the value that the function of the instruction gives from the elements of the sources as they stood before, and no other element of a tile register changes; then the engine goes on: to the next instruction, or to the next iteration. A failed check of the engine is logged and raised as VEC_CHECK. It says of ADD, SUB, MUL, FMA, MAX, MIN, ABS, NEG, DIV, SQRT, RSQRT, RECIP, EXP, LOG, TANH, SIGM, GELU, SILU, CMPEQ, CMPLT, CMPLE, SEL, IADD, IAND, IOR, IXOR, CVTIF, CVTFI, MOV, BCAST, TRANS and IOTA that exec answers a next state, the one given, under conditions on the state and the operands alone. (08_vector.md) -/
def Obligations.VectorLanes : Prop :=
  (∀ (s : State) (r : Fin 4) (k : Fin 40) (d : Desc) (v : VecRun) (w op : Nat) (f : VecRun → Nat → Nat → Nat) (c : Fin 4 → Fin 40 → Option VecMiss → Instr),
      (op, f, c) ∈ ([
      (0x01, laneEl (lane2 fadd32), .add), (0x02, laneEl (lane2 fsub32), .sub), (0x03, laneEl (lane2 fmul32), .mul), (0x04, laneEl (ffma32), .fma),
      (0x05, laneEl (lane2 fmax32), .max), (0x06, laneEl (lane2 fmin32), .min), (0x07, laneEl (lane1 fabs32), .abs),
      (0x08, laneEl (lane1 fneg32), .neg), (0x09, laneEl (lane2 fdiv32), .div), (0x0A, laneEl (lane1 fsqrt32), .sqrt),
      (0x0B, laneEl (lane1 vRsqrt), .rsqrt), (0x0C, laneEl (lane1 (fdiv32 one32)), .recip), (0x0D, laneEl (lane1 vExp), .exp),
      (0x0E, laneEl (lane1 vLog), .log), (0x0F, laneEl (lane1 vTanh), .tanh), (0x10, laneEl (lane1 vSigm), .sigm),
      (0x11, laneEl (lane1 (fnGated fnEpGelu)), .gelu), (0x12, laneEl (lane1 (fnGated fnEpSilu)), .silu),
      (0x13, laneEl (lane2 (vCmp Val.eqv)), .cmpeq), (0x14, laneEl (lane2 (vCmp Val.lt)), .cmplt),
      (0x15, laneEl (lane2 (vCmp fun a b => a.lt b || a.eqv b)), .cmple), (0x16, laneEl (fun a b c => if c = 0 then b else a), .sel),
      (0x18, laneEl (lane2 fun a b => (a + b) % 2 ^ 32), .iadd), (0x19, laneEl (lane2 Nat.land), .iand), (0x1A, laneEl (lane2 Nat.lor), .ior),
      (0x1B, laneEl (lane2 xorN), .ixor), (0x1C, laneEl (lane1 vCvtif), .cvtif), (0x1D, laneEl (lane1 vCvtfi), .cvtfi),
      (0x20, laneEl (lane1 id), .mov), (0x21, fun v w _ => v.el (viA w) 0, .bcast),
      (0x22, fun v w e => v.el (viA w) (e / 1024 * 1024 + e % 32 * 32 + e % 1024 / 32), .trans), (0x23, fun _ _ e => e, .iota)] : List (Nat × (VecRun → Nat → Nat → Nat) × (Fin 4 → Fin 40 → Option VecMiss → Instr))) →
      VectorAt s r k d v w → viOp w = op →
      (∃ x : VecRun, exec (c r k none) s = .next (s.vecAdvance r k d x) ∧ (∀ e < viCount w, x.el (viD w) e = f v w e % 2 ^ 32) ∧
        (∀ i, i < viD w * 1024 ∨ viD w * 1024 + viCount w ≤ i → mgetD x.v i 0 = mgetD v.v i 0) ∧ x = { v with v := x.v }) ∧
      ∀ m, exec (c r k (some m)) s = .next (s.vecFail r k v d m)) ∧
    ∀ (s : State) (r k : Nat) (d : Desc) (v : VecRun),
      (v.pc + 1 < vxLen d.raw → s.vecAdvance r k d v = s.updSlot r k fun q => { q with vec := some { v with postWait := false, pc := v.pc + 1 } }) ∧
      (v.pc + 1 = vxLen d.raw → v.iter + 1 < vxIters d.raw → s.vecAdvance r k d v =
        (s.sample r 1 k (dTag d.raw) true v.mirror).updSlot r k fun q =>
        { q with vec := some { v with postWait := false, pc := 0, iter := v.iter + 1, first := v.v, loads := [], outs := [] } })

/-- At an instruction of the engine with this opcode: when its work is done the engine goes on with its result; when the summary register that it posts to is fresh it waits and changes nothing else; a failed check is VEC_CHECK. A reduction of shape ALL gives its one result, in element 0 and to the post; four leaves are summed as a tree of pairs; a post makes its register fresh; LD with ONCE acts in iteration 0 only; LDH reads sixteen words; ST of FP32 stores its elements in order. It says of RSUM, RMAX, RMIN, RAMAX, RNF, POST, LD, ST and LDH that exec answers a next state, the one given, under conditions on the state and the operands alone. (08_vector.md, 06_numerics.md) -/
def Obligations.VectorFoldsAndMoves : Prop :=
  (∀ (s t : State) (r : Fin 4) (k : Fin 40) (d : Desc) (v x : VecRun) (w op : Nat) (f : State → Desc → VecRun → Nat → VecOut) (c : Fin 4 → Fin 40 → Option VecMiss → Instr),
      (op, f, c) ∈ ([(0x28, vecReduce sumLeaves 0, .rsum), (0x29, vecReduce (foldMax fmax32) (inf32 true), .rmax), (0x2A, vecReduce (foldMax fmin32) (inf32 false), .rmin),
        (0x2B, vecArgMax, .ramax), (0x2C, vecReduce (fun l => some (l.filter fun x => !isFin32 x).length) 0, .rnf), (0x2F, vecPostOp, .post), (0x30, vecLd, .ld),
        (0x31, vecSt, .st), (0x32, vecLdh, .ldh)] : List (Nat × (State → Desc → VecRun → Nat → VecOut) × (Fin 4 → Fin 40 → Option VecMiss → Instr))) →
      VectorAt s r k d v w → viOp w = op →
      (f s d v w = .done t x → exec (c r k none) s = .next (t.vecAdvance r k d x)) ∧
      (f s d v w = .wait → exec (c r k none) s = .next (s.updSlot r k fun q => { q with vec := some { v with postWait := true } })) ∧
      ∀ m, exec (c r k (some m)) s = .next (s.vecFail r k v d m)) ∧
    (∀ (s : State) (d : Desc) (v : VecRun) (w : Nat) (g : List Nat → Option Nat) (y empty : Nat), viShape w = 0 → 0 < viCount w → g ((List.range (viCount w)).map (v.el (viA w))) = some y →
      vecReduce g empty s d v w = vecPost s (v.setEl (viD w) 0 y) d w y (viPost w)) ∧
    (∀ (s : State) (d : Desc) (v : VecRun) (w x i : Nat), i = viSum w →
      (i ∈ (s.slot (dRegion d.raw) (dSlot d.raw)).fresh → vecPost s v d w x true = .wait) ∧ vecPost s v d w x false = .done s v ∧
      (i ∉ (s.slot (dRegion d.raw) (dSlot d.raw)).fresh → vecPost s v d w x true = .done (s.updSlot (dRegion d.raw) (dSlot d.raw) fun q =>
        { q with sums := mset q.sums i (BitVec.ofNat 64 x), fresh := i :: q.fresh }) { v with outs := v.outs ++ natLe 8 x })) ∧
    (∀ l : List Nat, 4 < l.length → l.length ≤ 4096 → sumLeaves (l.take 4) = some (canon32 (fadd32 (fadd32 (l.getD 0 0) (l.getD 1 0)) (fadd32 (l.getD 2 0) (l.getD 3 0))))) ∧
    (∀ (s : State) (d : Desc) (v : VecRun) (w : Nat), viFlag w = true → v.iter ≠ 0 → vecLd s d v w = .done s v) ∧
    (∀ (s : State) (d : Desc) (v : VecRun) (w : Nat), ∃ x : VecRun, vecLdh s d v w = .done s x ∧ x = { v.setEls (viD w) ((List.range 16).map fun e =>
      (e, bits (s.vloadNat (s.originPart v.o) (vxData d.raw w v.iter) 64) (32 * e) 32)) with loads := x.loads }) ∧
    ∀ (s : State) (d : Desc) (v : VecRun) (w : Nat), viFmt w = 0xE → vecSt s d v w =
      .done (s.vstore (s.originPart v.o) (vxData d.raw w v.iter) (packBytes 32 ((List.range (viCount w)).map (v.el (viD w)))) (.desc (s.originPart v.o) v.id))
        { v with outs := v.outs ++ packBytes 32 ((List.range (viCount w)).map (v.el (viD w))) }

/-- A layout descriptor that starts with an EXTENT of 0 skips the extent checker. Any other, an identity copy too, is EXTENT_FULL when the list of its origin holds 64 entries, PAD_CLASH when it clashes with an entry, and otherwise enters the list; a no-operation completes then. When it runs, unless an earlier one of its engine does, it writes its elements and scales with the step of its start, merges its counts, and RESULT is the number of written positions; a failed check of the converters is KAL_CHECK with the log set. A destination position outside the valid source receives PAD_VALUE, one inside the source element widened. It says of LAYOUT that exec answers a next state, the one given, under conditions on the state and the operands alone. (09_layout.md) -/
def Obligations.LayoutCopies : Prop :=
  (∀ (s u w v : State) (o : Origin) (d : Desc) (p : Nat) (l : List (Nat × Nat)) (h : Health), RunsNow s o isLayout (fun s d => s.dpaRanges (s.originPart o) (kaReads d.raw d.shape))
        (fun s d => s.dpaRanges (s.originPart o) (kaWrites d.raw d.shape)) d → p = s.originPart o → l = s.dpaRanges p (kaReads d.raw d.shape) → u = s.reading o l →
      (u.behind isLayout d = true → exec (.layout o .none) s = .next u) ∧
      (u.behind isLayout d = false → p = u.originPart o →
        w = u.accAdd (KAL_CYCLES_ACTIVE (dRegion d.raw)) (ceilDiv (max (sideLines (fmtBits (kaSrc d.raw)) (kaSrcStrides d.raw d.shape) (kaValid d.raw d.shape))
          (sideLines (fmtBits (kaDst d.raw)) (kaDstStrides d.raw d.shape) (kaWritten d.raw d.shape))) 2) →
        w.kaWrite p d.raw d.shape ⟨w.seedOf p, d.step, kaTensor d.raw⟩ (.desc p d.id) = (v, h) →
        exec (.layout o .none) s = .next (((v.mergeHealth p (kaHealth d.raw) h (kaTensor d.raw) (kaKind d.raw) (kaDst d.raw) (.desc p d.id)).ranDesc o d.id true
          ((kaWritten d.raw d.shape).foldl (· * ·) 1)).dropStream l)) ∧
      (u.behind isLayout d = false → ∀ c : Upset, c = .check ∨ c = .parity → exec (.layout o c) s =
        .next ((((u.kalLog o d.raw 2).keepOuts o d.id .kalCheck).descFault o d .kalCheck { unit := unitRegion (dRegion d.raw) }).dropStream l))) ∧
    (∀ (s : State) (o : Origin) (d : Desc), (kaEmpty d.raw d.shape = true → startLayout o s d = .going s) ∧
      (kaEmpty d.raw d.shape = false → 64 ≤ (s.extents o).length → startLayout o s d = .fault (s.kalLog o d.raw 1) .extentFull { unit := unitRegion (dRegion d.raw) }) ∧
      (kaEmpty d.raw d.shape = false → (s.extents o).length < 64 → (∃ e ∈ s.extents o, padClash d.raw d.shape e.1 e.2 = true) →
        startLayout o s d = .fault (s.kalLog o d.raw 0) .padClash { unit := unitRegion (dRegion d.raw) }) ∧
      (kaEmpty d.raw d.shape = false → (s.extents o).length < 64 → (∀ e ∈ s.extents o, padClash d.raw d.shape e.1 e.2 = false) → ∃ t : State, startLayout o s d = .going t ∧
        t.extents o = s.extents o ++ [(d.raw, d.shape)] ∧ SameRegs s t [] ∧ SameMem s t)) ∧
    (∀ (s t v : State) (o : Origin) (d f : Desc) (c : Code) (w : Cause) (u : Upset), StartsNow s o isLayout (fun s d => s.dpaRanges (s.originPart o) (kaWrites d.raw d.shape)) d t f → f.noop = true → f.passed = false →
      (startLayout o t f = .fault v c w → exec (.layout o u) s = .next ((v.keepOuts o f.id c).descFault o f c w)) ∧
      (startLayout o t f = .going v → ∀ e : Desc, (v.updDesc o f.id fun e => { e with passed := true }).desc? o f.id = some e → e.noop = true →
        exec (.layout o u) s = .next ((v.updDesc o f.id fun e => { e with passed := true }).ranDesc o e.id true 0))) ∧
    ∀ (s : State) (p raw sh : Nat) (j lo x : List Nat), lo = (kaDims raw).map (shPadLo sh) → x = (j.zip lo).map (fun y => y.1 - y.2) →
      ((∃ y ∈ j.zip lo, y.1 < y.2) ∨ (∃ v ∈ x.zipIdx, shSrcExtent sh v.2 ≤ v.1) → s.kaValue p raw sh j = kaPadValue raw) ∧
      ((∀ y ∈ j.zip lo, y.2 ≤ y.1) → (∀ v ∈ x.zipIdx, v.1 < shSrcExtent sh v.2) →
        s.kaValue p raw sh j = widen32 (kaSrc raw) (s.vbits p (kaSrcAddr raw * 8 + dot x (kaSrcStrides raw sh) * fmtBits (kaSrc raw)) (fmtBits (kaSrc raw)))
          (if isMx (kaSrc raw) then s.vloadNat p (kaSrcScale raw + kaSrcScaleOff raw sh x) 1 else 0))

/-- An update descriptor that may run waits behind an earlier one of its engine, and pulls the chunk of a snapshot that holds what it writes. Then it does the work of its operation and completes with RESULT 0; APPLY of a step whose header counts non-finite gradients changes nothing and completes with RESULT 1; a failed check of the lanes, a parity error, or for NORM one of its adder is ABC_CHECK. When it starts it is STEP_SKEW if its step is not that of the counter and of the step state, STEP_WRAP after the last step, and it waits while the step state is not ready. STEP_STATE_READY makes it ready when the group table has been read, and asks for the lines of the table otherwise. It says of STEP_STATE_READY, NORM, FINALISE, APPLY and STEP_END that exec answers a next state, the one given, under conditions on the state and the operands alone. (10_abacus.md) -/
def Obligations.UpdatesRun : Prop :=
  (∀ (s u : State) (o : Origin) (d : Desc) (op p : Nat) (l : List (Nat × Nat)) (c : Upset) (i : Instr), (op, i) ∈ [(0, .norm o c), (1, .finalise o c), (2, .apply o c), (3, .stepEnd o c)] → c ∈ [.none, .check, .parity, .adder] →
      RunsNow s o (isAbOp op) (fun s d => abInputs s o d) (fun s d => abOutputs s o d) d →
      p = s.originPart o → l = abInputs s o d → u = s.reading o l → u.originPart o = p → abOp d.raw = op →
      (u.behind isUpdate d = true → exec i s = .next u) ∧
      (u.behind isUpdate d = false → ∀ n, u.heldChunk p (abOutputs u o d) = some n → exec i s = .next (u.pullChunk p n)) ∧
      (u.behind isUpdate d = false → u.heldChunk p (abOutputs u o d) = none →
        (abcKind op c = none →
          (op = 0 → exec i s = .next (((u.normWork p d.id d.raw d.latched).ranDesc o d.id true 0).dropStream l)) ∧
          (op = 1 → exec i s = .next (((u.finalWork p d.id d.raw).ranDesc o d.id true 0).dropStream l)) ∧
          (op = 2 → d.latched.skip = false → exec i s = .next ((((u.sampleChunks p d.raw d.latched).applyWork p d.id d.raw d.latched).ranDesc o d.id true 0).dropStream l)) ∧
          (op = 2 → d.latched.skip = true → exec i s = .next ((u.ranDesc o d.id true 1).dropStream l)) ∧
          (op = 3 → exec i s = .next (((u.stepEndWork p d.id d.raw).ranDesc o d.id true 0).dropStream l))) ∧
        ∀ k, abcKind op c = some k → exec i s = .next ((((u.abcLog d.raw k).keepOuts o d.id .abcCheck).descFault o d .abcCheck
          { unit := unitRegion (dRegion d.raw), log := (u.abcLog d.raw k).abcWord (dRegion d.raw) }).dropStream l))) ∧
    (∀ (s t v : State) (o : Origin) (d f : Desc) (op : Nat) (c : Upset) (i : Instr), (op, i) ∈ [(0, .norm o c), (1, .finalise o c), (2, .apply o c), (3, .stepEnd o c)] →
      StartsNow s o (isAbOp op) (fun s d => abOutputs s o d) d t f → f.passed = false → (f.noop = true ∨ t.handoverMeets (abInputs t o f ++ abOutputs t o f) = false) →
      (∀ x w, startUpdate o t f = .fault v x w → exec i s = .next ((v.keepOuts o f.id x).descFault o f x w)) ∧ (startUpdate o t f = .wait v → exec i s = .next v)) ∧
    (∀ (s : State) (o : Origin) (d : Desc) (p : Nat) (w : Cause), p = s.originPart o → w = { unit := unitRegion (dRegion d.raw) } →
      (abStep d.raw ≠ s.stepOf p ∨ (abOp d.raw ≠ 1 ∧ abStep d.raw ≠ s.fget (ABC_SCHED_TAG (s.lead p))) → startUpdate o s d = .fault s .stepSkew w) ∧
      (abStep d.raw = s.stepOf p → (abOp d.raw = 1 ∨ abStep d.raw = s.fget (ABC_SCHED_TAG (s.lead p))) →
        (abOp d.raw = 3 → abStep d.raw = 2 ^ 48 - 1 → startUpdate o s d = .fault s .stepWrap w) ∧
        (abOp d.raw ≠ 3 ∨ abStep d.raw ≠ 2 ^ 48 - 1 → (s.part p).abc.ready = false → startUpdate o s d = .wait s))) ∧
    (∀ (s : State) (p : Fin 4), s.running p = true → (s.part p).abc.loaded = true → exec (.stepStateReady p) s = .next (s.updPart p fun q => { q with abc := { q.abc with ready := true } })) ∧
    (∀ (s t : State) (p : Fin 4), s.running p = true → (s.part p).abc.loaded = false → s.fetchReady [s.tableRange p] = true → t = (s.loadGroups p).useFetch [s.tableRange p] →
      (t.part p).abc.loaded = true → t.running p = true → exec (.stepStateReady p) s = .next (t.updPart p fun q => { q with abc := { q.abc with ready := true } })) ∧
    ∀ (s : State) (p : Fin 4), s.running p = true → (s.part p).abc.loaded = false → s.fetchReady [s.tableRange p] = false →
      ((s.askFetch [s.tableRange p] (.fetch p)).part p).abc.loaded = false → exec (.stepStateReady p) s = .next (s.askFetch [s.tableRange p] (.fetch p))

/-- After a step the exponent of the loss scale is the one before, one more (only after a clean step, which restarts CLEAN) or one less (only after a skipped step); a skipped step clears CLEAN and lowers the exponent exactly when BACKOFF is 1 and the exponent is above MIN_EXP; with GROWTH_INT 0 only CLEAN counts; at GROWTH_INT clean steps the exponent rises exactly when it is below MAX_EXP. An exponent within its bounds stays within them. (10_abacus.md) -/
def Obligations.LossScale : Prop :=
  ∀ (s : State) (r : Nat) (skip : Bool) (e e2 : Int) (c2 : Nat), e = sext 8 (s.fget (ABC_LOSS_EXP r)) → s.nextLoss r skip = (c2, e2) →
    (e2 = e ∨ e2 = e + 1 ∧ skip = false ∧ c2 = 0 ∨ e2 = e - 1 ∧ skip = true) ∧ c2 ≤ 0xFFFF ∧ (skip = true → c2 = 0) ∧
    (sext 8 (s.fget (ABC_LOSS_MIN_EXP r)) ≤ e → sext 8 (s.fget (ABC_LOSS_MIN_EXP r)) ≤ e2) ∧
    (e ≤ sext 8 (s.fget (ABC_LOSS_MAX_EXP r)) → e2 ≤ sext 8 (s.fget (ABC_LOSS_MAX_EXP r))) ∧
    (skip = true → (e2 = e - 1 ↔ s.flag (ABC_LOSS_BACKOFF r) = true ∧ sext 8 (s.fget (ABC_LOSS_MIN_EXP r)) < e)) ∧
    (skip = false → s.fget (ABC_LOSS_GROWTH_INT r) = 0 → e2 = e ∧ c2 = min (s.fget (ABC_LOSS_CLEAN r) + 1) 0xFFFF) ∧
    (skip = false → s.fget (ABC_LOSS_GROWTH_INT r) ≠ 0 → s.fget (ABC_LOSS_GROWTH_INT r) ≤ min (s.fget (ABC_LOSS_CLEAN r) + 1) 0xFFFF →
      c2 = 0 ∧ (e2 = e + 1 ↔ e < sext 8 (s.fget (ABC_LOSS_MAX_EXP r))))

/-- A bulk collective whose engine is free reads its contribution, places its own part (ALL_GATHER at its index, BROADCAST at the root; ALL_TO_ALL takes its blocks with it), opens the bulk engine with its values, begins its first phase or its windows, and takes the flits that came early. BARRIER sends zeros, TINCAN the 64 bytes at SRC, FP_EXCHANGE of a step record that is not empty and not mixed its key and the complement of the key; one whose record fails contributes all-ones and raises REPLICA_DIVERGE. While the engine runs another collective they wait. At its start a collective takes the next sequence number of its group and its CHECK, and an early flit with another CHECK is COLL_MISMATCH. It says of ALL_REDUCE, REDUCE_SCATTER, ALL_GATHER, BROADCAST, ALL_TO_ALL, BARRIER, TINCAN and FP_EXCHANGE that exec answers a next state, the one given, under conditions on the state and the operands alone. (15_collectives.md, 12_result_checking.md) -/
def Obligations.CollectivesStart : Prop :=
  (∀ (s u w : State) (o : Origin) (phys : ReadUpset) (d : Desc) (op p i n size : Nat) (l : List (Nat × Nat)) (bytes : List Byte) (elems : List Nat) (x : Coll) (c : Origin → ReadUpset → Instr),
      (op, c) ∈ ([(0, .allReduce), (1, .reduceScatter), (2, .allGather), (3, .broadcast), (4, .allToAll)] : List (Nat × (Origin → ReadUpset → Instr))) →
      RunsNow (s.strike phys) o (isColl op) (collInputs o) (collOuts o) d → coOp d.raw = op → l = collInputs o (s.strike phys) d → u = (s.strike phys).reading o l →
      (u.engineBusy o false d = true → exec (c o phys) s = .next u) ∧
      (u.engineBusy o false d = false → p = u.originPart o → n = geMembers (u.entryOf p d.raw) → i = u.myRank (u.entryOf p d.raw) p → size = coCount d.raw * coSize d.raw →
        bytes = (if coReads d.raw i then u.vload p (coSrc d.raw) (coSrcLen d.raw n) else []) →
        elems = (List.range (bytes.length / coSize d.raw)).map (fun j => leNat ((bytes.drop (j * coSize d.raw)).take (coSize d.raw))) →
        w = (if op = 2 then u.vstore p (coDst d.raw + i * coCount d.raw * coSize d.raw) bytes (.desc p d.id)
          else if op = 3 ∧ coRoot d.raw = i then u.vstore p (coDst d.raw) bytes (.desc p d.id) else u) →
        x = { w.openColl p d (w.workOf o d) (if coReduces d.raw then elems.map (coWiden (coType d.raw)) else []) with
          slots := if op = 4 then (List.range n).map fun t => (Coll.block (w.openColl p d (w.workOf o d) (if coReduces d.raw then elems.map (coWiden (coType d.raw)) else [])) i t,
            (bytes.drop (t * size)).take size) else [] } →
        exec (c o phys) s = .next ((collRan o d ((w.collBegin p false x).takeEarlies p x)).settle o d l))) ∧
    (∀ (s u : State) (o : Origin) (phys : ReadUpset) (d : Desc) (op r : Nat) (l : List (Nat × Nat)) (c : Instr), (op, c) ∈ [(5, .barrier o), (6, .tincan o phys), (7, .fpExchange o phys)] → (op = 5 → phys = []) →
      RunsNow (s.strike phys) o (isColl op) (collInputs o) (collOuts o) d → l = collInputs o (s.strike phys) d → u = (s.strike phys).reading o l → r = u.vloadNat (u.originPart o) (coSrcAt d.raw) 64 →
      (u.engineBusy o true d = true → exec c s = .next u) ∧
      (u.engineBusy o true d = false → op = 5 → exec c s = .next ((u.runTree o d (natLe 64 0)).settle o d l)) ∧
      (u.engineBusy o true d = false → op = 6 → exec c s = .next ((u.runTree o d (u.vload (u.originPart o) (coSrc d.raw) 64)).settle o d l)) ∧
      (u.engineBusy o true d = false → op = 7 → ∀ key : List Byte, key = natLe 16 r ++ natLe 8 (bits r 192 64) ++ natLe 6 (bits r 128 48) ++ natLe 2 0 → bit r 352 = true → bit r 353 = false →
        exec c s = .next ((u.runTree o d (key ++ natLe 32 (2 ^ 256 - 1 - leNat key))).settle o d l)) ∧
      (u.engineBusy o true d = false → op = 7 → bit r 352 = false ∨ bit r 353 = true → ∀ v : State, v = (u.logFpx (u.originPart o) true false 0 0 0xFFFF) →
        ∀ z : State, z = v.contribute (u.originPart o) (v.openTree o d (natLe 64 (2 ^ 512 - 1))) →
        exec c s = .next (((z.keepOuts o d.id .replicaDiverge).descFault o d .replicaDiverge { unit := unitHub, log := z.fpxLog (u.originPart o) }).dropStream l))) ∧
    ∀ (s t : State) (o : Origin) (d : Desc) (p g e n c : Nat), p = s.originPart o → g = coGroup d.raw → e = s.entryOf p d.raw → n = mgetD (s.part p).coll.seqs g 0 → c = s.collCheck p d.raw e →
      t = ((s.updDesc o d.id fun x => { x with work := [n, c] }).updPart p fun q => { q with coll := { q.coll with seqs := mset q.coll.seqs g ((n + 1) % 2 ^ 32) } }) →
      ((∀ f ∈ (t.part p).coll.early, cfGid f = geGid e → cfSeq f = n → cfCheck f = c) → startColl o s d = .going t) ∧
      ∀ f, (t.part p).coll.early.find? (fun f => cfGid f == geGid e && cfSeq f == n && cfCheck f != c) = some f →
        startColl o s d = .fault (t.logColl p 0 f.srcNode f.srcPart g (dTag d.raw)) .collMismatch { unit := unitHub, log := collWord 0 f.srcNode f.srcPart g (dTag d.raw) }

/-- A collective flit that lands in order and belongs to the collective of an engine of its partition is acted on there, and the buffer that it took is free again: READY notes the extent that the member announces and lets data leave; DATA lands in its announced extent, is counted and owed a report, and outside it is refused with reason 2; LANDED lowers what is still to be reported; a value of the tree reaches its receive slot or is the result. The wait that it ends counts as stall time of the cause that it carries. It says of COLL_READY, COLL_DATA, COLL_LANDED and TINCAN_FLIT that exec answers a next state, the one given, under conditions on the state and the operands alone. (15_collectives.md) -/
def Obligations.CollectiveFlits : Prop :=
  ∀ (s t u : State) (p : Fin 18) (f : Flit) (ns q : Nat) (tc : Bool) (x : Coll), FlitLands s t p f → q = f.dstPart → CollTakes t q f tc x → u = t.countWait q f ns →
    (f.typ = 4 → f.vc = 0 → exec (.collReady p f ns) s = .next ((u.takeReady q tc x f).returnCredit p f.vc f.dl)) ∧
    (f.typ = 4 → f.vc = 0 → x.inTree = false → exec (.collData p f ns) s = .next ((u.takeData q tc x f).returnCredit p f.vc f.dl)) ∧
    (f.typ = 4 → f.vc = 0 → x.inTree = false → exec (.collLanded p f ns) s =
      .next (((u.setEngine q tc (some { x with due := x.due - leNat ((cfData f).take 8) })).collGo q tc).returnCredit p f.vc f.dl)) ∧
    (∀ r, f.typ = 3 → f.vc = 1 → x.inTree = true → t.senderRank x.entry f.srcNode f.srcPart = some r →
      exec (.tincanFlit p f ns) s = .next ((u.treeIn q x r (cfKind f) (cfData f)).returnCredit p f.vc f.dl)) ∧
    (∀ v : State, (∀ r k base len, v.peerOf x f = some r → v.dataPlace q x r f = some (k, base, len) → f.addr < base ∨ base + len < f.addr + (cfData f).length) →
      v.takeData q tc x f = v.reply f 2) ∧
    (∀ (v : State) (r k base len : Nat), v.peerOf x f = some r → v.dataPlace q x r f = some (k, base, len) → base ≤ f.addr → f.addr + (cfData f).length ≤ base + len → ∃ y : Coll,
      v.takeData q tc x f = ((if x.small then v else v.vstore q f.addr (cfData f) (.desc q x.id)).setEngine q tc (some y)).collGo q tc ∧
      mgetD y.got k 0 = mgetD x.got k 0 + (cfData f).length ∧ y.owed = x.owed ++ [(f.srcNode, f.srcPart, cfPhase f, (cfData f).length)]) ∧
    (cfCause f = 0 ∨ ns = 0 → u = t) ∧
    (∀ i < 7, ns ≠ 0 → cfCause f = i + 1 → ((u.part q).coll.waited.getD i 0) = (t.part q).coll.waited.getD i 0 + ns)

/-- A flit that is accepted in order and is for this node lands, and its buffer is free again. DATA is written where it translates; a flit whose page-table line comes from the companion waits for it with those behind it; it is refused with reason 1 when the partition does not run, with reason 2 when it does not translate, and with reason 3 when a new stream finds the table full. A held drop whose bytes have not all landed drops nothing. NULL carries acknowledgement and credits only. The first flit that shows a gap is answered with a NAK, and what follows is discarded until the replay; one that does not conform takes the port DOWN; an ECC error in the hub is device-fatal. A credit report reaches what sent the drop first. It says of DATA_FLIT, DROP_FLIT, REPLY_FLIT, NULL_FLIT and DROP_CREDIT_REPORT that exec answers a next state, the one given, under conditions on the state and the operands alone. (14_fabric.md, 04_cores_jars.md) -/
def Obligations.FlitsLand : Prop :=
  (∀ (s t : State) (p : Fin 18) (f : Flit), FlitLands s t p f →
      (f.typ = 1 → f.vc = 0 → exec (.dataFlit p f) s = .next ((landData f.dstPart f t).returnCredit p f.vc f.dl)) ∧
      (f.typ = 2 → f.vc = 2 → exec (.dropFlit p f) s = .next ((landDrop f.dstPart f t).returnCredit p f.vc f.dl)) ∧
      (f.typ = 5 → f.vc = 2 → exec (.replyFlit p f) s = .next ((landReply f.dstPart f t).returnCredit p f.vc f.dl))) ∧
    (∀ (s : State) (p : Fin 18) (f : Flit), f.typ = 6 → s.portUp p = true → flitConforms f = true → f.ecc = .good → exec (.nullFlit p f) s = .next (s.fabAck p f.ack f.credit f.cvc f.cdl)) ∧
    (∀ (s : State) (p : Fin 18) (f : Flit) (i : Instr), i ∈ [.dataFlit p f, .dropFlit p f, .replyFlit p f] → s.portUp p = true →
      (f.typ = 0 ∨ 7 < f.typ ∨ f.vc = 3 ∨ 224 < f.payload.length ∨ f.rsv ≠ 0 → exec i s = .next (s.portDown p)) ∧
      (1 ≤ f.typ → f.typ ≤ 7 → f.vc ≠ 3 → f.payload.length ≤ 224 → f.rsv = 0 → f.seq ≠ (s.port p).seqRx →
        ((s.port p).nakSent = false → (f.seq + 4096 - (s.port p).seqRx) % 4096 < 2048 → exec i s = .next (s.sendNak p)) ∧
        ((s.port p).nakSent = true ∨ 2048 ≤ (f.seq + 4096 - (s.port p).seqRx) % 4096 → exec i s = .next s)) ∧
      (1 ≤ f.typ → f.typ ≤ 7 → f.vc ≠ 3 → f.payload.length ≤ 224 → f.rsv = 0 → f.seq = (s.port p).seqRx → f.ecc = .bad →
        exec i s = .next (s.deviceFatal .fabInternal { unit := unitHub }))) ∧
    (∀ (s : State) (q : Nat) (f : Flit), s.running q = true →
      ((s.part q).inbound ≠ [] → landData q f s = s.updPart q fun x => { x with inbound := x.inbound ++ [f] }) ∧
      ((s.part q).inbound = [] → s.streamsFull q f.srcNode f.srcPart f.epoch = false → ∀ (t : State) (x : Fetched (List (Nat × Nat))),
        s.xlateRead q f.addr f.payload.length true (s.damage.length + 1) = (t, x) →
        (∀ rs, x = .ok rs → landData q f s = t.landAt q f rs) ∧ (∀ l, x = .error (.need l) → landData q f s = (t.askShared l (.fetch q)).updPart q fun x => { x with inbound := x.inbound ++ [f] }) ∧
        (∀ c, x = .error (.bad c) → landData q f s = t.reply f 2) ∧ ∀ a, x = .error (.sector a) → landData q f s = (t.reply f 2).raise q .memUncorr (t.uncorrCause a)) ∧
      (s.streamsFull q f.srcNode f.srcPart f.epoch = true → ∀ t : State, t = (s.reply f 3).raise q .dropHoldFull { unit := unitHub, log := f.srcNode + f.srcPart * 65536 + f.epoch * 2 ^ 32 } →
        landDrop q f s = t ∧ ((s.part q).inbound = [] → landData q f s = t))) ∧
    (∀ (s : State) (q : Nat) (f : Flit), s.running q = false → landData q f s = s.reply f 1 ∧ landDrop q f s = s.reply f 1) ∧
    (∀ (s : State) (q node part epoch : Nat) (t : Stream) (h : HeldDrop) (l : List HeldDrop), (s.part q).streams.find? (·.is node part epoch) = some t → t.held = h :: l → t.landed < h.upTo →
      (s.creditDrops q node part epoch).out = s.out ∧ ((s.creditDrops q node part epoch).part q).jars = (s.part q).jars) ∧
    ∀ (s t : State) (q : Fin 4) (node part epoch : Nat) (x : (Nat × Nat × Nat) × Dropper), (s.part q).sentDrops.find? (fun x => x.1 == (node, part, epoch)) = some x →
      t = s.updPart q (fun r => { r with sentDrops := dropFirst (fun x => x.1 == (node, part, epoch)) r.sentDrops }) →
      (∀ o id, x.2 = .desc o id → exec (.dropCreditReport q node part epoch) s = .next (t.updDesc o id fun d => { d with remote := dropFirst (· == (node, part, epoch)) d.remote })) ∧
      (x.2 = .snap → exec (.dropCreditReport q node part epoch) s = .next (t.updPart q fun r => { r with snap := r.snap.map fun x => { x with credited := true } })) ∧
      (x.2 = .core → exec (.dropCreditReport q node part epoch) s = .next t)

/-- A discarded flit is counted by its cause and answered with a NAK that names the last good SEQ. A NAK acknowledges the flits up to ACK and replays the others in order, each counted, before what waits leaves; the eighth in a row for one SEQ makes the port retrain; an ECC error of the replay buffer is device-fatal. A retraining that succeeds replays, goes on and measures the delay again; the third failure in a row takes the port DOWN. It says of FLIT_DISCARD, NAK and PORT_RETRAIN_END that exec answers a next state, the one given, under conditions on the state and the operands alone. (14_fabric.md) -/
def Obligations.LinkRetry : Prop :=
  (∀ (s : State) (p : Fin 18), s.portUp p = true → exec (.flitDiscard p .fec) s = .next ((s.fadd (FAB_PORT_CNT0_FEC_UNCORR p) 1).sendNak p) ∧
      exec (.flitDiscard p .crc) s = .next ((s.fadd (FAB_PORT_CNT1_CRC_ERR p) 1).sendNak p)) ∧
    (∀ (s : State) (p : Nat), (s.sendNak p).out = s.out ++ [Out.flit p { nullFlit (((s.port p).seqRx + 4095) % 4096) 0 0 0 with nak := true }] ∧ ((s.sendNak p).port p).nakSent = true) ∧
    (∀ (s t : State) (p : Fin 18) (ack n : Nat), s.portUp p = true → t = s.fabTake p ack 0 0 0 → n = (if (t.port p).naks.1 = ack then (t.port p).naks.2 + 1 else 1) →
      (n < 8 → exec (.nak p ack .good) s = .next (((t.updPort p fun q => { q with naks := (ack, n) }).replayPort p).fabDrain p)) ∧
      (8 ≤ n → exec (.nak p ack .good) s = .next ((t.updPort p fun q => { q with naks := (ack, 0), retraining := true }).fadd (FAB_PORT_STAT_RETRAINS p) 1)) ∧
      exec (.nak p ack .bad) s = .next (s.deviceFatal .fabInternal { unit := unitHub })) ∧
    (∀ (s : State) (p : Nat), (s.replayPort p).out = s.out ++ (s.port p).unacked.map (fun f => Out.flit p f) ∧
      (s.replayPort p).fget (FAB_PORT_CNT1_REPLAYS p) = min (s.fget (FAB_PORT_CNT1_REPLAYS p) + (s.port p).unacked.length) (2 ^ 32 - 1) % 2 ^ 32) ∧
    ∀ (s : State) (p : Fin 18), (s.port p).retraining = true →
      exec (.portRetrainEnd p true) s = .next ((((s.updPort p fun q => { q with retraining := false, retrainFails := 0 }).replayPort p).fabDrain p).sendEcho p) ∧
      ((s.port p).retrainFails < 2 → exec (.portRetrainEnd p false) s = .next ((s.updPort p fun q => { q with retrainFails := q.retrainFails + 1 }).fadd (FAB_PORT_STAT_RETRAINS p) 1)) ∧
      (2 ≤ (s.port p).retrainFails → exec (.portRetrainEnd p false) s = .next (s.portDown p))

/-- A write of FAB_PORT_CFG while a partition is active, or with a reserved ROLE, is discarded and recorded. Otherwise the port forgets its link, shows no peer, and is OFF with ENABLE 0, NO_ID when its node or ROLE is not valid for the mode, and TRAINING otherwise. An attempt that times out is recorded and starts again. When the two ends exchange their role check with two lanes or more, the device answers with its own; a peer that matches makes the port UP with four lanes and DEGRADED with fewer, with fresh credits and an echo to measure the delay; one that does not match makes it MISWIRED, which is recorded. An echo is answered with the turnaround; its answer gives half of what the round trip leaves beside it. It says of FAB_PORT_CFG, PORT_TRAIN_TIMEOUT and LMGMT that exec answers a next state, the one given, under conditions on the state and the operands alone. (14_fabric.md) -/
def Obligations.PortBringUp : Prop :=
  (∀ (s : State) (p : Fin 18) (v : Nat), s.anyActive = true ∨ 2 ≤ bits v 4 4 ∧ bits v 4 4 ≤ 7 → exec (.fabPortCfg p v) s = .next (s.noteDiscard (FAB_PORT_CFG p) v)) ∧
    (∀ (s u : State) (p : Fin 18) (v : Nat), s.anyActive = false → (bits v 4 4 < 2 ∨ 7 < bits v 4 4) →
      u = State.fsets (State.clearPort (s.fsets [(FAB_PORT_CFG_PARTS p, bits v 16 4), (FAB_PORT_CFG_BEAT p, bits v 8 1), (FAB_PORT_CFG_ROLE p, bits v 4 4), (FAB_PORT_CFG_ENABLE p, bits v 0 1)]) p)
        [(FAB_PORT_STAT_LANES_UP p, 0), (FAB_PORT_STAT_PEER_NODE p, 0xFFFF), (FAB_PORT_STAT_PEER_ROLE p, 0), (FAB_PORT_STAT_PEER_SWITCH p, 0), (FAB_PORT_STAT_PEER_BEAT p, 0), (FAB_PORT_DELAY_DELAY_PS p, 0)] →
      ∃ t, exec (.fabPortCfg p v) s = .next t ∧ t = u.fset (FAB_PORT_STAT_STATE p) (t.fget (FAB_PORT_STAT_STATE p)) ∧
        t.fget (FAB_PORT_STAT_STATE p) = if bits v 0 1 = 0 then 0 else if u.noId (bits v 4 4) then 6 else 1) ∧
    (∀ (s : State) (p : Fin 18), s.portTraining p = true → exec (.portTrainTimeout p) s = .next ((s.fset (FAB_PORT_STAT_STATE p) 1).noteHub 4 0 0)) ∧
    (∀ (s : State) (p : Fin 18) (rtt turn : Nat), s.portUp p = true → exec (.lmgmt p (.echoed rtt turn)) s = .next (s.fset (FAB_PORT_DELAY_DELAY_PS p) ((rtt - turn) / 2)) ∧
      exec (.lmgmt p .echo) s = .next (s.emit (.lmgmt p (.echoed 0 Config.turnaroundPs)))) ∧
    ∀ (s u : State) (p : Fin 18) (node role peer lanes lit win : Nat) (sw beat tincan : Bool), s.portTraining p = true → lit = maskAnd (lanes % 16) (s.litLanes p) → 2 ≤ laneCount lit →
      (s.noId (s.fget (FAB_PORT_CFG_ROLE p)) = true → exec (.lmgmt p (.check node role peer sw beat lanes tincan win)) s = .next (s.fset (FAB_PORT_STAT_STATE p) 6)) ∧
      (s.noId (s.fget (FAB_PORT_CFG_ROLE p)) = false →
        u = (s.emit (.lmgmt p (s.ownCheck p lit))).fsets [(FAB_PORT_STAT_PEER_NODE p, if sw then 0xFFFF else node), (FAB_PORT_STAT_PEER_ROLE p, role), (FAB_PORT_STAT_PEER_SWITCH p, b2n sw), (FAB_PORT_STAT_PEER_BEAT p, b2n beat)] →
        (u.roleMatches (u.fget (FAB_PORT_CFG_ROLE p)) node role sw = true → ∃ t, exec (.lmgmt p (.check node role peer sw beat lanes tincan win)) s = .next t ∧
          t.port p = { Port.idle with credits := fabCredits, adTincan := tincan, adWin := win, eccCount := (s.port p).eccCount, peerPort := peer, recalAt := s.fget EVR_OPSEC_SECONDS } ∧
          t.fget (FAB_PORT_STAT_LANES_UP p) = lit % 16 ∧ t.fget (FAB_PORT_STAT_STATE p) = (if laneCount lit = 4 then 2 else 3) ∧ t.out = s.out ++ [.lmgmt p (s.ownCheck p lit), .lmgmt p .echo]) ∧
        (u.roleMatches (u.fget (FAB_PORT_CFG_ROLE p)) node role sw = false → exec (.lmgmt p (.check node role peer sw beat lanes tincan win)) s =
          .next ((u.fset (FAB_PORT_STAT_STATE p) 5).noteHub 9 (u.node + node * 65536) 0)))

/-- Lanes that fail leave their port, which is recorded: it goes on DEGRADED on two or more, and DOWN with fewer, or when it fails to carry its beat blocks. The scheduling end books a lane recalibration, of the lane whose FEC asks for it or of the next one in time, and offers it, or lets the lane leave at once when no partition runs; the peer books what it is offered in its partitions of the same domain, or lets the offered lane leave at the scheduling end's boundary; the lane rejoins and the delay is measured again, is retried once, or leaves its port. A firewall violation is counted and recorded; the 16th isolates the engine and resets it, and what an isolated engine sends has no effect. An engine that fails takes its lanes from their ports; one that is ready again, with no failed module, is up. It says of LANE_LOSS, LANE_RECAL_DUE, RECAL_OFFER, LANE_RECAL_END, FIREWALL_VIOLATION, ENGINE_FAIL and ENGINE_READY that exec answers a next state, the one given, under conditions on the state and the operands alone. (14_fabric.md) -/
def Obligations.LanesAndEngines : Prop :=
  (∀ (s : State) (p : Fin 18) (lanes left : Nat), s.portUp p = true → left = maskMinus (s.fget (FAB_PORT_STAT_LANES_UP p)) (lanes % 16) → left ≠ s.fget (FAB_PORT_STAT_LANES_UP p) →
      ∃ u : State, u = s.record { code := Code.fabLaneFail.num, unit := unitPort p, log := lanes % 16 } ∧
        (2 ≤ laneCount left → exec (.laneLoss p lanes false) s = .next (u.fsets [(FAB_PORT_STAT_LANES_UP p, left), (FAB_PORT_STAT_STATE p, 3)])) ∧
        (laneCount left < 2 → exec (.laneLoss p lanes false) s = .next (u.portDown p))) ∧
    (∀ (s : State) (p : Fin 18), s.portUp p = true → s.beatPorts.contains p.val = true → maskMinus (s.fget (FAB_PORT_STAT_LANES_UP p)) 0 = s.fget (FAB_PORT_STAT_LANES_UP p) →
      exec (.laneLoss p 0 true) s = .next (s.portDown p)) ∧
    (∀ (s : State) (p : Fin 18), (s.port p).offered = none → s.mayRecal p = true → s.schedules p = true → s.fget (FAB_PORT_RECAL_BEAT p) = 0 →
      (∀ l, (s.port p).early = some l → exec (.laneRecalDue p) s = .next (((s.updPort p fun q => { q with early := none }).fset (FAB_PORT_RECAL_LANE p) l).bookLane p)) ∧
      ((s.port p).early = none → s.laneTime p = true → exec (.laneRecalDue p) s = .next (s.bookLane p)) ∧
      ((s.port p).early = none → s.laneTime p = false → exec (.laneRecalDue p) s = .next s)) ∧
    (∀ (s u : State) (p : Fin 18) (l : Nat), (s.port p).offered = some l → u = s.updPort p (fun q => { q with offered := none }) → u.mayRecal p = true →
      exec (.laneRecalDue p) s = .next ((u.fset (FAB_PORT_RECAL_LANE p) l).laneLeaves p)) ∧
    (∀ (s : State) (p : Nat), (s.runningParts = [] → s.bookLane p = (s.updPort p fun q => { q with laneOut := some (s.fget (FAB_PORT_RECAL_LANE p)), laneRetry := false }).fsetBit
        (FAB_PORT_STAT_LANES_UP p) (s.fget (FAB_PORT_RECAL_LANE p)) false) ∧ (s.runningParts ≠ [] → s.bookLane p = (s.each s.runningParts fun s q => s.book q 3 p 0).offerLane p)) ∧
    (∀ (s u : State) (p : Fin 18) (domain beat : Nat) (lane : Fin 4) (ps : List Nat), s.portUp p = true →
      u = s.each allParts (fun s q => if (s.booked q 3 p).isSome then s.updPart q fun x => { x with books := x.books.filter fun b => !(b.kind == 3 && b.unit == p) } else s) →
      ps = u.runningParts.filter (fun q => u.domId q == some domain && decide (u.beat q + 2 ≤ beat)) →
      (ps ≠ [] → exec (.recalOffer p domain beat lane) s = .next ((u.each ps fun s q => s.updPart q fun x => { x with books := insertBooking ⟨beat, 3, p⟩ x.books }).fsets
        [(FAB_PORT_RECAL_BEAT p, beat), (FAB_PORT_RECAL_LANE p, lane)])) ∧
      (ps = [] → exec (.recalOffer p domain beat lane) s = .next ((u.updPort p fun q => { q with offered := some lane.val }).fset (FAB_PORT_RECAL_BEAT p) 0))) ∧
    (∀ (s : State) (p : Fin 18) (l : Nat), (s.port p).laneOut = some l → exec (.laneRecalEnd p true) s = .next (((s.nextLane p).fsetBit (FAB_PORT_STAT_LANES_UP p) l true).sendEcho p) ∧
      ((s.port p).laneRetry = false → exec (.laneRecalEnd p false) s = .next (s.updPort p fun q => { q with laneRetry := true })) ∧
      ((s.port p).laneRetry = true → exec (.laneRecalEnd p false) s = .next (((s.nextLane p).fsetBit (FAB_PORT_STAT_LANES_UP p) l true).loseLanes p (2 ^ l)))) ∧
    (∀ (s u : State) (e : Fin 4) (addr : Nat), u = (s.fadd (FAB_OE_VIOL e) 1).noteHub 8 0 addr →
      (s.fget (FAB_OE_STATE e) = 3 → exec (.firewallViolation e addr) s = .next s) ∧
      (s.fget (FAB_OE_STATE e) ≠ 3 → u.fget (FAB_OE_VIOL e) ≠ 16 → exec (.firewallViolation e addr) s = .next u) ∧
      (s.fget (FAB_OE_STATE e) ≠ 3 → u.fget (FAB_OE_VIOL e) = 16 → exec (.firewallViolation e addr) s = .next (((u.fset (FAB_OE_STATE e) 3).engineDark e).resetEndpoint (.opticalEngine e)))) ∧
    (∀ (s : State) (e : Fin 4), s.fget (FAB_OE_STATE e) = 2 → exec (.engineFail e) s = .next ((s.fset (FAB_OE_STATE e) 4).engineDark e)) ∧
    ∀ (s : State) (e : Fin 4) (c : Nat), s.fget (FAB_OE_STATE e) = 4 → (∀ x ∈ s.deadLinks, ∀ m, x ≠ .engine e m) → exec (.engineReady e c) s = .next ((s.fset (FAB_OE_TEMP_C e) c).fset (FAB_OE_STATE e) 2)

/-- COPY writes what it read at its destination, or sends it as stream data followed by the drop of its block; RESULT is the length. ENCODE writes the parity of every byte offset; DECODE writes the shards that it corrected, when every codeword is then divisible; both answer 0. VERIFY answers 0 when every codeword is divisible, else the first byte offset with bit 63 set, and writes nothing. DECODE that meets a bad codeword stops at the line before it with JIG_MISMATCH, also when the encoders disagree at that line or later; a disagreement of the encoders stops with JIG_CHECK at the line that it was writing. Each waits behind an earlier one of the partition. It says of COPY, ENCODE, DECODE and VERIFY that exec answers a next state, the one given, under conditions on the state and the operands alone. (13_memory.md) -/
def Obligations.JigsawRuns : Prop :=
  (∀ (s u v : State) (o : Origin) (d : Desc) (p : Nat) (data : List Byte) (l : List (Nat × Nat)), RunsNow s o (isJgOp 0) (fun s d => jgInputs s o d) (fun s d => jgOutputs s o d) d →
      l = jgInputs s o d → u = s.reading o l → p = u.originPart o → data = u.vload p (jgSrc d.raw) (jgLen d.raw) → v = u.jigBytes data.length →
      (u.behindIn p isJig d = true → ∀ bad, exec (.copy o .none bad) s = .next u) ∧
      (u.behindIn p isJig d = false →
        (jgRemote d.raw = false → exec (.copy o .none none) s = .next (((v.vstore p (jgDst d.raw) data (.desc p d.id)).ranDesc o d.id true (jgLen d.raw)).dropStream l)) ∧
        (∀ i off, jgRemote d.raw = false → exec (.copy o .none (some (i, off))) s =
          .next (((v.vstore p (jgDst d.raw) (data.take (off / 128 * 128)) (.desc p d.id)).jigFail p 0 i (off / 128 * 128) .jigCheck).settle o d l)) ∧
        (∀ w, jgRemote d.raw = true → v.sendData p (jgBlk d.raw) (jgDst d.raw) (data.length + 1) data = some w →
          exec (.copy o .none none) s = .next ((w.dropRun o d (jgBlk d.raw) (jgLen d.raw) (jgLen d.raw)).settle o d l)) ∧
        (jgRemote d.raw = true → v.sendData p (jgBlk d.raw) (jgDst d.raw) (data.length + 1) data = none →
          exec (.copy o .none none) s = .next ((v.noRouteRun p (jgBlk d.raw)).settle o d l)))) ∧
    (∀ (s u v : State) (o : Origin) (d : Desc) (op p : Nat) (codes : List (List Nat)) (l : List (Nat × Nat)) (c : Origin → Upset → Option (Nat × Nat) → Instr),
      (op, c) ∈ ([(1, .encode), (2, .decode), (3, .verify)] : List (Nat × (Origin → Upset → Option (Nat × Nat) → Instr))) →
      RunsNow s o (isJgOp op) (fun s d => jgInputs s o d) (fun s d => jgOutputs s o d) d → jgOp d.raw = op → l = jgInputs s o d → u = s.reading o l → p = u.originPart o →
      codes = (List.range (jgLen d.raw)).map (fun b => fullCode d.raw (codeAt (u.shardData p d.raw d.table) b)) → v = u.jigBytes ((jgReads d.raw).length * jgLen d.raw) →
      (u.behindIn p isJig d = true → ∀ bad, exec (c o .none bad) s = .next u) ∧
      (u.behindIn p isJig d = false →
        (op = 1 ∨ (∀ x ∈ codes, codeGood d.raw x = true) →
          exec (c o .none none) s = .next (((v.writeShards p d.raw d.table (.desc p d.id) codes fun _ => jgLen d.raw).ranDesc o d.id true 0).dropStream l)) ∧
        (∀ b, op = 3 → codes.findIdx? (fun x => !codeGood d.raw x) = some b → exec (c o .none none) s = .next ((v.ranDesc o d.id true (2 ^ 63 + b)).dropStream l)) ∧
        (∀ (b : Nat) (bad : Option (Nat × Nat)), op = 2 → codes.findIdx? (fun x => !codeGood d.raw x) = some b → (∀ i off, bad = some (i, off) → b / 128 ≤ off / 128) → exec (c o .none bad) s =
          .next (((v.writeShards p d.raw d.table (.desc p d.id) codes fun _ => b / 128 * 128).jigFail p 1 0x1F (b / 128 * 128) .jigMismatch).settle o d l)) ∧
        ∀ i off, (op = 2 → ∀ b, codes.findIdx? (fun x => !codeGood d.raw x) = some b → off / 128 < b / 128) → exec (c o .none (some (i, off))) s =
          .next (((v.writeShards p d.raw d.table (.desc p d.id) codes fun j => if j < i then off / 128 * 128 + 128 else off / 128 * 128).jigFail p 0 i (off / 128 * 128) .jigCheck).settle o d l))) ∧
    ∀ (raw : Nat) (code : List Nat), (jgOp raw = 1 → fullCode raw code = code.take (jgK raw) ++ rsParity (jgM raw) (code.take (jgK raw))) ∧ (jgOp raw = 3 → fullCode raw code = code)

/-- STASH of an EMPTY handle keeps the bytes of its form in the chunks of its placement, or only notes the tensor as not kept; the handle is then held, and RESULT is its placement; a handle in use is YOY_HANDLE, no place YOY_FULL, an element that the form cannot hold YOY_LOSSY. RECALL of a handle that fits writes the tensor back (a tensor that was not kept writes nothing), empties the handle with FREE, and RESULT is the placement. RELEASE empties the handle; an EMPTY handle is YOY_HANDLE. GROUP_ROWS whose indices are all in range writes the rows in variant order, the segment table and the permutation; RESULT is the number of variants present; an index out of range is VARIANT_RANGE. Each waits behind an earlier one of its region. The variant order holds every row once, by variant and within a variant by row. It says of STASH, RECALL, RELEASE and GROUP_ROWS that exec answers a next state, the one given, under conditions on the state and the operands alone. (11_training_support.md) -/
def Obligations.ActivationsRun : Prop :=
  (∀ (s u : State) (o : Origin) (d : Desc) (outs : State → Desc → List (Nat × Nat)) (r p : Nat) (l : List (Nat × Nat)) (x : Handle), outs = (fun s d => s.dpaRanges (s.originPart o) (yoWrites d.raw)) → r = dRegion d.raw →
      u = s.reading o l → p = u.originPart o →
      (∀ (op : Nat) (ins : State → Desc → List (Nat × Nat)) (i : Instr), (op, ins, i) ∈ ([(0, (fun s d => if s.stashReads d.raw then s.dpaRanges (s.originPart o) (yoReads d.raw ++ healthExtent (yoHealth d.raw)) else []), .stash o .none), (1, recallInputs, .recallOp o .none),
          (2, fun _ _ => [], .release o .none), (3, fun s d => s.dpaRanges (s.originPart o) (yoReads d.raw), .groupRows o .none)] : List (Nat × (State → Desc → List (Nat × Nat)) × Instr)) →
        RunsNow s o (isYoOp op) ins outs d → l = ins s d → u.yoBehind d = true → exec i s = .next u) ∧
      (∀ code chunks, RunsNow s o (isYoOp 0) (fun s d => if s.stashReads d.raw then s.dpaRanges (s.originPart o) (yoReads d.raw ++ healthExtent (yoHealth d.raw)) else []) outs d → l = (if s.stashReads d.raw then s.dpaRanges (s.originPart o) (yoReads d.raw ++ healthExtent (yoHealth d.raw)) else []) → u.yoBehind d = false →
        u.handle? r (yoHandle d.raw) = none → u.place d.raw = some (code, chunks) → x = ⟨code + 1, yoForm d.raw, yoFmt d.raw, yoRows d.raw, yoCols d.raw, yoTensor d.raw, yoPool d.raw, chunks⟩ →
        (code = 2 → exec (.stash o .none) s = .next (((u.keepHandle r (yoHandle d.raw) x (.desc p d.id)).ranDesc o d.id true 2).dropStream l)) ∧
        (code ≠ 2 → u.stashBytes p d.raw = none → exec (.stash o .none) s = .next ((u.yoFail d.raw 2 .yoyLossy).settle o d l)) ∧
        ∀ bs hl v, code ≠ 2 → u.stashBytes p d.raw = some (bs, hl) →
          v = (if yoForm d.raw = 1 then State.mergeHealth ((u.noteUndo o d).putRanges (.desc p d.id) (u.keptRanges r bs.length chunks) bs) p (yoHealth d.raw) hl (yoTensor d.raw) 1 2 (.desc p d.id)
            else (u.noteUndo o d).putRanges (.desc p d.id) (u.keptRanges r bs.length chunks) bs) → v.running p = true →
          exec (.stash o .none) s = .next (((v.keepHandle r (yoHandle d.raw) x (.desc p d.id)).ranDesc o d.id true code).dropStream l)) ∧
      (RunsNow s o (isYoOp 0) (fun s d => if s.stashReads d.raw then s.dpaRanges (s.originPart o) (yoReads d.raw ++ healthExtent (yoHealth d.raw)) else []) outs d → l = (if s.stashReads d.raw then s.dpaRanges (s.originPart o) (yoReads d.raw ++ healthExtent (yoHealth d.raw)) else []) → u.yoBehind d = false → (u.handle? r (yoHandle d.raw) = some x → exec (.stash o .none) s = .next ((u.yoFail d.raw 0 .yoyHandle).settle o d l)) ∧
        (u.handle? r (yoHandle d.raw) = none → u.place d.raw = none → exec (.stash o .none) s = .next ((u.yoFail d.raw 1 .yoyFull).settle o d l))) ∧
      (RunsNow s o (isYoOp 1) recallInputs outs d → l = recallInputs s d → u.yoBehind d = false → (u.handle? r (yoHandle d.raw) = some x → x.fits d.raw = true → ∀ v : State,
          v = (if x.st = 3 then u.noteUndo o d else (u.noteUndo o d).recallWrite p d.id d.raw x (u.keptOf r x).toArray) → v.running p = true → exec (.recallOp o .none) s =
          .next (((if yoFree d.raw then v.emptyHandle r (yoHandle d.raw) else v).ranDesc o d.id true (x.st - 1)).dropStream l)) ∧
        (u.handle? r (yoHandle d.raw) = none ∨ (u.handle? r (yoHandle d.raw) = some x ∧ x.fits d.raw = false) → exec (.recallOp o .none) s = .next ((u.yoFail d.raw 0 .yoyHandle).settle o d l))) ∧
      (RunsNow s o (isYoOp 2) (fun _ _ => []) outs d → l = [] → u.yoBehind d = false → (u.handle? r (yoHandle d.raw) = some x →
        exec (.release o .none) s = .next ((u.emptyHandle r (yoHandle d.raw)).ranDesc o d.id true 0)) ∧
        (u.handle? r (yoHandle d.raw) = none → exec (.release o .none) s = .next ((u.yoFail d.raw 0 .yoyHandle).settle o d []))) ∧
      ∀ (idx : Array Nat) (order : List Nat) (v w : State), RunsNow s o (isYoOp 3) (fun s d => s.dpaRanges (s.originPart o) (yoReads d.raw)) outs d → l = s.dpaRanges (s.originPart o) (yoReads d.raw) → u.yoBehind d = false →
        idx = ((List.range (yoRows d.raw)).map fun i => u.vloadNat p (yoVidx d.raw + 2 * i) 2).toArray → order = variantOrder idx (yoVcount d.raw) →
        v = (u.each order.zipIdx fun t x => t.vstore p (yoDst d.raw + x.2 * yoDstride d.raw) (u.vload p (yoAddr d.raw + x.1 * yoStride d.raw) (yoCols d.raw)) (.desc p d.id)).vstore p
          (yoSeg d.raw) (segTable idx (yoVcount d.raw) 0) (.desc p d.id) →
        w = (if yoPerm d.raw = 0 then v else v.vstore p (yoPerm d.raw) (order.flatMap (natLe 4)) (.desc p d.id)) →
        ((∀ x ∈ idx, x < 4096 ∧ x < yoVcount d.raw) →
          exec (.groupRows o .none) s = .next ((w.ranDesc o d.id true ((List.range (yoVcount d.raw)).filter fun v => variantCount idx v != 0).length).dropStream l)) ∧
        ((∃ x ∈ idx, 4096 ≤ x ∨ yoVcount d.raw ≤ x) → exec (.groupRows o .none) s = .next ((u.yoFail d.raw 3 .variantRange).settle o d l))) ∧
    (∀ (s : State) (r h : Nat) (x : Handle) (owner : Owner), (s.emptyHandle r h).handle? r h = none ∧ (x.chunks = [] → (s.keepHandle r h x owner).handle? r h = some x)) ∧
    ∀ (idx : Array Nat) (n : Nat), (∀ i < idx.size, idx.getD i 0 < n) → (variantOrder idx n).Perm (List.range idx.size) ∧
      (variantOrder idx n).Pairwise fun i j => idx.getD i 0 < idx.getD j 0 ∨ idx.getD i 0 = idx.getD j 0 ∧ i < j

/-- A snapshot descriptor completes with RESULT 0 when it starts (R293). CHUNK_LEFT reads the next chunk whole (R294) and releases that chunk and no other; it stores it in companion memory, or sends it as stream data, followed after the last chunk by the remote drop of the block; a chunk that cannot be corrected raises MEM_UNCORR. SNAPSHOT_FINISH does nothing before every chunk has left and every byte is visible; then it writes the status record, drops the note marbles, frees the engine and stops a partition that waited for it (R295, R296). It says of SNAPSHOT, CHUNK_LEFT and SNAPSHOT_FINISH that exec answers a next state, the one given, under conditions on the state and the operands alone. (11_training_support.md) -/
def Obligations.Snapshots : Prop :=
  (∀ (s : State) (o : Origin) (d : Desc), RunsNow s o isSnapshot noRanges noRanges d → exec (.snapshot o) s = .next (s.ranDesc o d.id true 0)) ∧
    (∀ (s u w : State) (p : Fin 4) (phys : ReadUpset) (x y : Snap) (i : Nat) (data : List Byte), (s.part p).snap = some x → x.next = some i →
      (s.strike phys).readFor p (s.dpaRange p (snSrc x.list i) (snLen x.list i)) = (u, none) → data = (s.dpaRange p (snSrc x.list i) (snLen x.list i)).flatMap (fun r => u.load r.1 r.2) →
      y = { x with left := x.left ++ [i], bytes := x.bytes + data.length } → w = u.updPart p (fun q => { q with snap := some y }) →
      (i ∈ x.held ∧ i ∉ y.held ∧ ∀ j, j ≠ i → (j ∈ y.held ↔ j ∈ x.held)) ∧
      (snRemote x.raw = false → exec (.chunkLeft p phys) s = .next (w.vstore p (snDst x.raw + snOff x.list i) data (.snap p))) ∧
      (∀ v, snRemote x.raw = true → blkEn (snBlk x.raw) = false ∨ y.held ≠ [] → w.sendData p (snBlk x.raw) (snDst x.raw + snOff x.list i) (data.length + 1) data = some v →
        exec (.chunkLeft p phys) s = .next v) ∧
      (snRemote x.raw = true → w.sendData p (snBlk x.raw) (snDst x.raw + snOff x.list i) (data.length + 1) data = none → exec (.chunkLeft p phys) s = .next (w.noRoute p (blkNode (snBlk x.raw)))) ∧
      ∀ v z, snRemote x.raw = true → blkEn (snBlk x.raw) = true → y.held = [] → w.sendData p (snBlk x.raw) (snDst x.raw + snOff x.list i) (data.length + 1) data = some v →
        v.sendDrop p (snBlk x.raw) y.bytes .snap = some z → exec (.chunkLeft p phys) s = .next (z.updPart p fun q => { q with snap := some { y with dropSent := true } })) ∧
    (∀ (s u : State) (p : Fin 4) (phys : ReadUpset) (x : Snap) (i a : Nat), (s.part p).snap = some x → x.next = some i →
      (s.strike phys).readFor p (s.dpaRange p (snSrc x.list i) (snLen x.list i)) = (u, some a) → exec (.chunkLeft p phys) s = .next (u.raise p .memUncorr (u.uncorrCause a))) ∧
    ∀ (s t : State) (p : Fin 4) (x : Snap), (s.part p).snap = some x →
      (s.snapDone p x = false → exec (.snapshotFinish p) s = .next s) ∧
      (s.snapDone p x = true → t = (if snNoteEn x.raw = true ∧ snNoteN x.raw ≠ 0 then (s.putRanges (.snap p) x.statusAt (x.record 1 (s.beat p))).dropOr p (snNoteJar x.raw) (snNoteN x.raw) { unit := unitHub }
          else s.putRanges (.snap p) x.statusAt (x.record 1 (s.beat p))).updPart p (fun q => { q with snap := none }) →
        (t.part p).snap = none ∧ exec (.snapshotFinish p) s = .next (if t.pstate p = 4 then t.stopPart p else t))

/-- DUP_COMPARE takes the oldest sample of its kind from the mirror queue of the twin and counts it; a difference makes both cores suspect and raises DUP_MISMATCH with the beat of the sample (R301, R305). ROTATION_DUE books a rotation of a running partition whose older twin serves (R311). HANDOVER_END gives the slot to the older twin, makes the outgoing core the newer one and starts the interval again, or raises CAROUSEL_FAIL; then the accesses that waited go on (R312). SUITE_END passes or fails the suite of the core; the last suite of a starting partition lets its start go on (R308, R309, R314). It says of DUP_COMPARE, ROTATION_DUE, HANDOVER_END and SUITE_END that exec answers a next state, the one given, under conditions on the state and the operands alone. (12_result_checking.md) -/
def Obligations.CheckingRuns : Prop :=
  (∀ (s t : State) (r : Fin 4) (twin kind : Nat) (d : Dup) (l : List Dup), (s.region r).queue twin kind = d :: l → t = (s.updRegion r fun q => { q with dups := q.dups.erase d }).dupCount r kind →
      ∀ wrong, (crc64 (d.unit.replay wrong) = d.unit.digest → exec (.dupCompare r twin kind wrong) s = .next t) ∧
        (crc64 (d.unit.replay wrong) ≠ d.unit.digest → exec (.dupCompare r twin kind wrong) s = .next (t.dupMismatch r d))) ∧
    (∀ u : Mirror, u.replay [] = u.outs) ∧
    (∀ (s : State) (r : Fin 4) (d : Dup), s.fget (RGN_DUP_LOG_VALID r) = 1 → d.worker < 42 →
      s.dupMismatch r d = ((s.suspect r d.twin).suspect r d.worker).raise (((s.suspect r d.twin).suspect r d.worker).regionPart r) .dupMismatch
        { unit := if d.kind = 2 then unitRegion r else unitSlot r d.slot, log := ((s.suspect r d.twin).suspect r d.worker).dupLog r, tag := d.tag, addr := d.beat }) ∧
    (∀ (s : State) (r : Fin 4), s.running (s.regionPart r) = true → s.rotationDue r = true → s.fget (RGN_TWIN_PHASE_TWIN0_PHASE r) = 2 → s.booked (s.regionPart r) 1 r = none →
      (s.region r).handover = none → exec (.rotationDue r) s = .next ((s.book (s.regionPart r) 1 r 0).fset (RGN_CAROUSEL_NEXT_BEAT r)
        ((((s.book (s.regionPart r) 1 r 0).booked (s.regionPart r) 1 r).map (·.beat)).getD 0))) ∧
    (∀ (s : State) (r : Fin 4) (k : Nat), (s.region r).handover = some k →
      exec (.handoverEnd r true) s = .next (((s.rotate r k).releaseHeld (s.regionPart r) r k).unpark r k) ∧
      exec (.handoverEnd r false) s = .next (((((s.updRegion r fun q => { q with handover := none }).fset (RGN_TWIN_PHASE_TWIN0_PHASE r) 2).releaseHeld (s.regionPart r) r k).raise (s.regionPart r)
        .carouselFail { unit := unitSlot r k }).unpark r k)) ∧
    (∀ (s : State) (r : Fin 4) (k : Fin 40), (s.rotate r k).slotCore r k = s.fget (RGN_TWIN_IDS_TWIN0 r) % 64 ∧ (s.rotate r k).fget (RGN_TWIN_PHASE_SINCE_S r) = 0 ∧
      (s.fget (RGN_TWIN_IDS_TWIN1 r) ≠ 0x3F → (s.rotate r k).fget (RGN_TWIN_IDS_TWIN0 r) = s.fget (RGN_TWIN_IDS_TWIN1 r) % 64 ∧ (s.rotate r k).fget (RGN_TWIN_IDS_TWIN1 r) = s.slotCore r k % 64) ∧
      (s.fget (RGN_TWIN_IDS_TWIN1 r) = 0x3F → (s.rotate r k).fget (RGN_TWIN_IDS_TWIN0 r) = s.slotCore r k % 64) ∧ ∀ j : Fin 40, j ≠ k → (s.rotate r k).slotCore r j = s.slotCore r j) ∧
    ∀ (s : State) (r : Fin 4) (core : Nat) (stored : List Nat) (outs : List (List Byte)), mget? (s.region r).suites core = some stored →
      (s.testing (s.regionPart r) = false → (outs.map crc64 = stored → exec (.suiteEnd r core outs) s = .next (s.suitePass r core)) ∧
        (outs.map crc64 ≠ stored → exec (.suiteEnd r core outs) s = .next (s.suiteFail r core))) ∧
      ∀ (t : State), s.testing (s.regionPart r) = true → t = (if outs.map crc64 = stored then s.suitePass r core else s.suiteFail r core) →
        exec (.suiteEnd r core outs) s = .next (if t.pstate (s.regionPart r) = 2 ∧ t.testing (s.regionPart r) = false then t.goOn (s.regionPart r) else t)

/-- Booking an action puts one entry of that kind and unit into the list and keeps the others: it starts no earlier than asked and at least two beats ahead (R73), in the first beat that the rules allow: no second rotation of its region in a beat, no rotation in the beat of a clock or voltage step of the region (R74). A list sorted by beat, then kind, then unit stays so (R73). (02_beat.md) -/
def Obligations.BookingsKeepRules : Prop :=
  ∀ (s : State) (p : Fin 4) (kind unit beat : Nat), ∃ b : Booking, ((s.book p kind unit beat).part p).books = insertBooking b (s.part p).books ∧ b.kind = kind ∧ b.unit = unit ∧ beat ≤ b.beat ∧
    s.beat p + 2 ≤ b.beat ∧ bookable (s.part p).books b = true ∧ (∀ n, max beat (s.beat p + 2) ≤ n → n < b.beat → bookable (s.part p).books ⟨n, kind, unit⟩ = false) ∧
    ((s.part p).books.Pairwise (fun a b => ¬ b.before a) → ((s.book p kind unit beat).part p).books.Pairwise fun a b => ¬ b.before a) ∧
    ((s.book p kind unit beat).part p).books.Perm (b :: (s.part p).books)

/-- While the link trains, CAPS is answered with the capabilities of the device and with its receive buffers as credits (R395, R401); the bytes of the capabilities, which no rule gives, are a free value of the model (log entry 48), and this statement holds for any. CREDIT_INIT brings the link up, UP with sixteen lanes and DEGRADED with fewer, or fails the attempt when too few lanes or credits are there (R395, R401); a message of the class whose header does not conform fails it too (R398); a link that had gone down counts it and records its return (R415). A training timeout is recorded and training starts again. DOWN_NOTICE takes the link down: training, no lanes, no line held, nothing outstanding, no interrupt queued, no companion message waiting (R414). ECHO is sent back, as the command table says. It says of CAPS, CREDIT_INIT, GLK_TRAINING_TIMEOUT, DOWN_NOTICE and ECHO that exec answers a next state, the one given, under conditions on the state and the operands alone. (16_glaetlink.md) -/
def Obligations.LinkTrains : Prop :=
  (∀ (s t : State) (data : List Byte) (h : GlkHead), s.fget GLK_STAT_STATE = 1 → s.glk.capsSeen = false → s.glk.follows h = true → headMgmt h = true → headFits h data.length = true →
      t = (s.glkTake h (slotsOf data.length)).tick.updGlk (fun g => { g with capsSeen := true, seqTx := 2 }) →
      exec (.caps data h) s = .next ((t.emit (.glk ⟨0, t.glk.lastRx, false, 0, 0, some { GlkMsg.bare 7 0 0 with data := natLe 8 t.free.toNat }⟩)).emit
        (.glk ⟨1, t.glk.lastRx, false, 0, 0, some { GlkMsg.bare 7 1 0 with data := glkBuffers.flatMap (natLe 2) }⟩))) ∧
    (∀ (s r t : State) (lanes : Nat) (credits : List Nat) (h : GlkHead), s.fget GLK_STAT_STATE = 1 → s.glk.capsSeen = true → lanes < 65536 → s.glk.follows h = true → headMgmt h = true →
      r = s.glkTake h (slotsOf (headBytes h)) →
      (glkLanes lanes < r.glk.minLanes ∨ (∃ c ∈ leastCredits, credits.getD c.1 0 < c.2) → exec (.creditInit lanes credits h) s = .next r.glkTrainFail) ∧
      (r.glk.minLanes ≤ glkLanes lanes → (∀ c ∈ leastCredits, c.2 ≤ credits.getD c.1 0) →
        t = ((r.fsets [(GLK_STAT_LANES_UP, lanes), (GLK_STAT_STATE, if glkLanes lanes = 16 then 2 else 3)]).updGlk fun g => { g with credits := (List.range 8).map fun c => (c, credits.getD c 0), lost := false }).glkDrain →
        t.glkUp = true ∧ t.fget GLK_STAT_LANES_UP = lanes ∧ (t.fget GLK_STAT_STATE = 2 ↔ glkLanes lanes = 16) ∧
        exec (.creditInit lanes credits h) s = .next (if r.glk.lost then (t.fadd GLK_STAT_DOWNS 1).noteHub 0xB 0 0 else t))) ∧
    (∀ (s : State) (data : List Byte) (h : GlkHead), s.fget GLK_STAT_STATE = 1 → s.glk.follows h = true → headMgmt h = false →
      (s.glk.capsSeen = false → exec (.caps data h) s = .next s.glkTrainFail) ∧ ∀ (lanes : Nat) (credits : List Nat), s.glk.capsSeen = true → exec (.creditInit lanes credits h) s = .next s.glkTrainFail) ∧
    (∀ (s : State), s.fget GLK_STAT_STATE = 1 → exec .glkTrainingTimeout s = .next s.glkTrainFail ∧ s.glkTrainFail.fget GLK_STAT_STATE = 1 ∧ Recorded s (s.noteHub 4 0 0) { code := 4, note := true }) ∧
    (∀ (s t : State) (h : GlkHead), MsgComes s t h (slotsOf (headBytes h)) → (headMgmt h = true → exec (.downNotice h) s = .next t.glkDown) ∧ (headMgmt h = false → exec (.downNotice h) s = .next s.glkDown)) ∧
    (∀ s : State, s.glkDown.fget GLK_STAT_STATE = 1 ∧ s.glkDown.fget GLK_STAT_LANES_UP = 0 ∧ s.glkDown.glk.shared = [] ∧ s.glkDown.glk.outst = [] ∧
      s.glkDown.glk.irqs = [] ∧ s.glkDown.glk.parked = [] ∧ s.glkDown.glk.late = [] ∧ s.glkDown.glk.lost = true) ∧
    ∀ (s t : State) (data : List Byte) (h : GlkHead), MsgComes s t h (slotsOf data.length) → headMgmt h = true → headFits h data.length = true →
      exec (.echo data h) s = .next ((t.glkFree 7).glkPut { GlkMsg.bare 7 3 0 with data := data })

/-- On a link that is up: a retrain drops no message; a discarded flit is counted by its cause and answered with a NAK; a NAK frees what it acknowledges and replays the rest, the eighth in a row makes the link retrain; a flit out of sequence is answered with one NAK, and what follows is discarded until the replay; returned credits free the replay buffer, let messages leave, and let go on what waited for a snoop to be answered; the lane whose turn it is leaves for recalibration, rejoins, tries once more, or leaves for good; lost lanes leave the link DEGRADED, or take it down below MIN_LANES; the third failed retrain in a row takes it down (R353, R396, R401, R406, R414). That a recalibration is tried once more is the reading of log entry 61. It says of GLK_RETRAIN, GLK_FLIT_DISCARD, GLK_NAK, GLK_CREDIT_RETURN, GLK_LANE_RECAL, GLK_LANE_LOSS, GLK_RETRAIN_END and GLK_LANE_RECAL_END that exec answers a next state, the one given, under conditions on the state and the operands alone. (16_glaetlink.md, 14_fabric.md) -/
def Obligations.LinkRuns : Prop :=
  (∀ (s : State), s.glkUp = true →
      (s.glk.retraining = false → exec .glkRetrain s = .next s.glkRetrain ∧ s.glkRetrain.fget GLK_CTRL_RETRAIN = 1 ∧ s.glkRetrain.glk.retraining = true ∧ s.glkRetrain.glk.unacked = s.glk.unacked) ∧
      (∀ t : State, t = (s.fadd GLK_CNT0_FEC_UNCORR 1).updGlk (fun g => { g with nakSent := true }) → exec (.glkFlitDiscard .fec) s = .next (t.glkEmpty true 0 0)) ∧
      (∀ t : State, t = (s.fadd GLK_CNT1_CRC_ERR 1).updGlk (fun g => { g with nakSent := true }) → exec (.glkFlitDiscard .crc) s = .next (t.glkEmpty true 0 0)) ∧
      (∀ (ack : Nat) (t : State), t = s.updGlk (fun g => { g.acked ack with naks := (g.acked ack).naks + 1 }) →
        (t.glk.naks < 8 → exec (.glkNak ack) s = .next t.glkReplay) ∧ (8 ≤ t.glk.naks → exec (.glkNak ack) s = .next t.glkRetrain)) ∧
      (∀ ack cls n : Nat, exec (.glkCreditReturn ack cls n) s = .next (s.updGlk fun g => { g.acked ack with credits := mset g.credits cls (mgetD g.credits cls 0 + n) }).glkDrain.latesGo) ∧
      (∀ lane : Fin 16, s.glk.retraining = false → s.glk.laneOut = none → s.glkLaneDue = some lane.val →
        exec (.glkLaneRecal lane) s = .next ((s.updGlk fun g => { g with laneOut := some lane.val, laneRetry := false, laneNext := (lane.val + 1) % 16 }).fsetBit GLK_STAT_LANES_UP lane false)) ∧
      ∀ (mask left : Nat), mask < 65536 → left = maskMinus (s.fget GLK_STAT_LANES_UP) mask → s.glk.laneOut = none →
        (left = 0 ∨ glkLanes left < s.glk.minLanes → exec (.glkLaneLoss mask) s = .next s.glkDown) ∧
        (left ≠ 0 → s.glk.minLanes ≤ glkLanes left → left ≠ s.fget GLK_STAT_LANES_UP →
          exec (.glkLaneLoss mask) s = .next ((s.updGlk fun g => { g with laneOut := none, laneRetry := false }).fsets [(GLK_STAT_LANES_UP, left), (GLK_STAT_STATE, 3)]))) ∧
    (∀ (s : State) (t : State), s.glk.retraining = true → t = (s.updGlk fun g => { g with retraining := false, retrainFails := 0 }).fset GLK_CTRL_RETRAIN 0 →
      exec (.glkRetrainEnd true) s = .next t.glkReplay.glkDrain ∧
      (s.glk.retrainFails < 2 → exec (.glkRetrainEnd false) s = .next ((s.updGlk fun g => { g with retrainFails := g.retrainFails + 1 }).fadd GLK_STAT_RETRAINS 1)) ∧
      (2 ≤ s.glk.retrainFails → exec (.glkRetrainEnd false) s = .next s.glkDown)) ∧
    (∀ (s t : State) (lane : Fin 16), s.glk.laneOut = some lane.val → t = (s.updGlk fun g => { g with laneOut := none, laneRetry := false }).fsetBit GLK_STAT_LANES_UP lane true →
      exec (.glkLaneRecalEnd lane true) s = .next t ∧
      (s.glk.laneRetry = false → exec (.glkLaneRecalEnd lane false) s = .next (s.updGlk fun g => { g with laneRetry := true })) ∧
      (s.glk.laneRetry = true → exec (.glkLaneRecalEnd lane false) s = .next (t.glkLoseLanes (2 ^ lane.val)))) ∧
    (∀ s t : State, t = s.glkReplay → t.out = s.out ++ s.glk.unacked.map (fun e => Out.glk ⟨e.1, s.glk.lastRx, false, 0, 0, some e.2⟩) ∧ t.glk = s.glk) ∧
    (∀ (s : State) (h : GlkHead) (slots : Nat) (ok : Bool) (k : State → State), s.glk.follows h = false → s.glk.nakSent = false → (h.seq + 4096 - s.glk.seqRx) % 4096 < 2048 →
      s.glkAccept h slots ok k = (s.updGlk fun g => { g with nakSent := true }).glkEmpty true 0 0) ∧
    (∀ (s : State) (h : GlkHead) (slots : Nat) (ok : Bool) (k : State → State), s.glk.follows h = false → s.glk.nakSent = true → s.glkAccept h slots ok k = s) ∧
    ∀ (g : Glk) (a b : List (Nat × GlkMsg)) (e : Nat × GlkMsg), g.unacked = a ++ e :: b → (∀ x ∈ a, x.1 ≠ e.1) → (g.acked e.1).unacked = b

/-- SNP_INV takes its line out of the link cache and no other, marks every outstanding read of the line so that its answer leaves the line in I, counts itself and is answered with INV_ACK (R403). The DATA of a read brings its line for stream use, for fetch use into S, or, when a snoop came first, for the requester alone and not into S (R403, R404). WR_ACK lets the interrupts, the merges, the stream data and the collectives behind the write go, and the requests of its line (R132, R381, R393, R406). ERR and a timeout fail the request (R411). An answer to no outstanding request is discarded; a snoop, an acknowledgement or an error whose header, address or reason does not conform takes the link down (R398, R400). A message without a credit of its class waits (R401). It says of SNP_INV, GLK_DATA, WR_ACK, GLK_ERR and GLK_TIMEOUT that exec answers a next state, the one given, under conditions on the state and the operands alone. (16_glaetlink.md) -/
def Obligations.SnoopsAndAnswers : Prop :=
  (∀ (s r t : State) (tag addr l : Nat) (h : GlkHead), MsgComes s r h 1 → headFits h 0 = true → addr % 128 = 0 → addr < 2 ^ 42 → l = addr / 128 →
      t = (((r.glkFree 1).fadd GLK_CACHE_CNT_SNOOPS 1).updGlk fun g => { g with shared := g.shared.filter (· != l), outst := g.outst.map fun o => if o.op = 0 ∧ lineOf o.pa = l then { o with snooped := true } else o }).glkPut (GlkMsg.bare 2 1 tag) →
      exec (.snpInv tag addr h) s = .next t ∧ l ∉ t.glk.shared ∧ (∀ j, j ≠ l → (j ∈ t.glk.shared ↔ j ∈ r.glk.shared)) ∧ (∀ o ∈ t.glk.outst, o.op = 0 → lineOf o.pa = l → o.snooped = true) ∧
      t.glk.outst.map Outst.tag = r.glk.outst.map Outst.tag) ∧
    (∀ (s r t u : State) (tag : Nat) (data : List Byte) (phys : ReadUpset) (h : GlkHead) (o : Outst) (l : Nat), MsgComes s r h (slotsOf data.length) → headFits h data.length = true → data.length = 128 →
      r.glk.request tag = some o → o.isWrite = false → l = lineOf o.pa → t = { r.glkFree 3 with mem := r.mem.writeBytes (glkBase + 128 * l) data } →
      u = (if o.op = 1 then t.updGlk fun g => { g with held := l :: g.held.filter (· != l) } else if o.snooped = true then t.updGlk fun g => { g with once := l :: g.once.filter (· != l) } else t.fillLine l) →
      (o.op ≠ 0 → o.owner ≠ .security .token → exec (.glkData tag data phys h) s = .next ((u.glkSettle tag).mergesGo.strike phys)) ∧
      (o.op ≠ 0 → o.owner = .security .token → exec (.glkData tag data phys h) s = .next ((u.glkSettle tag).mergesGo.strike phys).tokenCheck) ∧
      (o.op = 0 → exec (.glkData tag data phys h) s = .next (((u.glkSettle tag).mergesGo.strike phys).each allParts State.fetchGoesOn)) ∧
      (o.op = 0 → o.snooped = true → u.glk.shared = r.glk.shared ∧ l ∈ u.glk.once) ∧ (o.op = 1 → u.glk.shared = r.glk.shared ∧ l ∈ u.glk.held)) ∧
    (∀ (s r t : State) (tag : Nat) (h : GlkHead) (o : Outst), MsgComes s r h 1 → headFits h 0 = true → r.glk.request tag = some o → o.isWrite = true →
      t = (r.glkFree 2).updGlk (fun g => { g with irqs := g.irqs.map fun w => if w.tag = some tag then { w with tag := none } else w }) →
      exec (.wrAck tag h) s = .next (t.glkSettle tag).flushIrqs.mergesGo.resyncGoes.landsGo.collsGo) ∧
    (∀ (s r : State) (tag reason : Nat) (h : GlkHead) (o : Outst), MsgComes s r h 1 → headFits h 0 = true → 8 ≤ reason → reason ≤ 10 → r.glk.request tag = some o →
      exec (.glkErr tag reason h) s = .next ((r.glkFree 2).glkFail o .glkRefused 0 reason)) ∧
    (∀ (s : State) (tag : Nat) (o : Outst), s.glk.request tag = some o → exec (.glkTimeout tag) s = .next (s.glkFail o .glkTimeout 1 0)) ∧
    (∀ (s r : State) (tag : Nat) (h : GlkHead), r.glk.request tag = none →
      (∀ (data : List Byte) (phys : ReadUpset), MsgComes s r h (slotsOf data.length) → headFits h data.length = true → data.length = 128 → exec (.glkData tag data phys h) s = .next (r.glkFree 3)) ∧
      (MsgComes s r h 1 → headFits h 0 = true → exec (.wrAck tag h) s = .next (r.glkFree 2)) ∧ exec (.glkTimeout tag) r = .next r) ∧
    (∀ (s r : State) (tag addr reason : Nat) (h : GlkHead), MsgComes s r h 1 → (headFits h 0 = false ∨ addr % 128 ≠ 0 → exec (.snpInv tag addr h) s = .next s.glkDown) ∧ (headFits h 0 = false → exec (.wrAck tag h) s = .next s.glkDown) ∧
      (headFits h 0 = false ∨ reason < 8 ∨ 10 < reason → exec (.glkErr tag reason h) s = .next s.glkDown)) ∧
    (∀ (s : State) (tag : Nat), (s.updGlk fun g => { g with outst := g.outst.filter fun o => o.tag != tag }).glk.request tag = none) ∧
    ∀ (s : State) (m : GlkMsg), mgetD s.glk.credits m.cls 0 = 0 → s.glkPut m = s.updGlk fun g => { g with waiting := g.waiting ++ [m] }

/-- A read of the companion is answered with its data, or with ERR and the reason: a register access as the register rules say, a memory access with reason 1, 3, 4, 5 or 7 before anything is read, with reason 6 where a sector cannot be corrected (R407, R410). A write is performed and acknowledged, or turned away in the same way; an access to a slot in a handover waits for its end, and one behind an unanswered snoop waits for its answer (R40, R406); one that covers an uncorrectable sector in part writes nothing and raises MEM_UNCORR (R329, R331). Unmapped and companion addresses give reason 1; a device-fatal hub gives reason 5 (R409); DRAM accesses are 8 to 128 bytes, naturally aligned. It says of GLK_RD and GLK_WR that exec answers a next state, the one given, under conditions on the state and the operands alone. (16_glaetlink.md, 01_organisation.md, 13_memory.md) -/
def Obligations.CompanionAccess : Prop :=
  (∀ (s r t : State) (tag a size : Nat) (phys : ReadUpset) (h : GlkHead), MsgComes s r h 1 → h.rsv = false → h.size ≤ 5 → r.glk.behindSnoop = false → r.inHandover a = false → t = r.glkFree 0 →
      (target a = .registers → ∀ e, t.regError a size false = some e → exec (.glkRd tag a size phys h) s = .next ((t.regFailed a e).answerErr tag e.1)) ∧
      (target a = .registers → t.regError a size false = none → exec (.glkRd tag a size phys h) s = .next (t.answerData tag (t.regBytes a size))) ∧
      (target a ≠ .registers → ∀ e, t.memError a size false = some e → exec (.glkRd tag a size phys h) s = .next ((t.regFailed a e).answerErr tag e.1)) ∧
      (target a ≠ .registers → t.memError a size false = none → wordStruck phys a size = none →
        (∀ u, (t.strike phys).readRanges [(a, size)] = (u, true) → exec (.glkRd tag a size phys h) s = .next (u.answerData tag (u.windowLoad a size))) ∧
        ∀ u, (t.strike phys).readRanges [(a, size)] = (u, false) → exec (.glkRd tag a size phys h) s = .next (u.answerErr tag 6))) ∧
    (∀ (s r : State) (tag a size : Nat) (data : List Byte) (phys : ReadUpset) (h : GlkHead), r.glk.behindSnoop = false → r.fatal = false → r.inHandover a = true →
      (MsgComes s r h 1 → h.rsv = false → h.size ≤ 5 → exec (.glkRd tag a size phys h) s = .next (r.updGlk fun g => { g with parked := g.parked ++ [⟨tag, a, size, none, phys⟩] })) ∧
      (MsgComes s r h (1 + slotsOf data.length) → headFits h data.length = true → exec (.glkWr tag a data phys h) s = .next (r.updGlk fun g => { g with parked := g.parked ++ [⟨tag, a, data.length, some data, phys⟩] }))) ∧
    (∀ (s r : State) (tag a size : Nat) (data : List Byte) (phys : ReadUpset) (h : GlkHead), r.glk.behindSnoop = true →
      (MsgComes s r h 1 → h.rsv = false → h.size ≤ 5 → exec (.glkRd tag a size phys h) s = .next (r.keepLate (.access ⟨tag, a, size, none, phys⟩))) ∧
      (MsgComes s r h (1 + slotsOf data.length) → headFits h data.length = true → exec (.glkWr tag a data phys h) s = .next (r.keepLate (.access ⟨tag, a, data.length, some data, phys⟩)))) ∧
    (∀ (s r t : State) (tag a : Nat) (data : List Byte) (phys : ReadUpset) (h : GlkHead), MsgComes s r h (1 + slotsOf data.length) → headFits h data.length = true → r.glk.behindSnoop = false → r.inHandover a = false →
      t = (r.glkFree 0).glkFree 3 →
      (target a = .registers → ∀ u, t.regWrite a data.length (leNat data) = (u, none) → exec (.glkWr tag a data phys h) s = .next (u.answerAck tag)) ∧
      (target a = .registers → ∀ u e, t.regWrite a data.length (leNat data) = (u, some e) → exec (.glkWr tag a data phys h) s = .next (u.answerErr tag e)) ∧
      (target a ≠ .registers → ∀ e, t.memError a data.length true = some e → exec (.glkWr tag a data phys h) s = .next ((t.regFailed a e).answerErr tag e.1)) ∧
      (target a ≠ .registers → t.memError a data.length true = none →
        (∀ u, (t.strike phys).writeRange a data.length = (u, none) → exec (.glkWr tag a data phys h) s = .next ((u.store a data .resync).answerAck tag)) ∧
        ∀ u sec, (t.strike phys).writeRange a data.length = (u, some sec) → exec (.glkWr tag a data phys h) s = .next ((u.raise (partOfDram u.layout sec) .memUncorr (u.uncorrCause sec)).answerErr tag 6))) ∧
    (∀ (s : State) (a size : Nat) (write : Bool), target a = .unmapped ∨ target a = .companion → s.fatal = false → s.memError a size write = some (1, true)) ∧
    (∀ (s : State) (a size : Nat) (write : Bool), s.fatal = true → s.memError a size write = some (5, false)) ∧
    ∀ (s : State) (a size : Nat) (write : Bool), s.fatal = false → target a = .dram → s.dramRefuses a = false → (s.memError a size write = none ↔ (size = 8 ∨ size = 16 ∨ size = 32 ∨ size = 64 ∨ size = 128) ∧ a % size = 0)

/-- A word of the companion or of an endpoint of the device is discarded and counted while its receiver is in reset (R448), discarded with OVF when the queue is full, else stamped and queued behind the words there; no other queue changes (R445, R446). A word of the companion behind an unanswered snoop waits (R406); a word of an optical engine for a channel that is not its own is a firewall violation (R366). The oldest word toward the companion is sent when the link has a credit; a receiver of the device takes the oldest word; a queue that becomes empty sets EMPTY of its sender; a limit that runs out sets TIMEOUT (R447). An endpoint enters and leaves reset. It says of MBX_TX, MBOX_WORD, ENDPOINT_WORD_SEND, MBOX_DELIVER, WORD_REMOVE, MBX_TIMEOUT, ENDPOINT_RESET and ENDPOINT_READY that exec answers a next state, the one given, under conditions on the state and the operands alone. (18_recorder_mailboxes.md) -/
def Obligations.MailboxesRun : Prop :=
  (∀ (s : State) (c word : Nat), companionChannel c = true → exec (.mbxTx c word) s = .next (s.mboxSend c .toB word (endpointUnit .companion)) ∧
      (∀ (r : State) (h : GlkHead), MsgComes s r h 2 → headFits h 8 = true →
        (r.glk.behindSnoop = false → exec (.mboxWord c word h) s = .next ((r.glkFree 6).mboxSend c .toB word (endpointUnit .companion))) ∧
        (r.glk.behindSnoop = true → exec (.mboxWord c word h) s = .next (r.keepLate (.word c word))))) ∧
    (∀ (s : State) (e : Fin 4) (c word : Nat), sendDir (.opticalEngine e) c = none → s.inReset (.opticalEngine e) = false → exec (.endpointWordSend (.opticalEngine e) c word) s = .next (firewallViolation e 0 s)) ∧
    (∀ (s : State) (e : Endpoint) (c word : Nat) (d : Dir), sendDir e c = some d → e ≠ .companion → s.inReset e = false → exec (.endpointWordSend e c word) s = .next (s.mboxSend c d word (endpointUnit e))) ∧
    (∀ (s : State) (c word stamp : Nat) (d : Dir),
      (s.inReset (receiver c d) = true → s.mboxSend c d word stamp = (s.fadd (MBX_STAT_LOST c) 1).mboxTimeout c d) ∧
      (s.inReset (receiver c d) = false → 16 ≤ ((s.chan c).queue d).length → s.mboxSend c d word stamp = s.mboxOvf c d) ∧
      (s.inReset (receiver c d) = false → ((s.chan c).queue d).length < 16 → ((s.mboxSend c d word stamp).chan c).queue d = (s.chan c).queue d ++ [(word % 2 ^ 64, stamp)] ∧
        ∀ c' d', (c', d') ≠ (c, d) → ((s.mboxSend c d word stamp).chan c').queue d' = (s.chan c').queue d')) ∧
    (∀ (s : State) (c w stamp : Nat) (l : List (Nat × Nat)), (s.chan c).toA = (w, stamp) :: l → companionChannel c = true → s.glkUp = true → s.glk.canSend 6 = true →
      exec (.mboxDeliver c) s = .next ((s.glkPut { GlkMsg.bare 6 0 0 with arg := c, data := natLe 8 w }).mboxRemove c .toA)) ∧
    (∀ (s : State) (c : Nat) (d : Dir), mbxChannelExists c = true → receiver c d ≠ .companion → s.inReset (receiver c d) = false → s.mboxHeld c = false → exec (.wordRemove c d) s = .next (s.mboxRemove c d)) ∧
    (∀ (s t : State) (c : Nat) (d : Dir) (x : Nat × Nat) (l : List (Nat × Nat)), (s.chan c).queue d = x :: l → t = s.updChan c (fun q => q.setQueue d l) →
      (t.chan c).queue d = l ∧ s.mboxRemove c d = (if l = [] then t.mboxEmpty c d else t)) ∧
    (∀ (s : State) (c : Nat) (d : Dir), mbxChannelExists c = true → (s.chan c).queue d ≠ [] → s.mboxLimit c d ≠ some 0 → exec (.mbxTimeout c d) s = .next (s.mboxTimeout c d)) ∧
    ∀ (s : State) (e : Endpoint), (e ≠ .companion → exec (.endpointReset e) s = .next (s.resetEndpoint e)) ∧
      exec (.endpointReady e) s = .next { s with epReset := s.epReset.filter (· != e) } ∧ e ∉ s.epReset.filter (· != e)

/-- For every symbol of a sector and every wrong value, one symbol in error, check symbols included, is corrected to what it was; two or three symbols in error are always reported as uncorrectable and never taken for another error (R327, R328). (13_memory.md) -/
def Obligations.SectorCode : Prop :=
  (sectorDecode [] = .clean) ∧
    (∀ (i : Nat) (v : Byte), i < 68 → v ≠ 0 → sectorDecode [(i, v)] = .corrected i v) ∧
    (∀ (i j : Nat) (v w : Byte), i < 68 → j < 68 → i ≠ j → v ≠ 0 → w ≠ 0 → sectorDecode [(i, v), (j, w)] = .uncorrectable) ∧
    ∀ (i j k : Nat) (v w x : Byte), i < 68 → j < 68 → k < 68 → i ≠ j → i ≠ k → j ≠ k → v ≠ 0 → w ≠ 0 → x ≠ 0 → sectorDecode [(i, v), (j, w), (k, x)] = .uncorrectable

/-- SCRUB_READ reads the next sector of a stack in service, in ascending stack address, and goes on to the one after it, a pass being complete after the last; a sector of a pseudo-channel out of service is skipped (R338): one that can be corrected goes the way of every read, one that cannot is logged, faults the partition of its share and enters the list of 64, unless it stands there (R330, R332). RECAL_DUE, when a pass is due by time or temperature, books it in every running partition of the stack; with none it starts, or waits for the pass of its region that runs (R336). VISIT_START takes the next pseudo-channel in service, or ends the pass; VISIT_END spares a due row and goes on, tries once more, or leaves the pseudo-channel out of service with MEM_TRAIN (R333 to R338). ISOLATE_DIE closes the gates of a die once (R426). D2D_RETRY counts a replay and starts a retrain after 16 in a row or more than 65,536 in a second; one that fails is persistent (R429, R430). It says of SCRUB_READ, RECAL_DUE, VISIT_START, VISIT_END, ISOLATE_DIE, D2D_RETRY and MODULE_RETRAIN_END that exec answers a next state, the one given, under conditions on the state and the operands alone. (13_memory.md, 17_faults.md) -/
def Obligations.MemoryAndDies : Prop :=
  (∀ (s t : State) (m : Fin 12) (addr a : Nat) (errs : List (Nat × Byte)), s.stackUp m = true → addr = (s.stack m).scrub * 64 → (s.stack m).outPc.contains (pcOf addr) = false →
      a = dpaOfStack s.layout m addr → t = s.strike [(a, errs)] →
      (sectorDecode (t.errsAt a) ≠ .uncorrectable → exec (.scrubRead m errs) s = .next ((t.readSector a true).1.scrubOn m)) ∧
      (sectorDecode (t.errsAt a) = .uncorrectable → (t.region (m / 3)).bad.contains a = true → exec (.scrubRead m errs) s = .next (t.scrubOn m)) ∧
      ∀ u, sectorDecode (t.errsAt a) = .uncorrectable → (t.region (m / 3)).bad.contains a = false → u = (t.logUncorr a true).raise (partOfDram t.layout a) .memUncorr (t.uncorrCause a) →
        exec (.scrubRead m errs) s = .next ((if (u.region (m / 3)).bad.length < 64 then u.updRegion (m / 3) (fun q => { q with bad := q.bad ++ [a] }) else u).scrubOn m)) ∧
    (∀ (s : State) (m : Fin 12) (errs : List (Nat × Byte)), s.stackUp m = true → (s.stack m).outPc.contains (pcOf ((s.stack m).scrub * 64)) = true → exec (.scrubRead m errs) s = .next (s.scrubOn m)) ∧
    (∀ (s t : State) (m : Nat), t = s.scrubOn m →
      (((s.stack m).scrub + 1) * 64 < stackSize → (t.stack m).scrub = (s.stack m).scrub + 1 ∧ t.fget (MEM_SCRUB_PASSES (m / 3)) = s.fget (MEM_SCRUB_PASSES (m / 3))) ∧
      (stackSize ≤ ((s.stack m).scrub + 1) * 64 → (t.stack m).scrub = 0 ∧ t.fget (MEM_SCRUB_PASSES (m / 3)) = satAdd (MEM_SCRUB_PASSES (m / 3)).width (s.fget (MEM_SCRUB_PASSES (m / 3))) 1)) ∧
    (∀ (s : State) (m : Fin 12), s.stackUp m = true → (s.stack m).pass = none → s.passDue m = true →
      ((s.partsOfStack m).filter s.running = [] → s.passRuns (m / 3) = false → exec (.recalDue m) s = .next (s.startPass m)) ∧
      ((s.partsOfStack m).filter s.running = [] → s.passRuns (m / 3) = true → exec (.recalDue m) s = .next (s.updStack m fun k => { k with waits := true })) ∧
      ∀ p ps, (s.partsOfStack m).filter s.running = p :: ps →
        exec (.recalDue m) s = .next (s.each (p :: ps) fun s p => if (s.booked p 2 m).isSome then s else s.book p 2 m (s.afterPasses p (m / 3)))) ∧
    (∀ (s : State) (m : Fin 12) (v : Nat), (s.stack m).pass = some v → (s.stack m).visit = none →
      (∀ i, nextVisit (s.stack m) v = some i → exec (.visitStart m) s = .next (s.updStack m fun k => { k with pass := some i, visit := some i })) ∧
      (nextVisit (s.stack m) v = none → exec (.visitStart m) s = .next (s.endPass m))) ∧
    (∀ (s : State) (m : Fin 12) (i : Nat) (spare : Bool), (s.stack m).visit = some i →
      exec (.visitEnd m true spare) s = .next ((s.spareRow m i spare).advancePass m i) ∧
      ((s.stack m).retry = false → exec (.visitEnd m false spare) s = .next (s.updStack m fun k => { k with visit := none, retry := true })) ∧
      ((s.stack m).retry = true → exec (.visitEnd m false spare) s = .next
        (((s.updStack m fun k => { k with outPc := k.outPc ++ [i] }).advancePass m i).each (((s.updStack m fun k => { k with outPc := k.outPc ++ [i] }).advancePass m i).partsOfStack m) fun s p =>
          s.raise p .memTrain { unit := unitStack m }))) ∧
    (∀ (s : State) (d : Fin 4), (s.isolated d = false → exec (.isolateDie d) s = .next (s.isolate d 1 .dieLost)) ∧ (s.isolated d = true → exec (.isolateDie d) s = .next s)) ∧
    (∀ (s : State) (m : DieLink) (a b : Nat), s.gated m = false →
      (a < 16 → b ≤ 65536 → exec (.d2dRetry m a b) s = .next (s.fadd HUB_D2D_CNT_RETRIES 1)) ∧
      (16 ≤ a ∨ 65536 < b → s.retraining.contains m = false → exec (.d2dRetry m a b) s = .next { (s.fadd HUB_D2D_CNT_RETRIES 1).fadd HUB_D2D_CNT_RETRAINS 1 with retraining := s.retraining ++ [m] })) ∧
    ∀ (s t : State) (m : DieLink), s.retraining.contains m = true → t = { s with retraining := s.retraining.filter (· != m) } →
      exec (.moduleRetrainEnd m true) s = .next t ∧ exec (.moduleRetrainEnd m false) s = .next (t.persist m)

/-- RAIL_POLL takes the answer of every rail, counts a miss, fails a rail after 20 misses in a row, and steps the sequence number of the energies (R451, R461). SENSOR_READ and HBM_TEMP_READ show the hottest sensors; an emergency begins when a threshold is reached, counts itself, and sets the level to 16 at once (R458, R459). The level of a boundary lies between 16 and 64: 16 while an emergency holds, else the least of the five limiters (R454, R455). DROOP counts an event and its stretched cycles (R457). THERMAL_TRIP drives the pin low for good and is device-fatal (R460). It says of RAIL_POLL, SENSOR_READ, HBM_TEMP_READ, DROOP and THERMAL_TRIP that exec answers a next state, the one given, under conditions on the state and the operands alone. (19_power.md, 17_faults.md) -/
def Obligations.PowerRuns : Prop :=
  (∀ (s : State) (reads : List (Option (Nat × Nat))) (act : List (List (Nat × List (Nat × Nat)))), ∃ u : State, exec (.railPoll reads act) s = .next u ∧ u.fget PWR_ESEQ_VALUE = (s.fget PWR_ESEQ_VALUE + 1) % 2 ^ 64 ∧
      ∀ (i : Fin 23), (∀ mv da, reads.getD i none = some (mv, da) → u.fget (PWR_RAIL_STATE i) = 0 ∧ u.fget (PWR_RAIL_VOUT_MV i) = mv % 2 ^ 16 ∧ u.fget (PWR_RAIL_IOUT_DA i) = da % 2 ^ 16) ∧
        (reads.getD i none = none → u.fget (PWR_RAIL_STATE i) = 1 ∨ u.fget (PWR_RAIL_STATE i) = 2)) ∧
    (∀ (s : State) (i : Nat), (s.pollRail i none).fget (PWR_RAIL_MISSES i) = satAdd 16 (s.fget (PWR_RAIL_MISSES i)) 1 ∧ mgetD (s.pollRail i none).power.missRow i 0 = mgetD s.power.missRow i 0 + 1 ∧
      ((s.pollRail i none).fget (PWR_RAIL_STATE i) = 2 ↔ 20 ≤ mgetD s.power.missRow i 0 + 1)) ∧
    (∀ (s : State) (dies : List (Nat × Nat)) (hub : Nat), ∃ u : State, exec (.sensorRead dies hub) s = .next u ∧ ∀ r : Fin 4, u.fget (PWR_TEMP_HOT_C r) = (dies.getD r (0, 0)).1 % 2 ^ 8 ∧
      u.fget (PWR_TEMP_HOT_ID r) = (dies.getD r (0, 0)).2 % 2 ^ 8 ∧ u.fget (PWR_TEMP_HUB_C r) = hub % 2 ^ 8) ∧
    (∀ (s : State) (temps : List Nat), ∃ u : State, exec (.hbmTempRead temps) s = .next u ∧ ∀ r : Fin 4, u.fget (PWR_TEMP_HBM_C r) = max (max (temps.getD (3 * r) 0) (temps.getD (3 * r + 1) 0)) (temps.getD (3 * r + 2) 0) % 2 ^ 8) ∧
    (∀ (s : State) (r : Fin 4), (s.tooHot r = true → s.inEmergency r = false → (s.emergency r).fget (levelFld r) = 16 ∧ (s.emergency r).inEmergency r = true ∧
      (s.emergency r).fget (PWR_TEMP_EMERGS r) = satAdd 32 (s.fget (PWR_TEMP_EMERGS r)) 1) ∧ (s.tooHot r = false ∨ s.inEmergency r = true → s.emergency r = s)) ∧
    (∀ (s : State) (p cycles : Nat) (r : Fin 4), 16 ≤ (s.setLevel p r cycles).fget (levelFld r) ∧ (s.setLevel p r cycles).fget (levelFld r) ≤ 64 ∧
      (s.inEmergency r = true → s.tooHot r = true → (s.setLevel p r cycles).fget (levelFld r) = 16) ∧
      (s.inEmergency r = false → (s.setLevel p r cycles).fget (levelFld r) = ((s.limiters p r cycles).map clampLevel).foldl min 64)) ∧
    (∀ (s : State) (r : Fin 4) (cycles : Nat), exec (.droop r cycles) s = .next ((s.fadd (PWR_DROOP_CNT_EVENTS r) 1).accAdd (PWR_DROOP_CNT_STRETCH r) cycles)) ∧
    ∀ s : State, exec .thermalTrip s = .next ({ s with power := { s.power with trip := true } }.deviceFatal .thermTrip { unit := unitHub })

/-- Each instruction of the test access port becomes the port instruction and selects its register: the bypass bit, the IDCODE word, or the boundary cells with what they capture and what they are to drive; TRST_N selects IDCODE (that is log entry 10). EXTEST, CLAMP, HIGHZ, EXTEST_PULSE and EXTEST_TRAIN are in effect only while RESET_N is low and act as BYPASS at any other time. IDCODE holds version 1, part number 0x4C96, the JEP106 identity and a 1. Nothing outside the port changes (R491). It says of BYPASS, IDCODE, SAMPLE_PRELOAD, CLAMP, HIGHZ, TAP_RESET, EXTEST, EXTEST_PULSE and EXTEST_TRAIN that exec answers a next state, the one given, under conditions on the state and the operands alone. (21_bringup_test.md) -/
def Obligations.TestPortRuns : Prop :=
  (∀ (s : State) (pins drive : List Bool),
      exec .bypass s = .next { s with tap := { s.tap with inst := .bypass, dr := [false] } } ∧ exec .idcode s = .next { s with tap := { s.tap with inst := .idcode, dr := wordBits idcode 32 } } ∧
      exec (.samplePreload pins drive) s = .next { s with tap := ⟨.sample, drive, pins⟩ } ∧ exec .clamp s = .next { s with tap := { s.tap with inst := .clamp, dr := [false] } } ∧
      exec .highz s = .next { s with tap := { s.tap with inst := .highz, dr := [false] } } ∧
      exec .tapReset s = .next { s with tap := { s.tap with inst := .idcode, dr := wordBits idcode 32 } } ∧
      (s.sec.resetLow = true → exec (.extest pins drive) s = .next { s with tap := ⟨.extest, drive, pins⟩ } ∧ exec (.extestPulse pins drive) s = .next { s with tap := ⟨.extestPulse, drive, pins⟩ } ∧
        exec (.extestTrain pins drive) s = .next { s with tap := ⟨.extestTrain, drive, pins⟩ }) ∧
      (s.sec.resetLow = false → exec (.extest pins drive) s = .next { s with tap := { s.tap with inst := .extest, dr := [false] } } ∧
        exec (.extestPulse pins drive) s = .next { s with tap := { s.tap with inst := .extestPulse, dr := [false] } } ∧
        exec (.extestTrain pins drive) s = .next { s with tap := { s.tap with inst := .extestTrain, dr := [false] } })) ∧
    (∀ s : State, s.sec.resetLow = false → s.tap.inst ∈ [TapInst.extest, .clamp, .highz, .extestPulse, .extestTrain] → s.tapActs = .bypass) ∧
    (∀ s : State, s.sec.resetLow = true ∨ s.tap.inst ∉ [TapInst.extest, .clamp, .highz, .extestPulse, .extestTrain] → s.tapActs = s.tap.inst) ∧
    idcode % 2 = 1 ∧ idcode / 2 ^ 12 % 2 ^ 16 = 0x4C96 ∧ idcode / 2 ^ 28 = 1 ∧ idcode / 2 % 2 ^ 11 = Config.jep106.toNat

/-- A second of operation counts in the operating seconds and in the interval of every region (R311, R439), and the codewords that the FEC of a lane corrected in it are counted, more than 2^ERR_LOG2 symbols making the lane due for recalibration (R363, R367); the flash takes the count. The next complete record goes to the record area, or sets FLASH_ERR (R440). CLEAR steps EPOCH, empties the recorder and its mirror, gives the mirror its header with the new epoch (R498), and writes CLEARED at index 0 with the former NEXT and DROPPED (R441); it ends with the erase; a sector that fails sets FLASH_ERR. Every event is recorded at NEXT, or only counted when the recorder is full, and changes nothing else but GlaetLink, which carries the interrupts (R437, R438). It says of OP_SEC_TICK, OPSEC_STORE, RECORD_MIRROR, EVR_CLEAR, FLASH_ERASE_END and ERASE_SECTOR_TIMEOUT that exec answers a next state, the one given, under conditions on the state and the operands alone. (18_recorder_mailboxes.md, 12_result_checking.md) -/
def Obligations.RecorderRuns : Prop :=
  (∀ (s : State) (fec : List (Fin 72 × Nat × Nat)) (glkFec : Nat), s.sec.resetLow = false → ∃ u : State, exec (.opSecTick fec glkFec) s = .next u ∧ u.fget EVR_OPSEC_SECONDS = satAdd 40 (s.fget EVR_OPSEC_SECONDS) 1 ∧
      u.fget GLK_CNT0_FEC_CORR = satAdd GLK_CNT0_FEC_CORR.width (s.fget GLK_CNT0_FEC_CORR) glkFec ∧
      ∀ r : Fin 4, u.fget (RGN_TWIN_PHASE_SINCE_S r) = satAdd (RGN_TWIN_PHASE_SINCE_S r).width (s.fget (RGN_TWIN_PHASE_SINCE_S r)) 1) ∧
    (∀ (s : State) (lane : Fin 72) (symbols words : Nat), exec (.opSecTick [(lane, symbols, words)] 0) s = exec (.opSecTick [] 0) s ∨
      ∃ t, exec (.opSecTick [] 0) s = .next t ∧ exec (.opSecTick [(lane, symbols, words)] 0) s = .next (t.countFec lane symbols words)) ∧
    (∀ (s : State) (p i symbols words : Nat), i < 4 → ((s.countFec (4 * p + i) symbols words).fget (FAB_PORT_CNT0_FEC_CORR p) = satAdd 32 (s.fget (FAB_PORT_CNT0_FEC_CORR p)) words) ∧
      (s.fget FAB_RECAL_ERR_LOG2 ≠ 0 → 2 ^ s.fget FAB_RECAL_ERR_LOG2 < symbols → ((s.countFec (4 * p + i) symbols words).port p).early = some i) ∧
      (s.fget FAB_RECAL_ERR_LOG2 = 0 ∨ symbols ≤ 2 ^ s.fget FAB_RECAL_ERR_LOG2 → ((s.countFec (4 * p + i) symbols words).port p).early = (s.port p).early)) ∧
    (∀ s : State, exec .opsecStore s = .next { s with flash := { s.flash with opSec := some (s.fget EVR_OPSEC_SECONDS) } }) ∧
    (∀ (s : State) (x : Rec) (i : Nat), i = s.fget EVR_MIRROR_MIRRORED → s.recs[i]? = some x → s.sec.erasing = false →
      exec (.recordMirror true) s = .next ({ s with flash := { s.flash with recs := mset s.flash.recs i x } }.fset EVR_MIRROR_MIRRORED (i + 1)) ∧
      exec (.recordMirror false) s = .next (s.fset EVR_MIRROR_FLASH_ERR 1)) ∧
    (∀ (s : State), s.fget EVR_CTRL_CLEAR = 0 → ∃ u : State, exec .evrClear s = .next u ∧ u.fget EVR_STAT_EPOCH = (s.fget EVR_STAT_EPOCH + 1) % 2 ^ 32 ∧ u.fget EVR_STAT_DROPPED = 0 ∧ u.fget EVR_MIRROR_MIRRORED = 0 ∧
      u.fget EVR_CTRL_CLEAR = 1 ∧ u.flash.recs = [] ∧ u.flash.header = mirrorHeader ((s.fget EVR_STAT_EPOCH + 1) % 2 ^ 32) ∧ u.sec.erasing = true ∧ u.mem = s.mem ∧ u.parts = s.parts ∧
      ∃ x : Rec, u.recs = [x] ∧ x.code = 0xF ∧ x.note = true ∧ x.log = s.recs.length % 2 ^ 64 ∧ x.addr = s.fget EVR_STAT_DROPPED ∧ x.epoch = (s.fget EVR_STAT_EPOCH + 1) % 2 ^ 32) ∧
    (∀ s : State, exec .flashEraseEnd s = .next ({ s with sec := { s.sec with erasing := false } }.fset EVR_CTRL_CLEAR 0)) ∧
    (∀ s : State, s.sec.erasing = true → exec .eraseSectorTimeout s = .next (s.fset EVR_MIRROR_FLASH_ERR 1)) ∧
    ∀ (s : State) (e : Event), Recorded s (s.record e) e ∧ NoteOnly s (s.record e)

/-- A register write that fails its access checks only leaves its record, with reason 5 while the hub is device-fatal and reason 1 where no register stands (R14, R37, R409). One with a reserved encoding, or at a time when the register may not be written, is discarded in full and recorded, and nothing else changes (R16). A write in the power block takes effect on the fields: RW takes its bits, RWB stages them, W1C clears the ones written, RO ignores them; a field outside the write stays, and no field changes another (R14, R17, R20). It says of REG_WRITE that exec answers a next state, the one given, under conditions on the state and the operands alone. (00_scope.md, 01_organisation.md, 16_glaetlink.md) -/
def Obligations.RegisterWrites : Prop :=
  (∀ (s : State) (a size v : Nat) (e : Nat × Bool), s.regError a size true = some e → exec (.regWrite a size v) s = .next (if e.2 then s.noteAccess a else s)) ∧
    (∀ (s : State) (a size v : Nat) (w : RegWrite), s.regError a size true = none → inEvrWindow a = false → w = RegWrite.of a size v → s.untimely w = true ∨ s.legal w = false →
      exec (.regWrite a size v) s = .next (s.noteDiscard w.reg w.value) ∧ NoteOnly s (s.noteDiscard w.reg w.value)) ∧
    (∀ (s : State) (a size v : Nat) (w : RegWrite), s.regError a size true = none → w = RegWrite.of a size v → 0xF0000020000 ≤ w.reg → w.reg < 0xF0000030000 → s.untimely w = false → s.legal w = true →
      (s.writeFields w).recs.length = s.recs.length → exec (.regWrite a size v) s = .next (s.writeFields w)) ∧
    (∀ (s : State) (w : RegWrite) (f : Fld), w.covers f = true →
      (f.acc = .rw → (s.writeField w f).fget f = s.merged w f % 2 ^ f.width) ∧ (f.acc = .rwb → s.writeField w f = s.stage f (s.merged w f)) ∧
      (f.acc = .w1c → (s.writeField w f).fget f = (s.fget f &&& (2 ^ f.width - 1 - w.raw f)) % 2 ^ f.width) ∧ (f.acc ≠ .rw → f.acc ≠ .rwb → f.acc ≠ .w1c → s.writeField w f = s)) ∧
    (∀ (s : State) (w : RegWrite) (f : Fld), (w.covers f = false → s.writeField w f = s) ∧ (∀ g : Fld, g.key ≠ f.key → (s.writeField w f).fget g = s.fget g) ∧
      (bits w.mask f.lsb f.width = 2 ^ f.width - 1 → s.merged w f = w.raw f)) ∧
    (∀ (s : State) (a size : Nat), s.fatal = true → servedFatal a = false → s.regError a size true = some (5, false)) ∧
    ∀ (s : State) (a size : Nat), s.fatal = false → regMapped a = false → s.regError a size true = some (1, true)

/-- RESET brings every register field to its reset value; a warm one keeps HUB_START_CFG and HUB_LAYOUT.NEXT, a low THERMTRIP_N and the test port; memory and the flashes stay (R34, R460, R487). START_UP leaves reset and boots from the flash or the companion (R474, R488). Each boot stage ends in the next one, or stops with its reason: 12 without entropy, 11 without a state block, 9 with the part record of another device (R472 to R476); stage 5 ends start-up of the firmware. The phases follow one another, phase 3 only with FIT, READY only with GlaetLink up (R488 to R490). A failed self-check is device-fatal; an accepted image is installed after stage 6 (R473, R475). REASON of a failed ROM test is free (log entry 23). It says of RESET, START_UP, BOOT_STAGE_END, PHASE_END, SELF_CHECK and IMAGE_INSTALL that exec answers a next state, the one given, under conditions on the state and the operands alone. (21_bringup_test.md, 20_security.md) -/
def Obligations.BootRuns : Prop :=
  (∀ (s : State) (warm : Bool), ∃ u : State, exec (.reset warm) s = .next u ∧ u.mem = s.mem ∧ u.flash = s.flash ∧ u.rpmc = s.rpmc ∧ u.recs = [] ∧ u.glk = .reset ∧ u.sec.resetLow = true ∧
      (∀ f : Fld, f.key ≠ HUB_START_CFG_FIT.key → f.key ≠ HUB_LAYOUT_NEXT.key → u.fget f = f.reset) ∧ (warm = false → ∀ f : Fld, u.fget f = f.reset) ∧
      (warm = true → u.fget HUB_START_CFG_FIT = s.fget HUB_START_CFG_FIT % 2 ∧ u.fget HUB_LAYOUT_NEXT = s.fget HUB_LAYOUT_NEXT % 8 ∧ u.power.trip = s.power.trip ∧ u.tap = s.tap)) ∧
    (∀ (s : State), s.sec.resetLow = true →
      (s.flash.companion = false → s.flash.directory = true → exec .startUp s = .next { s with sec := { s.sec with resetLow := false } }) ∧
      (s.flash.companion = true ∨ s.flash.directory = false → exec .startUp s = .next ({ s with sec := { s.sec with resetLow := false } } : State).bootCompanion)) ∧
    (∀ (s : State) (x : StageEnd), s.sec.resetLow = false → s.fget SEC_BOOT_STOPPED = 0 →
      (s.fget SEC_BOOT_STAGE = 0 → (x.ok = true → exec (.bootStageEnd x) s = .next (s.fset SEC_BOOT_STAGE 1)) ∧
        (x.ok = false → exec (.bootStageEnd x) s = .next (((s.bootStop (s.free.toNat % 256)).tick).deviceFatal .secFault { unit := unitFw 1 }))) ∧
      (s.fget SEC_BOOT_STAGE = 1 → (x.ok = true → exec (.bootStageEnd x) s = .next (s.fset SEC_BOOT_STAGE 2).drawChal) ∧ (x.ok = false → exec (.bootStageEnd x) s = .next (s.bootStop 12))) ∧
      (s.fget SEC_BOOT_STAGE = 2 → (s.rpmc.accepted = none ∨ x.ok = false → exec (.bootStageEnd x) s = .next (s.bootStop 11)) ∧
        ∀ b item1, s.rpmc.accepted = some (b, item1) → x.ok = true → ∃ u : State, exec (.bootStageEnd x) s = .next u ∧ u.sec.block = b ∧ u.fieldRows = b.spared ∧ u.fget SEC_BOOT_STAGE = 3 ∧ u.fget SEC_STATE_SEQ = b.seq % 2 ^ 32 ∧
          u.rpmc.counter = (if item1 then b.seq else s.rpmc.counter)) ∧
      (s.fget SEC_BOOT_STAGE = 3 → s.sec.mFw = 0 → s.fget SEC_BOOT_SOURCE ≠ 1 → ∀ obj, s.flash.image = some obj → x.ok = true →
        exec (.bootStageEnd x) s = .next (match objReason obj 1 (s.fget SEC_SVN_FW) with
          | some r => ((s.refused 1 r).fsets [(SEC_BOOT_REASON, r), (SEC_BOOT_WAIT, 1)]).bootCompanion
          | none => { s.raiseSvn 1 (objSvn obj) with sec := { (s.raiseSvn 1 (objSvn obj)).sec with mFw := objDigest obj } }.fset SEC_BOOT_STAGE 4)) ∧
      (s.fget SEC_BOOT_STAGE = 4 → s.sec.mPr = 0 → s.fget SEC_BOOT_SOURCE ≠ 1 → ∀ obj, s.flash.partRec = some obj → x.ok = true →
        exec (.bootStageEnd x) s = .next (match objReason obj 2 (s.fget SEC_SVN_PR) with
          | some r => (s.refused 2 r).bootStop r
          | none => if x.part.deviceId ≠ Config.deviceId then (s.refused 2 9).bootStop 9
            else ((s.raiseSvn 2 (objSvn obj)).takePart x.part (objDigest obj)).fset SEC_BOOT_STAGE 5)) ∧
      (s.fget SEC_BOOT_STAGE = 5 → ∃ u : State, exec (.bootStageEnd x) s = .next u ∧ u.fget SEC_BOOT_STAGE = 6 ∧ u.fget HUB_START_PHASE = 1)) ∧
    (∀ (s t : State) (x : PhaseEnd), t = s.fset HUB_START_ELAPSED_MS (min x.elapsedMs 0xFFFF) →
      (s.fget HUB_START_PHASE = 1 → exec (.phaseEnd x) s = .next (t.clocksPhase.toPhase 2)) ∧ (s.fget HUB_START_PHASE = 2 → exec (.phaseEnd x) s = .next ((t.d2dPhase x).toPhase (if s.flag HUB_START_CFG_FIT then 3 else 4))) ∧
      (s.fget HUB_START_PHASE = 3 → exec (.phaseEnd x) s = .next ((t.fitPhase x).toPhase 4)) ∧ (s.fget HUB_START_PHASE = 4 → exec (.phaseEnd x) s = .next ((t.hbmPhase x).toPhase 5)) ∧
      (s.fget HUB_START_PHASE = 5 → exec (.phaseEnd x) s = .next (t.regionsPhase.toPhase 6)) ∧
      (s.fget HUB_START_PHASE = 6 → exec (.phaseEnd x) s = .next (if (t.carouselPhase.toPhase 7).fget GLK_STAT_STATE = 0 then (t.carouselPhase.toPhase 7).glkTrain else t.carouselPhase.toPhase 7)) ∧
      (s.fget HUB_START_PHASE = 7 → s.glkUp = true → exec (.phaseEnd x) s = .next (t.ready.toPhase 8)) ∧ (s.fget HUB_START_PHASE = 7 → s.glkUp = false → exec (.phaseEnd x) s = .next s)) ∧
    (∀ (s : State), s.sec.resetLow = false → s.fget SEC_BOOT_STAGE = 6 → exec (.selfCheck false) s = .next (s.deviceFatal .secFault { unit := unitFw 1 }) ∧ exec (.selfCheck true) s = .next s) ∧
    ∀ (s : State) (obj : List Byte), s.sec.install = some obj → s.fget SEC_BOOT_STAGE = 6 →
      exec .imageInstall s = .next { s with flash := { s.flash with image := some obj }, sec := { s.sec with install := none } }

/-- A write of the state block that ends leaves a block whose SEQ is the new count, and the next start accepts it. When power is lost before the counter moves, the next start accepts the new block all the same; when it is lost within the write, the next start accepts the block that the counter names (R471, R472). Nothing else changes in the last two. It says of STATE_BLOCK_WRITE that exec answers a next state, the one given, under conditions on the state and the operands alone. (20_security.md) -/
def Obligations.StateBlockCommits : Prop :=
  ∀ (s : State) (c : Nat), s.sec.resetLow = false → 3 ≤ s.fget SEC_BOOT_STAGE → s.rpmc.counter < 2 ^ 32 → c = (s.rpmc.counter + 1) % 2 ^ 32 →
    ((∀ b, mget? s.rpmc.slots ((c + 1) % 2 ^ 32 % 64) = some b → b.seq ≠ (c + 1) % 2 ^ 32) → ∃ u b, exec (.stateBlockWrite .committed) s = .next u ∧ u.rpmc.counter = c ∧ u.fget SEC_STATE_SEQ = c ∧ b.seq = c ∧ u.sec.block = b ∧
      u.rpmc.accepted = some (b, false)) ∧
    (∃ u b, exec (.stateBlockWrite .uncounted) s = .next u ∧ u.rpmc.counter = s.rpmc.counter ∧ b.seq = c ∧ u.rpmc.accepted = some (b, true) ∧ u = { s with rpmc := u.rpmc }) ∧
    (∀ b, mget? s.rpmc.slots (s.rpmc.counter % 64) = some b → b.seq = s.rpmc.counter →
      ∃ u, exec (.stateBlockWrite .torn) s = .next u ∧ u.rpmc.accepted = some (b, false) ∧ u = { s with rpmc := u.rpmc })

/-- A presentation is refused with reason 13 when it is not permitted, else it is read from companion memory; a GO while one is busy, with an unknown TYPE or outside the companion's window is discarded (R16, R478). Its end accepts the object with its effect when every check of R466 passes, or refuses it with the reason of the first that fails; a part record of another device stops start-up (R476); a bundle that declares more than 120 s is refused (R307; its reason is free, log entry 23). The checks that pass are those of R466 in full: head, digest, both signatures, minimum SVN. An accepted bundle gives its kernels; a part record gives NGEN and what else is taken from it (R6, R476). A minimum SVN never falls (R468). The crypto is that of log entry 6. It says of OBJECT_PRESENT and PRESENTATION_END that exec answers a next state, the one given, under conditions on the state and the operands alone. (20_security.md) -/
def Obligations.PresentationsRun : Prop :=
  (∀ (s t : State), s.fget SEC_LOAD_STAT_STATE ≠ 1 → 1 ≤ s.fget SEC_LOAD_TYPE → s.fget SEC_LOAD_TYPE ≤ 4 → glkBase ≤ s.fget SEC_LOAD_ADDR * 4096 → s.fget SEC_LOAD_ADDR * 4096 < glkEnd →
      t = { s with sec := { s.sec with loadAt := s.fget SEC_LOAD_ADDR * 4096, loadType := s.fget SEC_LOAD_TYPE, loadInstall := s.flag SEC_LOAD_INSTALL } } →
      (t.notPermitted = true → exec .objectPresent s = .next (t.loadRefused 13)) ∧
      (t.notPermitted = false → exec .objectPresent s = .next (((t.fsets [(SEC_LOAD_STAT_STATE, 1), (SEC_LOAD_STAT_REASON, 0), (SEC_LOAD_GO, 1)]).secBegins .load).askStream [(s.fget SEC_LOAD_ADDR * 4096, headLen)] (.security .load)))) ∧
    (∀ (s : State), s.fget SEC_LOAD_STAT_STATE = 1 ∨ s.fget SEC_LOAD_TYPE = 0 ∨ 4 < s.fget SEC_LOAD_TYPE ∨ s.fget SEC_LOAD_ADDR * 4096 < glkBase ∨ glkEnd ≤ s.fget SEC_LOAD_ADDR * 4096 →
      exec .objectPresent s = .next (s.noteDiscard SEC_LOAD 1)) ∧
    (∀ (s t : State) (part : PartRecord) (kak : Bundle) (a type n : Nat) (obj : List Byte), s.fget SEC_LOAD_STAT_STATE = 1 → 3 ≤ s.fget SEC_BOOT_STAGE → s.secFails .load = false → a = s.sec.loadAt → type = s.sec.loadType →
      s.streamReady [(a, headLen)] = true →
      (∀ r, headReason (s.load a headLen) type = some r → exec (.presentationEnd part kak) s = .next ((s.loadRefused r).dropStream [(a, headLen)])) ∧
      (headReason (s.load a headLen) type = none → n = headLen + objBody (s.load a headLen) → a + n ≤ glkEnd → s.streamReady [(a, n)] = true → obj = s.load a n → t = s.dropStream [(a, n)] →
        exec (.presentationEnd part kak) s = .next (match objReason obj type (s.fget (svnFld type)) with
          | some c => t.loadRefused c
          | none => if type = 2 ∧ part.deviceId ≠ Config.deviceId then (t.loadRefused 9).fset SEC_BOOT_STOPPED 1
            else if type = 3 ∧ 120 < kak.seconds then (t.loadRefused (t.free.toNat % 256)).tick
            else (t.fsets [(SEC_LOAD_STAT_STATE, 2), (SEC_LOAD_STAT_REASON, 0), (SEC_LOAD_GO, 0)]).takeObject type obj part kak))) ∧
    (∀ (s : State) (part : PartRecord) (kak : Bundle), s.fget SEC_LOAD_STAT_STATE = 1 → 3 ≤ s.fget SEC_BOOT_STAGE →
      (s.secFails .load = true → exec (.presentationEnd part kak) s = .next ((s.loadRefused 10).dropStream [(s.sec.loadAt, headLen + bodyLimit s.sec.loadType)])) ∧
      (s.secFails .load = false → s.streamReady [(s.sec.loadAt, headLen)] = false → exec (.presentationEnd part kak) s = .next (s.askStream [(s.sec.loadAt, headLen)] (.security .load)))) ∧
    (∀ (obj : List Byte) (type svn : Nat), objReason obj type svn = none ↔ headReason obj type = none ∧ beNat (sliceOf obj 0x20 48) = Config.sha384 (sliceOf obj headLen (objBody obj)) ∧
      ecdsaOk (objDigest obj) (sliceOf obj 0x50 96) = true ∧ hssOk (objDigest obj) (sliceOf obj 0xB0 5396) = true ∧ svn ≤ objSvn obj) ∧
    (∀ (s : State) (obj : List Byte) (part : PartRecord) (kak : Bundle), (s.takeObject 3 obj part kak).sec.mKak = objDigest obj ∧ (s.takeObject 3 obj part kak).sec.kernels = kak.kernels) ∧
    (∀ (s : State) (x : PartRecord) (d : Nat), (s.takePart x d).sec.mPr = d ∧ (s.takePart x d).sec.part = x ∧ (s.takePart x d).fget HUB_NUMERICS_NGEN = x.ngen % 2 ^ HUB_NUMERICS_NGEN.width) ∧
    ∀ (s t : State) (type svn : Nat), t = s.raiseSvn type svn → svn ≤ s.fget (svnFld type) → t = s

/-- A report whose GO is legal waits to be signed, its nonce read; with no HSS index left it is refused with reason 14; a GO during a request or outside the companion's window is discarded (R16, R481, R482). It begins when its nonce is there and 60 s have passed since the last one, takes the next HSS index, latches its fields and writes its area (R481 to R483). CERTIFICATES writes the length and the certificates. The last line of an area goes out behind the acknowledged others, and then the request is complete. A nonce that cannot be read refuses the report (the reason is that of log entry 6). It says of ATTESTATION_REPORT, CERTIFICATES, REPORT_SIGNING and REPORT_COMPLETE that exec answers a next state, the one given, under conditions on the state and the operands alone. (20_security.md) -/
def Obligations.AttestationRuns : Prop :=
  (∀ (s : State), s.attBad 0x2000 = false →
      (hssMax ≤ s.fget SEC_ATT_STAT_HSS_NEXT → exec .attestationReport s = .next (s.attRefused 14)) ∧
      (s.fget SEC_ATT_STAT_HSS_NEXT < hssMax → exec .attestationReport s = .next ((s.attBegins.fset SEC_ATT_STAT_STATE 1).askStream [(s.fget SEC_ATT_ADDR * 4096 + 0x10, 32)] (.security .attest)))) ∧
    (∀ (s : State), (s.attBad 0x2000 = true → exec .attestationReport s = .next (s.noteDiscard SEC_ATT 1)) ∧ (s.attBad 0x4000 = true → exec .certificates s = .next (s.noteDiscard SEC_ATT 3))) ∧
    (∀ (s : State), s.attBad 0x4000 = false → exec .certificates s = .next (s.attBegins.areaBegins (natLe 8 (s.rpmc.certs.take 0x3FF8).length ++ s.rpmc.certs.take 0x3FF8 ++ natLe (0x3FF8 - (s.rpmc.certs.take 0x3FF8).length) 0))) ∧
    (∀ (s t : State), s.fget SEC_ATT_STAT_STATE = 1 → s.secFails .attest = false → s.attMayBegin = true → s.streamReady [(s.sec.attAt + 0x10, 32)] = true → t = (s.dropStream [(s.sec.attAt + 0x10, 32)]).takeHss →
      exec .reportSigning s = .next (({ t with sec := { t.sec with attBegan := some (t.fget EVR_OPSEC_SECONDS), attSeq := t.sec.attSeq + 1 } } : State).areaBegins
        (({ t with sec := { t.sec with attBegan := some (t.fget EVR_OPSEC_SECONDS), attSeq := t.sec.attSeq + 1 } } : State).reportArea (s.fget SEC_ATT_STAT_HSS_NEXT) (s.load (s.sec.attAt + 0x10) 32)))) ∧
    (∀ (s : State), s.fget SEC_ATT_STAT_STATE = 1 → (s.secFails .attest = true → exec .reportSigning s = .next ((s.attRefused 10).dropStream [(s.sec.attAt + 0x10, 32)])) ∧
      (s.secFails .attest = false → s.attMayBegin = false → exec .reportSigning s = .next s)) ∧
    (∀ (s : State), s.fget SEC_ATT_STAT_STATE = 2 → s.secFails .attest = false → s.glk.acksDue (.security .attest) = false →
      (s.sec.areaSent = 1 → exec .reportComplete s = .next (({ s with sec := { s.sec with areaSent := 2 } } : State).store (s.sec.attAt + (s.sec.area.length - 128)) (s.sec.area.drop (s.sec.area.length - 128)) (.security .attest))) ∧
      (s.sec.areaSent ≠ 1 → exec .reportComplete s = .next (({ s with sec := { s.sec with area := [], areaSent := 0 } } : State).fsets [(SEC_ATT_STAT_STATE, 3), (SEC_ATT_GO, 0)]))) ∧
    (∀ (s : State), s.fget SEC_ATT_STAT_STATE = 2 → s.secFails .attest = false → s.glk.acksDue (.security .attest) = true → exec .reportComplete s = .next s) ∧
    ∀ (s : State) (t : Nat), s.sec.attBegan = some t → (s.attMayBegin = true ↔ t + 60 ≤ s.fget EVR_OPSEC_SECONDS)

/-- TOKEN_PRESENT reads the token that JIB_UNLOCK names and checks it once its lines are there; a GO during a presentation or outside the companion's window is discarded (R16, R493). A token that passes every check of R493 unlocks with its SCOPE and EXPIRES; another changes no lock; the challenge, EXPIRES and the device identity are checked. LOCK and the expiry of an unlock end it and disarm (R494). ARM arms one injection whose settings are legal while its partition runs; kind 7 fires at once and holds its channel; without an unlock or with one armed it is refused or discarded (R495, R497). MBX_HOLD_END lets the channel go. The crypto is that of log entry 6. It says of TOKEN_PRESENT, LOCK, UNLOCK_EXPIRY, INJECTION_ARM and MBX_HOLD_END that exec answers a next state, the one given, under conditions on the state and the operands alone. (20_security.md, 21_bringup_test.md) -/
def Obligations.TokensAndInjections : Prop :=
  (∀ (s t : State) (a : Nat), s.fget JIB_STAT_PSTATE ≠ 1 → a = s.fget JIB_UNLOCK_ADDR * 4096 → glkBase ≤ a → a < glkEnd → t = (s.fsets [(JIB_UNLOCK_GO, 1), (JIB_STAT_PSTATE, 1)]).secBegins .token →
      exec .tokenPresent s = .next ((({ t with sec := { t.sec with tokenAt := a } } : State).askStream [(a, 192)] (.security .token)).tokenCheck)) ∧
    (∀ (s : State), s.fget JIB_STAT_PSTATE = 1 ∨ s.fget JIB_UNLOCK_ADDR * 4096 < glkBase ∨ glkEnd ≤ s.fget JIB_UNLOCK_ADDR * 4096 → exec .tokenPresent s = .next (s.noteDiscard JIB_UNLOCK 1)) ∧
    (∀ (s : State), s.fget JIB_STAT_PSTATE = 1 → s.secFails .token = false → s.streamReady [s.tokenRange] = true →
      s.tokenCheck.fget JIB_STAT_UNLOCKED = (if s.tokenReason (s.load s.tokenRange.1 s.tokenRange.2) = none then 1 else s.fget JIB_STAT_UNLOCKED) ∧
      s.tokenCheck.fget JIB_STAT_SCOPE = (if s.tokenReason (s.load s.tokenRange.1 s.tokenRange.2) = none then numAt (s.load s.tokenRange.1 s.tokenRange.2) 6 1 % 2 ^ 8 else s.fget JIB_STAT_SCOPE) ∧
      s.tokenCheck.sec.expires = (if s.tokenReason (s.load s.tokenRange.1 s.tokenRange.2) = none then numAt (s.load s.tokenRange.1 s.tokenRange.2) 0x10 5 else s.sec.expires) ∧
      s.tokenCheck.fget JIB_UNLOCK_GO = 0 ∧ s.tokenCheck.fget JIB_STAT_PSTATE = (if s.tokenReason (s.load s.tokenRange.1 s.tokenRange.2) = none then 2 else 3)) ∧
    (∀ (s : State) (x : List Byte), numAt x 8 8 ≠ s.fget JIB_CHAL_CHAL ∨ numAt x 0x10 5 ≤ s.fget EVR_OPSEC_SECONDS ∨ beNat (sliceOf x 0x20 48) ≠ Config.deviceId → s.tokenReason x ≠ none) ∧
    (∀ (s : State), ∃ u : State, exec .lock s = .next u ∧ u.fget JIB_STAT_UNLOCKED = 0 ∧ u.fget JIB_STAT_ARMED = 0 ∧ u.fget JIB_STAT_SCOPE = 0 ∧ (s.fget JIB_STAT_UNLOCKED = 1 → s.sec.expires ≤ s.fget EVR_OPSEC_SECONDS → exec .unlockExpiry s = .next u)) ∧
    (∀ (s : State), s.fget JIB_STAT_UNLOCKED = 1 → s.fget JIB_STAT_ARMED = 0 →
      injLegal (s.fget JIB_STAT_SCOPE) (s.fget JIB_INJ_KIND) (s.fget JIB_INJ_K) (s.fget JIB_INJ_HOLD_US) (s.fget JIB_INJ_TARGET) = true → s.running (s.fget JIB_CTRL_PART) = true →
      (s.fget JIB_INJ_KIND ≠ 7 → exec .injectionArm s = .next (s.fsets [(JIB_STAT_ARMED, 1), (JIB_INJ_ARM, 1)])) ∧
      (s.fget JIB_INJ_KIND = 7 → ∀ c, c = s.fget JIB_INJ_TARGET % 256 → exec .injectionArm s = .next (({ s with mboxHolds := c :: s.mboxHolds.filter (· != c) } : State).injFire (s.fget JIB_CTRL_PART)))) ∧
    (∀ (s : State), (s.fget JIB_STAT_UNLOCKED = 0 → exec .injectionArm s = .next (s.noteAccess JIB_INJ)) ∧ (s.fget JIB_STAT_UNLOCKED = 1 → s.fget JIB_STAT_ARMED = 1 → exec .injectionArm s = .next (s.noteDiscard JIB_INJ 1))) ∧
    ∀ (s : State) (c : Nat), exec (.mbxHoldEnd c) s = .next { s with mboxHolds := s.mboxHolds.filter (· != c) } ∧ c ∉ s.mboxHolds.filter (· != c)
end

