-- ==== Sys2Proof/Laws/Maps.lean ====
section
/-! SUPPORT. The laws of the finite maps: reading after setting, erasing and dropping; the rising order of the keys is kept. -/
namespace Sys2Proof.Machine

variable {β : Type}

@[simp] theorem mget?_mset (m : List (Nat × β)) (a b : Nat) (v : β) : mget? (mset m a v) b = if b = a then some v else mget? m b := by
  induction m with
  | nil => by_cases h : b = a <;> simp [mset, mget?, h]
  | cons e t ih =>
    obtain ⟨k, w⟩ := e
    by_cases h1 : a = k
    · subst h1
      by_cases h : b = a <;> simp [mset, mget?, h]
    · by_cases h2 : a < k
      · by_cases h : b = a <;> simp [mset, mget?, h1, h2, h]
      · by_cases hb : b = k
        · subst hb; simp [mset, mget?, h1, h2, Ne.symm h1]
        · simp [mset, mget?, h1, h2, hb, ih]

@[simp] theorem mgetD_mset (m : List (Nat × β)) (a b : Nat) (v d : β) : mgetD (mset m a v) b d = if b = a then v else mgetD m b d := by
  unfold mgetD; rw [mget?_mset]; split <;> rfl

theorem mgetD_mset_self (m : List (Nat × β)) (a : Nat) (v d : β) : mgetD (mset m a v) a d = v := by simp

theorem mgetD_mset_ne (m : List (Nat × β)) {a b : Nat} (v d : β) (h : b ≠ a) : mgetD (mset m a v) b d = mgetD m b d := by simp [h]

@[simp] theorem mget?_merase (m : List (Nat × β)) (a b : Nat) : mget? (merase m a) b = if b = a then none else mget? m b := by
  induction m with
  | nil => simp [merase, mget?]
  | cons e t ih =>
    obtain ⟨k, w⟩ := e
    by_cases h1 : a = k
    · subst h1
      by_cases h : b = a
      · subst h; simpa [merase] using ih
      · simp [merase, mget?, h, ih]
    · by_cases hb : b = k
      · subst hb; simp [merase, mget?, h1, Ne.symm h1]
      · simp [merase, mget?, h1, hb, ih]

@[simp] theorem mget?_mdrop (m : List (Nat × β)) (p : Nat → Bool) (b : Nat) : mget? (mdrop m p) b = if p b then none else mget? m b := by
  induction m with
  | nil => by_cases h : p b <;> simp [mdrop, mget?, h]
  | cons e t ih =>
    obtain ⟨k, w⟩ := e
    simp only [mdrop] at ih ⊢
    by_cases hk : p k
    · simp only [List.filter_cons, hk, Bool.not_true, Bool.false_eq_true, if_false, ih, mget?]
      by_cases hb : b = k
      · subst hb; simp [hk]
      · simp [hb]
    · simp only [List.filter_cons, hk, mget?]
      simp only [Bool.not_eq_true] at hk
      simp only [Bool.not_false, if_true, mget?, ih]
      by_cases hb : b = k
      · subst hb; simp [hk]
      · simp [hb]

/-- The keys after a map's first all exceed it: the form of `msorted` that induction uses. -/
theorem msorted_cons (k : Nat) (v : β) (t : List (Nat × β)) :
    msorted ((k, v) :: t) = true ↔ (∀ e ∈ t, k < e.1) ∧ msorted t = true := by
  induction t generalizing k v with
  | nil => simp [msorted]
  | cons e t ih =>
    obtain ⟨b, w⟩ := e
    simp only [msorted, Bool.and_eq_true, decide_eq_true_eq, List.mem_cons]
    rw [ih]
    constructor
    · rintro ⟨h, h2, h3⟩
      refine ⟨?_, h2, h3⟩
      rintro x (rfl | hx)
      · exact h
      · exact Nat.lt_trans h (h2 x hx)
    · rintro ⟨h, h2, h3⟩
      exact ⟨h _ (Or.inl rfl), h2, h3⟩

theorem msorted_mset {m : List (Nat × β)} (h : msorted m = true) (a : Nat) (v : β) : msorted (mset m a v) = true := by
  induction m with
  | nil => rfl
  | cons e t ih =>
    obtain ⟨k, w⟩ := e
    rw [msorted_cons] at h
    simp only [mset]
    split_ifs with h1 h2
    · subst h1; rw [msorted_cons]; exact h
    · rw [msorted_cons, msorted_cons]
      refine ⟨?_, h⟩
      rintro x hx
      rcases List.mem_cons.1 hx with rfl | hx
      · exact h2
      · exact Nat.lt_trans h2 (h.1 x hx)
    · rw [msorted_cons]
      refine ⟨?_, ih h.2⟩
      intro x hx
      have : x = (a, v) ∨ x ∈ t := by
        clear ih h
        induction t with
        | nil => simp [mset] at hx; exact Or.inl hx
        | cons e t ih =>
          obtain ⟨k', w'⟩ := e
          simp only [mset] at hx
          split_ifs at hx
          · rcases List.mem_cons.1 hx with h | h
            · exact Or.inl h
            · exact Or.inr (List.mem_cons_of_mem _ h)
          · rcases List.mem_cons.1 hx with h | h
            · exact Or.inl h
            · exact Or.inr h
          · rcases List.mem_cons.1 hx with h | h
            · exact Or.inr (h ▸ List.mem_cons_self ..)
            · rcases ih h with h | h
              · exact Or.inl h
              · exact Or.inr (List.mem_cons_of_mem _ h)
      rcases this with rfl | hx
      · simp only; omega
      · exact h.1 x hx

theorem mem_merase {m : List (Nat × β)} {a : Nat} {x : Nat × β} (h : x ∈ merase m a) : x ∈ m := by
  induction m with
  | nil => simp [merase] at h
  | cons e t ih =>
    obtain ⟨k, w⟩ := e
    simp only [merase] at h
    split_ifs at h
    · exact List.mem_cons_of_mem _ (ih h)
    · rcases List.mem_cons.1 h with h | h
      · exact h ▸ List.mem_cons_self ..
      · exact List.mem_cons_of_mem _ (ih h)

theorem msorted_merase {m : List (Nat × β)} (h : msorted m = true) (a : Nat) : msorted (merase m a) = true := by
  induction m with
  | nil => rfl
  | cons e t ih =>
    obtain ⟨k, w⟩ := e
    rw [msorted_cons] at h
    simp only [merase]
    split_ifs
    · exact ih h.2
    · rw [msorted_cons]; exact ⟨fun x hx => h.1 x (mem_merase hx), ih h.2⟩

theorem msorted_filter {m : List (Nat × β)} (h : msorted m = true) (p : Nat × β → Bool) : msorted (m.filter p) = true := by
  induction m with
  | nil => rfl
  | cons e t ih =>
    obtain ⟨k, w⟩ := e
    rw [msorted_cons] at h
    simp only [List.filter_cons]
    split_ifs
    · rw [msorted_cons]; exact ⟨fun x hx => h.1 x (List.mem_of_mem_filter hx), ih h.2⟩
    · exact ih h.2

theorem mem_mset {m : List (Nat × β)} {a : Nat} {v : β} {x : Nat × β} (h : x ∈ mset m a v) : x = (a, v) ∨ x ∈ m := by
  induction m with
  | nil => simp [mset] at h; exact Or.inl h
  | cons e t ih =>
    obtain ⟨k, w⟩ := e
    simp only [mset] at h
    split_ifs at h
    · rcases List.mem_cons.1 h with h | h
      · exact Or.inl h
      · exact Or.inr (List.mem_cons_of_mem _ h)
    · rcases List.mem_cons.1 h with h | h
      · exact Or.inl h
      · exact Or.inr h
    · rcases List.mem_cons.1 h with h | h
      · exact Or.inr (h ▸ List.mem_cons_self ..)
      · rcases ih h with h | h
        · exact Or.inl h
        · exact Or.inr (List.mem_cons_of_mem _ h)

/-- A change of every value changes the value found. -/
theorem mget?_mapVals (m : List (Nat × β)) (g : β → β) (a : Nat) : mget? (m.map fun e => (e.1, g e.2)) a = (mget? m a).map g := by
  induction m with
  | nil => rfl
  | cons e t ih =>
    obtain ⟨k, v⟩ := e
    simp only [List.map_cons, mget?]
    split
    · rfl
    · exact ih

end Sys2Proof.Machine
end

