-- ==== Sys2Proof/Laws/State.lean ====
section
/-! SUPPORT. What each update of the state leaves as it was, field by field, and what an accessor reads after it: no later proof unfolds a
record update. -/
namespace Sys2Proof.Machine

variable (s : State)

/-! ## fset -/

@[simp] theorem State.fset_staged (f : Fld) (v : Nat) : (s.fset f v).staged = s.staged := rfl
@[simp] theorem State.fset_acc (f : Fld) (v : Nat) : (s.fset f v).acc = s.acc := rfl
@[simp] theorem State.fset_mem (f : Fld) (v : Nat) : (s.fset f v).mem = s.mem := rfl
@[simp] theorem State.fset_damage (f : Fld) (v : Nat) : (s.fset f v).damage = s.damage := rfl
@[simp] theorem State.fset_memStacks (f : Fld) (v : Nat) : (s.fset f v).memStacks = s.memStacks := rfl
@[simp] theorem State.fset_regionSt (f : Fld) (v : Nat) : (s.fset f v).regionSt = s.regionSt := rfl
@[simp] theorem State.fset_fieldRows (f : Fld) (v : Nat) : (s.fset f v).fieldRows = s.fieldRows := rfl
@[simp] theorem State.fset_hardRows (f : Fld) (v : Nat) : (s.fset f v).hardRows = s.hardRows := rfl
@[simp] theorem State.fset_parts (f : Fld) (v : Nat) : (s.fset f v).parts = s.parts := rfl
@[simp] theorem State.fset_rings (f : Fld) (v : Nat) : (s.fset f v).rings = s.rings := rfl
@[simp] theorem State.fset_slots (f : Fld) (v : Nat) : (s.fset f v).slots = s.slots := rfl
@[simp] theorem State.fset_recs (f : Fld) (v : Nat) : (s.fset f v).recs = s.recs := rfl
@[simp] theorem State.fset_chans (f : Fld) (v : Nat) : (s.fset f v).chans = s.chans := rfl
@[simp] theorem State.fset_epReset (f : Fld) (v : Nat) : (s.fset f v).epReset = s.epReset := rfl
@[simp] theorem State.fset_mboxHolds (f : Fld) (v : Nat) : (s.fset f v).mboxHolds = s.mboxHolds := rfl
@[simp] theorem State.fset_glk (f : Fld) (v : Nat) : (s.fset f v).glk = s.glk := rfl
@[simp] theorem State.fset_ports (f : Fld) (v : Nat) : (s.fset f v).ports = s.ports := rfl
@[simp] theorem State.fset_power (f : Fld) (v : Nat) : (s.fset f v).power = s.power := rfl
@[simp] theorem State.fset_sec (f : Fld) (v : Nat) : (s.fset f v).sec = s.sec := rfl
@[simp] theorem State.fset_flash (f : Fld) (v : Nat) : (s.fset f v).flash = s.flash := rfl
@[simp] theorem State.fset_rpmc (f : Fld) (v : Nat) : (s.fset f v).rpmc = s.rpmc := rfl
@[simp] theorem State.fset_tap (f : Fld) (v : Nat) : (s.fset f v).tap = s.tap := rfl
@[simp] theorem State.fset_retraining (f : Fld) (v : Nat) : (s.fset f v).retraining = s.retraining := rfl
@[simp] theorem State.fset_deadLinks (f : Fld) (v : Nat) : (s.fset f v).deadLinks = s.deadLinks := rfl
@[simp] theorem State.fset_resyncQ (f : Fld) (v : Nat) : (s.fset f v).resyncQ = s.resyncQ := rfl
@[simp] theorem State.fset_resyncNow (f : Fld) (v : Nat) : (s.fset f v).resyncNow = s.resyncNow := rfl
@[simp] theorem State.fset_resyncSeq (f : Fld) (v : Nat) : (s.fset f v).resyncSeq = s.resyncSeq := rfl
@[simp] theorem State.fset_descSeq (f : Fld) (v : Nat) : (s.fset f v).descSeq = s.descSeq := rfl
@[simp] theorem State.fset_turn (f : Fld) (v : Nat) : (s.fset f v).turn = s.turn := rfl
@[simp] theorem State.fset_freeCtr (f : Fld) (v : Nat) : (s.fset f v).freeCtr = s.freeCtr := rfl
@[simp] theorem State.fset_out (f : Fld) (v : Nat) : (s.fset f v).out = s.out := rfl
@[simp] theorem State.fset_pending (f : Fld) (v : Nat) : (s.fset f v).pending = s.pending := rfl
@[simp] theorem State.accGet_fset (f : Fld) (v : Nat) (x : Fld) : (s.fset f v).accGet x = s.accGet x := rfl
@[simp] theorem State.part_fset (f : Fld) (v : Nat) (x : Nat) : (s.fset f v).part x = s.part x := rfl
@[simp] theorem State.ring_fset (f : Fld) (v : Nat) (x : Nat) : (s.fset f v).ring x = s.ring x := rfl
@[simp] theorem State.slot_fset (f : Fld) (v : Nat) (x k' : Nat) : (s.fset f v).slot x k' = s.slot x k' := rfl
@[simp] theorem State.stack_fset (f : Fld) (v : Nat) (x : Nat) : (s.fset f v).stack x = s.stack x := rfl
@[simp] theorem State.port_fset (f : Fld) (v : Nat) (x : Nat) : (s.fset f v).port x = s.port x := rfl
@[simp] theorem State.region_fset (f : Fld) (v : Nat) (x : Nat) : (s.fset f v).region x = s.region x := rfl

/-! ## fadd -/

@[simp] theorem State.fadd_staged (f : Fld) (d : Nat) : (s.fadd f d).staged = s.staged := rfl
@[simp] theorem State.fadd_acc (f : Fld) (d : Nat) : (s.fadd f d).acc = s.acc := rfl
@[simp] theorem State.fadd_mem (f : Fld) (d : Nat) : (s.fadd f d).mem = s.mem := rfl
@[simp] theorem State.fadd_damage (f : Fld) (d : Nat) : (s.fadd f d).damage = s.damage := rfl
@[simp] theorem State.fadd_memStacks (f : Fld) (d : Nat) : (s.fadd f d).memStacks = s.memStacks := rfl
@[simp] theorem State.fadd_regionSt (f : Fld) (d : Nat) : (s.fadd f d).regionSt = s.regionSt := rfl
@[simp] theorem State.fadd_fieldRows (f : Fld) (d : Nat) : (s.fadd f d).fieldRows = s.fieldRows := rfl
@[simp] theorem State.fadd_hardRows (f : Fld) (d : Nat) : (s.fadd f d).hardRows = s.hardRows := rfl
@[simp] theorem State.fadd_parts (f : Fld) (d : Nat) : (s.fadd f d).parts = s.parts := rfl
@[simp] theorem State.fadd_rings (f : Fld) (d : Nat) : (s.fadd f d).rings = s.rings := rfl
@[simp] theorem State.fadd_slots (f : Fld) (d : Nat) : (s.fadd f d).slots = s.slots := rfl
@[simp] theorem State.fadd_recs (f : Fld) (d : Nat) : (s.fadd f d).recs = s.recs := rfl
@[simp] theorem State.fadd_chans (f : Fld) (d : Nat) : (s.fadd f d).chans = s.chans := rfl
@[simp] theorem State.fadd_epReset (f : Fld) (d : Nat) : (s.fadd f d).epReset = s.epReset := rfl
@[simp] theorem State.fadd_mboxHolds (f : Fld) (d : Nat) : (s.fadd f d).mboxHolds = s.mboxHolds := rfl
@[simp] theorem State.fadd_glk (f : Fld) (d : Nat) : (s.fadd f d).glk = s.glk := rfl
@[simp] theorem State.fadd_ports (f : Fld) (d : Nat) : (s.fadd f d).ports = s.ports := rfl
@[simp] theorem State.fadd_power (f : Fld) (d : Nat) : (s.fadd f d).power = s.power := rfl
@[simp] theorem State.fadd_sec (f : Fld) (d : Nat) : (s.fadd f d).sec = s.sec := rfl
@[simp] theorem State.fadd_flash (f : Fld) (d : Nat) : (s.fadd f d).flash = s.flash := rfl
@[simp] theorem State.fadd_rpmc (f : Fld) (d : Nat) : (s.fadd f d).rpmc = s.rpmc := rfl
@[simp] theorem State.fadd_tap (f : Fld) (d : Nat) : (s.fadd f d).tap = s.tap := rfl
@[simp] theorem State.fadd_retraining (f : Fld) (d : Nat) : (s.fadd f d).retraining = s.retraining := rfl
@[simp] theorem State.fadd_deadLinks (f : Fld) (d : Nat) : (s.fadd f d).deadLinks = s.deadLinks := rfl
@[simp] theorem State.fadd_resyncQ (f : Fld) (d : Nat) : (s.fadd f d).resyncQ = s.resyncQ := rfl
@[simp] theorem State.fadd_resyncNow (f : Fld) (d : Nat) : (s.fadd f d).resyncNow = s.resyncNow := rfl
@[simp] theorem State.fadd_resyncSeq (f : Fld) (d : Nat) : (s.fadd f d).resyncSeq = s.resyncSeq := rfl
@[simp] theorem State.fadd_descSeq (f : Fld) (d : Nat) : (s.fadd f d).descSeq = s.descSeq := rfl
@[simp] theorem State.fadd_turn (f : Fld) (d : Nat) : (s.fadd f d).turn = s.turn := rfl
@[simp] theorem State.fadd_freeCtr (f : Fld) (d : Nat) : (s.fadd f d).freeCtr = s.freeCtr := rfl
@[simp] theorem State.fadd_out (f : Fld) (d : Nat) : (s.fadd f d).out = s.out := rfl
@[simp] theorem State.fadd_pending (f : Fld) (d : Nat) : (s.fadd f d).pending = s.pending := rfl
@[simp] theorem State.accGet_fadd (f : Fld) (d : Nat) (x : Fld) : (s.fadd f d).accGet x = s.accGet x := rfl
@[simp] theorem State.part_fadd (f : Fld) (d : Nat) (x : Nat) : (s.fadd f d).part x = s.part x := rfl
@[simp] theorem State.ring_fadd (f : Fld) (d : Nat) (x : Nat) : (s.fadd f d).ring x = s.ring x := rfl
@[simp] theorem State.slot_fadd (f : Fld) (d : Nat) (x k' : Nat) : (s.fadd f d).slot x k' = s.slot x k' := rfl
@[simp] theorem State.stack_fadd (f : Fld) (d : Nat) (x : Nat) : (s.fadd f d).stack x = s.stack x := rfl
@[simp] theorem State.port_fadd (f : Fld) (d : Nat) (x : Nat) : (s.fadd f d).port x = s.port x := rfl
@[simp] theorem State.region_fadd (f : Fld) (d : Nat) (x : Nat) : (s.fadd f d).region x = s.region x := rfl

/-! ## fsetBit -/

@[simp] theorem State.fsetBit_staged (f : Fld) (i : Nat) (b : Bool) : (s.fsetBit f i b).staged = s.staged := rfl
@[simp] theorem State.fsetBit_acc (f : Fld) (i : Nat) (b : Bool) : (s.fsetBit f i b).acc = s.acc := rfl
@[simp] theorem State.fsetBit_mem (f : Fld) (i : Nat) (b : Bool) : (s.fsetBit f i b).mem = s.mem := rfl
@[simp] theorem State.fsetBit_damage (f : Fld) (i : Nat) (b : Bool) : (s.fsetBit f i b).damage = s.damage := rfl
@[simp] theorem State.fsetBit_memStacks (f : Fld) (i : Nat) (b : Bool) : (s.fsetBit f i b).memStacks = s.memStacks := rfl
@[simp] theorem State.fsetBit_regionSt (f : Fld) (i : Nat) (b : Bool) : (s.fsetBit f i b).regionSt = s.regionSt := rfl
@[simp] theorem State.fsetBit_fieldRows (f : Fld) (i : Nat) (b : Bool) : (s.fsetBit f i b).fieldRows = s.fieldRows := rfl
@[simp] theorem State.fsetBit_hardRows (f : Fld) (i : Nat) (b : Bool) : (s.fsetBit f i b).hardRows = s.hardRows := rfl
@[simp] theorem State.fsetBit_parts (f : Fld) (i : Nat) (b : Bool) : (s.fsetBit f i b).parts = s.parts := rfl
@[simp] theorem State.fsetBit_rings (f : Fld) (i : Nat) (b : Bool) : (s.fsetBit f i b).rings = s.rings := rfl
@[simp] theorem State.fsetBit_slots (f : Fld) (i : Nat) (b : Bool) : (s.fsetBit f i b).slots = s.slots := rfl
@[simp] theorem State.fsetBit_recs (f : Fld) (i : Nat) (b : Bool) : (s.fsetBit f i b).recs = s.recs := rfl
@[simp] theorem State.fsetBit_chans (f : Fld) (i : Nat) (b : Bool) : (s.fsetBit f i b).chans = s.chans := rfl
@[simp] theorem State.fsetBit_epReset (f : Fld) (i : Nat) (b : Bool) : (s.fsetBit f i b).epReset = s.epReset := rfl
@[simp] theorem State.fsetBit_mboxHolds (f : Fld) (i : Nat) (b : Bool) : (s.fsetBit f i b).mboxHolds = s.mboxHolds := rfl
@[simp] theorem State.fsetBit_glk (f : Fld) (i : Nat) (b : Bool) : (s.fsetBit f i b).glk = s.glk := rfl
@[simp] theorem State.fsetBit_ports (f : Fld) (i : Nat) (b : Bool) : (s.fsetBit f i b).ports = s.ports := rfl
@[simp] theorem State.fsetBit_power (f : Fld) (i : Nat) (b : Bool) : (s.fsetBit f i b).power = s.power := rfl
@[simp] theorem State.fsetBit_sec (f : Fld) (i : Nat) (b : Bool) : (s.fsetBit f i b).sec = s.sec := rfl
@[simp] theorem State.fsetBit_flash (f : Fld) (i : Nat) (b : Bool) : (s.fsetBit f i b).flash = s.flash := rfl
@[simp] theorem State.fsetBit_rpmc (f : Fld) (i : Nat) (b : Bool) : (s.fsetBit f i b).rpmc = s.rpmc := rfl
@[simp] theorem State.fsetBit_tap (f : Fld) (i : Nat) (b : Bool) : (s.fsetBit f i b).tap = s.tap := rfl
@[simp] theorem State.fsetBit_retraining (f : Fld) (i : Nat) (b : Bool) : (s.fsetBit f i b).retraining = s.retraining := rfl
@[simp] theorem State.fsetBit_deadLinks (f : Fld) (i : Nat) (b : Bool) : (s.fsetBit f i b).deadLinks = s.deadLinks := rfl
@[simp] theorem State.fsetBit_resyncQ (f : Fld) (i : Nat) (b : Bool) : (s.fsetBit f i b).resyncQ = s.resyncQ := rfl
@[simp] theorem State.fsetBit_resyncNow (f : Fld) (i : Nat) (b : Bool) : (s.fsetBit f i b).resyncNow = s.resyncNow := rfl
@[simp] theorem State.fsetBit_resyncSeq (f : Fld) (i : Nat) (b : Bool) : (s.fsetBit f i b).resyncSeq = s.resyncSeq := rfl
@[simp] theorem State.fsetBit_descSeq (f : Fld) (i : Nat) (b : Bool) : (s.fsetBit f i b).descSeq = s.descSeq := rfl
@[simp] theorem State.fsetBit_turn (f : Fld) (i : Nat) (b : Bool) : (s.fsetBit f i b).turn = s.turn := rfl
@[simp] theorem State.fsetBit_freeCtr (f : Fld) (i : Nat) (b : Bool) : (s.fsetBit f i b).freeCtr = s.freeCtr := rfl
@[simp] theorem State.fsetBit_out (f : Fld) (i : Nat) (b : Bool) : (s.fsetBit f i b).out = s.out := rfl
@[simp] theorem State.fsetBit_pending (f : Fld) (i : Nat) (b : Bool) : (s.fsetBit f i b).pending = s.pending := rfl
@[simp] theorem State.accGet_fsetBit (f : Fld) (i : Nat) (b : Bool) (x : Fld) : (s.fsetBit f i b).accGet x = s.accGet x := rfl
@[simp] theorem State.part_fsetBit (f : Fld) (i : Nat) (b : Bool) (x : Nat) : (s.fsetBit f i b).part x = s.part x := rfl
@[simp] theorem State.ring_fsetBit (f : Fld) (i : Nat) (b : Bool) (x : Nat) : (s.fsetBit f i b).ring x = s.ring x := rfl
@[simp] theorem State.slot_fsetBit (f : Fld) (i : Nat) (b : Bool) (x k' : Nat) : (s.fsetBit f i b).slot x k' = s.slot x k' := rfl
@[simp] theorem State.stack_fsetBit (f : Fld) (i : Nat) (b : Bool) (x : Nat) : (s.fsetBit f i b).stack x = s.stack x := rfl
@[simp] theorem State.port_fsetBit (f : Fld) (i : Nat) (b : Bool) (x : Nat) : (s.fsetBit f i b).port x = s.port x := rfl
@[simp] theorem State.region_fsetBit (f : Fld) (i : Nat) (b : Bool) (x : Nat) : (s.fsetBit f i b).region x = s.region x := rfl

/-! ## accAdd -/

@[simp] theorem State.accAdd_regs (f : Fld) (d : Nat) : (s.accAdd f d).regs = s.regs := rfl
@[simp] theorem State.accAdd_staged (f : Fld) (d : Nat) : (s.accAdd f d).staged = s.staged := rfl
@[simp] theorem State.accAdd_mem (f : Fld) (d : Nat) : (s.accAdd f d).mem = s.mem := rfl
@[simp] theorem State.accAdd_damage (f : Fld) (d : Nat) : (s.accAdd f d).damage = s.damage := rfl
@[simp] theorem State.accAdd_memStacks (f : Fld) (d : Nat) : (s.accAdd f d).memStacks = s.memStacks := rfl
@[simp] theorem State.accAdd_regionSt (f : Fld) (d : Nat) : (s.accAdd f d).regionSt = s.regionSt := rfl
@[simp] theorem State.accAdd_fieldRows (f : Fld) (d : Nat) : (s.accAdd f d).fieldRows = s.fieldRows := rfl
@[simp] theorem State.accAdd_hardRows (f : Fld) (d : Nat) : (s.accAdd f d).hardRows = s.hardRows := rfl
@[simp] theorem State.accAdd_parts (f : Fld) (d : Nat) : (s.accAdd f d).parts = s.parts := rfl
@[simp] theorem State.accAdd_rings (f : Fld) (d : Nat) : (s.accAdd f d).rings = s.rings := rfl
@[simp] theorem State.accAdd_slots (f : Fld) (d : Nat) : (s.accAdd f d).slots = s.slots := rfl
@[simp] theorem State.accAdd_recs (f : Fld) (d : Nat) : (s.accAdd f d).recs = s.recs := rfl
@[simp] theorem State.accAdd_chans (f : Fld) (d : Nat) : (s.accAdd f d).chans = s.chans := rfl
@[simp] theorem State.accAdd_epReset (f : Fld) (d : Nat) : (s.accAdd f d).epReset = s.epReset := rfl
@[simp] theorem State.accAdd_mboxHolds (f : Fld) (d : Nat) : (s.accAdd f d).mboxHolds = s.mboxHolds := rfl
@[simp] theorem State.accAdd_glk (f : Fld) (d : Nat) : (s.accAdd f d).glk = s.glk := rfl
@[simp] theorem State.accAdd_ports (f : Fld) (d : Nat) : (s.accAdd f d).ports = s.ports := rfl
@[simp] theorem State.accAdd_power (f : Fld) (d : Nat) : (s.accAdd f d).power = s.power := rfl
@[simp] theorem State.accAdd_sec (f : Fld) (d : Nat) : (s.accAdd f d).sec = s.sec := rfl
@[simp] theorem State.accAdd_flash (f : Fld) (d : Nat) : (s.accAdd f d).flash = s.flash := rfl
@[simp] theorem State.accAdd_rpmc (f : Fld) (d : Nat) : (s.accAdd f d).rpmc = s.rpmc := rfl
@[simp] theorem State.accAdd_tap (f : Fld) (d : Nat) : (s.accAdd f d).tap = s.tap := rfl
@[simp] theorem State.accAdd_retraining (f : Fld) (d : Nat) : (s.accAdd f d).retraining = s.retraining := rfl
@[simp] theorem State.accAdd_deadLinks (f : Fld) (d : Nat) : (s.accAdd f d).deadLinks = s.deadLinks := rfl
@[simp] theorem State.accAdd_resyncQ (f : Fld) (d : Nat) : (s.accAdd f d).resyncQ = s.resyncQ := rfl
@[simp] theorem State.accAdd_resyncNow (f : Fld) (d : Nat) : (s.accAdd f d).resyncNow = s.resyncNow := rfl
@[simp] theorem State.accAdd_resyncSeq (f : Fld) (d : Nat) : (s.accAdd f d).resyncSeq = s.resyncSeq := rfl
@[simp] theorem State.accAdd_descSeq (f : Fld) (d : Nat) : (s.accAdd f d).descSeq = s.descSeq := rfl
@[simp] theorem State.accAdd_turn (f : Fld) (d : Nat) : (s.accAdd f d).turn = s.turn := rfl
@[simp] theorem State.accAdd_freeCtr (f : Fld) (d : Nat) : (s.accAdd f d).freeCtr = s.freeCtr := rfl
@[simp] theorem State.accAdd_out (f : Fld) (d : Nat) : (s.accAdd f d).out = s.out := rfl
@[simp] theorem State.accAdd_pending (f : Fld) (d : Nat) : (s.accAdd f d).pending = s.pending := rfl
@[simp] theorem State.fget_accAdd (f : Fld) (d : Nat) (x : Fld) : (s.accAdd f d).fget x = s.fget x := rfl
@[simp] theorem State.part_accAdd (f : Fld) (d : Nat) (x : Nat) : (s.accAdd f d).part x = s.part x := rfl
@[simp] theorem State.ring_accAdd (f : Fld) (d : Nat) (x : Nat) : (s.accAdd f d).ring x = s.ring x := rfl
@[simp] theorem State.slot_accAdd (f : Fld) (d : Nat) (x k' : Nat) : (s.accAdd f d).slot x k' = s.slot x k' := rfl
@[simp] theorem State.stack_accAdd (f : Fld) (d : Nat) (x : Nat) : (s.accAdd f d).stack x = s.stack x := rfl
@[simp] theorem State.port_accAdd (f : Fld) (d : Nat) (x : Nat) : (s.accAdd f d).port x = s.port x := rfl
@[simp] theorem State.region_accAdd (f : Fld) (d : Nat) (x : Nat) : (s.accAdd f d).region x = s.region x := rfl

/-! ## accMax -/

@[simp] theorem State.accMax_regs (f : Fld) (v : Nat) : (s.accMax f v).regs = s.regs := rfl
@[simp] theorem State.accMax_staged (f : Fld) (v : Nat) : (s.accMax f v).staged = s.staged := rfl
@[simp] theorem State.accMax_mem (f : Fld) (v : Nat) : (s.accMax f v).mem = s.mem := rfl
@[simp] theorem State.accMax_damage (f : Fld) (v : Nat) : (s.accMax f v).damage = s.damage := rfl
@[simp] theorem State.accMax_memStacks (f : Fld) (v : Nat) : (s.accMax f v).memStacks = s.memStacks := rfl
@[simp] theorem State.accMax_regionSt (f : Fld) (v : Nat) : (s.accMax f v).regionSt = s.regionSt := rfl
@[simp] theorem State.accMax_fieldRows (f : Fld) (v : Nat) : (s.accMax f v).fieldRows = s.fieldRows := rfl
@[simp] theorem State.accMax_hardRows (f : Fld) (v : Nat) : (s.accMax f v).hardRows = s.hardRows := rfl
@[simp] theorem State.accMax_parts (f : Fld) (v : Nat) : (s.accMax f v).parts = s.parts := rfl
@[simp] theorem State.accMax_rings (f : Fld) (v : Nat) : (s.accMax f v).rings = s.rings := rfl
@[simp] theorem State.accMax_slots (f : Fld) (v : Nat) : (s.accMax f v).slots = s.slots := rfl
@[simp] theorem State.accMax_recs (f : Fld) (v : Nat) : (s.accMax f v).recs = s.recs := rfl
@[simp] theorem State.accMax_chans (f : Fld) (v : Nat) : (s.accMax f v).chans = s.chans := rfl
@[simp] theorem State.accMax_epReset (f : Fld) (v : Nat) : (s.accMax f v).epReset = s.epReset := rfl
@[simp] theorem State.accMax_mboxHolds (f : Fld) (v : Nat) : (s.accMax f v).mboxHolds = s.mboxHolds := rfl
@[simp] theorem State.accMax_glk (f : Fld) (v : Nat) : (s.accMax f v).glk = s.glk := rfl
@[simp] theorem State.accMax_ports (f : Fld) (v : Nat) : (s.accMax f v).ports = s.ports := rfl
@[simp] theorem State.accMax_power (f : Fld) (v : Nat) : (s.accMax f v).power = s.power := rfl
@[simp] theorem State.accMax_sec (f : Fld) (v : Nat) : (s.accMax f v).sec = s.sec := rfl
@[simp] theorem State.accMax_flash (f : Fld) (v : Nat) : (s.accMax f v).flash = s.flash := rfl
@[simp] theorem State.accMax_rpmc (f : Fld) (v : Nat) : (s.accMax f v).rpmc = s.rpmc := rfl
@[simp] theorem State.accMax_tap (f : Fld) (v : Nat) : (s.accMax f v).tap = s.tap := rfl
@[simp] theorem State.accMax_retraining (f : Fld) (v : Nat) : (s.accMax f v).retraining = s.retraining := rfl
@[simp] theorem State.accMax_deadLinks (f : Fld) (v : Nat) : (s.accMax f v).deadLinks = s.deadLinks := rfl
@[simp] theorem State.accMax_resyncQ (f : Fld) (v : Nat) : (s.accMax f v).resyncQ = s.resyncQ := rfl
@[simp] theorem State.accMax_resyncNow (f : Fld) (v : Nat) : (s.accMax f v).resyncNow = s.resyncNow := rfl
@[simp] theorem State.accMax_resyncSeq (f : Fld) (v : Nat) : (s.accMax f v).resyncSeq = s.resyncSeq := rfl
@[simp] theorem State.accMax_descSeq (f : Fld) (v : Nat) : (s.accMax f v).descSeq = s.descSeq := rfl
@[simp] theorem State.accMax_turn (f : Fld) (v : Nat) : (s.accMax f v).turn = s.turn := rfl
@[simp] theorem State.accMax_freeCtr (f : Fld) (v : Nat) : (s.accMax f v).freeCtr = s.freeCtr := rfl
@[simp] theorem State.accMax_out (f : Fld) (v : Nat) : (s.accMax f v).out = s.out := rfl
@[simp] theorem State.accMax_pending (f : Fld) (v : Nat) : (s.accMax f v).pending = s.pending := rfl
@[simp] theorem State.fget_accMax (f : Fld) (v : Nat) (x : Fld) : (s.accMax f v).fget x = s.fget x := rfl
@[simp] theorem State.part_accMax (f : Fld) (v : Nat) (x : Nat) : (s.accMax f v).part x = s.part x := rfl
@[simp] theorem State.ring_accMax (f : Fld) (v : Nat) (x : Nat) : (s.accMax f v).ring x = s.ring x := rfl
@[simp] theorem State.slot_accMax (f : Fld) (v : Nat) (x k' : Nat) : (s.accMax f v).slot x k' = s.slot x k' := rfl
@[simp] theorem State.stack_accMax (f : Fld) (v : Nat) (x : Nat) : (s.accMax f v).stack x = s.stack x := rfl
@[simp] theorem State.port_accMax (f : Fld) (v : Nat) (x : Nat) : (s.accMax f v).port x = s.port x := rfl
@[simp] theorem State.region_accMax (f : Fld) (v : Nat) (x : Nat) : (s.accMax f v).region x = s.region x := rfl

/-! ## updPart -/

@[simp] theorem State.updPart_regs (p : Nat) (g : Part → Part) : (s.updPart p g).regs = s.regs := rfl
@[simp] theorem State.updPart_staged (p : Nat) (g : Part → Part) : (s.updPart p g).staged = s.staged := rfl
@[simp] theorem State.updPart_acc (p : Nat) (g : Part → Part) : (s.updPart p g).acc = s.acc := rfl
@[simp] theorem State.updPart_mem (p : Nat) (g : Part → Part) : (s.updPart p g).mem = s.mem := rfl
@[simp] theorem State.updPart_damage (p : Nat) (g : Part → Part) : (s.updPart p g).damage = s.damage := rfl
@[simp] theorem State.updPart_memStacks (p : Nat) (g : Part → Part) : (s.updPart p g).memStacks = s.memStacks := rfl
@[simp] theorem State.updPart_regionSt (p : Nat) (g : Part → Part) : (s.updPart p g).regionSt = s.regionSt := rfl
@[simp] theorem State.updPart_fieldRows (p : Nat) (g : Part → Part) : (s.updPart p g).fieldRows = s.fieldRows := rfl
@[simp] theorem State.updPart_hardRows (p : Nat) (g : Part → Part) : (s.updPart p g).hardRows = s.hardRows := rfl
@[simp] theorem State.updPart_rings (p : Nat) (g : Part → Part) : (s.updPart p g).rings = s.rings := rfl
@[simp] theorem State.updPart_slots (p : Nat) (g : Part → Part) : (s.updPart p g).slots = s.slots := rfl
@[simp] theorem State.updPart_recs (p : Nat) (g : Part → Part) : (s.updPart p g).recs = s.recs := rfl
@[simp] theorem State.updPart_chans (p : Nat) (g : Part → Part) : (s.updPart p g).chans = s.chans := rfl
@[simp] theorem State.updPart_epReset (p : Nat) (g : Part → Part) : (s.updPart p g).epReset = s.epReset := rfl
@[simp] theorem State.updPart_mboxHolds (p : Nat) (g : Part → Part) : (s.updPart p g).mboxHolds = s.mboxHolds := rfl
@[simp] theorem State.updPart_glk (p : Nat) (g : Part → Part) : (s.updPart p g).glk = s.glk := rfl
@[simp] theorem State.updPart_ports (p : Nat) (g : Part → Part) : (s.updPart p g).ports = s.ports := rfl
@[simp] theorem State.updPart_power (p : Nat) (g : Part → Part) : (s.updPart p g).power = s.power := rfl
@[simp] theorem State.updPart_sec (p : Nat) (g : Part → Part) : (s.updPart p g).sec = s.sec := rfl
@[simp] theorem State.updPart_flash (p : Nat) (g : Part → Part) : (s.updPart p g).flash = s.flash := rfl
@[simp] theorem State.updPart_rpmc (p : Nat) (g : Part → Part) : (s.updPart p g).rpmc = s.rpmc := rfl
@[simp] theorem State.updPart_tap (p : Nat) (g : Part → Part) : (s.updPart p g).tap = s.tap := rfl
@[simp] theorem State.updPart_retraining (p : Nat) (g : Part → Part) : (s.updPart p g).retraining = s.retraining := rfl
@[simp] theorem State.updPart_deadLinks (p : Nat) (g : Part → Part) : (s.updPart p g).deadLinks = s.deadLinks := rfl
@[simp] theorem State.updPart_resyncQ (p : Nat) (g : Part → Part) : (s.updPart p g).resyncQ = s.resyncQ := rfl
@[simp] theorem State.updPart_resyncNow (p : Nat) (g : Part → Part) : (s.updPart p g).resyncNow = s.resyncNow := rfl
@[simp] theorem State.updPart_resyncSeq (p : Nat) (g : Part → Part) : (s.updPart p g).resyncSeq = s.resyncSeq := rfl
@[simp] theorem State.updPart_descSeq (p : Nat) (g : Part → Part) : (s.updPart p g).descSeq = s.descSeq := rfl
@[simp] theorem State.updPart_turn (p : Nat) (g : Part → Part) : (s.updPart p g).turn = s.turn := rfl
@[simp] theorem State.updPart_freeCtr (p : Nat) (g : Part → Part) : (s.updPart p g).freeCtr = s.freeCtr := rfl
@[simp] theorem State.updPart_out (p : Nat) (g : Part → Part) : (s.updPart p g).out = s.out := rfl
@[simp] theorem State.updPart_pending (p : Nat) (g : Part → Part) : (s.updPart p g).pending = s.pending := rfl
@[simp] theorem State.fget_updPart (p : Nat) (g : Part → Part) (x : Fld) : (s.updPart p g).fget x = s.fget x := rfl
@[simp] theorem State.accGet_updPart (p : Nat) (g : Part → Part) (x : Fld) : (s.updPart p g).accGet x = s.accGet x := rfl
@[simp] theorem State.ring_updPart (p : Nat) (g : Part → Part) (x : Nat) : (s.updPart p g).ring x = s.ring x := rfl
@[simp] theorem State.slot_updPart (p : Nat) (g : Part → Part) (x k' : Nat) : (s.updPart p g).slot x k' = s.slot x k' := rfl
@[simp] theorem State.stack_updPart (p : Nat) (g : Part → Part) (x : Nat) : (s.updPart p g).stack x = s.stack x := rfl
@[simp] theorem State.port_updPart (p : Nat) (g : Part → Part) (x : Nat) : (s.updPart p g).port x = s.port x := rfl
@[simp] theorem State.region_updPart (p : Nat) (g : Part → Part) (x : Nat) : (s.updPart p g).region x = s.region x := rfl

/-! ## updDom -/

@[simp] theorem State.updDom_regs (p : Nat) (g : Domain → Domain) : (s.updDom p g).regs = s.regs := rfl
@[simp] theorem State.updDom_staged (p : Nat) (g : Domain → Domain) : (s.updDom p g).staged = s.staged := rfl
@[simp] theorem State.updDom_acc (p : Nat) (g : Domain → Domain) : (s.updDom p g).acc = s.acc := rfl
@[simp] theorem State.updDom_mem (p : Nat) (g : Domain → Domain) : (s.updDom p g).mem = s.mem := rfl
@[simp] theorem State.updDom_damage (p : Nat) (g : Domain → Domain) : (s.updDom p g).damage = s.damage := rfl
@[simp] theorem State.updDom_memStacks (p : Nat) (g : Domain → Domain) : (s.updDom p g).memStacks = s.memStacks := rfl
@[simp] theorem State.updDom_regionSt (p : Nat) (g : Domain → Domain) : (s.updDom p g).regionSt = s.regionSt := rfl
@[simp] theorem State.updDom_fieldRows (p : Nat) (g : Domain → Domain) : (s.updDom p g).fieldRows = s.fieldRows := rfl
@[simp] theorem State.updDom_hardRows (p : Nat) (g : Domain → Domain) : (s.updDom p g).hardRows = s.hardRows := rfl
@[simp] theorem State.updDom_rings (p : Nat) (g : Domain → Domain) : (s.updDom p g).rings = s.rings := rfl
@[simp] theorem State.updDom_slots (p : Nat) (g : Domain → Domain) : (s.updDom p g).slots = s.slots := rfl
@[simp] theorem State.updDom_recs (p : Nat) (g : Domain → Domain) : (s.updDom p g).recs = s.recs := rfl
@[simp] theorem State.updDom_chans (p : Nat) (g : Domain → Domain) : (s.updDom p g).chans = s.chans := rfl
@[simp] theorem State.updDom_epReset (p : Nat) (g : Domain → Domain) : (s.updDom p g).epReset = s.epReset := rfl
@[simp] theorem State.updDom_mboxHolds (p : Nat) (g : Domain → Domain) : (s.updDom p g).mboxHolds = s.mboxHolds := rfl
@[simp] theorem State.updDom_glk (p : Nat) (g : Domain → Domain) : (s.updDom p g).glk = s.glk := rfl
@[simp] theorem State.updDom_ports (p : Nat) (g : Domain → Domain) : (s.updDom p g).ports = s.ports := rfl
@[simp] theorem State.updDom_power (p : Nat) (g : Domain → Domain) : (s.updDom p g).power = s.power := rfl
@[simp] theorem State.updDom_sec (p : Nat) (g : Domain → Domain) : (s.updDom p g).sec = s.sec := rfl
@[simp] theorem State.updDom_flash (p : Nat) (g : Domain → Domain) : (s.updDom p g).flash = s.flash := rfl
@[simp] theorem State.updDom_rpmc (p : Nat) (g : Domain → Domain) : (s.updDom p g).rpmc = s.rpmc := rfl
@[simp] theorem State.updDom_tap (p : Nat) (g : Domain → Domain) : (s.updDom p g).tap = s.tap := rfl
@[simp] theorem State.updDom_retraining (p : Nat) (g : Domain → Domain) : (s.updDom p g).retraining = s.retraining := rfl
@[simp] theorem State.updDom_deadLinks (p : Nat) (g : Domain → Domain) : (s.updDom p g).deadLinks = s.deadLinks := rfl
@[simp] theorem State.updDom_resyncQ (p : Nat) (g : Domain → Domain) : (s.updDom p g).resyncQ = s.resyncQ := rfl
@[simp] theorem State.updDom_resyncNow (p : Nat) (g : Domain → Domain) : (s.updDom p g).resyncNow = s.resyncNow := rfl
@[simp] theorem State.updDom_resyncSeq (p : Nat) (g : Domain → Domain) : (s.updDom p g).resyncSeq = s.resyncSeq := rfl
@[simp] theorem State.updDom_descSeq (p : Nat) (g : Domain → Domain) : (s.updDom p g).descSeq = s.descSeq := rfl
@[simp] theorem State.updDom_turn (p : Nat) (g : Domain → Domain) : (s.updDom p g).turn = s.turn := rfl
@[simp] theorem State.updDom_freeCtr (p : Nat) (g : Domain → Domain) : (s.updDom p g).freeCtr = s.freeCtr := rfl
@[simp] theorem State.updDom_out (p : Nat) (g : Domain → Domain) : (s.updDom p g).out = s.out := rfl
@[simp] theorem State.updDom_pending (p : Nat) (g : Domain → Domain) : (s.updDom p g).pending = s.pending := rfl
@[simp] theorem State.fget_updDom (p : Nat) (g : Domain → Domain) (x : Fld) : (s.updDom p g).fget x = s.fget x := rfl
@[simp] theorem State.accGet_updDom (p : Nat) (g : Domain → Domain) (x : Fld) : (s.updDom p g).accGet x = s.accGet x := rfl
@[simp] theorem State.ring_updDom (p : Nat) (g : Domain → Domain) (x : Nat) : (s.updDom p g).ring x = s.ring x := rfl
@[simp] theorem State.slot_updDom (p : Nat) (g : Domain → Domain) (x k' : Nat) : (s.updDom p g).slot x k' = s.slot x k' := rfl
@[simp] theorem State.stack_updDom (p : Nat) (g : Domain → Domain) (x : Nat) : (s.updDom p g).stack x = s.stack x := rfl
@[simp] theorem State.port_updDom (p : Nat) (g : Domain → Domain) (x : Nat) : (s.updDom p g).port x = s.port x := rfl
@[simp] theorem State.region_updDom (p : Nat) (g : Domain → Domain) (x : Nat) : (s.updDom p g).region x = s.region x := rfl

/-! ## updRing -/

@[simp] theorem State.updRing_regs (n : Nat) (g : Ring → Ring) : (s.updRing n g).regs = s.regs := rfl
@[simp] theorem State.updRing_staged (n : Nat) (g : Ring → Ring) : (s.updRing n g).staged = s.staged := rfl
@[simp] theorem State.updRing_acc (n : Nat) (g : Ring → Ring) : (s.updRing n g).acc = s.acc := rfl
@[simp] theorem State.updRing_mem (n : Nat) (g : Ring → Ring) : (s.updRing n g).mem = s.mem := rfl
@[simp] theorem State.updRing_damage (n : Nat) (g : Ring → Ring) : (s.updRing n g).damage = s.damage := rfl
@[simp] theorem State.updRing_memStacks (n : Nat) (g : Ring → Ring) : (s.updRing n g).memStacks = s.memStacks := rfl
@[simp] theorem State.updRing_regionSt (n : Nat) (g : Ring → Ring) : (s.updRing n g).regionSt = s.regionSt := rfl
@[simp] theorem State.updRing_fieldRows (n : Nat) (g : Ring → Ring) : (s.updRing n g).fieldRows = s.fieldRows := rfl
@[simp] theorem State.updRing_hardRows (n : Nat) (g : Ring → Ring) : (s.updRing n g).hardRows = s.hardRows := rfl
@[simp] theorem State.updRing_parts (n : Nat) (g : Ring → Ring) : (s.updRing n g).parts = s.parts := rfl
@[simp] theorem State.updRing_slots (n : Nat) (g : Ring → Ring) : (s.updRing n g).slots = s.slots := rfl
@[simp] theorem State.updRing_recs (n : Nat) (g : Ring → Ring) : (s.updRing n g).recs = s.recs := rfl
@[simp] theorem State.updRing_chans (n : Nat) (g : Ring → Ring) : (s.updRing n g).chans = s.chans := rfl
@[simp] theorem State.updRing_epReset (n : Nat) (g : Ring → Ring) : (s.updRing n g).epReset = s.epReset := rfl
@[simp] theorem State.updRing_mboxHolds (n : Nat) (g : Ring → Ring) : (s.updRing n g).mboxHolds = s.mboxHolds := rfl
@[simp] theorem State.updRing_glk (n : Nat) (g : Ring → Ring) : (s.updRing n g).glk = s.glk := rfl
@[simp] theorem State.updRing_ports (n : Nat) (g : Ring → Ring) : (s.updRing n g).ports = s.ports := rfl
@[simp] theorem State.updRing_power (n : Nat) (g : Ring → Ring) : (s.updRing n g).power = s.power := rfl
@[simp] theorem State.updRing_sec (n : Nat) (g : Ring → Ring) : (s.updRing n g).sec = s.sec := rfl
@[simp] theorem State.updRing_flash (n : Nat) (g : Ring → Ring) : (s.updRing n g).flash = s.flash := rfl
@[simp] theorem State.updRing_rpmc (n : Nat) (g : Ring → Ring) : (s.updRing n g).rpmc = s.rpmc := rfl
@[simp] theorem State.updRing_tap (n : Nat) (g : Ring → Ring) : (s.updRing n g).tap = s.tap := rfl
@[simp] theorem State.updRing_retraining (n : Nat) (g : Ring → Ring) : (s.updRing n g).retraining = s.retraining := rfl
@[simp] theorem State.updRing_deadLinks (n : Nat) (g : Ring → Ring) : (s.updRing n g).deadLinks = s.deadLinks := rfl
@[simp] theorem State.updRing_resyncQ (n : Nat) (g : Ring → Ring) : (s.updRing n g).resyncQ = s.resyncQ := rfl
@[simp] theorem State.updRing_resyncNow (n : Nat) (g : Ring → Ring) : (s.updRing n g).resyncNow = s.resyncNow := rfl
@[simp] theorem State.updRing_resyncSeq (n : Nat) (g : Ring → Ring) : (s.updRing n g).resyncSeq = s.resyncSeq := rfl
@[simp] theorem State.updRing_descSeq (n : Nat) (g : Ring → Ring) : (s.updRing n g).descSeq = s.descSeq := rfl
@[simp] theorem State.updRing_turn (n : Nat) (g : Ring → Ring) : (s.updRing n g).turn = s.turn := rfl
@[simp] theorem State.updRing_freeCtr (n : Nat) (g : Ring → Ring) : (s.updRing n g).freeCtr = s.freeCtr := rfl
@[simp] theorem State.updRing_out (n : Nat) (g : Ring → Ring) : (s.updRing n g).out = s.out := rfl
@[simp] theorem State.updRing_pending (n : Nat) (g : Ring → Ring) : (s.updRing n g).pending = s.pending := rfl
@[simp] theorem State.fget_updRing (n : Nat) (g : Ring → Ring) (x : Fld) : (s.updRing n g).fget x = s.fget x := rfl
@[simp] theorem State.accGet_updRing (n : Nat) (g : Ring → Ring) (x : Fld) : (s.updRing n g).accGet x = s.accGet x := rfl
@[simp] theorem State.part_updRing (n : Nat) (g : Ring → Ring) (x : Nat) : (s.updRing n g).part x = s.part x := rfl
@[simp] theorem State.slot_updRing (n : Nat) (g : Ring → Ring) (x k' : Nat) : (s.updRing n g).slot x k' = s.slot x k' := rfl
@[simp] theorem State.stack_updRing (n : Nat) (g : Ring → Ring) (x : Nat) : (s.updRing n g).stack x = s.stack x := rfl
@[simp] theorem State.port_updRing (n : Nat) (g : Ring → Ring) (x : Nat) : (s.updRing n g).port x = s.port x := rfl
@[simp] theorem State.region_updRing (n : Nat) (g : Ring → Ring) (x : Nat) : (s.updRing n g).region x = s.region x := rfl

/-! ## updSlot -/

@[simp] theorem State.updSlot_regs (r k : Nat) (g : Slot → Slot) : (s.updSlot r k g).regs = s.regs := rfl
@[simp] theorem State.updSlot_staged (r k : Nat) (g : Slot → Slot) : (s.updSlot r k g).staged = s.staged := rfl
@[simp] theorem State.updSlot_acc (r k : Nat) (g : Slot → Slot) : (s.updSlot r k g).acc = s.acc := rfl
@[simp] theorem State.updSlot_mem (r k : Nat) (g : Slot → Slot) : (s.updSlot r k g).mem = s.mem := rfl
@[simp] theorem State.updSlot_damage (r k : Nat) (g : Slot → Slot) : (s.updSlot r k g).damage = s.damage := rfl
@[simp] theorem State.updSlot_memStacks (r k : Nat) (g : Slot → Slot) : (s.updSlot r k g).memStacks = s.memStacks := rfl
@[simp] theorem State.updSlot_regionSt (r k : Nat) (g : Slot → Slot) : (s.updSlot r k g).regionSt = s.regionSt := rfl
@[simp] theorem State.updSlot_fieldRows (r k : Nat) (g : Slot → Slot) : (s.updSlot r k g).fieldRows = s.fieldRows := rfl
@[simp] theorem State.updSlot_hardRows (r k : Nat) (g : Slot → Slot) : (s.updSlot r k g).hardRows = s.hardRows := rfl
@[simp] theorem State.updSlot_parts (r k : Nat) (g : Slot → Slot) : (s.updSlot r k g).parts = s.parts := rfl
@[simp] theorem State.updSlot_rings (r k : Nat) (g : Slot → Slot) : (s.updSlot r k g).rings = s.rings := rfl
@[simp] theorem State.updSlot_recs (r k : Nat) (g : Slot → Slot) : (s.updSlot r k g).recs = s.recs := rfl
@[simp] theorem State.updSlot_chans (r k : Nat) (g : Slot → Slot) : (s.updSlot r k g).chans = s.chans := rfl
@[simp] theorem State.updSlot_epReset (r k : Nat) (g : Slot → Slot) : (s.updSlot r k g).epReset = s.epReset := rfl
@[simp] theorem State.updSlot_mboxHolds (r k : Nat) (g : Slot → Slot) : (s.updSlot r k g).mboxHolds = s.mboxHolds := rfl
@[simp] theorem State.updSlot_glk (r k : Nat) (g : Slot → Slot) : (s.updSlot r k g).glk = s.glk := rfl
@[simp] theorem State.updSlot_ports (r k : Nat) (g : Slot → Slot) : (s.updSlot r k g).ports = s.ports := rfl
@[simp] theorem State.updSlot_power (r k : Nat) (g : Slot → Slot) : (s.updSlot r k g).power = s.power := rfl
@[simp] theorem State.updSlot_sec (r k : Nat) (g : Slot → Slot) : (s.updSlot r k g).sec = s.sec := rfl
@[simp] theorem State.updSlot_flash (r k : Nat) (g : Slot → Slot) : (s.updSlot r k g).flash = s.flash := rfl
@[simp] theorem State.updSlot_rpmc (r k : Nat) (g : Slot → Slot) : (s.updSlot r k g).rpmc = s.rpmc := rfl
@[simp] theorem State.updSlot_tap (r k : Nat) (g : Slot → Slot) : (s.updSlot r k g).tap = s.tap := rfl
@[simp] theorem State.updSlot_retraining (r k : Nat) (g : Slot → Slot) : (s.updSlot r k g).retraining = s.retraining := rfl
@[simp] theorem State.updSlot_deadLinks (r k : Nat) (g : Slot → Slot) : (s.updSlot r k g).deadLinks = s.deadLinks := rfl
@[simp] theorem State.updSlot_resyncQ (r k : Nat) (g : Slot → Slot) : (s.updSlot r k g).resyncQ = s.resyncQ := rfl
@[simp] theorem State.updSlot_resyncNow (r k : Nat) (g : Slot → Slot) : (s.updSlot r k g).resyncNow = s.resyncNow := rfl
@[simp] theorem State.updSlot_resyncSeq (r k : Nat) (g : Slot → Slot) : (s.updSlot r k g).resyncSeq = s.resyncSeq := rfl
@[simp] theorem State.updSlot_descSeq (r k : Nat) (g : Slot → Slot) : (s.updSlot r k g).descSeq = s.descSeq := rfl
@[simp] theorem State.updSlot_turn (r k : Nat) (g : Slot → Slot) : (s.updSlot r k g).turn = s.turn := rfl
@[simp] theorem State.updSlot_freeCtr (r k : Nat) (g : Slot → Slot) : (s.updSlot r k g).freeCtr = s.freeCtr := rfl
@[simp] theorem State.updSlot_out (r k : Nat) (g : Slot → Slot) : (s.updSlot r k g).out = s.out := rfl
@[simp] theorem State.updSlot_pending (r k : Nat) (g : Slot → Slot) : (s.updSlot r k g).pending = s.pending := rfl
@[simp] theorem State.fget_updSlot (r k : Nat) (g : Slot → Slot) (x : Fld) : (s.updSlot r k g).fget x = s.fget x := rfl
@[simp] theorem State.accGet_updSlot (r k : Nat) (g : Slot → Slot) (x : Fld) : (s.updSlot r k g).accGet x = s.accGet x := rfl
@[simp] theorem State.part_updSlot (r k : Nat) (g : Slot → Slot) (x : Nat) : (s.updSlot r k g).part x = s.part x := rfl
@[simp] theorem State.ring_updSlot (r k : Nat) (g : Slot → Slot) (x : Nat) : (s.updSlot r k g).ring x = s.ring x := rfl
@[simp] theorem State.stack_updSlot (r k : Nat) (g : Slot → Slot) (x : Nat) : (s.updSlot r k g).stack x = s.stack x := rfl
@[simp] theorem State.port_updSlot (r k : Nat) (g : Slot → Slot) (x : Nat) : (s.updSlot r k g).port x = s.port x := rfl
@[simp] theorem State.region_updSlot (r k : Nat) (g : Slot → Slot) (x : Nat) : (s.updSlot r k g).region x = s.region x := rfl

/-! ## updStack -/

@[simp] theorem State.updStack_regs (m : Nat) (g : Stack → Stack) : (s.updStack m g).regs = s.regs := rfl
@[simp] theorem State.updStack_staged (m : Nat) (g : Stack → Stack) : (s.updStack m g).staged = s.staged := rfl
@[simp] theorem State.updStack_acc (m : Nat) (g : Stack → Stack) : (s.updStack m g).acc = s.acc := rfl
@[simp] theorem State.updStack_mem (m : Nat) (g : Stack → Stack) : (s.updStack m g).mem = s.mem := rfl
@[simp] theorem State.updStack_damage (m : Nat) (g : Stack → Stack) : (s.updStack m g).damage = s.damage := rfl
@[simp] theorem State.updStack_regionSt (m : Nat) (g : Stack → Stack) : (s.updStack m g).regionSt = s.regionSt := rfl
@[simp] theorem State.updStack_fieldRows (m : Nat) (g : Stack → Stack) : (s.updStack m g).fieldRows = s.fieldRows := rfl
@[simp] theorem State.updStack_hardRows (m : Nat) (g : Stack → Stack) : (s.updStack m g).hardRows = s.hardRows := rfl
@[simp] theorem State.updStack_parts (m : Nat) (g : Stack → Stack) : (s.updStack m g).parts = s.parts := rfl
@[simp] theorem State.updStack_rings (m : Nat) (g : Stack → Stack) : (s.updStack m g).rings = s.rings := rfl
@[simp] theorem State.updStack_slots (m : Nat) (g : Stack → Stack) : (s.updStack m g).slots = s.slots := rfl
@[simp] theorem State.updStack_recs (m : Nat) (g : Stack → Stack) : (s.updStack m g).recs = s.recs := rfl
@[simp] theorem State.updStack_chans (m : Nat) (g : Stack → Stack) : (s.updStack m g).chans = s.chans := rfl
@[simp] theorem State.updStack_epReset (m : Nat) (g : Stack → Stack) : (s.updStack m g).epReset = s.epReset := rfl
@[simp] theorem State.updStack_mboxHolds (m : Nat) (g : Stack → Stack) : (s.updStack m g).mboxHolds = s.mboxHolds := rfl
@[simp] theorem State.updStack_glk (m : Nat) (g : Stack → Stack) : (s.updStack m g).glk = s.glk := rfl
@[simp] theorem State.updStack_ports (m : Nat) (g : Stack → Stack) : (s.updStack m g).ports = s.ports := rfl
@[simp] theorem State.updStack_power (m : Nat) (g : Stack → Stack) : (s.updStack m g).power = s.power := rfl
@[simp] theorem State.updStack_sec (m : Nat) (g : Stack → Stack) : (s.updStack m g).sec = s.sec := rfl
@[simp] theorem State.updStack_flash (m : Nat) (g : Stack → Stack) : (s.updStack m g).flash = s.flash := rfl
@[simp] theorem State.updStack_rpmc (m : Nat) (g : Stack → Stack) : (s.updStack m g).rpmc = s.rpmc := rfl
@[simp] theorem State.updStack_tap (m : Nat) (g : Stack → Stack) : (s.updStack m g).tap = s.tap := rfl
@[simp] theorem State.updStack_retraining (m : Nat) (g : Stack → Stack) : (s.updStack m g).retraining = s.retraining := rfl
@[simp] theorem State.updStack_deadLinks (m : Nat) (g : Stack → Stack) : (s.updStack m g).deadLinks = s.deadLinks := rfl
@[simp] theorem State.updStack_resyncQ (m : Nat) (g : Stack → Stack) : (s.updStack m g).resyncQ = s.resyncQ := rfl
@[simp] theorem State.updStack_resyncNow (m : Nat) (g : Stack → Stack) : (s.updStack m g).resyncNow = s.resyncNow := rfl
@[simp] theorem State.updStack_resyncSeq (m : Nat) (g : Stack → Stack) : (s.updStack m g).resyncSeq = s.resyncSeq := rfl
@[simp] theorem State.updStack_descSeq (m : Nat) (g : Stack → Stack) : (s.updStack m g).descSeq = s.descSeq := rfl
@[simp] theorem State.updStack_turn (m : Nat) (g : Stack → Stack) : (s.updStack m g).turn = s.turn := rfl
@[simp] theorem State.updStack_freeCtr (m : Nat) (g : Stack → Stack) : (s.updStack m g).freeCtr = s.freeCtr := rfl
@[simp] theorem State.updStack_out (m : Nat) (g : Stack → Stack) : (s.updStack m g).out = s.out := rfl
@[simp] theorem State.updStack_pending (m : Nat) (g : Stack → Stack) : (s.updStack m g).pending = s.pending := rfl
@[simp] theorem State.fget_updStack (m : Nat) (g : Stack → Stack) (x : Fld) : (s.updStack m g).fget x = s.fget x := rfl
@[simp] theorem State.accGet_updStack (m : Nat) (g : Stack → Stack) (x : Fld) : (s.updStack m g).accGet x = s.accGet x := rfl
@[simp] theorem State.part_updStack (m : Nat) (g : Stack → Stack) (x : Nat) : (s.updStack m g).part x = s.part x := rfl
@[simp] theorem State.ring_updStack (m : Nat) (g : Stack → Stack) (x : Nat) : (s.updStack m g).ring x = s.ring x := rfl
@[simp] theorem State.slot_updStack (m : Nat) (g : Stack → Stack) (x k' : Nat) : (s.updStack m g).slot x k' = s.slot x k' := rfl
@[simp] theorem State.port_updStack (m : Nat) (g : Stack → Stack) (x : Nat) : (s.updStack m g).port x = s.port x := rfl
@[simp] theorem State.region_updStack (m : Nat) (g : Stack → Stack) (x : Nat) : (s.updStack m g).region x = s.region x := rfl

/-! ## updPort -/

@[simp] theorem State.updPort_regs (p : Nat) (g : Port → Port) : (s.updPort p g).regs = s.regs := rfl
@[simp] theorem State.updPort_staged (p : Nat) (g : Port → Port) : (s.updPort p g).staged = s.staged := rfl
@[simp] theorem State.updPort_acc (p : Nat) (g : Port → Port) : (s.updPort p g).acc = s.acc := rfl
@[simp] theorem State.updPort_mem (p : Nat) (g : Port → Port) : (s.updPort p g).mem = s.mem := rfl
@[simp] theorem State.updPort_damage (p : Nat) (g : Port → Port) : (s.updPort p g).damage = s.damage := rfl
@[simp] theorem State.updPort_memStacks (p : Nat) (g : Port → Port) : (s.updPort p g).memStacks = s.memStacks := rfl
@[simp] theorem State.updPort_regionSt (p : Nat) (g : Port → Port) : (s.updPort p g).regionSt = s.regionSt := rfl
@[simp] theorem State.updPort_fieldRows (p : Nat) (g : Port → Port) : (s.updPort p g).fieldRows = s.fieldRows := rfl
@[simp] theorem State.updPort_hardRows (p : Nat) (g : Port → Port) : (s.updPort p g).hardRows = s.hardRows := rfl
@[simp] theorem State.updPort_parts (p : Nat) (g : Port → Port) : (s.updPort p g).parts = s.parts := rfl
@[simp] theorem State.updPort_rings (p : Nat) (g : Port → Port) : (s.updPort p g).rings = s.rings := rfl
@[simp] theorem State.updPort_slots (p : Nat) (g : Port → Port) : (s.updPort p g).slots = s.slots := rfl
@[simp] theorem State.updPort_recs (p : Nat) (g : Port → Port) : (s.updPort p g).recs = s.recs := rfl
@[simp] theorem State.updPort_chans (p : Nat) (g : Port → Port) : (s.updPort p g).chans = s.chans := rfl
@[simp] theorem State.updPort_epReset (p : Nat) (g : Port → Port) : (s.updPort p g).epReset = s.epReset := rfl
@[simp] theorem State.updPort_mboxHolds (p : Nat) (g : Port → Port) : (s.updPort p g).mboxHolds = s.mboxHolds := rfl
@[simp] theorem State.updPort_glk (p : Nat) (g : Port → Port) : (s.updPort p g).glk = s.glk := rfl
@[simp] theorem State.updPort_power (p : Nat) (g : Port → Port) : (s.updPort p g).power = s.power := rfl
@[simp] theorem State.updPort_sec (p : Nat) (g : Port → Port) : (s.updPort p g).sec = s.sec := rfl
@[simp] theorem State.updPort_flash (p : Nat) (g : Port → Port) : (s.updPort p g).flash = s.flash := rfl
@[simp] theorem State.updPort_rpmc (p : Nat) (g : Port → Port) : (s.updPort p g).rpmc = s.rpmc := rfl
@[simp] theorem State.updPort_tap (p : Nat) (g : Port → Port) : (s.updPort p g).tap = s.tap := rfl
@[simp] theorem State.updPort_retraining (p : Nat) (g : Port → Port) : (s.updPort p g).retraining = s.retraining := rfl
@[simp] theorem State.updPort_deadLinks (p : Nat) (g : Port → Port) : (s.updPort p g).deadLinks = s.deadLinks := rfl
@[simp] theorem State.updPort_resyncQ (p : Nat) (g : Port → Port) : (s.updPort p g).resyncQ = s.resyncQ := rfl
@[simp] theorem State.updPort_resyncNow (p : Nat) (g : Port → Port) : (s.updPort p g).resyncNow = s.resyncNow := rfl
@[simp] theorem State.updPort_resyncSeq (p : Nat) (g : Port → Port) : (s.updPort p g).resyncSeq = s.resyncSeq := rfl
@[simp] theorem State.updPort_descSeq (p : Nat) (g : Port → Port) : (s.updPort p g).descSeq = s.descSeq := rfl
@[simp] theorem State.updPort_turn (p : Nat) (g : Port → Port) : (s.updPort p g).turn = s.turn := rfl
@[simp] theorem State.updPort_freeCtr (p : Nat) (g : Port → Port) : (s.updPort p g).freeCtr = s.freeCtr := rfl
@[simp] theorem State.updPort_out (p : Nat) (g : Port → Port) : (s.updPort p g).out = s.out := rfl
@[simp] theorem State.updPort_pending (p : Nat) (g : Port → Port) : (s.updPort p g).pending = s.pending := rfl
@[simp] theorem State.fget_updPort (p : Nat) (g : Port → Port) (x : Fld) : (s.updPort p g).fget x = s.fget x := rfl
@[simp] theorem State.accGet_updPort (p : Nat) (g : Port → Port) (x : Fld) : (s.updPort p g).accGet x = s.accGet x := rfl
@[simp] theorem State.part_updPort (p : Nat) (g : Port → Port) (x : Nat) : (s.updPort p g).part x = s.part x := rfl
@[simp] theorem State.ring_updPort (p : Nat) (g : Port → Port) (x : Nat) : (s.updPort p g).ring x = s.ring x := rfl
@[simp] theorem State.slot_updPort (p : Nat) (g : Port → Port) (x k' : Nat) : (s.updPort p g).slot x k' = s.slot x k' := rfl
@[simp] theorem State.stack_updPort (p : Nat) (g : Port → Port) (x : Nat) : (s.updPort p g).stack x = s.stack x := rfl
@[simp] theorem State.region_updPort (p : Nat) (g : Port → Port) (x : Nat) : (s.updPort p g).region x = s.region x := rfl

/-! ## updRegion -/

@[simp] theorem State.updRegion_regs (r : Nat) (g : Region → Region) : (s.updRegion r g).regs = s.regs := rfl
@[simp] theorem State.updRegion_staged (r : Nat) (g : Region → Region) : (s.updRegion r g).staged = s.staged := rfl
@[simp] theorem State.updRegion_acc (r : Nat) (g : Region → Region) : (s.updRegion r g).acc = s.acc := rfl
@[simp] theorem State.updRegion_mem (r : Nat) (g : Region → Region) : (s.updRegion r g).mem = s.mem := rfl
@[simp] theorem State.updRegion_damage (r : Nat) (g : Region → Region) : (s.updRegion r g).damage = s.damage := rfl
@[simp] theorem State.updRegion_memStacks (r : Nat) (g : Region → Region) : (s.updRegion r g).memStacks = s.memStacks := rfl
@[simp] theorem State.updRegion_fieldRows (r : Nat) (g : Region → Region) : (s.updRegion r g).fieldRows = s.fieldRows := rfl
@[simp] theorem State.updRegion_hardRows (r : Nat) (g : Region → Region) : (s.updRegion r g).hardRows = s.hardRows := rfl
@[simp] theorem State.updRegion_parts (r : Nat) (g : Region → Region) : (s.updRegion r g).parts = s.parts := rfl
@[simp] theorem State.updRegion_rings (r : Nat) (g : Region → Region) : (s.updRegion r g).rings = s.rings := rfl
@[simp] theorem State.updRegion_slots (r : Nat) (g : Region → Region) : (s.updRegion r g).slots = s.slots := rfl
@[simp] theorem State.updRegion_recs (r : Nat) (g : Region → Region) : (s.updRegion r g).recs = s.recs := rfl
@[simp] theorem State.updRegion_chans (r : Nat) (g : Region → Region) : (s.updRegion r g).chans = s.chans := rfl
@[simp] theorem State.updRegion_epReset (r : Nat) (g : Region → Region) : (s.updRegion r g).epReset = s.epReset := rfl
@[simp] theorem State.updRegion_mboxHolds (r : Nat) (g : Region → Region) : (s.updRegion r g).mboxHolds = s.mboxHolds := rfl
@[simp] theorem State.updRegion_glk (r : Nat) (g : Region → Region) : (s.updRegion r g).glk = s.glk := rfl
@[simp] theorem State.updRegion_ports (r : Nat) (g : Region → Region) : (s.updRegion r g).ports = s.ports := rfl
@[simp] theorem State.updRegion_power (r : Nat) (g : Region → Region) : (s.updRegion r g).power = s.power := rfl
@[simp] theorem State.updRegion_sec (r : Nat) (g : Region → Region) : (s.updRegion r g).sec = s.sec := rfl
@[simp] theorem State.updRegion_flash (r : Nat) (g : Region → Region) : (s.updRegion r g).flash = s.flash := rfl
@[simp] theorem State.updRegion_rpmc (r : Nat) (g : Region → Region) : (s.updRegion r g).rpmc = s.rpmc := rfl
@[simp] theorem State.updRegion_tap (r : Nat) (g : Region → Region) : (s.updRegion r g).tap = s.tap := rfl
@[simp] theorem State.updRegion_retraining (r : Nat) (g : Region → Region) : (s.updRegion r g).retraining = s.retraining := rfl
@[simp] theorem State.updRegion_deadLinks (r : Nat) (g : Region → Region) : (s.updRegion r g).deadLinks = s.deadLinks := rfl
@[simp] theorem State.updRegion_resyncQ (r : Nat) (g : Region → Region) : (s.updRegion r g).resyncQ = s.resyncQ := rfl
@[simp] theorem State.updRegion_resyncNow (r : Nat) (g : Region → Region) : (s.updRegion r g).resyncNow = s.resyncNow := rfl
@[simp] theorem State.updRegion_resyncSeq (r : Nat) (g : Region → Region) : (s.updRegion r g).resyncSeq = s.resyncSeq := rfl
@[simp] theorem State.updRegion_descSeq (r : Nat) (g : Region → Region) : (s.updRegion r g).descSeq = s.descSeq := rfl
@[simp] theorem State.updRegion_turn (r : Nat) (g : Region → Region) : (s.updRegion r g).turn = s.turn := rfl
@[simp] theorem State.updRegion_freeCtr (r : Nat) (g : Region → Region) : (s.updRegion r g).freeCtr = s.freeCtr := rfl
@[simp] theorem State.updRegion_out (r : Nat) (g : Region → Region) : (s.updRegion r g).out = s.out := rfl
@[simp] theorem State.updRegion_pending (r : Nat) (g : Region → Region) : (s.updRegion r g).pending = s.pending := rfl
@[simp] theorem State.fget_updRegion (r : Nat) (g : Region → Region) (x : Fld) : (s.updRegion r g).fget x = s.fget x := rfl
@[simp] theorem State.accGet_updRegion (r : Nat) (g : Region → Region) (x : Fld) : (s.updRegion r g).accGet x = s.accGet x := rfl
@[simp] theorem State.part_updRegion (r : Nat) (g : Region → Region) (x : Nat) : (s.updRegion r g).part x = s.part x := rfl
@[simp] theorem State.ring_updRegion (r : Nat) (g : Region → Region) (x : Nat) : (s.updRegion r g).ring x = s.ring x := rfl
@[simp] theorem State.slot_updRegion (r : Nat) (g : Region → Region) (x k' : Nat) : (s.updRegion r g).slot x k' = s.slot x k' := rfl
@[simp] theorem State.stack_updRegion (r : Nat) (g : Region → Region) (x : Nat) : (s.updRegion r g).stack x = s.stack x := rfl
@[simp] theorem State.port_updRegion (r : Nat) (g : Region → Region) (x : Nat) : (s.updRegion r g).port x = s.port x := rfl

/-! ## updGlk -/

@[simp] theorem State.updGlk_regs (g : Glk → Glk) : (s.updGlk g).regs = s.regs := rfl
@[simp] theorem State.updGlk_staged (g : Glk → Glk) : (s.updGlk g).staged = s.staged := rfl
@[simp] theorem State.updGlk_acc (g : Glk → Glk) : (s.updGlk g).acc = s.acc := rfl
@[simp] theorem State.updGlk_mem (g : Glk → Glk) : (s.updGlk g).mem = s.mem := rfl
@[simp] theorem State.updGlk_damage (g : Glk → Glk) : (s.updGlk g).damage = s.damage := rfl
@[simp] theorem State.updGlk_memStacks (g : Glk → Glk) : (s.updGlk g).memStacks = s.memStacks := rfl
@[simp] theorem State.updGlk_regionSt (g : Glk → Glk) : (s.updGlk g).regionSt = s.regionSt := rfl
@[simp] theorem State.updGlk_fieldRows (g : Glk → Glk) : (s.updGlk g).fieldRows = s.fieldRows := rfl
@[simp] theorem State.updGlk_hardRows (g : Glk → Glk) : (s.updGlk g).hardRows = s.hardRows := rfl
@[simp] theorem State.updGlk_parts (g : Glk → Glk) : (s.updGlk g).parts = s.parts := rfl
@[simp] theorem State.updGlk_rings (g : Glk → Glk) : (s.updGlk g).rings = s.rings := rfl
@[simp] theorem State.updGlk_slots (g : Glk → Glk) : (s.updGlk g).slots = s.slots := rfl
@[simp] theorem State.updGlk_recs (g : Glk → Glk) : (s.updGlk g).recs = s.recs := rfl
@[simp] theorem State.updGlk_chans (g : Glk → Glk) : (s.updGlk g).chans = s.chans := rfl
@[simp] theorem State.updGlk_epReset (g : Glk → Glk) : (s.updGlk g).epReset = s.epReset := rfl
@[simp] theorem State.updGlk_mboxHolds (g : Glk → Glk) : (s.updGlk g).mboxHolds = s.mboxHolds := rfl
@[simp] theorem State.updGlk_ports (g : Glk → Glk) : (s.updGlk g).ports = s.ports := rfl
@[simp] theorem State.updGlk_power (g : Glk → Glk) : (s.updGlk g).power = s.power := rfl
@[simp] theorem State.updGlk_sec (g : Glk → Glk) : (s.updGlk g).sec = s.sec := rfl
@[simp] theorem State.updGlk_flash (g : Glk → Glk) : (s.updGlk g).flash = s.flash := rfl
@[simp] theorem State.updGlk_rpmc (g : Glk → Glk) : (s.updGlk g).rpmc = s.rpmc := rfl
@[simp] theorem State.updGlk_tap (g : Glk → Glk) : (s.updGlk g).tap = s.tap := rfl
@[simp] theorem State.updGlk_retraining (g : Glk → Glk) : (s.updGlk g).retraining = s.retraining := rfl
@[simp] theorem State.updGlk_deadLinks (g : Glk → Glk) : (s.updGlk g).deadLinks = s.deadLinks := rfl
@[simp] theorem State.updGlk_resyncQ (g : Glk → Glk) : (s.updGlk g).resyncQ = s.resyncQ := rfl
@[simp] theorem State.updGlk_resyncNow (g : Glk → Glk) : (s.updGlk g).resyncNow = s.resyncNow := rfl
@[simp] theorem State.updGlk_resyncSeq (g : Glk → Glk) : (s.updGlk g).resyncSeq = s.resyncSeq := rfl
@[simp] theorem State.updGlk_descSeq (g : Glk → Glk) : (s.updGlk g).descSeq = s.descSeq := rfl
@[simp] theorem State.updGlk_turn (g : Glk → Glk) : (s.updGlk g).turn = s.turn := rfl
@[simp] theorem State.updGlk_freeCtr (g : Glk → Glk) : (s.updGlk g).freeCtr = s.freeCtr := rfl
@[simp] theorem State.updGlk_out (g : Glk → Glk) : (s.updGlk g).out = s.out := rfl
@[simp] theorem State.updGlk_pending (g : Glk → Glk) : (s.updGlk g).pending = s.pending := rfl
@[simp] theorem State.fget_updGlk (g : Glk → Glk) (x : Fld) : (s.updGlk g).fget x = s.fget x := rfl
@[simp] theorem State.accGet_updGlk (g : Glk → Glk) (x : Fld) : (s.updGlk g).accGet x = s.accGet x := rfl
@[simp] theorem State.part_updGlk (g : Glk → Glk) (x : Nat) : (s.updGlk g).part x = s.part x := rfl
@[simp] theorem State.ring_updGlk (g : Glk → Glk) (x : Nat) : (s.updGlk g).ring x = s.ring x := rfl
@[simp] theorem State.slot_updGlk (g : Glk → Glk) (x k' : Nat) : (s.updGlk g).slot x k' = s.slot x k' := rfl
@[simp] theorem State.stack_updGlk (g : Glk → Glk) (x : Nat) : (s.updGlk g).stack x = s.stack x := rfl
@[simp] theorem State.port_updGlk (g : Glk → Glk) (x : Nat) : (s.updGlk g).port x = s.port x := rfl
@[simp] theorem State.region_updGlk (g : Glk → Glk) (x : Nat) : (s.updGlk g).region x = s.region x := rfl

/-! ## emit -/

@[simp] theorem State.emit_regs (o : Out) : (s.emit o).regs = s.regs := rfl
@[simp] theorem State.emit_staged (o : Out) : (s.emit o).staged = s.staged := rfl
@[simp] theorem State.emit_acc (o : Out) : (s.emit o).acc = s.acc := rfl
@[simp] theorem State.emit_mem (o : Out) : (s.emit o).mem = s.mem := rfl
@[simp] theorem State.emit_damage (o : Out) : (s.emit o).damage = s.damage := rfl
@[simp] theorem State.emit_memStacks (o : Out) : (s.emit o).memStacks = s.memStacks := rfl
@[simp] theorem State.emit_regionSt (o : Out) : (s.emit o).regionSt = s.regionSt := rfl
@[simp] theorem State.emit_fieldRows (o : Out) : (s.emit o).fieldRows = s.fieldRows := rfl
@[simp] theorem State.emit_hardRows (o : Out) : (s.emit o).hardRows = s.hardRows := rfl
@[simp] theorem State.emit_parts (o : Out) : (s.emit o).parts = s.parts := rfl
@[simp] theorem State.emit_rings (o : Out) : (s.emit o).rings = s.rings := rfl
@[simp] theorem State.emit_slots (o : Out) : (s.emit o).slots = s.slots := rfl
@[simp] theorem State.emit_recs (o : Out) : (s.emit o).recs = s.recs := rfl
@[simp] theorem State.emit_chans (o : Out) : (s.emit o).chans = s.chans := rfl
@[simp] theorem State.emit_epReset (o : Out) : (s.emit o).epReset = s.epReset := rfl
@[simp] theorem State.emit_mboxHolds (o : Out) : (s.emit o).mboxHolds = s.mboxHolds := rfl
@[simp] theorem State.emit_glk (o : Out) : (s.emit o).glk = s.glk := rfl
@[simp] theorem State.emit_ports (o : Out) : (s.emit o).ports = s.ports := rfl
@[simp] theorem State.emit_power (o : Out) : (s.emit o).power = s.power := rfl
@[simp] theorem State.emit_sec (o : Out) : (s.emit o).sec = s.sec := rfl
@[simp] theorem State.emit_flash (o : Out) : (s.emit o).flash = s.flash := rfl
@[simp] theorem State.emit_rpmc (o : Out) : (s.emit o).rpmc = s.rpmc := rfl
@[simp] theorem State.emit_tap (o : Out) : (s.emit o).tap = s.tap := rfl
@[simp] theorem State.emit_retraining (o : Out) : (s.emit o).retraining = s.retraining := rfl
@[simp] theorem State.emit_deadLinks (o : Out) : (s.emit o).deadLinks = s.deadLinks := rfl
@[simp] theorem State.emit_resyncQ (o : Out) : (s.emit o).resyncQ = s.resyncQ := rfl
@[simp] theorem State.emit_resyncNow (o : Out) : (s.emit o).resyncNow = s.resyncNow := rfl
@[simp] theorem State.emit_resyncSeq (o : Out) : (s.emit o).resyncSeq = s.resyncSeq := rfl
@[simp] theorem State.emit_descSeq (o : Out) : (s.emit o).descSeq = s.descSeq := rfl
@[simp] theorem State.emit_turn (o : Out) : (s.emit o).turn = s.turn := rfl
@[simp] theorem State.emit_freeCtr (o : Out) : (s.emit o).freeCtr = s.freeCtr := rfl
@[simp] theorem State.emit_pending (o : Out) : (s.emit o).pending = s.pending := rfl
@[simp] theorem State.fget_emit (o : Out) (x : Fld) : (s.emit o).fget x = s.fget x := rfl
@[simp] theorem State.accGet_emit (o : Out) (x : Fld) : (s.emit o).accGet x = s.accGet x := rfl
@[simp] theorem State.part_emit (o : Out) (x : Nat) : (s.emit o).part x = s.part x := rfl
@[simp] theorem State.ring_emit (o : Out) (x : Nat) : (s.emit o).ring x = s.ring x := rfl
@[simp] theorem State.slot_emit (o : Out) (x k' : Nat) : (s.emit o).slot x k' = s.slot x k' := rfl
@[simp] theorem State.stack_emit (o : Out) (x : Nat) : (s.emit o).stack x = s.stack x := rfl
@[simp] theorem State.port_emit (o : Out) (x : Nat) : (s.emit o).port x = s.port x := rfl
@[simp] theorem State.region_emit (o : Out) (x : Nat) : (s.emit o).region x = s.region x := rfl

/-! ## flood -/

@[simp] theorem State.flood_regs (e : Option Nat) (y : Sym) : (s.flood e y).regs = s.regs := rfl
@[simp] theorem State.flood_staged (e : Option Nat) (y : Sym) : (s.flood e y).staged = s.staged := rfl
@[simp] theorem State.flood_acc (e : Option Nat) (y : Sym) : (s.flood e y).acc = s.acc := rfl
@[simp] theorem State.flood_mem (e : Option Nat) (y : Sym) : (s.flood e y).mem = s.mem := rfl
@[simp] theorem State.flood_damage (e : Option Nat) (y : Sym) : (s.flood e y).damage = s.damage := rfl
@[simp] theorem State.flood_memStacks (e : Option Nat) (y : Sym) : (s.flood e y).memStacks = s.memStacks := rfl
@[simp] theorem State.flood_regionSt (e : Option Nat) (y : Sym) : (s.flood e y).regionSt = s.regionSt := rfl
@[simp] theorem State.flood_fieldRows (e : Option Nat) (y : Sym) : (s.flood e y).fieldRows = s.fieldRows := rfl
@[simp] theorem State.flood_hardRows (e : Option Nat) (y : Sym) : (s.flood e y).hardRows = s.hardRows := rfl
@[simp] theorem State.flood_parts (e : Option Nat) (y : Sym) : (s.flood e y).parts = s.parts := rfl
@[simp] theorem State.flood_rings (e : Option Nat) (y : Sym) : (s.flood e y).rings = s.rings := rfl
@[simp] theorem State.flood_slots (e : Option Nat) (y : Sym) : (s.flood e y).slots = s.slots := rfl
@[simp] theorem State.flood_recs (e : Option Nat) (y : Sym) : (s.flood e y).recs = s.recs := rfl
@[simp] theorem State.flood_chans (e : Option Nat) (y : Sym) : (s.flood e y).chans = s.chans := rfl
@[simp] theorem State.flood_epReset (e : Option Nat) (y : Sym) : (s.flood e y).epReset = s.epReset := rfl
@[simp] theorem State.flood_mboxHolds (e : Option Nat) (y : Sym) : (s.flood e y).mboxHolds = s.mboxHolds := rfl
@[simp] theorem State.flood_glk (e : Option Nat) (y : Sym) : (s.flood e y).glk = s.glk := rfl
@[simp] theorem State.flood_ports (e : Option Nat) (y : Sym) : (s.flood e y).ports = s.ports := rfl
@[simp] theorem State.flood_power (e : Option Nat) (y : Sym) : (s.flood e y).power = s.power := rfl
@[simp] theorem State.flood_sec (e : Option Nat) (y : Sym) : (s.flood e y).sec = s.sec := rfl
@[simp] theorem State.flood_flash (e : Option Nat) (y : Sym) : (s.flood e y).flash = s.flash := rfl
@[simp] theorem State.flood_rpmc (e : Option Nat) (y : Sym) : (s.flood e y).rpmc = s.rpmc := rfl
@[simp] theorem State.flood_tap (e : Option Nat) (y : Sym) : (s.flood e y).tap = s.tap := rfl
@[simp] theorem State.flood_retraining (e : Option Nat) (y : Sym) : (s.flood e y).retraining = s.retraining := rfl
@[simp] theorem State.flood_deadLinks (e : Option Nat) (y : Sym) : (s.flood e y).deadLinks = s.deadLinks := rfl
@[simp] theorem State.flood_resyncQ (e : Option Nat) (y : Sym) : (s.flood e y).resyncQ = s.resyncQ := rfl
@[simp] theorem State.flood_resyncNow (e : Option Nat) (y : Sym) : (s.flood e y).resyncNow = s.resyncNow := rfl
@[simp] theorem State.flood_resyncSeq (e : Option Nat) (y : Sym) : (s.flood e y).resyncSeq = s.resyncSeq := rfl
@[simp] theorem State.flood_descSeq (e : Option Nat) (y : Sym) : (s.flood e y).descSeq = s.descSeq := rfl
@[simp] theorem State.flood_turn (e : Option Nat) (y : Sym) : (s.flood e y).turn = s.turn := rfl
@[simp] theorem State.flood_freeCtr (e : Option Nat) (y : Sym) : (s.flood e y).freeCtr = s.freeCtr := rfl
@[simp] theorem State.flood_pending (e : Option Nat) (y : Sym) : (s.flood e y).pending = s.pending := rfl
@[simp] theorem State.fget_flood (e : Option Nat) (y : Sym) (x : Fld) : (s.flood e y).fget x = s.fget x := rfl
@[simp] theorem State.accGet_flood (e : Option Nat) (y : Sym) (x : Fld) : (s.flood e y).accGet x = s.accGet x := rfl
@[simp] theorem State.part_flood (e : Option Nat) (y : Sym) (x : Nat) : (s.flood e y).part x = s.part x := rfl
@[simp] theorem State.ring_flood (e : Option Nat) (y : Sym) (x : Nat) : (s.flood e y).ring x = s.ring x := rfl
@[simp] theorem State.slot_flood (e : Option Nat) (y : Sym) (x k' : Nat) : (s.flood e y).slot x k' = s.slot x k' := rfl
@[simp] theorem State.stack_flood (e : Option Nat) (y : Sym) (x : Nat) : (s.flood e y).stack x = s.stack x := rfl
@[simp] theorem State.port_flood (e : Option Nat) (y : Sym) (x : Nat) : (s.flood e y).port x = s.port x := rfl
@[simp] theorem State.region_flood (e : Option Nat) (y : Sym) (x : Nat) : (s.flood e y).region x = s.region x := rfl

/-! ## tick -/

@[simp] theorem State.tick_regs : (s.tick).regs = s.regs := rfl
@[simp] theorem State.tick_staged : (s.tick).staged = s.staged := rfl
@[simp] theorem State.tick_acc : (s.tick).acc = s.acc := rfl
@[simp] theorem State.tick_mem : (s.tick).mem = s.mem := rfl
@[simp] theorem State.tick_damage : (s.tick).damage = s.damage := rfl
@[simp] theorem State.tick_memStacks : (s.tick).memStacks = s.memStacks := rfl
@[simp] theorem State.tick_regionSt : (s.tick).regionSt = s.regionSt := rfl
@[simp] theorem State.tick_fieldRows : (s.tick).fieldRows = s.fieldRows := rfl
@[simp] theorem State.tick_hardRows : (s.tick).hardRows = s.hardRows := rfl
@[simp] theorem State.tick_parts : (s.tick).parts = s.parts := rfl
@[simp] theorem State.tick_rings : (s.tick).rings = s.rings := rfl
@[simp] theorem State.tick_slots : (s.tick).slots = s.slots := rfl
@[simp] theorem State.tick_recs : (s.tick).recs = s.recs := rfl
@[simp] theorem State.tick_chans : (s.tick).chans = s.chans := rfl
@[simp] theorem State.tick_epReset : (s.tick).epReset = s.epReset := rfl
@[simp] theorem State.tick_mboxHolds : (s.tick).mboxHolds = s.mboxHolds := rfl
@[simp] theorem State.tick_glk : (s.tick).glk = s.glk := rfl
@[simp] theorem State.tick_ports : (s.tick).ports = s.ports := rfl
@[simp] theorem State.tick_power : (s.tick).power = s.power := rfl
@[simp] theorem State.tick_sec : (s.tick).sec = s.sec := rfl
@[simp] theorem State.tick_flash : (s.tick).flash = s.flash := rfl
@[simp] theorem State.tick_rpmc : (s.tick).rpmc = s.rpmc := rfl
@[simp] theorem State.tick_tap : (s.tick).tap = s.tap := rfl
@[simp] theorem State.tick_retraining : (s.tick).retraining = s.retraining := rfl
@[simp] theorem State.tick_deadLinks : (s.tick).deadLinks = s.deadLinks := rfl
@[simp] theorem State.tick_resyncQ : (s.tick).resyncQ = s.resyncQ := rfl
@[simp] theorem State.tick_resyncNow : (s.tick).resyncNow = s.resyncNow := rfl
@[simp] theorem State.tick_resyncSeq : (s.tick).resyncSeq = s.resyncSeq := rfl
@[simp] theorem State.tick_descSeq : (s.tick).descSeq = s.descSeq := rfl
@[simp] theorem State.tick_turn : (s.tick).turn = s.turn := rfl
@[simp] theorem State.tick_out : (s.tick).out = s.out := rfl
@[simp] theorem State.tick_pending : (s.tick).pending = s.pending := rfl
@[simp] theorem State.fget_tick (x : Fld) : (s.tick).fget x = s.fget x := rfl
@[simp] theorem State.accGet_tick (x : Fld) : (s.tick).accGet x = s.accGet x := rfl
@[simp] theorem State.part_tick (x : Nat) : (s.tick).part x = s.part x := rfl
@[simp] theorem State.ring_tick (x : Nat) : (s.tick).ring x = s.ring x := rfl
@[simp] theorem State.slot_tick (x k' : Nat) : (s.tick).slot x k' = s.slot x k' := rfl
@[simp] theorem State.stack_tick (x : Nat) : (s.tick).stack x = s.stack x := rfl
@[simp] theorem State.port_tick (x : Nat) : (s.tick).port x = s.port x := rfl
@[simp] theorem State.region_tick (x : Nat) : (s.tick).region x = s.region x := rfl

/-! ## undef -/

@[simp] theorem State.undef_regs (lo len : Nat) : (s.undef lo len).regs = s.regs := rfl
@[simp] theorem State.undef_staged (lo len : Nat) : (s.undef lo len).staged = s.staged := rfl
@[simp] theorem State.undef_acc (lo len : Nat) : (s.undef lo len).acc = s.acc := rfl
@[simp] theorem State.undef_damage (lo len : Nat) : (s.undef lo len).damage = s.damage := rfl
@[simp] theorem State.undef_memStacks (lo len : Nat) : (s.undef lo len).memStacks = s.memStacks := rfl
@[simp] theorem State.undef_regionSt (lo len : Nat) : (s.undef lo len).regionSt = s.regionSt := rfl
@[simp] theorem State.undef_fieldRows (lo len : Nat) : (s.undef lo len).fieldRows = s.fieldRows := rfl
@[simp] theorem State.undef_hardRows (lo len : Nat) : (s.undef lo len).hardRows = s.hardRows := rfl
@[simp] theorem State.undef_parts (lo len : Nat) : (s.undef lo len).parts = s.parts := rfl
@[simp] theorem State.undef_rings (lo len : Nat) : (s.undef lo len).rings = s.rings := rfl
@[simp] theorem State.undef_slots (lo len : Nat) : (s.undef lo len).slots = s.slots := rfl
@[simp] theorem State.undef_recs (lo len : Nat) : (s.undef lo len).recs = s.recs := rfl
@[simp] theorem State.undef_chans (lo len : Nat) : (s.undef lo len).chans = s.chans := rfl
@[simp] theorem State.undef_epReset (lo len : Nat) : (s.undef lo len).epReset = s.epReset := rfl
@[simp] theorem State.undef_mboxHolds (lo len : Nat) : (s.undef lo len).mboxHolds = s.mboxHolds := rfl
@[simp] theorem State.undef_glk (lo len : Nat) : (s.undef lo len).glk = s.glk := rfl
@[simp] theorem State.undef_ports (lo len : Nat) : (s.undef lo len).ports = s.ports := rfl
@[simp] theorem State.undef_power (lo len : Nat) : (s.undef lo len).power = s.power := rfl
@[simp] theorem State.undef_sec (lo len : Nat) : (s.undef lo len).sec = s.sec := rfl
@[simp] theorem State.undef_flash (lo len : Nat) : (s.undef lo len).flash = s.flash := rfl
@[simp] theorem State.undef_rpmc (lo len : Nat) : (s.undef lo len).rpmc = s.rpmc := rfl
@[simp] theorem State.undef_tap (lo len : Nat) : (s.undef lo len).tap = s.tap := rfl
@[simp] theorem State.undef_retraining (lo len : Nat) : (s.undef lo len).retraining = s.retraining := rfl
@[simp] theorem State.undef_deadLinks (lo len : Nat) : (s.undef lo len).deadLinks = s.deadLinks := rfl
@[simp] theorem State.undef_resyncQ (lo len : Nat) : (s.undef lo len).resyncQ = s.resyncQ := rfl
@[simp] theorem State.undef_resyncNow (lo len : Nat) : (s.undef lo len).resyncNow = s.resyncNow := rfl
@[simp] theorem State.undef_resyncSeq (lo len : Nat) : (s.undef lo len).resyncSeq = s.resyncSeq := rfl
@[simp] theorem State.undef_descSeq (lo len : Nat) : (s.undef lo len).descSeq = s.descSeq := rfl
@[simp] theorem State.undef_turn (lo len : Nat) : (s.undef lo len).turn = s.turn := rfl
@[simp] theorem State.undef_out (lo len : Nat) : (s.undef lo len).out = s.out := rfl
@[simp] theorem State.undef_pending (lo len : Nat) : (s.undef lo len).pending = s.pending := rfl
@[simp] theorem State.fget_undef (lo len : Nat) (x : Fld) : (s.undef lo len).fget x = s.fget x := rfl
@[simp] theorem State.accGet_undef (lo len : Nat) (x : Fld) : (s.undef lo len).accGet x = s.accGet x := rfl
@[simp] theorem State.part_undef (lo len : Nat) (x : Nat) : (s.undef lo len).part x = s.part x := rfl
@[simp] theorem State.ring_undef (lo len : Nat) (x : Nat) : (s.undef lo len).ring x = s.ring x := rfl
@[simp] theorem State.slot_undef (lo len : Nat) (x k' : Nat) : (s.undef lo len).slot x k' = s.slot x k' := rfl
@[simp] theorem State.stack_undef (lo len : Nat) (x : Nat) : (s.undef lo len).stack x = s.stack x := rfl
@[simp] theorem State.port_undef (lo len : Nat) (x : Nat) : (s.undef lo len).port x = s.port x := rfl
@[simp] theorem State.region_undef (lo len : Nat) (x : Nat) : (s.undef lo len).region x = s.region x := rfl

/-! ## What an update changes -/

@[simp] theorem State.fget_fset_self (f : Fld) (v : Nat) : (s.fset f v).fget f = v % 2 ^ f.width := by simp [State.fget, State.fset]

theorem State.fget_fset (f g : Fld) (v : Nat) : (s.fset f v).fget g = if g.key = f.key then v % 2 ^ f.width else s.fget g := by
  simp [State.fget, State.fset]

theorem State.fget_fset_ne {f g : Fld} (h : g.key ≠ f.key) (v : Nat) : (s.fset f v).fget g = s.fget g := by simp [State.fget_fset, h]

/-- Fields of different registers have different keys. -/
theorem Fld.key_ne_of_reg {f g : Fld} (h : f.reg ≠ g.reg) (hf : f.lsb < 64) (hg : g.lsb < 64) : f.key ≠ g.key := by unfold Fld.key; omega

/-- Fields at different places have different keys. -/
theorem Fld.key_ne_of_lsb {f g : Fld} (h : f.lsb ≠ g.lsb) (hf : f.lsb < 64) (hg : g.lsb < 64) : f.key ≠ g.key := by unfold Fld.key; omega

theorem State.fget_fadd_ne {f g : Fld} (h : g.key ≠ f.key) (d : Nat) : (s.fadd f d).fget g = s.fget g := State.fget_fset_ne _ h _

theorem State.fget_fadd_self (f : Fld) (d : Nat) : (s.fadd f d).fget f = satAdd f.width (s.fget f) d := by
  have : 0 < 2 ^ f.width := Nat.two_pow_pos _
  rw [State.fadd, State.fget_fset_self, Nat.mod_eq_of_lt]
  unfold satAdd; omega

theorem State.fget_fsetBit_ne {f g : Fld} (h : g.key ≠ f.key) (i : Nat) (b : Bool) : (s.fsetBit f i b).fget g = s.fget g := State.fget_fset_ne _ h _

@[simp] theorem State.fsets_nil : s.fsets [] = s := rfl
@[simp] theorem State.fsets_cons (f : Fld) (v : Nat) (t : List (Fld × Nat)) : s.fsets ((f, v) :: t) = (s.fset f v).fsets t := rfl

@[simp] theorem State.part_updPart_self (p : Nat) (g : Part → Part) : (s.updPart p g).part p = g (s.part p) := by simp [State.part, State.updPart]
theorem State.part_updPart_ne {p q : Nat} (h : q ≠ p) (g : Part → Part) : (s.updPart p g).part q = s.part q := by simp [State.part, State.updPart, h]
@[simp] theorem State.part_updDom_self (p : Nat) (g : Domain → Domain) : (s.updDom p g).part p = { s.part p with dom := g (s.part p).dom } := by
  simp [State.part, State.updPart, State.updDom]
theorem State.part_updDom_ne {p q : Nat} (h : q ≠ p) (g : Domain → Domain) : (s.updDom p g).part q = s.part q := State.part_updPart_ne _ h _
@[simp] theorem State.ring_updRing_self (n : Nat) (g : Ring → Ring) : (s.updRing n g).ring n = g (s.ring n) := by simp [State.ring, State.updRing]
theorem State.ring_updRing_ne {n m : Nat} (h : m ≠ n) (g : Ring → Ring) : (s.updRing n g).ring m = s.ring m := by simp [State.ring, State.updRing, h]
@[simp] theorem State.slot_updSlot_self (r k : Nat) (g : Slot → Slot) : (s.updSlot r k g).slot r k = g (s.slot r k) := by
  simp [State.slot, State.updSlot]
theorem State.slot_updSlot_ne {r k r' k' : Nat} (h : slotKey r' k' ≠ slotKey r k) (g : Slot → Slot) : (s.updSlot r k g).slot r' k' = s.slot r' k' := by
  simp [State.slot, State.updSlot, h]
@[simp] theorem State.stack_updStack_self (m : Nat) (g : Stack → Stack) : (s.updStack m g).stack m = g (s.stack m) := by
  simp [State.stack, State.updStack]
theorem State.stack_updStack_ne {m n : Nat} (h : n ≠ m) (g : Stack → Stack) : (s.updStack m g).stack n = s.stack n := by
  simp [State.stack, State.updStack, h]
@[simp] theorem State.port_updPort_self (p : Nat) (g : Port → Port) : (s.updPort p g).port p = g (s.port p) := by simp [State.port, State.updPort]
theorem State.port_updPort_ne {p q : Nat} (h : q ≠ p) (g : Port → Port) : (s.updPort p g).port q = s.port q := by simp [State.port, State.updPort, h]
@[simp] theorem State.region_updRegion_self (r : Nat) (g : Region → Region) : (s.updRegion r g).region r = g (s.region r) := by
  simp [State.region, State.updRegion]
theorem State.region_updRegion_ne {r q : Nat} (h : q ≠ r) (g : Region → Region) : (s.updRegion r g).region q = s.region q := by
  simp [State.region, State.updRegion, h]
@[simp] theorem State.emit_out (o : Out) : (s.emit o).out = s.out ++ [o] := rfl
@[simp] theorem State.updGlk_glk (g : Glk → Glk) : (s.updGlk g).glk = g s.glk := rfl
@[simp] theorem State.tick_freeCtr : s.tick.freeCtr = s.freeCtr + 1 := rfl
@[simp] theorem State.accGet_accAdd_self (f : Fld) (d : Nat) : (s.accAdd f d).accGet f = satAdd f.width (s.accGet f) d := by
  simp [State.accGet, State.accAdd]

/-- A count that holds at its greatest value stays within its width (R433). -/
theorem satAdd_lt (w n d : Nat) : satAdd w n d < 2 ^ w := by
  have := Nat.two_pow_pos w
  unfold satAdd; omega

/-! ## Several fields at once -/

@[simp] theorem State.fsets_staged (l : List (Fld × Nat)) : (s.fsets l).staged = s.staged := by
  induction l generalizing s with
  | nil => rfl
  | cons e t ih => exact (ih _).trans rfl
@[simp] theorem State.fsets_acc (l : List (Fld × Nat)) : (s.fsets l).acc = s.acc := by
  induction l generalizing s with
  | nil => rfl
  | cons e t ih => exact (ih _).trans rfl
@[simp] theorem State.fsets_mem (l : List (Fld × Nat)) : (s.fsets l).mem = s.mem := by
  induction l generalizing s with
  | nil => rfl
  | cons e t ih => exact (ih _).trans rfl
@[simp] theorem State.fsets_damage (l : List (Fld × Nat)) : (s.fsets l).damage = s.damage := by
  induction l generalizing s with
  | nil => rfl
  | cons e t ih => exact (ih _).trans rfl
@[simp] theorem State.fsets_memStacks (l : List (Fld × Nat)) : (s.fsets l).memStacks = s.memStacks := by
  induction l generalizing s with
  | nil => rfl
  | cons e t ih => exact (ih _).trans rfl
@[simp] theorem State.fsets_regionSt (l : List (Fld × Nat)) : (s.fsets l).regionSt = s.regionSt := by
  induction l generalizing s with
  | nil => rfl
  | cons e t ih => exact (ih _).trans rfl
@[simp] theorem State.fsets_fieldRows (l : List (Fld × Nat)) : (s.fsets l).fieldRows = s.fieldRows := by
  induction l generalizing s with
  | nil => rfl
  | cons e t ih => exact (ih _).trans rfl
@[simp] theorem State.fsets_hardRows (l : List (Fld × Nat)) : (s.fsets l).hardRows = s.hardRows := by
  induction l generalizing s with
  | nil => rfl
  | cons e t ih => exact (ih _).trans rfl
@[simp] theorem State.fsets_parts (l : List (Fld × Nat)) : (s.fsets l).parts = s.parts := by
  induction l generalizing s with
  | nil => rfl
  | cons e t ih => exact (ih _).trans rfl
@[simp] theorem State.fsets_rings (l : List (Fld × Nat)) : (s.fsets l).rings = s.rings := by
  induction l generalizing s with
  | nil => rfl
  | cons e t ih => exact (ih _).trans rfl
@[simp] theorem State.fsets_slots (l : List (Fld × Nat)) : (s.fsets l).slots = s.slots := by
  induction l generalizing s with
  | nil => rfl
  | cons e t ih => exact (ih _).trans rfl
@[simp] theorem State.fsets_recs (l : List (Fld × Nat)) : (s.fsets l).recs = s.recs := by
  induction l generalizing s with
  | nil => rfl
  | cons e t ih => exact (ih _).trans rfl
@[simp] theorem State.fsets_chans (l : List (Fld × Nat)) : (s.fsets l).chans = s.chans := by
  induction l generalizing s with
  | nil => rfl
  | cons e t ih => exact (ih _).trans rfl
@[simp] theorem State.fsets_epReset (l : List (Fld × Nat)) : (s.fsets l).epReset = s.epReset := by
  induction l generalizing s with
  | nil => rfl
  | cons e t ih => exact (ih _).trans rfl
@[simp] theorem State.fsets_mboxHolds (l : List (Fld × Nat)) : (s.fsets l).mboxHolds = s.mboxHolds := by
  induction l generalizing s with
  | nil => rfl
  | cons e t ih => exact (ih _).trans rfl
@[simp] theorem State.fsets_glk (l : List (Fld × Nat)) : (s.fsets l).glk = s.glk := by
  induction l generalizing s with
  | nil => rfl
  | cons e t ih => exact (ih _).trans rfl
@[simp] theorem State.fsets_ports (l : List (Fld × Nat)) : (s.fsets l).ports = s.ports := by
  induction l generalizing s with
  | nil => rfl
  | cons e t ih => exact (ih _).trans rfl
@[simp] theorem State.fsets_power (l : List (Fld × Nat)) : (s.fsets l).power = s.power := by
  induction l generalizing s with
  | nil => rfl
  | cons e t ih => exact (ih _).trans rfl
@[simp] theorem State.fsets_sec (l : List (Fld × Nat)) : (s.fsets l).sec = s.sec := by
  induction l generalizing s with
  | nil => rfl
  | cons e t ih => exact (ih _).trans rfl
@[simp] theorem State.fsets_flash (l : List (Fld × Nat)) : (s.fsets l).flash = s.flash := by
  induction l generalizing s with
  | nil => rfl
  | cons e t ih => exact (ih _).trans rfl
@[simp] theorem State.fsets_rpmc (l : List (Fld × Nat)) : (s.fsets l).rpmc = s.rpmc := by
  induction l generalizing s with
  | nil => rfl
  | cons e t ih => exact (ih _).trans rfl
@[simp] theorem State.fsets_tap (l : List (Fld × Nat)) : (s.fsets l).tap = s.tap := by
  induction l generalizing s with
  | nil => rfl
  | cons e t ih => exact (ih _).trans rfl
@[simp] theorem State.fsets_retraining (l : List (Fld × Nat)) : (s.fsets l).retraining = s.retraining := by
  induction l generalizing s with
  | nil => rfl
  | cons e t ih => exact (ih _).trans rfl
@[simp] theorem State.fsets_deadLinks (l : List (Fld × Nat)) : (s.fsets l).deadLinks = s.deadLinks := by
  induction l generalizing s with
  | nil => rfl
  | cons e t ih => exact (ih _).trans rfl
@[simp] theorem State.fsets_resyncQ (l : List (Fld × Nat)) : (s.fsets l).resyncQ = s.resyncQ := by
  induction l generalizing s with
  | nil => rfl
  | cons e t ih => exact (ih _).trans rfl
@[simp] theorem State.fsets_resyncNow (l : List (Fld × Nat)) : (s.fsets l).resyncNow = s.resyncNow := by
  induction l generalizing s with
  | nil => rfl
  | cons e t ih => exact (ih _).trans rfl
@[simp] theorem State.fsets_resyncSeq (l : List (Fld × Nat)) : (s.fsets l).resyncSeq = s.resyncSeq := by
  induction l generalizing s with
  | nil => rfl
  | cons e t ih => exact (ih _).trans rfl
@[simp] theorem State.fsets_descSeq (l : List (Fld × Nat)) : (s.fsets l).descSeq = s.descSeq := by
  induction l generalizing s with
  | nil => rfl
  | cons e t ih => exact (ih _).trans rfl
@[simp] theorem State.fsets_turn (l : List (Fld × Nat)) : (s.fsets l).turn = s.turn := by
  induction l generalizing s with
  | nil => rfl
  | cons e t ih => exact (ih _).trans rfl
@[simp] theorem State.fsets_freeCtr (l : List (Fld × Nat)) : (s.fsets l).freeCtr = s.freeCtr := by
  induction l generalizing s with
  | nil => rfl
  | cons e t ih => exact (ih _).trans rfl
@[simp] theorem State.fsets_out (l : List (Fld × Nat)) : (s.fsets l).out = s.out := by
  induction l generalizing s with
  | nil => rfl
  | cons e t ih => exact (ih _).trans rfl
@[simp] theorem State.fsets_pending (l : List (Fld × Nat)) : (s.fsets l).pending = s.pending := by
  induction l generalizing s with
  | nil => rfl
  | cons e t ih => exact (ih _).trans rfl
@[simp] theorem State.accGet_fsets (l : List (Fld × Nat)) (x : Fld) : (s.fsets l).accGet x = s.accGet x := by simp [State.accGet]
@[simp] theorem State.part_fsets (l : List (Fld × Nat)) (x : Nat) : (s.fsets l).part x = s.part x := by simp [State.part]
@[simp] theorem State.ring_fsets (l : List (Fld × Nat)) (x : Nat) : (s.fsets l).ring x = s.ring x := by simp [State.ring]
@[simp] theorem State.slot_fsets (l : List (Fld × Nat)) (x k' : Nat) : (s.fsets l).slot x k' = s.slot x k' := by simp [State.slot]
@[simp] theorem State.stack_fsets (l : List (Fld × Nat)) (x : Nat) : (s.fsets l).stack x = s.stack x := by simp [State.stack]
@[simp] theorem State.port_fsets (l : List (Fld × Nat)) (x : Nat) : (s.fsets l).port x = s.port x := by simp [State.port]
@[simp] theorem State.region_fsets (l : List (Fld × Nat)) (x : Nat) : (s.fsets l).region x = s.region x := by simp [State.region]

/-- A field that none of the fields set shares its key with reads as before. -/
theorem State.fget_fsets_ne {g : Fld} (l : List (Fld × Nat)) (h : ∀ e ∈ l, g.key ≠ e.1.key) : (s.fsets l).fget g = s.fget g := by
  induction l generalizing s with
  | nil => rfl
  | cons e t ih => exact (ih _ fun x hx => h x (List.mem_cons_of_mem _ hx)).trans (State.fget_fset_ne _ (h _ (List.mem_cons_self ..)) _)

/-- Folding a change that keeps what `f` reads keeps what `f` reads. -/
theorem State.each_keeps {α β : Type} (f : State → β) (l : List α) (g : State → α → State) (h : ∀ s x, f (g s x) = f s) : f (s.each l g) = f s := by
  unfold State.each
  induction l generalizing s with
  | nil => rfl
  | cons x t ih => exact (ih _).trans (h _ _)

/-- A change made in turn for each partition, of which only that of partition `p` changes anything. -/
theorem State.each_one {g : State → Nat → State} {t : State} (p : Fin 4) (h0 : ∀ q : Fin 4, q ≠ p → g s q = s) (h1 : g s p = t)
    (h2 : ∀ q : Fin 4, q ≠ p → g t q = t) : s.each [0, 1, 2, 3] g = t := by
  have e : s.each [0, 1, 2, 3] g = g (g (g (g s 0) 1) 2) 3 := rfl
  rw [e]
  have a0 := h0 0; have a1 := h0 1; have a2 := h0 2
  have b1 := h2 1; have b2 := h2 2; have b3 := h2 3
  simp only [Fin.isValue, Fin.val_zero, Fin.val_one, Fin.val_two, show ((3 : Fin 4) : Nat) = 3 from rfl] at *
  fin_cases p <;> simp_all

end Sys2Proof.Machine
end

