-- ==== Sys2Proof/Laws/Control.lean ====
section
/-! SUPPORT. What a change made in turn for every ring or slot of a partition does, and what clearing register fields does. -/
namespace Sys2Proof.Machine

/-- A change made in turn for the members of a list brings about for each of them what it brings about for one, when no later change undoes it. -/
theorem State.each_all {α : Type} {P : State → α → Prop} {g : State → α → State} (est : ∀ s x, P (g s x) x) (keep : ∀ s x y, P s y → P (g s x) y)
    (l : List α) (s : State) : ∀ x ∈ l, P (s.each l g) x := by
  have later : ∀ (l : List α) (s : State) y, P s y → P (s.each l g) y := by
    intro l
    induction l with
    | nil => intro s y h; exact h
    | cons x t ih => intro s y h; exact ih _ _ (keep s x y h)
  induction l generalizing s with
  | nil => intro x h; cases h
  | cons x t ih =>
    intro y h
    rcases List.mem_cons.1 h with rfl | h
    · exact later t _ _ (est s y)
    · exact ih _ y h

/-- What a change made in turn keeps of a state. -/
theorem State.each_inv {α : Type} {P : State → Prop} {g : State → α → State} (keep : ∀ s x, P s → P (g s x)) (l : List α) (s : State) (h : P s) :
    P (s.each l g) := by
  unfold State.each
  induction l generalizing s with
  | nil => exact h
  | cons x t ih => exact ih _ (keep s x h)

/-- A cleared field reads its reset value; the others read as before. -/
theorem State.fget_clearFlds (s : State) (l : List Fld) (f : Fld) :
    (s.clearFlds l).fget f = if (l.map (·.key)).contains f.key then f.reset else s.fget f := by
  unfold State.clearFlds State.fget mgetD
  dsimp only
  rw [mget?_mdrop]
  split <;> rfl

/-- A field named by `f` in `l` reads its reset value after `l` is cleared. -/
theorem State.fget_clearFlds_mem {s : State} {l : List Fld} {f : Fld} (h : f ∈ l) : (s.clearFlds l).fget f = f.reset := by
  rw [State.fget_clearFlds, if_pos]
  rw [List.contains_iff_mem]
  exact List.mem_map_of_mem h

@[simp] theorem State.part_clearFlds (s : State) (l : List Fld) (p : Nat) : (s.clearFlds l).part p = s.part p := rfl
@[simp] theorem State.ring_clearFlds (s : State) (l : List Fld) (n : Nat) : (s.clearFlds l).ring n = s.ring n := rfl
@[simp] theorem State.mem_clearFlds (s : State) (l : List Fld) : (s.clearFlds l).mem = s.mem := rfl

end Sys2Proof.Machine
end

