-- ==== Sys2Proof/Laws/Memory.lean ====
section
/-! SUPPORT. The laws of the memory: every operation keeps the canonical form; a byte reads as it was written, and a write leaves
every other byte alone. -/
namespace Sys2Proof.Machine

theorem Memory.wf_iff (m : Memory) : m.wf = true ↔ msorted m.cells = true ∧ ∀ c ∈ m.cells, c.2 ≠ 0 ∨ undefAt m.overs c.1 = true := by
  simp [Memory.wf]

theorem Memory.empty_wf : Memory.empty.wf = true := rfl

theorem Memory.write_wf {m : Memory} (h : m.wf = true) (a : Nat) (b : Byte) : (m.write a b).wf = true := by
  rw [Memory.wf_iff] at h ⊢
  unfold Memory.write
  split_ifs with hb
  · exact ⟨msorted_merase h.1 a, fun c hc => h.2 c (mem_merase hc)⟩
  · refine ⟨msorted_mset h.1 a b, fun c hc => ?_⟩
    rcases mem_mset hc with rfl | hc
    · by_cases hz : b = 0
      · refine Or.inr ?_
        by_contra hu
        exact hb ⟨hz, by simpa using hu⟩
      · exact Or.inl hz
    · exact h.2 c hc

theorem Memory.writeBytes_wf {m : Memory} (h : m.wf = true) (a : Nat) (l : List Byte) : (m.writeBytes a l).wf = true := by
  induction l generalizing m a with
  | nil => exact h
  | cons b t ih => exact ih (Memory.write_wf h a b) (a + 1)

theorem Memory.writeNat_wf {m : Memory} (h : m.wf = true) (a k v : Nat) : (m.writeNat a k v).wf = true := Memory.writeBytes_wf h a _

theorem undefAt_cons_of_not_covers {o : Overlay} {os : List Overlay} {a : Nat} (h : o.covers a = false) : undefAt (o :: os) a = undefAt os a := by
  simp [undefAt, overlayAt, h]

theorem baseByte_cons_of_not_covers {o : Overlay} {os : List Overlay} {a : Nat} (h : o.covers a = false) : baseByte (o :: os) a = baseByte os a := by
  simp [baseByte, overlayAt, h]

theorem Memory.overlay_wf {m : Memory} (h : m.wf = true) (o : Overlay) : (m.overlay o).wf = true := by
  rw [Memory.wf_iff] at h ⊢
  refine ⟨msorted_filter h.1 _, fun c hc => ?_⟩
  have hc' := List.mem_filter.1 hc
  have hn : o.covers c.1 = false := by simpa using hc'.2
  rcases h.2 c hc'.1 with h | h
  · exact Or.inl h
  · exact Or.inr (by rw [Memory.overlay, undefAt_cons_of_not_covers hn]; exact h)

theorem Memory.makeUndef_wf {m : Memory} (h : m.wf = true) (lo len seed : Nat) : (m.makeUndef lo len seed).wf = true := Memory.overlay_wf h _

theorem Memory.zeroRange_wf {m : Memory} (h : m.wf = true) (lo len : Nat) : (m.zeroRange lo len).wf = true := Memory.overlay_wf h _

theorem Memory.zeroDie_wf {m : Memory} (h : m.wf = true) (layout d : Nat) : (m.zeroDie layout d).wf = true := Memory.overlay_wf h _

/-- A byte reads as it was written; every other byte reads as before. -/
theorem Memory.read_write (m : Memory) (a b : Nat) (v : Byte) : (m.write a v).read b = if b = a then v else m.read b := by
  unfold Memory.write Memory.read
  split_ifs with hz hb hb
  · subst hb
    simp only [mgetD, mget?_merase, if_true, Option.getD_none]
    obtain ⟨h0, hu⟩ := hz
    unfold baseByte
    unfold undefAt at hu
    rw [h0]
    split at hu
    · rename_i o ho; simp [hu]
    · rename_i ho; rfl
  · simp [mgetD, mget?_merase, hb]
  · simp [hb]
  · simp [hb]

/-- Bytes outside the stored range read as before. -/
theorem Memory.read_writeBytes_of_outside (m : Memory) (a b : Nat) (l : List Byte) (h : b < a ∨ a + l.length ≤ b) :
    (m.writeBytes a l).read b = m.read b := by
  induction l generalizing m a with
  | nil => rfl
  | cons x t ih =>
    simp only [List.length_cons] at h
    rw [Memory.writeBytes, ih _ _ (by omega), Memory.read_write, if_neg (by omega)]

/-- Bytes inside the stored range read as stored. -/
theorem Memory.read_writeBytes_of_inside (m : Memory) (a i : Nat) (l : List Byte) (h : i < l.length) :
    (m.writeBytes a l).read (a + i) = l[i] := by
  induction l generalizing m a i with
  | nil => simp at h
  | cons x t ih =>
    rw [Memory.writeBytes]
    cases i with
    | zero => rw [Memory.read_writeBytes_of_outside _ _ _ _ (by omega), Memory.read_write]; simp
    | succ i =>
      have := ih (m.write a x) (a + 1) i (by simpa using h)
      rw [show a + (i + 1) = a + 1 + i by omega, this]; simp

/-- The bytes stored read back. -/
theorem Memory.readBytes_writeBytes (m : Memory) (a : Nat) (l : List Byte) : (m.writeBytes a l).readBytes a l.length = l := by
  induction l generalizing m a with
  | nil => rfl
  | cons x t ih =>
    simp only [List.length_cons, Memory.readBytes, Memory.writeBytes]
    rw [ih, Memory.read_writeBytes_of_outside _ _ _ _ (by omega), Memory.read_write]; simp

/-- A byte outside an overlay reads as before. -/
theorem Memory.read_overlay_of_not_covers (m : Memory) (o : Overlay) (a : Nat) (h : o.covers a = false) : (m.overlay o).read a = m.read a := by
  simp [Memory.read, Memory.overlay, mgetD, baseByte_cons_of_not_covers h, h]

/-- A zeroed byte reads as zero. -/
theorem Memory.read_zeroRange (m : Memory) (lo len a : Nat) (h : lo ≤ a) (h2 : a < lo + len) : (m.zeroRange lo len).read a = 0 := by
  simp [Memory.read, Memory.zeroRange, Memory.overlay, mgetD, baseByte, overlayAt, Overlay.covers, h, h2]

end Sys2Proof.Machine
end

