-- ==== Sys2Proof/Laws/Keeps.lean ====
section
/-! SUPPORT. What every operation of the block keeps: the queue of waiting commands, the canonical form of memory and of the register
store, the bound of the mailbox queues, the values drawn so far and everything that has left the package. -/
namespace Sys2Proof.Machine

/-- The queues of a mailbox channel hold at most 16 words each (R444). -/
def Chan.fits (q : Chan) : Prop := q.toA.length ≤ 16 ∧ q.toB.length ≤ 16

/-- The queues of every mailbox channel do. -/
def State.boxesFit (s : State) : Prop := ∀ c, (mgetD s.chans c .idle).fits

/-- What the state `t` has kept of the state `a`: the queue is as it was, memory and the register store keep their canonical form, no mailbox
queue outgrows its 16 words, no free value is drawn again, and what had been sent stays sent. -/
structure Keeps (a t : State) : Prop where
  pending : t.pending = a.pending
  mem : a.mem.wf = true → t.mem.wf = true
  regs : msorted a.regs = true → msorted t.regs = true
  boxes : a.boxesFit → t.boxesFit
  free : a.freeCtr ≤ t.freeCtr
  out : a.out <+: t.out

theorem Keeps.refl (a : State) : Keeps a a := ⟨rfl, id, id, id, Nat.le_refl _, List.prefix_refl _⟩

theorem Keeps.trans {a b c : State} (h : Keeps a b) (k : Keeps b c) : Keeps a c :=
  ⟨k.pending.trans h.pending, fun x => k.mem (h.mem x), fun x => k.regs (h.regs x), fun x => k.boxes (h.boxes x), Nat.le_trans h.free k.free, h.out.trans k.out⟩

/-- Either branch keeps: the else-branch may be what the then-branch goes on from. -/
theorem Keeps.ite {a x y : State} {c : Prop} [Decidable c] (hy : Keeps a y) (hx : Keeps a y → Keeps a x) : Keeps a (if c then x else y) := by
  split
  · exact hx hy
  · exact hy

/-- The state of an answer that has been taken apart keeps when the answer's does. -/
theorem Keeps.of_fst {β : Type} {a t : State} {b : β} {x : State × β} (e : x = (t, b)) (h : Keeps a x.1) : Keeps a t := by
  subst e; exact h

/-- A change of other fields keeps. -/
theorem Keeps.other {a s : State} (h : Keeps a s) {staged acc damage memStacks regionSt fieldRows hardRows parts rings slots recs epReset mboxHolds glk ports
    power sec flash rpmc tap retraining deadLinks resyncQ resyncNow resyncSeq descSeq turn} :
    Keeps a ⟨s.regs, staged, acc, s.mem, damage, memStacks, regionSt, fieldRows, hardRows, parts, rings, slots, recs, s.chans, epReset, mboxHolds, glk, ports, power,
      sec, flash, rpmc, tap, retraining, deadLinks, resyncQ, resyncNow, resyncSeq, descSeq, turn, s.freeCtr, s.out, s.pending⟩ :=
  ⟨h.pending, h.mem, h.regs, h.boxes, h.free, h.out⟩

/-- Sending keeps. -/
theorem Keeps.send {a s : State} (h : Keeps a s) {staged acc damage memStacks regionSt fieldRows hardRows parts rings slots recs epReset mboxHolds glk ports
    power sec flash rpmc tap retraining deadLinks resyncQ resyncNow resyncSeq descSeq turn} (l : List Out) :
    Keeps a ⟨s.regs, staged, acc, s.mem, damage, memStacks, regionSt, fieldRows, hardRows, parts, rings, slots, recs, s.chans, epReset, mboxHolds, glk, ports, power,
      sec, flash, rpmc, tap, retraining, deadLinks, resyncQ, resyncNow, resyncSeq, descSeq, turn, s.freeCtr, s.out ++ l, s.pending⟩ :=
  ⟨h.pending, h.mem, h.regs, h.boxes, h.free, h.out.trans (List.prefix_append ..)⟩

/-- A change of memory keeps when it keeps the canonical form. -/
theorem Keeps.store {a s : State} (h : Keeps a s) (m : Memory) (hm : s.mem.wf = true → m.wf = true) : Keeps a { s with mem := m } :=
  ⟨h.pending, fun x => hm (h.mem x), h.regs, h.boxes, h.free, h.out⟩

/-- A change of the register store keeps when its keys stay in order. -/
theorem Keeps.reg {a s : State} (h : Keeps a s) (m : List (Nat × Nat)) (hm : msorted s.regs = true → msorted m = true) : Keeps a { s with regs := m } :=
  ⟨h.pending, h.mem, fun x => hm (h.regs x), h.boxes, h.free, h.out⟩

theorem Keeps.each {α : Type} {a s : State} {l : List α} {f : State → α → State} (h : Keeps a s) (hf : ∀ s x, Keeps a s → Keeps a (f s x)) :
    Keeps a (s.each l f) := by
  unfold State.each
  induction l generalizing s with
  | nil => exact h
  | cons x t ih => exact ih (hf _ _ h)

theorem Keeps.fold {α : Type} {a s : State} {l : List α} {f : State → α → State} (h : Keeps a s) (hf : ∀ s x, Keeps a s → Keeps a (f s x)) :
    Keeps a (l.foldl f s) := Keeps.each h hf

theorem Keeps.foldFst {α β : Type} {a : State} {l : List α} {y : State × β} {f : State × β → α → State × β} (h : Keeps a y.1)
    (hf : ∀ y x, Keeps a y.1 → Keeps a (f y x).1) : Keeps a (l.foldl f y).1 := by
  induction l generalizing y with
  | nil => exact h
  | cons x t ih => exact ih (hf _ _ h)

theorem State.fset_keeps {a s : State} {f : Fld} {v : Nat} (h : Keeps a s) : Keeps a (s.fset f v) := h.reg _ fun x => msorted_mset x ..

theorem State.fsets_keeps {a s : State} {l : List (Fld × Nat)} (h : Keeps a s) : Keeps a (s.fsets l) := by
  induction l generalizing s with
  | nil => exact h
  | cons e t ih => exact ih (State.fset_keeps h)

theorem State.tick_keeps {a s : State} (h : Keeps a s) : Keeps a s.tick := ⟨h.pending, h.mem, h.regs, h.boxes, Nat.le_succ_of_le h.free, h.out⟩

theorem State.undef_keeps {a s : State} {lo len : Nat} (h : Keeps a s) : Keeps a (s.undef lo len) :=
  State.tick_keeps (h.store _ fun x => Memory.makeUndef_wf x ..)

theorem State.emit_keeps {a s : State} {o : Out} (h : Keeps a s) : Keeps a (s.emit o) := h.send _

/-- Free values are drawn: the counter only rises. -/
theorem Keeps.draw {a s : State} (h : Keeps a s) {staged acc damage memStacks regionSt fieldRows hardRows parts rings slots recs epReset mboxHolds glk ports
    power sec flash rpmc tap retraining deadLinks resyncQ resyncNow resyncSeq descSeq turn} (n : Nat) :
    Keeps a ⟨s.regs, staged, acc, s.mem, damage, memStacks, regionSt, fieldRows, hardRows, parts, rings, slots, recs, s.chans, epReset, mboxHolds, glk, ports, power,
      sec, flash, rpmc, tap, retraining, deadLinks, resyncQ, resyncNow, resyncSeq, descSeq, turn, s.freeCtr + n, s.out, s.pending⟩ :=
  ⟨h.pending, h.mem, h.regs, h.boxes, Nat.le_trans h.free (Nat.le_add_right ..), h.out⟩

/-- Bytes are stored. -/
theorem Keeps.bytes {a s : State} (h : Keeps a s) {staged acc damage memStacks regionSt fieldRows hardRows parts rings slots recs epReset mboxHolds glk ports
    power sec flash rpmc tap retraining deadLinks resyncQ resyncNow resyncSeq descSeq turn} (x : Nat) (l : List Byte) :
    Keeps a ⟨s.regs, staged, acc, s.mem.writeBytes x l, damage, memStacks, regionSt, fieldRows, hardRows, parts, rings, slots, recs, s.chans, epReset, mboxHolds, glk, ports, power,
      sec, flash, rpmc, tap, retraining, deadLinks, resyncQ, resyncNow, resyncSeq, descSeq, turn, s.freeCtr, s.out, s.pending⟩ :=
  ⟨h.pending, fun k => Memory.writeBytes_wf (h.mem k) x l, h.regs, h.boxes, h.free, h.out⟩

/-- A range is zeroed. -/
theorem Keeps.zero {a s : State} (h : Keeps a s) {staged acc damage memStacks regionSt fieldRows hardRows parts rings slots recs epReset mboxHolds glk ports
    power sec flash rpmc tap retraining deadLinks resyncQ resyncNow resyncSeq descSeq turn} (x n : Nat) :
    Keeps a ⟨s.regs, staged, acc, s.mem.zeroRange x n, damage, memStacks, regionSt, fieldRows, hardRows, parts, rings, slots, recs, s.chans, epReset, mboxHolds, glk, ports, power,
      sec, flash, rpmc, tap, retraining, deadLinks, resyncQ, resyncNow, resyncSeq, descSeq, turn, s.freeCtr, s.out, s.pending⟩ :=
  ⟨h.pending, fun k => Memory.zeroRange_wf (h.mem k) x n, h.regs, h.boxes, h.free, h.out⟩

/-- A byte is stored. -/
theorem Keeps.byte {a s : State} (h : Keeps a s) {staged acc damage memStacks regionSt fieldRows hardRows parts rings slots recs epReset mboxHolds glk ports
    power sec flash rpmc tap retraining deadLinks resyncQ resyncNow resyncSeq descSeq turn} (x : Nat) (b : Byte) :
    Keeps a ⟨s.regs, staged, acc, s.mem.write x b, damage, memStacks, regionSt, fieldRows, hardRows, parts, rings, slots, recs, s.chans, epReset, mboxHolds, glk, ports, power,
      sec, flash, rpmc, tap, retraining, deadLinks, resyncQ, resyncNow, resyncSeq, descSeq, turn, s.freeCtr, s.out, s.pending⟩ :=
  ⟨h.pending, fun k => Memory.write_wf (h.mem k) x b, h.regs, h.boxes, h.free, h.out⟩

/-- The state in an answer, if there is one, keeps. -/
structure OptKeeps (a : State) (x : Option State) : Prop where
  of : ∀ t, x = some t → Keeps a t

/-- The state in an answer with a flag, if there is one, keeps. -/
structure OptPairKeeps (a : State) (x : Option (State × Bool)) : Prop where
  of : ∀ t, x = some t → Keeps a t.1

theorem OptKeeps.none {a : State} : OptKeeps a Option.none := ⟨fun _ e => by cases e⟩
theorem OptKeeps.some {a s : State} (h : Keeps a s) : OptKeeps a (Option.some s) := ⟨fun _ e => by cases e; exact h⟩
theorem OptKeeps.map {a : State} {x : Option State} {f : State → State} (h : OptKeeps a x) (hf : ∀ s, Keeps a s → Keeps a (f s)) :
    OptKeeps a (x.map f) := by
  refine ⟨fun t e => ?_⟩
  cases x with
  | none => cases e
  | some s => cases e; exact hf s (h.of s rfl)
theorem OptKeeps.bind {a : State} {x : Option State} {f : State → Option State} (h : OptKeeps a x) (hf : ∀ s, Keeps a s → OptKeeps a (f s)) :
    OptKeeps a (x.bind f) := by
  refine ⟨fun t e => ?_⟩
  cases x with
  | none => cases e
  | some s => exact (hf s (h.of s rfl)).of t e
theorem OptKeeps.of_some {a s : State} {x : Option State} (h : OptKeeps a x) (e : x = Option.some s) : Keeps a s := h.of s e
theorem OptPairKeeps.none {a : State} : OptPairKeeps a Option.none := ⟨fun _ e => by cases e⟩
theorem OptPairKeeps.some {a s : State} {b : Bool} (h : Keeps a s) : OptPairKeeps a (Option.some (s, b)) := ⟨fun _ e => by cases e; exact h⟩
theorem OptPairKeeps.of_some {a s : State} {b : Bool} {x : Option (State × Bool)} (h : OptPairKeeps a x) (e : x = Option.some (s, b)) : Keeps a s := h.of (s, b) e

end Sys2Proof.Machine
end

