-- ==== Sys2Proof/Laws/KeepsOps.lean ====
section
/-! SUPPORT. What the operations of Sys2Proof/Machine/Ops.lean keep (Laws/Keeps.lean). -/
namespace Sys2Proof.Machine

set_option linter.unusedTactic false
set_option linter.unreachableTactic false

theorem State.fadd_keeps {base : State} {s : State} {f : Fld} {d : Nat} (hbase : Keeps base s) : Keeps base (State.fadd s f d) := by
  unfold State.fadd
  try dsimp only
  repeat' (first
    | with_reducible assumption | with_reducible apply Keeps.ite | with_reducible apply Keeps.fold | with_reducible apply State.fset_keeps
    | (intro _; intros; try dsimp only) | split | with_reducible apply Keeps.other)

theorem State.fsetBit_keeps {base : State} {s : State} {f : Fld} {i : Nat} {b : Bool} (hbase : Keeps base s) : Keeps base (State.fsetBit s f i b) := by
  unfold State.fsetBit
  try dsimp only
  repeat' (first
    | with_reducible assumption | with_reducible apply Keeps.ite | with_reducible apply Keeps.fold | with_reducible apply State.fset_keeps
    | (intro _; intros; try dsimp only) | split | with_reducible apply Keeps.other)

theorem State.accAdd_keeps {base : State} {s : State} {f : Fld} {d : Nat} (hbase : Keeps base s) : Keeps base (State.accAdd s f d) := by
  unfold State.accAdd
  try dsimp only
  repeat' (first
    | with_reducible assumption | with_reducible apply Keeps.ite | with_reducible apply Keeps.fold | (intro _; intros; try dsimp only) | split
    | with_reducible apply Keeps.other)

theorem State.accMax_keeps {base : State} {s : State} {f : Fld} {v : Nat} (hbase : Keeps base s) : Keeps base (State.accMax s f v) := by
  unfold State.accMax
  try dsimp only
  repeat' (first
    | with_reducible assumption | with_reducible apply Keeps.ite | with_reducible apply Keeps.fold | (intro _; intros; try dsimp only) | split
    | with_reducible apply Keeps.other)

theorem State.updPart_keeps {base : State} {s : State} {p : Nat} {f : Part → Part} (hbase : Keeps base s) : Keeps base (State.updPart s p f) := by
  unfold State.updPart
  try dsimp only
  repeat' (first
    | with_reducible assumption | with_reducible apply Keeps.ite | with_reducible apply Keeps.fold | (intro _; intros; try dsimp only) | split
    | with_reducible apply Keeps.other)

theorem State.updRing_keeps {base : State} {s : State} {n : Nat} {f : Ring → Ring} (hbase : Keeps base s) : Keeps base (State.updRing s n f) := by
  unfold State.updRing
  try dsimp only
  repeat' (first
    | with_reducible assumption | with_reducible apply Keeps.ite | with_reducible apply Keeps.fold | (intro _; intros; try dsimp only) | split
    | with_reducible apply Keeps.other)

theorem State.updSlot_keeps {base : State} {s : State} {r k : Nat} {f : Slot → Slot} (hbase : Keeps base s) : Keeps base (State.updSlot s r k f) := by
  unfold State.updSlot
  try dsimp only
  repeat' (first
    | with_reducible assumption | with_reducible apply Keeps.ite | with_reducible apply Keeps.fold | (intro _; intros; try dsimp only) | split
    | with_reducible apply Keeps.other)

theorem State.updStack_keeps {base : State} {s : State} {m : Nat} {f : Stack → Stack} (hbase : Keeps base s) : Keeps base (State.updStack s m f) := by
  unfold State.updStack
  try dsimp only
  repeat' (first
    | with_reducible assumption | with_reducible apply Keeps.ite | with_reducible apply Keeps.fold | (intro _; intros; try dsimp only) | split
    | with_reducible apply Keeps.other)

theorem State.updPort_keeps {base : State} {s : State} {p : Nat} {f : Port → Port} (hbase : Keeps base s) : Keeps base (State.updPort s p f) := by
  unfold State.updPort
  try dsimp only
  repeat' (first
    | with_reducible assumption | with_reducible apply Keeps.ite | with_reducible apply Keeps.fold | (intro _; intros; try dsimp only) | split
    | with_reducible apply Keeps.other)

theorem State.flood_keeps {base : State} {s : State} {not : Option Nat} {y : Sym} (hbase : Keeps base s) : Keeps base (State.flood s not y) := by
  unfold State.flood
  try dsimp only
  repeat' (first
    | with_reducible assumption | with_reducible apply Keeps.ite | with_reducible apply Keeps.fold | (intro _; intros; try dsimp only) | split
    | with_reducible apply Keeps.other | with_reducible apply Keeps.send)

theorem State.updRegion_keeps {base : State} {s : State} {r : Nat} {f : Region → Region} (hbase : Keeps base s) : Keeps base (State.updRegion s r f) := by
  unfold State.updRegion
  try dsimp only
  repeat' (first
    | with_reducible assumption | with_reducible apply Keeps.ite | with_reducible apply Keeps.fold | (intro _; intros; try dsimp only) | split
    | with_reducible apply Keeps.other)

theorem State.updGlk_keeps {base : State} {s : State} {f : Glk → Glk} (hbase : Keeps base s) : Keeps base (State.updGlk s f) := by
  unfold State.updGlk
  try dsimp only
  repeat' (first
    | with_reducible assumption | with_reducible apply Keeps.ite | with_reducible apply Keeps.fold | (intro _; intros; try dsimp only) | split
    | with_reducible apply Keeps.other)

theorem State.updDom_keeps {base : State} {s : State} {p : Nat} {f : Domain → Domain} (hbase : Keeps base s) : Keeps base (State.updDom s p f) := by
  unfold State.updDom
  try dsimp only
  repeat' (first
    | with_reducible assumption | with_reducible apply Keeps.ite | with_reducible apply Keeps.fold | with_reducible apply State.updPart_keeps
    | (intro _; intros; try dsimp only) | split | with_reducible apply Keeps.other)

theorem State.setRail_keeps {base : State} {s : State} {i mv : Nat} (hbase : Keeps base s) : Keeps base (State.setRail s i mv) := by
  unfold State.setRail
  try dsimp only
  repeat' (first
    | with_reducible assumption | with_reducible apply Keeps.ite | with_reducible apply Keeps.fold | with_reducible apply State.emit_keeps
    | (intro _; intros; try dsimp only) | split | with_reducible apply Keeps.other)

theorem State.updFlight_keeps {base : State} {s : State} {o : Origin} {f : List Desc → List Desc} (hbase : Keeps base s) : Keeps base (State.updFlight s o f) := by
  unfold State.updFlight
  try dsimp only
  repeat' (first
    | with_reducible assumption | with_reducible apply Keeps.ite | with_reducible apply Keeps.fold | with_reducible apply State.updRing_keeps
    | with_reducible apply State.updSlot_keeps | (intro _; intros; try dsimp only) | split | with_reducible apply Keeps.other)

theorem State.updDesc_keeps {base : State} {s : State} {o : Origin} {id : Nat} {f : Desc → Desc} (hbase : Keeps base s) : Keeps base (State.updDesc s o id f) := by
  unfold State.updDesc
  try dsimp only
  repeat' (first
    | with_reducible assumption | with_reducible apply Keeps.ite | with_reducible apply Keeps.fold | with_reducible apply State.updFlight_keeps
    | (intro _; intros; try dsimp only) | split | with_reducible apply Keeps.other)

theorem State.setDie_keeps {base : State} {s : State} {d v : Nat} (hbase : Keeps base s) : Keeps base (State.setDie s d v) := by
  unfold State.setDie
  try dsimp only
  repeat' (first
    | with_reducible assumption | with_reducible apply Keeps.ite | with_reducible apply Keeps.fold | with_reducible apply Keeps.each
    | with_reducible apply State.fset_keeps | (intro _; intros; try dsimp only) | split | with_reducible apply Keeps.other)

theorem State.setPhase_keeps {base : State} {s : State} {r core ph : Nat} (hbase : Keeps base s) : Keeps base (State.setPhase s r core ph) := by
  unfold State.setPhase
  try dsimp only
  repeat' (first
    | with_reducible assumption | with_reducible apply Keeps.ite | with_reducible apply Keeps.fold | with_reducible apply State.fset_keeps
    | (intro _; intros; try dsimp only) | split | with_reducible apply Keeps.other)

theorem State.suitePass_keeps {base : State} {s : State} {r core : Nat} (hbase : Keeps base s) : Keeps base (State.suitePass s r core) := by
  unfold State.suitePass
  try dsimp only
  repeat' (first
    | with_reducible assumption | with_reducible apply Keeps.ite | with_reducible apply Keeps.fold | with_reducible apply State.fadd_keeps
    | with_reducible apply State.fsetBit_keeps | with_reducible apply State.updRegion_keeps | with_reducible apply State.setPhase_keeps
    | (intro _; intros; try dsimp only) | split | with_reducible apply Keeps.other)

theorem State.runSuite_keeps {base : State} {s : State} {r core : Nat} (hbase : Keeps base s) : Keeps base (State.runSuite s r core) := by
  unfold State.runSuite
  try dsimp only
  repeat' (first
    | with_reducible assumption | with_reducible apply Keeps.ite | with_reducible apply Keeps.fold | with_reducible apply State.updRegion_keeps
    | with_reducible apply State.suitePass_keeps | (intro _; intros; try dsimp only) | split | with_reducible apply Keeps.other)

theorem State.suspect_keeps {base : State} {s : State} {r core : Nat} (hbase : Keeps base s) : Keeps base (State.suspect s r core) := by
  unfold State.suspect
  try dsimp only
  repeat' (first
    | with_reducible assumption | with_reducible apply Keeps.ite | with_reducible apply Keeps.fold | with_reducible apply State.fset_keeps
    | with_reducible apply State.fsetBit_keeps | with_reducible apply State.runSuite_keeps | (intro _; intros; try dsimp only) | split
    | with_reducible apply Keeps.other)

theorem State.stage_keeps {base : State} {s : State} {f : Fld} {v : Nat} (hbase : Keeps base s) : Keeps base (State.stage s f v) := by
  unfold State.stage
  try dsimp only
  repeat' (first
    | with_reducible assumption | with_reducible apply Keeps.ite | with_reducible apply Keeps.fold | with_reducible apply State.fset_keeps
    | (intro _; intros; try dsimp only) | split | with_reducible apply Keeps.other)

theorem State.dropStaged_keeps {base : State} {s : State} {p : Nat} (hbase : Keeps base s) : Keeps base (State.dropStaged s p) := by
  unfold State.dropStaged
  try dsimp only
  repeat' (first
    | with_reducible assumption | with_reducible apply Keeps.ite | with_reducible apply Keeps.fold | (intro _; intros; try dsimp only) | split
    | with_reducible apply Keeps.other)

theorem State.dropBooks_keeps {base : State} {s : State} {p : Nat} (hbase : Keeps base s) : Keeps base (State.dropBooks s p) := by
  unfold State.dropBooks
  try dsimp only
  repeat' (first
    | with_reducible assumption | with_reducible apply Keeps.ite | with_reducible apply Keeps.fold | with_reducible apply Keeps.each
    | with_reducible apply State.fset_keeps | with_reducible apply State.updPart_keeps | with_reducible apply State.setRail_keeps
    | (intro _; intros; try dsimp only) | split | with_reducible apply Keeps.other)

theorem State.injFire_keeps {base : State} {s : State} {p : Nat} (hbase : Keeps base s) : Keeps base (State.injFire s p) := by
  unfold State.injFire
  try dsimp only
  repeat' (first
    | with_reducible assumption | with_reducible apply Keeps.ite | with_reducible apply Keeps.fold | with_reducible apply State.fsets_keeps
    | with_reducible apply State.fadd_keeps | (intro _; intros; try dsimp only) | split | with_reducible apply Keeps.other)

theorem State.injDrop_keeps {base : State} {s : State} {p : Nat} (hbase : Keeps base s) : Keeps base (State.injDrop s p) := by
  unfold State.injDrop
  try dsimp only
  repeat' (first
    | with_reducible assumption | with_reducible apply Keeps.ite | with_reducible apply Keeps.fold | with_reducible apply State.fsets_keeps
    | (intro _; intros; try dsimp only) | split | with_reducible apply Keeps.other)

end Sys2Proof.Machine
end

