-- ==== Sys2Proof/Laws/KeepsLink.lean ====
section
/-! SUPPORT. What the operations of Sys2Proof/Machine/Link.lean keep (Laws/Keeps.lean). -/
namespace Sys2Proof.Machine

set_option linter.unusedTactic false
set_option linter.unreachableTactic false

theorem State.glkEmpty_keeps {base : State} {s : State} {nak : Bool} {ccls credits : Nat} (hbase : Keeps base s) : Keeps base (State.glkEmpty s nak ccls credits) := by
  unfold State.glkEmpty
  try dsimp only
  repeat' (first
    | with_reducible assumption | with_reducible apply Keeps.ite | with_reducible apply Keeps.fold | with_reducible apply State.emit_keeps
    | (intro _; intros; try dsimp only) | split | with_reducible apply Keeps.other)

theorem State.glkEmit_keeps {base : State} {s : State} {m : GlkMsg} (hbase : Keeps base s) : Keeps base (State.glkEmit s m) := by
  unfold State.glkEmit
  try dsimp only
  repeat' (first
    | with_reducible assumption | with_reducible apply Keeps.ite | with_reducible apply Keeps.fold | (intro _; intros; try dsimp only) | split
    | with_reducible apply Keeps.other | with_reducible apply Keeps.send)

theorem State.glkPut_keeps {base : State} {s : State} {m : GlkMsg} (hbase : Keeps base s) : Keeps base (State.glkPut s m) := by
  unfold State.glkPut
  try dsimp only
  repeat' (first
    | with_reducible assumption | with_reducible apply Keeps.ite | with_reducible apply Keeps.fold | with_reducible apply State.updGlk_keeps
    | with_reducible apply State.glkEmit_keeps | (intro _; intros; try dsimp only) | split | with_reducible apply Keeps.other)

theorem State.glkDrain_keeps {base : State} {s : State} (hbase : Keeps base s) : Keeps base (State.glkDrain s) := by
  unfold State.glkDrain
  try dsimp only
  repeat' (first
    | with_reducible assumption | with_reducible apply Keeps.ite | with_reducible apply Keeps.fold | with_reducible apply Keeps.foldFst
    | with_reducible apply State.updGlk_keeps | with_reducible apply State.glkPut_keeps | (intro _; intros; try dsimp only) | split
    | with_reducible apply Keeps.other)

theorem State.glkFree_keeps {base : State} {s : State} {cls : Nat} (hbase : Keeps base s) : Keeps base (State.glkFree s cls) := by
  unfold State.glkFree
  try dsimp only
  repeat' (first
    | with_reducible assumption | with_reducible apply Keeps.ite | with_reducible apply Keeps.fold | with_reducible apply State.glkEmpty_keeps
    | (intro _; intros; try dsimp only) | split | with_reducible apply Keeps.other)

theorem State.glkTake_keeps {base : State} {s : State} {h : GlkHead} {n : Nat} (hbase : Keeps base s) : Keeps base (State.glkTake s h n) := by
  unfold State.glkTake
  try dsimp only
  repeat' (first
    | with_reducible assumption | with_reducible apply Keeps.ite | with_reducible apply Keeps.fold | with_reducible apply State.updGlk_keeps
    | with_reducible apply State.glkDrain_keeps | (intro _; intros; try dsimp only) | split | with_reducible apply Keeps.other)

theorem State.glkIssue_keeps {base : State} {s : State} {m : GlkMsg} {o : Outst} (hbase : Keeps base s) : Keeps base (State.glkIssue s m o) := by
  unfold State.glkIssue
  try dsimp only
  repeat' (first
    | with_reducible assumption | with_reducible apply Keeps.ite | with_reducible apply Keeps.fold | with_reducible apply State.updGlk_keeps
    | with_reducible apply State.glkPut_keeps | (intro _; intros; try dsimp only) | split | with_reducible apply Keeps.other)

theorem State.glkRequest_keeps {base : State} {s : State} {op pa : Nat} {data : List Byte} {owner : Owner} (hbase : Keeps base s) : Keeps base (State.glkRequest s op pa data owner) := by
  unfold State.glkRequest
  try dsimp only
  repeat' (first
    | with_reducible assumption | with_reducible apply Keeps.ite | with_reducible apply Keeps.fold | with_reducible apply State.updGlk_keeps
    | with_reducible apply State.glkIssue_keeps | (intro _; intros; try dsimp only) | split | with_reducible apply Keeps.other)

theorem State.glkUndefer_keeps {base : State} {s : State} (hbase : Keeps base s) : Keeps base (State.glkUndefer s) := by
  unfold State.glkUndefer
  try dsimp only
  repeat' (first
    | with_reducible assumption | with_reducible apply Keeps.ite | with_reducible apply Keeps.fold | with_reducible apply Keeps.foldFst
    | with_reducible apply State.updGlk_keeps | with_reducible apply State.glkIssue_keeps | (intro _; intros; try dsimp only) | split
    | with_reducible apply Keeps.other)

theorem State.glkSendRange_keeps {base : State} {s : State} {pa len : Nat} {owner : Owner} (hbase : Keeps base s) : Keeps base (State.glkSendRange s pa len owner) := by
  unfold State.glkSendRange
  try dsimp only
  repeat' (first
    | with_reducible assumption | with_reducible apply Keeps.ite | with_reducible apply Keeps.fold | with_reducible apply Keeps.each
    | with_reducible apply State.glkRequest_keeps | (intro _; intros; try dsimp only) | split | with_reducible apply Keeps.other)

theorem State.endReservations_keeps {base : State} {s : State} {a len : Nat} (hbase : Keeps base s) : Keeps base (State.endReservations s a len) := by
  unfold State.endReservations
  try dsimp only
  repeat' (first
    | with_reducible assumption | with_reducible apply Keeps.ite | with_reducible apply Keeps.fold | (intro _; intros; try dsimp only) | split
    | with_reducible apply Keeps.other)

theorem State.store_keeps {base : State} {s : State} {a : Nat} {data : List Byte} {owner : Owner} (hbase : Keeps base s) : Keeps base (State.store s a data owner) := by
  unfold State.store
  try dsimp only
  repeat' (first
    | with_reducible assumption | with_reducible apply Keeps.ite | with_reducible apply Keeps.fold | with_reducible apply State.glkSendRange_keeps
    | with_reducible apply State.endReservations_keeps | (intro _; intros; try dsimp only) | split | with_reducible apply Keeps.other
    | with_reducible apply Keeps.bytes | with_reducible apply Keeps.zero | with_reducible apply Keeps.byte)

theorem State.storeNat_keeps {base : State} {s : State} {a k v : Nat} {owner : Owner} (hbase : Keeps base s) : Keeps base (State.storeNat s a k v owner) := by
  unfold State.storeNat
  try dsimp only
  repeat' (first
    | with_reducible assumption | with_reducible apply Keeps.ite | with_reducible apply Keeps.fold | with_reducible apply State.store_keeps
    | (intro _; intros; try dsimp only) | split | with_reducible apply Keeps.other)

theorem State.fillLine_keeps {base : State} {s : State} {l : Nat} (hbase : Keeps base s) : Keeps base (State.fillLine s l) := by
  unfold State.fillLine
  try dsimp only
  repeat' (first
    | with_reducible assumption | with_reducible apply Keeps.ite | with_reducible apply Keeps.fold | with_reducible apply State.updGlk_keeps
    | (intro _; intros; try dsimp only) | split | with_reducible apply Keeps.other)

theorem State.touchLine_keeps {base : State} {s : State} {l : Nat} (hbase : Keeps base s) : Keeps base (State.touchLine s l) := by
  unfold State.touchLine
  try dsimp only
  repeat' (first
    | with_reducible assumption | with_reducible apply Keeps.ite | with_reducible apply Keeps.fold | with_reducible apply State.fillLine_keeps
    | (intro _; intros; try dsimp only) | split | with_reducible apply Keeps.other)

theorem State.dropOnce_keeps {base : State} {s : State} (hbase : Keeps base s) : Keeps base (State.dropOnce s) := by
  unfold State.dropOnce
  try dsimp only
  repeat' (first
    | with_reducible assumption | with_reducible apply Keeps.ite | with_reducible apply Keeps.fold | with_reducible apply State.updGlk_keeps
    | (intro _; intros; try dsimp only) | split | with_reducible apply Keeps.other)

theorem State.askShared_keeps {base : State} {s : State} {l : Nat} {owner : Owner} (hbase : Keeps base s) : Keeps base (State.askShared s l owner) := by
  unfold State.askShared
  try dsimp only
  repeat' (first
    | with_reducible assumption | with_reducible apply Keeps.ite | with_reducible apply Keeps.fold | with_reducible apply State.glkRequest_keeps
    | (intro _; intros; try dsimp only) | split | with_reducible apply Keeps.other)

theorem State.askStream_keeps {base : State} {s : State} {ranges : List (Nat × Nat)} {owner : Owner} (hbase : Keeps base s) : Keeps base (State.askStream s ranges owner) := by
  unfold State.askStream
  try dsimp only
  repeat' (first
    | with_reducible assumption | with_reducible apply Keeps.ite | with_reducible apply Keeps.fold | with_reducible apply Keeps.each
    | with_reducible apply State.glkRequest_keeps | (intro _; intros; try dsimp only) | split | with_reducible apply Keeps.other)

theorem State.askFetch_keeps {base : State} {s : State} {ranges : List (Nat × Nat)} {owner : Owner} (hbase : Keeps base s) : Keeps base (State.askFetch s ranges owner) := by
  unfold State.askFetch
  try dsimp only
  repeat' (first
    | with_reducible assumption | with_reducible apply Keeps.ite | with_reducible apply Keeps.fold | with_reducible apply Keeps.each
    | with_reducible apply State.askShared_keeps | (intro _; intros; try dsimp only) | split | with_reducible apply Keeps.other)

theorem State.useFetch_keeps {base : State} {s : State} {ranges : List (Nat × Nat)} (hbase : Keeps base s) : Keeps base (State.useFetch s ranges) := by
  unfold State.useFetch
  try dsimp only
  repeat' (first
    | with_reducible assumption | with_reducible apply Keeps.ite | with_reducible apply Keeps.fold | with_reducible apply Keeps.each
    | with_reducible apply State.touchLine_keeps | with_reducible apply State.dropOnce_keeps | (intro _; intros; try dsimp only) | split
    | with_reducible apply Keeps.other)

theorem State.strikeLine_keeps {base : State} {s : State} {l : Nat} {errs : List (Nat × Byte)} (hbase : Keeps base s) : Keeps base (State.strikeLine s l errs) := by
  unfold State.strikeLine
  try dsimp only
  repeat' (first
    | with_reducible assumption | with_reducible apply Keeps.ite | with_reducible apply Keeps.fold | with_reducible apply State.fadd_keeps
    | with_reducible apply State.updGlk_keeps | (intro _; intros; try dsimp only) | split | with_reducible apply Keeps.other)

theorem State.dropStream_keeps {base : State} {s : State} {ranges : List (Nat × Nat)} (hbase : Keeps base s) : Keeps base (State.dropStream s ranges) := by
  unfold State.dropStream
  try dsimp only
  repeat' (first
    | with_reducible assumption | with_reducible apply Keeps.ite | with_reducible apply Keeps.fold | with_reducible apply State.updGlk_keeps
    | (intro _; intros; try dsimp only) | split | with_reducible apply Keeps.other)

theorem State.flushIrqs_keeps {base : State} {s : State} (hbase : Keeps base s) : Keeps base (State.flushIrqs s) := by
  unfold State.flushIrqs
  try dsimp only
  repeat' (first
    | with_reducible assumption | with_reducible apply Keeps.ite | with_reducible apply Keeps.fold | with_reducible apply Keeps.foldFst
    | with_reducible apply State.updGlk_keeps | with_reducible apply State.glkPut_keeps | (intro _; intros; try dsimp only) | split
    | with_reducible apply Keeps.other)

theorem State.queueIrq_keeps {base : State} {s : State} {key : Nat} {tag : Option Nat} {m : GlkMsg} (hbase : Keeps base s) : Keeps base (State.queueIrq s key tag m) := by
  unfold State.queueIrq
  try dsimp only
  repeat' (first
    | with_reducible assumption | with_reducible apply Keeps.ite | with_reducible apply Keeps.fold | with_reducible apply State.updGlk_keeps
    | with_reducible apply State.flushIrqs_keeps | (intro _; intros; try dsimp only) | split | with_reducible apply Keeps.other)

end Sys2Proof.Machine
end

