-- ==== Sys2Proof/Laws/KeepsRecorder.lean ====
section
/-! SUPPORT. What the operations of Sys2Proof/Machine/Recorder.lean keep (Laws/Keeps.lean). -/
namespace Sys2Proof.Machine

set_option linter.unusedTactic false
set_option linter.unreachableTactic false

theorem State.evrIrq_keeps {base : State} {s : State} (hbase : Keeps base s) : Keeps base (State.evrIrq s) := by
  unfold State.evrIrq
  try dsimp only
  repeat' (first
    | with_reducible assumption | with_reducible apply Keeps.ite | with_reducible apply Keeps.fold | with_reducible apply State.glkPut_keeps
    | (intro _; intros; try dsimp only) | split | with_reducible apply Keeps.other)

theorem State.record_keeps {base : State} {s : State} {e : Event} (hbase : Keeps base s) : Keeps base (State.record s e) := by
  unfold State.record
  try dsimp only
  repeat' (first
    | with_reducible assumption | with_reducible apply Keeps.ite | with_reducible apply Keeps.fold | with_reducible apply State.fadd_keeps
    | with_reducible apply State.evrIrq_keeps | (intro _; intros; try dsimp only) | split | with_reducible apply Keeps.other)

theorem State.noteDiscard_keeps {base : State} {s : State} {a value : Nat} (hbase : Keeps base s) : Keeps base (State.noteDiscard s a value) := by
  unfold State.noteDiscard
  try dsimp only
  repeat' (first
    | with_reducible assumption | with_reducible apply Keeps.ite | with_reducible apply Keeps.fold | with_reducible apply State.record_keeps
    | (intro _; intros; try dsimp only) | split | with_reducible apply Keeps.other)

theorem State.noteAccess_keeps {base : State} {s : State} {a : Nat} (hbase : Keeps base s) : Keeps base (State.noteAccess s a) := by
  unfold State.noteAccess
  try dsimp only
  repeat' (first
    | with_reducible assumption | with_reducible apply Keeps.ite | with_reducible apply Keeps.fold | with_reducible apply State.record_keeps
    | (intro _; intros; try dsimp only) | split | with_reducible apply Keeps.other)

theorem State.noteHub_keeps {base : State} {s : State} {code log addr : Nat} (hbase : Keeps base s) : Keeps base (State.noteHub s code log addr) := by
  unfold State.noteHub
  try dsimp only
  repeat' (first
    | with_reducible assumption | with_reducible apply Keeps.ite | with_reducible apply Keeps.fold | with_reducible apply State.record_keeps
    | (intro _; intros; try dsimp only) | split | with_reducible apply Keeps.other)

end Sys2Proof.Machine
end

