-- ==== Sys2Proof/Laws/KeepsFaults.lean ====
section
/-! SUPPORT. What the operations of Sys2Proof/Machine/Faults.lean keep (Laws/Keeps.lean). -/
namespace Sys2Proof.Machine

set_option linter.unusedTactic false
set_option linter.unreachableTactic false

theorem State.suspectBy_keeps {base : State} {s : State} {c : Code} {unit : Nat} (hbase : Keeps base s) : Keeps base (State.suspectBy s c unit) := by
  unfold State.suspectBy
  try dsimp only
  repeat' (first
    | with_reducible assumption | with_reducible apply Keeps.ite | with_reducible apply Keeps.fold | with_reducible apply State.suspect_keeps
    | (intro _; intros; try dsimp only) | split | with_reducible apply Keeps.other)

theorem State.logFault_keeps {base : State} {s : State} {p : Nat} {c : Code} {w : Cause} (hbase : Keeps base s) : Keeps base (State.logFault s p c w) := by
  unfold State.logFault
  try dsimp only
  repeat' (first
    | with_reducible assumption | with_reducible apply Keeps.ite | with_reducible apply Keeps.fold | with_reducible apply State.fadd_keeps
    | with_reducible apply State.updPart_keeps | with_reducible apply State.record_keeps | with_reducible apply State.suspectBy_keeps
    | (intro _; intros; try dsimp only) | split | with_reducible apply Keeps.other)

theorem State.haltCores_keeps {base : State} {s : State} {p : Nat} (hbase : Keeps base s) : Keeps base (State.haltCores s p) := by
  unfold State.haltCores
  try dsimp only
  repeat' (first
    | with_reducible assumption | with_reducible apply Keeps.ite | with_reducible apply Keeps.fold | with_reducible apply Keeps.each
    | with_reducible apply State.fset_keeps | with_reducible apply State.updSlot_keeps | (intro _; intros; try dsimp only) | split
    | with_reducible apply Keeps.other)

theorem State.cutShort_keeps {base : State} {s : State} {p : Nat} (hbase : Keeps base s) : Keeps base (State.cutShort s p) := by
  unfold State.cutShort
  try dsimp only
  repeat' (first
    | with_reducible assumption | with_reducible apply Keeps.ite | with_reducible apply Keeps.fold | with_reducible apply Keeps.each
    | with_reducible apply State.undef_keeps | (intro _; intros; try dsimp only) | split | with_reducible apply Keeps.other)

theorem State.touchEntry_keeps {base : State} {s : State} {r h : Nat} (hbase : Keeps base s) : Keeps base (State.touchEntry s r h) := by
  unfold State.touchEntry
  try dsimp only
  repeat' (first
    | with_reducible assumption | with_reducible apply Keeps.ite | with_reducible apply Keeps.fold | with_reducible apply State.undef_keeps
    | (intro _; intros; try dsimp only) | split | with_reducible apply Keeps.other)

theorem State.restoreHandle_keeps {base s : State} {r h : Nat} {x : Option Handle} (hbase : Keeps base s) : Keeps base (State.restoreHandle s r h x) := by
  cases x with
  | none =>
    simp only [State.restoreHandle]
    split
    · exact hbase
    · exact Keeps.each (State.touchEntry_keeps (State.updRegion_keeps hbase)) fun _ _ h => State.undef_keeps h
  | some x => exact Keeps.each (State.touchEntry_keeps (State.updRegion_keeps hbase)) fun _ _ h => Keeps.bytes h _ _

theorem State.undoHandles_keeps {base s : State} {p : Nat} (hbase : Keeps base s) : Keeps base (State.undoHandles s p) := by
  unfold State.undoHandles
  refine Keeps.each hbase fun t d h => ?_
  split
  · exact Keeps.ite h fun _ => State.restoreHandle_keeps h
  · exact h

theorem State.goodOver_keeps {base : State} {s : State} {a len : Nat} (hbase : Keeps base s) : Keeps base (State.goodOver s a len) := by
  unfold State.goodOver
  try dsimp only
  repeat' (first
    | with_reducible assumption | with_reducible apply Keeps.ite | with_reducible apply Keeps.fold | with_reducible apply Keeps.each
    | with_reducible apply State.updRegion_keeps | (intro _; intros; try dsimp only) | split | with_reducible apply Keeps.other)

theorem State.storeOver_keeps {base s : State} {owner : Owner} {l : List (Nat × Nat)} {bs : List Byte} (h : Keeps base s) :
    Keeps base (State.storeOver s owner l bs) := by
  induction l generalizing s bs with
  | nil => exact h
  | cons e t ih => exact ih (State.store_keeps (Keeps.other h))

theorem State.dropSnap_keeps {base : State} {s : State} {p : Nat} (hbase : Keeps base s) : Keeps base (State.dropSnap s p) := by
  unfold State.dropSnap
  try dsimp only
  repeat' (first
    | with_reducible assumption | with_reducible apply Keeps.ite | with_reducible apply Keeps.fold | with_reducible apply State.tick_keeps
    | with_reducible apply State.updPart_keeps | with_reducible apply State.record_keeps | with_reducible apply State.storeOver_keeps
    | (intro _; intros; try dsimp only) | split | with_reducible apply Keeps.other)

theorem State.noteHeld_keeps {base : State} {s : State} {p : Nat} (hbase : Keeps base s) : Keeps base (State.noteHeld s p) := by
  unfold State.noteHeld
  try dsimp only
  repeat' (first
    | with_reducible assumption | with_reducible apply Keeps.ite | with_reducible apply Keeps.fold | with_reducible apply Keeps.each
    | with_reducible apply State.updRegion_keeps | (intro _; intros; try dsimp only) | split | with_reducible apply Keeps.other)

theorem State.haltPart_keeps {base : State} {s : State} {p : Nat} (hbase : Keeps base s) : Keeps base (State.haltPart s p) := by
  unfold State.haltPart
  try dsimp only
  repeat' (first
    | with_reducible assumption | with_reducible apply Keeps.ite | with_reducible apply Keeps.fold | with_reducible apply Keeps.each
    | with_reducible apply State.fset_keeps | with_reducible apply State.updPart_keeps | with_reducible apply State.updRegion_keeps
    | with_reducible apply State.updGlk_keeps | with_reducible apply State.dropStaged_keeps | with_reducible apply State.dropBooks_keeps
    | with_reducible apply State.injDrop_keeps | with_reducible apply State.haltCores_keeps | with_reducible apply State.cutShort_keeps
    | with_reducible apply State.undoHandles_keeps | with_reducible apply State.dropSnap_keeps | with_reducible apply State.noteHeld_keeps
    | (intro _; intros; try dsimp only) | split | with_reducible apply Keeps.other)

theorem State.floodDom_keeps {base : State} {s : State} {p : Nat} {not : Option Nat} {y : Nat → Sym} (hbase : Keeps base s) : Keeps base (State.floodDom s p not y) := by
  unfold State.floodDom
  try dsimp only
  repeat' (first
    | with_reducible assumption | with_reducible apply Keeps.ite | with_reducible apply Keeps.fold | with_reducible apply State.flood_keeps
    | (intro _; intros; try dsimp only) | split | with_reducible apply Keeps.other)

theorem State.sendUp_keeps {base : State} {s : State} {p : Nat} {y : Nat → Sym} (hbase : Keeps base s) : Keeps base (State.sendUp s p y) := by
  unfold State.sendUp
  try dsimp only
  repeat' (first
    | with_reducible assumption | with_reducible apply Keeps.ite | with_reducible apply Keeps.fold | with_reducible apply State.emit_keeps
    | (intro _; intros; try dsimp only) | split | with_reducible apply Keeps.other)

theorem State.endDom_keeps {base : State} {s : State} {ms : List Nat} (hbase : Keeps base s) : Keeps base (State.endDom s ms) := by
  unfold State.endDom
  try dsimp only
  repeat' (first
    | with_reducible assumption | with_reducible apply Keeps.ite | with_reducible apply Keeps.fold | with_reducible apply Keeps.each
    | with_reducible apply State.updDom_keeps | (intro _; intros; try dsimp only) | split | with_reducible apply Keeps.other)

theorem State.formFailOne_keeps {base : State} {s : State} {p reason : Nat} (hbase : Keeps base s) : Keeps base (State.formFailOne s p reason) := by
  unfold State.formFailOne
  try dsimp only
  repeat' (first
    | with_reducible assumption | with_reducible apply Keeps.ite | with_reducible apply Keeps.fold | with_reducible apply State.fsets_keeps
    | with_reducible apply State.updDom_keeps | (intro _; intros; try dsimp only) | split | with_reducible apply Keeps.other)

theorem State.withdrawLocal_keeps {base : State} {s : State} {id node part : Nat} (hbase : Keeps base s) : Keeps base (State.withdrawLocal s id node part) := by
  unfold State.withdrawLocal
  try dsimp only
  repeat' (first
    | with_reducible assumption | with_reducible apply Keeps.ite | with_reducible apply Keeps.fold | with_reducible apply Keeps.each
    | with_reducible apply State.formFailOne_keeps | (intro _; intros; try dsimp only) | split | with_reducible apply Keeps.other)

theorem State.sendWithdraw_keeps {base : State} {s : State} {id : Option Nat} {p : Nat} (hbase : Keeps base s) : Keeps base (State.sendWithdraw s id p) := by
  unfold State.sendWithdraw
  try dsimp only
  repeat' (first
    | with_reducible assumption | with_reducible apply Keeps.ite | with_reducible apply Keeps.fold | with_reducible apply State.flood_keeps
    | with_reducible apply State.withdrawLocal_keeps | (intro _; intros; try dsimp only) | split | with_reducible apply Keeps.other)

theorem State.raiseOne_keeps {base : State} {s : State} {p : Nat} {c : Code} {w : Cause} (hbase : Keeps base s) : Keeps base (State.raiseOne s p c w) := by
  unfold State.raiseOne
  try dsimp only
  repeat' (first
    | with_reducible assumption | with_reducible apply Keeps.ite | with_reducible apply Keeps.fold | with_reducible apply State.fset_keeps
    | with_reducible apply State.logFault_keeps | with_reducible apply State.haltPart_keeps | (intro _; intros; try dsimp only) | split
    | with_reducible apply Keeps.other)

theorem State.faultIrq_keeps {base : State} {s : State} {p key : Nat} (hbase : Keeps base s) : Keeps base (State.faultIrq s p key) := by
  unfold State.faultIrq
  try dsimp only
  repeat' (first
    | with_reducible assumption | with_reducible apply Keeps.ite | with_reducible apply Keeps.fold | with_reducible apply State.queueIrq_keeps
    | (intro _; intros; try dsimp only) | split | with_reducible apply Keeps.other)

theorem State.endMember_keeps {base : State} {s : State} {p : Nat} (hbase : Keeps base s) : Keeps base (State.endMember s p) := by
  unfold State.endMember
  try dsimp only
  repeat' (first
    | with_reducible assumption | with_reducible apply Keeps.ite | with_reducible apply Keeps.fold | with_reducible apply State.fset_keeps
    | with_reducible apply State.updDom_keeps | (intro _; intros; try dsimp only) | split | with_reducible apply Keeps.other)

theorem State.stallOne_keeps {base : State} {s : State} {p : Nat} {f : FaultOrigin} (hbase : Keeps base s) : Keeps base (State.stallOne s p f) := by
  unfold State.stallOne
  try dsimp only
  repeat' (first
    | with_reducible assumption | with_reducible apply Keeps.ite | with_reducible apply Keeps.fold | with_reducible apply State.fsets_keeps
    | with_reducible apply State.logFault_keeps | with_reducible apply State.raiseOne_keeps | with_reducible apply State.faultIrq_keeps
    | with_reducible apply State.endMember_keeps | (intro _; intros; try dsimp only) | split | with_reducible apply Keeps.other)

theorem State.stallAll_keeps {base : State} {s : State} {p : Nat} {not : Option Nat} {f : FaultOrigin} (hbase : Keeps base s) : Keeps base (State.stallAll s p not f) := by
  unfold State.stallAll
  try dsimp only
  repeat' (first
    | with_reducible assumption | with_reducible apply Keeps.ite | with_reducible apply Keeps.fold | with_reducible apply Keeps.each
    | with_reducible apply State.floodDom_keeps | with_reducible apply State.endDom_keeps | with_reducible apply State.stallOne_keeps
    | (intro _; intros; try dsimp only) | split | with_reducible apply Keeps.other)

theorem State.tellDomain_keeps {base : State} {s : State} {p : Nat} {c : Code} (hbase : Keeps base s) : Keeps base (State.tellDomain s p c) := by
  unfold State.tellDomain
  try dsimp only
  repeat' (first
    | with_reducible assumption | with_reducible apply Keeps.ite | with_reducible apply Keeps.fold | with_reducible apply State.fset_keeps
    | with_reducible apply State.updDom_keeps | with_reducible apply State.sendUp_keeps | with_reducible apply State.sendWithdraw_keeps
    | with_reducible apply State.endMember_keeps | with_reducible apply State.stallAll_keeps | (intro _; intros; try dsimp only) | split
    | with_reducible apply Keeps.other)

theorem State.raiseCore_keeps {base : State} {s : State} {p : Nat} {c : Code} {w : Cause} (hbase : Keeps base s) : Keeps base (State.raiseCore s p c w) := by
  unfold State.raiseCore
  try dsimp only
  repeat' (first
    | with_reducible assumption | with_reducible apply Keeps.ite | with_reducible apply Keeps.fold | with_reducible apply State.record_keeps
    | with_reducible apply State.logFault_keeps | with_reducible apply State.raiseOne_keeps | with_reducible apply State.tellDomain_keeps
    | (intro _; intros; try dsimp only) | split | with_reducible apply Keeps.other)

theorem State.raise_keeps {base : State} {s : State} {p : Nat} {c : Code} {w : Cause} (hbase : Keeps base s) : Keeps base (State.raise s p c w) := by
  unfold State.raise
  try dsimp only
  repeat' (first
    | with_reducible assumption | with_reducible apply Keeps.ite | with_reducible apply Keeps.fold | with_reducible apply State.faultIrq_keeps
    | with_reducible apply State.raiseCore_keeps | (intro _; intros; try dsimp only) | split | with_reducible apply Keeps.other)

theorem State.writeEntry_keeps {base : State} {s : State} {n : Nat} {d : Desc} (hbase : Keeps base s) : Keeps base (State.writeEntry s n d) := by
  unfold State.writeEntry
  try dsimp only
  repeat' (first
    | with_reducible assumption | with_reducible apply Keeps.ite | with_reducible apply Keeps.fold | with_reducible apply State.fset_keeps
    | with_reducible apply State.storeNat_keeps | (intro _; intros; try dsimp only) | split | with_reducible apply Keeps.other)

theorem State.ringIrq_keeps {base : State} {s : State} {n : Nat} {wrote : Bool} (hbase : Keeps base s) : Keeps base (State.ringIrq s n wrote) := by
  unfold State.ringIrq
  try dsimp only
  repeat' (first
    | with_reducible assumption | with_reducible apply Keeps.ite | with_reducible apply Keeps.fold | with_reducible apply State.queueIrq_keeps
    | (intro _; intros; try dsimp only) | split | with_reducible apply Keeps.other)

theorem State.settleRing_keeps {base : State} {s : State} {n : Nat} (hbase : Keeps base s) : Keeps base (State.settleRing s n) := by
  unfold State.settleRing
  try dsimp only
  repeat' (first
    | with_reducible assumption | with_reducible apply Keeps.ite | with_reducible apply Keeps.fold | with_reducible apply State.fset_keeps
    | (intro _; intros; try dsimp only) | split | with_reducible apply Keeps.other)

theorem State.finishRing_keeps {base : State} {s : State} {n : Nat} {d : Desc} (hbase : Keeps base s) : Keeps base (State.finishRing s n d) := by
  unfold State.finishRing
  try dsimp only
  repeat' (first
    | with_reducible assumption | with_reducible apply Keeps.ite | with_reducible apply Keeps.fold | with_reducible apply State.fadd_keeps
    | with_reducible apply State.updRing_keeps | with_reducible apply State.writeEntry_keeps | with_reducible apply State.ringIrq_keeps
    | with_reducible apply State.settleRing_keeps | (intro _; intros; try dsimp only) | split | with_reducible apply Keeps.other)

theorem State.descFault_keeps {base : State} {s : State} {o : Origin} {d : Desc} {c : Code} {w : Cause} (hbase : Keeps base s) : Keeps base (State.descFault s o d c w) := by
  unfold State.descFault
  try dsimp only
  repeat' (first
    | with_reducible assumption | with_reducible apply Keeps.ite | with_reducible apply Keeps.fold | with_reducible apply State.updSlot_keeps
    | with_reducible apply State.faultIrq_keeps | with_reducible apply State.raiseCore_keeps | with_reducible apply State.finishRing_keeps
    | (intro _; intros; try dsimp only) | split | with_reducible apply Keeps.other)

end Sys2Proof.Machine
end

