-- ==== Sys2Proof/Laws/KeepsSector.lean ====
section
/-! SUPPORT. What the operations of Sys2Proof/Machine/Sector.lean keep (Laws/Keeps.lean). -/
namespace Sys2Proof.Machine

set_option linter.unusedTactic false
set_option linter.unreachableTactic false

theorem State.setErrs_keeps {base : State} {s : State} {a : Nat} {e : List (Nat × Byte)} (hbase : Keeps base s) : Keeps base (State.setErrs s a e) := by
  unfold State.setErrs
  try dsimp only
  repeat' (first
    | with_reducible assumption | with_reducible apply Keeps.ite | with_reducible apply Keeps.fold | (intro _; intros; try dsimp only) | split
    | with_reducible apply Keeps.other)

theorem State.strike_keeps {base : State} {s : State} {u : ReadUpset} (hbase : Keeps base s) : Keeps base (State.strike s u) := by
  unfold State.strike
  try dsimp only
  repeat' (first
    | with_reducible assumption | with_reducible apply Keeps.ite | with_reducible apply Keeps.fold | with_reducible apply Keeps.each
    | with_reducible apply State.strikeLine_keeps | with_reducible apply State.setErrs_keeps | (intro _; intros; try dsimp only) | split
    | with_reducible apply Keeps.other)

theorem State.countCorrection_keeps {base : State} {s : State} {a : Nat} (hbase : Keeps base s) : Keeps base (State.countCorrection s a) := by
  unfold State.countCorrection
  try dsimp only
  repeat' (first
    | with_reducible assumption | with_reducible apply Keeps.ite | with_reducible apply Keeps.fold | with_reducible apply State.fadd_keeps
    | with_reducible apply State.updStack_keeps | with_reducible apply State.updRegion_keeps | with_reducible apply State.record_keeps
    | (intro _; intros; try dsimp only) | split | with_reducible apply Keeps.other)

theorem State.applyErrs_keeps {base : State} {s : State} {a : Nat} {e : List (Nat × Byte)} (hbase : Keeps base s) : Keeps base (State.applyErrs s a e) := by
  unfold State.applyErrs
  try dsimp only
  repeat' (first
    | with_reducible assumption | with_reducible apply Keeps.ite | with_reducible apply Keeps.fold | with_reducible apply Keeps.each
    | (intro _; intros; try dsimp only) | split | with_reducible apply Keeps.other | with_reducible apply Keeps.bytes
    | with_reducible apply Keeps.zero | with_reducible apply Keeps.byte)

theorem State.logUncorr_keeps {base : State} {s : State} {a : Nat} {scrub : Bool} (hbase : Keeps base s) : Keeps base (State.logUncorr s a scrub) := by
  unfold State.logUncorr
  try dsimp only
  repeat' (first
    | with_reducible assumption | with_reducible apply Keeps.ite | with_reducible apply Keeps.fold | with_reducible apply State.fsets_keeps
    | with_reducible apply State.fadd_keeps | (intro _; intros; try dsimp only) | split | with_reducible apply Keeps.other)

theorem State.readQuiet_keeps {base : State} {s : State} {a : Nat} {scrub : Bool} (hbase : Keeps base s) : Keeps base (State.readQuiet s a scrub).1 := by
  unfold State.readQuiet
  try dsimp only
  repeat' (first
    | with_reducible assumption | with_reducible apply Keeps.ite | with_reducible apply Keeps.fold | with_reducible apply State.setErrs_keeps
    | with_reducible apply State.countCorrection_keeps | with_reducible apply State.applyErrs_keeps | with_reducible apply State.logUncorr_keeps
    | (intro _; intros; try dsimp only) | split | with_reducible apply Keeps.other)

theorem State.readSector_keeps {base : State} {s : State} {a : Nat} {scrub : Bool} (hbase : Keeps base s) : Keeps base (State.readSector s a scrub).1 := by
  unfold State.readSector
  try dsimp only
  repeat' (first
    | with_reducible assumption | refine Keeps.of_fst (by with_reducible assumption) ?_ | with_reducible apply Keeps.ite
    | with_reducible apply Keeps.fold | with_reducible apply State.raise_keeps | with_reducible apply State.readQuiet_keeps
    | (intro _; intros; try dsimp only) | split | with_reducible apply Keeps.other)

theorem State.readRanges_keeps {base : State} {s : State} {ranges : List (Nat × Nat)} (hbase : Keeps base s) : Keeps base (State.readRanges s ranges).1 := by
  unfold State.readRanges
  try dsimp only
  repeat' (first
    | with_reducible assumption | refine Keeps.of_fst (by with_reducible assumption) ?_ | with_reducible apply Keeps.ite
    | with_reducible apply Keeps.fold | with_reducible apply Keeps.foldFst | with_reducible apply State.readSector_keeps
    | (intro _; intros; try dsimp only) | split | with_reducible apply Keeps.other)

theorem State.readFor_keeps {base : State} {s : State} {p : Nat} {ranges : List (Nat × Nat)} (hbase : Keeps base s) : Keeps base (State.readFor s p ranges).1 := by
  unfold State.readFor
  try dsimp only
  repeat' (first
    | with_reducible assumption | refine Keeps.of_fst (by with_reducible assumption) ?_ | with_reducible apply Keeps.ite
    | with_reducible apply Keeps.fold | with_reducible apply Keeps.foldFst | with_reducible apply State.injFire_keeps
    | with_reducible apply State.countCorrection_keeps | with_reducible apply State.logUncorr_keeps | with_reducible apply State.readQuiet_keeps
    | (intro _; intros; try dsimp only) | split | with_reducible apply Keeps.other)

theorem State.writeRange_keeps {base : State} {s : State} {a len : Nat} (hbase : Keeps base s) : Keeps base (State.writeRange s a len).1 := by
  unfold State.writeRange
  try dsimp only
  repeat' (first
    | with_reducible assumption | refine Keeps.of_fst (by with_reducible assumption) ?_ | with_reducible apply Keeps.ite
    | with_reducible apply Keeps.fold | with_reducible apply Keeps.foldFst | with_reducible apply State.goodOver_keeps
    | with_reducible apply State.readQuiet_keeps | (intro _; intros; try dsimp only) | split | with_reducible apply Keeps.other)

theorem State.memFault_keeps {base : State} {s : State} {a : Nat} {owner : Owner} (hbase : Keeps base s) : Keeps base (State.memFault s a owner) := by
  unfold State.memFault
  try dsimp only
  repeat' (first
    | with_reducible assumption | with_reducible apply Keeps.ite | with_reducible apply Keeps.fold | with_reducible apply State.raise_keeps
    | with_reducible apply State.descFault_keeps | (intro _; intros; try dsimp only) | split | with_reducible apply Keeps.other)

theorem State.putSram_keeps {base s : State} {owner : Owner} {l : List (Nat × Nat)} {bs : List Byte} (h : Keeps base s) :
    Keeps base (State.putSram s owner l bs) := by
  induction l generalizing s bs with
  | nil => exact h
  | cons e t ih =>
    unfold State.putSram
    refine ih ?_
    split
    · exact State.noteAccess_keeps h
    · exact h
    · exact State.store_keeps h

theorem State.noteReads_keeps {base : State} {s : State} {ranges : List (Nat × Nat)} (hbase : Keeps base s) : Keeps base (State.noteReads s ranges) := by
  unfold State.noteReads
  try dsimp only
  repeat' (first
    | with_reducible assumption | with_reducible apply Keeps.ite | with_reducible apply Keeps.fold | with_reducible apply Keeps.each
    | with_reducible apply State.noteAccess_keeps | (intro _; intros; try dsimp only) | split | with_reducible apply Keeps.other)

theorem State.putBytes_keeps {base : State} {s : State} {owner : Owner} {a : Nat} {data : List Byte} (hbase : Keeps base s) : Keeps base (State.putBytes s owner a data) := by
  unfold State.putBytes
  try dsimp only
  repeat' (first
    | with_reducible assumption | refine Keeps.of_fst (by with_reducible assumption) ?_ | with_reducible apply Keeps.ite
    | with_reducible apply Keeps.fold | with_reducible apply State.store_keeps | with_reducible apply State.writeRange_keeps
    | with_reducible apply State.memFault_keeps | (intro _; intros; try dsimp only) | split | with_reducible apply Keeps.other)

theorem State.put_keeps {base : State} {s : State} {a : Nat} {data : List Byte} {owner : Owner} (hbase : Keeps base s) : Keeps base (State.put s a data owner) := by
  unfold State.put
  try dsimp only
  repeat' (first
    | with_reducible assumption | with_reducible apply Keeps.ite | with_reducible apply Keeps.fold | with_reducible apply Keeps.each
    | with_reducible apply State.putSram_keeps | with_reducible apply State.putBytes_keeps | (intro _; intros; try dsimp only) | split
    | with_reducible apply Keeps.other)

theorem State.book_keeps {base : State} {s : State} {p kind unit beat : Nat} (hbase : Keeps base s) : Keeps base (State.book s p kind unit beat) := by
  unfold State.book
  try dsimp only
  repeat' (first
    | with_reducible assumption | with_reducible apply Keeps.ite | with_reducible apply Keeps.fold | with_reducible apply State.updPart_keeps
    | (intro _; intros; try dsimp only) | split | with_reducible apply Keeps.other)

theorem State.moveBooking_keeps {base : State} {s : State} {p : Nat} {b : Booking} (hbase : Keeps base s) : Keeps base (State.moveBooking s p b) := by
  unfold State.moveBooking
  try dsimp only
  repeat' (first
    | with_reducible assumption | with_reducible apply Keeps.ite | with_reducible apply Keeps.fold | with_reducible apply State.fset_keeps
    | with_reducible apply State.updPart_keeps | with_reducible apply State.noteHub_keeps | with_reducible apply State.book_keeps
    | (intro _; intros; try dsimp only) | split | with_reducible apply Keeps.other)

end Sys2Proof.Machine
end

