-- ==== Sys2Proof/Laws/KeepsXlate.lean ====
section
/-! SUPPORT. What the operations of Sys2Proof/Machine/Xlate.lean keep (Laws/Keeps.lean). -/
namespace Sys2Proof.Machine

set_option linter.unusedTactic false
set_option linter.unreachableTactic false

theorem State.xlateRead_keeps {base s : State} {p va len : Nat} {write : Bool} {fuel : Nat} (h : Keeps base s) :
    Keeps base (State.xlateRead s p va len write fuel).1 := by
  induction fuel generalizing s with
  | zero => exact h
  | succ n ih =>
    unfold State.xlateRead
    split
    · dsimp only
      split
      · exact ih (State.readQuiet_keeps h)
      · exact State.readQuiet_keeps h
    · exact h

theorem State.putRanges_keeps {base s : State} {owner : Owner} {l : List (Nat × Nat)} {bs : List Byte} (h : Keeps base s) :
    Keeps base (State.putRanges s owner l bs) := by
  induction l generalizing s bs with
  | nil => exact h
  | cons e t ih => exact ih (State.put_keeps h)

theorem State.vstore_keeps {base : State} {s : State} {p va : Nat} {bs : List Byte} {owner : Owner} (hbase : Keeps base s) : Keeps base (State.vstore s p va bs owner) := by
  unfold State.vstore
  try dsimp only
  repeat' (first
    | with_reducible assumption | with_reducible apply Keeps.ite | with_reducible apply Keeps.fold | with_reducible apply State.putRanges_keeps
    | (intro _; intros; try dsimp only) | split | with_reducible apply Keeps.other)

end Sys2Proof.Machine
end

