-- ==== Sys2Proof/Laws/KeepsNarrow.lean ====
section
/-! SUPPORT. What the operations of Sys2Proof/Machine/Narrow.lean keep (Laws/Keeps.lean). -/
namespace Sys2Proof.Machine

set_option linter.unusedTactic false
set_option linter.unreachableTactic false

theorem State.mergeAt_keeps {base : State} {s : State} {m : HealthMerge} (hbase : Keeps base s) : Keeps base (State.mergeAt s m) := by
  have h := State.readFor_keeps (p := m.part) (ranges := [(m.at_, 64)]) hbase
  unfold State.mergeAt
  split
  · rename_i e; rw [e] at h; exact State.memFault_keeps h
  · rename_i e; rw [e] at h; exact State.putRanges_keeps h

theorem State.mergesGo_keeps {base : State} {s : State} (hbase : Keeps base s) : Keeps base (State.mergesGo s) := by
  unfold State.mergesGo
  try dsimp only
  repeat' (first
    | with_reducible assumption | with_reducible apply Keeps.ite | with_reducible apply Keeps.fold | with_reducible apply Keeps.foldFst
    | with_reducible apply State.updGlk_keeps | with_reducible apply State.askStream_keeps | with_reducible apply State.mergeAt_keeps
    | (intro _; intros; try dsimp only) | split | with_reducible apply Keeps.other)

theorem State.mergeHealth_keeps {base : State} {s : State} {p addr : Nat} {h : Health} {tensor tkind format : Nat} {owner : Owner} (hbase : Keeps base s) : Keeps base (State.mergeHealth s p addr h tensor tkind format owner) := by
  unfold State.mergeHealth
  try dsimp only
  repeat' (first
    | with_reducible assumption | with_reducible apply Keeps.ite | with_reducible apply Keeps.fold | with_reducible apply State.updGlk_keeps
    | with_reducible apply State.mergeAt_keeps | with_reducible apply State.mergesGo_keeps | (intro _; intros; try dsimp only) | split
    | with_reducible apply Keeps.other)

end Sys2Proof.Machine
end

