-- ==== Sys2Proof/Laws/KeepsJars.lean ====
section
/-! SUPPORT. What the operations of Sys2Proof/Machine/Jars.lean keep (Laws/Keeps.lean). -/
namespace Sys2Proof.Machine

set_option linter.unusedTactic false
set_option linter.unreachableTactic false

/-- A drop's outcome keeps. -/
def JarOut.Keeps (a : State) : JarOut → Prop
  | .done s => Machine.Keeps a s
  | .misuse s => Machine.Keeps a s

theorem JarOut.keeps_done {a s : State} (h : Machine.Keeps a s) : JarOut.Keeps a (.done s) := h
theorem JarOut.keeps_misuse {a s : State} (h : Machine.Keeps a s) : JarOut.Keeps a (.misuse s) := h
theorem JarOut.of_done {a s : State} {x : JarOut} (h : JarOut.Keeps a x) (e : x = .done s) : Machine.Keeps a s := by subst e; exact h
theorem JarOut.of_misuse {a s : State} {x : JarOut} (h : JarOut.Keeps a x) (e : x = .misuse s) : Machine.Keeps a s := by subst e; exact h

theorem State.xset_keeps {base : State} {s : State} {r k i : Nat} {v : Word} (hbase : Keeps base s) : Keeps base (State.xset s r k i v) := by
  unfold State.xset
  try dsimp only
  repeat' (first
    | with_reducible assumption | with_reducible apply Keeps.ite | with_reducible apply Keeps.fold | with_reducible apply State.updSlot_keeps
    | (intro _; intros; try dsimp only) | split | with_reducible apply Keeps.other)

theorem State.retire_keeps {base : State} {s : State} {r k rd : Nat} {v : Word} {pc : Nat} (hbase : Keeps base s) : Keeps base (State.retire s r k rd v pc) := by
  unfold State.retire
  try dsimp only
  repeat' (first
    | with_reducible assumption | with_reducible apply Keeps.ite | with_reducible apply Keeps.fold | with_reducible apply State.fset_keeps
    | with_reducible apply State.updSlot_keeps | with_reducible apply State.xset_keeps | (intro _; intros; try dsimp only) | split
    | with_reducible apply Keeps.other)

theorem State.ccTrap_keeps {base : State} {s : State} {r k cause : Nat} (hbase : Keeps base s) : Keeps base (State.ccTrap s r k cause) := by
  unfold State.ccTrap
  try dsimp only
  repeat' (first
    | with_reducible assumption | with_reducible apply Keeps.ite | with_reducible apply Keeps.fold | with_reducible apply State.fsets_keeps
    | with_reducible apply State.raise_keeps | (intro _; intros; try dsimp only) | split | with_reducible apply Keeps.other)

theorem State.retireNext_keeps {base : State} {s : State} {r k rd : Nat} {v : Word} (hbase : Keeps base s) : Keeps base (State.retireNext s r k rd v) := by
  unfold State.retireNext
  try dsimp only
  repeat' (first
    | with_reducible assumption | with_reducible apply Keeps.ite | with_reducible apply Keeps.fold | with_reducible apply State.retire_keeps
    | with_reducible apply State.ccTrap_keeps | (intro _; intros; try dsimp only) | split | with_reducible apply Keeps.other)

theorem State.served_keeps {base s : State} {w : Waiter} (h : Keeps base s) : Keeps base (State.served s w) := by
  cases w with
  | desc o id => exact State.updDesc_keeps h
  | core r k => exact State.retireNext_keeps h

theorem State.setJar_keeps {base : State} {s : State} {p j : Nat} {x : Jar} (hbase : Keeps base s) : Keeps base (State.setJar s p j x) := by
  unfold State.setJar
  try dsimp only
  repeat' (first
    | with_reducible assumption | with_reducible apply Keeps.ite | with_reducible apply Keeps.fold | with_reducible apply State.updPart_keeps
    | (intro _; intros; try dsimp only) | split | with_reducible apply Keeps.other)

theorem State.settleJar_keeps {base : State} {s : State} {p j : Nat} {x : Jar} (hbase : Keeps base s) : Keeps base (State.settleJar s p j x) := by
  unfold State.settleJar
  try dsimp only
  repeat' (first
    | with_reducible assumption | with_reducible apply Keeps.ite | with_reducible apply Keeps.fold | with_reducible apply Keeps.each
    | with_reducible apply State.served_keeps | with_reducible apply State.setJar_keeps | (intro _; intros; try dsimp only) | split
    | with_reducible apply Keeps.other)

theorem State.holdOp_keeps {base : State} {s : State} {p : Nat} {x : HeldOp} (hbase : Keeps base s) : Keeps base (State.holdOp s p x) := by
  unfold State.holdOp
  try dsimp only
  repeat' (first
    | with_reducible assumption | with_reducible apply Keeps.ite | with_reducible apply Keeps.fold | with_reducible apply State.updPart_keeps
    | (intro _; intros; try dsimp only) | split | with_reducible apply Keeps.other)

theorem State.dropJar_keeps {base : State} {s : State} {p j n unit : Nat} (hbase : Keeps base s) : JarOut.Keeps base (State.dropJar s p j n unit) := by
  unfold State.dropJar
  try dsimp only
  repeat' (first
    | with_reducible assumption | with_reducible apply Keeps.ite | with_reducible apply Keeps.fold | with_reducible apply State.updPart_keeps
    | with_reducible apply State.injFire_keeps | with_reducible apply State.settleJar_keeps | with_reducible apply JarOut.keeps_done
    | with_reducible apply JarOut.keeps_misuse | (intro _; intros; try dsimp only) | split | with_reducible apply Keeps.other)

theorem State.takeJar_keeps {base : State} {s : State} {p j n : Nat} {w : Waiter} (hbase : Keeps base s) : OptPairKeeps base (State.takeJar s p j n w) := by
  unfold State.takeJar
  try dsimp only
  repeat' (first
    | with_reducible assumption | with_reducible apply Keeps.ite | with_reducible apply Keeps.fold | with_reducible apply State.setJar_keeps
    | with_reducible apply State.holdOp_keeps | with_reducible apply OptPairKeeps.none | with_reducible apply OptPairKeeps.some
    | (intro _; intros; try dsimp only) | split | with_reducible apply Keeps.other)

theorem State.dropOr_keeps {base : State} {s : State} {p j n : Nat} {w : Cause} (hbase : Keeps base s) : Keeps base (State.dropOr s p j n w) := by
  unfold State.dropOr
  try dsimp only
  repeat' (first
    | with_reducible assumption | with_reducible apply Keeps.ite | with_reducible apply Keeps.fold | with_reducible apply State.raise_keeps
    | with_reducible apply State.dropJar_keeps | with_reducible apply JarOut.keeps_done | with_reducible apply JarOut.keeps_misuse
    | refine JarOut.of_done ?_ (by with_reducible assumption) | refine JarOut.of_misuse ?_ (by with_reducible assumption)
    | (intro _; intros; try dsimp only) | split | with_reducible apply Keeps.other)

theorem State.dropTogether_keeps {base : State} {s : State} {p : Nat} {l : List (Nat × Nat)} {w : Cause} (hbase : Keeps base s) : Keeps base (State.dropTogether s p l w) := by
  unfold State.dropTogether
  try dsimp only
  repeat' (first
    | with_reducible assumption | with_reducible apply Keeps.ite | with_reducible apply Keeps.fold | with_reducible apply Keeps.each
    | with_reducible apply State.raise_keeps | with_reducible apply State.dropOr_keeps | (intro _; intros; try dsimp only) | split
    | with_reducible apply Keeps.other)

end Sys2Proof.Machine
end

