-- ==== Sys2Proof/Laws/KeepsQueues.lean ====
section
/-! SUPPORT. What the operations of Sys2Proof/Machine/Queues.lean keep (Laws/Keeps.lean). -/
namespace Sys2Proof.Machine

set_option linter.unusedTactic false
set_option linter.unreachableTactic false

theorem State.setCoreQ_keeps {base : State} {s : State} {r k q : Nat} {x : CoreQueue} (hbase : Keeps base s) : Keeps base (State.setCoreQ s r k q x) := by
  unfold State.setCoreQ
  try dsimp only
  repeat' (first
    | with_reducible assumption | with_reducible apply Keeps.ite | with_reducible apply Keeps.fold | with_reducible apply State.updSlot_keeps
    | (intro _; intros; try dsimp only) | split | with_reducible apply Keeps.other)

theorem State.stickEntry_keeps {base : State} {s : State} {r k q : Nat} (hbase : Keeps base s) : Keeps base (State.stickEntry s r k q) := by
  unfold State.stickEntry
  try dsimp only
  repeat' (first
    | with_reducible assumption | with_reducible apply Keeps.ite | with_reducible apply Keeps.fold | with_reducible apply State.setCoreQ_keeps
    | (intro _; intros; try dsimp only) | split | with_reducible apply Keeps.other)

end Sys2Proof.Machine
end

