-- ==== Sys2Proof/Laws/KeepsFabric.lean ====
section
/-! SUPPORT. What the operations of Sys2Proof/Machine/Fabric.lean keep (Laws/Keeps.lean). -/
namespace Sys2Proof.Machine

set_option linter.unusedTactic false
set_option linter.unreachableTactic false

theorem State.returnCredit_keeps {base : State} {s : State} {p vc dl : Nat} (hbase : Keeps base s) : Keeps base (State.returnCredit s p vc dl) := by
  unfold State.returnCredit
  try dsimp only
  repeat' (first
    | with_reducible assumption | with_reducible apply Keeps.ite | with_reducible apply Keeps.fold | with_reducible apply State.emit_keeps
    | (intro _; intros; try dsimp only) | split | with_reducible apply Keeps.other)

theorem State.fabEmit_keeps {base : State} {s : State} {p : Nat} {f : Flit} {src : Option (Nat × Nat × Nat)} (hbase : Keeps base s) : Keeps base (State.fabEmit s p f src) := by
  unfold State.fabEmit
  try dsimp only
  repeat' (first
    | with_reducible assumption | with_reducible apply Keeps.ite | with_reducible apply Keeps.fold | with_reducible apply State.emit_keeps
    | with_reducible apply State.updPort_keeps | with_reducible apply State.returnCredit_keeps | (intro _; intros; try dsimp only) | split
    | with_reducible apply Keeps.other)

theorem State.fabSlot_keeps {base : State} {s : State} {p : Nat} {w : Flit × Option (Nat × Nat × Nat)} (hbase : Keeps base s) : Keeps base (State.fabSlot s p w) := by
  unfold State.fabSlot
  try dsimp only
  repeat' (first
    | with_reducible assumption | with_reducible apply Keeps.ite | with_reducible apply Keeps.fold | with_reducible apply State.updPort_keeps
    | with_reducible apply State.fabEmit_keeps | (intro _; intros; try dsimp only) | split | with_reducible apply Keeps.other)

theorem State.fabSlots_keeps {base s : State} {p n : Nat} (h : Keeps base s) : Keeps base (State.fabSlots s p n) := by
  induction n generalizing s with
  | zero => exact h
  | succ n ih =>
    unfold State.fabSlots
    split
    · exact ih (State.fabSlot_keeps h)
    · exact h

theorem State.fabDrain_keeps {base : State} {s : State} {p : Nat} (hbase : Keeps base s) : Keeps base (State.fabDrain s p) := by
  unfold State.fabDrain
  try dsimp only
  repeat' (first
    | with_reducible assumption | with_reducible apply Keeps.ite | with_reducible apply Keeps.fold | with_reducible apply State.fabSlots_keeps
    | (intro _; intros; try dsimp only) | split | with_reducible apply Keeps.other)

theorem State.fabPut_keeps {base : State} {s : State} {p : Nat} {f : Flit} {src : Option (Nat × Nat × Nat)} (hbase : Keeps base s) : Keeps base (State.fabPut s p f src) := by
  unfold State.fabPut
  try dsimp only
  repeat' (first
    | with_reducible assumption | with_reducible apply Keeps.ite | with_reducible apply Keeps.fold | with_reducible apply State.updPort_keeps
    | with_reducible apply State.fabDrain_keeps | (intro _; intros; try dsimp only) | split | with_reducible apply Keeps.other)

theorem State.sendFlit_keeps {base : State} {s : State} {f : Flit} (hbase : Keeps base s) : OptKeeps base (State.sendFlit s f) := by
  unfold State.sendFlit
  try dsimp only
  repeat' (first
    | with_reducible assumption | with_reducible apply Keeps.ite | with_reducible apply Keeps.fold | with_reducible apply State.fabPut_keeps
    | with_reducible apply OptKeeps.none | with_reducible apply OptKeeps.some | with_reducible apply OptKeeps.map
    | with_reducible apply OptKeeps.bind | (intro _; intros; try dsimp only) | split | with_reducible apply Keeps.other)

theorem State.logNoRoute_keeps {base : State} {s : State} {p node : Nat} (hbase : Keeps base s) : Keeps base (State.logNoRoute s p node) := by
  unfold State.logNoRoute
  try dsimp only
  repeat' (first
    | with_reducible assumption | with_reducible apply Keeps.ite | with_reducible apply Keeps.fold | with_reducible apply State.fsets_keeps
    | (intro _; intros; try dsimp only) | split | with_reducible apply Keeps.other)

theorem State.noRoute_keeps {base : State} {s : State} {p node : Nat} (hbase : Keeps base s) : Keeps base (State.noRoute s p node) := by
  unfold State.noRoute
  try dsimp only
  repeat' (first
    | with_reducible assumption | with_reducible apply Keeps.ite | with_reducible apply Keeps.fold | with_reducible apply State.raise_keeps
    | with_reducible apply State.logNoRoute_keeps | (intro _; intros; try dsimp only) | split | with_reducible apply Keeps.other)

theorem State.freeBuffer_keeps {base : State} {s : State} {src : Option (Nat × Nat × Nat)} (hbase : Keeps base s) : Keeps base (State.freeBuffer s src) := by
  unfold State.freeBuffer
  try dsimp only
  repeat' (first
    | with_reducible assumption | with_reducible apply Keeps.ite | with_reducible apply Keeps.fold | with_reducible apply State.returnCredit_keeps
    | (intro _; intros; try dsimp only) | split | with_reducible apply Keeps.other)

theorem State.clearPort_keeps {base : State} {s : State} {p : Nat} (hbase : Keeps base s) : Keeps base (State.clearPort s p) := by
  unfold State.clearPort
  try dsimp only
  repeat' (first
    | with_reducible assumption | with_reducible apply Keeps.ite | with_reducible apply Keeps.fold | with_reducible apply Keeps.each
    | with_reducible apply State.updPort_keeps | with_reducible apply State.freeBuffer_keeps | (intro _; intros; try dsimp only) | split
    | with_reducible apply Keeps.other)

theorem State.linkDown_keeps {base : State} {s : State} {q p : Nat} (hbase : Keeps base s) : Keeps base (State.linkDown s q p) := by
  unfold State.linkDown
  try dsimp only
  repeat' (first
    | with_reducible assumption | with_reducible apply Keeps.ite | with_reducible apply Keeps.fold | with_reducible apply State.fsets_keeps
    | with_reducible apply State.raise_keeps | (intro _; intros; try dsimp only) | split | with_reducible apply Keeps.other)

theorem State.portDown_keeps {base : State} {s : State} {p : Nat} (hbase : Keeps base s) : Keeps base (State.portDown s p) := by
  unfold State.portDown
  try dsimp only
  repeat' (first
    | with_reducible assumption | with_reducible apply Keeps.ite | with_reducible apply Keeps.fold | with_reducible apply Keeps.each
    | with_reducible apply State.fsets_keeps | with_reducible apply State.clearPort_keeps | with_reducible apply State.linkDown_keeps
    | (intro _; intros; try dsimp only) | split | with_reducible apply Keeps.other)

theorem State.deviceFatal_keeps {base : State} {s : State} {c : Code} {w : Cause} (hbase : Keeps base s) : Keeps base (State.deviceFatal s c w) := by
  unfold State.deviceFatal
  try dsimp only
  repeat' (first
    | with_reducible assumption | with_reducible apply Keeps.ite | with_reducible apply Keeps.fold | with_reducible apply Keeps.each
    | with_reducible apply State.fsets_keeps | with_reducible apply State.record_keeps | with_reducible apply State.logFault_keeps
    | with_reducible apply State.raiseOne_keeps | with_reducible apply State.faultIrq_keeps | with_reducible apply State.tellDomain_keeps
    | with_reducible apply State.clearPort_keeps | (intro _; intros; try dsimp only) | split | with_reducible apply Keeps.other)

theorem State.reply_keeps {base : State} {s : State} {f : Flit} {reason : Nat} (hbase : Keeps base s) : Keeps base (State.reply s f reason) := by
  unfold State.reply
  try dsimp only
  repeat' (first
    | with_reducible assumption | with_reducible apply Keeps.ite | with_reducible apply Keeps.fold | with_reducible apply State.fabPut_keeps
    | (intro _; intros; try dsimp only) | split | with_reducible apply Keeps.other)

theorem State.fabTake_keeps {base : State} {s : State} {p ack credit cvc cdl : Nat} (hbase : Keeps base s) : Keeps base (State.fabTake s p ack credit cvc cdl) := by
  unfold State.fabTake
  try dsimp only
  repeat' (first
    | with_reducible assumption | with_reducible apply Keeps.ite | with_reducible apply Keeps.fold | with_reducible apply State.updPort_keeps
    | (intro _; intros; try dsimp only) | split | with_reducible apply Keeps.other)

theorem State.fabAck_keeps {base : State} {s : State} {p ack credit cvc cdl : Nat} (hbase : Keeps base s) : Keeps base (State.fabAck s p ack credit cvc cdl) := by
  unfold State.fabAck
  try dsimp only
  repeat' (first
    | with_reducible assumption | with_reducible apply Keeps.ite | with_reducible apply Keeps.fold | with_reducible apply State.fabDrain_keeps
    | with_reducible apply State.fabTake_keeps | (intro _; intros; try dsimp only) | split | with_reducible apply Keeps.other)

theorem State.sendNak_keeps {base : State} {s : State} {p : Nat} (hbase : Keeps base s) : Keeps base (State.sendNak s p) := by
  unfold State.sendNak
  try dsimp only
  repeat' (first
    | with_reducible assumption | with_reducible apply Keeps.ite | with_reducible apply Keeps.fold | with_reducible apply State.emit_keeps
    | with_reducible apply State.updPort_keeps | (intro _; intros; try dsimp only) | split | with_reducible apply Keeps.other)

theorem State.eccOr_keeps {base : State} {s : State} {p : Nat} {e : FlitEcc} {k : State → State} (hbase : Keeps base s) (hk : ∀ x0, Keeps base x0 → Keeps base (k x0)) : Keeps base (State.eccOr s p e k) := by
  unfold State.eccOr
  try dsimp only
  repeat' (first
    | with_reducible assumption | with_reducible apply Keeps.ite | with_reducible apply Keeps.fold | with_reducible apply State.updPort_keeps
    | with_reducible apply State.deviceFatal_keeps | with_reducible apply hk | (intro _; intros; try dsimp only) | split
    | with_reducible apply Keeps.other)

theorem State.fabIn_keeps {base : State} {s : State} {p : Nat} {f : Flit} {k : State → State} (hbase : Keeps base s) (hk : ∀ x0, Keeps base x0 → Keeps base (k x0)) : Keeps base (State.fabIn s p f k) := by
  unfold State.fabIn
  try dsimp only
  repeat' (first
    | with_reducible assumption | with_reducible apply Keeps.ite | with_reducible apply Keeps.fold | with_reducible apply State.updPort_keeps
    | with_reducible apply State.portDown_keeps | with_reducible apply State.fabAck_keeps | with_reducible apply State.sendNak_keeps
    | with_reducible apply State.eccOr_keeps | with_reducible apply hk | (intro _; intros; try dsimp only) | split | with_reducible apply Keeps.other)

theorem State.transit_keeps {base : State} {s : State} {p : Nat} {f : Flit} (hbase : Keeps base s) : Keeps base (State.transit s p f) := by
  unfold State.transit
  try dsimp only
  repeat' (first
    | with_reducible assumption | with_reducible apply Keeps.ite | with_reducible apply Keeps.fold | with_reducible apply State.returnCredit_keeps
    | with_reducible apply State.fabPut_keeps | with_reducible apply State.reply_keeps | (intro _; intros; try dsimp only) | split
    | with_reducible apply Keeps.other)

theorem State.flitIn_keeps {base : State} {s : State} {p : Nat} {f : Flit} {k : State → State} (hbase : Keeps base s) (hk : ∀ x0, Keeps base x0 → Keeps base (k x0)) : Keeps base (State.flitIn s p f k) := by
  unfold State.flitIn
  try dsimp only
  repeat' (first
    | with_reducible assumption | with_reducible apply Keeps.ite | with_reducible apply Keeps.fold | with_reducible apply State.returnCredit_keeps
    | with_reducible apply State.fabIn_keeps | with_reducible apply State.transit_keeps | with_reducible apply hk | (intro _; intros; try dsimp only)
    | split | with_reducible apply Keeps.other)

theorem State.updStream_keeps {base : State} {s : State} {p node part epoch : Nat} {f : Stream → Stream} (hbase : Keeps base s) : Keeps base (State.updStream s p node part epoch f) := by
  unfold State.updStream
  try dsimp only
  repeat' (first
    | with_reducible assumption | with_reducible apply Keeps.ite | with_reducible apply Keeps.fold | with_reducible apply State.updPart_keeps
    | (intro _; intros; try dsimp only) | split | with_reducible apply Keeps.other)

theorem State.creditDrops_keeps {base : State} {s : State} {p node part epoch : Nat} (hbase : Keeps base s) : Keeps base (State.creditDrops s p node part epoch) := by
  unfold State.creditDrops
  try dsimp only
  repeat' (first
    | with_reducible assumption | with_reducible apply Keeps.ite | with_reducible apply Keeps.fold | with_reducible apply Keeps.each
    | with_reducible apply State.emit_keeps | with_reducible apply State.updPart_keeps | with_reducible apply State.dropTogether_keeps
    | with_reducible apply State.updStream_keeps | (intro _; intros; try dsimp only) | split | with_reducible apply Keeps.other)

theorem State.landSettle_keeps {base : State} {s : State} {p node part epoch : Nat} (hbase : Keeps base s) : Keeps base (State.landSettle s p node part epoch) := by
  unfold State.landSettle
  try dsimp only
  repeat' (first
    | with_reducible assumption | with_reducible apply Keeps.ite | with_reducible apply Keeps.fold | with_reducible apply State.updStream_keeps
    | with_reducible apply State.creditDrops_keeps | (intro _; intros; try dsimp only) | split | with_reducible apply Keeps.other)

theorem State.landsGo_keeps {base : State} {s : State} (hbase : Keeps base s) : Keeps base (State.landsGo s) := by
  unfold State.landsGo
  try dsimp only
  repeat' (first
    | with_reducible assumption | with_reducible apply Keeps.ite | with_reducible apply Keeps.fold | with_reducible apply Keeps.each
    | with_reducible apply State.landSettle_keeps | (intro _; intros; try dsimp only) | split | with_reducible apply Keeps.other)

theorem State.landLost_keeps {base : State} {s : State} {p node part epoch upTo : Nat} (hbase : Keeps base s) : Keeps base (State.landLost s p node part epoch upTo) := by
  unfold State.landLost
  try dsimp only
  repeat' (first
    | with_reducible assumption | with_reducible apply Keeps.ite | with_reducible apply Keeps.fold | with_reducible apply State.updStream_keeps
    | (intro _; intros; try dsimp only) | split | with_reducible apply Keeps.other)

end Sys2Proof.Machine
end

