-- ==== Sys2Proof/Laws/KeepsChecking.lean ====
section
/-! SUPPORT. What the operations of Sys2Proof/Machine/Checking.lean keep (Laws/Keeps.lean). -/
namespace Sys2Proof.Machine

set_option linter.unusedTactic false
set_option linter.unreachableTactic false

theorem State.dupSkip_keeps {base : State} {s : State} {r kind : Nat} (hbase : Keeps base s) : Keeps base (State.dupSkip s r kind) := by
  unfold State.dupSkip
  try dsimp only
  repeat' (first
    | with_reducible assumption | with_reducible apply Keeps.ite | with_reducible apply Keeps.fold | with_reducible apply State.fadd_keeps
    | (intro _; intros; try dsimp only) | split | with_reducible apply Keeps.other)

theorem State.dupCount_keeps {base : State} {s : State} {r kind : Nat} (hbase : Keeps base s) : Keeps base (State.dupCount s r kind) := by
  unfold State.dupCount
  try dsimp only
  repeat' (first
    | with_reducible assumption | with_reducible apply Keeps.ite | with_reducible apply Keeps.fold | with_reducible apply State.fadd_keeps
    | (intro _; intros; try dsimp only) | split | with_reducible apply Keeps.other)

theorem State.dupOffer_keeps {base : State} {s : State} {r : Nat} {d : Dup} (hbase : Keeps base s) : Keeps base (State.dupOffer s r d) := by
  unfold State.dupOffer
  try dsimp only
  repeat' (first
    | with_reducible assumption | with_reducible apply Keeps.ite | with_reducible apply Keeps.fold | with_reducible apply State.updRegion_keeps
    | with_reducible apply State.dupSkip_keeps | (intro _; intros; try dsimp only) | split | with_reducible apply Keeps.other)

theorem State.sample_keeps {base : State} {s : State} {r kind slot tag : Nat} {exact : Bool} {unit : Mirror} (hbase : Keeps base s) : Keeps base (State.sample s r kind slot tag exact unit) := by
  unfold State.sample
  try dsimp only
  repeat' (first
    | with_reducible assumption | with_reducible apply Keeps.ite | with_reducible apply Keeps.fold | with_reducible apply State.tick_keeps
    | with_reducible apply State.dupOffer_keeps | (intro _; intros; try dsimp only) | split | with_reducible apply Keeps.other)

theorem State.dupMismatch_keeps {base : State} {s : State} {r : Nat} {d : Dup} (hbase : Keeps base s) : Keeps base (State.dupMismatch s r d) := by
  unfold State.dupMismatch
  try dsimp only
  repeat' (first
    | with_reducible assumption | with_reducible apply Keeps.ite | with_reducible apply Keeps.fold | with_reducible apply State.fsets_keeps
    | with_reducible apply State.suspect_keeps | with_reducible apply State.raise_keeps | (intro _; intros; try dsimp only) | split
    | with_reducible apply Keeps.other)

theorem dupCompare_keeps {base : State} {r twin kind : Nat} {wrong : List (Nat × Byte)} {s : State} (hbase : Keeps base s) : Keeps base (dupCompare r twin kind wrong s) := by
  unfold dupCompare
  try dsimp only
  repeat' (first
    | with_reducible assumption | with_reducible apply Keeps.ite | with_reducible apply Keeps.fold | with_reducible apply State.updRegion_keeps
    | with_reducible apply State.dupCount_keeps | with_reducible apply State.dupMismatch_keeps | (intro _; intros; try dsimp only) | split
    | with_reducible apply Keeps.other)

theorem State.vofsUp_keeps {base : State} {s : State} {r core : Nat} (hbase : Keeps base s) : Keeps base (State.vofsUp s r core) := by
  unfold State.vofsUp
  try dsimp only
  repeat' (first
    | with_reducible assumption | with_reducible apply Keeps.ite | with_reducible apply Keeps.fold | with_reducible apply State.fset_keeps
    | (intro _; intros; try dsimp only) | split | with_reducible apply Keeps.other)

theorem State.voltStep_keeps {base : State} {s : State} {r : Nat} (hbase : Keeps base s) : Keeps base (State.voltStep s r) := by
  unfold State.voltStep
  try dsimp only
  repeat' (first
    | with_reducible assumption | with_reducible apply Keeps.ite | with_reducible apply Keeps.fold | with_reducible apply State.setRail_keeps
    | with_reducible apply State.book_keeps | (intro _; intros; try dsimp only) | split | with_reducible apply Keeps.other)

theorem State.railMoves_keeps {base : State} {s : State} {r : Nat} (hbase : Keeps base s) : Keeps base (State.railMoves s r) := by
  unfold State.railMoves
  try dsimp only
  repeat' (first
    | with_reducible assumption | with_reducible apply Keeps.ite | with_reducible apply Keeps.fold | with_reducible apply State.setRail_keeps
    | with_reducible apply State.voltStep_keeps | (intro _; intros; try dsimp only) | split | with_reducible apply Keeps.other)

theorem State.dropTwin_keeps {base : State} {s : State} {r core : Nat} (hbase : Keeps base s) : Keeps base (State.dropTwin s r core) := by
  unfold State.dropTwin
  try dsimp only
  repeat' (first
    | with_reducible assumption | with_reducible apply Keeps.ite | with_reducible apply Keeps.fold | with_reducible apply State.fsets_keeps
    | (intro _; intros; try dsimp only) | split | with_reducible apply Keeps.other)

theorem State.retireCore_keeps {base : State} {s : State} {r core : Nat} (hbase : Keeps base s) : Keeps base (State.retireCore s r core) := by
  unfold State.retireCore
  try dsimp only
  repeat' (first
    | with_reducible assumption | with_reducible apply Keeps.ite | with_reducible apply Keeps.fold | with_reducible apply State.fset_keeps
    | with_reducible apply State.fsetBit_keeps | with_reducible apply State.updRegion_keeps | with_reducible apply State.setDie_keeps
    | with_reducible apply State.noteHub_keeps | with_reducible apply State.voltStep_keeps | with_reducible apply State.dropTwin_keeps
    | (intro _; intros; try dsimp only) | split | with_reducible apply Keeps.other)

theorem State.kakFail_keeps {base : State} {s : State} {r core : Nat} (hbase : Keeps base s) : Keeps base (State.kakFail s r core) := by
  unfold State.kakFail
  try dsimp only
  repeat' (first
    | with_reducible assumption | with_reducible apply Keeps.ite | with_reducible apply Keeps.fold | with_reducible apply State.fset_keeps
    | with_reducible apply State.fadd_keeps | with_reducible apply State.fsetBit_keeps | with_reducible apply State.record_keeps
    | with_reducible apply State.raise_keeps | (intro _; intros; try dsimp only) | split | with_reducible apply Keeps.other)

theorem State.moreVoltage_keeps {base : State} {s : State} {r core : Nat} (hbase : Keeps base s) : Keeps base (State.moreVoltage s r core) := by
  unfold State.moreVoltage
  try dsimp only
  repeat' (first
    | with_reducible assumption | with_reducible apply Keeps.ite | with_reducible apply Keeps.fold | with_reducible apply State.updRegion_keeps
    | with_reducible apply State.runSuite_keeps | with_reducible apply State.book_keeps | with_reducible apply State.vofsUp_keeps
    | with_reducible apply State.voltStep_keeps | with_reducible apply State.retireCore_keeps | (intro _; intros; try dsimp only) | split
    | with_reducible apply Keeps.other)

theorem State.regionVolts_keeps {base : State} {s : State} {r : Nat} (hbase : Keeps base s) : Keeps base (State.regionVolts s r) := by
  unfold State.regionVolts
  try dsimp only
  repeat' (first
    | with_reducible assumption | with_reducible apply Keeps.ite | with_reducible apply Keeps.fold | with_reducible apply Keeps.each
    | with_reducible apply State.updRegion_keeps | with_reducible apply State.runSuite_keeps | with_reducible apply State.vofsUp_keeps
    | with_reducible apply State.railMoves_keeps | (intro _; intros; try dsimp only) | split | with_reducible apply Keeps.other)

theorem State.settleVolts_keeps {base : State} {s : State} {r : Nat} (hbase : Keeps base s) : Keeps base (State.settleVolts s r) := by
  unfold State.settleVolts
  try dsimp only
  repeat' (first
    | with_reducible assumption | with_reducible apply Keeps.ite | with_reducible apply Keeps.fold | with_reducible apply State.regionVolts_keeps
    | (intro _; intros; try dsimp only) | split | with_reducible apply Keeps.other)

theorem State.suiteFail_keeps {base : State} {s : State} {r core : Nat} (hbase : Keeps base s) : Keeps base (State.suiteFail s r core) := by
  unfold State.suiteFail
  try dsimp only
  repeat' (first
    | with_reducible assumption | with_reducible apply Keeps.ite | with_reducible apply Keeps.fold | with_reducible apply State.updRegion_keeps
    | with_reducible apply State.kakFail_keeps | with_reducible apply State.moreVoltage_keeps | (intro _; intros; try dsimp only) | split
    | with_reducible apply Keeps.other)

theorem State.bookRotation_keeps {base : State} {s : State} {r : Nat} (hbase : Keeps base s) : Keeps base (State.bookRotation s r) := by
  unfold State.bookRotation
  try dsimp only
  repeat' (first
    | with_reducible assumption | with_reducible apply Keeps.ite | with_reducible apply Keeps.fold | with_reducible apply State.fset_keeps
    | with_reducible apply State.book_keeps | (intro _; intros; try dsimp only) | split | with_reducible apply Keeps.other)

end Sys2Proof.Machine
end

