-- ==== Sys2Proof/Laws/KeepsEngine.lean ====
section
/-! SUPPORT. What the operations of Sys2Proof/Machine/Engine.lean keep (Laws/Keeps.lean). -/
namespace Sys2Proof.Machine

set_option linter.unusedTactic false
set_option linter.unreachableTactic false

/-- The end of a run keeps. -/
def Run.Keeps (a : State) : Run → Prop
  | .done s _ => Machine.Keeps a s
  | .going s => Machine.Keeps a s
  | .wait s => Machine.Keeps a s
  | .fault s _ _ => Machine.Keeps a s

theorem Run.keeps_done {a s : State} {r : Nat} (h : Machine.Keeps a s) : Run.Keeps a (.done s r) := h
theorem Run.keeps_going {a s : State} (h : Machine.Keeps a s) : Run.Keeps a (.going s) := h
theorem Run.keeps_wait {a s : State} (h : Machine.Keeps a s) : Run.Keeps a (.wait s) := h
theorem Run.keeps_fault {a s : State} {c : Code} {w : Cause} (h : Machine.Keeps a s) : Run.Keeps a (.fault s c w) := h
theorem Run.of_done {a s : State} {x : Run} {r : Nat} (h : Run.Keeps a x) (e : x = .done s r) : Machine.Keeps a s := by subst e; exact h
theorem Run.of_going {a s : State} {x : Run} (h : Run.Keeps a x) (e : x = .going s) : Machine.Keeps a s := by subst e; exact h
theorem Run.of_wait {a s : State} {x : Run} (h : Run.Keeps a x) (e : x = .wait s) : Machine.Keeps a s := by subst e; exact h
theorem Run.of_fault {a s : State} {x : Run} {c : Code} {w : Cause} (h : Run.Keeps a x) (e : x = .fault s c w) : Machine.Keeps a s := by subst e; exact h

theorem State.askTake_keeps {base : State} {s : State} {o : Origin} {d : Desc} (hbase : Keeps base s) : Keeps base (State.askTake s o d) := by
  unfold State.askTake
  try dsimp only
  repeat' (first
    | with_reducible assumption | with_reducible apply Keeps.ite | with_reducible apply Keeps.fold | with_reducible apply State.updDesc_keeps
    | with_reducible apply State.descFault_keeps | with_reducible apply State.takeJar_keeps | with_reducible apply OptPairKeeps.none
    | with_reducible apply OptPairKeeps.some | refine OptPairKeeps.of_some ?_ (by with_reducible assumption) | (intro _; intros; try dsimp only)
    | split | with_reducible apply Keeps.other)

theorem State.strikeQueue_keeps {base s : State} {r k : Nat} {u : Upset} (h : Keeps base s) : Keeps base (State.strikeQueue s r k u) := by
  unfold State.strikeQueue
  split
  · exact State.stickEntry_keeps h
  · exact h

theorem State.ranDesc_keeps {base : State} {s : State} {o : Origin} {id : Nat} {ready : Bool} {result : Nat} (hbase : Keeps base s) : Keeps base (State.ranDesc s o id ready result) := by
  unfold State.ranDesc
  try dsimp only
  repeat' (first
    | with_reducible assumption | with_reducible apply Keeps.ite | with_reducible apply Keeps.fold | with_reducible apply State.updDesc_keeps
    | (intro _; intros; try dsimp only) | split | with_reducible apply Keeps.other)

theorem State.keepOuts_keeps {base : State} {s : State} {o : Origin} {id : Nat} {c : Code} (hbase : Keeps base s) : Keeps base (State.keepOuts s o id c) := by
  unfold State.keepOuts
  try dsimp only
  repeat' (first
    | with_reducible assumption | with_reducible apply Keeps.ite | with_reducible apply Keeps.fold | with_reducible apply State.updDesc_keeps
    | (intro _; intros; try dsimp only) | split | with_reducible apply Keeps.other)

theorem Run.settle_keeps {base : State} {x : Run} {o : Origin} {d : Desc} {inputs : List (Nat × Nat)} (h : Run.Keeps base x) :
    Machine.Keeps base (Run.settle x o d inputs) := by
  cases x with
  | done s r => exact State.dropStream_keeps (State.ranDesc_keeps h)
  | going s => exact State.dropStream_keeps (State.ranDesc_keeps h)
  | wait s => exact h
  | fault s c w => exact State.dropStream_keeps (State.descFault_keeps (State.keepOuts_keeps h))

theorem State.runDesc_keeps {base s : State} {o : Origin} {d : Desc} {inputs : List (Nat × Nat)} {u : Upset}
    {run : State → Desc → Run} (h : Keeps base s) (hrun : ∀ s d, Keeps base s → Run.Keeps base (run s d)) :
    Keeps base (State.runDesc s o d inputs u run) := by
  have hs : Keeps base (match u with | .sector a e => s.strike [(a, e)] | _ => s) := by
    split
    · exact State.strike_keeps h
    · exact h
  unfold State.runDesc
  dsimp only
  refine Keeps.ite (Keeps.ite ?_ fun _ => State.askStream_keeps h) fun _ => State.ranDesc_keeps h
  have hr := State.readFor_keeps (p := s.originPart o) (ranges := inputs) hs
  split
  · exact State.dropStream_keeps (State.descFault_keeps hr)
  · split
    · exact State.dropStream_keeps (State.descFault_keeps (State.strikeQueue_keeps hr))
    · exact Run.settle_keeps (hrun _ _ (State.noteReads_keeps hr))

theorem State.goDesc_keeps {base s : State} {o : Origin} {d : Desc} {inputs outs : State → Desc → List (Nat × Nat)} {u : Upset}
    {run atStart : State → Desc → Run} (h : Keeps base s) (hrun : ∀ s d, Keeps base s → Run.Keeps base (run s d))
    (hatStart : ∀ s d, Keeps base s → Run.Keeps base (atStart s d)) : Keeps base (State.goDesc s o d inputs outs u run atStart) := by
  have go : ∀ (t : State) (f : Desc → Desc), Keeps base t →
      Keeps base (match (t.updDesc o d.id f).desc? o d.id with
        | some e => (t.updDesc o d.id f).runDesc o e (inputs (t.updDesc o d.id f) e) u run
        | none => t.updDesc o d.id f) := by
    intro t f ht
    split
    · exact State.runDesc_keeps (State.updDesc_keeps ht) hrun
    · exact State.updDesc_keeps ht
  have hx := hatStart s d h
  unfold State.goDesc
  refine Keeps.ite (Keeps.ite ?_ fun _ => State.runDesc_keeps h hrun) fun _ => h
  dsimp only
  split
  · exact State.descFault_keeps (State.keepOuts_keeps (Run.of_fault hx (by assumption)))
  · exact Run.of_wait hx (by assumption)
  · exact go _ _ (Run.of_going hx (by assumption))
  · exact go _ _ (Run.of_done hx (by assumption))

theorem State.startDesc_keeps {base s : State} {o : Origin} {is : Nat → Bool} {inputs outs : State → Desc → List (Nat × Nat)} {u : Upset}
    {run atStart : State → Desc → Run} (h : Keeps base s) (hrun : ∀ s d, Keeps base s → Run.Keeps base (run s d))
    (hatStart : ∀ s d, Keeps base s → Run.Keeps base (atStart s d)) : Keeps base (State.startDesc s o is inputs outs u run atStart) := by
  unfold State.startDesc
  dsimp only
  refine Keeps.ite ?_ fun _ => h
  split
  · exact h
  · refine Keeps.ite (Keeps.ite ?_ fun _ => h) fun _ => State.goDesc_keeps h hrun hatStart
    have ht := State.askTake_keeps (o := o) (d := by assumption) h
    split
    · refine Keeps.ite ht fun _ => ?_
      split
      · exact State.goDesc_keeps (State.updDesc_keeps (Keeps.other ht)) hrun hatStart
      · exact State.updDesc_keeps (Keeps.other ht)
    · exact ht

theorem State.leave_keeps {base : State} {s : State} {o : Origin} {d : Desc} (hbase : Keeps base s) : Keeps base (State.leave s o d) := by
  unfold State.leave
  try dsimp only
  repeat' (first
    | with_reducible assumption | with_reducible apply Keeps.ite | with_reducible apply Keeps.fold | with_reducible apply State.fadd_keeps
    | with_reducible apply State.updSlot_keeps | with_reducible apply State.finishRing_keeps | (intro _; intros; try dsimp only) | split
    | with_reducible apply Keeps.other)

theorem descComplete_keeps {base : State} {o : Origin} {id : Nat} {s : State} (hbase : Keeps base s) : Keeps base (descComplete o id s) := by
  unfold descComplete
  try dsimp only
  repeat' (first
    | with_reducible assumption | with_reducible apply Keeps.ite | with_reducible apply Keeps.fold | with_reducible apply State.descFault_keeps
    | with_reducible apply State.dropJar_keeps | with_reducible apply State.leave_keeps | with_reducible apply JarOut.keeps_done
    | with_reducible apply JarOut.keeps_misuse | refine JarOut.of_done ?_ (by with_reducible assumption)
    | refine JarOut.of_misuse ?_ (by with_reducible assumption) | (intro _; intros; try dsimp only) | split | with_reducible apply Keeps.other)

theorem State.startPlain_keeps {base s : State} {o : Origin} {is : Nat → Bool} {run : State → Desc → Run} (h : Keeps base s)
    (hrun : ∀ s d, Keeps base s → Run.Keeps base (run s d)) : Keeps base (State.startPlain s o is run) :=
  State.startDesc_keeps h hrun fun _ _ k => k

end Sys2Proof.Machine
end

