-- ==== Sys2Proof/Laws/KeepsEpilogue.lean ====
section
/-! SUPPORT. What the operations of Sys2Proof/Machine/Epilogue.lean keep (Laws/Keeps.lean). -/
namespace Sys2Proof.Machine

set_option linter.unusedTactic false
set_option linter.unreachableTactic false

theorem State.emitTile_keeps {base : State} {s : State} {p : Nat} {owner : Owner} {g : Rng} {code tkind out stride os osStride r0 c0 : Nat} {rows : List (List Nat)} (hbase : Keeps base s) : Keeps base (State.emitTile s p owner g code tkind out stride os osStride r0 c0 rows).1 := by
  unfold State.emitTile
  try dsimp only
  repeat' (first
    | with_reducible assumption | with_reducible apply Keeps.ite | with_reducible apply Keeps.fold | with_reducible apply Keeps.foldFst
    | with_reducible apply State.vstore_keeps | (intro _; intros; try dsimp only) | split | with_reducible apply Keeps.other)

end Sys2Proof.Machine
end

