-- ==== Sys2Proof/Laws/KeepsSchedule.lean ====
section
/-! SUPPORT. What the operations of Sys2Proof/Machine/Schedule.lean keep (Laws/Keeps.lean). -/
namespace Sys2Proof.Machine

set_option linter.unusedTactic false
set_option linter.unreachableTactic false

theorem State.loadGroups_keeps {base : State} {s : State} {p : Nat} (hbase : Keeps base s) : Keeps base (State.loadGroups s p) := by
  unfold State.loadGroups
  try dsimp only
  repeat' (first
    | with_reducible assumption | refine Keeps.of_fst (by with_reducible assumption) ?_ | with_reducible apply Keeps.ite
    | with_reducible apply Keeps.fold | with_reducible apply Keeps.each | with_reducible apply State.updPart_keeps
    | with_reducible apply State.raise_keeps | with_reducible apply State.readRanges_keeps | (intro _; intros; try dsimp only) | split
    | with_reducible apply Keeps.other)

theorem State.schedStart_keeps {base : State} {s : State} {p : Nat} (hbase : Keeps base s) : Keeps base (State.schedStart s p) := by
  unfold State.schedStart
  try dsimp only
  repeat' (first
    | with_reducible assumption | with_reducible apply Keeps.ite | with_reducible apply Keeps.fold | with_reducible apply State.fset_keeps
    | with_reducible apply State.updPart_keeps | with_reducible apply State.askFetch_keeps | with_reducible apply State.useFetch_keeps
    | with_reducible apply State.raise_keeps | with_reducible apply State.loadGroups_keeps | (intro _; intros; try dsimp only) | split
    | with_reducible apply Keeps.other)

theorem stepStateReady_keeps {base : State} {p : Nat} {s : State} (hbase : Keeps base s) : Keeps base (stepStateReady p s) := by
  unfold stepStateReady
  try dsimp only
  repeat' (first
    | with_reducible assumption | with_reducible apply Keeps.ite | with_reducible apply Keeps.fold | with_reducible apply State.updPart_keeps
    | with_reducible apply State.askFetch_keeps | with_reducible apply State.useFetch_keeps | with_reducible apply State.loadGroups_keeps
    | (intro _; intros; try dsimp only) | split | with_reducible apply Keeps.other)

end Sys2Proof.Machine
end

