-- ==== Sys2Proof/Laws/KeepsAbacus.lean ====
section
/-! SUPPORT. What the operations of Sys2Proof/Machine/Abacus.lean keep (Laws/Keeps.lean). -/
namespace Sys2Proof.Machine

set_option linter.unusedTactic false
set_option linter.unreachableTactic false

theorem State.abLatch_keeps {base s : State} {o : Origin} {d : Desc} (h : Keeps base s) : Run.Keeps base (State.abLatch s o d) := by
  unfold State.abLatch
  extract_lets p raw owner head
  split
  · exact Run.keeps_wait (State.askStream_keeps h)
  · have h1 := State.readFor_keeps (p := p) (ranges := head) h
    split
    · rename_i e; rw [e] at h1; exact Run.keeps_fault h1
    · rename_i t e
      rw [e] at h1
      extract_lets x ext mask
      split
      · exact Run.keeps_wait (State.askStream_keeps h1)
      · have h2 := State.readFor_keeps (p := p) (ranges := mask) h1
        split
        · rename_i e2; rw [e2] at h2; exact Run.keeps_fault h2
        · rename_i e2; rw [e2] at h2
          exact Run.keeps_going (State.dropStream_keeps (State.updDesc_keeps (State.noteReads_keeps h2)))

theorem startUpdate_keeps {base : State} {o : Origin} {s : State} {d : Desc} (hbase : Keeps base s) : Run.Keeps base (startUpdate o s d) := by
  unfold startUpdate
  try dsimp only
  repeat' (first
    | with_reducible assumption | with_reducible apply Keeps.ite | with_reducible apply Keeps.fold | with_reducible apply State.abLatch_keeps
    | with_reducible apply Run.keeps_done | with_reducible apply Run.keeps_going | with_reducible apply Run.keeps_wait
    | with_reducible apply Run.keeps_fault | refine Run.of_done ?_ (by with_reducible assumption)
    | refine Run.of_going ?_ (by with_reducible assumption) | refine Run.of_wait ?_ (by with_reducible assumption)
    | refine Run.of_fault ?_ (by with_reducible assumption) | (intro _; intros; try dsimp only) | split | with_reducible apply Keeps.other)

theorem State.abcLog_keeps {base : State} {s : State} {raw kind : Nat} (hbase : Keeps base s) : Keeps base (State.abcLog s raw kind) := by
  unfold State.abcLog
  try dsimp only
  repeat' (first
    | with_reducible assumption | with_reducible apply Keeps.ite | with_reducible apply Keeps.fold | with_reducible apply State.fsets_keeps
    | (intro _; intros; try dsimp only) | split | with_reducible apply Keeps.other)

theorem State.pullChunk_keeps {base : State} {s : State} {p i : Nat} (hbase : Keeps base s) : Keeps base (State.pullChunk s p i) := by
  unfold State.pullChunk
  try dsimp only
  repeat' (first
    | with_reducible assumption | with_reducible apply Keeps.ite | with_reducible apply Keeps.fold | with_reducible apply State.updPart_keeps
    | (intro _; intros; try dsimp only) | split | with_reducible apply Keeps.other)

theorem State.normWork_keeps {base : State} {s : State} {p id raw : Nat} {x : Latched} (hbase : Keeps base s) : Keeps base (State.normWork s p id raw x) := by
  unfold State.normWork
  try dsimp only
  repeat' (first
    | with_reducible assumption | with_reducible apply Keeps.ite | with_reducible apply Keeps.fold | with_reducible apply Keeps.foldFst
    | with_reducible apply State.vstore_keeps | (intro _; intros; try dsimp only) | split | with_reducible apply Keeps.other)

theorem State.finalWork_keeps {base : State} {s : State} {p id raw : Nat} (hbase : Keeps base s) : Keeps base (State.finalWork s p id raw) := by
  unfold State.finalWork
  try dsimp only
  repeat' (first
    | with_reducible assumption | with_reducible apply Keeps.ite | with_reducible apply Keeps.fold | with_reducible apply State.vstore_keeps
    | (intro _; intros; try dsimp only) | split | with_reducible apply Keeps.other)

theorem State.putWords_keeps {base : State} {s : State} {p a : Nat} {l : List Nat} {owner : Owner} (hbase : Keeps base s) : Keeps base (State.putWords s p a l owner) := by
  unfold State.putWords
  try dsimp only
  repeat' (first
    | with_reducible assumption | with_reducible apply Keeps.ite | with_reducible apply Keeps.fold | with_reducible apply State.vstore_keeps
    | (intro _; intros; try dsimp only) | split | with_reducible apply Keeps.other)

theorem State.workingCopy_keeps {base : State} {s : State} {p id raw : Nat} {pn : Array Nat} {frozen : Nat → Bool} (hbase : Keeps base s) : Keeps base (State.workingCopy s p id raw pn frozen) := by
  unfold State.workingCopy
  try dsimp only
  repeat' (first
    | with_reducible assumption | with_reducible apply Keeps.ite | with_reducible apply Keeps.fold | with_reducible apply Keeps.foldFst
    | with_reducible apply Keeps.each | with_reducible apply State.vstore_keeps | (intro _; intros; try dsimp only) | split
    | with_reducible apply Keeps.other)

theorem State.applyWork_keeps {base : State} {s : State} {p id raw : Nat} {la : Latched} (hbase : Keeps base s) : Keeps base (State.applyWork s p id raw la) := by
  unfold State.applyWork
  try dsimp only
  repeat' (first
    | with_reducible assumption | with_reducible apply Keeps.ite | with_reducible apply Keeps.fold | with_reducible apply Keeps.foldFst
    | with_reducible apply Keeps.each | with_reducible apply State.vstore_keeps | with_reducible apply State.putWords_keeps
    | with_reducible apply State.workingCopy_keeps | (intro _; intros; try dsimp only) | split | with_reducible apply Keeps.other)

theorem State.stepEndWork_keeps {base : State} {s : State} {p id raw : Nat} (hbase : Keeps base s) : Keeps base (State.stepEndWork s p id raw) := by
  unfold State.stepEndWork
  try dsimp only
  repeat' (first
    | with_reducible assumption | with_reducible apply Keeps.ite | with_reducible apply Keeps.fold | with_reducible apply State.fset_keeps
    | with_reducible apply State.fadd_keeps | with_reducible apply State.updPart_keeps | with_reducible apply State.record_keeps
    | with_reducible apply State.vstore_keeps | (intro _; intros; try dsimp only) | split | with_reducible apply Keeps.other)

theorem State.sampleChunks_keeps {base : State} {s : State} {p raw : Nat} {la : Latched} (hbase : Keeps base s) : Keeps base (State.sampleChunks s p raw la) := by
  unfold State.sampleChunks
  try dsimp only
  repeat' (first
    | with_reducible assumption | with_reducible apply Keeps.ite | with_reducible apply Keeps.fold | with_reducible apply Keeps.each
    | with_reducible apply State.sample_keeps | (intro _; intros; try dsimp only) | split | with_reducible apply Keeps.other)

theorem runUpdate_keeps {base : State} {o : Origin} {u : Upset} {s : State} {d : Desc} (hbase : Keeps base s) : Run.Keeps base (runUpdate o u s d) := by
  unfold runUpdate
  try dsimp only
  repeat' (first
    | with_reducible assumption | with_reducible apply Keeps.ite | with_reducible apply Keeps.fold | with_reducible apply State.abcLog_keeps
    | with_reducible apply State.pullChunk_keeps | with_reducible apply State.normWork_keeps | with_reducible apply State.finalWork_keeps
    | with_reducible apply State.applyWork_keeps | with_reducible apply State.stepEndWork_keeps | with_reducible apply State.sampleChunks_keeps
    | with_reducible apply Run.keeps_done | with_reducible apply Run.keeps_going | with_reducible apply Run.keeps_wait
    | with_reducible apply Run.keeps_fault | (intro _; intros; try dsimp only) | split | with_reducible apply Keeps.other)

theorem State.updateCmd_keeps {base : State} {s : State} {op : Nat} {o : Origin} {u : Upset} (hbase : Keeps base s) : Keeps base (State.updateCmd s op o u) := by
  unfold State.updateCmd
  try dsimp only
  repeat' (first
    | with_reducible assumption | with_reducible apply Keeps.ite | with_reducible apply Keeps.fold | with_reducible apply State.startDesc_keeps
    | with_reducible apply startUpdate_keeps | with_reducible apply runUpdate_keeps | with_reducible apply Run.keeps_done
    | with_reducible apply Run.keeps_going | with_reducible apply Run.keeps_wait | with_reducible apply Run.keeps_fault
    | with_reducible apply Run.keeps_done | with_reducible apply Run.keeps_going | with_reducible apply Run.keeps_wait
    | with_reducible apply Run.keeps_fault | refine Run.of_done ?_ (by with_reducible assumption)
    | refine Run.of_going ?_ (by with_reducible assumption) | refine Run.of_wait ?_ (by with_reducible assumption)
    | refine Run.of_fault ?_ (by with_reducible assumption) | (intro _; intros; try dsimp only) | split | with_reducible apply Keeps.other)

end Sys2Proof.Machine
end

