-- ==== Sys2Proof/Laws/KeepsStaged.lean ====
section
/-! SUPPORT. What the operations of Sys2Proof/Machine/Staged.lean keep (Laws/Keeps.lean). -/
namespace Sys2Proof.Machine

set_option linter.unusedTactic false
set_option linter.unreachableTactic false

theorem State.ringOn_keeps {base : State} {s : State} {n : Nat} (hbase : Keeps base s) : Keeps base (State.ringOn s n) := by
  unfold State.ringOn
  try dsimp only
  repeat' (first
    | with_reducible assumption | with_reducible apply Keeps.ite | with_reducible apply Keeps.fold | with_reducible apply State.fsets_keeps
    | with_reducible apply State.updRing_keeps | (intro _; intros; try dsimp only) | split | with_reducible apply Keeps.other)

theorem State.ringOff_keeps {base : State} {s : State} {n : Nat} (hbase : Keeps base s) : Keeps base (State.ringOff s n) := by
  unfold State.ringOff
  try dsimp only
  repeat' (first
    | with_reducible assumption | with_reducible apply Keeps.ite | with_reducible apply Keeps.fold | with_reducible apply State.fsets_keeps
    | with_reducible apply State.updRing_keeps | (intro _; intros; try dsimp only) | split | with_reducible apply Keeps.other)

theorem State.applyEnable_keeps {base : State} {s : State} {n v : Nat} (hbase : Keeps base s) : Keeps base (State.applyEnable s n v) := by
  unfold State.applyEnable
  try dsimp only
  repeat' (first
    | with_reducible assumption | with_reducible apply Keeps.ite | with_reducible apply Keeps.fold | with_reducible apply State.fset_keeps
    | with_reducible apply State.noteDiscard_keeps | with_reducible apply State.settleRing_keeps | with_reducible apply State.ringOn_keeps
    | with_reducible apply State.ringOff_keeps | (intro _; intros; try dsimp only) | split | with_reducible apply Keeps.other)

theorem State.applyStaged_keeps {base s : State} {p : Nat} (h : Keeps base s) : Keeps base (State.applyStaged s p) := by
  unfold State.applyStaged
  dsimp only
  refine Keeps.each (Keeps.other h) fun s e hs => ?_
  repeat' (first
    | with_reducible assumption | with_reducible apply State.applyEnable_keeps | exact Keeps.reg hs _ fun k => msorted_mset k .. | split)

end Sys2Proof.Machine
end

