-- ==== Sys2Proof/Laws/KeepsBeat.lean ====
section
/-! SUPPORT. What the operations of Sys2Proof/Machine/Beat.lean keep (Laws/Keeps.lean). -/
namespace Sys2Proof.Machine

set_option linter.unusedTactic false
set_option linter.unreachableTactic false

theorem State.formFail_keeps {base : State} {s : State} {p reason : Nat} (hbase : Keeps base s) : Keeps base (State.formFail s p reason) := by
  unfold State.formFail
  try dsimp only
  repeat' (first
    | with_reducible assumption | with_reducible apply Keeps.ite | with_reducible apply Keeps.fold | with_reducible apply State.formFailOne_keeps
    | with_reducible apply State.sendWithdraw_keeps | (intro _; intros; try dsimp only) | split | with_reducible apply Keeps.other)

theorem State.formed_keeps {base : State} {s : State} {p : Nat} {m : JoinMsg} (hbase : Keeps base s) : Keeps base (State.formed s p m) := by
  unfold State.formed
  try dsimp only
  repeat' (first
    | with_reducible assumption | with_reducible apply Keeps.ite | with_reducible apply Keeps.fold | with_reducible apply State.fsets_keeps
    | with_reducible apply State.updDom_keeps | with_reducible apply State.floodDom_keeps | (intro _; intros; try dsimp only) | split
    | with_reducible apply Keeps.other)

theorem State.judgeForm_keeps {base : State} {s : State} {p : Nat} (hbase : Keeps base s) : Keeps base (State.judgeForm s p) := by
  unfold State.judgeForm
  try dsimp only
  repeat' (first
    | with_reducible assumption | with_reducible apply Keeps.ite | with_reducible apply Keeps.fold | with_reducible apply State.formFail_keeps
    | with_reducible apply State.formed_keeps | (intro _; intros; try dsimp only) | split | with_reducible apply Keeps.other)

theorem State.countJoin_keeps {base : State} {s : State} {m : JoinMsg} {p : Nat} (hbase : Keeps base s) : Keeps base (State.countJoin s m p) := by
  unfold State.countJoin
  try dsimp only
  repeat' (first
    | with_reducible assumption | with_reducible apply Keeps.ite | with_reducible apply Keeps.fold | with_reducible apply State.flood_keeps
    | with_reducible apply State.updDom_keeps | with_reducible apply State.judgeForm_keeps | (intro _; intros; try dsimp only) | split
    | with_reducible apply Keeps.other)

theorem State.join_keeps {base : State} {s : State} {p : Nat} {testing : Bool} (hbase : Keeps base s) : Keeps base (State.join s p testing) := by
  unfold State.join
  try dsimp only
  repeat' (first
    | with_reducible assumption | with_reducible apply Keeps.ite | with_reducible apply Keeps.fold | with_reducible apply Keeps.foldFst
    | with_reducible apply Keeps.each | with_reducible apply State.fset_keeps | with_reducible apply State.flood_keeps
    | with_reducible apply State.updDom_keeps | with_reducible apply State.judgeForm_keeps | with_reducible apply State.countJoin_keeps
    | (intro _; intros; try dsimp only) | split | with_reducible apply Keeps.other)

theorem joinSym_keeps {base : State} {m : JoinMsg} {s : State} (hbase : Keeps base s) : Keeps base (joinSym m s) := by
  unfold joinSym
  try dsimp only
  repeat' (first
    | with_reducible assumption | with_reducible apply Keeps.ite | with_reducible apply Keeps.fold | with_reducible apply Keeps.each
    | with_reducible apply State.flood_keeps | with_reducible apply State.countJoin_keeps | with_reducible apply State.join_keeps
    | (intro _; intros; try dsimp only) | split | with_reducible apply Keeps.other)

theorem withdraw_keeps {base : State} {domain node part : Nat} {s : State} (hbase : Keeps base s) : Keeps base (withdraw domain node part s) := by
  unfold withdraw
  try dsimp only
  repeat' (first
    | with_reducible assumption | with_reducible apply Keeps.ite | with_reducible apply Keeps.fold | with_reducible apply State.flood_keeps
    | with_reducible apply State.withdrawLocal_keeps | (intro _; intros; try dsimp only) | split | with_reducible apply Keeps.other)

theorem formationTimeout_keeps {base : State} {p : Nat} {s : State} (hbase : Keeps base s) : Keeps base (formationTimeout p s) := by
  unfold formationTimeout
  try dsimp only
  repeat' (first
    | with_reducible assumption | with_reducible apply Keeps.ite | with_reducible apply Keeps.fold | with_reducible apply State.formFail_keeps
    | (intro _; intros; try dsimp only) | split | with_reducible apply Keeps.other)

theorem State.noteLate_keeps {base : State} {s : State} {p : Nat} {b : BoundaryMsg} (hbase : Keeps base s) : Keeps base (State.noteLate s p b) := by
  unfold State.noteLate
  try dsimp only
  repeat' (first
    | with_reducible assumption | with_reducible apply Keeps.ite | with_reducible apply Keeps.fold | with_reducible apply State.fsets_keeps
    | with_reducible apply State.fadd_keeps | (intro _; intros; try dsimp only) | split | with_reducible apply Keeps.other)

theorem State.trySeal_keeps {base : State} {s : State} {p : Nat} (hbase : Keeps base s) : Keeps base (State.trySeal s p) := by
  unfold State.trySeal
  try dsimp only
  repeat' (first
    | with_reducible assumption | with_reducible apply Keeps.ite | with_reducible apply Keeps.fold | with_reducible apply State.fset_keeps
    | with_reducible apply State.dropOr_keeps | (intro _; intros; try dsimp only) | split | with_reducible apply Keeps.other)

theorem State.sealSees_keeps {base : State} {s : State} {p b : Nat} (hbase : Keeps base s) : Keeps base (State.sealSees s p b) := by
  unfold State.sealSees
  try dsimp only
  repeat' (first
    | with_reducible assumption | with_reducible apply Keeps.ite | with_reducible apply Keeps.fold | with_reducible apply State.updPart_keeps
    | with_reducible apply State.trySeal_keeps | (intro _; intros; try dsimp only) | split | with_reducible apply Keeps.other)

theorem State.takeBoundary_keeps {base : State} {s : State} {p : Nat} {b : BoundaryMsg} (hbase : Keeps base s) : Keeps base (State.takeBoundary s p b) := by
  unfold State.takeBoundary
  try dsimp only
  repeat' (first
    | with_reducible assumption | with_reducible apply Keeps.ite | with_reducible apply Keeps.fold | with_reducible apply State.updDom_keeps
    | with_reducible apply State.noteLate_keeps | with_reducible apply State.sealSees_keeps | (intro _; intros; try dsimp only) | split
    | with_reducible apply Keeps.other)

theorem State.masterEnds_keeps {base : State} {s : State} {p : Nat} {t : Token} {at_ : Nat} (hbase : Keeps base s) : Keeps base (State.masterEnds s p t at_) := by
  unfold State.masterEnds
  try dsimp only
  repeat' (first
    | with_reducible assumption | with_reducible apply Keeps.ite | with_reducible apply Keeps.fold | with_reducible apply Keeps.each
    | with_reducible apply State.floodDom_keeps | with_reducible apply State.stallAll_keeps | with_reducible apply State.takeBoundary_keeps
    | (intro _; intros; try dsimp only) | split | with_reducible apply Keeps.other)

theorem State.mergeIn_keeps {base : State} {s : State} {p : Nat} {t : Token} {n at_ : Nat} (hbase : Keeps base s) : Keeps base (State.mergeIn s p t n at_) := by
  unfold State.mergeIn
  try dsimp only
  repeat' (first
    | with_reducible assumption | with_reducible apply Keeps.ite | with_reducible apply Keeps.fold | with_reducible apply State.updDom_keeps
    | with_reducible apply State.sendUp_keeps | with_reducible apply State.masterEnds_keeps | (intro _; intros; try dsimp only) | split
    | with_reducible apply Keeps.other)

theorem State.overrunAll_keeps {base : State} {s : State} {p : Nat} {not : Option Nat} {t : Token} (hbase : Keeps base s) : Keeps base (State.overrunAll s p not t) := by
  unfold State.overrunAll
  try dsimp only
  repeat' (first
    | with_reducible assumption | with_reducible apply Keeps.ite | with_reducible apply Keeps.fold | with_reducible apply Keeps.each
    | with_reducible apply State.floodDom_keeps | with_reducible apply State.endDom_keeps | with_reducible apply State.raise_keeps
    | (intro _; intros; try dsimp only) | split | with_reducible apply Keeps.other)

theorem closeDeadline_keeps {base : State} {p : Nat} {stalls : List Nat} {s : State} (hbase : Keeps base s) : Keeps base (closeDeadline p stalls s) := by
  unfold closeDeadline
  try dsimp only
  repeat' (first
    | with_reducible assumption | with_reducible apply Keeps.ite | with_reducible apply Keeps.fold | with_reducible apply State.updDom_keeps
    | with_reducible apply State.sendUp_keeps | with_reducible apply State.overrunAll_keeps | (intro _; intros; try dsimp only) | split
    | with_reducible apply Keeps.other)

theorem State.rewindRing_keeps {base : State} {s : State} {n : Nat} (hbase : Keeps base s) : Keeps base (State.rewindRing s n) := by
  unfold State.rewindRing
  try dsimp only
  repeat' (first
    | with_reducible assumption | with_reducible apply Keeps.ite | with_reducible apply Keeps.fold | with_reducible apply State.fsets_keeps
    | with_reducible apply State.updRing_keeps | (intro _; intros; try dsimp only) | split | with_reducible apply Keeps.other)

theorem State.freezeCore_keeps {base : State} {s : State} {r k : Nat} (hbase : Keeps base s) : Keeps base (State.freezeCore s r k) := by
  unfold State.freezeCore
  try dsimp only
  repeat' (first
    | with_reducible assumption | with_reducible apply Keeps.ite | with_reducible apply Keeps.fold | with_reducible apply State.fsets_keeps
    | (intro _; intros; try dsimp only) | split | with_reducible apply Keeps.other)

theorem State.takeStep_keeps {base : State} {s : State} {p : Nat} (hbase : Keeps base s) : Keeps base (State.takeStep s p) := by
  unfold State.takeStep
  try dsimp only
  repeat' (first
    | with_reducible assumption | with_reducible apply Keeps.ite | with_reducible apply Keeps.fold | with_reducible apply State.fsets_keeps
    | with_reducible apply State.updPart_keeps | (intro _; intros; try dsimp only) | split | with_reducible apply Keeps.other)

theorem State.stopPart_keeps {base : State} {s : State} {p : Nat} (hbase : Keeps base s) : Keeps base (State.stopPart s p) := by
  unfold State.stopPart
  try dsimp only
  repeat' (first
    | with_reducible assumption | with_reducible apply Keeps.ite | with_reducible apply Keeps.fold | with_reducible apply Keeps.each
    | with_reducible apply State.fsets_keeps | with_reducible apply State.updPart_keeps | with_reducible apply State.updRegion_keeps
    | with_reducible apply State.dropStaged_keeps | with_reducible apply State.dropBooks_keeps | with_reducible apply State.injDrop_keeps
    | with_reducible apply State.noteHeld_keeps | with_reducible apply State.settleRing_keeps | with_reducible apply State.settleVolts_keeps
    | with_reducible apply State.rewindRing_keeps | with_reducible apply State.freezeCore_keeps | with_reducible apply State.takeStep_keeps
    | (intro _; intros; try dsimp only) | split | with_reducible apply Keeps.other)

theorem beatStop_keeps {base : State} {p at_ : Nat} {s : State} (hbase : Keeps base s) : Keeps base (beatStop p at_ s) := by
  unfold beatStop
  try dsimp only
  repeat' (first
    | with_reducible assumption | with_reducible apply Keeps.ite | with_reducible apply Keeps.fold | with_reducible apply State.fset_keeps
    | with_reducible apply State.noteDiscard_keeps | (intro _; intros; try dsimp only) | split | with_reducible apply Keeps.other)

theorem overrunToken_keeps {base : State} {p : Nat} {tok : Token} {s : State} (hbase : Keeps base s) : Keeps base (overrunToken p tok s) := by
  unfold overrunToken
  try dsimp only
  repeat' (first
    | with_reducible assumption | with_reducible apply Keeps.ite | with_reducible apply Keeps.fold | with_reducible apply State.sendUp_keeps
    | with_reducible apply State.overrunAll_keeps | (intro _; intros; try dsimp only) | split | with_reducible apply Keeps.other)

theorem faultToken_keeps {base : State} {p : Nat} {org : FaultOrigin} {s : State} (hbase : Keeps base s) : Keeps base (faultToken p org s) := by
  unfold faultToken
  try dsimp only
  repeat' (first
    | with_reducible assumption | with_reducible apply Keeps.ite | with_reducible apply Keeps.fold | with_reducible apply State.sendUp_keeps
    | with_reducible apply State.stallAll_keeps | (intro _; intros; try dsimp only) | split | with_reducible apply Keeps.other)

theorem stretchLimit_keeps {base : State} {p : Nat} {s : State} (hbase : Keeps base s) : Keeps base (stretchLimit p s) := by
  unfold stretchLimit
  try dsimp only
  repeat' (first
    | with_reducible assumption | with_reducible apply Keeps.ite | with_reducible apply Keeps.fold | with_reducible apply State.stallAll_keeps
    | (intro _; intros; try dsimp only) | split | with_reducible apply Keeps.other)

theorem stallSymbol_keeps {base : State} {p : Nat} {org : FaultOrigin} {s : State} (hbase : Keeps base s) : Keeps base (stallSymbol p org s) := by
  unfold stallSymbol
  try dsimp only
  repeat' (first
    | with_reducible assumption | with_reducible apply Keeps.ite | with_reducible apply Keeps.fold | with_reducible apply State.stallAll_keeps
    | (intro _; intros; try dsimp only) | split | with_reducible apply Keeps.other)

theorem overrunSymbol_keeps {base : State} {p : Nat} {tok : Token} {s : State} (hbase : Keeps base s) : Keeps base (overrunSymbol p tok s) := by
  unfold overrunSymbol
  try dsimp only
  repeat' (first
    | with_reducible assumption | with_reducible apply Keeps.ite | with_reducible apply Keeps.fold | with_reducible apply State.overrunAll_keeps
    | (intro _; intros; try dsimp only) | split | with_reducible apply Keeps.other)

theorem symbolTimeout_keeps {base : State} {p : Nat} {s : State} (hbase : Keeps base s) : Keeps base (symbolTimeout p s) := by
  unfold symbolTimeout
  try dsimp only
  repeat' (first
    | with_reducible assumption | with_reducible apply Keeps.ite | with_reducible apply Keeps.fold | with_reducible apply State.raise_keeps
    | (intro _; intros; try dsimp only) | split | with_reducible apply Keeps.other)

theorem boundarySymbol_keeps {base : State} {p : Nat} {b : BoundaryMsg} {s : State} (hbase : Keeps base s) : Keeps base (boundarySymbol p b s) := by
  unfold boundarySymbol
  try dsimp only
  repeat' (first
    | with_reducible assumption | with_reducible apply Keeps.ite | with_reducible apply Keeps.fold | with_reducible apply Keeps.each
    | with_reducible apply State.takeBoundary_keeps | (intro _; intros; try dsimp only) | split | with_reducible apply Keeps.other
    | with_reducible apply Keeps.send)

end Sys2Proof.Machine
end

