-- ==== Sys2Proof/Laws/KeepsMailbox.lean ====
section
/-! SUPPORT. What the operations of Sys2Proof/Machine/Mailbox.lean keep (Laws/Keeps.lean). -/
namespace Sys2Proof.Machine

set_option linter.unusedTactic false
set_option linter.unreachableTactic false

/-- A channel is changed: it keeps when its queues stay within their bound. -/
theorem State.updChan_keeps {base : State} {s : State} {c : Nat} {f : Chan → Chan} (hbase : Keeps base s) (hf : (s.chan c).fits → (f (s.chan c)).fits) :
    Keeps base (State.updChan s c f) := by
  refine ⟨hbase.pending, hbase.mem, hbase.regs, fun h d => ?_, hbase.free, hbase.out⟩
  show (mgetD (mset s.chans c (f (s.chan c))) d .idle).fits
  rw [mgetD_mset]
  split
  · exact hf (hbase.boxes h c)
  · exact hbase.boxes h d

/-- The queue of one direction of a channel is replaced by one within the bound. -/
theorem Chan.setQueue_fits {q : Chan} {d : Dir} {l : List (Nat × Nat)} (h : q.fits) (hl : l.length ≤ 16) : (q.setQueue d l).fits := by
  cases d
  · exact ⟨hl, h.2⟩
  · exact ⟨h.1, hl⟩

theorem Chan.queue_fits {q : Chan} (h : q.fits) (d : Dir) : (q.queue d).length ≤ 16 := by
  cases d
  · exact h.1
  · exact h.2

theorem State.mboxIrq_keeps {base : State} {s : State} {c : Nat} {en : Fld} (hbase : Keeps base s) : Keeps base (State.mboxIrq s c en) := by
  unfold State.mboxIrq
  try dsimp only
  repeat' (first
    | with_reducible assumption | with_reducible apply Keeps.ite | with_reducible apply Keeps.fold | with_reducible apply State.glkPut_keeps
    | (intro _; intros; try dsimp only) | split | with_reducible apply Keeps.other)

theorem State.mboxOvf_keeps {base : State} {s : State} {c : Nat} {d : Dir} (hbase : Keeps base s) : Keeps base (State.mboxOvf s c d) := by
  unfold State.mboxOvf
  cases d
  · exact State.noteHub_keeps (State.updChan_keeps hbase fun h => h)
  · exact State.noteHub_keeps (State.fset_keeps hbase)

theorem State.mboxTimeout_keeps {base : State} {s : State} {c : Nat} {d : Dir} (hbase : Keeps base s) : Keeps base (State.mboxTimeout s c d) := by
  unfold State.mboxTimeout
  cases d
  · exact State.noteHub_keeps (State.updChan_keeps hbase fun h => h)
  · exact State.mboxIrq_keeps (State.noteHub_keeps (State.fset_keeps hbase))

theorem State.mboxEmpty_keeps {base : State} {s : State} {c : Nat} {d : Dir} (hbase : Keeps base s) : Keeps base (State.mboxEmpty s c d) := by
  unfold State.mboxEmpty
  cases d
  · exact State.updChan_keeps hbase fun h => h
  · exact State.mboxIrq_keeps (State.fset_keeps hbase)

theorem State.mboxSend_keeps {base : State} {s : State} {c : Nat} {d : Dir} {word stamp : Nat} (hbase : Keeps base s) : Keeps base (State.mboxSend s c d word stamp) := by
  unfold State.mboxSend
  split
  · exact State.mboxTimeout_keeps (State.fadd_keeps hbase)
  · split
    · exact State.mboxOvf_keeps hbase
    · exact State.updChan_keeps hbase fun h => Chan.setQueue_fits h (by simp; omega)

theorem State.mboxRemove_keeps {base : State} {s : State} {c : Nat} {d : Dir} (hbase : Keeps base s) : Keeps base (State.mboxRemove s c d) := by
  unfold State.mboxRemove
  split
  · exact hbase
  · rename_i x l hq
    have k : Keeps base (s.updChan c fun q => q.setQueue d l) := State.updChan_keeps hbase fun h =>
      Chan.setQueue_fits h (by have := Chan.queue_fits h d; rw [hq] at this; simp at this; omega)
    exact Keeps.ite k State.mboxEmpty_keeps

theorem State.flushToward_keeps {base : State} {s : State} {e : Endpoint} (hbase : Keeps base s) : Keeps base (State.flushToward s e) := by
  unfold State.flushToward
  refine Keeps.each hbase fun s x hx => ?_
  dsimp only
  split
  · exact hx
  · exact State.mboxTimeout_keeps (State.fadd_keeps (State.updChan_keeps hx fun h => Chan.setQueue_fits h (Nat.zero_le _)))

theorem State.resetEndpoint_keeps {base : State} {s : State} {e : Endpoint} (hbase : Keeps base s) : Keeps base (State.resetEndpoint s e) := by
  unfold State.resetEndpoint
  try dsimp only
  repeat' (first
    | with_reducible assumption | with_reducible apply Keeps.ite | with_reducible apply Keeps.fold | with_reducible apply State.flushToward_keeps
    | (intro _; intros; try dsimp only) | split | with_reducible apply Keeps.other)

theorem mbxTx_keeps {base : State} {c word : Nat} {s : State} (hbase : Keeps base s) : Keeps base (mbxTx c word s) := by
  unfold mbxTx
  try dsimp only
  repeat' (first
    | with_reducible assumption | with_reducible apply Keeps.ite | with_reducible apply Keeps.fold | with_reducible apply State.noteAccess_keeps
    | with_reducible apply State.mboxSend_keeps | (intro _; intros; try dsimp only) | split | with_reducible apply Keeps.other)

theorem mboxDeliver_keeps {base : State} {c : Nat} {s : State} (hbase : Keeps base s) : Keeps base (mboxDeliver c s) := by
  unfold mboxDeliver
  try dsimp only
  repeat' (first
    | with_reducible assumption | with_reducible apply Keeps.ite | with_reducible apply Keeps.fold | with_reducible apply State.glkPut_keeps
    | with_reducible apply State.mboxRemove_keeps | (intro _; intros; try dsimp only) | split | with_reducible apply Keeps.other)

theorem wordRemove_keeps {base : State} {c : Nat} {d : Dir} {s : State} (hbase : Keeps base s) : Keeps base (wordRemove c d s) := by
  unfold wordRemove
  try dsimp only
  repeat' (first
    | with_reducible assumption | with_reducible apply Keeps.ite | with_reducible apply Keeps.fold | with_reducible apply State.mboxRemove_keeps
    | (intro _; intros; try dsimp only) | split | with_reducible apply Keeps.other)

theorem mbxTimeoutEvent_keeps {base : State} {c : Nat} {d : Dir} {s : State} (hbase : Keeps base s) : Keeps base (mbxTimeoutEvent c d s) := by
  unfold mbxTimeoutEvent
  try dsimp only
  repeat' (first
    | with_reducible assumption | with_reducible apply Keeps.ite | with_reducible apply Keeps.fold | with_reducible apply State.mboxTimeout_keeps
    | (intro _; intros; try dsimp only) | split | with_reducible apply Keeps.other)

end Sys2Proof.Machine
end

