-- ==== Sys2Proof/Laws/KeepsJib.lean ====
section
/-! SUPPORT. What the operations of Sys2Proof/Machine/Jib.lean keep (Laws/Keeps.lean). -/
namespace Sys2Proof.Machine

set_option linter.unusedTactic false
set_option linter.unreachableTactic false

theorem State.drawChal_keeps {base : State} {s : State} (hbase : Keeps base s) : Keeps base (State.drawChal s) := by
  unfold State.drawChal
  try dsimp only
  repeat' (first
    | with_reducible assumption | with_reducible apply Keeps.ite | with_reducible apply Keeps.fold | with_reducible apply State.fset_keeps
    | with_reducible apply State.tick_keeps | (intro _; intros; try dsimp only) | split | with_reducible apply Keeps.other)

theorem State.secBegins_keeps {base : State} {s : State} {u : SecUse} (hbase : Keeps base s) : Keeps base (State.secBegins s u) := by
  unfold State.secBegins
  try dsimp only
  repeat' (first
    | with_reducible assumption | with_reducible apply Keeps.ite | with_reducible apply Keeps.fold | (intro _; intros; try dsimp only) | split
    | with_reducible apply Keeps.other)

theorem State.tokenOver_keeps {base : State} {s : State} {reason : Option Nat} (hbase : Keeps base s) : Keeps base (State.tokenOver s reason) := by
  unfold State.tokenOver
  try dsimp only
  repeat' (first
    | with_reducible assumption | with_reducible apply Keeps.ite | with_reducible apply Keeps.fold | with_reducible apply State.fsets_keeps
    | with_reducible apply State.dropStream_keeps | with_reducible apply State.drawChal_keeps | (intro _; intros; try dsimp only) | split
    | with_reducible apply Keeps.other)

theorem State.tokenCheck_keeps {base : State} {s : State} (hbase : Keeps base s) : Keeps base (State.tokenCheck s) := by
  unfold State.tokenCheck
  try dsimp only
  repeat' (first
    | with_reducible assumption | with_reducible apply Keeps.ite | with_reducible apply Keeps.fold | with_reducible apply State.fsets_keeps
    | with_reducible apply State.tokenOver_keeps | (intro _; intros; try dsimp only) | split | with_reducible apply Keeps.other)

theorem tokenPresent_keeps {base : State} {s : State} (hbase : Keeps base s) : Keeps base (tokenPresent s) := by
  unfold tokenPresent
  try dsimp only
  repeat' (first
    | with_reducible assumption | with_reducible apply Keeps.ite | with_reducible apply Keeps.fold | with_reducible apply State.fsets_keeps
    | with_reducible apply State.askStream_keeps | with_reducible apply State.noteDiscard_keeps | with_reducible apply State.secBegins_keeps
    | with_reducible apply State.tokenCheck_keeps | (intro _; intros; try dsimp only) | split | with_reducible apply Keeps.other)

theorem lock_keeps {base : State} {s : State} (hbase : Keeps base s) : Keeps base (lock s) := by
  unfold lock
  try dsimp only
  repeat' (first
    | with_reducible assumption | with_reducible apply Keeps.ite | with_reducible apply Keeps.fold | with_reducible apply Keeps.each
    | with_reducible apply State.fsets_keeps | with_reducible apply State.stage_keeps | with_reducible apply State.drawChal_keeps
    | (intro _; intros; try dsimp only) | split | with_reducible apply Keeps.other)

theorem unlockExpiry_keeps {base : State} {s : State} (hbase : Keeps base s) : Keeps base (unlockExpiry s) := by
  unfold unlockExpiry
  try dsimp only
  repeat' (first
    | with_reducible assumption | with_reducible apply Keeps.ite | with_reducible apply Keeps.fold | with_reducible apply lock_keeps
    | (intro _; intros; try dsimp only) | split | with_reducible apply Keeps.other)

theorem injectionArm_keeps {base : State} {s : State} (hbase : Keeps base s) : Keeps base (injectionArm s) := by
  unfold injectionArm
  try dsimp only
  repeat' (first
    | with_reducible assumption | with_reducible apply Keeps.ite | with_reducible apply Keeps.fold | with_reducible apply State.fsets_keeps
    | with_reducible apply State.injFire_keeps | with_reducible apply State.noteDiscard_keeps | with_reducible apply State.noteAccess_keeps
    | (intro _; intros; try dsimp only) | split | with_reducible apply Keeps.other)

end Sys2Proof.Machine
end

