-- ==== Sys2Proof/Laws/KeepsPorts.lean ====
section
/-! SUPPORT. What the operations of Sys2Proof/Machine/Ports.lean keep (Laws/Keeps.lean). -/
namespace Sys2Proof.Machine

set_option linter.unusedTactic false
set_option linter.unreachableTactic false

theorem fabPortCfg_keeps {base : State} {p value : Nat} {s : State} (hbase : Keeps base s) : Keeps base (fabPortCfg p value s) := by
  unfold fabPortCfg
  try dsimp only
  repeat' (first
    | with_reducible assumption | with_reducible apply Keeps.ite | with_reducible apply Keeps.fold | with_reducible apply State.fset_keeps
    | with_reducible apply State.fsets_keeps | with_reducible apply State.noteDiscard_keeps | with_reducible apply State.clearPort_keeps
    | (intro _; intros; try dsimp only) | split | with_reducible apply Keeps.other)

theorem portTrainTimeout_keeps {base : State} {p : Nat} {s : State} (hbase : Keeps base s) : Keeps base (portTrainTimeout p s) := by
  unfold portTrainTimeout
  try dsimp only
  repeat' (first
    | with_reducible assumption | with_reducible apply Keeps.ite | with_reducible apply Keeps.fold | with_reducible apply State.fset_keeps
    | with_reducible apply State.noteHub_keeps | (intro _; intros; try dsimp only) | split | with_reducible apply Keeps.other)

theorem State.sendEcho_keeps {base : State} {s : State} {p : Nat} (hbase : Keeps base s) : Keeps base (State.sendEcho s p) := by
  unfold State.sendEcho
  try dsimp only
  repeat' (first
    | with_reducible assumption | with_reducible apply Keeps.ite | with_reducible apply Keeps.fold | with_reducible apply State.emit_keeps
    | (intro _; intros; try dsimp only) | split | with_reducible apply Keeps.other)

theorem State.portComesUp_keeps {base : State} {s : State} {p lit peerPort : Nat} {tincan : Bool} {win : Nat} (hbase : Keeps base s) : Keeps base (State.portComesUp s p lit peerPort tincan win) := by
  unfold State.portComesUp
  try dsimp only
  repeat' (first
    | with_reducible assumption | with_reducible apply Keeps.ite | with_reducible apply Keeps.fold | with_reducible apply State.fsets_keeps
    | with_reducible apply State.updPort_keeps | with_reducible apply State.sendEcho_keeps | (intro _; intros; try dsimp only) | split
    | with_reducible apply Keeps.other)

theorem lmgmt_keeps {base : State} {p : Nat} {m : Lmgmt} {s : State} (hbase : Keeps base s) : Keeps base (lmgmt p m s) := by
  unfold lmgmt
  try dsimp only
  repeat' (first
    | with_reducible assumption | with_reducible apply Keeps.ite | with_reducible apply Keeps.fold | with_reducible apply State.fset_keeps
    | with_reducible apply State.fsets_keeps | with_reducible apply State.emit_keeps | with_reducible apply State.noteHub_keeps
    | with_reducible apply State.portComesUp_keeps | (intro _; intros; try dsimp only) | split | with_reducible apply Keeps.other)

theorem State.landAt_keeps {base : State} {s : State} {q : Nat} {f : Flit} {rs : List (Nat × Nat)} (hbase : Keeps base s) : Keeps base (State.landAt s q f rs) := by
  unfold State.landAt
  try dsimp only
  repeat' (first
    | with_reducible assumption | with_reducible apply Keeps.ite | with_reducible apply Keeps.fold | with_reducible apply State.putRanges_keeps
    | with_reducible apply State.updStream_keeps | with_reducible apply State.landSettle_keeps | (intro _; intros; try dsimp only) | split
    | with_reducible apply Keeps.other)

theorem landData_keeps {base : State} {q : Nat} {f : Flit} {s : State} (hbase : Keeps base s) : Keeps base (landData q f s) := by
  unfold landData
  try dsimp only
  repeat' (first
    | with_reducible assumption | refine Keeps.of_fst (by with_reducible assumption) ?_ | with_reducible apply Keeps.ite
    | with_reducible apply Keeps.fold | with_reducible apply State.updPart_keeps | with_reducible apply State.askShared_keeps
    | with_reducible apply State.raise_keeps | with_reducible apply State.xlateRead_keeps | with_reducible apply State.reply_keeps
    | with_reducible apply State.landAt_keeps | (intro _; intros; try dsimp only) | split | with_reducible apply Keeps.other)

theorem State.inboundGoes_keeps {base : State} {s : State} {q : Nat} (hbase : Keeps base s) : Keeps base (State.inboundGoes s q) := by
  unfold State.inboundGoes
  try dsimp only
  repeat' (first
    | with_reducible assumption | with_reducible apply Keeps.ite | with_reducible apply Keeps.fold | with_reducible apply Keeps.foldFst
    | with_reducible apply State.updPart_keeps | with_reducible apply landData_keeps | (intro _; intros; try dsimp only) | split
    | with_reducible apply Keeps.other)

theorem dataFlit_keeps {base : State} {p : Nat} {f : Flit} {s : State} (hbase : Keeps base s) : Keeps base (dataFlit p f s) := by
  unfold dataFlit
  try dsimp only
  repeat' (first
    | with_reducible assumption | with_reducible apply Keeps.ite | with_reducible apply Keeps.fold | with_reducible apply State.flitIn_keeps
    | with_reducible apply landData_keeps | (intro _; intros; try dsimp only) | split | with_reducible apply Keeps.other)

theorem landDrop_keeps {base : State} {q : Nat} {f : Flit} {s : State} (hbase : Keeps base s) : Keeps base (landDrop q f s) := by
  unfold landDrop
  try dsimp only
  repeat' (first
    | with_reducible assumption | with_reducible apply Keeps.ite | with_reducible apply Keeps.fold | with_reducible apply State.raise_keeps
    | with_reducible apply State.reply_keeps | with_reducible apply State.updStream_keeps | with_reducible apply State.creditDrops_keeps
    | (intro _; intros; try dsimp only) | split | with_reducible apply Keeps.other)

theorem State.logColl_keeps {base : State} {s : State} {q kind node part group tag : Nat} (hbase : Keeps base s) : Keeps base (State.logColl s q kind node part group tag) := by
  unfold State.logColl
  try dsimp only
  repeat' (first
    | with_reducible assumption | with_reducible apply Keeps.ite | with_reducible apply Keeps.fold | with_reducible apply State.fsets_keeps
    | (intro _; intros; try dsimp only) | split | with_reducible apply Keeps.other)

theorem State.collFault_keeps {base : State} {s : State} {q : Nat} {x : Coll} {c : Code} {w : Cause} (hbase : Keeps base s) : Keeps base (State.collFault s q x c w) := by
  unfold State.collFault
  try dsimp only
  repeat' (first
    | with_reducible assumption | with_reducible apply Keeps.ite | with_reducible apply Keeps.fold | with_reducible apply State.raise_keeps
    | with_reducible apply State.descFault_keeps | (intro _; intros; try dsimp only) | split | with_reducible apply Keeps.other)

theorem State.collRefused_keeps {base : State} {s : State} {q : Nat} {c : Code} {w : Cause} {node part : Nat} {tincan : Bool} {addr : Nat} (hbase : Keeps base s) : Keeps base (State.collRefused s q c w node part tincan addr) := by
  unfold State.collRefused
  try dsimp only
  repeat' (first
    | with_reducible assumption | with_reducible apply Keeps.ite | with_reducible apply Keeps.fold | with_reducible apply State.raise_keeps
    | with_reducible apply State.logColl_keeps | with_reducible apply State.collFault_keeps | (intro _; intros; try dsimp only) | split
    | with_reducible apply Keeps.other)

theorem landReply_keeps {base : State} {q : Nat} {f : Flit} {s : State} (hbase : Keeps base s) : Keeps base (landReply q f s) := by
  unfold landReply
  try dsimp only
  repeat' (first
    | with_reducible assumption | with_reducible apply Keeps.ite | with_reducible apply Keeps.fold | with_reducible apply State.raise_keeps
    | with_reducible apply State.descFault_keeps | with_reducible apply State.logNoRoute_keeps | with_reducible apply State.noRoute_keeps
    | with_reducible apply State.collRefused_keeps | (intro _; intros; try dsimp only) | split | with_reducible apply Keeps.other)

theorem dropCreditReport_keeps {base : State} {q node part epoch : Nat} {s : State} (hbase : Keeps base s) : Keeps base (dropCreditReport q node part epoch s) := by
  unfold dropCreditReport
  try dsimp only
  repeat' (first
    | with_reducible assumption | with_reducible apply Keeps.ite | with_reducible apply Keeps.fold | with_reducible apply State.updPart_keeps
    | with_reducible apply State.updDesc_keeps | (intro _; intros; try dsimp only) | split | with_reducible apply Keeps.other)

theorem flitDiscard_keeps {base : State} {p : Nat} {c : DiscardCause} {s : State} (hbase : Keeps base s) : Keeps base (flitDiscard p c s) := by
  unfold flitDiscard
  try dsimp only
  repeat' (first
    | with_reducible assumption | with_reducible apply Keeps.ite | with_reducible apply Keeps.fold | with_reducible apply State.fadd_keeps
    | with_reducible apply State.sendNak_keeps | (intro _; intros; try dsimp only) | split | with_reducible apply Keeps.other)

theorem State.replayPort_keeps {base : State} {s : State} {p : Nat} (hbase : Keeps base s) : Keeps base (State.replayPort s p) := by
  unfold State.replayPort
  try dsimp only
  repeat' (first
    | with_reducible assumption | with_reducible apply Keeps.ite | with_reducible apply Keeps.fold | with_reducible apply State.fadd_keeps
    | (intro _; intros; try dsimp only) | split | with_reducible apply Keeps.other | with_reducible apply Keeps.send)

theorem fabNak_keeps {base : State} {p ack : Nat} {ecc : FlitEcc} {s : State} (hbase : Keeps base s) : Keeps base (fabNak p ack ecc s) := by
  unfold fabNak
  try dsimp only
  repeat' (first
    | with_reducible assumption | with_reducible apply Keeps.ite | with_reducible apply Keeps.fold | with_reducible apply State.fadd_keeps
    | with_reducible apply State.updPort_keeps | with_reducible apply State.fabDrain_keeps | with_reducible apply State.fabTake_keeps
    | with_reducible apply State.eccOr_keeps | with_reducible apply State.replayPort_keeps | (intro _; intros; try dsimp only) | split
    | with_reducible apply Keeps.other)

theorem portRetrainEnd_keeps {base : State} {p : Nat} {ok : Bool} {s : State} (hbase : Keeps base s) : Keeps base (portRetrainEnd p ok s) := by
  unfold portRetrainEnd
  try dsimp only
  repeat' (first
    | with_reducible assumption | with_reducible apply Keeps.ite | with_reducible apply Keeps.fold | with_reducible apply State.fadd_keeps
    | with_reducible apply State.updPort_keeps | with_reducible apply State.fabDrain_keeps | with_reducible apply State.portDown_keeps
    | with_reducible apply State.sendEcho_keeps | with_reducible apply State.replayPort_keeps | (intro _; intros; try dsimp only) | split
    | with_reducible apply Keeps.other)

theorem State.loseLanes_keeps {base : State} {s : State} {p mask : Nat} (hbase : Keeps base s) : Keeps base (State.loseLanes s p mask) := by
  unfold State.loseLanes
  try dsimp only
  repeat' (first
    | with_reducible assumption | with_reducible apply Keeps.ite | with_reducible apply Keeps.fold | with_reducible apply State.fsets_keeps
    | with_reducible apply State.record_keeps | with_reducible apply State.portDown_keeps | (intro _; intros; try dsimp only) | split
    | with_reducible apply Keeps.other)

theorem laneLoss_keeps {base : State} {p lanes : Nat} {beatLost : Bool} {s : State} (hbase : Keeps base s) : Keeps base (laneLoss p lanes beatLost s) := by
  unfold laneLoss
  try dsimp only
  repeat' (first
    | with_reducible assumption | with_reducible apply Keeps.ite | with_reducible apply Keeps.fold | with_reducible apply State.portDown_keeps
    | with_reducible apply State.loseLanes_keeps | (intro _; intros; try dsimp only) | split | with_reducible apply Keeps.other)

theorem State.laneLeaves_keeps {base : State} {s : State} {p : Nat} (hbase : Keeps base s) : Keeps base (State.laneLeaves s p) := by
  unfold State.laneLeaves
  try dsimp only
  repeat' (first
    | with_reducible assumption | with_reducible apply Keeps.ite | with_reducible apply Keeps.fold | with_reducible apply State.fsetBit_keeps
    | with_reducible apply State.updPort_keeps | (intro _; intros; try dsimp only) | split | with_reducible apply Keeps.other)

theorem State.offerLane_keeps {base : State} {s : State} {p : Nat} (hbase : Keeps base s) : Keeps base (State.offerLane s p) := by
  unfold State.offerLane
  try dsimp only
  repeat' (first
    | with_reducible assumption | with_reducible apply Keeps.ite | with_reducible apply Keeps.fold | with_reducible apply State.fset_keeps
    | with_reducible apply State.emit_keeps | (intro _; intros; try dsimp only) | split | with_reducible apply Keeps.other)

theorem State.bookLane_keeps {base : State} {s : State} {p : Nat} (hbase : Keeps base s) : Keeps base (State.bookLane s p) := by
  unfold State.bookLane
  try dsimp only
  repeat' (first
    | with_reducible assumption | with_reducible apply Keeps.ite | with_reducible apply Keeps.fold | with_reducible apply Keeps.each
    | with_reducible apply State.book_keeps | with_reducible apply State.laneLeaves_keeps | with_reducible apply State.offerLane_keeps
    | (intro _; intros; try dsimp only) | split | with_reducible apply Keeps.other)

theorem laneRecalDue_keeps {base : State} {p : Nat} {s : State} (hbase : Keeps base s) : Keeps base (laneRecalDue p s) := by
  unfold laneRecalDue
  try dsimp only
  repeat' (first
    | with_reducible assumption | with_reducible apply Keeps.ite | with_reducible apply Keeps.fold | with_reducible apply State.fset_keeps
    | with_reducible apply State.updPort_keeps | with_reducible apply State.laneLeaves_keeps | with_reducible apply State.bookLane_keeps
    | (intro _; intros; try dsimp only) | split | with_reducible apply Keeps.other)

theorem recalOffer_keeps {base : State} {p domain beat lane : Nat} {s : State} (hbase : Keeps base s) : Keeps base (recalOffer p domain beat lane s) := by
  unfold recalOffer
  try dsimp only
  repeat' (first
    | with_reducible assumption | with_reducible apply Keeps.ite | with_reducible apply Keeps.fold | with_reducible apply Keeps.each
    | with_reducible apply State.fset_keeps | with_reducible apply State.fsets_keeps | with_reducible apply State.updPart_keeps
    | with_reducible apply State.updPort_keeps | (intro _; intros; try dsimp only) | split | with_reducible apply Keeps.other)

theorem State.nextLane_keeps {base : State} {s : State} {p : Nat} (hbase : Keeps base s) : Keeps base (State.nextLane s p) := by
  unfold State.nextLane
  try dsimp only
  repeat' (first
    | with_reducible assumption | with_reducible apply Keeps.ite | with_reducible apply Keeps.fold | with_reducible apply State.fset_keeps
    | with_reducible apply State.updPort_keeps | (intro _; intros; try dsimp only) | split | with_reducible apply Keeps.other)

theorem laneRecalEnd_keeps {base : State} {p : Nat} {ok : Bool} {s : State} (hbase : Keeps base s) : Keeps base (laneRecalEnd p ok s) := by
  unfold laneRecalEnd
  try dsimp only
  repeat' (first
    | with_reducible assumption | with_reducible apply Keeps.ite | with_reducible apply Keeps.fold | with_reducible apply State.fsetBit_keeps
    | with_reducible apply State.updPort_keeps | with_reducible apply State.sendEcho_keeps | with_reducible apply State.loseLanes_keeps
    | with_reducible apply State.nextLane_keeps | (intro _; intros; try dsimp only) | split | with_reducible apply Keeps.other)

theorem State.engineDark_keeps {base : State} {s : State} {e : Nat} (hbase : Keeps base s) : Keeps base (State.engineDark s e) := by
  unfold State.engineDark
  try dsimp only
  repeat' (first
    | with_reducible assumption | with_reducible apply Keeps.ite | with_reducible apply Keeps.fold | with_reducible apply Keeps.each
    | with_reducible apply State.loseLanes_keeps | (intro _; intros; try dsimp only) | split | with_reducible apply Keeps.other)

theorem firewallViolation_keeps {base : State} {e : Nat} {addr : Nat} {s : State} (hbase : Keeps base s) : Keeps base (firewallViolation e addr s) := by
  unfold firewallViolation
  try dsimp only
  repeat' (first
    | with_reducible assumption | with_reducible apply Keeps.ite | with_reducible apply Keeps.fold | with_reducible apply State.fset_keeps
    | with_reducible apply State.fadd_keeps | with_reducible apply State.noteHub_keeps | with_reducible apply State.resetEndpoint_keeps
    | with_reducible apply State.engineDark_keeps | (intro _; intros; try dsimp only) | split | with_reducible apply Keeps.other)

theorem endpointWordSend_keeps {base : State} {e : Endpoint} {c word : Nat} {s : State} (hbase : Keeps base s) : Keeps base (endpointWordSend e c word s) := by
  unfold endpointWordSend
  try dsimp only
  repeat' (first
    | with_reducible assumption | with_reducible apply Keeps.ite | with_reducible apply Keeps.fold | with_reducible apply State.mboxSend_keeps
    | with_reducible apply firewallViolation_keeps | (intro _; intros; try dsimp only) | split | with_reducible apply Keeps.other)

theorem engineFail_keeps {base : State} {e : Nat} {s : State} (hbase : Keeps base s) : Keeps base (engineFail e s) := by
  unfold engineFail
  try dsimp only
  repeat' (first
    | with_reducible assumption | with_reducible apply Keeps.ite | with_reducible apply Keeps.fold | with_reducible apply State.fset_keeps
    | with_reducible apply State.engineDark_keeps | (intro _; intros; try dsimp only) | split | with_reducible apply Keeps.other)

theorem engineReady_keeps {base : State} {e tempC : Nat} {s : State} (hbase : Keeps base s) : Keeps base (engineReady e tempC s) := by
  unfold engineReady
  try dsimp only
  repeat' (first
    | with_reducible assumption | with_reducible apply Keeps.ite | with_reducible apply Keeps.fold | with_reducible apply State.fset_keeps
    | (intro _; intros; try dsimp only) | split | with_reducible apply Keeps.other)

end Sys2Proof.Machine
end

