-- ==== Sys2Proof/Laws/KeepsSecurity.lean ====
section
/-! SUPPORT. What the operations of Sys2Proof/Machine/Security.lean keep (Laws/Keeps.lean). -/
namespace Sys2Proof.Machine

set_option linter.unusedTactic false
set_option linter.unreachableTactic false

theorem State.commit_keeps {base : State} {s : State} {b : StateBlock} (hbase : Keeps base s) : Keeps base (State.commit s b) := by
  unfold State.commit
  try dsimp only
  repeat' (first
    | with_reducible assumption | with_reducible apply Keeps.ite | with_reducible apply Keeps.fold | with_reducible apply State.fset_keeps
    | (intro _; intros; try dsimp only) | split | with_reducible apply Keeps.other)

theorem stateBlockWrite_keeps {base : State} {how : BlockEnd} {s : State} (hbase : Keeps base s) : Keeps base (stateBlockWrite how s) := by
  unfold stateBlockWrite
  try dsimp only
  repeat' (first
    | with_reducible assumption | with_reducible apply Keeps.ite | with_reducible apply Keeps.fold | with_reducible apply State.commit_keeps
    | (intro _; intros; try dsimp only) | split | with_reducible apply Keeps.other)

theorem State.raiseSvn_keeps {base : State} {s : State} {type svn : Nat} (hbase : Keeps base s) : Keeps base (State.raiseSvn s type svn) := by
  unfold State.raiseSvn
  try dsimp only
  repeat' (first
    | with_reducible assumption | with_reducible apply Keeps.ite | with_reducible apply Keeps.fold | with_reducible apply State.fset_keeps
    | with_reducible apply State.commit_keeps | (intro _; intros; try dsimp only) | split | with_reducible apply Keeps.other)

theorem State.refused_keeps {base : State} {s : State} {type reason : Nat} (hbase : Keeps base s) : Keeps base (State.refused s type reason) := by
  unfold State.refused
  try dsimp only
  repeat' (first
    | with_reducible assumption | with_reducible apply Keeps.ite | with_reducible apply Keeps.fold | with_reducible apply State.record_keeps
    | (intro _; intros; try dsimp only) | split | with_reducible apply Keeps.other)

theorem State.loadRefused_keeps {base : State} {s : State} {reason : Nat} (hbase : Keeps base s) : Keeps base (State.loadRefused s reason) := by
  unfold State.loadRefused
  try dsimp only
  repeat' (first
    | with_reducible assumption | with_reducible apply Keeps.ite | with_reducible apply Keeps.fold | with_reducible apply State.fset_keeps
    | with_reducible apply State.fsets_keeps | with_reducible apply State.refused_keeps | (intro _; intros; try dsimp only) | split
    | with_reducible apply Keeps.other)

theorem objectPresent_keeps {base : State} {s : State} (hbase : Keeps base s) : Keeps base (objectPresent s) := by
  unfold objectPresent
  try dsimp only
  repeat' (first
    | with_reducible assumption | with_reducible apply Keeps.ite | with_reducible apply Keeps.fold | with_reducible apply State.fsets_keeps
    | with_reducible apply State.askStream_keeps | with_reducible apply State.noteDiscard_keeps | with_reducible apply State.secBegins_keeps
    | with_reducible apply State.loadRefused_keeps | (intro _; intros; try dsimp only) | split | with_reducible apply Keeps.other)

theorem State.takePart_keeps {base : State} {s : State} {x : PartRecord} {digest : Nat} (hbase : Keeps base s) : Keeps base (State.takePart s x digest) := by
  unfold State.takePart
  try dsimp only
  repeat' (first
    | with_reducible assumption | with_reducible apply Keeps.ite | with_reducible apply Keeps.fold | with_reducible apply State.fset_keeps
    | (intro _; intros; try dsimp only) | split | with_reducible apply Keeps.other)

theorem State.loadEngines_keeps {base : State} {s : State} {digest : Nat} (hbase : Keeps base s) : Keeps base (State.loadEngines s digest) := by
  unfold State.loadEngines
  try dsimp only
  repeat' (first
    | with_reducible assumption | with_reducible apply Keeps.ite | with_reducible apply Keeps.fold | with_reducible apply Keeps.each
    | with_reducible apply State.fset_keeps | with_reducible apply State.resetEndpoint_keeps | with_reducible apply fabPortCfg_keeps
    | (intro _; intros; try dsimp only) | split | with_reducible apply Keeps.other)

theorem State.takeImage_keeps {base : State} {s : State} {obj : List Byte} (hbase : Keeps base s) : Keeps base (State.takeImage s obj) := by
  unfold State.takeImage
  try dsimp only
  repeat' (first
    | with_reducible assumption | with_reducible apply Keeps.ite | with_reducible apply Keeps.fold | with_reducible apply State.fsets_keeps
    | with_reducible apply State.raiseSvn_keeps | (intro _; intros; try dsimp only) | split | with_reducible apply Keeps.other)

theorem State.takeObject_keeps {base : State} {s : State} {type : Nat} {obj : List Byte} {part : PartRecord} {kak : Bundle} (hbase : Keeps base s) : Keeps base (State.takeObject s type obj part kak) := by
  unfold State.takeObject
  try dsimp only
  repeat' (first
    | with_reducible assumption | with_reducible apply Keeps.ite | with_reducible apply Keeps.fold | with_reducible apply State.fsets_keeps
    | with_reducible apply State.raiseSvn_keeps | with_reducible apply State.takePart_keeps | with_reducible apply State.loadEngines_keeps
    | with_reducible apply State.takeImage_keeps | (intro _; intros; try dsimp only) | split | with_reducible apply Keeps.other)

theorem presentationEnd_keeps {base : State} {part : PartRecord} {kak : Bundle} {s : State} (hbase : Keeps base s) : Keeps base (presentationEnd part kak s) := by
  unfold presentationEnd
  try dsimp only
  repeat' (first
    | with_reducible assumption | with_reducible apply Keeps.ite | with_reducible apply Keeps.fold | with_reducible apply State.fset_keeps
    | with_reducible apply State.fsets_keeps | with_reducible apply State.tick_keeps | with_reducible apply State.askStream_keeps
    | with_reducible apply State.dropStream_keeps | with_reducible apply State.loadRefused_keeps | with_reducible apply State.takeObject_keeps
    | (intro _; intros; try dsimp only) | split | with_reducible apply Keeps.other)

theorem imageInstall_keeps {base : State} {s : State} (hbase : Keeps base s) : Keeps base (imageInstall s) := by
  unfold imageInstall
  try dsimp only
  repeat' (first
    | with_reducible assumption | with_reducible apply Keeps.ite | with_reducible apply Keeps.fold | (intro _; intros; try dsimp only) | split
    | with_reducible apply Keeps.other)

theorem selfCheck_keeps {base : State} {ok : Bool} {s : State} (hbase : Keeps base s) : Keeps base (selfCheck ok s) := by
  unfold selfCheck
  try dsimp only
  repeat' (first
    | with_reducible assumption | with_reducible apply Keeps.ite | with_reducible apply Keeps.fold | with_reducible apply State.deviceFatal_keeps
    | (intro _; intros; try dsimp only) | split | with_reducible apply Keeps.other)

theorem State.attRefused_keeps {base : State} {s : State} {reason : Nat} (hbase : Keeps base s) : Keeps base (State.attRefused s reason) := by
  unfold State.attRefused
  try dsimp only
  repeat' (first
    | with_reducible assumption | with_reducible apply Keeps.ite | with_reducible apply Keeps.fold | with_reducible apply State.fsets_keeps
    | (intro _; intros; try dsimp only) | split | with_reducible apply Keeps.other)

theorem State.attBegins_keeps {base : State} {s : State} (hbase : Keeps base s) : Keeps base (State.attBegins s) := by
  unfold State.attBegins
  try dsimp only
  repeat' (first
    | with_reducible assumption | with_reducible apply Keeps.ite | with_reducible apply Keeps.fold | with_reducible apply State.fset_keeps
    | with_reducible apply State.secBegins_keeps | (intro _; intros; try dsimp only) | split | with_reducible apply Keeps.other)

theorem attestationReport_keeps {base : State} {s : State} (hbase : Keeps base s) : Keeps base (attestationReport s) := by
  unfold attestationReport
  try dsimp only
  repeat' (first
    | with_reducible assumption | with_reducible apply Keeps.ite | with_reducible apply Keeps.fold | with_reducible apply State.fset_keeps
    | with_reducible apply State.askStream_keeps | with_reducible apply State.noteDiscard_keeps | with_reducible apply State.attRefused_keeps
    | with_reducible apply State.attBegins_keeps | (intro _; intros; try dsimp only) | split | with_reducible apply Keeps.other)

theorem State.takeHss_keeps {base : State} {s : State} (hbase : Keeps base s) : Keeps base (State.takeHss s) := by
  unfold State.takeHss
  try dsimp only
  repeat' (first
    | with_reducible assumption | with_reducible apply Keeps.ite | with_reducible apply Keeps.fold | with_reducible apply State.fset_keeps
    | with_reducible apply State.commit_keeps | (intro _; intros; try dsimp only) | split | with_reducible apply Keeps.other)

theorem State.areaBegins_keeps {base : State} {s : State} {area : List Byte} (hbase : Keeps base s) : Keeps base (State.areaBegins s area) := by
  unfold State.areaBegins
  try dsimp only
  repeat' (first
    | with_reducible assumption | with_reducible apply Keeps.ite | with_reducible apply Keeps.fold | with_reducible apply State.fset_keeps
    | with_reducible apply State.store_keeps | (intro _; intros; try dsimp only) | split | with_reducible apply Keeps.other)

theorem reportSigning_keeps {base : State} {s : State} (hbase : Keeps base s) : Keeps base (reportSigning s) := by
  unfold reportSigning
  try dsimp only
  repeat' (first
    | with_reducible assumption | with_reducible apply Keeps.ite | with_reducible apply Keeps.fold | with_reducible apply State.dropStream_keeps
    | with_reducible apply State.attRefused_keeps | with_reducible apply State.takeHss_keeps | with_reducible apply State.areaBegins_keeps
    | (intro _; intros; try dsimp only) | split | with_reducible apply Keeps.other)

theorem certificates_keeps {base : State} {s : State} (hbase : Keeps base s) : Keeps base (certificates s) := by
  unfold certificates
  try dsimp only
  repeat' (first
    | with_reducible assumption | with_reducible apply Keeps.ite | with_reducible apply Keeps.fold | with_reducible apply State.noteDiscard_keeps
    | with_reducible apply State.attBegins_keeps | with_reducible apply State.areaBegins_keeps | (intro _; intros; try dsimp only) | split
    | with_reducible apply Keeps.other)

theorem reportComplete_keeps {base : State} {s : State} (hbase : Keeps base s) : Keeps base (reportComplete s) := by
  unfold reportComplete
  try dsimp only
  repeat' (first
    | with_reducible assumption | with_reducible apply Keeps.ite | with_reducible apply Keeps.fold | with_reducible apply State.fsets_keeps
    | with_reducible apply State.store_keeps | with_reducible apply State.attRefused_keeps | (intro _; intros; try dsimp only) | split
    | with_reducible apply Keeps.other)

end Sys2Proof.Machine
end

