-- ==== Sys2Proof/Laws/KeepsEvr.lean ====
section
/-! SUPPORT. What the operations of Sys2Proof/Machine/Evr.lean keep (Laws/Keeps.lean). -/
namespace Sys2Proof.Machine

set_option linter.unusedTactic false
set_option linter.unreachableTactic false

theorem evrClear_keeps {base : State} {s : State} (hbase : Keeps base s) : Keeps base (evrClear s) := by
  unfold evrClear
  try dsimp only
  repeat' (first
    | with_reducible assumption | with_reducible apply Keeps.ite | with_reducible apply Keeps.fold | with_reducible apply State.fsets_keeps
    | with_reducible apply State.noteHub_keeps | (intro _; intros; try dsimp only) | split | with_reducible apply Keeps.other)

theorem recordMirror_keeps {base : State} {ok : Bool} {s : State} (hbase : Keeps base s) : Keeps base (recordMirror ok s) := by
  unfold recordMirror
  try dsimp only
  repeat' (first
    | with_reducible assumption | with_reducible apply Keeps.ite | with_reducible apply Keeps.fold | with_reducible apply State.fset_keeps
    | (intro _; intros; try dsimp only) | split | with_reducible apply Keeps.other)

theorem State.countFec_keeps {base : State} {s : State} {lane symbols words : Nat} (hbase : Keeps base s) : Keeps base (State.countFec s lane symbols words) := by
  unfold State.countFec
  try dsimp only
  repeat' (first
    | with_reducible assumption | with_reducible apply Keeps.ite | with_reducible apply Keeps.fold | with_reducible apply State.fadd_keeps
    | with_reducible apply State.updPort_keeps | (intro _; intros; try dsimp only) | split | with_reducible apply Keeps.other)

theorem opSecTick_keeps {base : State} {fec : List (Fin 72 × Nat × Nat)} {glkFec : Nat} {s : State} (hbase : Keeps base s) : Keeps base (opSecTick fec glkFec s) := by
  unfold opSecTick
  try dsimp only
  repeat' (first
    | with_reducible assumption | with_reducible apply Keeps.ite | with_reducible apply Keeps.fold | with_reducible apply Keeps.each
    | with_reducible apply State.fadd_keeps | with_reducible apply State.updStack_keeps | with_reducible apply State.countFec_keeps
    | (intro _; intros; try dsimp only) | split | with_reducible apply Keeps.other)

end Sys2Proof.Machine
end

