-- ==== Sys2Proof/Laws/KeepsMatrix.lean ====
section
/-! SUPPORT. What the operations of Sys2Proof/Machine/Matrix.lean keep (Laws/Keeps.lean). -/
namespace Sys2Proof.Machine

set_option linter.unusedTactic false
set_option linter.unreachableTactic false

theorem State.useGroup_keeps {base : State} {s : State} {r k raw : Nat} {x : Nat × Nat × Nat} (hbase : Keeps base s) : Keeps base (State.useGroup s r k raw x) := by
  unfold State.useGroup
  try dsimp only
  repeat' (first
    | with_reducible assumption | with_reducible apply Keeps.ite | with_reducible apply Keeps.fold | with_reducible apply State.fset_keeps
    | with_reducible apply State.fsets_keeps | (intro _; intros; try dsimp only) | split | with_reducible apply Keeps.other)

theorem startMatrix_keeps {base : State} {s : State} {d : Desc} (hbase : Keeps base s) : Run.Keeps base (startMatrix s d) := by
  unfold startMatrix
  try dsimp only
  repeat' (first
    | with_reducible assumption | with_reducible apply Keeps.ite | with_reducible apply Keeps.fold | with_reducible apply Keeps.each
    | with_reducible apply State.updSlot_keeps | with_reducible apply State.useGroup_keeps | with_reducible apply Run.keeps_done
    | with_reducible apply Run.keeps_going | with_reducible apply Run.keeps_wait | with_reducible apply Run.keeps_fault
    | (intro _; intros; try dsimp only) | split | with_reducible apply Keeps.other)

theorem matrix_keeps {base : State} {o : Origin} {u : Upset} {s : State} (hbase : Keeps base s) : Keeps base (matrix o u s) := by
  unfold matrix
  try dsimp only
  repeat' (first
    | with_reducible assumption | with_reducible apply Keeps.ite | with_reducible apply Keeps.fold | with_reducible apply State.startDesc_keeps
    | with_reducible apply startMatrix_keeps | with_reducible apply Run.keeps_done | with_reducible apply Run.keeps_going
    | with_reducible apply Run.keeps_wait | with_reducible apply Run.keeps_fault | with_reducible apply Run.keeps_done
    | with_reducible apply Run.keeps_going | with_reducible apply Run.keeps_wait | with_reducible apply Run.keeps_fault
    | refine Run.of_done ?_ (by with_reducible assumption) | refine Run.of_going ?_ (by with_reducible assumption)
    | refine Run.of_wait ?_ (by with_reducible assumption) | refine Run.of_fault ?_ (by with_reducible assumption)
    | (intro _; intros; try dsimp only) | split | with_reducible apply Keeps.other)

theorem State.addTile_keeps {base : State} {s : State} {p raw : Nat} {g : Rng} {w : List Nat} {t : Nat} {errs : List ArrErr} {x : Nat × Nat × Nat} (hbase : Keeps base s) : Keeps base (State.addTile s p raw g w t errs x) := by
  unfold State.addTile
  try dsimp only
  repeat' (first
    | with_reducible assumption | with_reducible apply Keeps.ite | with_reducible apply Keeps.fold | with_reducible apply Keeps.each
    | with_reducible apply State.updSlot_keeps | (intro _; intros; try dsimp only) | split | with_reducible apply Keeps.other
    | with_reducible apply Keeps.bytes | with_reducible apply Keeps.zero | with_reducible apply Keeps.byte | with_reducible apply Keeps.send)

theorem State.noteLongK_keeps {base : State} {s : State} {p raw t : Nat} {x : Nat × Nat × Nat} (hbase : Keeps base s) : Keeps base (State.noteLongK s p raw t x) := by
  unfold State.noteLongK
  try dsimp only
  repeat' (first
    | with_reducible assumption | with_reducible apply Keeps.ite | with_reducible apply Keeps.fold | with_reducible apply State.fset_keeps
    | with_reducible apply State.fadd_keeps | with_reducible apply State.record_keeps | (intro _; intros; try dsimp only) | split
    | with_reducible apply Keeps.other)

theorem State.logMismatch_keeps {base : State} {s : State} {raw a t : Nat} {x : Nat × Nat} (hbase : Keeps base s) : Keeps base (State.logMismatch s raw a t x) := by
  unfold State.logMismatch
  try dsimp only
  repeat' (first
    | with_reducible assumption | with_reducible apply Keeps.ite | with_reducible apply Keeps.fold | with_reducible apply State.fsets_keeps
    | (intro _; intros; try dsimp only) | split | with_reducible apply Keeps.other)

theorem State.raiseMismatches_keeps {base : State} {s : State} {o : Origin} {d : Desc} {t : Nat} {l : List (Nat × Nat × Nat)} (hbase : Keeps base s) : Keeps base (State.raiseMismatches s o d t l) := by
  unfold State.raiseMismatches
  try dsimp only
  repeat' (first
    | with_reducible assumption | with_reducible apply Keeps.ite | with_reducible apply Keeps.fold | with_reducible apply Keeps.each
    | with_reducible apply State.raise_keeps | with_reducible apply State.descFault_keeps | with_reducible apply State.logMismatch_keeps
    | (intro _; intros; try dsimp only) | split | with_reducible apply Keeps.other)

theorem State.epilogueRows_keeps {base : State} {s : State} {p id raw rec : Nat} {g : Rng} {x : Nat × Nat × Nat} {n : Nat} (hbase : Keeps base s) : Keeps base (State.epilogueRows s p id raw rec g x n).1 := by
  unfold State.epilogueRows
  try dsimp only
  repeat' (first
    | with_reducible assumption | refine Keeps.of_fst (by with_reducible assumption) ?_ | with_reducible apply Keeps.ite
    | with_reducible apply Keeps.fold | with_reducible apply State.emitTile_keeps | (intro _; intros; try dsimp only) | split
    | with_reducible apply Keeps.other)

theorem State.epilogueGroup_keeps {base : State} {s : State} {p id raw rec : Nat} {g : Rng} {x : Nat × Nat × Nat} (hbase : Keeps base s) : Keeps base (State.epilogueGroup s p id raw rec g x).1 := by
  unfold State.epilogueGroup
  try dsimp only
  repeat' (first
    | with_reducible assumption | refine Keeps.of_fst (by with_reducible assumption) ?_ | with_reducible apply Keeps.ite
    | with_reducible apply Keeps.fold | with_reducible apply State.fsets_keeps | with_reducible apply State.fadd_keeps
    | with_reducible apply State.accAdd_keeps | with_reducible apply State.epilogueRows_keeps | (intro _; intros; try dsimp only) | split
    | with_reducible apply Keeps.other)

theorem State.epilogueOver_keeps {base : State} {s : State} {p : Nat} {d : Desc} {g : Rng} {gs : List (Nat × Nat × Nat)} (hbase : Keeps base s) : Keeps base (State.epilogueOver s p d g gs).1 := by
  unfold State.epilogueOver
  try dsimp only
  repeat' (first
    | with_reducible assumption | refine Keeps.of_fst (by with_reducible assumption) ?_ | with_reducible apply Keeps.ite
    | with_reducible apply Keeps.fold | with_reducible apply Keeps.foldFst | with_reducible apply State.epilogueGroup_keeps
    | (intro _; intros; try dsimp only) | split | with_reducible apply Keeps.other)

theorem State.epilogue_keeps {base : State} {s : State} {p : Nat} {d : Desc} {g : Rng} (hbase : Keeps base s) : Keeps base (State.epilogue s p d g) := by
  unfold State.epilogue
  try dsimp only
  repeat' (first
    | with_reducible assumption | refine Keeps.of_fst (by with_reducible assumption) ?_ | with_reducible apply Keeps.ite
    | with_reducible apply Keeps.fold | with_reducible apply State.mergeHealth_keeps | with_reducible apply State.epilogueOver_keeps
    | (intro _; intros; try dsimp only) | split | with_reducible apply Keeps.other)

theorem State.accFault_keeps {base : State} {s : State} {o : Origin} {d : Desc} {g i : Nat} (hbase : Keeps base s) : Keeps base (State.accFault s o d g i) := by
  unfold State.accFault
  try dsimp only
  repeat' (first
    | with_reducible assumption | with_reducible apply Keeps.ite | with_reducible apply Keeps.fold | with_reducible apply State.updDesc_keeps
    | with_reducible apply State.descFault_keeps | (intro _; intros; try dsimp only) | split | with_reducible apply Keeps.other)

theorem State.epilogueFault_keeps {base : State} {s : State} {o : Origin} {d : Desc} {rng : Rng} {g i : Nat} (hbase : Keeps base s) : Keeps base (State.epilogueFault s o d rng g i) := by
  unfold State.epilogueFault
  try dsimp only
  repeat' (first
    | with_reducible assumption | refine Keeps.of_fst (by with_reducible assumption) ?_ | with_reducible apply Keeps.ite
    | with_reducible apply Keeps.fold | with_reducible apply State.descFault_keeps | with_reducible apply State.epilogueRows_keeps
    | with_reducible apply State.epilogueOver_keeps | (intro _; intros; try dsimp only) | split | with_reducible apply Keeps.other)

theorem State.endTile_keeps {base : State} {s : State} {o : Origin} {d : Desc} {errs : List ArrErr} {hit : Option (Nat × Nat)} (hbase : Keeps base s) : Keeps base (State.endTile s o d errs hit) := by
  unfold State.endTile
  try dsimp only
  repeat' (first
    | with_reducible assumption | with_reducible apply Keeps.ite | with_reducible apply Keeps.fold | with_reducible apply Keeps.each
    | with_reducible apply State.fsets_keeps | with_reducible apply State.fadd_keeps | with_reducible apply State.accAdd_keeps
    | with_reducible apply State.updDesc_keeps | with_reducible apply State.injFire_keeps | with_reducible apply State.sample_keeps
    | with_reducible apply State.addTile_keeps | with_reducible apply State.noteLongK_keeps | with_reducible apply State.raiseMismatches_keeps
    | with_reducible apply State.accFault_keeps | (intro _; intros; try dsimp only) | split | with_reducible apply Keeps.other)

theorem tilePassEnd_keeps {base : State} {r k : Nat} {errs : List ArrErr} {acc : Option (Nat × Nat)} {s : State} (hbase : Keeps base s) : Keeps base (tilePassEnd r k errs acc s) := by
  unfold tilePassEnd
  try dsimp only
  repeat' (first
    | with_reducible assumption | with_reducible apply Keeps.ite | with_reducible apply Keeps.fold | with_reducible apply State.updDesc_keeps
    | with_reducible apply State.epilogue_keeps | with_reducible apply State.epilogueFault_keeps | with_reducible apply State.endTile_keeps
    | (intro _; intros; try dsimp only) | split | with_reducible apply Keeps.other)

end Sys2Proof.Machine
end

