-- ==== Sys2Proof/Laws/KeepsVector.lean ====
section
/-! SUPPORT. What the operations of Sys2Proof/Machine/Vector.lean keep (Laws/Keeps.lean). -/
namespace Sys2Proof.Machine

set_option linter.unusedTactic false
set_option linter.unreachableTactic false

/-- What a vector instruction does keeps. -/
def VecOut.Keeps (a : State) : VecOut → Prop
  | .done s _ => Machine.Keeps a s
  | .wait => True

theorem VecOut.keeps_done {a s : State} {v : VecRun} (h : Machine.Keeps a s) : VecOut.Keeps a (.done s v) := h
theorem VecOut.keeps_wait {a : State} : VecOut.Keeps a .wait := trivial
theorem VecOut.of_done {a s : State} {x : VecOut} {v : VecRun} (h : VecOut.Keeps a x) (e : x = .done s v) : Machine.Keeps a s := by subst e; exact h

theorem runVector_keeps {base : State} {o : Origin} {s : State} {d : Desc} (hbase : Keeps base s) : Run.Keeps base (runVector o s d) := by
  unfold runVector
  try dsimp only
  repeat' (first
    | with_reducible assumption | with_reducible apply Keeps.ite | with_reducible apply Keeps.fold | with_reducible apply State.updSlot_keeps
    | with_reducible apply Run.keeps_done | with_reducible apply Run.keeps_going | with_reducible apply Run.keeps_wait
    | with_reducible apply Run.keeps_fault | (intro _; intros; try dsimp only) | split | with_reducible apply Keeps.other)

theorem vectorStart_keeps {base : State} {o : Origin} {u : Upset} {s : State} (hbase : Keeps base s) : Keeps base (vectorStart o u s) := by
  unfold vectorStart
  try dsimp only
  repeat' (first
    | with_reducible assumption | with_reducible apply Keeps.ite | with_reducible apply Keeps.fold | with_reducible apply State.startDesc_keeps
    | with_reducible apply runVector_keeps | with_reducible apply Run.keeps_done | with_reducible apply Run.keeps_going
    | with_reducible apply Run.keeps_wait | with_reducible apply Run.keeps_fault | with_reducible apply Run.keeps_done
    | with_reducible apply Run.keeps_going | with_reducible apply Run.keeps_wait | with_reducible apply Run.keeps_fault
    | refine Run.of_done ?_ (by with_reducible assumption) | refine Run.of_going ?_ (by with_reducible assumption)
    | refine Run.of_wait ?_ (by with_reducible assumption) | refine Run.of_fault ?_ (by with_reducible assumption)
    | (intro _; intros; try dsimp only) | split | with_reducible apply Keeps.other)

theorem State.vecFail_keeps {base : State} {s : State} {r k : Nat} {v : VecRun} {d : Desc} {m : VecMiss} (hbase : Keeps base s) : Keeps base (State.vecFail s r k v d m) := by
  unfold State.vecFail
  try dsimp only
  repeat' (first
    | with_reducible assumption | with_reducible apply Keeps.ite | with_reducible apply Keeps.fold | with_reducible apply State.fsets_keeps
    | with_reducible apply State.descFault_keeps | (intro _; intros; try dsimp only) | split | with_reducible apply Keeps.other)

theorem State.vecAdvance_keeps {base : State} {s : State} {r k : Nat} {d : Desc} {v : VecRun} (hbase : Keeps base s) : Keeps base (State.vecAdvance s r k d v) := by
  unfold State.vecAdvance
  try dsimp only
  repeat' (first
    | with_reducible assumption | with_reducible apply Keeps.ite | with_reducible apply Keeps.fold | with_reducible apply State.updSlot_keeps
    | with_reducible apply State.updDesc_keeps | with_reducible apply State.mergeHealth_keeps | with_reducible apply State.sample_keeps
    | (intro _; intros; try dsimp only) | split | with_reducible apply Keeps.other)

theorem State.vecStep_keeps {base : State} {s : State} {r k op : Nat} {chk : Option VecMiss} {f : State → Desc → VecRun → Nat → VecOut} (hbase : Keeps base s) (hf : ∀ x0 x1 x2 x3, Keeps base x0 → VecOut.Keeps base (f x0 x1 x2 x3)) : Keeps base (State.vecStep s r k op chk f) := by
  unfold State.vecStep
  try dsimp only
  repeat' (first
    | with_reducible assumption | with_reducible apply Keeps.ite | with_reducible apply Keeps.fold | with_reducible apply State.updSlot_keeps
    | with_reducible apply State.vecFail_keeps | with_reducible apply State.vecAdvance_keeps | with_reducible apply hf
    | with_reducible apply VecOut.keeps_done | with_reducible apply VecOut.keeps_wait | refine VecOut.of_done ?_ (by with_reducible assumption)
    | (intro _; intros; try dsimp only) | split | with_reducible apply Keeps.other)

theorem vecLanes_keeps {base : State} {g : Nat → Nat → Nat → Nat} {s : State} {u2 : Desc} {v : VecRun} {w : Nat} (hbase : Keeps base s) : VecOut.Keeps base (vecLanes g s u2 v w) := by
  unfold vecLanes
  try dsimp only
  repeat' (first
    | with_reducible assumption | with_reducible apply Keeps.ite | with_reducible apply Keeps.fold | with_reducible apply VecOut.keeps_done
    | with_reducible apply VecOut.keeps_wait | (intro _; intros; try dsimp only) | split | with_reducible apply Keeps.other
    | with_reducible apply Keeps.send)

theorem State.postSum_keeps {base : State} {s : State} {r k i : Nat} {x : Nat} (hbase : Keeps base s) : OptKeeps base (State.postSum s r k i x) := by
  unfold State.postSum
  try dsimp only
  repeat' (first
    | with_reducible assumption | with_reducible apply Keeps.ite | with_reducible apply Keeps.fold | with_reducible apply State.updSlot_keeps
    | with_reducible apply OptKeeps.none | with_reducible apply OptKeeps.some | with_reducible apply OptKeeps.map
    | with_reducible apply OptKeeps.bind | (intro _; intros; try dsimp only) | split | with_reducible apply Keeps.other)

theorem vecPost_keeps {base : State} {s : State} {v : VecRun} {d : Desc} {w x : Nat} {posts : Bool} (hbase : Keeps base s) : VecOut.Keeps base (vecPost s v d w x posts) := by
  unfold vecPost
  try dsimp only
  repeat' (first
    | with_reducible assumption | with_reducible apply Keeps.ite | with_reducible apply Keeps.fold | with_reducible apply State.postSum_keeps
    | with_reducible apply VecOut.keeps_done | with_reducible apply VecOut.keeps_wait | with_reducible apply OptKeeps.none
    | with_reducible apply OptKeeps.some | with_reducible apply OptKeeps.map | with_reducible apply OptKeeps.bind
    | refine OptKeeps.of_some ?_ (by with_reducible assumption) | (intro _; intros; try dsimp only) | split | with_reducible apply Keeps.other)

theorem vecReduce_keeps {base : State} {g : List Nat → Option Nat} {empty : Nat} {s : State} {d : Desc} {v : VecRun} {w : Nat} (hbase : Keeps base s) : VecOut.Keeps base (vecReduce g empty s d v w) := by
  unfold vecReduce
  try dsimp only
  repeat' (first
    | with_reducible assumption | with_reducible apply Keeps.ite | with_reducible apply Keeps.fold | with_reducible apply vecPost_keeps
    | with_reducible apply VecOut.keeps_done | with_reducible apply VecOut.keeps_wait | refine VecOut.of_done ?_ (by with_reducible assumption)
    | (intro _; intros; try dsimp only) | split | with_reducible apply Keeps.other | with_reducible apply Keeps.send)

theorem vecArgMax_keeps {base : State} {s : State} {d : Desc} {v : VecRun} {w : Nat} (hbase : Keeps base s) : VecOut.Keeps base (vecArgMax s d v w) := by
  unfold vecArgMax
  try dsimp only
  repeat' (first
    | with_reducible assumption | with_reducible apply Keeps.ite | with_reducible apply Keeps.fold | with_reducible apply vecPost_keeps
    | with_reducible apply VecOut.keeps_done | with_reducible apply VecOut.keeps_wait | refine VecOut.of_done ?_ (by with_reducible assumption)
    | (intro _; intros; try dsimp only) | split | with_reducible apply Keeps.other)

theorem vecTrans_keeps {base : State} {s : State} {u1 : Desc} {v : VecRun} {w : Nat} (hbase : Keeps base s) : VecOut.Keeps base (vecTrans s u1 v w) := by
  unfold vecTrans
  try dsimp only
  repeat' (first
    | with_reducible assumption | with_reducible apply Keeps.ite | with_reducible apply Keeps.fold | with_reducible apply VecOut.keeps_done
    | with_reducible apply VecOut.keeps_wait | (intro _; intros; try dsimp only) | split | with_reducible apply Keeps.other)

theorem vecBcast_keeps {base : State} {s : State} {u1 : Desc} {v : VecRun} {w : Nat} (hbase : Keeps base s) : VecOut.Keeps base (vecBcast s u1 v w) := by
  unfold vecBcast
  try dsimp only
  repeat' (first
    | with_reducible assumption | with_reducible apply Keeps.ite | with_reducible apply Keeps.fold | with_reducible apply VecOut.keeps_done
    | with_reducible apply VecOut.keeps_wait | (intro _; intros; try dsimp only) | split | with_reducible apply Keeps.other)

theorem vecIota_keeps {base : State} {s : State} {u1 : Desc} {v : VecRun} {w : Nat} (hbase : Keeps base s) : VecOut.Keeps base (vecIota s u1 v w) := by
  unfold vecIota
  try dsimp only
  repeat' (first
    | with_reducible assumption | with_reducible apply Keeps.ite | with_reducible apply Keeps.fold | with_reducible apply VecOut.keeps_done
    | with_reducible apply VecOut.keeps_wait | (intro _; intros; try dsimp only) | split | with_reducible apply Keeps.other)

theorem vecPostOp_keeps {base : State} {s : State} {d : Desc} {v : VecRun} {w : Nat} (hbase : Keeps base s) : VecOut.Keeps base (vecPostOp s d v w) := by
  unfold vecPostOp
  try dsimp only
  repeat' (first
    | with_reducible assumption | with_reducible apply Keeps.ite | with_reducible apply Keeps.fold | with_reducible apply vecPost_keeps
    | with_reducible apply VecOut.keeps_done | with_reducible apply VecOut.keeps_wait | refine VecOut.of_done ?_ (by with_reducible assumption)
    | (intro _; intros; try dsimp only) | split | with_reducible apply Keeps.other)

theorem vecLd_keeps {base : State} {s : State} {d : Desc} {v : VecRun} {w : Nat} (hbase : Keeps base s) : VecOut.Keeps base (vecLd s d v w) := by
  unfold vecLd
  try dsimp only
  repeat' (first
    | with_reducible assumption | with_reducible apply Keeps.ite | with_reducible apply Keeps.fold | with_reducible apply VecOut.keeps_done
    | with_reducible apply VecOut.keeps_wait | (intro _; intros; try dsimp only) | split | with_reducible apply Keeps.other
    | with_reducible apply Keeps.send)

theorem vecSt_keeps {base : State} {s : State} {d : Desc} {v : VecRun} {w : Nat} (hbase : Keeps base s) : VecOut.Keeps base (vecSt s d v w) := by
  unfold vecSt
  try dsimp only
  repeat' (first
    | with_reducible assumption | with_reducible apply Keeps.ite | with_reducible apply Keeps.fold | with_reducible apply State.vstore_keeps
    | with_reducible apply VecOut.keeps_done | with_reducible apply VecOut.keeps_wait | (intro _; intros; try dsimp only) | split
    | with_reducible apply Keeps.other)

theorem vecLdh_keeps {base : State} {s : State} {d : Desc} {v : VecRun} {w : Nat} (hbase : Keeps base s) : VecOut.Keeps base (vecLdh s d v w) := by
  unfold vecLdh
  try dsimp only
  repeat' (first
    | with_reducible assumption | with_reducible apply Keeps.ite | with_reducible apply Keeps.fold | with_reducible apply VecOut.keeps_done
    | with_reducible apply VecOut.keeps_wait | (intro _; intros; try dsimp only) | split | with_reducible apply Keeps.other)

end Sys2Proof.Machine
end

