-- ==== Sys2Proof/Laws/KeepsLayout.lean ====
section
/-! SUPPORT. What the operations of Sys2Proof/Machine/Layout.lean keep (Laws/Keeps.lean). -/
namespace Sys2Proof.Machine

set_option linter.unusedTactic false
set_option linter.unreachableTactic false

theorem State.addExtent_keeps {base : State} {s : State} {o : Origin} {e : Nat × Nat} (hbase : Keeps base s) : Keeps base (State.addExtent s o e) := by
  unfold State.addExtent
  try dsimp only
  repeat' (first
    | with_reducible assumption | with_reducible apply Keeps.ite | with_reducible apply Keeps.fold | with_reducible apply State.updRing_keeps
    | with_reducible apply State.updSlot_keeps | (intro _; intros; try dsimp only) | split | with_reducible apply Keeps.other)

theorem State.kalLog_keeps {base : State} {s : State} {o : Origin} {raw kind : Nat} (hbase : Keeps base s) : Keeps base (State.kalLog s o raw kind) := by
  unfold State.kalLog
  try dsimp only
  repeat' (first
    | with_reducible assumption | with_reducible apply Keeps.ite | with_reducible apply Keeps.fold | with_reducible apply State.fsets_keeps
    | (intro _; intros; try dsimp only) | split | with_reducible apply Keeps.other)

theorem State.kaPut_keeps {base : State} {s : State} {p a b : Nat} {l : List Nat} {owner : Owner} (hbase : Keeps base s) : Keeps base (State.kaPut s p a b l owner) := by
  unfold State.kaPut
  try dsimp only
  repeat' (first
    | with_reducible assumption | with_reducible apply Keeps.ite | with_reducible apply Keeps.fold | with_reducible apply State.vstore_keeps
    | (intro _; intros; try dsimp only) | split | with_reducible apply Keeps.other)

theorem State.kaWrite_keeps {base : State} {s : State} {p raw sh : Nat} {g : Rng} {owner : Owner} (hbase : Keeps base s) : Keeps base (State.kaWrite s p raw sh g owner).1 := by
  unfold State.kaWrite
  try dsimp only
  repeat' (first
    | with_reducible assumption | with_reducible apply Keeps.ite | with_reducible apply Keeps.fold | with_reducible apply Keeps.each
    | with_reducible apply State.vstore_keeps | with_reducible apply State.kaPut_keeps | (intro _; intros; try dsimp only) | split
    | with_reducible apply Keeps.other)

theorem startLayout_keeps {base : State} {o : Origin} {s : State} {d : Desc} (hbase : Keeps base s) : Run.Keeps base (startLayout o s d) := by
  unfold startLayout
  try dsimp only
  repeat' (first
    | with_reducible assumption | with_reducible apply Keeps.ite | with_reducible apply Keeps.fold | with_reducible apply State.accMax_keeps
    | with_reducible apply State.addExtent_keeps | with_reducible apply State.kalLog_keeps | with_reducible apply Run.keeps_done
    | with_reducible apply Run.keeps_going | with_reducible apply Run.keeps_wait | with_reducible apply Run.keeps_fault
    | (intro _; intros; try dsimp only) | split | with_reducible apply Keeps.other)

theorem runLayout_keeps {base : State} {o : Origin} {check : Bool} {s : State} {d : Desc} (hbase : Keeps base s) : Run.Keeps base (runLayout o check s d) := by
  unfold runLayout
  try dsimp only
  repeat' (first
    | with_reducible assumption | refine Keeps.of_fst (by with_reducible assumption) ?_ | with_reducible apply Keeps.ite
    | with_reducible apply Keeps.fold | with_reducible apply Keeps.foldFst | with_reducible apply State.accAdd_keeps
    | with_reducible apply State.mergeHealth_keeps | with_reducible apply State.kalLog_keeps | with_reducible apply State.kaWrite_keeps
    | with_reducible apply Run.keeps_done | with_reducible apply Run.keeps_going | with_reducible apply Run.keeps_wait
    | with_reducible apply Run.keeps_fault | (intro _; intros; try dsimp only) | split | with_reducible apply Keeps.other)

theorem layoutCmd_keeps {base : State} {o : Origin} {u : Upset} {s : State} (hbase : Keeps base s) : Keeps base (layoutCmd o u s) := by
  unfold layoutCmd
  try dsimp only
  repeat' (first
    | with_reducible assumption | with_reducible apply Keeps.ite | with_reducible apply Keeps.fold | with_reducible apply State.startDesc_keeps
    | with_reducible apply startLayout_keeps | with_reducible apply runLayout_keeps | with_reducible apply Run.keeps_done
    | with_reducible apply Run.keeps_going | with_reducible apply Run.keeps_wait | with_reducible apply Run.keeps_fault
    | with_reducible apply Run.keeps_done | with_reducible apply Run.keeps_going | with_reducible apply Run.keeps_wait
    | with_reducible apply Run.keeps_fault | refine Run.of_done ?_ (by with_reducible assumption)
    | refine Run.of_going ?_ (by with_reducible assumption) | refine Run.of_wait ?_ (by with_reducible assumption)
    | refine Run.of_fault ?_ (by with_reducible assumption) | (intro _; intros; try dsimp only) | split | with_reducible apply Keeps.other)

end Sys2Proof.Machine
end

