-- ==== Sys2Proof/Laws/KeepsRemote.lean ====
section
/-! SUPPORT. What the operations of Sys2Proof/Machine/Remote.lean keep (Laws/Keeps.lean). -/
namespace Sys2Proof.Machine

set_option linter.unusedTactic false
set_option linter.unreachableTactic false

theorem State.sendDrop_keeps {base : State} {s : State} {p blk bytes : Nat} {who : Dropper} (hbase : Keeps base s) : OptKeeps base (State.sendDrop s p blk bytes who) := by
  unfold State.sendDrop
  try dsimp only
  repeat' (first
    | with_reducible assumption | with_reducible apply Keeps.ite | with_reducible apply Keeps.fold | with_reducible apply State.updPart_keeps
    | with_reducible apply State.sendFlit_keeps | with_reducible apply OptKeeps.none | with_reducible apply OptKeeps.some
    | with_reducible apply OptKeeps.map | with_reducible apply OptKeeps.bind | refine OptKeeps.of_some ?_ (by with_reducible assumption)
    | (intro _; intros; try dsimp only) | split | with_reducible apply Keeps.other)

theorem State.sendData_keeps {base s : State} {p blk addr fuel : Nat} {data : List Byte} (h : Keeps base s) :
    OptKeeps base (State.sendData s p blk addr fuel data) := by
  induction fuel generalizing s addr data with
  | zero => exact OptKeeps.some h
  | succ n ih =>
    unfold State.sendData
    split
    · exact OptKeeps.some h
    · split
      · exact OptKeeps.none
      · exact ih (OptKeeps.of_some (State.sendFlit_keeps h) (by assumption))

theorem State.noRouteRun_keeps {base : State} {s : State} {p blk : Nat} (hbase : Keeps base s) : Run.Keeps base (State.noRouteRun s p blk) := by
  unfold State.noRouteRun
  try dsimp only
  repeat' (first
    | with_reducible assumption | with_reducible apply Keeps.ite | with_reducible apply Keeps.fold | with_reducible apply State.logNoRoute_keeps
    | with_reducible apply State.noRoute_keeps | with_reducible apply Run.keeps_done | with_reducible apply Run.keeps_going
    | with_reducible apply Run.keeps_wait | with_reducible apply Run.keeps_fault | (intro _; intros; try dsimp only) | split
    | with_reducible apply Keeps.other)

theorem State.awaitDrop_keeps {base : State} {s : State} {o : Origin} {id blk : Nat} (hbase : Keeps base s) : Keeps base (State.awaitDrop s o id blk) := by
  unfold State.awaitDrop
  try dsimp only
  repeat' (first
    | with_reducible assumption | with_reducible apply Keeps.ite | with_reducible apply Keeps.fold | with_reducible apply State.updDesc_keeps
    | (intro _; intros; try dsimp only) | split | with_reducible apply Keeps.other)

theorem State.dropRun_keeps {base : State} {s : State} {o : Origin} {d : Desc} {blk bytes result : Nat} (hbase : Keeps base s) : Run.Keeps base (State.dropRun s o d blk bytes result) := by
  unfold State.dropRun
  try dsimp only
  repeat' (first
    | with_reducible assumption | with_reducible apply Keeps.ite | with_reducible apply Keeps.fold | with_reducible apply State.sendDrop_keeps
    | with_reducible apply State.noRouteRun_keeps | with_reducible apply State.awaitDrop_keeps | with_reducible apply Run.keeps_done
    | with_reducible apply Run.keeps_going | with_reducible apply Run.keeps_wait | with_reducible apply Run.keeps_fault
    | with_reducible apply OptKeeps.none | with_reducible apply OptKeeps.some | with_reducible apply OptKeeps.map
    | with_reducible apply OptKeeps.bind | refine OptKeeps.of_some ?_ (by with_reducible assumption)
    | refine Run.of_done ?_ (by with_reducible assumption) | refine Run.of_going ?_ (by with_reducible assumption)
    | refine Run.of_wait ?_ (by with_reducible assumption) | refine Run.of_fault ?_ (by with_reducible assumption)
    | (intro _; intros; try dsimp only) | split | with_reducible apply Keeps.other)

end Sys2Proof.Machine
end

