-- ==== Sys2Proof/Laws/KeepsCollective.lean ====
section
/-! SUPPORT. What the operations of Sys2Proof/Machine/Collective.lean keep (Laws/Keeps.lean). -/
namespace Sys2Proof.Machine

set_option linter.unusedTactic false
set_option linter.unreachableTactic false

/-- A send keeps, whether it succeeds or is stopped; `st` is the state in what a success gives. -/
structure SentOn {α : Type} (st : α → State) (a : State) (x : Sent α) : Prop where
  ok : ∀ t, x = .ok t → Keeps a (st t)
  err : ∀ y, x = .error y → Keeps a y.1

theorem SentOn.done {a s : State} (h : Keeps a s) : SentOn (fun s => s) a (.ok s) :=
  ⟨fun _ e => by cases e; exact h, fun _ e => by cases e⟩
theorem SentOn.doneP {β : Type} {a : State} {y : State × β} (h : Keeps a y.1) : SentOn Prod.fst a (.ok y) :=
  ⟨fun _ e => by cases e; exact h, fun _ e => by cases e⟩
theorem SentOn.stop {α : Type} {st : α → State} {a : State} {y : State × CollStop} (h : Keeps a y.1) : SentOn st a (.error y) :=
  ⟨fun _ e => (by cases e), fun _ e => by cases e; exact h⟩
theorem SentOn.bind {α β : Type} {st : α → State} {st' : β → State} {a : State} {x : Sent α} {f : α → Sent β} (h : SentOn st a x)
    (hf : ∀ t, Keeps a (st t) → SentOn st' a (f t)) : SentOn st' a (x >>= f) := by
  cases x with
  | error y => exact .stop (h.err y rfl)
  | ok t => exact hf t (h.ok t rfl)
theorem SentOn.foldlM {α β : Type} {st : β → State} {a : State} {l : List α} {f : β → α → Sent β} {y : β} (h : Keeps a (st y))
    (hf : ∀ y x, Keeps a (st y) → SentOn st a (f y x)) : SentOn st a (l.foldlM f y) := by
  induction l generalizing y with
  | nil => exact ⟨fun _ e => by cases e; exact h, fun _ e => by cases e⟩
  | cons x t ih => rw [List.foldlM_cons]; exact SentOn.bind (hf y x h) fun t ht => ih ht
theorem SentOn.of_ok {a s : State} {x : Sent State} (h : SentOn (fun s => s) a x) (e : x = .ok s) : Keeps a s := h.ok s e
theorem SentOn.of_okP {β : Type} {a : State} {y : State × β} {x : Sent (State × β)} (h : SentOn Prod.fst a x) (e : x = .ok y) : Keeps a y.1 := h.ok y e
theorem SentOn.of_okPair {β : Type} {a s : State} {c : β} {x : Sent (State × β)} (h : SentOn Prod.fst a x) (e : x = .ok (s, c)) : Keeps a s :=
  h.ok (s, c) e
theorem SentOn.of_errP {β : Type} {a : State} {y : State × CollStop} {x : Sent (State × β)} (h : SentOn Prod.fst a x) (e : x = .error y) : Keeps a y.1 :=
  h.err y e
theorem SentOn.of_err {a : State} {y : State × CollStop} {x : Sent State} (h : SentOn (fun s => s) a x) (e : x = .error y) : Keeps a y.1 :=
  h.err y e
theorem SentOn.of_errPair {β : Type} {a s : State} {n : CollStop} {x : Sent (State × β)} (h : SentOn Prod.fst a x) (e : x = .error (s, n)) : Keeps a s :=
  h.err (s, n) e

theorem State.setEngine_keeps {base : State} {s : State} {p : Nat} {tc : Bool} {x : Option Coll} (hbase : Keeps base s) : Keeps base (State.setEngine s p tc x) := by
  unfold State.setEngine
  try dsimp only
  repeat' (first
    | with_reducible assumption | with_reducible apply Keeps.ite | with_reducible apply Keeps.fold | with_reducible apply State.updPart_keeps
    | (intro _; intros; try dsimp only) | split | with_reducible apply Keeps.other)

theorem State.collStopped_keeps {base s : State} {p : Nat} {x : Coll} {w : CollStop} (h : Keeps base s) : Keeps base (State.collStopped s p x w) := by
  cases w with
  | noRoute n => exact State.collFault_keeps (State.logNoRoute_keeps h)
  | uncorr b => exact State.collFault_keeps h

theorem State.sendCollFlit_keeps {base s : State} {p : Nat} {x : Coll} {typ vc : Nat} {dest : Nat × Nat} {kind phase addr : Nat} {data : List Byte}
    (h : Keeps base s) : SentOn (fun s => s) base (State.sendCollFlit s p x typ vc dest kind phase addr data) := by
  unfold State.sendCollFlit
  split
  · exact SentOn.done (OptKeeps.of_some (State.sendFlit_keeps (State.tick_keeps h)) ‹_›)
  · exact SentOn.stop h

theorem State.sendCollData_keeps {base s : State} {p : Nat} {x : Coll} {dest : Nat × Nat} {phase addr fuel : Nat} {data : List Byte} (h : Keeps base s) :
    SentOn (fun s => s) base (State.sendCollData s p x dest phase addr fuel data) := by
  induction fuel generalizing s addr data with
  | zero => exact SentOn.done h
  | succ n ih =>
    unfold State.sendCollData
    split
    · exact SentOn.done h
    · exact SentOn.bind (State.sendCollFlit_keeps h) fun t ht => ih ht

theorem State.collRead_keeps {base : State} {s : State} {p va n : Nat} (hbase : Keeps base s) : SentOn Prod.fst base (State.collRead s p va n) := by
  unfold State.collRead
  try dsimp only
  repeat' (first
    | with_reducible assumption | refine Keeps.of_fst (by with_reducible assumption) ?_ | with_reducible apply Keeps.ite
    | with_reducible apply Keeps.fold | with_reducible apply State.readFor_keeps | with_reducible apply SentOn.doneP
    | with_reducible apply SentOn.stop | with_reducible apply SentOn.bind | with_reducible apply SentOn.foldlM | (intro _; intros; try dsimp only)
    | split | with_reducible apply Keeps.other)

theorem State.pieceData_keeps {root : State} {s : State} {p : Nat} {x : Coll} {combine : Bool} {base t : Nat} (hbase : Keeps root s) : SentOn Prod.fst root (State.pieceData s p x combine base t) := by
  unfold State.pieceData
  try dsimp only
  repeat' (first
    | with_reducible assumption | with_reducible apply Keeps.ite | with_reducible apply Keeps.fold | with_reducible apply State.collRead_keeps
    | with_reducible apply SentOn.doneP | with_reducible apply SentOn.stop | with_reducible apply SentOn.bind | with_reducible apply SentOn.foldlM
    | with_reducible apply SentOn.doneP | with_reducible apply SentOn.stop | with_reducible apply SentOn.bind | with_reducible apply SentOn.foldlM
    | refine SentOn.of_okPair ?_ (by with_reducible assumption) | refine SentOn.of_okP ?_ (by with_reducible assumption)
    | refine SentOn.of_errP ?_ (by with_reducible assumption) | refine SentOn.of_errPair ?_ (by with_reducible assumption)
    | (intro _; intros; try dsimp only) | split | with_reducible apply Keeps.other)

theorem State.sendPieces_keeps {base s : State} {p : Nat} {x : Coll} {combine : Bool} {dest : Nat × Nat} {b : Nat} {l : List Nat} (h : Keeps base s) :
    SentOn (fun s => s) base (State.sendPieces s p x combine dest b l) := by
  induction l generalizing s with
  | nil => exact SentOn.done h
  | cons t ts ih => exact SentOn.bind (State.pieceData_keeps h) fun y hy => SentOn.bind (State.sendCollData_keeps hy) fun t ht => ih ht

theorem State.sendExchange_keeps {root : State} {s : State} {p : Nat} {x : Coll} {combine : Bool} {base : Nat} {e : Exchange} (hbase : Keeps root s) : SentOn (fun s => s) root (State.sendExchange s p x combine base e) := by
  unfold State.sendExchange
  try dsimp only
  repeat' (first
    | with_reducible assumption | with_reducible apply Keeps.ite | with_reducible apply Keeps.fold | with_reducible apply State.sendCollData_keeps
    | with_reducible apply State.sendPieces_keeps | with_reducible apply SentOn.done | with_reducible apply SentOn.stop
    | with_reducible apply SentOn.bind | with_reducible apply SentOn.foldlM | refine SentOn.of_ok ?_ (by with_reducible assumption)
    | refine SentOn.of_err ?_ (by with_reducible assumption) | (intro _; intros; try dsimp only) | split | with_reducible apply Keeps.other)

theorem State.writeRoot_keeps {base : State} {s : State} {p : Nat} {x : Coll} {lo n at_ : Nat} (hbase : Keeps base s) : Keeps base (State.writeRoot s p x lo n at_).1 := by
  unfold State.writeRoot
  try dsimp only
  repeat' (first
    | with_reducible assumption | with_reducible apply Keeps.ite | with_reducible apply Keeps.fold | with_reducible apply Keeps.foldFst
    | with_reducible apply State.vstore_keeps | (intro _; intros; try dsimp only) | split | with_reducible apply Keeps.other)

theorem State.writeOwnRoot_keeps {base : State} {s : State} {p : Nat} {x : Coll} (hbase : Keeps base s) : Keeps base (State.writeOwnRoot s p x).1 := by
  unfold State.writeOwnRoot
  try dsimp only
  repeat' (first
    | with_reducible assumption | refine Keeps.of_fst (by with_reducible assumption) ?_ | with_reducible apply Keeps.ite
    | with_reducible apply Keeps.fold | with_reducible apply State.writeRoot_keeps | (intro _; intros; try dsimp only) | split
    | with_reducible apply Keeps.other)

theorem State.endColl_keeps {base : State} {s : State} {p : Nat} {tc : Bool} {x : Coll} (hbase : Keeps base s) : Keeps base (State.endColl s p tc x) := by
  unfold State.endColl
  try dsimp only
  repeat' (first
    | with_reducible assumption | with_reducible apply Keeps.ite | with_reducible apply Keeps.fold | with_reducible apply Keeps.each
    | with_reducible apply State.undef_keeps | with_reducible apply State.noRoute_keeps | with_reducible apply State.ranDesc_keeps
    | with_reducible apply State.sendDrop_keeps | with_reducible apply State.awaitDrop_keeps | with_reducible apply State.setEngine_keeps
    | with_reducible apply State.collStopped_keeps | with_reducible apply OptKeeps.none | with_reducible apply OptKeeps.some
    | with_reducible apply OptKeeps.map | with_reducible apply OptKeeps.bind | refine OptKeeps.of_some ?_ (by with_reducible assumption)
    | (intro _; intros; try dsimp only) | split | with_reducible apply Keeps.other)

theorem State.collOver_keeps {base : State} {s : State} {p : Nat} {tc : Bool} {x : Coll} (hbase : Keeps base s) : Keeps base (State.collOver s p tc x) := by
  unfold State.collOver
  try dsimp only
  repeat' (first
    | with_reducible assumption | with_reducible apply Keeps.ite | with_reducible apply Keeps.fold | with_reducible apply State.mergeHealth_keeps
    | with_reducible apply State.setEngine_keeps | with_reducible apply State.endColl_keeps | (intro _; intros; try dsimp only) | split
    | with_reducible apply Keeps.other)

theorem State.logFpx_keeps {base : State} {s : State} {p : Nat} {self maj : Bool} {outliers part node : Nat} (hbase : Keeps base s) : Keeps base (State.logFpx s p self maj outliers part node) := by
  unfold State.logFpx
  try dsimp only
  repeat' (first
    | with_reducible assumption | with_reducible apply Keeps.ite | with_reducible apply Keeps.fold | with_reducible apply State.fsets_keeps
    | (intro _; intros; try dsimp only) | split | with_reducible apply Keeps.other)

theorem State.suspectAll_keeps {base : State} {s : State} {p : Nat} (hbase : Keeps base s) : Keeps base (State.suspectAll s p) := by
  unfold State.suspectAll
  try dsimp only
  repeat' (first
    | with_reducible assumption | with_reducible apply Keeps.ite | with_reducible apply Keeps.fold | with_reducible apply Keeps.each
    | with_reducible apply State.suspect_keeps | (intro _; intros; try dsimp only) | split | with_reducible apply Keeps.other)

theorem State.classify_keeps {base : State} {s : State} {p : Nat} {x : Coll} {recs : List Nat} (hbase : Keeps base s) : Keeps base (State.classify s p x recs) := by
  unfold State.classify
  try dsimp only
  repeat' (first
    | with_reducible assumption | with_reducible apply Keeps.ite | with_reducible apply Keeps.fold | with_reducible apply Keeps.foldFst
    | with_reducible apply State.collFault_keeps | with_reducible apply State.logFpx_keeps | with_reducible apply State.suspectAll_keeps
    | (intro _; intros; try dsimp only) | split | with_reducible apply Keeps.other)

theorem State.announce_keeps {base s : State} {p : Nat} {x : Coll} {combine : Bool} {l : List Exchange} (h : Keeps base s) :
    SentOn (fun s => s) base (State.announce s p x combine l) := by
  induction l generalizing s with
  | nil => exact SentOn.done h
  | cons e es ih =>
    unfold State.announce
    split
    · exact ih h
    · exact SentOn.bind (State.sendCollFlit_keeps h) fun t ht => ih ht

theorem State.sendPhase_keeps {base s : State} {p : Nat} {x : Coll} {combine : Bool} {l : List Exchange} (h : Keeps base s) :
    SentOn Prod.fst base (State.sendPhase s p x combine l) := by
  induction l generalizing s x with
  | nil => exact SentOn.doneP h
  | cons e es ih =>
    unfold State.sendPhase
    split
    · exact ih h
    · split
      · exact ih h
      · exact SentOn.bind (State.sendExchange_keeps h) fun t ht => ih ht

theorem State.combinePiece_keeps {base : State} {s : State} {p : Nat} {left : Bool} {x : Coll} {t : Nat} (hbase : Keeps base s) : SentOn Prod.fst base (State.combinePiece s p left x t) := by
  unfold State.combinePiece
  try dsimp only
  repeat' (first
    | with_reducible assumption | with_reducible apply Keeps.ite | with_reducible apply Keeps.fold | with_reducible apply State.collRead_keeps
    | with_reducible apply SentOn.doneP | with_reducible apply SentOn.stop | with_reducible apply SentOn.bind | with_reducible apply SentOn.foldlM
    | with_reducible apply SentOn.doneP | with_reducible apply SentOn.stop | with_reducible apply SentOn.bind | with_reducible apply SentOn.foldlM
    | refine SentOn.of_okPair ?_ (by with_reducible assumption) | refine SentOn.of_okP ?_ (by with_reducible assumption)
    | refine SentOn.of_errP ?_ (by with_reducible assumption) | refine SentOn.of_errPair ?_ (by with_reducible assumption)
    | (intro _; intros; try dsimp only) | split | with_reducible apply Keeps.other)

theorem State.takePhase_keeps {base : State} {s : State} {p : Nat} {x : Coll} {combine : Bool} {es : List Exchange} (hbase : Keeps base s) : SentOn Prod.fst base (State.takePhase s p x combine es) := by
  unfold State.takePhase
  try dsimp only
  repeat' (first
    | with_reducible assumption | with_reducible apply Keeps.ite | with_reducible apply Keeps.fold | with_reducible apply Keeps.foldFst
    | with_reducible apply State.combinePiece_keeps | with_reducible apply SentOn.doneP | with_reducible apply SentOn.stop
    | with_reducible apply SentOn.bind | with_reducible apply SentOn.foldlM | refine SentOn.of_okPair ?_ (by with_reducible assumption)
    | refine SentOn.of_okP ?_ (by with_reducible assumption) | refine SentOn.of_errP ?_ (by with_reducible assumption)
    | refine SentOn.of_errPair ?_ (by with_reducible assumption) | (intro _; intros; try dsimp only) | split | with_reducible apply Keeps.other)

theorem State.bulkPhases_keeps {base s : State} {p fuel : Nat} {x : Coll} (h : Keeps base s) : SentOn Prod.fst base (State.bulkPhases s p fuel x) := by
  induction fuel generalizing s x with
  | zero => exact SentOn.doneP h
  | succ n ih =>
    unfold State.bulkPhases
    split
    · exact SentOn.doneP h
    · split
      · exact SentOn.doneP h
      · refine SentOn.bind (State.sendPhase_keeps h) fun y hy => ?_
        obtain ⟨s1, x1⟩ := y
        dsimp only
        split
        · exact SentOn.doneP hy
        · refine SentOn.bind (State.takePhase_keeps hy) fun z hz => ?_
          obtain ⟨s2, x2⟩ := z
          dsimp only
          have key : ∀ (y : State × Coll) (next : Option (List Exchange × Bool)), Keeps base y.1 → SentOn Prod.fst base (match next with
              | none => y.1.bulkPhases p n y.2
              | some (es, c) => do
                let s ← y.1.announce p y.2 c es
                s.bulkPhases p n y.2) := by
            intro y next h3
            cases next with
            | none => exact ih h3
            | some e => exact SentOn.bind (State.announce_keeps h3) fun t ht => ih ht
          refine key _ _ ?_
          split
          · exact State.writeOwnRoot_keeps hz
          · exact hz

theorem State.bulkBegin_keeps {base : State} {s : State} {p : Nat} {x : Coll} (hbase : Keeps base s) : SentOn Prod.fst base (State.bulkBegin s p x) := by
  unfold State.bulkBegin
  try dsimp only
  repeat' (first
    | with_reducible assumption | with_reducible apply Keeps.ite | with_reducible apply Keeps.fold | with_reducible apply State.announce_keeps
    | with_reducible apply State.bulkPhases_keeps | with_reducible apply SentOn.doneP | with_reducible apply SentOn.stop
    | with_reducible apply SentOn.bind | with_reducible apply SentOn.foldlM | refine SentOn.of_okPair ?_ (by with_reducible assumption)
    | refine SentOn.of_okP ?_ (by with_reducible assumption) | refine SentOn.of_errP ?_ (by with_reducible assumption)
    | refine SentOn.of_errPair ?_ (by with_reducible assumption) | with_reducible apply SentOn.done | with_reducible apply SentOn.stop
    | with_reducible apply SentOn.bind | with_reducible apply SentOn.foldlM | refine SentOn.of_ok ?_ (by with_reducible assumption)
    | refine SentOn.of_err ?_ (by with_reducible assumption) | (intro _; intros; try dsimp only) | split | with_reducible apply Keeps.other)

theorem State.switchGo_keeps {base s : State} {p : Nat} {fuel : Nat} {x : Coll} (h : Keeps base s) :
    SentOn Prod.fst base (State.switchGo s p fuel x) := by
  induction fuel generalizing s x with
  | zero => exact SentOn.doneP h
  | succ n ih =>
    unfold State.switchGo
    dsimp only
    split
    · exact SentOn.bind (State.sendCollFlit_keeps h) fun t ht => ih ht
    · split
      · split
        · exact SentOn.doneP h
        · exact SentOn.bind (State.sendCollData_keeps h) fun t ht => ih ht
      · split
        · refine SentOn.bind (State.collRead_keeps h) fun y hy => SentOn.doneP ?_
          split
          · exact State.writeRoot_keeps hy
          · exact State.writeRoot_keeps hy
        · exact SentOn.doneP h

theorem State.sendValue_keeps {base : State} {s : State} {p : Nat} {x : Coll} {rank kind : Nat} {v : List Byte} (hbase : Keeps base s) : SentOn (fun s => s) base (State.sendValue s p x rank kind v) := by
  unfold State.sendValue
  try dsimp only
  repeat' (first
    | with_reducible assumption | with_reducible apply Keeps.ite | with_reducible apply Keeps.fold | with_reducible apply State.sendCollFlit_keeps
    | with_reducible apply SentOn.done | with_reducible apply SentOn.stop | with_reducible apply SentOn.bind | with_reducible apply SentOn.foldlM
    | refine SentOn.of_ok ?_ (by with_reducible assumption) | refine SentOn.of_err ?_ (by with_reducible assumption)
    | (intro _; intros; try dsimp only) | split | with_reducible apply Keeps.other)

theorem State.sendDown_keeps {base s : State} {p : Nat} {x : Coll} {v : List Byte} {l : List Nat} (h : Keeps base s) :
    SentOn (fun s => s) base (State.sendDown s p x v l) := by
  induction l generalizing s with
  | nil => exact SentOn.done h
  | cons r rs ih => exact SentOn.bind (State.sendValue_keeps h) fun t ht => ih ht

theorem State.writeWords_keeps {base : State} {s : State} {p : Nat} {x : Coll} {v : List Byte} (hbase : Keeps base s) : Keeps base (State.writeWords s p x v) := by
  unfold State.writeWords
  try dsimp only
  repeat' (first
    | with_reducible assumption | with_reducible apply Keeps.ite | with_reducible apply Keeps.fold | with_reducible apply Keeps.each
    | with_reducible apply State.vstore_keeps | (intro _; intros; try dsimp only) | split | with_reducible apply Keeps.other)

theorem State.identify_keeps {base : State} {s : State} {p : Nat} {x : Coll} (hbase : Keeps base s) : SentOn Prod.fst base (State.identify s p x) := by
  unfold State.identify
  try dsimp only
  repeat' (first
    | with_reducible assumption | with_reducible apply Keeps.ite | with_reducible apply Keeps.fold | with_reducible apply State.vstore_keeps
    | with_reducible apply State.bulkBegin_keeps | with_reducible apply SentOn.doneP | with_reducible apply SentOn.stop
    | with_reducible apply SentOn.bind | with_reducible apply SentOn.foldlM | refine SentOn.of_okPair ?_ (by with_reducible assumption)
    | refine SentOn.of_okP ?_ (by with_reducible assumption) | refine SentOn.of_errP ?_ (by with_reducible assumption)
    | refine SentOn.of_errPair ?_ (by with_reducible assumption) | (intro _; intros; try dsimp only) | split | with_reducible apply Keeps.other)

theorem State.takeValue_keeps {base : State} {s : State} {p : Nat} {x : Coll} {v : List Byte} (hbase : Keeps base s) : SentOn Prod.fst base (State.takeValue s p x v) := by
  unfold State.takeValue
  try dsimp only
  repeat' (first
    | with_reducible assumption | with_reducible apply Keeps.ite | with_reducible apply Keeps.fold | with_reducible apply State.writeWords_keeps
    | with_reducible apply State.identify_keeps | with_reducible apply SentOn.doneP | with_reducible apply SentOn.stop
    | with_reducible apply SentOn.bind | with_reducible apply SentOn.foldlM | refine SentOn.of_okPair ?_ (by with_reducible assumption)
    | refine SentOn.of_okP ?_ (by with_reducible assumption) | refine SentOn.of_errP ?_ (by with_reducible assumption)
    | refine SentOn.of_errPair ?_ (by with_reducible assumption) | (intro _; intros; try dsimp only) | split | with_reducible apply Keeps.other)

theorem State.takeResult_keeps {base : State} {s : State} {p : Nat} {x : Coll} {v : List Byte} (hbase : Keeps base s) : SentOn Prod.fst base (State.takeResult s p x v) := by
  unfold State.takeResult
  try dsimp only
  repeat' (first
    | with_reducible assumption | with_reducible apply Keeps.ite | with_reducible apply Keeps.fold | with_reducible apply State.sendDown_keeps
    | with_reducible apply State.takeValue_keeps | with_reducible apply SentOn.doneP | with_reducible apply SentOn.stop
    | with_reducible apply SentOn.bind | with_reducible apply SentOn.foldlM | refine SentOn.of_okPair ?_ (by with_reducible assumption)
    | refine SentOn.of_okP ?_ (by with_reducible assumption) | refine SentOn.of_errP ?_ (by with_reducible assumption)
    | refine SentOn.of_errPair ?_ (by with_reducible assumption) | with_reducible apply SentOn.done | with_reducible apply SentOn.stop
    | with_reducible apply SentOn.bind | with_reducible apply SentOn.foldlM | refine SentOn.of_ok ?_ (by with_reducible assumption)
    | refine SentOn.of_err ?_ (by with_reducible assumption) | (intro _; intros; try dsimp only) | split | with_reducible apply Keeps.other)

theorem State.treeGo_keeps {base : State} {s : State} {p : Nat} {x : Coll} (hbase : Keeps base s) : SentOn Prod.fst base (State.treeGo s p x) := by
  unfold State.treeGo
  try dsimp only
  repeat' (first
    | with_reducible assumption | with_reducible apply Keeps.ite | with_reducible apply Keeps.fold | with_reducible apply State.sendValue_keeps
    | with_reducible apply State.takeResult_keeps | with_reducible apply SentOn.doneP | with_reducible apply SentOn.stop
    | with_reducible apply SentOn.bind | with_reducible apply SentOn.foldlM | refine SentOn.of_okPair ?_ (by with_reducible assumption)
    | refine SentOn.of_okP ?_ (by with_reducible assumption) | refine SentOn.of_errP ?_ (by with_reducible assumption)
    | refine SentOn.of_errPair ?_ (by with_reducible assumption) | with_reducible apply SentOn.done | with_reducible apply SentOn.stop
    | with_reducible apply SentOn.bind | with_reducible apply SentOn.foldlM | refine SentOn.of_ok ?_ (by with_reducible assumption)
    | refine SentOn.of_err ?_ (by with_reducible assumption) | (intro _; intros; try dsimp only) | split | with_reducible apply Keeps.other)

theorem State.payLanded_keeps {base s : State} {p : Nat} {x : Coll} (h : Keeps base s) : SentOn Prod.fst base (State.payLanded s p x) := by
  unfold State.payLanded
  split
  · exact SentOn.doneP h
  · exact SentOn.bind (st := fun s => s) (SentOn.foldlM h fun y o hy => State.sendCollFlit_keeps hy) fun t ht => SentOn.doneP ht

theorem State.smallDone_keeps {base : State} {s : State} {p : Nat} {x : Coll} (hbase : Keeps base s) : SentOn Prod.fst base (State.smallDone s p x) := by
  unfold State.smallDone
  try dsimp only
  repeat' (first
    | with_reducible assumption | with_reducible apply Keeps.ite | with_reducible apply Keeps.fold | with_reducible apply State.takeValue_keeps
    | with_reducible apply SentOn.doneP | with_reducible apply SentOn.stop | with_reducible apply SentOn.bind | with_reducible apply SentOn.foldlM
    | refine SentOn.of_okPair ?_ (by with_reducible assumption) | refine SentOn.of_okP ?_ (by with_reducible assumption)
    | refine SentOn.of_errP ?_ (by with_reducible assumption) | refine SentOn.of_errPair ?_ (by with_reducible assumption)
    | (intro _; intros; try dsimp only) | split | with_reducible apply Keeps.other)

theorem State.blocksDone_keeps {base : State} {s : State} {p : Nat} {x : Coll} (hbase : Keeps base s) : Keeps base (State.blocksDone s p x) := by
  unfold State.blocksDone
  try dsimp only
  repeat' (first
    | with_reducible assumption | with_reducible apply Keeps.ite | with_reducible apply Keeps.fold | with_reducible apply State.vstore_keeps
    | (intro _; intros; try dsimp only) | split | with_reducible apply Keeps.other)

theorem State.collStep_keeps {base : State} {s : State} {p : Nat} {x : Coll} (hbase : Keeps base s) : SentOn Prod.fst base (State.collStep s p x) := by
  unfold State.collStep
  try dsimp only
  repeat' (first
    | with_reducible assumption | with_reducible apply Keeps.ite | with_reducible apply Keeps.fold | with_reducible apply State.bulkPhases_keeps
    | with_reducible apply State.switchGo_keeps | with_reducible apply State.treeGo_keeps | with_reducible apply State.payLanded_keeps
    | with_reducible apply State.smallDone_keeps | with_reducible apply State.blocksDone_keeps | with_reducible apply SentOn.doneP
    | with_reducible apply SentOn.stop | with_reducible apply SentOn.bind | with_reducible apply SentOn.foldlM
    | refine SentOn.of_okPair ?_ (by with_reducible assumption) | refine SentOn.of_okP ?_ (by with_reducible assumption)
    | refine SentOn.of_errP ?_ (by with_reducible assumption) | refine SentOn.of_errPair ?_ (by with_reducible assumption)
    | (intro _; intros; try dsimp only) | split | with_reducible apply Keeps.other)

theorem State.collGo_keeps {base : State} {s : State} {p : Nat} {tc : Bool} (hbase : Keeps base s) : Keeps base (State.collGo s p tc) := by
  unfold State.collGo
  try dsimp only
  repeat' (first
    | with_reducible assumption | with_reducible apply Keeps.ite | with_reducible apply Keeps.fold | with_reducible apply Keeps.foldFst
    | with_reducible apply State.setEngine_keeps | with_reducible apply State.collStopped_keeps | with_reducible apply State.collRead_keeps
    | with_reducible apply State.collOver_keeps | with_reducible apply State.classify_keeps | with_reducible apply State.collStep_keeps
    | with_reducible apply SentOn.doneP | with_reducible apply SentOn.stop | with_reducible apply SentOn.bind | with_reducible apply SentOn.foldlM
    | refine SentOn.of_okPair ?_ (by with_reducible assumption) | refine SentOn.of_okP ?_ (by with_reducible assumption)
    | refine SentOn.of_errP ?_ (by with_reducible assumption) | refine SentOn.of_errPair ?_ (by with_reducible assumption)
    | with_reducible apply SentOn.doneP | with_reducible apply SentOn.stop | with_reducible apply SentOn.bind | with_reducible apply SentOn.foldlM
    | refine SentOn.of_okPair ?_ (by with_reducible assumption) | refine SentOn.of_okP ?_ (by with_reducible assumption)
    | refine SentOn.of_errP ?_ (by with_reducible assumption) | refine SentOn.of_errPair ?_ (by with_reducible assumption)
    | (intro _; intros; try dsimp only) | split | with_reducible apply Keeps.other)

theorem State.collBegin_keeps {base : State} {s : State} {p : Nat} {tc : Bool} {x : Coll} (hbase : Keeps base s) : Keeps base (State.collBegin s p tc x) := by
  unfold State.collBegin
  try dsimp only
  repeat' (first
    | with_reducible assumption | refine Keeps.of_fst (by with_reducible assumption) ?_ | with_reducible apply Keeps.ite
    | with_reducible apply Keeps.fold | with_reducible apply State.setEngine_keeps | with_reducible apply State.collStopped_keeps
    | with_reducible apply State.writeOwnRoot_keeps | with_reducible apply State.bulkBegin_keeps | with_reducible apply State.collGo_keeps
    | with_reducible apply SentOn.doneP | with_reducible apply SentOn.stop | with_reducible apply SentOn.bind | with_reducible apply SentOn.foldlM
    | refine SentOn.of_okPair ?_ (by with_reducible assumption) | refine SentOn.of_okP ?_ (by with_reducible assumption)
    | refine SentOn.of_errP ?_ (by with_reducible assumption) | refine SentOn.of_errPair ?_ (by with_reducible assumption)
    | (intro _; intros; try dsimp only) | split | with_reducible apply Keeps.other)

theorem State.collsGo_keeps {base : State} {s : State} (hbase : Keeps base s) : Keeps base (State.collsGo s) := by
  unfold State.collsGo
  try dsimp only
  repeat' (first
    | with_reducible assumption | with_reducible apply Keeps.ite | with_reducible apply Keeps.fold | with_reducible apply Keeps.each
    | with_reducible apply State.collGo_keeps | (intro _; intros; try dsimp only) | split | with_reducible apply Keeps.other)

theorem State.mismatch_keeps {base : State} {s : State} {q : Nat} {f : Flit} {g : Nat} {d : Option Desc} (hbase : Keeps base s) : Keeps base (State.mismatch s q f g d) := by
  unfold State.mismatch
  try dsimp only
  repeat' (first
    | with_reducible assumption | with_reducible apply Keeps.ite | with_reducible apply Keeps.fold | with_reducible apply State.raise_keeps
    | with_reducible apply State.descFault_keeps | with_reducible apply State.logColl_keeps | (intro _; intros; try dsimp only) | split
    | with_reducible apply Keeps.other)

theorem State.holdEarly_keeps {base : State} {s : State} {q : Nat} {f : Flit} (hbase : Keeps base s) : Keeps base (State.holdEarly s q f) := by
  unfold State.holdEarly
  try dsimp only
  repeat' (first
    | with_reducible assumption | with_reducible apply Keeps.ite | with_reducible apply Keeps.fold | with_reducible apply State.updPart_keeps
    | (intro _; intros; try dsimp only) | split | with_reducible apply Keeps.other)

theorem State.collIn_keeps {base : State} {s : State} {q : Nat} {f : Flit} {k : State → Nat → Option (Bool × Coll) → State} (hbase : Keeps base s) (hk : ∀ x0 x1 x2, Keeps base x0 → Keeps base (k x0 x1 x2)) : Keeps base (State.collIn s q f k) := by
  unfold State.collIn
  try dsimp only
  repeat' (first
    | with_reducible assumption | with_reducible apply Keeps.ite | with_reducible apply Keeps.fold | with_reducible apply State.reply_keeps
    | with_reducible apply State.mismatch_keeps | with_reducible apply hk | (intro _; intros; try dsimp only) | split
    | with_reducible apply Keeps.other)

theorem State.countWait_keeps {base : State} {s : State} {q : Nat} {f : Flit} {ns : Nat} (hbase : Keeps base s) : Keeps base (State.countWait s q f ns) := by
  unfold State.countWait
  try dsimp only
  repeat' (first
    | with_reducible assumption | with_reducible apply Keeps.ite | with_reducible apply Keeps.fold | with_reducible apply State.updPart_keeps
    | (intro _; intros; try dsimp only) | split | with_reducible apply Keeps.other)

theorem State.takeReady_keeps {base : State} {s : State} {q : Nat} {tc : Bool} {x : Coll} {f : Flit} (hbase : Keeps base s) : Keeps base (State.takeReady s q tc x f) := by
  unfold State.takeReady
  try dsimp only
  repeat' (first
    | with_reducible assumption | with_reducible apply Keeps.ite | with_reducible apply Keeps.fold | with_reducible apply State.setEngine_keeps
    | with_reducible apply State.collGo_keeps | (intro _; intros; try dsimp only) | split | with_reducible apply Keeps.other)

theorem landReady_keeps {base : State} {q : Nat} {f : Flit} {waitNs : Nat} {s : State} (hbase : Keeps base s) : Keeps base (landReady q f waitNs s) := by
  unfold landReady
  try dsimp only
  repeat' (first
    | with_reducible assumption | with_reducible apply Keeps.ite | with_reducible apply Keeps.fold | with_reducible apply State.holdEarly_keeps
    | with_reducible apply State.collIn_keeps | with_reducible apply State.countWait_keeps | with_reducible apply State.takeReady_keeps
    | (intro _; intros; try dsimp only) | split | with_reducible apply Keeps.other)

theorem State.takeData_keeps {base : State} {s : State} {q : Nat} {tc : Bool} {x : Coll} {f : Flit} (hbase : Keeps base s) : Keeps base (State.takeData s q tc x f) := by
  unfold State.takeData
  try dsimp only
  repeat' (first
    | with_reducible assumption | with_reducible apply Keeps.ite | with_reducible apply Keeps.fold | with_reducible apply State.vstore_keeps
    | with_reducible apply State.reply_keeps | with_reducible apply State.setEngine_keeps | with_reducible apply State.collGo_keeps
    | (intro _; intros; try dsimp only) | split | with_reducible apply Keeps.other)

theorem landCollData_keeps {base : State} {q : Nat} {f : Flit} {waitNs : Nat} {s : State} (hbase : Keeps base s) : Keeps base (landCollData q f waitNs s) := by
  unfold landCollData
  try dsimp only
  repeat' (first
    | with_reducible assumption | with_reducible apply Keeps.ite | with_reducible apply Keeps.fold | with_reducible apply State.reply_keeps
    | with_reducible apply State.collIn_keeps | with_reducible apply State.countWait_keeps | with_reducible apply State.takeData_keeps
    | (intro _; intros; try dsimp only) | split | with_reducible apply Keeps.other)

theorem landLanded_keeps {base : State} {q : Nat} {f : Flit} {waitNs : Nat} {s : State} (hbase : Keeps base s) : Keeps base (landLanded q f waitNs s) := by
  unfold landLanded
  try dsimp only
  repeat' (first
    | with_reducible assumption | with_reducible apply Keeps.ite | with_reducible apply Keeps.fold | with_reducible apply State.setEngine_keeps
    | with_reducible apply State.collGo_keeps | with_reducible apply State.collIn_keeps | with_reducible apply State.countWait_keeps
    | (intro _; intros; try dsimp only) | split | with_reducible apply Keeps.other)

theorem State.treeIn_keeps {base : State} {s : State} {p : Nat} {x : Coll} {r kind : Nat} {v : List Byte} (hbase : Keeps base s) : Keeps base (State.treeIn s p x r kind v) := by
  unfold State.treeIn
  try dsimp only
  repeat' (first
    | with_reducible assumption | with_reducible apply Keeps.ite | with_reducible apply Keeps.fold | with_reducible apply State.setEngine_keeps
    | with_reducible apply State.collStopped_keeps | with_reducible apply State.takeResult_keeps | with_reducible apply State.collGo_keeps
    | with_reducible apply SentOn.doneP | with_reducible apply SentOn.stop | with_reducible apply SentOn.bind | with_reducible apply SentOn.foldlM
    | refine SentOn.of_okPair ?_ (by with_reducible assumption) | refine SentOn.of_okP ?_ (by with_reducible assumption)
    | refine SentOn.of_errP ?_ (by with_reducible assumption) | refine SentOn.of_errPair ?_ (by with_reducible assumption)
    | (intro _; intros; try dsimp only) | split | with_reducible apply Keeps.other)

theorem landTincan_keeps {base : State} {q : Nat} {f : Flit} {waitNs : Nat} {s : State} (hbase : Keeps base s) : Keeps base (landTincan q f waitNs s) := by
  unfold landTincan
  try dsimp only
  repeat' (first
    | with_reducible assumption | with_reducible apply Keeps.ite | with_reducible apply Keeps.fold | with_reducible apply State.holdEarly_keeps
    | with_reducible apply State.collIn_keeps | with_reducible apply State.countWait_keeps | with_reducible apply State.treeIn_keeps
    | (intro _; intros; try dsimp only) | split | with_reducible apply Keeps.other)

theorem startColl_keeps {base : State} {o : Origin} {s : State} {d : Desc} (hbase : Keeps base s) : Run.Keeps base (startColl o s d) := by
  unfold startColl
  try dsimp only
  repeat' (first
    | with_reducible assumption | with_reducible apply Keeps.ite | with_reducible apply Keeps.fold | with_reducible apply State.updPart_keeps
    | with_reducible apply State.updDesc_keeps | with_reducible apply State.logColl_keeps | with_reducible apply Run.keeps_done
    | with_reducible apply Run.keeps_going | with_reducible apply Run.keeps_wait | with_reducible apply Run.keeps_fault
    | (intro _; intros; try dsimp only) | split | with_reducible apply Keeps.other)

theorem takeEarly_keeps {base : State} {p : Nat} {s : State} {f : Flit} (hbase : Keeps base s) : Keeps base (takeEarly p s f) := by
  unfold takeEarly
  try dsimp only
  repeat' (first
    | with_reducible assumption | with_reducible apply Keeps.ite | with_reducible apply Keeps.fold | with_reducible apply landReady_keeps
    | with_reducible apply landTincan_keeps | (intro _; intros; try dsimp only) | split | with_reducible apply Keeps.other)

theorem State.takeEarlies_keeps {base : State} {s : State} {p : Nat} {x : Coll} (hbase : Keeps base s) : Keeps base (State.takeEarlies s p x) := by
  unfold State.takeEarlies
  try dsimp only
  repeat' (first
    | with_reducible assumption | with_reducible apply Keeps.ite | with_reducible apply Keeps.fold | with_reducible apply Keeps.each
    | with_reducible apply State.updPart_keeps | with_reducible apply takeEarly_keeps | (intro _; intros; try dsimp only) | split
    | with_reducible apply Keeps.other)

theorem collRan_keeps {base : State} {o : Origin} {d : Desc} {s : State} (hbase : Keeps base s) : Run.Keeps base (collRan o d s) := by
  unfold collRan
  try dsimp only
  repeat' (first
    | with_reducible assumption | with_reducible apply Keeps.ite | with_reducible apply Keeps.fold | with_reducible apply Run.keeps_done
    | with_reducible apply Run.keeps_going | with_reducible apply Run.keeps_wait | with_reducible apply Run.keeps_fault
    | (intro _; intros; try dsimp only) | split | with_reducible apply Keeps.other)

theorem runBulk_keeps {base : State} {o : Origin} {s : State} {d : Desc} (hbase : Keeps base s) : Run.Keeps base (runBulk o s d) := by
  unfold runBulk
  try dsimp only
  repeat' (first
    | with_reducible assumption | with_reducible apply Keeps.ite | with_reducible apply Keeps.fold | with_reducible apply State.vstore_keeps
    | with_reducible apply State.collBegin_keeps | with_reducible apply State.takeEarlies_keeps | with_reducible apply collRan_keeps
    | with_reducible apply Run.keeps_done | with_reducible apply Run.keeps_going | with_reducible apply Run.keeps_wait
    | with_reducible apply Run.keeps_fault | refine Run.of_done ?_ (by with_reducible assumption)
    | refine Run.of_going ?_ (by with_reducible assumption) | refine Run.of_wait ?_ (by with_reducible assumption)
    | refine Run.of_fault ?_ (by with_reducible assumption) | (intro _; intros; try dsimp only) | split | with_reducible apply Keeps.other)

theorem State.startCollective_keeps {base s : State} {o : Origin} {op : Nat} {phys : ReadUpset} {run : State → Desc → Run} (h : Keeps base s)
    (hrun : ∀ s d, Keeps base s → Run.Keeps base (run s d)) : Keeps base (State.startCollective s o op phys run) :=
  State.startDesc_keeps (State.strike_keeps h) hrun fun _ _ h => startColl_keeps h

theorem State.runTree_keeps {base : State} {s : State} {o : Origin} {d : Desc} {v : List Byte} (hbase : Keeps base s) : Run.Keeps base (State.runTree s o d v) := by
  unfold State.runTree
  try dsimp only
  repeat' (first
    | with_reducible assumption | with_reducible apply Keeps.ite | with_reducible apply Keeps.fold | with_reducible apply State.collBegin_keeps
    | with_reducible apply State.takeEarlies_keeps | with_reducible apply collRan_keeps | with_reducible apply Run.keeps_done
    | with_reducible apply Run.keeps_going | with_reducible apply Run.keeps_wait | with_reducible apply Run.keeps_fault
    | refine Run.of_done ?_ (by with_reducible assumption) | refine Run.of_going ?_ (by with_reducible assumption)
    | refine Run.of_wait ?_ (by with_reducible assumption) | refine Run.of_fault ?_ (by with_reducible assumption)
    | (intro _; intros; try dsimp only) | split | with_reducible apply Keeps.other)

theorem runBarrier_keeps {base : State} {o : Origin} {s : State} {d : Desc} (hbase : Keeps base s) : Run.Keeps base (runBarrier o s d) := by
  unfold runBarrier
  try dsimp only
  repeat' (first
    | with_reducible assumption | with_reducible apply Keeps.ite | with_reducible apply Keeps.fold | with_reducible apply State.runTree_keeps
    | with_reducible apply Run.keeps_done | with_reducible apply Run.keeps_going | with_reducible apply Run.keeps_wait
    | with_reducible apply Run.keeps_fault | refine Run.of_done ?_ (by with_reducible assumption)
    | refine Run.of_going ?_ (by with_reducible assumption) | refine Run.of_wait ?_ (by with_reducible assumption)
    | refine Run.of_fault ?_ (by with_reducible assumption) | (intro _; intros; try dsimp only) | split | with_reducible apply Keeps.other)

theorem runTincan_keeps {base : State} {o : Origin} {s : State} {d : Desc} (hbase : Keeps base s) : Run.Keeps base (runTincan o s d) := by
  unfold runTincan
  try dsimp only
  repeat' (first
    | with_reducible assumption | with_reducible apply Keeps.ite | with_reducible apply Keeps.fold | with_reducible apply State.runTree_keeps
    | with_reducible apply Run.keeps_done | with_reducible apply Run.keeps_going | with_reducible apply Run.keeps_wait
    | with_reducible apply Run.keeps_fault | refine Run.of_done ?_ (by with_reducible assumption)
    | refine Run.of_going ?_ (by with_reducible assumption) | refine Run.of_wait ?_ (by with_reducible assumption)
    | refine Run.of_fault ?_ (by with_reducible assumption) | (intro _; intros; try dsimp only) | split | with_reducible apply Keeps.other)

theorem State.contribute_keeps {base : State} {s : State} {p : Nat} {x : Coll} (hbase : Keeps base s) : Keeps base (State.contribute s p x) := by
  unfold State.contribute
  try dsimp only
  repeat' (first
    | with_reducible assumption | with_reducible apply Keeps.ite | with_reducible apply Keeps.fold | with_reducible apply State.bulkBegin_keeps
    | with_reducible apply State.sendValue_keeps | with_reducible apply State.sendDown_keeps | with_reducible apply SentOn.doneP
    | with_reducible apply SentOn.stop | with_reducible apply SentOn.bind | with_reducible apply SentOn.foldlM
    | refine SentOn.of_okPair ?_ (by with_reducible assumption) | refine SentOn.of_okP ?_ (by with_reducible assumption)
    | refine SentOn.of_errP ?_ (by with_reducible assumption) | refine SentOn.of_errPair ?_ (by with_reducible assumption)
    | with_reducible apply SentOn.done | with_reducible apply SentOn.stop | with_reducible apply SentOn.bind | with_reducible apply SentOn.foldlM
    | refine SentOn.of_ok ?_ (by with_reducible assumption) | refine SentOn.of_err ?_ (by with_reducible assumption)
    | (intro _; intros; try dsimp only) | split | with_reducible apply Keeps.other)

theorem runFpExchange_keeps {base : State} {o : Origin} {s : State} {d : Desc} (hbase : Keeps base s) : Run.Keeps base (runFpExchange o s d) := by
  unfold runFpExchange
  try dsimp only
  repeat' (first
    | with_reducible assumption | with_reducible apply Keeps.ite | with_reducible apply Keeps.fold | with_reducible apply State.logFpx_keeps
    | with_reducible apply State.runTree_keeps | with_reducible apply State.contribute_keeps | with_reducible apply Run.keeps_done
    | with_reducible apply Run.keeps_going | with_reducible apply Run.keeps_wait | with_reducible apply Run.keeps_fault
    | refine Run.of_done ?_ (by with_reducible assumption) | refine Run.of_going ?_ (by with_reducible assumption)
    | refine Run.of_wait ?_ (by with_reducible assumption) | refine Run.of_fault ?_ (by with_reducible assumption)
    | (intro _; intros; try dsimp only) | split | with_reducible apply Keeps.other)

theorem State.loadColl_keeps {base : State} {s : State} {p : Nat} (hbase : Keeps base s) : Keeps base (State.loadColl s p) := by
  unfold State.loadColl
  try dsimp only
  repeat' (first
    | with_reducible assumption | refine Keeps.of_fst (by with_reducible assumption) ?_ | with_reducible apply Keeps.ite
    | with_reducible apply Keeps.fold | with_reducible apply State.updPart_keeps | with_reducible apply State.askFetch_keeps
    | with_reducible apply State.useFetch_keeps | with_reducible apply State.readRanges_keeps | (intro _; intros; try dsimp only) | split
    | with_reducible apply Keeps.other)

theorem State.judgeColl_keeps {base : State} {s : State} {p : Nat} (hbase : Keeps base s) : Keeps base (State.judgeColl s p) := by
  unfold State.judgeColl
  try dsimp only
  repeat' (first
    | with_reducible assumption | with_reducible apply Keeps.ite | with_reducible apply Keeps.fold | with_reducible apply Keeps.each
    | with_reducible apply State.raise_keeps | with_reducible apply State.logColl_keeps | (intro _; intros; try dsimp only) | split
    | with_reducible apply Keeps.other)

end Sys2Proof.Machine
end

