-- ==== Sys2Proof/Laws/KeepsJigsaw.lean ====
section
/-! SUPPORT. What the operations of Sys2Proof/Machine/Jigsaw.lean keep (Laws/Keeps.lean). -/
namespace Sys2Proof.Machine

set_option linter.unusedTactic false
set_option linter.unreachableTactic false

theorem State.jigLog_keeps {base : State} {s : State} {p kind shard off : Nat} (hbase : Keeps base s) : Keeps base (State.jigLog s p kind shard off) := by
  unfold State.jigLog
  try dsimp only
  repeat' (first
    | with_reducible assumption | with_reducible apply Keeps.ite | with_reducible apply Keeps.fold | with_reducible apply State.fsets_keeps
    | (intro _; intros; try dsimp only) | split | with_reducible apply Keeps.other)

theorem State.jigFail_keeps {base : State} {s : State} {p kind shard off : Nat} {c : Code} (hbase : Keeps base s) : Run.Keeps base (State.jigFail s p kind shard off c) := by
  unfold State.jigFail
  try dsimp only
  repeat' (first
    | with_reducible assumption | with_reducible apply Keeps.ite | with_reducible apply Keeps.fold | with_reducible apply State.jigLog_keeps
    | with_reducible apply Run.keeps_done | with_reducible apply Run.keeps_going | with_reducible apply Run.keeps_wait
    | with_reducible apply Run.keeps_fault | (intro _; intros; try dsimp only) | split | with_reducible apply Keeps.other)

theorem State.writeShards_keeps {base : State} {s : State} {p raw table : Nat} {owner : Owner} {codes : List (List Nat)} {upTo : Nat → Nat} (hbase : Keeps base s) : Keeps base (State.writeShards s p raw table owner codes upTo) := by
  unfold State.writeShards
  try dsimp only
  repeat' (first
    | with_reducible assumption | with_reducible apply Keeps.ite | with_reducible apply Keeps.fold | with_reducible apply Keeps.each
    | with_reducible apply State.vstore_keeps | (intro _; intros; try dsimp only) | split | with_reducible apply Keeps.other)

theorem State.jigBytes_keeps {base : State} {s : State} {n : Nat} (hbase : Keeps base s) : Keeps base (State.jigBytes s n) := by
  unfold State.jigBytes
  try dsimp only
  repeat' (first
    | with_reducible assumption | with_reducible apply Keeps.ite | with_reducible apply Keeps.fold | with_reducible apply State.fset_keeps
    | (intro _; intros; try dsimp only) | split | with_reducible apply Keeps.other)

theorem runShards_keeps {base : State} {o : Origin} {bad : Option (Nat × Nat)} {s : State} {d : Desc} (hbase : Keeps base s) : Run.Keeps base (runShards o bad s d) := by
  unfold runShards
  try dsimp only
  repeat' (first
    | with_reducible assumption | with_reducible apply Keeps.ite | with_reducible apply Keeps.fold | with_reducible apply State.jigFail_keeps
    | with_reducible apply State.writeShards_keeps | with_reducible apply State.jigBytes_keeps | with_reducible apply Run.keeps_done
    | with_reducible apply Run.keeps_going | with_reducible apply Run.keeps_wait | with_reducible apply Run.keeps_fault
    | refine Run.of_done ?_ (by with_reducible assumption) | refine Run.of_going ?_ (by with_reducible assumption)
    | refine Run.of_wait ?_ (by with_reducible assumption) | refine Run.of_fault ?_ (by with_reducible assumption)
    | (intro _; intros; try dsimp only) | split | with_reducible apply Keeps.other)

theorem runCopy_keeps {base : State} {o : Origin} {bad : Option (Nat × Nat)} {s : State} {d : Desc} (hbase : Keeps base s) : Run.Keeps base (runCopy o bad s d) := by
  unfold runCopy
  try dsimp only
  repeat' (first
    | with_reducible assumption | with_reducible apply Keeps.ite | with_reducible apply Keeps.fold | with_reducible apply State.vstore_keeps
    | with_reducible apply State.sendData_keeps | with_reducible apply State.noRouteRun_keeps | with_reducible apply State.dropRun_keeps
    | with_reducible apply State.jigFail_keeps | with_reducible apply State.jigBytes_keeps | with_reducible apply Run.keeps_done
    | with_reducible apply Run.keeps_going | with_reducible apply Run.keeps_wait | with_reducible apply Run.keeps_fault
    | with_reducible apply OptKeeps.none | with_reducible apply OptKeeps.some | with_reducible apply OptKeeps.map
    | with_reducible apply OptKeeps.bind | refine OptKeeps.of_some ?_ (by with_reducible assumption)
    | refine Run.of_done ?_ (by with_reducible assumption) | refine Run.of_going ?_ (by with_reducible assumption)
    | refine Run.of_wait ?_ (by with_reducible assumption) | refine Run.of_fault ?_ (by with_reducible assumption)
    | (intro _; intros; try dsimp only) | split | with_reducible apply Keeps.other)

theorem State.jigCmd_keeps {base : State} {s : State} {op : Nat} {o : Origin} {u : Upset} {run : State → Desc → Run} (hbase : Keeps base s) (hrun : ∀ x0 x1, Keeps base x0 → Run.Keeps base (run x0 x1)) : Keeps base (State.jigCmd s op o u run) := by
  unfold State.jigCmd
  try dsimp only
  repeat' (first
    | with_reducible assumption | with_reducible apply Keeps.ite | with_reducible apply Keeps.fold | with_reducible apply State.startDesc_keeps
    | with_reducible apply hrun | with_reducible apply Run.keeps_done | with_reducible apply Run.keeps_going | with_reducible apply Run.keeps_wait
    | with_reducible apply Run.keeps_fault | with_reducible apply Run.keeps_done | with_reducible apply Run.keeps_going
    | with_reducible apply Run.keeps_wait | with_reducible apply Run.keeps_fault | refine Run.of_done ?_ (by with_reducible assumption)
    | refine Run.of_going ?_ (by with_reducible assumption) | refine Run.of_wait ?_ (by with_reducible assumption)
    | refine Run.of_fault ?_ (by with_reducible assumption) | (intro _; intros; try dsimp only) | split | with_reducible apply Keeps.other)

end Sys2Proof.Machine
end

