-- ==== Sys2Proof/Laws/KeepsYoyo.lean ====
section
/-! SUPPORT. What the operations of Sys2Proof/Machine/Yoyo.lean keep (Laws/Keeps.lean). -/
namespace Sys2Proof.Machine

set_option linter.unusedTactic false
set_option linter.unreachableTactic false

theorem State.keepHandle_keeps {base : State} {s : State} {r h : Nat} {x : Handle} {owner : Owner} (hbase : Keeps base s) : Keeps base (State.keepHandle s r h x owner) := by
  unfold State.keepHandle
  try dsimp only
  repeat' (first
    | with_reducible assumption | with_reducible apply Keeps.ite | with_reducible apply Keeps.fold | with_reducible apply Keeps.each
    | with_reducible apply State.updRegion_keeps | with_reducible apply State.touchEntry_keeps | with_reducible apply State.put_keeps
    | (intro _; intros; try dsimp only) | split | with_reducible apply Keeps.other)

theorem State.emptyHandle_keeps {base : State} {s : State} {r h : Nat} (hbase : Keeps base s) : Keeps base (State.emptyHandle s r h) := by
  unfold State.emptyHandle
  try dsimp only
  repeat' (first
    | with_reducible assumption | with_reducible apply Keeps.ite | with_reducible apply Keeps.fold | with_reducible apply State.restoreHandle_keeps
    | (intro _; intros; try dsimp only) | split | with_reducible apply Keeps.other)

theorem State.noteUndo_keeps {base : State} {s : State} {o : Origin} {d : Desc} (hbase : Keeps base s) : Keeps base (State.noteUndo s o d) := by
  unfold State.noteUndo
  try dsimp only
  repeat' (first
    | with_reducible assumption | with_reducible apply Keeps.ite | with_reducible apply Keeps.fold | with_reducible apply State.updDesc_keeps
    | (intro _; intros; try dsimp only) | split | with_reducible apply Keeps.other)

theorem State.yoInit_keeps {base : State} {s : State} {r : Nat} (hbase : Keeps base s) : Keeps base (State.yoInit s r) := by
  unfold State.yoInit
  try dsimp only
  repeat' (first
    | with_reducible assumption | with_reducible apply Keeps.ite | with_reducible apply Keeps.fold | with_reducible apply State.undef_keeps
    | with_reducible apply State.updRegion_keeps | (intro _; intros; try dsimp only) | split | with_reducible apply Keeps.other)

theorem State.yoLog_keeps {base : State} {s : State} {raw kind : Nat} (hbase : Keeps base s) : Keeps base (State.yoLog s raw kind) := by
  unfold State.yoLog
  try dsimp only
  repeat' (first
    | with_reducible assumption | with_reducible apply Keeps.ite | with_reducible apply Keeps.fold | with_reducible apply State.fsets_keeps
    | (intro _; intros; try dsimp only) | split | with_reducible apply Keeps.other)

theorem State.yoFail_keeps {base : State} {s : State} {raw kind : Nat} {c : Code} (hbase : Keeps base s) : Run.Keeps base (State.yoFail s raw kind c) := by
  unfold State.yoFail
  try dsimp only
  repeat' (first
    | with_reducible assumption | with_reducible apply Keeps.ite | with_reducible apply Keeps.fold | with_reducible apply State.yoLog_keeps
    | with_reducible apply Run.keeps_done | with_reducible apply Run.keeps_going | with_reducible apply Run.keeps_wait
    | with_reducible apply Run.keeps_fault | (intro _; intros; try dsimp only) | split | with_reducible apply Keeps.other)

theorem runStash_keeps {base : State} {o : Origin} {s : State} {d : Desc} (hbase : Keeps base s) : Run.Keeps base (runStash o s d) := by
  unfold runStash
  try dsimp only
  repeat' (first
    | with_reducible assumption | with_reducible apply Keeps.ite | with_reducible apply Keeps.fold | with_reducible apply State.putRanges_keeps
    | with_reducible apply State.mergeHealth_keeps | with_reducible apply State.keepHandle_keeps | with_reducible apply State.noteUndo_keeps
    | with_reducible apply State.yoFail_keeps | with_reducible apply Run.keeps_done | with_reducible apply Run.keeps_going
    | with_reducible apply Run.keeps_wait | with_reducible apply Run.keeps_fault | refine Run.of_done ?_ (by with_reducible assumption)
    | refine Run.of_going ?_ (by with_reducible assumption) | refine Run.of_wait ?_ (by with_reducible assumption)
    | refine Run.of_fault ?_ (by with_reducible assumption) | (intro _; intros; try dsimp only) | split | with_reducible apply Keeps.other)

theorem State.yoCmd_keeps {base : State} {s : State} {op : Nat} {o : Origin} {u : Upset} {inputs : State → Desc → List (Nat × Nat)} {run : State → Desc → Run} (hbase : Keeps base s) (hrun : ∀ x0 x1, Keeps base x0 → Run.Keeps base (run x0 x1)) : Keeps base (State.yoCmd s op o u inputs run) := by
  unfold State.yoCmd
  try dsimp only
  repeat' (first
    | with_reducible assumption | with_reducible apply Keeps.ite | with_reducible apply Keeps.fold | with_reducible apply State.startDesc_keeps
    | with_reducible apply hrun | with_reducible apply Run.keeps_done | with_reducible apply Run.keeps_going | with_reducible apply Run.keeps_wait
    | with_reducible apply Run.keeps_fault | with_reducible apply Run.keeps_done | with_reducible apply Run.keeps_going
    | with_reducible apply Run.keeps_wait | with_reducible apply Run.keeps_fault | refine Run.of_done ?_ (by with_reducible assumption)
    | refine Run.of_going ?_ (by with_reducible assumption) | refine Run.of_wait ?_ (by with_reducible assumption)
    | refine Run.of_fault ?_ (by with_reducible assumption) | (intro _; intros; try dsimp only) | split | with_reducible apply Keeps.other)

theorem State.recallWrite_keeps {base : State} {s : State} {p id raw : Nat} {x : Handle} {kept : Array Byte} (hbase : Keeps base s) : Keeps base (State.recallWrite s p id raw x kept) := by
  unfold State.recallWrite
  try dsimp only
  repeat' (first
    | with_reducible assumption | with_reducible apply Keeps.ite | with_reducible apply Keeps.fold | with_reducible apply Keeps.each
    | with_reducible apply State.vstore_keeps | (intro _; intros; try dsimp only) | split | with_reducible apply Keeps.other)

theorem runRecall_keeps {base : State} {o : Origin} {s : State} {d : Desc} (hbase : Keeps base s) : Run.Keeps base (runRecall o s d) := by
  unfold runRecall
  try dsimp only
  repeat' (first
    | with_reducible assumption | with_reducible apply Keeps.ite | with_reducible apply Keeps.fold | with_reducible apply State.emptyHandle_keeps
    | with_reducible apply State.noteUndo_keeps | with_reducible apply State.yoFail_keeps | with_reducible apply State.recallWrite_keeps
    | with_reducible apply Run.keeps_done | with_reducible apply Run.keeps_going | with_reducible apply Run.keeps_wait
    | with_reducible apply Run.keeps_fault | refine Run.of_done ?_ (by with_reducible assumption)
    | refine Run.of_going ?_ (by with_reducible assumption) | refine Run.of_wait ?_ (by with_reducible assumption)
    | refine Run.of_fault ?_ (by with_reducible assumption) | (intro _; intros; try dsimp only) | split | with_reducible apply Keeps.other)

theorem runRelease_keeps {base : State} {s : State} {d : Desc} (hbase : Keeps base s) : Run.Keeps base (runRelease s d) := by
  unfold runRelease
  try dsimp only
  repeat' (first
    | with_reducible assumption | with_reducible apply Keeps.ite | with_reducible apply Keeps.fold | with_reducible apply State.emptyHandle_keeps
    | with_reducible apply State.yoFail_keeps | with_reducible apply Run.keeps_done | with_reducible apply Run.keeps_going
    | with_reducible apply Run.keeps_wait | with_reducible apply Run.keeps_fault | refine Run.of_done ?_ (by with_reducible assumption)
    | refine Run.of_going ?_ (by with_reducible assumption) | refine Run.of_wait ?_ (by with_reducible assumption)
    | refine Run.of_fault ?_ (by with_reducible assumption) | (intro _; intros; try dsimp only) | split | with_reducible apply Keeps.other)

theorem runGroupRows_keeps {base : State} {o : Origin} {s : State} {d : Desc} (hbase : Keeps base s) : Run.Keeps base (runGroupRows o s d) := by
  unfold runGroupRows
  try dsimp only
  repeat' (first
    | with_reducible assumption | with_reducible apply Keeps.ite | with_reducible apply Keeps.fold | with_reducible apply Keeps.each
    | with_reducible apply State.vstore_keeps | with_reducible apply State.yoFail_keeps | with_reducible apply Run.keeps_done
    | with_reducible apply Run.keeps_going | with_reducible apply Run.keeps_wait | with_reducible apply Run.keeps_fault
    | refine Run.of_done ?_ (by with_reducible assumption) | refine Run.of_going ?_ (by with_reducible assumption)
    | refine Run.of_wait ?_ (by with_reducible assumption) | refine Run.of_fault ?_ (by with_reducible assumption)
    | (intro _; intros; try dsimp only) | split | with_reducible apply Keeps.other)

end Sys2Proof.Machine
end

