-- ==== Sys2Proof/Laws/KeepsSnapshot.lean ====
section
/-! SUPPORT. What the operations of Sys2Proof/Machine/Snapshot.lean keep (Laws/Keeps.lean). -/
namespace Sys2Proof.Machine

set_option linter.unusedTactic false
set_option linter.unreachableTactic false

theorem State.takeEngine_keeps {base : State} {s : State} {p id raw list : Nat} (hbase : Keeps base s) : Keeps base (State.takeEngine s p id raw list) := by
  unfold State.takeEngine
  try dsimp only
  repeat' (first
    | with_reducible assumption | with_reducible apply Keeps.ite | with_reducible apply Keeps.fold | with_reducible apply State.updPart_keeps
    | (intro _; intros; try dsimp only) | split | with_reducible apply Keeps.other)

theorem State.placeHolds_keeps {base : State} {s : State} {p m : Nat} (hbase : Keeps base s) : Keeps base (State.placeHolds s p m) := by
  unfold State.placeHolds
  try dsimp only
  repeat' (first
    | with_reducible assumption | with_reducible apply Keeps.ite | with_reducible apply Keeps.fold | with_reducible apply State.updPart_keeps
    | (intro _; intros; try dsimp only) | split | with_reducible apply Keeps.other)

theorem State.sendChunk_keeps {base : State} {s : State} {p : Nat} {x : Snap} {i : Nat} {data : List Byte} (hbase : Keeps base s) : OptKeeps base (State.sendChunk s p x i data) := by
  unfold State.sendChunk
  try dsimp only
  repeat' (first
    | with_reducible assumption | with_reducible apply Keeps.ite | with_reducible apply Keeps.fold | with_reducible apply State.vstore_keeps
    | with_reducible apply State.sendData_keeps | with_reducible apply OptKeeps.none | with_reducible apply OptKeeps.some
    | with_reducible apply OptKeeps.map | with_reducible apply OptKeeps.bind | refine OptKeeps.of_some ?_ (by with_reducible assumption)
    | (intro _; intros; try dsimp only) | split | with_reducible apply Keeps.other)

theorem State.snapDrop_keeps {base : State} {s : State} {p : Nat} {x : Snap} (hbase : Keeps base s) : OptKeeps base (State.snapDrop s p x) := by
  unfold State.snapDrop
  try dsimp only
  repeat' (first
    | with_reducible assumption | with_reducible apply Keeps.ite | with_reducible apply Keeps.fold | with_reducible apply State.updPart_keeps
    | with_reducible apply State.sendDrop_keeps | with_reducible apply OptKeeps.none | with_reducible apply OptKeeps.some
    | with_reducible apply OptKeeps.map | with_reducible apply OptKeeps.bind | refine OptKeeps.of_some ?_ (by with_reducible assumption)
    | (intro _; intros; try dsimp only) | split | with_reducible apply Keeps.other)

theorem chunkLeft_keeps {base : State} {p : Nat} {phys : ReadUpset} {s : State} (hbase : Keeps base s) : Keeps base (chunkLeft p phys s) := by
  unfold chunkLeft
  try dsimp only
  repeat' (first
    | with_reducible assumption | refine Keeps.of_fst (by with_reducible assumption) ?_ | with_reducible apply Keeps.ite
    | with_reducible apply Keeps.fold | with_reducible apply State.updPart_keeps | with_reducible apply State.raise_keeps
    | with_reducible apply State.strike_keeps | with_reducible apply State.readFor_keeps | with_reducible apply State.noRoute_keeps
    | with_reducible apply State.sendChunk_keeps | with_reducible apply State.snapDrop_keeps | with_reducible apply OptKeeps.none
    | with_reducible apply OptKeeps.some | with_reducible apply OptKeeps.map | with_reducible apply OptKeeps.bind
    | refine OptKeeps.of_some ?_ (by with_reducible assumption) | (intro _; intros; try dsimp only) | split | with_reducible apply Keeps.other)

theorem snapshotFinish_keeps {base : State} {p : Nat} {s : State} (hbase : Keeps base s) : Keeps base (snapshotFinish p s) := by
  unfold snapshotFinish
  try dsimp only
  repeat' (first
    | with_reducible assumption | with_reducible apply Keeps.ite | with_reducible apply Keeps.fold | with_reducible apply State.updPart_keeps
    | with_reducible apply State.record_keeps | with_reducible apply State.putRanges_keeps | with_reducible apply State.dropOr_keeps
    | with_reducible apply State.stopPart_keeps | (intro _; intros; try dsimp only) | split | with_reducible apply Keeps.other)

end Sys2Proof.Machine
end

