-- ==== Sys2Proof/Laws/KeepsFetch.lean ====
section
/-! SUPPORT. What the operations of Sys2Proof/Machine/Fetch.lean keep (Laws/Keeps.lean). -/
namespace Sys2Proof.Machine

set_option linter.unusedTactic false
set_option linter.unreachableTactic false

theorem State.noteFetched_keeps {base : State} {s : State} {p : Nat} {d : Desc} (hbase : Keeps base s) : Keeps base (State.noteFetched s p d) := by
  unfold State.noteFetched
  try dsimp only
  repeat' (first
    | with_reducible assumption | with_reducible apply Keeps.ite | with_reducible apply Keeps.fold | with_reducible apply State.takeEngine_keeps
    | (intro _; intros; try dsimp only) | split | with_reducible apply Keeps.other)

theorem State.tryValidate_keeps {base s : State} {o : Origin} {raw : Nat} {prev : Option Nat} {fuel : Nat} (h : Keeps base s) :
    Keeps base (State.tryValidate s o raw prev fuel).1 := by
  induction fuel generalizing s with
  | zero => exact h
  | succ n ih =>
    unfold State.tryValidate
    split
    · dsimp only
      split
      · exact ih (State.readQuiet_keeps h)
      · exact State.readQuiet_keeps h
    · exact h

theorem State.headNext_keeps {base : State} {s : State} {n : Nat} (hbase : Keeps base s) : Keeps base (State.headNext s n) := by
  unfold State.headNext
  try dsimp only
  repeat' (first
    | with_reducible assumption | with_reducible apply Keeps.ite | with_reducible apply Keeps.fold | with_reducible apply State.fset_keeps
    | with_reducible apply State.fsets_keeps | with_reducible apply State.fadd_keeps | (intro _; intros; try dsimp only) | split
    | with_reducible apply Keeps.other)

theorem State.passTurn_keeps {base : State} {s : State} {p n : Nat} {fetched : Bool} (hbase : Keeps base s) : Keeps base (State.passTurn s p n fetched) := by
  unfold State.passTurn
  try dsimp only
  repeat' (first
    | with_reducible assumption | with_reducible apply Keeps.ite | with_reducible apply Keeps.fold | with_reducible apply State.updPart_keeps
    | (intro _; intros; try dsimp only) | split | with_reducible apply Keeps.other)

theorem State.rejectEntry_keeps {base : State} {s : State} {n raw : Nat} {c : Code} {w : Cause} (hbase : Keeps base s) : Keeps base (State.rejectEntry s n raw c w) := by
  unfold State.rejectEntry
  try dsimp only
  repeat' (first
    | with_reducible assumption | with_reducible apply Keeps.ite | with_reducible apply Keeps.fold | with_reducible apply State.dropOnce_keeps
    | with_reducible apply State.descFault_keeps | with_reducible apply State.headNext_keeps | with_reducible apply State.passTurn_keeps
    | (intro _; intros; try dsimp only) | split | with_reducible apply Keeps.other)

theorem State.fetchEntry_keeps {base : State} {s : State} {n raw : Nat} (hbase : Keeps base s) : Keeps base (State.fetchEntry s n raw) := by
  unfold State.fetchEntry
  try dsimp only
  repeat' (first
    | with_reducible assumption | refine Keeps.of_fst (by with_reducible assumption) ?_ | with_reducible apply Keeps.ite
    | with_reducible apply Keeps.fold | with_reducible apply State.updRing_keeps | with_reducible apply State.dropOnce_keeps
    | with_reducible apply State.askShared_keeps | with_reducible apply State.noteFetched_keeps | with_reducible apply State.tryValidate_keeps
    | with_reducible apply State.headNext_keeps | with_reducible apply State.passTurn_keeps | with_reducible apply State.rejectEntry_keeps
    | (intro _; intros; try dsimp only) | split | with_reducible apply Keeps.other)

theorem descFetch_keeps {base : State} {n : Nat} {phys : ReadUpset} {s : State} (hbase : Keeps base s) : Keeps base (descFetch n phys s) := by
  unfold descFetch
  try dsimp only
  repeat' (first
    | with_reducible assumption | with_reducible apply Keeps.ite | with_reducible apply Keeps.fold | with_reducible apply State.touchLine_keeps
    | with_reducible apply State.askShared_keeps | with_reducible apply State.strike_keeps | with_reducible apply State.deviceFatal_keeps
    | with_reducible apply State.fetchEntry_keeps | (intro _; intros; try dsimp only) | split | with_reducible apply Keeps.other)

theorem State.rejectLaunch_keeps {base : State} {s : State} {r k : Nat} {id raw : Nat} {c : Code} {w : Cause} (hbase : Keeps base s) : Keeps base (State.rejectLaunch s r k id raw c w) := by
  unfold State.rejectLaunch
  try dsimp only
  repeat' (first
    | with_reducible assumption | with_reducible apply Keeps.ite | with_reducible apply Keeps.fold | with_reducible apply State.updSlot_keeps
    | with_reducible apply State.dropOnce_keeps | with_reducible apply State.descFault_keeps | (intro _; intros; try dsimp only) | split
    | with_reducible apply Keeps.other)

theorem State.drainOne_keeps {base : State} {s : State} {r k : Nat} (hbase : Keeps base s) : Keeps base (State.drainOne s r k).1 := by
  unfold State.drainOne
  try dsimp only
  repeat' (first
    | with_reducible assumption | refine Keeps.of_fst (by with_reducible assumption) ?_ | with_reducible apply Keeps.ite
    | with_reducible apply Keeps.fold | with_reducible apply State.updSlot_keeps | with_reducible apply State.dropOnce_keeps
    | with_reducible apply State.askShared_keeps | with_reducible apply State.raise_keeps | with_reducible apply State.setCoreQ_keeps
    | with_reducible apply State.noteFetched_keeps | with_reducible apply State.tryValidate_keeps | with_reducible apply State.rejectLaunch_keeps
    | (intro _; intros; try dsimp only) | split | with_reducible apply Keeps.other)

theorem State.drainCq_keeps {base s : State} {r k fuel : Nat} (h : Keeps base s) : Keeps base (State.drainCq s r k fuel) := by
  induction fuel generalizing s with
  | zero => exact h
  | succ n ih =>
    unfold State.drainCq
    dsimp only
    split
    · exact ih (State.drainOne_keeps h)
    · exact State.drainOne_keeps h

theorem State.drainPart_keeps {base : State} {s : State} {p : Nat} (hbase : Keeps base s) : Keeps base (State.drainPart s p) := by
  unfold State.drainPart
  try dsimp only
  repeat' (first
    | with_reducible assumption | with_reducible apply Keeps.ite | with_reducible apply Keeps.fold | with_reducible apply Keeps.each
    | with_reducible apply State.drainCq_keeps | (intro _; intros; try dsimp only) | split | with_reducible apply Keeps.other)

theorem runLaunch_keeps {base : State} {s : State} {d : Desc} (hbase : Keeps base s) : Run.Keeps base (runLaunch s d) := by
  unfold runLaunch
  try dsimp only
  repeat' (first
    | with_reducible assumption | with_reducible apply Keeps.ite | with_reducible apply Keeps.fold | with_reducible apply Keeps.foldFst
    | with_reducible apply State.fsets_keeps | with_reducible apply State.updSlot_keeps | with_reducible apply Run.keeps_done
    | with_reducible apply Run.keeps_going | with_reducible apply Run.keeps_wait | with_reducible apply Run.keeps_fault
    | (intro _; intros; try dsimp only) | split | with_reducible apply Keeps.other)

theorem programLaunch_keeps {base : State} {o : Origin} {s : State} (hbase : Keeps base s) : Keeps base (programLaunch o s) := by
  unfold programLaunch
  try dsimp only
  repeat' (first
    | with_reducible assumption | with_reducible apply Keeps.ite | with_reducible apply Keeps.fold | with_reducible apply State.startPlain_keeps
    | with_reducible apply runLaunch_keeps | with_reducible apply Run.keeps_done | with_reducible apply Run.keeps_going
    | with_reducible apply Run.keeps_wait | with_reducible apply Run.keeps_fault | with_reducible apply Run.keeps_done
    | with_reducible apply Run.keeps_going | with_reducible apply Run.keeps_wait | with_reducible apply Run.keeps_fault
    | refine Run.of_done ?_ (by with_reducible assumption) | refine Run.of_going ?_ (by with_reducible assumption)
    | refine Run.of_wait ?_ (by with_reducible assumption) | refine Run.of_fault ?_ (by with_reducible assumption)
    | (intro _; intros; try dsimp only) | split | with_reducible apply Keeps.other)

theorem State.dbError_keeps {base : State} {s : State} {n value : Nat} (hbase : Keeps base s) : Keeps base (State.dbError s n value) := by
  unfold State.dbError
  try dsimp only
  repeat' (first
    | with_reducible assumption | with_reducible apply Keeps.ite | with_reducible apply Keeps.fold | with_reducible apply State.fset_keeps
    | with_reducible apply State.noteDiscard_keeps | (intro _; intros; try dsimp only) | split | with_reducible apply Keeps.other)

theorem doorbell_keeps {base : State} {n value : Nat} {s : State} (hbase : Keeps base s) : Keeps base (doorbell n value s) := by
  unfold doorbell
  try dsimp only
  repeat' (first
    | with_reducible assumption | with_reducible apply Keeps.ite | with_reducible apply Keeps.fold | with_reducible apply State.fsets_keeps
    | with_reducible apply State.noteDiscard_keeps | with_reducible apply State.dbError_keeps | (intro _; intros; try dsimp only) | split
    | with_reducible apply Keeps.other)

theorem completionHead_keeps {base : State} {n value : Nat} {s : State} (hbase : Keeps base s) : Keeps base (completionHead n value s) := by
  unfold completionHead
  try dsimp only
  repeat' (first
    | with_reducible assumption | with_reducible apply Keeps.ite | with_reducible apply Keeps.fold | with_reducible apply State.fset_keeps
    | with_reducible apply State.updRing_keeps | with_reducible apply State.noteDiscard_keeps | (intro _; intros; try dsimp only) | split
    | with_reducible apply Keeps.other)

theorem ringEnable_keeps {base : State} {n : Nat} {on : Bool} {s : State} (hbase : Keeps base s) : Keeps base (ringEnable n on s) := by
  unfold ringEnable
  try dsimp only
  repeat' (first
    | with_reducible assumption | with_reducible apply Keeps.ite | with_reducible apply Keeps.fold | with_reducible apply State.stage_keeps
    | with_reducible apply State.applyEnable_keeps | (intro _; intros; try dsimp only) | split | with_reducible apply Keeps.other)

end Sys2Proof.Machine
end

