-- ==== Sys2Proof/Laws/KeepsPower.lean ====
section
/-! SUPPORT. What the operations of Sys2Proof/Machine/Power.lean keep (Laws/Keeps.lean). -/
namespace Sys2Proof.Machine

set_option linter.unusedTactic false
set_option linter.unreachableTactic false

theorem State.pollRail_keeps {base s : State} {i : Nat} {x : Option (Nat × Nat)} (h : Keeps base s) : Keeps base (State.pollRail s i x) := by
  cases x with
  | none => exact Keeps.other (State.fset_keeps (State.fadd_keeps h))
  | some y => exact Keeps.other (State.fsets_keeps h)

theorem State.addEnergy_keeps {base : State} {s : State} {f : Fld} {e : Nat} (hbase : Keeps base s) : Keeps base (State.addEnergy s f e) := by
  unfold State.addEnergy
  try dsimp only
  repeat' (first
    | with_reducible assumption | with_reducible apply Keeps.ite | with_reducible apply Keeps.fold | with_reducible apply State.fset_keeps
    | (intro _; intros; try dsimp only) | split | with_reducible apply Keeps.other)

theorem State.railEnergy_keeps {base : State} {s : State} {i : Nat} {act : List (Nat × List (Nat × Nat))} (hbase : Keeps base s) : Keeps base (State.railEnergy s i act) := by
  unfold State.railEnergy
  try dsimp only
  repeat' (first
    | with_reducible assumption | with_reducible apply Keeps.ite | with_reducible apply Keeps.fold | with_reducible apply Keeps.foldFst
    | with_reducible apply Keeps.each | with_reducible apply State.addEnergy_keeps | (intro _; intros; try dsimp only) | split
    | with_reducible apply Keeps.other)

theorem railPoll_keeps {base : State} {reads : List (Option (Nat × Nat))} {act : List (List (Nat × List (Nat × Nat)))} {s : State} (hbase : Keeps base s) : Keeps base (railPoll reads act s) := by
  unfold railPoll
  try dsimp only
  repeat' (first
    | with_reducible assumption | with_reducible apply Keeps.ite | with_reducible apply Keeps.fold | with_reducible apply Keeps.foldFst
    | with_reducible apply Keeps.each | with_reducible apply State.fset_keeps | with_reducible apply State.pollRail_keeps
    | with_reducible apply State.addEnergy_keeps | with_reducible apply State.railEnergy_keeps | (intro _; intros; try dsimp only) | split
    | with_reducible apply Keeps.other)

theorem State.emergency_keeps {base : State} {s : State} {r : Nat} (hbase : Keeps base s) : Keeps base (State.emergency s r) := by
  unfold State.emergency
  try dsimp only
  repeat' (first
    | with_reducible assumption | with_reducible apply Keeps.ite | with_reducible apply Keeps.fold | with_reducible apply State.fset_keeps
    | with_reducible apply State.fadd_keeps | (intro _; intros; try dsimp only) | split | with_reducible apply Keeps.other)

theorem State.setLevel_keeps {base : State} {s : State} {p r cycles : Nat} (hbase : Keeps base s) : Keeps base (State.setLevel s p r cycles) := by
  unfold State.setLevel
  try dsimp only
  repeat' (first
    | with_reducible assumption | with_reducible apply Keeps.ite | with_reducible apply Keeps.fold | with_reducible apply Keeps.foldFst
    | with_reducible apply State.fset_keeps | (intro _; intros; try dsimp only) | split | with_reducible apply Keeps.other)

theorem State.setLevels_keeps {base : State} {s : State} {p cycles : Nat} (hbase : Keeps base s) : Keeps base (State.setLevels s p cycles) := by
  unfold State.setLevels
  try dsimp only
  repeat' (first
    | with_reducible assumption | with_reducible apply Keeps.ite | with_reducible apply Keeps.fold | with_reducible apply Keeps.each
    | with_reducible apply State.setLevel_keeps | (intro _; intros; try dsimp only) | split | with_reducible apply Keeps.other)

theorem State.hubStep_keeps {base : State} {s : State} {want : Nat} (hbase : Keeps base s) : Keeps base (State.hubStep s want) := by
  unfold State.hubStep
  try dsimp only
  repeat' (first
    | with_reducible assumption | with_reducible apply Keeps.ite | with_reducible apply Keeps.fold | with_reducible apply Keeps.each
    | with_reducible apply State.setRail_keeps | with_reducible apply State.book_keeps | (intro _; intros; try dsimp only) | split
    | with_reducible apply Keeps.other)

theorem State.hubVoltage_keeps {base : State} {s : State} {hub : Nat} (hbase : Keeps base s) : Keeps base (State.hubVoltage s hub) := by
  unfold State.hubVoltage
  try dsimp only
  repeat' (first
    | with_reducible assumption | with_reducible apply Keeps.ite | with_reducible apply Keeps.fold | with_reducible apply State.hubStep_keeps
    | (intro _; intros; try dsimp only) | split | with_reducible apply Keeps.other)

theorem sensorRead_keeps {base : State} {dies : List (Nat × Nat)} {hub : Nat} {s : State} (hbase : Keeps base s) : Keeps base (sensorRead dies hub s) := by
  unfold sensorRead
  try dsimp only
  repeat' (first
    | with_reducible assumption | with_reducible apply Keeps.ite | with_reducible apply Keeps.fold | with_reducible apply Keeps.each
    | with_reducible apply State.fsets_keeps | with_reducible apply State.emergency_keeps | with_reducible apply State.hubVoltage_keeps
    | (intro _; intros; try dsimp only) | split | with_reducible apply Keeps.other)

theorem hbmTempRead_keeps {base : State} {temps : List Nat} {s : State} (hbase : Keeps base s) : Keeps base (hbmTempRead temps s) := by
  unfold hbmTempRead
  try dsimp only
  repeat' (first
    | with_reducible assumption | with_reducible apply Keeps.ite | with_reducible apply Keeps.fold | with_reducible apply Keeps.each
    | with_reducible apply State.fset_keeps | with_reducible apply State.updStack_keeps | with_reducible apply State.emergency_keeps
    | (intro _; intros; try dsimp only) | split | with_reducible apply Keeps.other)

end Sys2Proof.Machine
end

