-- ==== Sys2Proof/Laws/KeepsScrub.lean ====
section
/-! SUPPORT. What the operations of Sys2Proof/Machine/Scrub.lean keep (Laws/Keeps.lean). -/
namespace Sys2Proof.Machine

set_option linter.unusedTactic false
set_option linter.unreachableTactic false

theorem State.scrubOn_keeps {base : State} {s : State} {m : Nat} (hbase : Keeps base s) : Keeps base (State.scrubOn s m) := by
  unfold State.scrubOn
  try dsimp only
  repeat' (first
    | with_reducible assumption | with_reducible apply Keeps.ite | with_reducible apply Keeps.fold | with_reducible apply State.fadd_keeps
    | with_reducible apply State.updStack_keeps | with_reducible apply State.updRegion_keeps | (intro _; intros; try dsimp only) | split
    | with_reducible apply Keeps.other)

theorem scrubRead_keeps {base : State} {m : Nat} {errs : List (Nat × Byte)} {s : State} (hbase : Keeps base s) : Keeps base (scrubRead m errs s) := by
  unfold scrubRead
  try dsimp only
  repeat' (first
    | with_reducible assumption | refine Keeps.of_fst (by with_reducible assumption) ?_ | with_reducible apply Keeps.ite
    | with_reducible apply Keeps.fold | with_reducible apply State.updRegion_keeps | with_reducible apply State.raise_keeps
    | with_reducible apply State.strike_keeps | with_reducible apply State.logUncorr_keeps | with_reducible apply State.readSector_keeps
    | with_reducible apply State.scrubOn_keeps | (intro _; intros; try dsimp only) | split | with_reducible apply Keeps.other)

theorem State.startPass_keeps {base : State} {s : State} {m : Nat} (hbase : Keeps base s) : Keeps base (State.startPass s m) := by
  unfold State.startPass
  try dsimp only
  repeat' (first
    | with_reducible assumption | with_reducible apply Keeps.ite | with_reducible apply Keeps.fold | with_reducible apply State.fsetBit_keeps
    | with_reducible apply State.updStack_keeps | (intro _; intros; try dsimp only) | split | with_reducible apply Keeps.other)

theorem recalDue_keeps {base : State} {m : Nat} {s : State} (hbase : Keeps base s) : Keeps base (recalDue m s) := by
  unfold recalDue
  try dsimp only
  repeat' (first
    | with_reducible assumption | with_reducible apply Keeps.ite | with_reducible apply Keeps.fold | with_reducible apply Keeps.each
    | with_reducible apply State.updStack_keeps | with_reducible apply State.book_keeps | with_reducible apply State.startPass_keeps
    | (intro _; intros; try dsimp only) | split | with_reducible apply Keeps.other)

theorem State.endPass_keeps {base : State} {s : State} {m : Nat} (hbase : Keeps base s) : Keeps base (State.endPass s m) := by
  unfold State.endPass
  try dsimp only
  repeat' (first
    | with_reducible assumption | with_reducible apply Keeps.ite | with_reducible apply Keeps.fold | with_reducible apply State.fsetBit_keeps
    | with_reducible apply State.updStack_keeps | with_reducible apply State.startPass_keeps | (intro _; intros; try dsimp only) | split
    | with_reducible apply Keeps.other)

theorem visitStart_keeps {base : State} {m : Nat} {s : State} (hbase : Keeps base s) : Keeps base (visitStart m s) := by
  unfold visitStart
  try dsimp only
  repeat' (first
    | with_reducible assumption | with_reducible apply Keeps.ite | with_reducible apply Keeps.fold | with_reducible apply State.updStack_keeps
    | with_reducible apply State.endPass_keeps | (intro _; intros; try dsimp only) | split | with_reducible apply Keeps.other)

theorem State.advancePass_keeps {base : State} {s : State} {m i : Nat} (hbase : Keeps base s) : Keeps base (State.advancePass s m i) := by
  unfold State.advancePass
  try dsimp only
  repeat' (first
    | with_reducible assumption | with_reducible apply Keeps.ite | with_reducible apply Keeps.fold | with_reducible apply State.updStack_keeps
    | with_reducible apply State.endPass_keeps | (intro _; intros; try dsimp only) | split | with_reducible apply Keeps.other)

theorem State.spareRow_keeps {base : State} {s : State} {m i : Nat} {spare : Bool} (hbase : Keeps base s) : Keeps base (State.spareRow s m i spare) := by
  unfold State.spareRow
  try dsimp only
  repeat' (first
    | with_reducible assumption | refine Keeps.of_fst (by with_reducible assumption) ?_ | with_reducible apply Keeps.ite
    | with_reducible apply Keeps.fold | with_reducible apply Keeps.each | with_reducible apply State.fadd_keeps
    | with_reducible apply State.fsetBit_keeps | with_reducible apply State.updStack_keeps | with_reducible apply State.updRegion_keeps
    | with_reducible apply State.record_keeps | with_reducible apply State.readSector_keeps | (intro _; intros; try dsimp only) | split
    | with_reducible apply Keeps.other)

theorem visitEnd_keeps {base : State} {m : Nat} {ok spare : Bool} {s : State} (hbase : Keeps base s) : Keeps base (visitEnd m ok spare s) := by
  unfold visitEnd
  try dsimp only
  repeat' (first
    | with_reducible assumption | with_reducible apply Keeps.ite | with_reducible apply Keeps.fold | with_reducible apply Keeps.each
    | with_reducible apply State.updStack_keeps | with_reducible apply State.raise_keeps | with_reducible apply State.advancePass_keeps
    | with_reducible apply State.spareRow_keeps | (intro _; intros; try dsimp only) | split | with_reducible apply Keeps.other)

end Sys2Proof.Machine
end

