-- ==== Sys2Proof/Laws/KeepsBoundary.lean ====
section
/-! SUPPORT. What the operations of Sys2Proof/Machine/Boundary.lean keep (Laws/Keeps.lean). -/
namespace Sys2Proof.Machine

set_option linter.unusedTactic false
set_option linter.unreachableTactic false

theorem State.latchCounts_keeps {base : State} {s : State} {p : Nat} {counts : List (Nat × Nat)} (hbase : Keeps base s) : Keeps base (State.latchCounts s p counts) := by
  unfold State.latchCounts
  exact Keeps.each (Keeps.other (hbase.reg _ fun x => msorted_filter x _)) fun s f h => State.fset_keeps h

theorem State.freshCounts_keeps {base : State} {s : State} {p : Nat} (hbase : Keeps base s) : Keeps base (State.freshCounts s p) := by
  unfold State.freshCounts
  try dsimp only
  repeat' (first
    | with_reducible assumption | with_reducible apply Keeps.ite | with_reducible apply Keeps.fold | (intro _; intros; try dsimp only) | split
    | with_reducible apply Keeps.other)

theorem State.beatPulse_keeps {base : State} {s : State} {p : Nat} (hbase : Keeps base s) : Keeps base (State.beatPulse s p) := by
  unfold State.beatPulse
  try dsimp only
  repeat' (first
    | with_reducible assumption | with_reducible apply Keeps.ite | with_reducible apply Keeps.fold | with_reducible apply State.emit_keeps
    | (intro _; intros; try dsimp only) | split | with_reducible apply Keeps.other)

theorem State.takeAnnounce_keeps {base : State} {s : State} {p : Nat} {a : FirstBeatAnn} (hbase : Keeps base s) : Keeps base (State.takeAnnounce s p a) := by
  unfold State.takeAnnounce
  try dsimp only
  repeat' (first
    | with_reducible assumption | with_reducible apply Keeps.ite | with_reducible apply Keeps.fold | with_reducible apply State.floodDom_keeps
    | with_reducible apply State.formed_keeps | with_reducible apply State.announce_keeps | with_reducible apply SentOn.done
    | with_reducible apply SentOn.stop | with_reducible apply SentOn.bind | with_reducible apply SentOn.foldlM
    | refine SentOn.of_ok ?_ (by with_reducible assumption) | refine SentOn.of_err ?_ (by with_reducible assumption)
    | (intro _; intros; try dsimp only) | split | with_reducible apply Keeps.other)

theorem firstBeat_keeps {base : State} {p : Nat} {a : FirstBeatAnn} {s : State} (hbase : Keeps base s) : Keeps base (firstBeat p a s) := by
  unfold firstBeat
  try dsimp only
  repeat' (first
    | with_reducible assumption | with_reducible apply Keeps.ite | with_reducible apply Keeps.fold | with_reducible apply Keeps.each
    | with_reducible apply State.fsets_keeps | with_reducible apply State.updPart_keeps | with_reducible apply State.bookRotation_keeps
    | with_reducible apply State.schedStart_keeps | with_reducible apply State.judgeColl_keeps | with_reducible apply State.freshCounts_keeps
    | with_reducible apply State.beatPulse_keeps | with_reducible apply State.takeAnnounce_keeps | (intro _; intros; try dsimp only) | split
    | with_reducible apply Keeps.other)

theorem State.endRun_keeps {base : State} {s : State} {p : Nat} (hbase : Keeps base s) : Keeps base (State.endRun s p) := by
  unfold State.endRun
  try dsimp only
  repeat' (first
    | with_reducible assumption | with_reducible apply Keeps.ite | with_reducible apply Keeps.fold | with_reducible apply State.fsets_keeps
    | with_reducible apply State.stopPart_keeps | (intro _; intros; try dsimp only) | split | with_reducible apply Keeps.other)

theorem State.leaveDomain_keeps {base : State} {s : State} {p : Nat} (hbase : Keeps base s) : Keeps base (State.leaveDomain s p) := by
  unfold State.leaveDomain
  try dsimp only
  repeat' (first
    | with_reducible assumption | with_reducible apply Keeps.ite | with_reducible apply Keeps.fold | with_reducible apply State.updDom_keeps
    | (intro _; intros; try dsimp only) | split | with_reducible apply Keeps.other)

theorem memberClose_keeps {base : State} {p lateNs : Nat} {stalls : List Nat} {s : State} (hbase : Keeps base s) : Keeps base (memberClose p lateNs stalls s) := by
  unfold memberClose
  try dsimp only
  repeat' (first
    | with_reducible assumption | with_reducible apply Keeps.ite | with_reducible apply Keeps.fold | with_reducible apply State.updDom_keeps
    | with_reducible apply State.mergeIn_keeps | with_reducible apply State.endRun_keeps | with_reducible apply State.leaveDomain_keeps
    | (intro _; intros; try dsimp only) | split | with_reducible apply Keeps.other)

theorem State.unbook_keeps {base : State} {s : State} {ps : List Nat} {b : Booking} (hbase : Keeps base s) : Keeps base (State.unbook s ps b) := by
  unfold State.unbook
  try dsimp only
  repeat' (first
    | with_reducible assumption | with_reducible apply Keeps.ite | with_reducible apply Keeps.fold | with_reducible apply Keeps.each
    | with_reducible apply State.updPart_keeps | (intro _; intros; try dsimp only) | split | with_reducible apply Keeps.other)

theorem State.beginRotation_keeps {base : State} {s : State} {p : Nat} {b : Booking} (hbase : Keeps base s) : Keeps base (State.beginRotation s p b) := by
  unfold State.beginRotation
  try dsimp only
  repeat' (first
    | with_reducible assumption | with_reducible apply Keeps.ite | with_reducible apply Keeps.fold | with_reducible apply State.fset_keeps
    | with_reducible apply State.updRegion_keeps | with_reducible apply State.moveBooking_keeps | with_reducible apply State.unbook_keeps
    | (intro _; intros; try dsimp only) | split | with_reducible apply Keeps.other)

theorem State.drainTwin_keeps {base : State} {s : State} {r : Nat} (hbase : Keeps base s) : Keeps base (State.drainTwin s r) := by
  unfold State.drainTwin
  try dsimp only
  repeat' (first
    | with_reducible assumption | with_reducible apply Keeps.ite | with_reducible apply Keeps.fold | with_reducible apply State.fset_keeps
    | (intro _; intros; try dsimp only) | split | with_reducible apply Keeps.other)

theorem State.moveAll_keeps {base : State} {s : State} {b : Booking} (hbase : Keeps base s) : Keeps base (State.moveAll s b) := by
  unfold State.moveAll
  try dsimp only
  repeat' (first
    | with_reducible assumption | with_reducible apply Keeps.ite | with_reducible apply Keeps.fold | with_reducible apply Keeps.each
    | with_reducible apply State.moveBooking_keeps | (intro _; intros; try dsimp only) | split | with_reducible apply Keeps.other)

theorem State.beginBooked_keeps {base : State} {s : State} {p : Nat} {b : Booking} (hbase : Keeps base s) : Keeps base (State.beginBooked s p b) := by
  unfold State.beginBooked
  try dsimp only
  repeat' (first
    | with_reducible assumption | with_reducible apply Keeps.ite | with_reducible apply Keeps.fold | with_reducible apply State.fset_keeps
    | with_reducible apply State.setRail_keeps | with_reducible apply State.regionVolts_keeps | with_reducible apply State.laneLeaves_keeps
    | with_reducible apply State.offerLane_keeps | with_reducible apply State.startPass_keeps | with_reducible apply State.unbook_keeps
    | with_reducible apply State.beginRotation_keeps | with_reducible apply State.moveAll_keeps | (intro _; intros; try dsimp only) | split
    | with_reducible apply Keeps.other)

theorem State.moveLate_keeps {base : State} {s : State} {p number : Nat} (hbase : Keeps base s) : Keeps base (State.moveLate s p number) := by
  unfold State.moveLate
  try dsimp only
  repeat' (first
    | with_reducible assumption | with_reducible apply Keeps.ite | with_reducible apply Keeps.fold | with_reducible apply Keeps.each
    | with_reducible apply State.updPart_keeps | with_reducible apply State.noteHub_keeps | (intro _; intros; try dsimp only) | split
    | with_reducible apply Keeps.other)

theorem State.closeBooks_keeps {base : State} {s : State} {p : Nat} (hbase : Keeps base s) : Keeps base (State.closeBooks s p) := by
  unfold State.closeBooks
  try dsimp only
  repeat' (first
    | with_reducible assumption | with_reducible apply Keeps.ite | with_reducible apply Keeps.fold | with_reducible apply Keeps.each
    | with_reducible apply State.updRing_keeps | with_reducible apply State.updSlot_keeps | with_reducible apply State.updDom_keeps
    | (intro _; intros; try dsimp only) | split | with_reducible apply Keeps.other)

theorem State.nextBeat_keeps {base : State} {s : State} {p : Nat} {b : BoundaryMsg} (hbase : Keeps base s) : Keeps base (State.nextBeat s p b) := by
  unfold State.nextBeat
  try dsimp only
  repeat' (first
    | with_reducible assumption | with_reducible apply Keeps.ite | with_reducible apply Keeps.fold | with_reducible apply Keeps.each
    | with_reducible apply State.fset_keeps | with_reducible apply State.applyStaged_keeps | with_reducible apply State.takeStep_keeps
    | with_reducible apply State.setLevels_keeps | with_reducible apply State.drainTwin_keeps | with_reducible apply State.beginBooked_keeps
    | with_reducible apply State.moveLate_keeps | with_reducible apply State.closeBooks_keeps | (intro _; intros; try dsimp only) | split
    | with_reducible apply Keeps.other)

theorem beatBoundary_keeps {base : State} {p : Nat} {counts : List (Nat × Nat)} {s : State} (hbase : Keeps base s) : Keeps base (beatBoundary p counts s) := by
  unfold beatBoundary
  try dsimp only
  repeat' (first
    | with_reducible assumption | with_reducible apply Keeps.ite | with_reducible apply Keeps.fold | with_reducible apply Keeps.each
    | with_reducible apply State.bookRotation_keeps | with_reducible apply State.placeHolds_keeps | with_reducible apply State.drainPart_keeps
    | with_reducible apply State.latchCounts_keeps | with_reducible apply State.beatPulse_keeps | with_reducible apply State.nextBeat_keeps
    | (intro _; intros; try dsimp only) | split | with_reducible apply Keeps.other)

theorem State.swapTwin_keeps {base : State} {s : State} {r k w t : Nat} (hbase : Keeps base s) : Keeps base (State.swapTwin s r k w t) := by
  unfold State.swapTwin
  try dsimp only
  repeat' (first
    | with_reducible assumption | with_reducible apply Keeps.ite | with_reducible apply Keeps.fold | with_reducible apply State.fset_keeps
    | with_reducible apply State.fsets_keeps | (intro _; intros; try dsimp only) | split | with_reducible apply Keeps.other)

theorem State.rotate_keeps {base : State} {s : State} {r k : Nat} (hbase : Keeps base s) : Keeps base (State.rotate s r k) := by
  unfold State.rotate
  try dsimp only
  repeat' (first
    | with_reducible assumption | with_reducible apply Keeps.ite | with_reducible apply Keeps.fold | with_reducible apply State.fsets_keeps
    | with_reducible apply State.updRegion_keeps | with_reducible apply State.runSuite_keeps | with_reducible apply State.swapTwin_keeps
    | (intro _; intros; try dsimp only) | split | with_reducible apply Keeps.other)

theorem sealCandidate_keeps {base : State} {p value : Nat} {s : State} (hbase : Keeps base s) : Keeps base (sealCandidate p value s) := by
  unfold sealCandidate
  try dsimp only
  repeat' (first
    | with_reducible assumption | with_reducible apply Keeps.ite | with_reducible apply Keeps.fold | with_reducible apply State.fset_keeps
    | with_reducible apply State.fsets_keeps | with_reducible apply State.updPart_keeps | with_reducible apply State.trySeal_keeps
    | (intro _; intros; try dsimp only) | split | with_reducible apply Keeps.other)

end Sys2Proof.Machine
end

