-- ==== Sys2Proof/Laws/KeepsDie.lean ====
section
/-! SUPPORT. What the operations of Sys2Proof/Machine/Die.lean keep (Laws/Keeps.lean). -/
namespace Sys2Proof.Machine

set_option linter.unusedTactic false
set_option linter.unreachableTactic false

theorem State.isolate_keeps {base : State} {s : State} {d v : Nat} {c : Code} (hbase : Keeps base s) : Keeps base (State.isolate s d v c) := by
  unfold State.isolate
  try dsimp only
  repeat' (first
    | with_reducible assumption | with_reducible apply Keeps.ite | with_reducible apply Keeps.fold | with_reducible apply Keeps.each
    | with_reducible apply State.setDie_keeps | with_reducible apply State.raise_keeps | (intro _; intros; try dsimp only) | split
    | with_reducible apply Keeps.other)

theorem d2dRetry_keeps {base : State} {m : DieLink} {inRow inSecond : Nat} {s : State} (hbase : Keeps base s) : Keeps base (d2dRetry m inRow inSecond s) := by
  unfold d2dRetry
  try dsimp only
  repeat' (first
    | with_reducible assumption | with_reducible apply Keeps.ite | with_reducible apply Keeps.fold | with_reducible apply State.fadd_keeps
    | (intro _; intros; try dsimp only) | split | with_reducible apply Keeps.other)

theorem State.persist_keeps {base s : State} {m : DieLink} (h : Keeps base s) : Keeps base (State.persist s m) := by
  cases m with
  | hub d i => exact State.isolate_keeps h
  | bridge b i => exact Keeps.each (Keeps.other (State.fsetBit_keeps h)) fun _ _ h => State.raise_keeps h
  | engine e i => exact engineFail_keeps (Keeps.other h)

theorem moduleRetrainEnd_keeps {base : State} {m : DieLink} {ok : Bool} {s : State} (hbase : Keeps base s) : Keeps base (moduleRetrainEnd m ok s) := by
  unfold moduleRetrainEnd
  try dsimp only
  repeat' (first
    | with_reducible assumption | with_reducible apply Keeps.ite | with_reducible apply Keeps.fold | with_reducible apply State.persist_keeps
    | (intro _; intros; try dsimp only) | split | with_reducible apply Keeps.other)

end Sys2Proof.Machine
end

