-- ==== Sys2Proof/Laws/KeepsStart.lean ====
section
/-! SUPPORT. What the operations of Sys2Proof/Machine/Start.lean keep (Laws/Keeps.lean). -/
namespace Sys2Proof.Machine

set_option linter.unusedTactic false
set_option linter.unreachableTactic false

theorem State.clearFlds_keeps {base : State} {s : State} {l : List Fld} (hbase : Keeps base s) : Keeps base (State.clearFlds s l) :=
  hbase.reg _ fun x => msorted_filter x _

theorem State.recordStacks_keeps {base : State} {s : State} {d : Nat} (hbase : Keeps base s) : Keeps base (State.recordStacks s d) := by
  unfold State.recordStacks
  try dsimp only
  repeat' (first
    | with_reducible assumption | with_reducible apply Keeps.ite | with_reducible apply Keeps.fold | with_reducible apply Keeps.each
    | with_reducible apply State.tick_keeps | with_reducible apply State.record_keeps | (intro _; intros; try dsimp only) | split
    | with_reducible apply Keeps.other)

theorem State.rejoinDie_keeps {base : State} {s : State} {d : Nat} (hbase : Keeps base s) : Keeps base (State.rejoinDie s d) := by
  unfold State.rejoinDie
  exact State.recordStacks_keeps (State.setDie_keeps (State.fset_keeps (State.updRegion_keeps (Keeps.each
    (Keeps.other (hbase.store _ fun k => Memory.zeroDie_wf k ..)) fun s m h => State.updStack_keeps h))))

theorem State.freshRun_keeps {base : State} {s : State} {p : Nat} (hbase : Keeps base s) : Keeps base (State.freshRun s p) := by
  unfold State.freshRun
  try dsimp only
  repeat' (first
    | with_reducible assumption | with_reducible apply Keeps.ite | with_reducible apply Keeps.fold | with_reducible apply Keeps.each
    | with_reducible apply State.fset_keeps | with_reducible apply State.updPart_keeps | with_reducible apply State.updRing_keeps
    | with_reducible apply State.updSlot_keeps | with_reducible apply State.clearFlds_keeps | (intro _; intros; try dsimp only) | split
    | with_reducible apply Keeps.other)

theorem State.goOn_keeps {base : State} {s : State} {p : Nat} (hbase : Keeps base s) : Keeps base (State.goOn s p) := by
  unfold State.goOn
  try dsimp only
  repeat' (first
    | with_reducible assumption | with_reducible apply Keeps.ite | with_reducible apply Keeps.fold | with_reducible apply State.formFail_keeps
    | with_reducible apply State.join_keeps | (intro _; intros; try dsimp only) | split | with_reducible apply Keeps.other)

theorem State.testAndJoin_keeps {base : State} {s : State} {p : Nat} (hbase : Keeps base s) : Keeps base (State.testAndJoin s p) := by
  unfold State.testAndJoin
  try dsimp only
  repeat' (first
    | with_reducible assumption | with_reducible apply Keeps.ite | with_reducible apply Keeps.fold | with_reducible apply Keeps.each
    | with_reducible apply State.runSuite_keeps | with_reducible apply State.settleVolts_keeps | with_reducible apply State.join_keeps
    | with_reducible apply State.loadColl_keeps | with_reducible apply State.yoInit_keeps | with_reducible apply State.goOn_keeps
    | (intro _; intros; try dsimp only) | split | with_reducible apply Keeps.other)

theorem start_keeps {base : State} {p : Nat} {bad : List (Fin 4)} {s : State} (hbase : Keeps base s) : Keeps base (start p bad s) := by
  unfold start
  try dsimp only
  repeat' (first
    | with_reducible assumption | with_reducible apply Keeps.ite | with_reducible apply Keeps.fold | with_reducible apply Keeps.each
    | with_reducible apply State.fset_keeps | with_reducible apply State.fsets_keeps | with_reducible apply State.noteDiscard_keeps
    | with_reducible apply State.formFail_keeps | with_reducible apply State.rejoinDie_keeps | with_reducible apply State.freshRun_keeps
    | with_reducible apply State.testAndJoin_keeps | (intro _; intros; try dsimp only) | split | with_reducible apply Keeps.other)

theorem suiteEnd_keeps {base : State} {r core : Nat} {outs : List (List Byte)} {s : State} (hbase : Keeps base s) : Keeps base (suiteEnd r core outs s) := by
  unfold suiteEnd
  try dsimp only
  repeat' (first
    | with_reducible assumption | with_reducible apply Keeps.ite | with_reducible apply Keeps.fold | with_reducible apply State.suitePass_keeps
    | with_reducible apply State.suiteFail_keeps | with_reducible apply State.goOn_keeps | (intro _; intros; try dsimp only) | split
    | with_reducible apply Keeps.other)

theorem State.offRing_keeps {base : State} {s : State} {n : Nat} (hbase : Keeps base s) : Keeps base (State.offRing s n) := by
  unfold State.offRing
  try dsimp only
  repeat' (first
    | with_reducible assumption | with_reducible apply Keeps.ite | with_reducible apply Keeps.fold | with_reducible apply State.ringOff_keeps
    | (intro _; intros; try dsimp only) | split | with_reducible apply Keeps.other)

theorem State.idleSlot_keeps {base : State} {s : State} {rk : Nat × Nat} (hbase : Keeps base s) : Keeps base (State.idleSlot s rk) := by
  unfold State.idleSlot
  try dsimp only
  repeat' (first
    | with_reducible assumption | with_reducible apply Keeps.ite | with_reducible apply Keeps.fold | with_reducible apply State.updSlot_keeps
    | (intro _; intros; try dsimp only) | split | with_reducible apply Keeps.other)

theorem clear_keeps {base : State} {p : Nat} {s : State} (hbase : Keeps base s) : Keeps base (clear p s) := by
  unfold clear
  try dsimp only
  repeat' (first
    | with_reducible assumption | with_reducible apply Keeps.ite | with_reducible apply Keeps.fold | with_reducible apply Keeps.each
    | with_reducible apply State.fset_keeps | with_reducible apply State.updPart_keeps | with_reducible apply State.noteDiscard_keeps
    | with_reducible apply State.clearFlds_keeps | with_reducible apply State.offRing_keeps | with_reducible apply State.idleSlot_keeps
    | (intro _; intros; try dsimp only) | split | with_reducible apply Keeps.other)

theorem State.ctxBegin_keeps {base : State} {s : State} {p cmd addr : Nat} (hbase : Keeps base s) : Keeps base (State.ctxBegin s p cmd addr) := by
  unfold State.ctxBegin
  try dsimp only
  repeat' (first
    | with_reducible assumption | with_reducible apply Keeps.ite | with_reducible apply Keeps.fold | with_reducible apply State.fsets_keeps
    | with_reducible apply State.undef_keeps | with_reducible apply State.updPart_keeps | with_reducible apply State.askStream_keeps
    | with_reducible apply State.noteDiscard_keeps | with_reducible apply State.put_keeps | (intro _; intros; try dsimp only) | split
    | with_reducible apply Keeps.other)

theorem State.ctxEnd_keeps {base : State} {s : State} {p : Nat} {bad : Bool} (hbase : Keeps base s) : Keeps base (State.ctxEnd s p bad) := by
  unfold State.ctxEnd
  try dsimp only
  repeat' (first
    | with_reducible assumption | with_reducible apply Keeps.ite | with_reducible apply Keeps.fold | with_reducible apply State.fsets_keeps
    | with_reducible apply State.updPart_keeps | (intro _; intros; try dsimp only) | split | with_reducible apply Keeps.other)

theorem State.ctxFail_keeps {base : State} {s : State} {p : Nat} {c : CtxCmd} (hbase : Keeps base s) : Keeps base (State.ctxFail s p c) := by
  unfold State.ctxFail
  try dsimp only
  repeat' (first
    | with_reducible assumption | with_reducible apply Keeps.ite | with_reducible apply Keeps.fold | with_reducible apply State.undef_keeps
    | with_reducible apply State.ctxEnd_keeps | (intro _; intros; try dsimp only) | split | with_reducible apply Keeps.other)

theorem contextDone_keeps {base : State} {p : Nat} {phys : ReadUpset} {s : State} (hbase : Keeps base s) : Keeps base (contextDone p phys s) := by
  unfold contextDone
  try dsimp only
  repeat' (first
    | with_reducible assumption | refine Keeps.of_fst (by with_reducible assumption) ?_ | with_reducible apply Keeps.ite
    | with_reducible apply Keeps.fold | with_reducible apply State.updPart_keeps | with_reducible apply State.askStream_keeps
    | with_reducible apply State.dropStream_keeps | with_reducible apply State.raise_keeps | with_reducible apply State.strike_keeps
    | with_reducible apply State.readFor_keeps | with_reducible apply State.ctxEnd_keeps | with_reducible apply State.ctxFail_keeps
    | (intro _; intros; try dsimp only) | split | with_reducible apply Keeps.other)

end Sys2Proof.Machine
end

