-- ==== Sys2Proof/Laws/KeepsGlkLink.lean ====
section
/-! SUPPORT. What the operations of Sys2Proof/Machine/GlkLink.lean keep (Laws/Keeps.lean). -/
namespace Sys2Proof.Machine

set_option linter.unusedTactic false
set_option linter.unreachableTactic false

theorem State.glkTrain_keeps {base : State} {s : State} (hbase : Keeps base s) : Keeps base (State.glkTrain s) := by
  unfold State.glkTrain
  try dsimp only
  repeat' (first
    | with_reducible assumption | with_reducible apply Keeps.ite | with_reducible apply Keeps.fold | with_reducible apply State.fsets_keeps
    | with_reducible apply State.updGlk_keeps | (intro _; intros; try dsimp only) | split | with_reducible apply Keeps.other)

theorem State.glkTrainFail_keeps {base : State} {s : State} (hbase : Keeps base s) : Keeps base (State.glkTrainFail s) := by
  unfold State.glkTrainFail
  try dsimp only
  repeat' (first
    | with_reducible assumption | with_reducible apply Keeps.ite | with_reducible apply Keeps.fold | with_reducible apply State.noteHub_keeps
    | with_reducible apply State.glkTrain_keeps | (intro _; intros; try dsimp only) | split | with_reducible apply Keeps.other)

theorem State.ctxLost_keeps {base : State} {s : State} {p : Nat} (hbase : Keeps base s) : Keeps base (State.ctxLost s p) := by
  unfold State.ctxLost
  try dsimp only
  repeat' (first
    | with_reducible assumption | with_reducible apply Keeps.ite | with_reducible apply Keeps.fold | with_reducible apply State.updPart_keeps
    | (intro _; intros; try dsimp only) | split | with_reducible apply Keeps.other)

theorem State.resyncLost_keeps {base : State} {s : State} {o : Owner} (hbase : Keeps base s) : Keeps base (State.resyncLost s o) := by
  unfold State.resyncLost
  try dsimp only
  repeat' (first
    | with_reducible assumption | with_reducible apply Keeps.ite | with_reducible apply Keeps.fold | (intro _; intros; try dsimp only) | split
    | with_reducible apply Keeps.other)

theorem State.endAccess_keeps {base : State} {s : State} {o : Owner} (hbase : Keeps base s) : Keeps base (State.endAccess s o) := by
  unfold State.endAccess
  try dsimp only
  repeat' (first
    | with_reducible assumption | with_reducible apply Keeps.ite | with_reducible apply Keeps.fold | with_reducible apply State.landLost_keeps
    | with_reducible apply State.tokenCheck_keeps | with_reducible apply State.ctxLost_keeps | with_reducible apply State.resyncLost_keeps
    | (intro _; intros; try dsimp only) | split | with_reducible apply Keeps.other)

theorem State.glkDown_keeps {base : State} {s : State} (hbase : Keeps base s) : Keeps base (State.glkDown s) := by
  unfold State.glkDown
  try dsimp only
  repeat' (first
    | with_reducible assumption | with_reducible apply Keeps.ite | with_reducible apply Keeps.fold | with_reducible apply Keeps.each
    | with_reducible apply State.fset_keeps | with_reducible apply State.updGlk_keeps | with_reducible apply State.raise_keeps
    | with_reducible apply State.flushToward_keeps | with_reducible apply State.glkTrain_keeps | with_reducible apply State.endAccess_keeps
    | (intro _; intros; try dsimp only) | split | with_reducible apply Keeps.other)

theorem State.glkAccept_keeps {base : State} {s : State} {h : GlkHead} {slots : Nat} {ok : Bool} {k : State → State} (hbase : Keeps base s) (hk : ∀ x0, Keeps base x0 → Keeps base (k x0)) : Keeps base (State.glkAccept s h slots ok k) := by
  unfold State.glkAccept
  try dsimp only
  repeat' (first
    | with_reducible assumption | with_reducible apply Keeps.ite | with_reducible apply Keeps.fold | with_reducible apply State.updGlk_keeps
    | with_reducible apply State.glkEmpty_keeps | with_reducible apply State.glkTake_keeps | with_reducible apply State.glkTrainFail_keeps
    | with_reducible apply State.glkDown_keeps | with_reducible apply hk | (intro _; intros; try dsimp only) | split
    | with_reducible apply Keeps.other)

theorem State.glkIn_keeps {base : State} {s : State} {h : GlkHead} {slots : Nat} {ok : Bool} {k : State → State} (hbase : Keeps base s) (hk : ∀ x0, Keeps base x0 → Keeps base (k x0)) : Keeps base (State.glkIn s h slots ok k) := by
  unfold State.glkIn
  try dsimp only
  repeat' (first
    | with_reducible assumption | with_reducible apply Keeps.ite | with_reducible apply Keeps.fold | with_reducible apply State.glkAccept_keeps
    | with_reducible apply hk | (intro _; intros; try dsimp only) | split | with_reducible apply Keeps.other)

theorem State.keepLate_keeps {base : State} {s : State} {m : LateMsg} (hbase : Keeps base s) : Keeps base (State.keepLate s m) := by
  unfold State.keepLate
  try dsimp only
  repeat' (first
    | with_reducible assumption | with_reducible apply Keeps.ite | with_reducible apply Keeps.fold | with_reducible apply State.updGlk_keeps
    | (intro _; intros; try dsimp only) | split | with_reducible apply Keeps.other)

theorem State.takeWord_keeps {base : State} {s : State} {c word : Nat} (hbase : Keeps base s) : Keeps base (State.takeWord s c word) := by
  unfold State.takeWord
  try dsimp only
  repeat' (first
    | with_reducible assumption | with_reducible apply Keeps.ite | with_reducible apply Keeps.fold | with_reducible apply State.glkFree_keeps
    | with_reducible apply State.mboxSend_keeps | (intro _; intros; try dsimp only) | split | with_reducible apply Keeps.other)

theorem capsIn_keeps {base : State} {data : List Byte} {h : GlkHead} {s : State} (hbase : Keeps base s) : Keeps base (capsIn data h s) := by
  unfold capsIn
  try dsimp only
  repeat' (first
    | with_reducible assumption | with_reducible apply Keeps.ite | with_reducible apply Keeps.fold | with_reducible apply State.tick_keeps
    | with_reducible apply State.emit_keeps | with_reducible apply State.updGlk_keeps | with_reducible apply State.glkFree_keeps
    | with_reducible apply State.glkAccept_keeps | with_reducible apply State.glkIn_keeps | (intro _; intros; try dsimp only) | split
    | with_reducible apply Keeps.other)

theorem State.glkComesUp_keeps {base : State} {s : State} {lanes : Nat} {credits : List Nat} (hbase : Keeps base s) : Keeps base (State.glkComesUp s lanes credits) := by
  unfold State.glkComesUp
  try dsimp only
  repeat' (first
    | with_reducible assumption | with_reducible apply Keeps.ite | with_reducible apply Keeps.fold | with_reducible apply State.fsets_keeps
    | with_reducible apply State.fadd_keeps | with_reducible apply State.updGlk_keeps | with_reducible apply State.glkDrain_keeps
    | with_reducible apply State.noteHub_keeps | with_reducible apply State.glkTrainFail_keeps | (intro _; intros; try dsimp only) | split
    | with_reducible apply Keeps.other)

theorem creditInit_keeps {base : State} {lanes : Nat} {credits : List Nat} {h : GlkHead} {s : State} (hbase : Keeps base s) : Keeps base (creditInit lanes credits h s) := by
  unfold creditInit
  try dsimp only
  repeat' (first
    | with_reducible assumption | with_reducible apply Keeps.ite | with_reducible apply Keeps.fold | with_reducible apply State.glkAccept_keeps
    | with_reducible apply State.glkComesUp_keeps | (intro _; intros; try dsimp only) | split | with_reducible apply Keeps.other)

theorem downNotice_keeps {base : State} {h : GlkHead} {s : State} (hbase : Keeps base s) : Keeps base (downNotice h s) := by
  unfold downNotice
  try dsimp only
  repeat' (first
    | with_reducible assumption | with_reducible apply Keeps.ite | with_reducible apply Keeps.fold | with_reducible apply State.glkDown_keeps
    | with_reducible apply State.glkIn_keeps | (intro _; intros; try dsimp only) | split | with_reducible apply Keeps.other)

theorem echo_keeps {base : State} {data : List Byte} {h : GlkHead} {s : State} (hbase : Keeps base s) : Keeps base (echo data h s) := by
  unfold echo
  try dsimp only
  repeat' (first
    | with_reducible assumption | with_reducible apply Keeps.ite | with_reducible apply Keeps.fold | with_reducible apply State.glkPut_keeps
    | with_reducible apply State.glkFree_keeps | with_reducible apply State.glkIn_keeps | (intro _; intros; try dsimp only) | split
    | with_reducible apply Keeps.other)

theorem mboxWord_keeps {base : State} {c word : Nat} {h : GlkHead} {s : State} (hbase : Keeps base s) : Keeps base (mboxWord c word h s) := by
  unfold mboxWord
  try dsimp only
  repeat' (first
    | with_reducible assumption | with_reducible apply Keeps.ite | with_reducible apply Keeps.fold | with_reducible apply State.glkIn_keeps
    | with_reducible apply State.keepLate_keeps | with_reducible apply State.takeWord_keeps | (intro _; intros; try dsimp only) | split
    | with_reducible apply Keeps.other)

theorem State.glkReplay_keeps {base : State} {s : State} (hbase : Keeps base s) : Keeps base (State.glkReplay s) := by
  unfold State.glkReplay
  try dsimp only
  repeat' (first
    | with_reducible assumption | with_reducible apply Keeps.ite | with_reducible apply Keeps.fold | with_reducible apply State.fadd_keeps
    | (intro _; intros; try dsimp only) | split | with_reducible apply Keeps.other | with_reducible apply Keeps.send)

theorem State.glkRetrain_keeps {base : State} {s : State} (hbase : Keeps base s) : Keeps base (State.glkRetrain s) := by
  unfold State.glkRetrain
  try dsimp only
  repeat' (first
    | with_reducible assumption | with_reducible apply Keeps.ite | with_reducible apply Keeps.fold | with_reducible apply State.fset_keeps
    | with_reducible apply State.fadd_keeps | with_reducible apply State.updGlk_keeps | (intro _; intros; try dsimp only) | split
    | with_reducible apply Keeps.other)

theorem glkRetrainNow_keeps {base : State} {s : State} (hbase : Keeps base s) : Keeps base (glkRetrainNow s) := by
  unfold glkRetrainNow
  try dsimp only
  repeat' (first
    | with_reducible assumption | with_reducible apply Keeps.ite | with_reducible apply Keeps.fold | with_reducible apply State.glkRetrain_keeps
    | (intro _; intros; try dsimp only) | split | with_reducible apply Keeps.other)

theorem glkRetrainEnd_keeps {base : State} {ok : Bool} {s : State} (hbase : Keeps base s) : Keeps base (glkRetrainEnd ok s) := by
  unfold glkRetrainEnd
  try dsimp only
  repeat' (first
    | with_reducible assumption | with_reducible apply Keeps.ite | with_reducible apply Keeps.fold | with_reducible apply State.fset_keeps
    | with_reducible apply State.fadd_keeps | with_reducible apply State.updGlk_keeps | with_reducible apply State.glkDrain_keeps
    | with_reducible apply State.glkDown_keeps | with_reducible apply State.glkReplay_keeps | (intro _; intros; try dsimp only) | split
    | with_reducible apply Keeps.other)

theorem glkFlitDiscard_keeps {base : State} {c : DiscardCause} {s : State} (hbase : Keeps base s) : Keeps base (glkFlitDiscard c s) := by
  unfold glkFlitDiscard
  try dsimp only
  repeat' (first
    | with_reducible assumption | with_reducible apply Keeps.ite | with_reducible apply Keeps.fold | with_reducible apply State.fadd_keeps
    | with_reducible apply State.updGlk_keeps | with_reducible apply State.glkEmpty_keeps | (intro _; intros; try dsimp only) | split
    | with_reducible apply Keeps.other)

theorem glkNak_keeps {base : State} {ack : Nat} {s : State} (hbase : Keeps base s) : Keeps base (glkNak ack s) := by
  unfold glkNak
  try dsimp only
  repeat' (first
    | with_reducible assumption | with_reducible apply Keeps.ite | with_reducible apply Keeps.fold | with_reducible apply State.updGlk_keeps
    | with_reducible apply State.glkReplay_keeps | with_reducible apply State.glkRetrain_keeps | (intro _; intros; try dsimp only) | split
    | with_reducible apply Keeps.other)

theorem State.glkLoseLanes_keeps {base : State} {s : State} {mask : Nat} (hbase : Keeps base s) : Keeps base (State.glkLoseLanes s mask) := by
  unfold State.glkLoseLanes
  try dsimp only
  repeat' (first
    | with_reducible assumption | with_reducible apply Keeps.ite | with_reducible apply Keeps.fold | with_reducible apply State.fsets_keeps
    | with_reducible apply State.updGlk_keeps | with_reducible apply State.glkDown_keeps | (intro _; intros; try dsimp only) | split
    | with_reducible apply Keeps.other | with_reducible apply Keeps.send)

theorem glkLaneRecal_keeps {base : State} {lane : Nat} {s : State} (hbase : Keeps base s) : Keeps base (glkLaneRecal lane s) := by
  unfold glkLaneRecal
  try dsimp only
  repeat' (first
    | with_reducible assumption | with_reducible apply Keeps.ite | with_reducible apply Keeps.fold | with_reducible apply State.fsetBit_keeps
    | with_reducible apply State.updGlk_keeps | (intro _; intros; try dsimp only) | split | with_reducible apply Keeps.other)

theorem glkLaneRecalEnd_keeps {base : State} {lane : Nat} {ok : Bool} {s : State} (hbase : Keeps base s) : Keeps base (glkLaneRecalEnd lane ok s) := by
  unfold glkLaneRecalEnd
  try dsimp only
  repeat' (first
    | with_reducible assumption | with_reducible apply Keeps.ite | with_reducible apply Keeps.fold | with_reducible apply State.fsetBit_keeps
    | with_reducible apply State.updGlk_keeps | with_reducible apply State.glkLoseLanes_keeps | (intro _; intros; try dsimp only) | split
    | with_reducible apply Keeps.other)

theorem snpInv_keeps {base : State} {tag addr : Nat} {h : GlkHead} {s : State} (hbase : Keeps base s) : Keeps base (snpInv tag addr h s) := by
  unfold snpInv
  try dsimp only
  repeat' (first
    | with_reducible assumption | with_reducible apply Keeps.ite | with_reducible apply Keeps.fold | with_reducible apply State.fadd_keeps
    | with_reducible apply State.updGlk_keeps | with_reducible apply State.glkPut_keeps | with_reducible apply State.glkFree_keeps
    | with_reducible apply State.glkIn_keeps | (intro _; intros; try dsimp only) | split | with_reducible apply Keeps.other)

theorem State.glkSettle_keeps {base : State} {s : State} {tag : Nat} (hbase : Keeps base s) : Keeps base (State.glkSettle s tag) := by
  unfold State.glkSettle
  try dsimp only
  repeat' (first
    | with_reducible assumption | with_reducible apply Keeps.ite | with_reducible apply Keeps.fold | with_reducible apply State.updGlk_keeps
    | with_reducible apply State.glkUndefer_keeps | (intro _; intros; try dsimp only) | split | with_reducible apply Keeps.other)

theorem State.fetchGoesOn_keeps {base : State} {s : State} {p : Nat} (hbase : Keeps base s) : Keeps base (State.fetchGoesOn s p) := by
  unfold State.fetchGoesOn
  try dsimp only
  repeat' (first
    | with_reducible assumption | with_reducible apply Keeps.ite | with_reducible apply Keeps.fold | with_reducible apply State.inboundGoes_keeps
    | with_reducible apply State.loadColl_keeps | with_reducible apply State.drainPart_keeps | with_reducible apply State.goOn_keeps
    | (intro _; intros; try dsimp only) | split | with_reducible apply Keeps.other)

theorem glkData_keeps {base : State} {tag : Nat} {data : List Byte} {phys : ReadUpset} {h : GlkHead} {s : State} (hbase : Keeps base s) : Keeps base (glkData tag data phys h s) := by
  unfold glkData
  try dsimp only
  repeat' (first
    | with_reducible assumption | with_reducible apply Keeps.ite | with_reducible apply Keeps.fold | with_reducible apply Keeps.each
    | with_reducible apply State.updGlk_keeps | with_reducible apply State.glkFree_keeps | with_reducible apply State.fillLine_keeps
    | with_reducible apply State.strike_keeps | with_reducible apply State.mergesGo_keeps | with_reducible apply State.tokenCheck_keeps
    | with_reducible apply State.glkIn_keeps | with_reducible apply State.glkSettle_keeps | with_reducible apply State.fetchGoesOn_keeps
    | (intro _; intros; try dsimp only) | split | with_reducible apply Keeps.other | with_reducible apply Keeps.bytes
    | with_reducible apply Keeps.zero | with_reducible apply Keeps.byte)

theorem State.resyncGoes_keeps {base : State} {s : State} (hbase : Keeps base s) : Keeps base (State.resyncGoes s) := by
  unfold State.resyncGoes
  try dsimp only
  repeat' (first
    | with_reducible assumption | with_reducible apply Keeps.ite | with_reducible apply Keeps.fold | with_reducible apply State.fset_keeps
    | with_reducible apply State.store_keeps | with_reducible apply State.ranDesc_keeps | (intro _; intros; try dsimp only) | split
    | with_reducible apply Keeps.other)

theorem wrAck_keeps {base : State} {tag : Nat} {h : GlkHead} {s : State} (hbase : Keeps base s) : Keeps base (wrAck tag h s) := by
  unfold wrAck
  try dsimp only
  repeat' (first
    | with_reducible assumption | with_reducible apply Keeps.ite | with_reducible apply Keeps.fold | with_reducible apply State.updGlk_keeps
    | with_reducible apply State.glkFree_keeps | with_reducible apply State.flushIrqs_keeps | with_reducible apply State.mergesGo_keeps
    | with_reducible apply State.landsGo_keeps | with_reducible apply State.collsGo_keeps | with_reducible apply State.glkIn_keeps
    | with_reducible apply State.glkSettle_keeps | with_reducible apply State.resyncGoes_keeps | (intro _; intros; try dsimp only) | split
    | with_reducible apply Keeps.other)

theorem State.logGlk_keeps {base : State} {s : State} {o : Outst} {kind reason : Nat} (hbase : Keeps base s) : Keeps base (State.logGlk s o kind reason) := by
  unfold State.logGlk
  try dsimp only
  repeat' (first
    | with_reducible assumption | with_reducible apply Keeps.ite | with_reducible apply Keeps.fold | with_reducible apply State.fsets_keeps
    | (intro _; intros; try dsimp only) | split | with_reducible apply Keeps.other)

theorem State.raiseGlk_keeps {base : State} {s : State} {p : Nat} {owner : Owner} {c : Code} {w : Cause} (hbase : Keeps base s) : Keeps base (State.raiseGlk s p owner c w) := by
  unfold State.raiseGlk
  try dsimp only
  repeat' (first
    | with_reducible assumption | with_reducible apply Keeps.ite | with_reducible apply Keeps.fold | with_reducible apply State.record_keeps
    | with_reducible apply State.raise_keeps | with_reducible apply State.descFault_keeps | with_reducible apply State.setCoreQ_keeps
    | with_reducible apply State.rejectEntry_keeps | with_reducible apply State.rejectLaunch_keeps | (intro _; intros; try dsimp only) | split
    | with_reducible apply Keeps.other)

theorem State.glkFail_keeps {base : State} {s : State} {o : Outst} {c : Code} {kind reason : Nat} (hbase : Keeps base s) : Keeps base (State.glkFail s o c kind reason) := by
  unfold State.glkFail
  try dsimp only
  repeat' (first
    | with_reducible assumption | with_reducible apply Keeps.ite | with_reducible apply Keeps.fold | with_reducible apply State.updGlk_keeps
    | with_reducible apply State.flushIrqs_keeps | with_reducible apply State.record_keeps | with_reducible apply State.endAccess_keeps
    | with_reducible apply State.glkSettle_keeps | with_reducible apply State.logGlk_keeps | with_reducible apply State.raiseGlk_keeps
    | (intro _; intros; try dsimp only) | split | with_reducible apply Keeps.other)

theorem glkErr_keeps {base : State} {tag reason : Nat} {h : GlkHead} {s : State} (hbase : Keeps base s) : Keeps base (glkErr tag reason h s) := by
  unfold glkErr
  try dsimp only
  repeat' (first
    | with_reducible assumption | with_reducible apply Keeps.ite | with_reducible apply Keeps.fold | with_reducible apply State.glkFree_keeps
    | with_reducible apply State.glkIn_keeps | with_reducible apply State.glkFail_keeps | (intro _; intros; try dsimp only) | split
    | with_reducible apply Keeps.other)

theorem glkTimeout_keeps {base : State} {tag : Nat} {s : State} (hbase : Keeps base s) : Keeps base (glkTimeout tag s) := by
  unfold glkTimeout
  try dsimp only
  repeat' (first
    | with_reducible assumption | with_reducible apply Keeps.ite | with_reducible apply Keeps.fold | with_reducible apply State.glkFail_keeps
    | (intro _; intros; try dsimp only) | split | with_reducible apply Keeps.other)

theorem State.takeDoorbell_keeps {base : State} {s : State} {n value : Nat} (hbase : Keeps base s) : Keeps base (State.takeDoorbell s n value) := by
  unfold State.takeDoorbell
  try dsimp only
  repeat' (first
    | with_reducible assumption | with_reducible apply Keeps.ite | with_reducible apply Keeps.fold | with_reducible apply State.glkFree_keeps
    | with_reducible apply doorbell_keeps | (intro _; intros; try dsimp only) | split | with_reducible apply Keeps.other)

theorem dbell_keeps {base : State} {n : Fin 256} {value : Nat} {h : GlkHead} {s : State} (hbase : Keeps base s) : Keeps base (dbell n value h s) := by
  unfold dbell
  try dsimp only
  repeat' (first
    | with_reducible assumption | with_reducible apply Keeps.ite | with_reducible apply Keeps.fold | with_reducible apply State.glkIn_keeps
    | with_reducible apply State.keepLate_keeps | with_reducible apply State.takeDoorbell_keeps | (intro _; intros; try dsimp only) | split
    | with_reducible apply Keeps.other)

end Sys2Proof.Machine
end

