-- ==== Sys2Proof/Laws/KeepsBoot.lean ====
section
/-! SUPPORT. What the operations of Sys2Proof/Machine/Boot.lean keep (Laws/Keeps.lean). -/
namespace Sys2Proof.Machine

set_option linter.unusedTactic false
set_option linter.unreachableTactic false

theorem reset_keeps {base : State} {warm : Bool} {s : State} (hbase : Keeps base s) : Keeps base (reset warm s) := by
  unfold reset
  exact Keeps.ite ⟨hbase.pending, hbase.mem, fun _ => rfl, fun _ _ => ⟨Nat.zero_le _, Nat.zero_le _⟩, hbase.free, hbase.out⟩ fun k => State.fsets_keeps k

theorem State.bootCompanion_keeps {base : State} {s : State} (hbase : Keeps base s) : Keeps base (State.bootCompanion s) := by
  unfold State.bootCompanion
  try dsimp only
  repeat' (first
    | with_reducible assumption | with_reducible apply Keeps.ite | with_reducible apply Keeps.fold | with_reducible apply State.fset_keeps
    | with_reducible apply State.glkTrain_keeps | (intro _; intros; try dsimp only) | split | with_reducible apply Keeps.other)

theorem startUp_keeps {base : State} {s : State} (hbase : Keeps base s) : Keeps base (startUp s) := by
  unfold startUp
  try dsimp only
  repeat' (first
    | with_reducible assumption | with_reducible apply Keeps.ite | with_reducible apply Keeps.fold | with_reducible apply State.bootCompanion_keeps
    | (intro _; intros; try dsimp only) | split | with_reducible apply Keeps.other)

theorem State.bootStop_keeps {base : State} {s : State} {reason : Nat} (hbase : Keeps base s) : Keeps base (State.bootStop s reason) := by
  unfold State.bootStop
  try dsimp only
  repeat' (first
    | with_reducible assumption | with_reducible apply Keeps.ite | with_reducible apply Keeps.fold | with_reducible apply State.fsets_keeps
    | (intro _; intros; try dsimp only) | split | with_reducible apply Keeps.other)

theorem State.stateStage_keeps {base : State} {s : State} {ok : Bool} (hbase : Keeps base s) : Keeps base (State.stateStage s ok) := by
  unfold State.stateStage
  try dsimp only
  repeat' (first
    | with_reducible assumption | with_reducible apply Keeps.ite | with_reducible apply Keeps.fold | with_reducible apply Keeps.each
    | with_reducible apply State.fset_keeps | with_reducible apply State.fsets_keeps | with_reducible apply State.bootStop_keeps
    | (intro _; intros; try dsimp only) | split | with_reducible apply Keeps.other)

theorem State.imageStage_keeps {base : State} {s : State} {ok : Bool} (hbase : Keeps base s) : Keeps base (State.imageStage s ok) := by
  unfold State.imageStage
  try dsimp only
  repeat' (first
    | with_reducible assumption | with_reducible apply Keeps.ite | with_reducible apply Keeps.fold | with_reducible apply State.fset_keeps
    | with_reducible apply State.fsets_keeps | with_reducible apply State.raiseSvn_keeps | with_reducible apply State.refused_keeps
    | with_reducible apply State.bootCompanion_keeps | (intro _; intros; try dsimp only) | split | with_reducible apply Keeps.other)

theorem State.partStage_keeps {base : State} {s : State} {x : StageEnd} (hbase : Keeps base s) : Keeps base (State.partStage s x) := by
  unfold State.partStage
  try dsimp only
  repeat' (first
    | with_reducible assumption | with_reducible apply Keeps.ite | with_reducible apply Keeps.fold | with_reducible apply State.fset_keeps
    | with_reducible apply State.fsets_keeps | with_reducible apply State.raiseSvn_keeps | with_reducible apply State.refused_keeps
    | with_reducible apply State.takePart_keeps | with_reducible apply State.bootStop_keeps | (intro _; intros; try dsimp only) | split
    | with_reducible apply Keeps.other)

theorem State.restoreEvr_keeps {base : State} {s : State} (hbase : Keeps base s) : Keeps base (State.restoreEvr s) := by
  unfold State.restoreEvr
  try dsimp only
  repeat' (first
    | with_reducible assumption | with_reducible apply Keeps.ite | with_reducible apply Keeps.fold | with_reducible apply State.fsets_keeps
    | (intro _; intros; try dsimp only) | split | with_reducible apply Keeps.other)

theorem State.reRecord_keeps {base : State} {s : State} {x : Rec} (hbase : Keeps base s) : Keeps base (State.reRecord s x) := by
  unfold State.reRecord
  try dsimp only
  repeat' (first
    | with_reducible assumption | with_reducible apply Keeps.ite | with_reducible apply Keeps.fold | with_reducible apply State.fadd_keeps
    | (intro _; intros; try dsimp only) | split | with_reducible apply Keeps.other)

theorem State.bootBundle_keeps {base : State} {s : State} {kak : Bundle} (hbase : Keeps base s) : Keeps base (State.bootBundle s kak) := by
  unfold State.bootBundle
  try dsimp only
  repeat' (first
    | with_reducible assumption | with_reducible apply Keeps.ite | with_reducible apply Keeps.fold | with_reducible apply State.tick_keeps
    | with_reducible apply State.raiseSvn_keeps | with_reducible apply State.refused_keeps | (intro _; intros; try dsimp only) | split
    | with_reducible apply Keeps.other)

theorem State.bootEngines_keeps {base : State} {s : State} (hbase : Keeps base s) : Keeps base (State.bootEngines s) := by
  unfold State.bootEngines
  try dsimp only
  repeat' (first
    | with_reducible assumption | with_reducible apply Keeps.ite | with_reducible apply Keeps.fold | with_reducible apply State.fsets_keeps
    | with_reducible apply State.raiseSvn_keeps | with_reducible apply State.refused_keeps | (intro _; intros; try dsimp only) | split
    | with_reducible apply Keeps.other)

theorem State.firmwareStage_keeps {base : State} {s : State} {x : StageEnd} (hbase : Keeps base s) : Keeps base (State.firmwareStage s x) := by
  unfold State.firmwareStage
  try dsimp only
  repeat' (first
    | with_reducible assumption | with_reducible apply Keeps.ite | with_reducible apply Keeps.fold | with_reducible apply Keeps.each
    | with_reducible apply State.fset_keeps | with_reducible apply State.fsets_keeps | with_reducible apply State.noteHub_keeps
    | with_reducible apply State.refused_keeps | with_reducible apply State.restoreEvr_keeps | with_reducible apply State.reRecord_keeps
    | with_reducible apply State.bootBundle_keeps | with_reducible apply State.bootEngines_keeps | (intro _; intros; try dsimp only) | split
    | with_reducible apply Keeps.other)

theorem bootStageEnd_keeps {base : State} {x : StageEnd} {s : State} (hbase : Keeps base s) : Keeps base (bootStageEnd x s) := by
  unfold bootStageEnd
  try dsimp only
  repeat' (first
    | with_reducible assumption | with_reducible apply Keeps.ite | with_reducible apply Keeps.fold | with_reducible apply State.fset_keeps
    | with_reducible apply State.tick_keeps | with_reducible apply State.deviceFatal_keeps | with_reducible apply State.drawChal_keeps
    | with_reducible apply State.bootStop_keeps | with_reducible apply State.stateStage_keeps | with_reducible apply State.imageStage_keeps
    | with_reducible apply State.partStage_keeps | with_reducible apply State.firmwareStage_keeps | (intro _; intros; try dsimp only) | split
    | with_reducible apply Keeps.other)

theorem State.loadRegion_keeps {base : State} {s : State} {r : Nat} (hbase : Keeps base s) : Keeps base (State.loadRegion s r) := by
  unfold State.loadRegion
  try dsimp only
  repeat' (first
    | with_reducible assumption | with_reducible apply Keeps.ite | with_reducible apply Keeps.fold | with_reducible apply State.fsets_keeps
    | with_reducible apply State.suspect_keeps | (intro _; intros; try dsimp only) | split | with_reducible apply Keeps.other)

theorem State.clocksPhase_keeps {base : State} {s : State} (hbase : Keeps base s) : Keeps base (State.clocksPhase s) := by
  unfold State.clocksPhase
  try dsimp only
  repeat' (first
    | with_reducible assumption | with_reducible apply Keeps.ite | with_reducible apply Keeps.fold | with_reducible apply Keeps.each
    | with_reducible apply State.setRail_keeps | with_reducible apply State.loadRegion_keeps | (intro _; intros; try dsimp only) | split
    | with_reducible apply Keeps.other)

theorem State.d2dPhase_keeps {base : State} {s : State} {x : PhaseEnd} (hbase : Keeps base s) : Keeps base (State.d2dPhase s x) := by
  unfold State.d2dPhase
  try dsimp only
  repeat' (first
    | with_reducible assumption | with_reducible apply Keeps.ite | with_reducible apply Keeps.fold | with_reducible apply Keeps.each
    | with_reducible apply State.fset_keeps | with_reducible apply State.persist_keeps | (intro _; intros; try dsimp only) | split
    | with_reducible apply Keeps.other)

theorem State.fitPhase_keeps {base : State} {s : State} {x : PhaseEnd} (hbase : Keeps base s) : Keeps base (State.fitPhase s x) := by
  unfold State.fitPhase
  try dsimp only
  repeat' (first
    | with_reducible assumption | with_reducible apply Keeps.ite | with_reducible apply Keeps.fold | with_reducible apply Keeps.each
    | with_reducible apply State.fsets_keeps | with_reducible apply State.persist_keeps | (intro _; intros; try dsimp only) | split
    | with_reducible apply Keeps.other)

theorem State.hbmPhase_keeps {base : State} {s : State} {x : PhaseEnd} (hbase : Keeps base s) : Keeps base (State.hbmPhase s x) := by
  unfold State.hbmPhase
  try dsimp only
  repeat' (first
    | with_reducible assumption | with_reducible apply Keeps.ite | with_reducible apply Keeps.fold | with_reducible apply Keeps.each
    | with_reducible apply State.fsetBit_keeps | with_reducible apply State.setDie_keeps | with_reducible apply State.record_keeps
    | with_reducible apply State.goodOver_keeps | (intro _; intros; try dsimp only) | split | with_reducible apply Keeps.other
    | with_reducible apply Keeps.bytes | with_reducible apply Keeps.zero | with_reducible apply Keeps.byte)

theorem State.regionsPhase_keeps {base : State} {s : State} (hbase : Keeps base s) : Keeps base (State.regionsPhase s) := by
  unfold State.regionsPhase
  try dsimp only
  repeat' (first
    | with_reducible assumption | with_reducible apply Keeps.ite | with_reducible apply Keeps.fold | with_reducible apply Keeps.each
    | with_reducible apply State.fset_keeps | (intro _; intros; try dsimp only) | split | with_reducible apply Keeps.other
    | with_reducible apply Keeps.bytes | with_reducible apply Keeps.zero | with_reducible apply Keeps.byte)

theorem State.startRegion_keeps {base : State} {s : State} {r : Nat} (hbase : Keeps base s) : Keeps base (State.startRegion s r) := by
  unfold State.startRegion
  try dsimp only
  repeat' (first
    | with_reducible assumption | with_reducible apply Keeps.ite | with_reducible apply Keeps.fold | with_reducible apply Keeps.each
    | with_reducible apply State.fset_keeps | with_reducible apply State.fsets_keeps | with_reducible apply State.setDie_keeps
    | with_reducible apply State.runSuite_keeps | with_reducible apply State.loadRegion_keeps | (intro _; intros; try dsimp only) | split
    | with_reducible apply Keeps.other | with_reducible apply Keeps.send)

theorem State.carouselPhase_keeps {base : State} {s : State} (hbase : Keeps base s) : Keeps base (State.carouselPhase s) := by
  unfold State.carouselPhase
  try dsimp only
  repeat' (first
    | with_reducible assumption | with_reducible apply Keeps.ite | with_reducible apply Keeps.fold | with_reducible apply Keeps.each
    | with_reducible apply State.record_keeps | with_reducible apply State.startRegion_keeps | (intro _; intros; try dsimp only) | split
    | with_reducible apply Keeps.other)

theorem State.ready_keeps {base : State} {s : State} (hbase : Keeps base s) : Keeps base (State.ready s) := by
  unfold State.ready
  try dsimp only
  repeat' (first
    | with_reducible assumption | with_reducible apply Keeps.ite | with_reducible apply Keeps.fold | with_reducible apply Keeps.each
    | with_reducible apply State.fset_keeps | (intro _; intros; try dsimp only) | split | with_reducible apply Keeps.other)

theorem State.toPhase_keeps {base : State} {s : State} {n : Nat} (hbase : Keeps base s) : Keeps base (State.toPhase s n) := by
  unfold State.toPhase
  try dsimp only
  repeat' (first
    | with_reducible assumption | with_reducible apply Keeps.ite | with_reducible apply Keeps.fold | with_reducible apply State.fset_keeps
    | (intro _; intros; try dsimp only) | split | with_reducible apply Keeps.other)

theorem phaseEnd_keeps {base : State} {x : PhaseEnd} {s : State} (hbase : Keeps base s) : Keeps base (phaseEnd x s) := by
  unfold phaseEnd
  try dsimp only
  repeat' (first
    | with_reducible assumption | with_reducible apply Keeps.ite | with_reducible apply Keeps.fold | with_reducible apply State.fset_keeps
    | with_reducible apply State.glkTrain_keeps | with_reducible apply State.clocksPhase_keeps | with_reducible apply State.d2dPhase_keeps
    | with_reducible apply State.fitPhase_keeps | with_reducible apply State.hbmPhase_keeps | with_reducible apply State.regionsPhase_keeps
    | with_reducible apply State.carouselPhase_keeps | with_reducible apply State.ready_keeps | with_reducible apply State.toPhase_keeps
    | (intro _; intros; try dsimp only) | split | with_reducible apply Keeps.other)

end Sys2Proof.Machine
end

