-- ==== Sys2Proof/Laws/KeepsRv.lean ====
section
/-! SUPPORT. What the operations of Sys2Proof/Machine/Rv.lean keep (Laws/Keeps.lean). -/
namespace Sys2Proof.Machine

set_option linter.unusedTactic false
set_option linter.unreachableTactic false

/-- What an instruction does keeps. -/
def RvOut.Keeps (a : State) : RvOut → Prop
  | .next s => Machine.Keeps a s
  | .nextTrap s _ _ => Machine.Keeps a s
  | .trap _ => True
  | .other => True

theorem RvOut.keeps_next {a s : State} (h : Machine.Keeps a s) : RvOut.Keeps a (.next s) := h
theorem RvOut.keeps_nextTrap {a s : State} {c t : Nat} (h : Machine.Keeps a s) : RvOut.Keeps a (.nextTrap s c t) := h
theorem RvOut.keeps_trap {a : State} {c : Nat} : RvOut.Keeps a (.trap c) := trivial
theorem RvOut.keeps_other {a : State} : RvOut.Keeps a .other := trivial
theorem RvOut.of_next {a s : State} {x : RvOut} (h : RvOut.Keeps a x) (e : x = .next s) : Machine.Keeps a s := by subst e; exact h
theorem RvOut.of_nextTrap {a s : State} {x : RvOut} {c t : Nat} (h : RvOut.Keeps a x) (e : x = .nextTrap s c t) : Machine.Keeps a s := by subst e; exact h

theorem State.goTo_keeps {base : State} {s : State} {r k rd : Nat} {v : Word} {target : Nat} (hbase : Keeps base s) : RvOut.Keeps base (State.goTo s r k rd v target) := by
  unfold State.goTo
  try dsimp only
  repeat' (first
    | with_reducible assumption | with_reducible apply Keeps.ite | with_reducible apply Keeps.fold | with_reducible apply State.retire_keeps
    | with_reducible apply RvOut.keeps_next | with_reducible apply RvOut.keeps_nextTrap | with_reducible apply RvOut.keeps_trap
    | with_reducible apply RvOut.keeps_other | (intro _; intros; try dsimp only) | split | with_reducible apply Keeps.other)

theorem State.dmemStore_keeps {base : State} {s : State} {r k a n v : Nat} (hbase : Keeps base s) : Keeps base (State.dmemStore s r k a n v) :=
  State.endReservations_keeps (hbase.store _ fun x => Memory.writeBytes_wf x ..)

theorem rvLoad_keeps {base : State} {s : State} {r k w pc len : Nat} (hbase : Keeps base s) : RvOut.Keeps base (rvLoad s r k w pc len) := by
  unfold rvLoad
  try dsimp only
  repeat' (first
    | with_reducible assumption | with_reducible apply Keeps.ite | with_reducible apply Keeps.fold | with_reducible apply State.goTo_keeps
    | with_reducible apply RvOut.keeps_next | with_reducible apply RvOut.keeps_nextTrap | with_reducible apply RvOut.keeps_trap
    | with_reducible apply RvOut.keeps_other | refine RvOut.of_next ?_ (by with_reducible assumption)
    | refine RvOut.of_nextTrap ?_ (by with_reducible assumption) | (intro _; intros; try dsimp only) | split | with_reducible apply Keeps.other)

theorem rvStore_keeps {base : State} {s : State} {r k w pc len : Nat} (hbase : Keeps base s) : RvOut.Keeps base (rvStore s r k w pc len) := by
  unfold rvStore
  try dsimp only
  repeat' (first
    | with_reducible assumption | with_reducible apply Keeps.ite | with_reducible apply Keeps.fold | with_reducible apply State.goTo_keeps
    | with_reducible apply State.dmemStore_keeps | with_reducible apply RvOut.keeps_next | with_reducible apply RvOut.keeps_nextTrap
    | with_reducible apply RvOut.keeps_trap | with_reducible apply RvOut.keeps_other | refine RvOut.of_next ?_ (by with_reducible assumption)
    | refine RvOut.of_nextTrap ?_ (by with_reducible assumption) | (intro _; intros; try dsimp only) | split | with_reducible apply Keeps.other)

theorem rvAtomic_keeps {base : State} {s : State} {r k w pc len : Nat} (hbase : Keeps base s) : RvOut.Keeps base (rvAtomic s r k w pc len) := by
  unfold rvAtomic
  try dsimp only
  repeat' (first
    | with_reducible assumption | with_reducible apply Keeps.ite | with_reducible apply Keeps.fold | with_reducible apply State.updSlot_keeps
    | with_reducible apply State.goTo_keeps | with_reducible apply State.dmemStore_keeps | with_reducible apply RvOut.keeps_next
    | with_reducible apply RvOut.keeps_nextTrap | with_reducible apply RvOut.keeps_trap | with_reducible apply RvOut.keeps_other
    | refine RvOut.of_next ?_ (by with_reducible assumption) | refine RvOut.of_nextTrap ?_ (by with_reducible assumption)
    | (intro _; intros; try dsimp only) | split | with_reducible apply Keeps.other)

theorem rvOpImm_keeps {base : State} {s : State} {r k w pc len : Nat} (hbase : Keeps base s) : RvOut.Keeps base (rvOpImm s r k w pc len) := by
  unfold rvOpImm
  try dsimp only
  repeat' (first
    | with_reducible assumption | with_reducible apply Keeps.ite | with_reducible apply Keeps.fold | with_reducible apply State.goTo_keeps
    | with_reducible apply RvOut.keeps_next | with_reducible apply RvOut.keeps_nextTrap | with_reducible apply RvOut.keeps_trap
    | with_reducible apply RvOut.keeps_other | refine RvOut.of_next ?_ (by with_reducible assumption)
    | refine RvOut.of_nextTrap ?_ (by with_reducible assumption) | (intro _; intros; try dsimp only) | split | with_reducible apply Keeps.other)

theorem rvOpImm32_keeps {base : State} {s : State} {r k w pc len : Nat} (hbase : Keeps base s) : RvOut.Keeps base (rvOpImm32 s r k w pc len) := by
  unfold rvOpImm32
  try dsimp only
  repeat' (first
    | with_reducible assumption | with_reducible apply Keeps.ite | with_reducible apply Keeps.fold | with_reducible apply State.goTo_keeps
    | with_reducible apply RvOut.keeps_next | with_reducible apply RvOut.keeps_nextTrap | with_reducible apply RvOut.keeps_trap
    | with_reducible apply RvOut.keeps_other | refine RvOut.of_next ?_ (by with_reducible assumption)
    | refine RvOut.of_nextTrap ?_ (by with_reducible assumption) | (intro _; intros; try dsimp only) | split | with_reducible apply Keeps.other)

theorem rvOp_keeps {base : State} {s : State} {r k w pc len : Nat} {half : Bool} (hbase : Keeps base s) : RvOut.Keeps base (rvOp s r k w pc len half) := by
  unfold rvOp
  try dsimp only
  repeat' (first
    | with_reducible assumption | with_reducible apply Keeps.ite | with_reducible apply Keeps.fold | with_reducible apply State.goTo_keeps
    | with_reducible apply RvOut.keeps_next | with_reducible apply RvOut.keeps_nextTrap | with_reducible apply RvOut.keeps_trap
    | with_reducible apply RvOut.keeps_other | refine RvOut.of_next ?_ (by with_reducible assumption)
    | refine RvOut.of_nextTrap ?_ (by with_reducible assumption) | (intro _; intros; try dsimp only) | split | with_reducible apply Keeps.other)

theorem rvBr_keeps {base : State} {s : State} {r k w pc len : Nat} (hbase : Keeps base s) : RvOut.Keeps base (rvBr s r k w pc len) := by
  unfold rvBr
  try dsimp only
  repeat' (first
    | with_reducible assumption | with_reducible apply Keeps.ite | with_reducible apply Keeps.fold | with_reducible apply State.goTo_keeps
    | with_reducible apply RvOut.keeps_next | with_reducible apply RvOut.keeps_nextTrap | with_reducible apply RvOut.keeps_trap
    | with_reducible apply RvOut.keeps_other | refine RvOut.of_next ?_ (by with_reducible assumption)
    | refine RvOut.of_nextTrap ?_ (by with_reducible assumption) | (intro _; intros; try dsimp only) | split | with_reducible apply Keeps.other)

theorem rvSystem_keeps {base : State} {s : State} {r k w pc len : Nat} (hbase : Keeps base s) : RvOut.Keeps base (rvSystem s r k w pc len) := by
  unfold rvSystem
  try dsimp only
  repeat' (first
    | with_reducible assumption | with_reducible apply Keeps.ite | with_reducible apply Keeps.fold | with_reducible apply State.tick_keeps
    | with_reducible apply State.goTo_keeps | with_reducible apply RvOut.keeps_next | with_reducible apply RvOut.keeps_nextTrap
    | with_reducible apply RvOut.keeps_trap | with_reducible apply RvOut.keeps_other | refine RvOut.of_next ?_ (by with_reducible assumption)
    | refine RvOut.of_nextTrap ?_ (by with_reducible assumption) | (intro _; intros; try dsimp only) | split | with_reducible apply Keeps.other)

theorem rvExec_keeps {base : State} {s : State} {r k w pc len : Nat} (hbase : Keeps base s) : RvOut.Keeps base (rvExec s r k w pc len) := by
  unfold rvExec
  try dsimp only
  repeat' (first
    | with_reducible assumption | with_reducible apply Keeps.ite | with_reducible apply Keeps.fold | with_reducible apply State.goTo_keeps
    | with_reducible apply rvLoad_keeps | with_reducible apply rvStore_keeps | with_reducible apply rvAtomic_keeps
    | with_reducible apply rvOpImm_keeps | with_reducible apply rvOpImm32_keeps | with_reducible apply rvOp_keeps | with_reducible apply rvBr_keeps
    | with_reducible apply rvSystem_keeps | with_reducible apply RvOut.keeps_next | with_reducible apply RvOut.keeps_nextTrap
    | with_reducible apply RvOut.keeps_trap | with_reducible apply RvOut.keeps_other | refine RvOut.of_next ?_ (by with_reducible assumption)
    | refine RvOut.of_nextTrap ?_ (by with_reducible assumption) | (intro _; intros; try dsimp only) | split | with_reducible apply Keeps.other)

theorem State.ccStep_keeps {base : State} {s : State} {r k : Nat} (hbase : Keeps base s) : RvOut.Keeps base (State.ccStep s r k) := by
  unfold State.ccStep
  try dsimp only
  repeat' (first
    | with_reducible assumption | with_reducible apply Keeps.ite | with_reducible apply Keeps.fold | with_reducible apply rvExec_keeps
    | with_reducible apply RvOut.keeps_next | with_reducible apply RvOut.keeps_nextTrap | with_reducible apply RvOut.keeps_trap
    | with_reducible apply RvOut.keeps_other | refine RvOut.of_next ?_ (by with_reducible assumption)
    | refine RvOut.of_nextTrap ?_ (by with_reducible assumption) | (intro _; intros; try dsimp only) | split | with_reducible apply Keeps.other)

theorem baseInstruction_keeps {base : State} {r k : Nat} {s : State} (hbase : Keeps base s) : Keeps base (baseInstruction r k s) := by
  unfold baseInstruction
  try dsimp only
  repeat' (first
    | with_reducible assumption | with_reducible apply Keeps.ite | with_reducible apply Keeps.fold | with_reducible apply State.ccTrap_keeps
    | with_reducible apply State.ccStep_keeps | with_reducible apply RvOut.keeps_next | with_reducible apply RvOut.keeps_nextTrap
    | with_reducible apply RvOut.keeps_trap | with_reducible apply RvOut.keeps_other | refine RvOut.of_next ?_ (by with_reducible assumption)
    | refine RvOut.of_nextTrap ?_ (by with_reducible assumption) | (intro _; intros; try dsimp only) | split | with_reducible apply Keeps.other)

theorem ecall_keeps {base : State} {r k : Nat} {s : State} (hbase : Keeps base s) : Keeps base (ecall r k s) := by
  unfold ecall
  try dsimp only
  repeat' (first
    | with_reducible assumption | with_reducible apply Keeps.ite | with_reducible apply Keeps.fold | with_reducible apply State.fsets_keeps
    | with_reducible apply State.retire_keeps | (intro _; intros; try dsimp only) | split | with_reducible apply Keeps.other)

end Sys2Proof.Machine
end

