-- ==== Sys2Proof/Laws/KeepsCcMail.lean ====
section
/-! SUPPORT. What the operations of Sys2Proof/Machine/CcMail.lean keep (Laws/Keeps.lean). -/
namespace Sys2Proof.Machine

set_option linter.unusedTactic false
set_option linter.unreachableTactic false

theorem State.csrDone_keeps {base : State} {s : State} {r k w : Nat} {v : Word} (hbase : Keeps base s) : Keeps base (State.csrDone s r k w v) := by
  unfold State.csrDone
  try dsimp only
  repeat' (first
    | with_reducible assumption | with_reducible apply Keeps.ite | with_reducible apply Keeps.fold | with_reducible apply State.retireNext_keeps
    | (intro _; intros; try dsimp only) | split | with_reducible apply Keeps.other)

theorem mbxtx_keeps {base : State} {r k : Nat} {s : State} (hbase : Keeps base s) : Keeps base (mbxtx r k s) := by
  unfold mbxtx
  try dsimp only
  repeat' (first
    | with_reducible assumption | with_reducible apply Keeps.ite | with_reducible apply Keeps.fold | with_reducible apply State.mboxSend_keeps
    | with_reducible apply State.csrDone_keeps | (intro _; intros; try dsimp only) | split | with_reducible apply Keeps.other)

theorem mbxrx_keeps {base : State} {r k : Nat} {s : State} (hbase : Keeps base s) : Keeps base (mbxrx r k s) := by
  unfold mbxrx
  try dsimp only
  repeat' (first
    | with_reducible assumption | with_reducible apply Keeps.ite | with_reducible apply Keeps.fold | with_reducible apply State.mboxRemove_keeps
    | with_reducible apply State.csrDone_keeps | (intro _; intros; try dsimp only) | split | with_reducible apply Keeps.other)

theorem mbxstRead_keeps {base : State} {r k : Nat} {s : State} (hbase : Keeps base s) : Keeps base (mbxstRead r k s) := by
  unfold mbxstRead
  try dsimp only
  repeat' (first
    | with_reducible assumption | with_reducible apply Keeps.ite | with_reducible apply Keeps.fold | with_reducible apply State.csrDone_keeps
    | (intro _; intros; try dsimp only) | split | with_reducible apply Keeps.other)

theorem mbxstClear_keeps {base : State} {r k : Nat} {s : State} (hbase : Keeps base s) : Keeps base (mbxstClear r k s) := by
  unfold mbxstClear
  dsimp only
  split
  · exact hbase
  · exact Keeps.ite hbase fun k => State.csrDone_keeps (State.updChan_keeps k fun h => h)

end Sys2Proof.Machine
end

