-- ==== Sys2Proof/Laws/KeepsResync.lean ====
section
/-! SUPPORT. What the operations of Sys2Proof/Machine/Resync.lean keep (Laws/Keeps.lean). -/
namespace Sys2Proof.Machine

set_option linter.unusedTactic false
set_option linter.unreachableTactic false

theorem State.discard_keeps {base : State} {s : State} {a value : Nat} (hbase : Keeps base s) : Keeps base (State.discard s a value) := by
  unfold State.discard
  try dsimp only
  repeat' (first
    | with_reducible assumption | with_reducible apply Keeps.ite | with_reducible apply Keeps.fold | with_reducible apply State.noteDiscard_keeps
    | (intro _; intros; try dsimp only) | split | with_reducible apply Keeps.other)

theorem hubResync_keeps {base : State} {dest : Nat} {s : State} (hbase : Keeps base s) : Keeps base (hubResync dest s) := by
  unfold hubResync
  try dsimp only
  repeat' (first
    | with_reducible assumption | with_reducible apply Keeps.ite | with_reducible apply Keeps.fold | with_reducible apply State.fadd_keeps
    | with_reducible apply State.discard_keeps | (intro _; intros; try dsimp only) | split | with_reducible apply Keeps.other)

theorem resyncSample_keeps {base : State} {s : State} (hbase : Keeps base s) : Keeps base (resyncSample s) := by
  unfold resyncSample
  try dsimp only
  repeat' (first
    | with_reducible assumption | with_reducible apply Keeps.ite | with_reducible apply Keeps.fold | with_reducible apply State.store_keeps
    | (intro _; intros; try dsimp only) | split | with_reducible apply Keeps.other)

end Sys2Proof.Machine
end

