-- ==== Sys2Proof/Laws/KeepsRegAccess.lean ====
section
/-! SUPPORT. What the operations of Sys2Proof/Machine/RegAccess.lean keep (Laws/Keeps.lean). -/
namespace Sys2Proof.Machine

set_option linter.unusedTactic false
set_option linter.unreachableTactic false

theorem State.regFailed_keeps {base : State} {s : State} {a : Nat} {e : Nat × Bool} (hbase : Keeps base s) : Keeps base (State.regFailed s a e) := by
  unfold State.regFailed
  try dsimp only
  repeat' (first
    | with_reducible assumption | with_reducible apply Keeps.ite | with_reducible apply Keeps.fold | with_reducible apply State.noteAccess_keeps
    | (intro _; intros; try dsimp only) | split | with_reducible apply Keeps.other)

theorem State.writeField_keeps {base : State} {s : State} {w : RegWrite} {f : Fld} (hbase : Keeps base s) : Keeps base (State.writeField s w f) := by
  unfold State.writeField
  try dsimp only
  repeat' (first
    | with_reducible assumption | with_reducible apply Keeps.ite | with_reducible apply Keeps.fold | with_reducible apply State.fset_keeps
    | with_reducible apply State.stage_keeps | (intro _; intros; try dsimp only) | split | with_reducible apply Keeps.other)

theorem State.writeFields_keeps {base : State} {s : State} {w : RegWrite} (hbase : Keeps base s) : Keeps base (State.writeFields s w) := by
  unfold State.writeFields
  try dsimp only
  repeat' (first
    | with_reducible assumption | with_reducible apply Keeps.ite | with_reducible apply Keeps.fold | with_reducible apply Keeps.each
    | with_reducible apply State.writeField_keeps | (intro _; intros; try dsimp only) | split | with_reducible apply Keeps.other)

theorem State.writeRing_keeps {base : State} {s : State} {w : RegWrite} {n : Nat} (hbase : Keeps base s) : Keeps base (State.writeRing s w n) := by
  unfold State.writeRing
  try dsimp only
  repeat' (first
    | with_reducible assumption | with_reducible apply Keeps.ite | with_reducible apply Keeps.fold | with_reducible apply State.stage_keeps
    | with_reducible apply State.applyEnable_keeps | with_reducible apply State.writeField_keeps | with_reducible apply State.writeFields_keeps
    | (intro _; intros; try dsimp only) | split | with_reducible apply Keeps.other)

theorem State.writeHub_keeps {base : State} {s : State} {w : RegWrite} (hbase : Keeps base s) : Keeps base (State.writeHub s w) := by
  unfold State.writeHub
  try dsimp only
  repeat' (first
    | with_reducible assumption | with_reducible apply Keeps.ite | with_reducible apply Keeps.fold | with_reducible apply sealCandidate_keeps
    | with_reducible apply start_keeps | with_reducible apply clear_keeps | with_reducible apply State.ctxBegin_keeps
    | with_reducible apply hubResync_keeps | with_reducible apply State.writeFields_keeps | with_reducible apply State.writeRing_keeps
    | (intro _; intros; try dsimp only) | split | with_reducible apply Keeps.other)

theorem State.writeGlkCtrl_keeps {base : State} {s : State} {w : RegWrite} (hbase : Keeps base s) : Keeps base (State.writeGlkCtrl s w) := by
  unfold State.writeGlkCtrl
  try dsimp only
  repeat' (first
    | with_reducible assumption | with_reducible apply Keeps.ite | with_reducible apply Keeps.fold | with_reducible apply State.updGlk_keeps
    | with_reducible apply glkRetrainNow_keeps | with_reducible apply State.writeFields_keeps | (intro _; intros; try dsimp only) | split
    | with_reducible apply Keeps.other)

theorem State.writeSec_keeps {base : State} {s : State} {w : RegWrite} (hbase : Keeps base s) : Keeps base (State.writeSec s w) := by
  unfold State.writeSec
  try dsimp only
  repeat' (first
    | with_reducible assumption | with_reducible apply Keeps.ite | with_reducible apply Keeps.fold | with_reducible apply objectPresent_keeps
    | with_reducible apply attestationReport_keeps | with_reducible apply certificates_keeps | with_reducible apply State.writeFields_keeps
    | (intro _; intros; try dsimp only) | split | with_reducible apply Keeps.other)

theorem State.writeJib_keeps {base : State} {s : State} {w : RegWrite} (hbase : Keeps base s) : Keeps base (State.writeJib s w) := by
  unfold State.writeJib
  try dsimp only
  repeat' (first
    | with_reducible assumption | with_reducible apply Keeps.ite | with_reducible apply Keeps.fold | with_reducible apply tokenPresent_keeps
    | with_reducible apply lock_keeps | with_reducible apply injectionArm_keeps | with_reducible apply State.writeFields_keeps
    | (intro _; intros; try dsimp only) | split | with_reducible apply Keeps.other)

theorem State.writeMbx_keeps {base : State} {s : State} {w : RegWrite} {c : Nat} (hbase : Keeps base s) : Keeps base (State.writeMbx s w c) := by
  unfold State.writeMbx
  try dsimp only
  repeat' (first
    | with_reducible assumption | with_reducible apply Keeps.ite | with_reducible apply Keeps.fold | with_reducible apply mbxTx_keeps
    | with_reducible apply State.writeFields_keeps | (intro _; intros; try dsimp only) | split | with_reducible apply Keeps.other)

theorem State.writeDoorbell_keeps {base : State} {s : State} {w : RegWrite} {n : Nat} (hbase : Keeps base s) : Keeps base (State.writeDoorbell s w n) := by
  unfold State.writeDoorbell
  try dsimp only
  repeat' (first
    | with_reducible assumption | with_reducible apply Keeps.ite | with_reducible apply Keeps.fold | with_reducible apply doorbell_keeps
    | with_reducible apply completionHead_keeps | with_reducible apply State.writeFields_keeps | (intro _; intros; try dsimp only) | split
    | with_reducible apply Keeps.other)

theorem State.writeRegion_keeps {base : State} {s : State} {w : RegWrite} {r : Nat} (hbase : Keeps base s) : Keeps base (State.writeRegion s w r) := by
  unfold State.writeRegion
  try dsimp only
  repeat' (first
    | with_reducible assumption | with_reducible apply Keeps.ite | with_reducible apply Keeps.fold | with_reducible apply State.updRegion_keeps
    | with_reducible apply State.writeFields_keeps | (intro _; intros; try dsimp only) | split | with_reducible apply Keeps.other)

theorem State.writeFabric_keeps {base : State} {s : State} {w : RegWrite} (hbase : Keeps base s) : Keeps base (State.writeFabric s w) := by
  unfold State.writeFabric
  try dsimp only
  repeat' (first
    | with_reducible assumption | with_reducible apply Keeps.ite | with_reducible apply Keeps.fold | with_reducible apply Keeps.each
    | with_reducible apply State.fset_keeps | with_reducible apply State.writeFields_keeps | (intro _; intros; try dsimp only) | split
    | with_reducible apply Keeps.other)

theorem State.writeTaken_keeps {base : State} {s : State} {w : RegWrite} (hbase : Keeps base s) : Keeps base (State.writeTaken s w) := by
  unfold State.writeTaken
  try dsimp only
  repeat' (first
    | with_reducible assumption | with_reducible apply Keeps.ite | with_reducible apply Keeps.fold | with_reducible apply beatStop_keeps
    | with_reducible apply fabPortCfg_keeps | with_reducible apply evrClear_keeps | with_reducible apply State.writeFields_keeps
    | with_reducible apply State.writeHub_keeps | with_reducible apply State.writeGlkCtrl_keeps | with_reducible apply State.writeSec_keeps
    | with_reducible apply State.writeJib_keeps | with_reducible apply State.writeMbx_keeps | with_reducible apply State.writeDoorbell_keeps
    | with_reducible apply State.writeRegion_keeps | with_reducible apply State.writeFabric_keeps | (intro _; intros; try dsimp only) | split
    | with_reducible apply Keeps.other)

theorem State.logWritten_keeps {base : State} {s : State} {before : Nat} {w : RegWrite} (hbase : Keeps base s) : Keeps base (State.logWritten s before w) := by
  unfold State.logWritten
  try dsimp only
  repeat' (first
    | with_reducible assumption | with_reducible apply Keeps.ite | with_reducible apply Keeps.fold | (intro _; intros; try dsimp only) | split
    | with_reducible apply Keeps.other)

theorem State.regStore_keeps {base : State} {s : State} {w : RegWrite} (hbase : Keeps base s) : Keeps base (State.regStore s w) := by
  unfold State.regStore
  try dsimp only
  repeat' (first
    | with_reducible assumption | with_reducible apply Keeps.ite | with_reducible apply Keeps.fold | with_reducible apply State.noteDiscard_keeps
    | with_reducible apply State.writeTaken_keeps | with_reducible apply State.logWritten_keeps | (intro _; intros; try dsimp only) | split
    | with_reducible apply Keeps.other)

theorem State.regWrite_keeps {base : State} {s : State} {a size value : Nat} (hbase : Keeps base s) : Keeps base (State.regWrite s a size value).1 := by
  unfold State.regWrite
  try dsimp only
  repeat' (first
    | with_reducible assumption | with_reducible apply Keeps.ite | with_reducible apply Keeps.fold | with_reducible apply State.regFailed_keeps
    | with_reducible apply State.regStore_keeps | (intro _; intros; try dsimp only) | split | with_reducible apply Keeps.other)

end Sys2Proof.Machine
end

