-- ==== Sys2Proof/Laws/KeepsVendor.lean ====
section
/-! SUPPORT. What the operations of Sys2Proof/Machine/Vendor.lean keep (Laws/Keeps.lean). -/
namespace Sys2Proof.Machine

set_option linter.unusedTactic false
set_option linter.unreachableTactic false

theorem State.vendorDone_keeps {base : State} {s : State} {r k w : Nat} {v : Word} (hbase : Keeps base s) : Keeps base (State.vendorDone s r k w v) := by
  unfold State.vendorDone
  try dsimp only
  repeat' (first
    | with_reducible assumption | with_reducible apply Keeps.ite | with_reducible apply Keeps.fold | with_reducible apply State.retireNext_keeps
    | (intro _; intros; try dsimp only) | split | with_reducible apply Keeps.other)

theorem State.ccWait_keeps {base : State} {s : State} {r k code : Nat} (hbase : Keeps base s) : Keeps base (State.ccWait s r k code) := by
  unfold State.ccWait
  try dsimp only
  repeat' (first
    | with_reducible assumption | with_reducible apply Keeps.ite | with_reducible apply Keeps.fold | with_reducible apply State.fset_keeps
    | (intro _; intros; try dsimp only) | split | with_reducible apply Keeps.other)

theorem State.coreMisuse_keeps {base : State} {s : State} {r k j : Nat} (hbase : Keeps base s) : Keeps base (State.coreMisuse s r k j) := by
  unfold State.coreMisuse
  try dsimp only
  repeat' (first
    | with_reducible assumption | with_reducible apply Keeps.ite | with_reducible apply Keeps.fold | with_reducible apply State.raise_keeps
    | with_reducible apply jarMisuse_keeps | with_reducible apply Run.keeps_done | with_reducible apply Run.keeps_going
    | with_reducible apply Run.keeps_wait | with_reducible apply Run.keeps_fault | refine Run.of_done ?_ (by with_reducible assumption)
    | refine Run.of_going ?_ (by with_reducible assumption) | refine Run.of_wait ?_ (by with_reducible assumption)
    | refine Run.of_fault ?_ (by with_reducible assumption) | (intro _; intros; try dsimp only) | split | with_reducible apply Keeps.other)

theorem State.holdCore_keeps {base : State} {s : State} {r k w : Nat} (hbase : Keeps base s) : Keeps base (State.holdCore s r k w) := by
  unfold State.holdCore
  try dsimp only
  repeat' (first
    | with_reducible assumption | with_reducible apply Keeps.ite | with_reducible apply Keeps.fold | with_reducible apply State.holdOp_keeps
    | (intro _; intros; try dsimp only) | split | with_reducible apply Keeps.other)

theorem jdropAt_keeps {base : State} {r k w : Nat} {s : State} (hbase : Keeps base s) : Keeps base (jdropAt r k w s) := by
  unfold jdropAt
  try dsimp only
  repeat' (first
    | with_reducible assumption | with_reducible apply Keeps.ite | with_reducible apply Keeps.fold | with_reducible apply State.dropJar_keeps
    | with_reducible apply State.vendorDone_keeps | with_reducible apply State.coreMisuse_keeps | with_reducible apply JarOut.keeps_done
    | with_reducible apply JarOut.keeps_misuse | refine JarOut.of_done ?_ (by with_reducible assumption)
    | refine JarOut.of_misuse ?_ (by with_reducible assumption) | (intro _; intros; try dsimp only) | split | with_reducible apply Keeps.other)

theorem jdrop_keeps {base : State} {r k : Nat} {s : State} (hbase : Keeps base s) : Keeps base (jdrop r k s) := by
  unfold jdrop
  try dsimp only
  repeat' (first
    | with_reducible assumption | with_reducible apply Keeps.ite | with_reducible apply Keeps.fold | with_reducible apply State.holdCore_keeps
    | with_reducible apply jdropAt_keeps | (intro _; intros; try dsimp only) | split | with_reducible apply Keeps.other)

theorem jtake_keeps {base : State} {r k : Nat} {s : State} (hbase : Keeps base s) : Keeps base (jtake r k s) := by
  unfold jtake
  try dsimp only
  repeat' (first
    | with_reducible assumption | with_reducible apply Keeps.ite | with_reducible apply Keeps.fold | with_reducible apply State.takeJar_keeps
    | with_reducible apply State.vendorDone_keeps | with_reducible apply State.ccWait_keeps | with_reducible apply State.coreMisuse_keeps
    | with_reducible apply OptPairKeeps.none | with_reducible apply OptPairKeeps.some | refine OptPairKeeps.of_some ?_ (by with_reducible assumption)
    | (intro _; intros; try dsimp only) | split | with_reducible apply Keeps.other)

theorem jtryAt_keeps {base : State} {r k w : Nat} {s : State} (hbase : Keeps base s) : Keeps base (jtryAt r k w s) := by
  unfold jtryAt
  try dsimp only
  repeat' (first
    | with_reducible assumption | with_reducible apply Keeps.ite | with_reducible apply Keeps.fold | with_reducible apply State.setJar_keeps
    | with_reducible apply State.vendorDone_keeps | with_reducible apply State.coreMisuse_keeps | (intro _; intros; try dsimp only) | split
    | with_reducible apply Keeps.other)

theorem jtry_keeps {base : State} {r k : Nat} {s : State} (hbase : Keeps base s) : Keeps base (jtry r k s) := by
  unfold jtry
  try dsimp only
  repeat' (first
    | with_reducible assumption | with_reducible apply Keeps.ite | with_reducible apply Keeps.fold | with_reducible apply State.holdCore_keeps
    | with_reducible apply jtryAt_keeps | (intro _; intros; try dsimp only) | split | with_reducible apply Keeps.other)

theorem jpeekAt_keeps {base : State} {r k w : Nat} {s : State} (hbase : Keeps base s) : Keeps base (jpeekAt r k w s) := by
  unfold jpeekAt
  try dsimp only
  repeat' (first
    | with_reducible assumption | with_reducible apply Keeps.ite | with_reducible apply Keeps.fold | with_reducible apply State.vendorDone_keeps
    | with_reducible apply State.coreMisuse_keeps | (intro _; intros; try dsimp only) | split | with_reducible apply Keeps.other)

theorem jpeek_keeps {base : State} {r k : Nat} {s : State} (hbase : Keeps base s) : Keeps base (jpeek r k s) := by
  unfold jpeek
  try dsimp only
  repeat' (first
    | with_reducible assumption | with_reducible apply Keeps.ite | with_reducible apply Keeps.fold | with_reducible apply State.holdCore_keeps
    | with_reducible apply jpeekAt_keeps | (intro _; intros; try dsimp only) | split | with_reducible apply Keeps.other)

theorem State.coreJarOp_keeps {base : State} {s : State} {r k : Nat} (hbase : Keeps base s) : Keeps base (State.coreJarOp s r k) := by
  unfold State.coreJarOp
  try dsimp only
  repeat' (first
    | with_reducible assumption | with_reducible apply Keeps.ite | with_reducible apply Keeps.fold | with_reducible apply jdropAt_keeps
    | with_reducible apply jtryAt_keeps | with_reducible apply jpeekAt_keeps | (intro _; intros; try dsimp only) | split
    | with_reducible apply Keeps.other)

theorem jrdrop_keeps {base : State} {r k : Nat} {s : State} (hbase : Keeps base s) : Keeps base (jrdrop r k s) := by
  unfold jrdrop
  try dsimp only
  repeat' (first
    | with_reducible assumption | with_reducible apply Keeps.ite | with_reducible apply Keeps.fold | with_reducible apply State.noRoute_keeps
    | with_reducible apply State.sendDrop_keeps | with_reducible apply State.vendorDone_keeps | with_reducible apply OptKeeps.none
    | with_reducible apply OptKeeps.some | with_reducible apply OptKeeps.map | with_reducible apply OptKeeps.bind
    | refine OptKeeps.of_some ?_ (by with_reducible assumption) | (intro _; intros; try dsimp only) | split | with_reducible apply Keeps.other)

theorem launch_keeps {base : State} {r k : Nat} {parityBad : Bool} {s : State} (hbase : Keeps base s) : Keeps base (launch r k parityBad s) := by
  unfold launch
  try dsimp only
  repeat' (first
    | with_reducible assumption | with_reducible apply Keeps.ite | with_reducible apply Keeps.fold | with_reducible apply State.fadd_keeps
    | with_reducible apply State.updSlot_keeps | with_reducible apply State.setCoreQ_keeps | with_reducible apply State.drainCq_keeps
    | with_reducible apply State.vendorDone_keeps | with_reducible apply State.ccWait_keeps | (intro _; intros; try dsimp only) | split
    | with_reducible apply Keeps.other)

theorem bwait_keeps {base : State} {r k : Nat} {s : State} (hbase : Keeps base s) : Keeps base (bwait r k s) := by
  unfold bwait
  try dsimp only
  repeat' (first
    | with_reducible assumption | with_reducible apply Keeps.ite | with_reducible apply Keeps.fold | with_reducible apply State.vendorDone_keeps
    | with_reducible apply State.ccWait_keeps | (intro _; intros; try dsimp only) | split | with_reducible apply Keeps.other)

theorem sumrd_keeps {base : State} {r k : Nat} {s : State} (hbase : Keeps base s) : Keeps base (sumrd r k s) := by
  unfold sumrd
  try dsimp only
  repeat' (first
    | with_reducible assumption | with_reducible apply Keeps.ite | with_reducible apply Keeps.fold | with_reducible apply State.updSlot_keeps
    | with_reducible apply State.vendorDone_keeps | with_reducible apply State.ccWait_keeps | (intro _; intros; try dsimp only) | split
    | with_reducible apply Keeps.other)

theorem ccTrapCmd_keeps {base : State} {r k : Nat} {s : State} (hbase : Keeps base s) : Keeps base (ccTrapCmd r k s) := by
  unfold ccTrapCmd
  try dsimp only
  repeat' (first
    | with_reducible assumption | with_reducible apply Keeps.ite | with_reducible apply Keeps.fold | with_reducible apply State.ccTrap_keeps
    | with_reducible apply State.ccStep_keeps | with_reducible apply RvOut.keeps_next | with_reducible apply RvOut.keeps_nextTrap
    | with_reducible apply RvOut.keeps_trap | with_reducible apply RvOut.keeps_other | refine RvOut.of_next ?_ (by with_reducible assumption)
    | refine RvOut.of_nextTrap ?_ (by with_reducible assumption) | (intro _; intros; try dsimp only) | split | with_reducible apply Keeps.other)

end Sys2Proof.Machine
end

