-- ==== Sys2Proof/Laws/KeepsHandover.lean ====
section
/-! SUPPORT. What the operations of Sys2Proof/Machine/Handover.lean keep (Laws/Keeps.lean). -/
namespace Sys2Proof.Machine

set_option linter.unusedTactic false
set_option linter.unreachableTactic false

theorem State.refuseTake_keeps {base s : State} {p j : Nat} {w : Waiter} (h : Keeps base s) : Keeps base (State.refuseTake s p j w) := by
  cases w with
  | desc o id =>
    unfold State.refuseTake
    dsimp only
    split
    · exact State.descFault_keeps h
    · exact State.raise_keeps h
  | core r k => exact State.coreMisuse_keeps h

theorem State.performHeld_keeps {base s : State} {p : Nat} {x : HeldOp} (h : Keeps base s) : Keeps base (State.performHeld s p x) := by
  unfold State.performHeld
  refine Keeps.ite ?_ fun _ => h
  cases x with
  | drop j n u => exact State.dropOr_keeps h
  | take j n w =>
    dsimp only
    split
    · exact State.refuseTake_keeps h
    · exact State.served_keeps (OptPairKeeps.of_some (State.takeJar_keeps h) (by assumption))
    · exact OptPairKeeps.of_some (State.takeJar_keeps h) (by assumption)
  | desc j o id =>
    dsimp only
    split
    · exact Run.settle_keeps (runJarOp_keeps h)
    · exact h
  | core j r k => exact State.coreJarOp_keeps h

theorem State.releaseHeld_keeps {base : State} {s : State} {p r k : Nat} (hbase : Keeps base s) : Keeps base (State.releaseHeld s p r k) := by
  unfold State.releaseHeld
  try dsimp only
  repeat' (first
    | with_reducible assumption | with_reducible apply Keeps.ite | with_reducible apply Keeps.fold | with_reducible apply Keeps.each
    | with_reducible apply State.updPart_keeps | with_reducible apply State.performHeld_keeps | (intro _; intros; try dsimp only) | split
    | with_reducible apply Keeps.other)

theorem handoverEnd_keeps {base : State} {r : Nat} {ok : Bool} {s : State} (hbase : Keeps base s) : Keeps base (handoverEnd r ok s) := by
  unfold handoverEnd
  try dsimp only
  repeat' (first
    | with_reducible assumption | with_reducible apply Keeps.ite | with_reducible apply Keeps.fold | with_reducible apply State.fset_keeps
    | with_reducible apply State.updRegion_keeps | with_reducible apply State.raise_keeps | with_reducible apply State.rotate_keeps
    | with_reducible apply State.releaseHeld_keeps | (intro _; intros; try dsimp only) | split | with_reducible apply Keeps.other)

end Sys2Proof.Machine
end

