-- ==== Sys2Proof/Laws/KeepsCompanion.lean ====
section
/-! SUPPORT. What the operations of Sys2Proof/Machine/Companion.lean keep (Laws/Keeps.lean). -/
namespace Sys2Proof.Machine

set_option linter.unusedTactic false
set_option linter.unreachableTactic false

theorem State.answerData_keeps {base : State} {s : State} {tag : Nat} {data : List Byte} (hbase : Keeps base s) : Keeps base (State.answerData s tag data) := by
  unfold State.answerData
  try dsimp only
  repeat' (first
    | with_reducible assumption | with_reducible apply Keeps.ite | with_reducible apply Keeps.fold | with_reducible apply State.glkPut_keeps
    | (intro _; intros; try dsimp only) | split | with_reducible apply Keeps.other)

theorem State.answerAck_keeps {base : State} {s : State} {tag : Nat} (hbase : Keeps base s) : Keeps base (State.answerAck s tag) := by
  unfold State.answerAck
  try dsimp only
  repeat' (first
    | with_reducible assumption | with_reducible apply Keeps.ite | with_reducible apply Keeps.fold | with_reducible apply State.glkPut_keeps
    | (intro _; intros; try dsimp only) | split | with_reducible apply Keeps.other)

theorem State.answerErr_keeps {base : State} {s : State} {tag reason : Nat} (hbase : Keeps base s) : Keeps base (State.answerErr s tag reason) := by
  unfold State.answerErr
  try dsimp only
  repeat' (first
    | with_reducible assumption | with_reducible apply Keeps.ite | with_reducible apply Keeps.fold | with_reducible apply State.glkPut_keeps
    | (intro _; intros; try dsimp only) | split | with_reducible apply Keeps.other)

theorem State.serveRead_keeps {base : State} {s : State} {tag a size : Nat} {phys : ReadUpset} (hbase : Keeps base s) : Keeps base (State.serveRead s tag a size phys) := by
  unfold State.serveRead
  try dsimp only
  repeat' (first
    | with_reducible assumption | refine Keeps.of_fst (by with_reducible assumption) ?_ | with_reducible apply Keeps.ite
    | with_reducible apply Keeps.fold | with_reducible apply State.raise_keeps | with_reducible apply State.strike_keeps
    | with_reducible apply State.readRanges_keeps | with_reducible apply State.regFailed_keeps | with_reducible apply State.answerData_keeps
    | with_reducible apply State.answerErr_keeps | (intro _; intros; try dsimp only) | split | with_reducible apply Keeps.other)

theorem State.serveWrite_keeps {base : State} {s : State} {tag a : Nat} {data : List Byte} {phys : ReadUpset} (hbase : Keeps base s) : Keeps base (State.serveWrite s tag a data phys) := by
  unfold State.serveWrite
  try dsimp only
  repeat' (first
    | with_reducible assumption | refine Keeps.of_fst (by with_reducible assumption) ?_ | with_reducible apply Keeps.ite
    | with_reducible apply Keeps.fold | with_reducible apply State.store_keeps | with_reducible apply State.raise_keeps
    | with_reducible apply State.strike_keeps | with_reducible apply State.writeRange_keeps | with_reducible apply State.regFailed_keeps
    | with_reducible apply State.regWrite_keeps | with_reducible apply State.answerAck_keeps | with_reducible apply State.answerErr_keeps
    | (intro _; intros; try dsimp only) | split | with_reducible apply Keeps.other)

theorem State.servePark_keeps {base : State} {s : State} {x : Parked} (hbase : Keeps base s) : Keeps base (State.servePark s x) := by
  unfold State.servePark
  try dsimp only
  repeat' (first
    | with_reducible assumption | with_reducible apply Keeps.ite | with_reducible apply Keeps.fold | with_reducible apply State.glkFree_keeps
    | with_reducible apply State.serveRead_keeps | with_reducible apply State.serveWrite_keeps | (intro _; intros; try dsimp only) | split
    | with_reducible apply Keeps.other)

theorem State.serveOrPark_keeps {base : State} {s : State} {x : Parked} (hbase : Keeps base s) : Keeps base (State.serveOrPark s x) := by
  unfold State.serveOrPark
  try dsimp only
  repeat' (first
    | with_reducible assumption | with_reducible apply Keeps.ite | with_reducible apply Keeps.fold | with_reducible apply State.updGlk_keeps
    | with_reducible apply State.servePark_keeps | (intro _; intros; try dsimp only) | split | with_reducible apply Keeps.other)

theorem State.takeAccess_keeps {base : State} {s : State} {x : Parked} (hbase : Keeps base s) : Keeps base (State.takeAccess s x) := by
  unfold State.takeAccess
  try dsimp only
  repeat' (first
    | with_reducible assumption | with_reducible apply Keeps.ite | with_reducible apply Keeps.fold | with_reducible apply State.keepLate_keeps
    | with_reducible apply State.serveOrPark_keeps | (intro _; intros; try dsimp only) | split | with_reducible apply Keeps.other)

theorem State.latesGo_keeps {base : State} {s : State} (hbase : Keeps base s) : Keeps base (State.latesGo s) := by
  unfold State.latesGo
  try dsimp only
  repeat' (first
    | with_reducible assumption | with_reducible apply Keeps.ite | with_reducible apply Keeps.fold | with_reducible apply Keeps.foldFst
    | with_reducible apply State.updGlk_keeps | with_reducible apply State.keepLate_keeps | with_reducible apply State.takeWord_keeps
    | with_reducible apply State.takeDoorbell_keeps | with_reducible apply State.serveOrPark_keeps | (intro _; intros; try dsimp only) | split
    | with_reducible apply Keeps.other)

theorem glkCreditReturn_keeps {base : State} {ack cls n : Nat} {s : State} (hbase : Keeps base s) : Keeps base (glkCreditReturn ack cls n s) := by
  unfold glkCreditReturn
  try dsimp only
  repeat' (first
    | with_reducible assumption | with_reducible apply Keeps.ite | with_reducible apply Keeps.fold | with_reducible apply State.updGlk_keeps
    | with_reducible apply State.glkDrain_keeps | with_reducible apply State.latesGo_keeps | (intro _; intros; try dsimp only) | split
    | with_reducible apply Keeps.other)

theorem glkRd_keeps {base : State} {tag a size : Nat} {phys : ReadUpset} {h : GlkHead} {s : State} (hbase : Keeps base s) : Keeps base (glkRd tag a size phys h s) := by
  unfold glkRd
  try dsimp only
  repeat' (first
    | with_reducible assumption | with_reducible apply Keeps.ite | with_reducible apply Keeps.fold | with_reducible apply State.glkIn_keeps
    | with_reducible apply State.takeAccess_keeps | (intro _; intros; try dsimp only) | split | with_reducible apply Keeps.other)

theorem glkWr_keeps {base : State} {tag a : Nat} {data : List Byte} {phys : ReadUpset} {h : GlkHead} {s : State} (hbase : Keeps base s) : Keeps base (glkWr tag a data phys h s) := by
  unfold glkWr
  try dsimp only
  repeat' (first
    | with_reducible assumption | with_reducible apply Keeps.ite | with_reducible apply Keeps.fold | with_reducible apply State.glkIn_keeps
    | with_reducible apply State.takeAccess_keeps | (intro _; intros; try dsimp only) | split | with_reducible apply Keeps.other)

theorem State.unpark_keeps {base : State} {s : State} {r k : Nat} (hbase : Keeps base s) : Keeps base (State.unpark s r k) := by
  unfold State.unpark
  try dsimp only
  repeat' (first
    | with_reducible assumption | with_reducible apply Keeps.ite | with_reducible apply Keeps.fold | with_reducible apply Keeps.each
    | with_reducible apply State.updGlk_keeps | with_reducible apply State.glkUndefer_keeps | with_reducible apply State.servePark_keeps
    | with_reducible apply State.latesGo_keeps | (intro _; intros; try dsimp only) | split | with_reducible apply Keeps.other)

theorem handoverOver_keeps {base : State} {r : Nat} {ok : Bool} {s : State} (hbase : Keeps base s) : Keeps base (handoverOver r ok s) := by
  unfold handoverOver
  try dsimp only
  repeat' (first
    | with_reducible assumption | with_reducible apply Keeps.ite | with_reducible apply Keeps.fold | with_reducible apply handoverEnd_keeps
    | with_reducible apply State.unpark_keeps | (intro _; intros; try dsimp only) | split | with_reducible apply Keeps.other)

end Sys2Proof.Machine
end

