-- ==== Sys2Proof/Laws/KeepsTap.lean ====
section
/-! SUPPORT. What the operations of Sys2Proof/Machine/Tap.lean keep (Laws/Keeps.lean). -/
namespace Sys2Proof.Machine

set_option linter.unusedTactic false
set_option linter.unreachableTactic false

theorem State.tapTo_keeps {base : State} {s : State} {i : TapInst} {dr : List Bool} (hbase : Keeps base s) : Keeps base (State.tapTo s i dr) := by
  unfold State.tapTo
  try dsimp only
  repeat' (first
    | with_reducible assumption | with_reducible apply Keeps.ite | with_reducible apply Keeps.fold | (intro _; intros; try dsimp only) | split
    | with_reducible apply Keeps.other)

theorem State.tapDrive_keeps {base : State} {s : State} {i : TapInst} {pins drive : List Bool} (hbase : Keeps base s) : Keeps base (State.tapDrive s i pins drive) := by
  unfold State.tapDrive
  try dsimp only
  repeat' (first
    | with_reducible assumption | with_reducible apply Keeps.ite | with_reducible apply Keeps.fold | with_reducible apply State.tapTo_keeps
    | (intro _; intros; try dsimp only) | split | with_reducible apply Keeps.other)

end Sys2Proof.Machine
end

