-- ==== Sys2Proof/Laws/ExecKeeps.lean ====
section
/-! SUPPORT. Every command completes, and what it keeps (Laws/Keeps.lean). -/
namespace Sys2Proof.Machine

set_option linter.unusedTactic false
set_option linter.unreachableTactic false

theorem execDupCompare_keeps {r : Fin 4} {twin kind : Nat} {wrong : List (Nat × Byte)} {s : State} : ∃ t, execDupCompare r twin kind wrong s = .next t ∧ Keeps s t := by
  refine ⟨_, rfl, ?_⟩
  have hbase := Keeps.refl s
  try dsimp only
  repeat' (first
    | with_reducible assumption | with_reducible apply Keeps.ite | with_reducible apply Keeps.fold | with_reducible apply dupCompare_keeps
    | (intro _; intros; try dsimp only) | split | with_reducible apply Keeps.other)

theorem execRotationDue_keeps {r : Fin 4} {s : State} : ∃ t, execRotationDue r s = .next t ∧ Keeps s t := by
  refine ⟨_, rfl, ?_⟩
  have hbase := Keeps.refl s
  try dsimp only
  repeat' (first
    | with_reducible assumption | with_reducible apply Keeps.ite | with_reducible apply Keeps.fold | with_reducible apply State.bookRotation_keeps
    | (intro _; intros; try dsimp only) | split | with_reducible apply Keeps.other)

theorem execDescComplete_keeps {o : Origin} {id : Nat} {s : State} : ∃ t, execDescComplete o id s = .next t ∧ Keeps s t := by
  refine ⟨_, rfl, ?_⟩
  have hbase := Keeps.refl s
  try dsimp only
  repeat' (first
    | with_reducible assumption | with_reducible apply Keeps.ite | with_reducible apply Keeps.fold | with_reducible apply descComplete_keeps
    | (intro _; intros; try dsimp only) | split | with_reducible apply Keeps.other)

theorem execFence_keeps {o : Origin} {s : State} : ∃ t, execFence o s = .next t ∧ Keeps s t := by
  refine ⟨_, rfl, ?_⟩
  have hbase := Keeps.refl s
  try dsimp only
  repeat' (first
    | with_reducible assumption | with_reducible apply Keeps.ite | with_reducible apply Keeps.fold | with_reducible apply State.startPlain_keeps
    | with_reducible apply Run.keeps_done | with_reducible apply Run.keeps_going | with_reducible apply Run.keeps_wait
    | with_reducible apply Run.keeps_fault | (intro _; intros; try dsimp only) | split | with_reducible apply Keeps.other)

theorem execStepStateReady_keeps {p : Fin 4} {s : State} : ∃ t, execStepStateReady p s = .next t ∧ Keeps s t := by
  refine ⟨_, rfl, ?_⟩
  have hbase := Keeps.refl s
  try dsimp only
  repeat' (first
    | with_reducible assumption | with_reducible apply Keeps.ite | with_reducible apply Keeps.fold | with_reducible apply stepStateReady_keeps
    | (intro _; intros; try dsimp only) | split | with_reducible apply Keeps.other)

theorem execNorm_keeps {o : Origin} {u : Upset} {s : State} : ∃ t, execNorm o u s = .next t ∧ Keeps s t := by
  refine ⟨_, rfl, ?_⟩
  have hbase := Keeps.refl s
  try dsimp only
  repeat' (first
    | with_reducible assumption | with_reducible apply Keeps.ite | with_reducible apply Keeps.fold | with_reducible apply State.updateCmd_keeps
    | (intro _; intros; try dsimp only) | split | with_reducible apply Keeps.other)

theorem execFinalise_keeps {o : Origin} {u : Upset} {s : State} : ∃ t, execFinalise o u s = .next t ∧ Keeps s t := by
  refine ⟨_, rfl, ?_⟩
  have hbase := Keeps.refl s
  try dsimp only
  repeat' (first
    | with_reducible assumption | with_reducible apply Keeps.ite | with_reducible apply Keeps.fold | with_reducible apply State.updateCmd_keeps
    | (intro _; intros; try dsimp only) | split | with_reducible apply Keeps.other)

theorem execApply_keeps {o : Origin} {u : Upset} {s : State} : ∃ t, execApply o u s = .next t ∧ Keeps s t := by
  refine ⟨_, rfl, ?_⟩
  have hbase := Keeps.refl s
  try dsimp only
  repeat' (first
    | with_reducible assumption | with_reducible apply Keeps.ite | with_reducible apply Keeps.fold | with_reducible apply State.updateCmd_keeps
    | (intro _; intros; try dsimp only) | split | with_reducible apply Keeps.other)

theorem execStepEnd_keeps {o : Origin} {u : Upset} {s : State} : ∃ t, execStepEnd o u s = .next t ∧ Keeps s t := by
  refine ⟨_, rfl, ?_⟩
  have hbase := Keeps.refl s
  try dsimp only
  repeat' (first
    | with_reducible assumption | with_reducible apply Keeps.ite | with_reducible apply Keeps.fold | with_reducible apply State.updateCmd_keeps
    | (intro _; intros; try dsimp only) | split | with_reducible apply Keeps.other)

theorem execJoin_keeps {m : JoinMsg} {s : State} : ∃ t, execJoin m s = .next t ∧ Keeps s t := by
  refine ⟨_, rfl, ?_⟩
  have hbase := Keeps.refl s
  try dsimp only
  repeat' (first
    | with_reducible assumption | with_reducible apply Keeps.ite | with_reducible apply Keeps.fold | with_reducible apply joinSym_keeps
    | (intro _; intros; try dsimp only) | split | with_reducible apply Keeps.other)

theorem execWithdraw_keeps {domain node : Nat} {part : Fin 4} {s : State} : ∃ t, execWithdraw domain node part s = .next t ∧ Keeps s t := by
  refine ⟨_, rfl, ?_⟩
  have hbase := Keeps.refl s
  try dsimp only
  repeat' (first
    | with_reducible assumption | with_reducible apply Keeps.ite | with_reducible apply Keeps.fold | with_reducible apply withdraw_keeps
    | (intro _; intros; try dsimp only) | split | with_reducible apply Keeps.other)

theorem execFormationTimeout_keeps {p : Fin 4} {s : State} : ∃ t, execFormationTimeout p s = .next t ∧ Keeps s t := by
  refine ⟨_, rfl, ?_⟩
  have hbase := Keeps.refl s
  try dsimp only
  repeat' (first
    | with_reducible assumption | with_reducible apply Keeps.ite | with_reducible apply Keeps.fold | with_reducible apply formationTimeout_keeps
    | (intro _; intros; try dsimp only) | split | with_reducible apply Keeps.other)

theorem execBeatInEdge_keeps {p : Fin 4} {s : State} : ∃ t, execBeatInEdge p s = .next t ∧ Keeps s t := by
  refine ⟨_, rfl, ?_⟩
  have hbase := Keeps.refl s
  try dsimp only
  repeat' (first
    | with_reducible assumption | with_reducible apply Keeps.ite | with_reducible apply Keeps.fold | with_reducible apply State.updDom_keeps
    | (intro _; intros; try dsimp only) | split | with_reducible apply Keeps.other)

theorem execBeatInMiss_keeps {p : Fin 4} {s : State} : ∃ t, execBeatInMiss p s = .next t ∧ Keeps s t := by
  refine ⟨_, rfl, ?_⟩
  have hbase := Keeps.refl s
  try dsimp only
  repeat' (first
    | with_reducible assumption | with_reducible apply Keeps.ite | with_reducible apply Keeps.fold | with_reducible apply State.updDom_keeps
    | with_reducible apply State.noteHub_keeps | (intro _; intros; try dsimp only) | split | with_reducible apply Keeps.other)

theorem execCloseDeadline_keeps {p : Fin 4} {stalls : List Nat} {s : State} : ∃ t, execCloseDeadline p stalls s = .next t ∧ Keeps s t := by
  refine ⟨_, rfl, ?_⟩
  have hbase := Keeps.refl s
  try dsimp only
  repeat' (first
    | with_reducible assumption | with_reducible apply Keeps.ite | with_reducible apply Keeps.fold | with_reducible apply closeDeadline_keeps
    | (intro _; intros; try dsimp only) | split | with_reducible apply Keeps.other)

theorem execBeatStop_keeps {p : Fin 4} {at_ : Nat} {s : State} : ∃ t, execBeatStop p at_ s = .next t ∧ Keeps s t := by
  refine ⟨_, rfl, ?_⟩
  have hbase := Keeps.refl s
  try dsimp only
  repeat' (first
    | with_reducible assumption | with_reducible apply Keeps.ite | with_reducible apply Keeps.fold | with_reducible apply beatStop_keeps
    | (intro _; intros; try dsimp only) | split | with_reducible apply Keeps.other)

theorem execClosingToken_keeps {p : Fin 4} {tok : Token} {members atNs : Nat} {s : State} : ∃ t, execClosingToken p tok members atNs s = .next t ∧ Keeps s t := by
  refine ⟨_, rfl, ?_⟩
  have hbase := Keeps.refl s
  try dsimp only
  repeat' (first
    | with_reducible assumption | with_reducible apply Keeps.ite | with_reducible apply Keeps.fold | with_reducible apply State.mergeIn_keeps
    | (intro _; intros; try dsimp only) | split | with_reducible apply Keeps.other)

theorem execOverrunToken_keeps {p : Fin 4} {tok : Token} {s : State} : ∃ t, execOverrunToken p tok s = .next t ∧ Keeps s t := by
  refine ⟨_, rfl, ?_⟩
  have hbase := Keeps.refl s
  try dsimp only
  repeat' (first
    | with_reducible assumption | with_reducible apply Keeps.ite | with_reducible apply Keeps.fold | with_reducible apply overrunToken_keeps
    | (intro _; intros; try dsimp only) | split | with_reducible apply Keeps.other)

theorem execFaultToken_keeps {p : Fin 4} {org : FaultOrigin} {s : State} : ∃ t, execFaultToken p org s = .next t ∧ Keeps s t := by
  refine ⟨_, rfl, ?_⟩
  have hbase := Keeps.refl s
  try dsimp only
  repeat' (first
    | with_reducible assumption | with_reducible apply Keeps.ite | with_reducible apply Keeps.fold | with_reducible apply faultToken_keeps
    | (intro _; intros; try dsimp only) | split | with_reducible apply Keeps.other)

theorem execStretchLimit_keeps {p : Fin 4} {s : State} : ∃ t, execStretchLimit p s = .next t ∧ Keeps s t := by
  refine ⟨_, rfl, ?_⟩
  have hbase := Keeps.refl s
  try dsimp only
  repeat' (first
    | with_reducible assumption | with_reducible apply Keeps.ite | with_reducible apply Keeps.fold | with_reducible apply stretchLimit_keeps
    | (intro _; intros; try dsimp only) | split | with_reducible apply Keeps.other)

theorem execStallSymbol_keeps {p : Fin 4} {org : FaultOrigin} {s : State} : ∃ t, execStallSymbol p org s = .next t ∧ Keeps s t := by
  refine ⟨_, rfl, ?_⟩
  have hbase := Keeps.refl s
  try dsimp only
  repeat' (first
    | with_reducible assumption | with_reducible apply Keeps.ite | with_reducible apply Keeps.fold | with_reducible apply stallSymbol_keeps
    | (intro _; intros; try dsimp only) | split | with_reducible apply Keeps.other)

theorem execOverrunSymbol_keeps {p : Fin 4} {tok : Token} {s : State} : ∃ t, execOverrunSymbol p tok s = .next t ∧ Keeps s t := by
  refine ⟨_, rfl, ?_⟩
  have hbase := Keeps.refl s
  try dsimp only
  repeat' (first
    | with_reducible assumption | with_reducible apply Keeps.ite | with_reducible apply Keeps.fold | with_reducible apply overrunSymbol_keeps
    | (intro _; intros; try dsimp only) | split | with_reducible apply Keeps.other)

theorem execSymbolTimeout_keeps {p : Fin 4} {s : State} : ∃ t, execSymbolTimeout p s = .next t ∧ Keeps s t := by
  refine ⟨_, rfl, ?_⟩
  have hbase := Keeps.refl s
  try dsimp only
  repeat' (first
    | with_reducible assumption | with_reducible apply Keeps.ite | with_reducible apply Keeps.fold | with_reducible apply symbolTimeout_keeps
    | (intro _; intros; try dsimp only) | split | with_reducible apply Keeps.other)

theorem execBoundarySymbol_keeps {p : Fin 4} {b : BoundaryMsg} {s : State} : ∃ t, execBoundarySymbol p b s = .next t ∧ Keeps s t := by
  refine ⟨_, rfl, ?_⟩
  have hbase := Keeps.refl s
  try dsimp only
  repeat' (first
    | with_reducible assumption | with_reducible apply Keeps.ite | with_reducible apply Keeps.fold | with_reducible apply boundarySymbol_keeps
    | (intro _; intros; try dsimp only) | split | with_reducible apply Keeps.other)

theorem execMbxTx_keeps {c word : Nat} {s : State} : ∃ t, execMbxTx c word s = .next t ∧ Keeps s t := by
  refine ⟨_, rfl, ?_⟩
  have hbase := Keeps.refl s
  try dsimp only
  repeat' (first
    | with_reducible assumption | with_reducible apply Keeps.ite | with_reducible apply Keeps.fold | with_reducible apply mbxTx_keeps
    | (intro _; intros; try dsimp only) | split | with_reducible apply Keeps.other)

theorem execMboxDeliver_keeps {c : Nat} {s : State} : ∃ t, execMboxDeliver c s = .next t ∧ Keeps s t := by
  refine ⟨_, rfl, ?_⟩
  have hbase := Keeps.refl s
  try dsimp only
  repeat' (first
    | with_reducible assumption | with_reducible apply Keeps.ite | with_reducible apply Keeps.fold | with_reducible apply mboxDeliver_keeps
    | (intro _; intros; try dsimp only) | split | with_reducible apply Keeps.other)

theorem execWordRemove_keeps {c : Nat} {d : Dir} {s : State} : ∃ t, execWordRemove c d s = .next t ∧ Keeps s t := by
  refine ⟨_, rfl, ?_⟩
  have hbase := Keeps.refl s
  try dsimp only
  repeat' (first
    | with_reducible assumption | with_reducible apply Keeps.ite | with_reducible apply Keeps.fold | with_reducible apply wordRemove_keeps
    | (intro _; intros; try dsimp only) | split | with_reducible apply Keeps.other)

theorem execMbxTimeout_keeps {c : Nat} {d : Dir} {s : State} : ∃ t, execMbxTimeout c d s = .next t ∧ Keeps s t := by
  refine ⟨_, rfl, ?_⟩
  have hbase := Keeps.refl s
  try dsimp only
  repeat' (first
    | with_reducible assumption | with_reducible apply Keeps.ite | with_reducible apply Keeps.fold | with_reducible apply mbxTimeoutEvent_keeps
    | (intro _; intros; try dsimp only) | split | with_reducible apply Keeps.other)

theorem execEndpointReset_keeps {e : Endpoint} {s : State} : ∃ t, execEndpointReset e s = .next t ∧ Keeps s t := by
  refine ⟨_, rfl, ?_⟩
  have hbase := Keeps.refl s
  try dsimp only
  repeat' (first
    | with_reducible assumption | with_reducible apply Keeps.ite | with_reducible apply Keeps.fold | with_reducible apply State.resetEndpoint_keeps
    | (intro _; intros; try dsimp only) | split | with_reducible apply Keeps.other)

theorem execEndpointReady_keeps {e : Endpoint} {s : State} : ∃ t, execEndpointReady e s = .next t ∧ Keeps s t := by
  refine ⟨_, rfl, ?_⟩
  have hbase := Keeps.refl s
  try dsimp only
  repeat' (first
    | with_reducible assumption | with_reducible apply Keeps.ite | with_reducible apply Keeps.fold | (intro _; intros; try dsimp only) | split
    | with_reducible apply Keeps.other)

theorem execTokenPresent_keeps {s : State} : ∃ t, execTokenPresent s = .next t ∧ Keeps s t := by
  refine ⟨_, rfl, ?_⟩
  have hbase := Keeps.refl s
  try dsimp only
  repeat' (first
    | with_reducible assumption | with_reducible apply Keeps.ite | with_reducible apply Keeps.fold | with_reducible apply tokenPresent_keeps
    | (intro _; intros; try dsimp only) | split | with_reducible apply Keeps.other)

theorem execLock_keeps {s : State} : ∃ t, execLock s = .next t ∧ Keeps s t := by
  refine ⟨_, rfl, ?_⟩
  have hbase := Keeps.refl s
  try dsimp only
  repeat' (first
    | with_reducible assumption | with_reducible apply Keeps.ite | with_reducible apply Keeps.fold | with_reducible apply lock_keeps
    | (intro _; intros; try dsimp only) | split | with_reducible apply Keeps.other)

theorem execUnlockExpiry_keeps {s : State} : ∃ t, execUnlockExpiry s = .next t ∧ Keeps s t := by
  refine ⟨_, rfl, ?_⟩
  have hbase := Keeps.refl s
  try dsimp only
  repeat' (first
    | with_reducible assumption | with_reducible apply Keeps.ite | with_reducible apply Keeps.fold | with_reducible apply unlockExpiry_keeps
    | (intro _; intros; try dsimp only) | split | with_reducible apply Keeps.other)

theorem execInjectionArm_keeps {s : State} : ∃ t, execInjectionArm s = .next t ∧ Keeps s t := by
  refine ⟨_, rfl, ?_⟩
  have hbase := Keeps.refl s
  try dsimp only
  repeat' (first
    | with_reducible assumption | with_reducible apply Keeps.ite | with_reducible apply Keeps.fold | with_reducible apply injectionArm_keeps
    | (intro _; intros; try dsimp only) | split | with_reducible apply Keeps.other)

theorem execMbxHoldEnd_keeps {c : Nat} {s : State} : ∃ t, execMbxHoldEnd c s = .next t ∧ Keeps s t := by
  refine ⟨_, rfl, ?_⟩
  have hbase := Keeps.refl s
  try dsimp only
  repeat' (first
    | with_reducible assumption | with_reducible apply Keeps.ite | with_reducible apply Keeps.fold | (intro _; intros; try dsimp only) | split
    | with_reducible apply Keeps.other)

theorem execFabPortCfg_keeps {p : Fin 18} {value : Nat} {s : State} : ∃ t, execFabPortCfg p value s = .next t ∧ Keeps s t := by
  refine ⟨_, rfl, ?_⟩
  have hbase := Keeps.refl s
  try dsimp only
  repeat' (first
    | with_reducible assumption | with_reducible apply Keeps.ite | with_reducible apply Keeps.fold | with_reducible apply fabPortCfg_keeps
    | (intro _; intros; try dsimp only) | split | with_reducible apply Keeps.other)

theorem execPortTrainTimeout_keeps {p : Fin 18} {s : State} : ∃ t, execPortTrainTimeout p s = .next t ∧ Keeps s t := by
  refine ⟨_, rfl, ?_⟩
  have hbase := Keeps.refl s
  try dsimp only
  repeat' (first
    | with_reducible assumption | with_reducible apply Keeps.ite | with_reducible apply Keeps.fold | with_reducible apply portTrainTimeout_keeps
    | (intro _; intros; try dsimp only) | split | with_reducible apply Keeps.other)

theorem execLmgmt_keeps {p : Fin 18} {m : Lmgmt} {s : State} : ∃ t, execLmgmt p m s = .next t ∧ Keeps s t := by
  refine ⟨_, rfl, ?_⟩
  have hbase := Keeps.refl s
  try dsimp only
  repeat' (first
    | with_reducible assumption | with_reducible apply Keeps.ite | with_reducible apply Keeps.fold | with_reducible apply lmgmt_keeps
    | (intro _; intros; try dsimp only) | split | with_reducible apply Keeps.other)

theorem execDataFlit_keeps {p : Fin 18} {f : Flit} {s : State} : ∃ t, execDataFlit p f s = .next t ∧ Keeps s t := by
  refine ⟨_, rfl, ?_⟩
  have hbase := Keeps.refl s
  try dsimp only
  repeat' (first
    | with_reducible assumption | with_reducible apply Keeps.ite | with_reducible apply Keeps.fold | with_reducible apply dataFlit_keeps
    | (intro _; intros; try dsimp only) | split | with_reducible apply Keeps.other)

theorem execDropFlit_keeps {p : Fin 18} {f : Flit} {s : State} : ∃ t, execDropFlit p f s = .next t ∧ Keeps s t := by
  refine ⟨_, rfl, ?_⟩
  have hbase := Keeps.refl s
  try dsimp only
  repeat' (first
    | with_reducible assumption | with_reducible apply Keeps.ite | with_reducible apply Keeps.fold | with_reducible apply State.flitIn_keeps
    | with_reducible apply landDrop_keeps | (intro _; intros; try dsimp only) | split | with_reducible apply Keeps.other)

theorem execReplyFlit_keeps {p : Fin 18} {f : Flit} {s : State} : ∃ t, execReplyFlit p f s = .next t ∧ Keeps s t := by
  refine ⟨_, rfl, ?_⟩
  have hbase := Keeps.refl s
  try dsimp only
  repeat' (first
    | with_reducible assumption | with_reducible apply Keeps.ite | with_reducible apply Keeps.fold | with_reducible apply State.flitIn_keeps
    | with_reducible apply landReply_keeps | (intro _; intros; try dsimp only) | split | with_reducible apply Keeps.other)

theorem execNullFlit_keeps {p : Fin 18} {f : Flit} {s : State} : ∃ t, execNullFlit p f s = .next t ∧ Keeps s t := by
  exact ⟨_, rfl, State.fabIn_keeps (Keeps.refl s) fun _ h => h⟩

theorem execDropCreditReport_keeps {q : Fin 4} {node part epoch : Nat} {s : State} : ∃ t, execDropCreditReport q node part epoch s = .next t ∧ Keeps s t := by
  refine ⟨_, rfl, ?_⟩
  have hbase := Keeps.refl s
  try dsimp only
  repeat' (first
    | with_reducible assumption | with_reducible apply Keeps.ite | with_reducible apply Keeps.fold | with_reducible apply dropCreditReport_keeps
    | (intro _; intros; try dsimp only) | split | with_reducible apply Keeps.other)

theorem execFlitDiscard_keeps {p : Fin 18} {c : DiscardCause} {s : State} : ∃ t, execFlitDiscard p c s = .next t ∧ Keeps s t := by
  refine ⟨_, rfl, ?_⟩
  have hbase := Keeps.refl s
  try dsimp only
  repeat' (first
    | with_reducible assumption | with_reducible apply Keeps.ite | with_reducible apply Keeps.fold | with_reducible apply flitDiscard_keeps
    | (intro _; intros; try dsimp only) | split | with_reducible apply Keeps.other)

theorem execNak_keeps {p : Fin 18} {ack : Nat} {ecc : FlitEcc} {s : State} : ∃ t, execNak p ack ecc s = .next t ∧ Keeps s t := by
  refine ⟨_, rfl, ?_⟩
  have hbase := Keeps.refl s
  try dsimp only
  repeat' (first
    | with_reducible assumption | with_reducible apply Keeps.ite | with_reducible apply Keeps.fold | with_reducible apply fabNak_keeps
    | (intro _; intros; try dsimp only) | split | with_reducible apply Keeps.other)

theorem execPortRetrainEnd_keeps {p : Fin 18} {ok : Bool} {s : State} : ∃ t, execPortRetrainEnd p ok s = .next t ∧ Keeps s t := by
  refine ⟨_, rfl, ?_⟩
  have hbase := Keeps.refl s
  try dsimp only
  repeat' (first
    | with_reducible assumption | with_reducible apply Keeps.ite | with_reducible apply Keeps.fold | with_reducible apply portRetrainEnd_keeps
    | (intro _; intros; try dsimp only) | split | with_reducible apply Keeps.other)

theorem execLaneLoss_keeps {p : Fin 18} {lanes : Nat} {beatLost : Bool} {s : State} : ∃ t, execLaneLoss p lanes beatLost s = .next t ∧ Keeps s t := by
  refine ⟨_, rfl, ?_⟩
  have hbase := Keeps.refl s
  try dsimp only
  repeat' (first
    | with_reducible assumption | with_reducible apply Keeps.ite | with_reducible apply Keeps.fold | with_reducible apply laneLoss_keeps
    | (intro _; intros; try dsimp only) | split | with_reducible apply Keeps.other)

theorem execLaneRecalDue_keeps {p : Fin 18} {s : State} : ∃ t, execLaneRecalDue p s = .next t ∧ Keeps s t := by
  refine ⟨_, rfl, ?_⟩
  have hbase := Keeps.refl s
  try dsimp only
  repeat' (first
    | with_reducible assumption | with_reducible apply Keeps.ite | with_reducible apply Keeps.fold | with_reducible apply laneRecalDue_keeps
    | (intro _; intros; try dsimp only) | split | with_reducible apply Keeps.other)

theorem execRecalOffer_keeps {p : Fin 18} {domain beat : Nat} {lane : Fin 4} {s : State} : ∃ t, execRecalOffer p domain beat lane s = .next t ∧ Keeps s t := by
  refine ⟨_, rfl, ?_⟩
  have hbase := Keeps.refl s
  try dsimp only
  repeat' (first
    | with_reducible assumption | with_reducible apply Keeps.ite | with_reducible apply Keeps.fold | with_reducible apply recalOffer_keeps
    | (intro _; intros; try dsimp only) | split | with_reducible apply Keeps.other)

theorem execLaneRecalEnd_keeps {p : Fin 18} {ok : Bool} {s : State} : ∃ t, execLaneRecalEnd p ok s = .next t ∧ Keeps s t := by
  refine ⟨_, rfl, ?_⟩
  have hbase := Keeps.refl s
  try dsimp only
  repeat' (first
    | with_reducible assumption | with_reducible apply Keeps.ite | with_reducible apply Keeps.fold | with_reducible apply laneRecalEnd_keeps
    | (intro _; intros; try dsimp only) | split | with_reducible apply Keeps.other)

theorem execFirewallViolation_keeps {e : Fin 4} {addr : Nat} {s : State} : ∃ t, execFirewallViolation e addr s = .next t ∧ Keeps s t := by
  refine ⟨_, rfl, ?_⟩
  have hbase := Keeps.refl s
  try dsimp only
  repeat' (first
    | with_reducible assumption | with_reducible apply Keeps.ite | with_reducible apply Keeps.fold | with_reducible apply firewallViolation_keeps
    | (intro _; intros; try dsimp only) | split | with_reducible apply Keeps.other)

theorem execEndpointWordSend_keeps {e : Endpoint} {c word : Nat} {s : State} : ∃ t, execEndpointWordSend e c word s = .next t ∧ Keeps s t := by
  refine ⟨_, rfl, ?_⟩
  have hbase := Keeps.refl s
  try dsimp only
  repeat' (first
    | with_reducible assumption | with_reducible apply Keeps.ite | with_reducible apply Keeps.fold | with_reducible apply endpointWordSend_keeps
    | (intro _; intros; try dsimp only) | split | with_reducible apply Keeps.other)

theorem execEngineFail_keeps {e : Fin 4} {s : State} : ∃ t, execEngineFail e s = .next t ∧ Keeps s t := by
  refine ⟨_, rfl, ?_⟩
  have hbase := Keeps.refl s
  try dsimp only
  repeat' (first
    | with_reducible assumption | with_reducible apply Keeps.ite | with_reducible apply Keeps.fold | with_reducible apply engineFail_keeps
    | (intro _; intros; try dsimp only) | split | with_reducible apply Keeps.other)

theorem execEngineReady_keeps {e : Fin 4} {tempC : Nat} {s : State} : ∃ t, execEngineReady e tempC s = .next t ∧ Keeps s t := by
  refine ⟨_, rfl, ?_⟩
  have hbase := Keeps.refl s
  try dsimp only
  repeat' (first
    | with_reducible assumption | with_reducible apply Keeps.ite | with_reducible apply Keeps.fold | with_reducible apply engineReady_keeps
    | (intro _; intros; try dsimp only) | split | with_reducible apply Keeps.other)

theorem execStateBlockWrite_keeps {how : BlockEnd} {s : State} : ∃ t, execStateBlockWrite how s = .next t ∧ Keeps s t := by
  refine ⟨_, rfl, ?_⟩
  have hbase := Keeps.refl s
  try dsimp only
  repeat' (first
    | with_reducible assumption | with_reducible apply Keeps.ite | with_reducible apply Keeps.fold | with_reducible apply stateBlockWrite_keeps
    | (intro _; intros; try dsimp only) | split | with_reducible apply Keeps.other)

theorem execObjectPresent_keeps {s : State} : ∃ t, execObjectPresent s = .next t ∧ Keeps s t := by
  refine ⟨_, rfl, ?_⟩
  have hbase := Keeps.refl s
  try dsimp only
  repeat' (first
    | with_reducible assumption | with_reducible apply Keeps.ite | with_reducible apply Keeps.fold | with_reducible apply objectPresent_keeps
    | (intro _; intros; try dsimp only) | split | with_reducible apply Keeps.other)

theorem execPresentationEnd_keeps {part : PartRecord} {kak : Bundle} {s : State} : ∃ t, execPresentationEnd part kak s = .next t ∧ Keeps s t := by
  refine ⟨_, rfl, ?_⟩
  have hbase := Keeps.refl s
  try dsimp only
  repeat' (first
    | with_reducible assumption | with_reducible apply Keeps.ite | with_reducible apply Keeps.fold | with_reducible apply presentationEnd_keeps
    | (intro _; intros; try dsimp only) | split | with_reducible apply Keeps.other)

theorem execImageInstall_keeps {s : State} : ∃ t, execImageInstall s = .next t ∧ Keeps s t := by
  refine ⟨_, rfl, ?_⟩
  have hbase := Keeps.refl s
  try dsimp only
  repeat' (first
    | with_reducible assumption | with_reducible apply Keeps.ite | with_reducible apply Keeps.fold | with_reducible apply imageInstall_keeps
    | (intro _; intros; try dsimp only) | split | with_reducible apply Keeps.other)

theorem execSelfCheck_keeps {ok : Bool} {s : State} : ∃ t, execSelfCheck ok s = .next t ∧ Keeps s t := by
  refine ⟨_, rfl, ?_⟩
  have hbase := Keeps.refl s
  try dsimp only
  repeat' (first
    | with_reducible assumption | with_reducible apply Keeps.ite | with_reducible apply Keeps.fold | with_reducible apply selfCheck_keeps
    | (intro _; intros; try dsimp only) | split | with_reducible apply Keeps.other)

theorem execAttestationReport_keeps {s : State} : ∃ t, execAttestationReport s = .next t ∧ Keeps s t := by
  refine ⟨_, rfl, ?_⟩
  have hbase := Keeps.refl s
  try dsimp only
  repeat' (first
    | with_reducible assumption | with_reducible apply Keeps.ite | with_reducible apply Keeps.fold | with_reducible apply attestationReport_keeps
    | (intro _; intros; try dsimp only) | split | with_reducible apply Keeps.other)

theorem execReportSigning_keeps {s : State} : ∃ t, execReportSigning s = .next t ∧ Keeps s t := by
  refine ⟨_, rfl, ?_⟩
  have hbase := Keeps.refl s
  try dsimp only
  repeat' (first
    | with_reducible assumption | with_reducible apply Keeps.ite | with_reducible apply Keeps.fold | with_reducible apply reportSigning_keeps
    | (intro _; intros; try dsimp only) | split | with_reducible apply Keeps.other)

theorem execCertificates_keeps {s : State} : ∃ t, execCertificates s = .next t ∧ Keeps s t := by
  refine ⟨_, rfl, ?_⟩
  have hbase := Keeps.refl s
  try dsimp only
  repeat' (first
    | with_reducible assumption | with_reducible apply Keeps.ite | with_reducible apply Keeps.fold | with_reducible apply certificates_keeps
    | (intro _; intros; try dsimp only) | split | with_reducible apply Keeps.other)

theorem execReportComplete_keeps {s : State} : ∃ t, execReportComplete s = .next t ∧ Keeps s t := by
  refine ⟨_, rfl, ?_⟩
  have hbase := Keeps.refl s
  try dsimp only
  repeat' (first
    | with_reducible assumption | with_reducible apply Keeps.ite | with_reducible apply Keeps.fold | with_reducible apply reportComplete_keeps
    | (intro _; intros; try dsimp only) | split | with_reducible apply Keeps.other)

theorem execEvrClear_keeps {s : State} : ∃ t, execEvrClear s = .next t ∧ Keeps s t := by
  refine ⟨_, rfl, ?_⟩
  have hbase := Keeps.refl s
  try dsimp only
  repeat' (first
    | with_reducible assumption | with_reducible apply Keeps.ite | with_reducible apply Keeps.fold | with_reducible apply evrClear_keeps
    | (intro _; intros; try dsimp only) | split | with_reducible apply Keeps.other)

theorem execFlashEraseEnd_keeps {s : State} : ∃ t, execFlashEraseEnd s = .next t ∧ Keeps s t := by
  refine ⟨_, rfl, ?_⟩
  have hbase := Keeps.refl s
  try dsimp only
  repeat' (first
    | with_reducible assumption | with_reducible apply Keeps.ite | with_reducible apply Keeps.fold | with_reducible apply State.fset_keeps
    | (intro _; intros; try dsimp only) | split | with_reducible apply Keeps.other)

theorem execEraseSectorTimeout_keeps {s : State} : ∃ t, execEraseSectorTimeout s = .next t ∧ Keeps s t := by
  refine ⟨_, rfl, ?_⟩
  have hbase := Keeps.refl s
  try dsimp only
  repeat' (first
    | with_reducible assumption | with_reducible apply Keeps.ite | with_reducible apply Keeps.fold | with_reducible apply State.fset_keeps
    | (intro _; intros; try dsimp only) | split | with_reducible apply Keeps.other)

theorem execRecordMirror_keeps {ok : Bool} {s : State} : ∃ t, execRecordMirror ok s = .next t ∧ Keeps s t := by
  refine ⟨_, rfl, ?_⟩
  have hbase := Keeps.refl s
  try dsimp only
  repeat' (first
    | with_reducible assumption | with_reducible apply Keeps.ite | with_reducible apply Keeps.fold | with_reducible apply recordMirror_keeps
    | (intro _; intros; try dsimp only) | split | with_reducible apply Keeps.other)

theorem execOpSecTick_keeps {fec : List (Fin 72 × Nat × Nat)} {glkFec : Nat} {s : State} : ∃ t, execOpSecTick fec glkFec s = .next t ∧ Keeps s t := by
  refine ⟨_, rfl, ?_⟩
  have hbase := Keeps.refl s
  try dsimp only
  repeat' (first
    | with_reducible assumption | with_reducible apply Keeps.ite | with_reducible apply Keeps.fold | with_reducible apply opSecTick_keeps
    | (intro _; intros; try dsimp only) | split | with_reducible apply Keeps.other)

theorem execOpsecStore_keeps {s : State} : ∃ t, execOpsecStore s = .next t ∧ Keeps s t := by
  refine ⟨_, rfl, ?_⟩
  have hbase := Keeps.refl s
  try dsimp only
  repeat' (first
    | with_reducible assumption | with_reducible apply Keeps.ite | with_reducible apply Keeps.fold | (intro _; intros; try dsimp only) | split
    | with_reducible apply Keeps.other)

theorem execMatrix_keeps {o : Origin} {u : Upset} {s : State} : ∃ t, execMatrix o u s = .next t ∧ Keeps s t := by
  refine ⟨_, rfl, ?_⟩
  have hbase := Keeps.refl s
  try dsimp only
  repeat' (first
    | with_reducible assumption | with_reducible apply Keeps.ite | with_reducible apply Keeps.fold | with_reducible apply matrix_keeps
    | (intro _; intros; try dsimp only) | split | with_reducible apply Keeps.other)

theorem execTilePassEnd_keeps {r : Fin 4} {k : Fin 40} {errs : List ArrErr} {acc : Option (Nat × Nat)} {s : State} : ∃ t, execTilePassEnd r k errs acc s = .next t ∧ Keeps s t := by
  refine ⟨_, rfl, ?_⟩
  have hbase := Keeps.refl s
  try dsimp only
  repeat' (first
    | with_reducible assumption | with_reducible apply Keeps.ite | with_reducible apply Keeps.fold | with_reducible apply tilePassEnd_keeps
    | (intro _; intros; try dsimp only) | split | with_reducible apply Keeps.other)

theorem execVector_keeps {o : Origin} {u : Upset} {s : State} : ∃ t, execVector o u s = .next t ∧ Keeps s t := by
  refine ⟨_, rfl, ?_⟩
  have hbase := Keeps.refl s
  try dsimp only
  repeat' (first
    | with_reducible assumption | with_reducible apply Keeps.ite | with_reducible apply Keeps.fold | with_reducible apply vectorStart_keeps
    | (intro _; intros; try dsimp only) | split | with_reducible apply Keeps.other)

theorem execLayout_keeps {o : Origin} {u : Upset} {s : State} : ∃ t, execLayout o u s = .next t ∧ Keeps s t := by
  refine ⟨_, rfl, ?_⟩
  have hbase := Keeps.refl s
  try dsimp only
  repeat' (first
    | with_reducible assumption | with_reducible apply Keeps.ite | with_reducible apply Keeps.fold | with_reducible apply layoutCmd_keeps
    | (intro _; intros; try dsimp only) | split | with_reducible apply Keeps.other)

theorem execCollReady_keeps {p : Fin 18} {f : Flit} {waitNs : Nat} {s : State} : ∃ t, execCollReady p f waitNs s = .next t ∧ Keeps s t := by
  refine ⟨_, rfl, ?_⟩
  have hbase := Keeps.refl s
  try dsimp only
  repeat' (first
    | with_reducible assumption | with_reducible apply Keeps.ite | with_reducible apply Keeps.fold | with_reducible apply State.flitIn_keeps
    | with_reducible apply landReady_keeps | (intro _; intros; try dsimp only) | split | with_reducible apply Keeps.other)

theorem execCollData_keeps {p : Fin 18} {f : Flit} {waitNs : Nat} {s : State} : ∃ t, execCollData p f waitNs s = .next t ∧ Keeps s t := by
  refine ⟨_, rfl, ?_⟩
  have hbase := Keeps.refl s
  try dsimp only
  repeat' (first
    | with_reducible assumption | with_reducible apply Keeps.ite | with_reducible apply Keeps.fold | with_reducible apply State.flitIn_keeps
    | with_reducible apply landCollData_keeps | (intro _; intros; try dsimp only) | split | with_reducible apply Keeps.other)

theorem execCollLanded_keeps {p : Fin 18} {f : Flit} {waitNs : Nat} {s : State} : ∃ t, execCollLanded p f waitNs s = .next t ∧ Keeps s t := by
  refine ⟨_, rfl, ?_⟩
  have hbase := Keeps.refl s
  try dsimp only
  repeat' (first
    | with_reducible assumption | with_reducible apply Keeps.ite | with_reducible apply Keeps.fold | with_reducible apply State.flitIn_keeps
    | with_reducible apply landLanded_keeps | (intro _; intros; try dsimp only) | split | with_reducible apply Keeps.other)

theorem execTincanFlit_keeps {p : Fin 18} {f : Flit} {waitNs : Nat} {s : State} : ∃ t, execTincanFlit p f waitNs s = .next t ∧ Keeps s t := by
  refine ⟨_, rfl, ?_⟩
  have hbase := Keeps.refl s
  try dsimp only
  repeat' (first
    | with_reducible assumption | with_reducible apply Keeps.ite | with_reducible apply Keeps.fold | with_reducible apply State.flitIn_keeps
    | with_reducible apply landTincan_keeps | (intro _; intros; try dsimp only) | split | with_reducible apply Keeps.other)

theorem execAllReduce_keeps {o : Origin} {phys : ReadUpset} {s : State} : ∃ t, execAllReduce o phys s = .next t ∧ Keeps s t := by
  refine ⟨_, rfl, ?_⟩
  have hbase := Keeps.refl s
  try dsimp only
  repeat' (first
    | with_reducible assumption | with_reducible apply Keeps.ite | with_reducible apply Keeps.fold | with_reducible apply runBulk_keeps
    | with_reducible apply State.startCollective_keeps | with_reducible apply Run.keeps_done | with_reducible apply Run.keeps_going
    | with_reducible apply Run.keeps_wait | with_reducible apply Run.keeps_fault | with_reducible apply Run.keeps_done
    | with_reducible apply Run.keeps_going | with_reducible apply Run.keeps_wait | with_reducible apply Run.keeps_fault
    | refine Run.of_done ?_ (by with_reducible assumption) | refine Run.of_going ?_ (by with_reducible assumption)
    | refine Run.of_wait ?_ (by with_reducible assumption) | refine Run.of_fault ?_ (by with_reducible assumption)
    | (intro _; intros; try dsimp only) | split | with_reducible apply Keeps.other)

theorem execReduceScatter_keeps {o : Origin} {phys : ReadUpset} {s : State} : ∃ t, execReduceScatter o phys s = .next t ∧ Keeps s t := by
  refine ⟨_, rfl, ?_⟩
  have hbase := Keeps.refl s
  try dsimp only
  repeat' (first
    | with_reducible assumption | with_reducible apply Keeps.ite | with_reducible apply Keeps.fold | with_reducible apply runBulk_keeps
    | with_reducible apply State.startCollective_keeps | with_reducible apply Run.keeps_done | with_reducible apply Run.keeps_going
    | with_reducible apply Run.keeps_wait | with_reducible apply Run.keeps_fault | with_reducible apply Run.keeps_done
    | with_reducible apply Run.keeps_going | with_reducible apply Run.keeps_wait | with_reducible apply Run.keeps_fault
    | refine Run.of_done ?_ (by with_reducible assumption) | refine Run.of_going ?_ (by with_reducible assumption)
    | refine Run.of_wait ?_ (by with_reducible assumption) | refine Run.of_fault ?_ (by with_reducible assumption)
    | (intro _; intros; try dsimp only) | split | with_reducible apply Keeps.other)

theorem execAllGather_keeps {o : Origin} {phys : ReadUpset} {s : State} : ∃ t, execAllGather o phys s = .next t ∧ Keeps s t := by
  refine ⟨_, rfl, ?_⟩
  have hbase := Keeps.refl s
  try dsimp only
  repeat' (first
    | with_reducible assumption | with_reducible apply Keeps.ite | with_reducible apply Keeps.fold | with_reducible apply runBulk_keeps
    | with_reducible apply State.startCollective_keeps | with_reducible apply Run.keeps_done | with_reducible apply Run.keeps_going
    | with_reducible apply Run.keeps_wait | with_reducible apply Run.keeps_fault | with_reducible apply Run.keeps_done
    | with_reducible apply Run.keeps_going | with_reducible apply Run.keeps_wait | with_reducible apply Run.keeps_fault
    | refine Run.of_done ?_ (by with_reducible assumption) | refine Run.of_going ?_ (by with_reducible assumption)
    | refine Run.of_wait ?_ (by with_reducible assumption) | refine Run.of_fault ?_ (by with_reducible assumption)
    | (intro _; intros; try dsimp only) | split | with_reducible apply Keeps.other)

theorem execBroadcast_keeps {o : Origin} {phys : ReadUpset} {s : State} : ∃ t, execBroadcast o phys s = .next t ∧ Keeps s t := by
  refine ⟨_, rfl, ?_⟩
  have hbase := Keeps.refl s
  try dsimp only
  repeat' (first
    | with_reducible assumption | with_reducible apply Keeps.ite | with_reducible apply Keeps.fold | with_reducible apply runBulk_keeps
    | with_reducible apply State.startCollective_keeps | with_reducible apply Run.keeps_done | with_reducible apply Run.keeps_going
    | with_reducible apply Run.keeps_wait | with_reducible apply Run.keeps_fault | with_reducible apply Run.keeps_done
    | with_reducible apply Run.keeps_going | with_reducible apply Run.keeps_wait | with_reducible apply Run.keeps_fault
    | refine Run.of_done ?_ (by with_reducible assumption) | refine Run.of_going ?_ (by with_reducible assumption)
    | refine Run.of_wait ?_ (by with_reducible assumption) | refine Run.of_fault ?_ (by with_reducible assumption)
    | (intro _; intros; try dsimp only) | split | with_reducible apply Keeps.other)

theorem execAllToAll_keeps {o : Origin} {phys : ReadUpset} {s : State} : ∃ t, execAllToAll o phys s = .next t ∧ Keeps s t := by
  refine ⟨_, rfl, ?_⟩
  have hbase := Keeps.refl s
  try dsimp only
  repeat' (first
    | with_reducible assumption | with_reducible apply Keeps.ite | with_reducible apply Keeps.fold | with_reducible apply runBulk_keeps
    | with_reducible apply State.startCollective_keeps | with_reducible apply Run.keeps_done | with_reducible apply Run.keeps_going
    | with_reducible apply Run.keeps_wait | with_reducible apply Run.keeps_fault | with_reducible apply Run.keeps_done
    | with_reducible apply Run.keeps_going | with_reducible apply Run.keeps_wait | with_reducible apply Run.keeps_fault
    | refine Run.of_done ?_ (by with_reducible assumption) | refine Run.of_going ?_ (by with_reducible assumption)
    | refine Run.of_wait ?_ (by with_reducible assumption) | refine Run.of_fault ?_ (by with_reducible assumption)
    | (intro _; intros; try dsimp only) | split | with_reducible apply Keeps.other)

theorem execBarrier_keeps {o : Origin} {s : State} : ∃ t, execBarrier o s = .next t ∧ Keeps s t := by
  refine ⟨_, rfl, ?_⟩
  have hbase := Keeps.refl s
  try dsimp only
  repeat' (first
    | with_reducible assumption | with_reducible apply Keeps.ite | with_reducible apply Keeps.fold | with_reducible apply State.startCollective_keeps
    | with_reducible apply runBarrier_keeps | with_reducible apply Run.keeps_done | with_reducible apply Run.keeps_going
    | with_reducible apply Run.keeps_wait | with_reducible apply Run.keeps_fault | with_reducible apply Run.keeps_done
    | with_reducible apply Run.keeps_going | with_reducible apply Run.keeps_wait | with_reducible apply Run.keeps_fault
    | refine Run.of_done ?_ (by with_reducible assumption) | refine Run.of_going ?_ (by with_reducible assumption)
    | refine Run.of_wait ?_ (by with_reducible assumption) | refine Run.of_fault ?_ (by with_reducible assumption)
    | (intro _; intros; try dsimp only) | split | with_reducible apply Keeps.other)

theorem execTincan_keeps {o : Origin} {phys : ReadUpset} {s : State} : ∃ t, execTincan o phys s = .next t ∧ Keeps s t := by
  refine ⟨_, rfl, ?_⟩
  have hbase := Keeps.refl s
  try dsimp only
  repeat' (first
    | with_reducible assumption | with_reducible apply Keeps.ite | with_reducible apply Keeps.fold | with_reducible apply State.startCollective_keeps
    | with_reducible apply runTincan_keeps | with_reducible apply Run.keeps_done | with_reducible apply Run.keeps_going
    | with_reducible apply Run.keeps_wait | with_reducible apply Run.keeps_fault | with_reducible apply Run.keeps_done
    | with_reducible apply Run.keeps_going | with_reducible apply Run.keeps_wait | with_reducible apply Run.keeps_fault
    | refine Run.of_done ?_ (by with_reducible assumption) | refine Run.of_going ?_ (by with_reducible assumption)
    | refine Run.of_wait ?_ (by with_reducible assumption) | refine Run.of_fault ?_ (by with_reducible assumption)
    | (intro _; intros; try dsimp only) | split | with_reducible apply Keeps.other)

theorem execFpExchange_keeps {o : Origin} {phys : ReadUpset} {s : State} : ∃ t, execFpExchange o phys s = .next t ∧ Keeps s t := by
  refine ⟨_, rfl, ?_⟩
  have hbase := Keeps.refl s
  try dsimp only
  repeat' (first
    | with_reducible assumption | with_reducible apply Keeps.ite | with_reducible apply Keeps.fold | with_reducible apply State.startCollective_keeps
    | with_reducible apply runFpExchange_keeps | with_reducible apply Run.keeps_done | with_reducible apply Run.keeps_going
    | with_reducible apply Run.keeps_wait | with_reducible apply Run.keeps_fault | with_reducible apply Run.keeps_done
    | with_reducible apply Run.keeps_going | with_reducible apply Run.keeps_wait | with_reducible apply Run.keeps_fault
    | refine Run.of_done ?_ (by with_reducible assumption) | refine Run.of_going ?_ (by with_reducible assumption)
    | refine Run.of_wait ?_ (by with_reducible assumption) | refine Run.of_fault ?_ (by with_reducible assumption)
    | (intro _; intros; try dsimp only) | split | with_reducible apply Keeps.other)

theorem execCopy_keeps {o : Origin} {u : Upset} {bad : Option (Nat × Nat)} {s : State} : ∃ t, execCopy o u bad s = .next t ∧ Keeps s t := by
  refine ⟨_, rfl, ?_⟩
  have hbase := Keeps.refl s
  try dsimp only
  repeat' (first
    | with_reducible assumption | with_reducible apply Keeps.ite | with_reducible apply Keeps.fold | with_reducible apply runCopy_keeps
    | with_reducible apply State.jigCmd_keeps | with_reducible apply Run.keeps_done | with_reducible apply Run.keeps_going
    | with_reducible apply Run.keeps_wait | with_reducible apply Run.keeps_fault | with_reducible apply Run.keeps_done
    | with_reducible apply Run.keeps_going | with_reducible apply Run.keeps_wait | with_reducible apply Run.keeps_fault
    | refine Run.of_done ?_ (by with_reducible assumption) | refine Run.of_going ?_ (by with_reducible assumption)
    | refine Run.of_wait ?_ (by with_reducible assumption) | refine Run.of_fault ?_ (by with_reducible assumption)
    | (intro _; intros; try dsimp only) | split | with_reducible apply Keeps.other)

theorem execEncode_keeps {o : Origin} {u : Upset} {bad : Option (Nat × Nat)} {s : State} : ∃ t, execEncode o u bad s = .next t ∧ Keeps s t := by
  refine ⟨_, rfl, ?_⟩
  have hbase := Keeps.refl s
  try dsimp only
  repeat' (first
    | with_reducible assumption | with_reducible apply Keeps.ite | with_reducible apply Keeps.fold | with_reducible apply runShards_keeps
    | with_reducible apply State.jigCmd_keeps | with_reducible apply Run.keeps_done | with_reducible apply Run.keeps_going
    | with_reducible apply Run.keeps_wait | with_reducible apply Run.keeps_fault | with_reducible apply Run.keeps_done
    | with_reducible apply Run.keeps_going | with_reducible apply Run.keeps_wait | with_reducible apply Run.keeps_fault
    | refine Run.of_done ?_ (by with_reducible assumption) | refine Run.of_going ?_ (by with_reducible assumption)
    | refine Run.of_wait ?_ (by with_reducible assumption) | refine Run.of_fault ?_ (by with_reducible assumption)
    | (intro _; intros; try dsimp only) | split | with_reducible apply Keeps.other)

theorem execDecode_keeps {o : Origin} {u : Upset} {bad : Option (Nat × Nat)} {s : State} : ∃ t, execDecode o u bad s = .next t ∧ Keeps s t := by
  refine ⟨_, rfl, ?_⟩
  have hbase := Keeps.refl s
  try dsimp only
  repeat' (first
    | with_reducible assumption | with_reducible apply Keeps.ite | with_reducible apply Keeps.fold | with_reducible apply runShards_keeps
    | with_reducible apply State.jigCmd_keeps | with_reducible apply Run.keeps_done | with_reducible apply Run.keeps_going
    | with_reducible apply Run.keeps_wait | with_reducible apply Run.keeps_fault | with_reducible apply Run.keeps_done
    | with_reducible apply Run.keeps_going | with_reducible apply Run.keeps_wait | with_reducible apply Run.keeps_fault
    | refine Run.of_done ?_ (by with_reducible assumption) | refine Run.of_going ?_ (by with_reducible assumption)
    | refine Run.of_wait ?_ (by with_reducible assumption) | refine Run.of_fault ?_ (by with_reducible assumption)
    | (intro _; intros; try dsimp only) | split | with_reducible apply Keeps.other)

theorem execVerify_keeps {o : Origin} {u : Upset} {bad : Option (Nat × Nat)} {s : State} : ∃ t, execVerify o u bad s = .next t ∧ Keeps s t := by
  refine ⟨_, rfl, ?_⟩
  have hbase := Keeps.refl s
  try dsimp only
  repeat' (first
    | with_reducible assumption | with_reducible apply Keeps.ite | with_reducible apply Keeps.fold | with_reducible apply runShards_keeps
    | with_reducible apply State.jigCmd_keeps | with_reducible apply Run.keeps_done | with_reducible apply Run.keeps_going
    | with_reducible apply Run.keeps_wait | with_reducible apply Run.keeps_fault | with_reducible apply Run.keeps_done
    | with_reducible apply Run.keeps_going | with_reducible apply Run.keeps_wait | with_reducible apply Run.keeps_fault
    | refine Run.of_done ?_ (by with_reducible assumption) | refine Run.of_going ?_ (by with_reducible assumption)
    | refine Run.of_wait ?_ (by with_reducible assumption) | refine Run.of_fault ?_ (by with_reducible assumption)
    | (intro _; intros; try dsimp only) | split | with_reducible apply Keeps.other)

theorem execStash_keeps {o : Origin} {u : Upset} {s : State} : ∃ t, execStash o u s = .next t ∧ Keeps s t := by
  refine ⟨_, rfl, ?_⟩
  have hbase := Keeps.refl s
  try dsimp only
  repeat' (first
    | with_reducible assumption | with_reducible apply Keeps.ite | with_reducible apply Keeps.fold | with_reducible apply runStash_keeps
    | with_reducible apply State.yoCmd_keeps | with_reducible apply Run.keeps_done | with_reducible apply Run.keeps_going
    | with_reducible apply Run.keeps_wait | with_reducible apply Run.keeps_fault | with_reducible apply Run.keeps_done
    | with_reducible apply Run.keeps_going | with_reducible apply Run.keeps_wait | with_reducible apply Run.keeps_fault
    | refine Run.of_done ?_ (by with_reducible assumption) | refine Run.of_going ?_ (by with_reducible assumption)
    | refine Run.of_wait ?_ (by with_reducible assumption) | refine Run.of_fault ?_ (by with_reducible assumption)
    | (intro _; intros; try dsimp only) | split | with_reducible apply Keeps.other)

theorem execRecall_keeps {o : Origin} {u : Upset} {s : State} : ∃ t, execRecall o u s = .next t ∧ Keeps s t := by
  refine ⟨_, rfl, ?_⟩
  have hbase := Keeps.refl s
  try dsimp only
  repeat' (first
    | with_reducible assumption | with_reducible apply Keeps.ite | with_reducible apply Keeps.fold | with_reducible apply State.yoCmd_keeps
    | with_reducible apply runRecall_keeps | with_reducible apply Run.keeps_done | with_reducible apply Run.keeps_going
    | with_reducible apply Run.keeps_wait | with_reducible apply Run.keeps_fault | with_reducible apply Run.keeps_done
    | with_reducible apply Run.keeps_going | with_reducible apply Run.keeps_wait | with_reducible apply Run.keeps_fault
    | refine Run.of_done ?_ (by with_reducible assumption) | refine Run.of_going ?_ (by with_reducible assumption)
    | refine Run.of_wait ?_ (by with_reducible assumption) | refine Run.of_fault ?_ (by with_reducible assumption)
    | (intro _; intros; try dsimp only) | split | with_reducible apply Keeps.other)

theorem execRelease_keeps {o : Origin} {u : Upset} {s : State} : ∃ t, execRelease o u s = .next t ∧ Keeps s t := by
  refine ⟨_, rfl, ?_⟩
  have hbase := Keeps.refl s
  try dsimp only
  repeat' (first
    | with_reducible assumption | with_reducible apply Keeps.ite | with_reducible apply Keeps.fold | with_reducible apply State.yoCmd_keeps
    | with_reducible apply runRelease_keeps | with_reducible apply Run.keeps_done | with_reducible apply Run.keeps_going
    | with_reducible apply Run.keeps_wait | with_reducible apply Run.keeps_fault | with_reducible apply Run.keeps_done
    | with_reducible apply Run.keeps_going | with_reducible apply Run.keeps_wait | with_reducible apply Run.keeps_fault
    | refine Run.of_done ?_ (by with_reducible assumption) | refine Run.of_going ?_ (by with_reducible assumption)
    | refine Run.of_wait ?_ (by with_reducible assumption) | refine Run.of_fault ?_ (by with_reducible assumption)
    | (intro _; intros; try dsimp only) | split | with_reducible apply Keeps.other)

theorem execGroupRows_keeps {o : Origin} {u : Upset} {s : State} : ∃ t, execGroupRows o u s = .next t ∧ Keeps s t := by
  refine ⟨_, rfl, ?_⟩
  have hbase := Keeps.refl s
  try dsimp only
  repeat' (first
    | with_reducible assumption | with_reducible apply Keeps.ite | with_reducible apply Keeps.fold | with_reducible apply State.yoCmd_keeps
    | with_reducible apply runGroupRows_keeps | with_reducible apply Run.keeps_done | with_reducible apply Run.keeps_going
    | with_reducible apply Run.keeps_wait | with_reducible apply Run.keeps_fault | with_reducible apply Run.keeps_done
    | with_reducible apply Run.keeps_going | with_reducible apply Run.keeps_wait | with_reducible apply Run.keeps_fault
    | refine Run.of_done ?_ (by with_reducible assumption) | refine Run.of_going ?_ (by with_reducible assumption)
    | refine Run.of_wait ?_ (by with_reducible assumption) | refine Run.of_fault ?_ (by with_reducible assumption)
    | (intro _; intros; try dsimp only) | split | with_reducible apply Keeps.other)

theorem execSnapshot_keeps {o : Origin} {s : State} : ∃ t, execSnapshot o s = .next t ∧ Keeps s t := by
  refine ⟨_, rfl, ?_⟩
  have hbase := Keeps.refl s
  try dsimp only
  repeat' (first
    | with_reducible assumption | with_reducible apply Keeps.ite | with_reducible apply Keeps.fold | with_reducible apply State.startPlain_keeps
    | with_reducible apply Run.keeps_done | with_reducible apply Run.keeps_going | with_reducible apply Run.keeps_wait
    | with_reducible apply Run.keeps_fault | (intro _; intros; try dsimp only) | split | with_reducible apply Keeps.other)

theorem execChunkLeft_keeps {p : Fin 4} {phys : ReadUpset} {s : State} : ∃ t, execChunkLeft p phys s = .next t ∧ Keeps s t := by
  refine ⟨_, rfl, ?_⟩
  have hbase := Keeps.refl s
  try dsimp only
  repeat' (first
    | with_reducible assumption | with_reducible apply Keeps.ite | with_reducible apply Keeps.fold | with_reducible apply chunkLeft_keeps
    | (intro _; intros; try dsimp only) | split | with_reducible apply Keeps.other)

theorem execSnapshotFinish_keeps {p : Fin 4} {s : State} : ∃ t, execSnapshotFinish p s = .next t ∧ Keeps s t := by
  refine ⟨_, rfl, ?_⟩
  have hbase := Keeps.refl s
  try dsimp only
  repeat' (first
    | with_reducible assumption | with_reducible apply Keeps.ite | with_reducible apply Keeps.fold | with_reducible apply snapshotFinish_keeps
    | (intro _; intros; try dsimp only) | split | with_reducible apply Keeps.other)

theorem execAlloc_keeps {o : Origin} {s : State} : ∃ t, execAlloc o s = .next t ∧ Keeps s t := by
  refine ⟨_, rfl, State.startPlain_keeps (Keeps.refl s) fun x y h => ?_⟩
  with_reducible exact runAlloc_keeps h

theorem execFree_keeps {o : Origin} {s : State} : ∃ t, execFree o s = .next t ∧ Keeps s t := by
  refine ⟨_, rfl, ?_⟩
  have hbase := Keeps.refl s
  try dsimp only
  repeat' (first
    | with_reducible assumption | with_reducible apply Keeps.ite | with_reducible apply Keeps.fold | with_reducible apply State.startPlain_keeps
    | with_reducible apply runFree_keeps | with_reducible apply Run.keeps_done | with_reducible apply Run.keeps_going
    | with_reducible apply Run.keeps_wait | with_reducible apply Run.keeps_fault | with_reducible apply Run.keeps_done
    | with_reducible apply Run.keeps_going | with_reducible apply Run.keeps_wait | with_reducible apply Run.keeps_fault
    | refine Run.of_done ?_ (by with_reducible assumption) | refine Run.of_going ?_ (by with_reducible assumption)
    | refine Run.of_wait ?_ (by with_reducible assumption) | refine Run.of_fault ?_ (by with_reducible assumption)
    | (intro _; intros; try dsimp only) | split | with_reducible apply Keeps.other)

theorem execDrop_keeps {o : Origin} {s : State} : ∃ t, execDrop o s = .next t ∧ Keeps s t := by
  refine ⟨_, rfl, ?_⟩
  have hbase := Keeps.refl s
  try dsimp only
  repeat' (first
    | with_reducible assumption | with_reducible apply Keeps.ite | with_reducible apply Keeps.fold | with_reducible apply State.startPlain_keeps
    | with_reducible apply runDrop_keeps | with_reducible apply Run.keeps_done | with_reducible apply Run.keeps_going
    | with_reducible apply Run.keeps_wait | with_reducible apply Run.keeps_fault | with_reducible apply Run.keeps_done
    | with_reducible apply Run.keeps_going | with_reducible apply Run.keeps_wait | with_reducible apply Run.keeps_fault
    | refine Run.of_done ?_ (by with_reducible assumption) | refine Run.of_going ?_ (by with_reducible assumption)
    | refine Run.of_wait ?_ (by with_reducible assumption) | refine Run.of_fault ?_ (by with_reducible assumption)
    | (intro _; intros; try dsimp only) | split | with_reducible apply Keeps.other)

theorem execTakeNow_keeps {o : Origin} {s : State} : ∃ t, execTakeNow o s = .next t ∧ Keeps s t := by
  refine ⟨_, rfl, ?_⟩
  have hbase := Keeps.refl s
  try dsimp only
  repeat' (first
    | with_reducible assumption | with_reducible apply Keeps.ite | with_reducible apply Keeps.fold | with_reducible apply State.startPlain_keeps
    | with_reducible apply runTakeNow_keeps | with_reducible apply Run.keeps_done | with_reducible apply Run.keeps_going
    | with_reducible apply Run.keeps_wait | with_reducible apply Run.keeps_fault | with_reducible apply Run.keeps_done
    | with_reducible apply Run.keeps_going | with_reducible apply Run.keeps_wait | with_reducible apply Run.keeps_fault
    | refine Run.of_done ?_ (by with_reducible assumption) | refine Run.of_going ?_ (by with_reducible assumption)
    | refine Run.of_wait ?_ (by with_reducible assumption) | refine Run.of_fault ?_ (by with_reducible assumption)
    | (intro _; intros; try dsimp only) | split | with_reducible apply Keeps.other)

theorem execPeek_keeps {o : Origin} {s : State} : ∃ t, execPeek o s = .next t ∧ Keeps s t := by
  refine ⟨_, rfl, ?_⟩
  have hbase := Keeps.refl s
  try dsimp only
  repeat' (first
    | with_reducible assumption | with_reducible apply Keeps.ite | with_reducible apply Keeps.fold | with_reducible apply State.startPlain_keeps
    | with_reducible apply runPeek_keeps | with_reducible apply Run.keeps_done | with_reducible apply Run.keeps_going
    | with_reducible apply Run.keeps_wait | with_reducible apply Run.keeps_fault | with_reducible apply Run.keeps_done
    | with_reducible apply Run.keeps_going | with_reducible apply Run.keeps_wait | with_reducible apply Run.keeps_fault
    | refine Run.of_done ?_ (by with_reducible assumption) | refine Run.of_going ?_ (by with_reducible assumption)
    | refine Run.of_wait ?_ (by with_reducible assumption) | refine Run.of_fault ?_ (by with_reducible assumption)
    | (intro _; intros; try dsimp only) | split | with_reducible apply Keeps.other)

theorem execRdrop_keeps {o : Origin} {s : State} : ∃ t, execRdrop o s = .next t ∧ Keeps s t := by
  refine ⟨_, rfl, ?_⟩
  have hbase := Keeps.refl s
  try dsimp only
  repeat' (first
    | with_reducible assumption | with_reducible apply Keeps.ite | with_reducible apply Keeps.fold | with_reducible apply State.startPlain_keeps
    | with_reducible apply runRdrop_keeps | with_reducible apply Run.keeps_done | with_reducible apply Run.keeps_going
    | with_reducible apply Run.keeps_wait | with_reducible apply Run.keeps_fault | with_reducible apply Run.keeps_done
    | with_reducible apply Run.keeps_going | with_reducible apply Run.keeps_wait | with_reducible apply Run.keeps_fault
    | refine Run.of_done ?_ (by with_reducible assumption) | refine Run.of_going ?_ (by with_reducible assumption)
    | refine Run.of_wait ?_ (by with_reducible assumption) | refine Run.of_fault ?_ (by with_reducible assumption)
    | (intro _; intros; try dsimp only) | split | with_reducible apply Keeps.other)

theorem execDescFetch_keeps {n : Fin 256} {phys : ReadUpset} {s : State} : ∃ t, execDescFetch n phys s = .next t ∧ Keeps s t := by
  refine ⟨_, rfl, ?_⟩
  have hbase := Keeps.refl s
  try dsimp only
  repeat' (first
    | with_reducible assumption | with_reducible apply Keeps.ite | with_reducible apply Keeps.fold | with_reducible apply descFetch_keeps
    | (intro _; intros; try dsimp only) | split | with_reducible apply Keeps.other)

theorem execProgramLaunch_keeps {o : Origin} {s : State} : ∃ t, execProgramLaunch o s = .next t ∧ Keeps s t := by
  refine ⟨_, rfl, ?_⟩
  have hbase := Keeps.refl s
  try dsimp only
  repeat' (first
    | with_reducible assumption | with_reducible apply Keeps.ite | with_reducible apply Keeps.fold | with_reducible apply programLaunch_keeps
    | (intro _; intros; try dsimp only) | split | with_reducible apply Keeps.other)

theorem execResync_keeps {o : Origin} {s : State} : ∃ t, execResync o s = .next t ∧ Keeps s t := by
  refine ⟨_, rfl, ?_⟩
  have hbase := Keeps.refl s
  try dsimp only
  repeat' (first
    | with_reducible assumption | with_reducible apply Keeps.ite | with_reducible apply Keeps.fold | with_reducible apply State.startPlain_keeps
    | with_reducible apply Run.keeps_done | with_reducible apply Run.keeps_going | with_reducible apply Run.keeps_wait
    | with_reducible apply Run.keeps_fault | (intro _; intros; try dsimp only) | split | with_reducible apply Keeps.other)

theorem execDoorbell_keeps {n : Fin 256} {value : Nat} {s : State} : ∃ t, execDoorbell n value s = .next t ∧ Keeps s t := by
  refine ⟨_, rfl, ?_⟩
  have hbase := Keeps.refl s
  try dsimp only
  repeat' (first
    | with_reducible assumption | with_reducible apply Keeps.ite | with_reducible apply Keeps.fold | with_reducible apply doorbell_keeps
    | (intro _; intros; try dsimp only) | split | with_reducible apply Keeps.other)

theorem execCompletionHeadWrite_keeps {n : Fin 256} {value : Nat} {s : State} : ∃ t, execCompletionHeadWrite n value s = .next t ∧ Keeps s t := by
  refine ⟨_, rfl, ?_⟩
  have hbase := Keeps.refl s
  try dsimp only
  repeat' (first
    | with_reducible assumption | with_reducible apply Keeps.ite | with_reducible apply Keeps.fold | with_reducible apply completionHead_keeps
    | (intro _; intros; try dsimp only) | split | with_reducible apply Keeps.other)

theorem execRingEnable_keeps {n : Fin 256} {on : Bool} {s : State} : ∃ t, execRingEnable n on s = .next t ∧ Keeps s t := by
  refine ⟨_, rfl, ?_⟩
  have hbase := Keeps.refl s
  try dsimp only
  repeat' (first
    | with_reducible assumption | with_reducible apply Keeps.ite | with_reducible apply Keeps.fold | with_reducible apply ringEnable_keeps
    | (intro _; intros; try dsimp only) | split | with_reducible apply Keeps.other)

theorem execRailPoll_keeps {reads : List (Option (Nat × Nat))} {act : List (List (Nat × List (Nat × Nat)))} {s : State} : ∃ t, execRailPoll reads act s = .next t ∧ Keeps s t := by
  refine ⟨_, rfl, ?_⟩
  have hbase := Keeps.refl s
  try dsimp only
  repeat' (first
    | with_reducible assumption | with_reducible apply Keeps.ite | with_reducible apply Keeps.fold | with_reducible apply railPoll_keeps
    | (intro _; intros; try dsimp only) | split | with_reducible apply Keeps.other)

theorem execSensorRead_keeps {dies : List (Nat × Nat)} {hub : Nat} {s : State} : ∃ t, execSensorRead dies hub s = .next t ∧ Keeps s t := by
  refine ⟨_, rfl, ?_⟩
  have hbase := Keeps.refl s
  try dsimp only
  repeat' (first
    | with_reducible assumption | with_reducible apply Keeps.ite | with_reducible apply Keeps.fold | with_reducible apply sensorRead_keeps
    | (intro _; intros; try dsimp only) | split | with_reducible apply Keeps.other)

theorem execHbmTempRead_keeps {temps : List Nat} {s : State} : ∃ t, execHbmTempRead temps s = .next t ∧ Keeps s t := by
  refine ⟨_, rfl, ?_⟩
  have hbase := Keeps.refl s
  try dsimp only
  repeat' (first
    | with_reducible assumption | with_reducible apply Keeps.ite | with_reducible apply Keeps.fold | with_reducible apply hbmTempRead_keeps
    | (intro _; intros; try dsimp only) | split | with_reducible apply Keeps.other)

theorem execDroop_keeps {r : Fin 4} {cycles : Nat} {s : State} : ∃ t, execDroop r cycles s = .next t ∧ Keeps s t := by
  refine ⟨_, rfl, ?_⟩
  have hbase := Keeps.refl s
  try dsimp only
  repeat' (first
    | with_reducible assumption | with_reducible apply Keeps.ite | with_reducible apply Keeps.fold | with_reducible apply State.fadd_keeps
    | with_reducible apply State.accAdd_keeps | (intro _; intros; try dsimp only) | split | with_reducible apply Keeps.other)

theorem execThermalTrip_keeps {s : State} : ∃ t, execThermalTrip s = .next t ∧ Keeps s t := by
  refine ⟨_, rfl, ?_⟩
  have hbase := Keeps.refl s
  try dsimp only
  repeat' (first
    | with_reducible assumption | with_reducible apply Keeps.ite | with_reducible apply Keeps.fold | with_reducible apply State.deviceFatal_keeps
    | (intro _; intros; try dsimp only) | split | with_reducible apply Keeps.other)

theorem execScrubRead_keeps {m : Fin 12} {errs : List (Nat × Byte)} {s : State} : ∃ t, execScrubRead m errs s = .next t ∧ Keeps s t := by
  refine ⟨_, rfl, ?_⟩
  have hbase := Keeps.refl s
  try dsimp only
  repeat' (first
    | with_reducible assumption | with_reducible apply Keeps.ite | with_reducible apply Keeps.fold | with_reducible apply scrubRead_keeps
    | (intro _; intros; try dsimp only) | split | with_reducible apply Keeps.other)

theorem execRecalDue_keeps {m : Fin 12} {s : State} : ∃ t, execRecalDue m s = .next t ∧ Keeps s t := by
  refine ⟨_, rfl, ?_⟩
  have hbase := Keeps.refl s
  try dsimp only
  repeat' (first
    | with_reducible assumption | with_reducible apply Keeps.ite | with_reducible apply Keeps.fold | with_reducible apply recalDue_keeps
    | (intro _; intros; try dsimp only) | split | with_reducible apply Keeps.other)

theorem execVisitStart_keeps {m : Fin 12} {s : State} : ∃ t, execVisitStart m s = .next t ∧ Keeps s t := by
  refine ⟨_, rfl, ?_⟩
  have hbase := Keeps.refl s
  try dsimp only
  repeat' (first
    | with_reducible assumption | with_reducible apply Keeps.ite | with_reducible apply Keeps.fold | with_reducible apply visitStart_keeps
    | (intro _; intros; try dsimp only) | split | with_reducible apply Keeps.other)

theorem execVisitEnd_keeps {m : Fin 12} {ok spare : Bool} {s : State} : ∃ t, execVisitEnd m ok spare s = .next t ∧ Keeps s t := by
  refine ⟨_, rfl, ?_⟩
  have hbase := Keeps.refl s
  try dsimp only
  repeat' (first
    | with_reducible assumption | with_reducible apply Keeps.ite | with_reducible apply Keeps.fold | with_reducible apply visitEnd_keeps
    | (intro _; intros; try dsimp only) | split | with_reducible apply Keeps.other)

theorem execFirstBeat_keeps {p : Fin 4} {ann : FirstBeatAnn} {s : State} : ∃ t, execFirstBeat p ann s = .next t ∧ Keeps s t := by
  refine ⟨_, rfl, ?_⟩
  have hbase := Keeps.refl s
  try dsimp only
  repeat' (first
    | with_reducible assumption | with_reducible apply Keeps.ite | with_reducible apply Keeps.fold | with_reducible apply firstBeat_keeps
    | (intro _; intros; try dsimp only) | split | with_reducible apply Keeps.other)

theorem execMemberClose_keeps {p : Fin 4} {lateNs : Nat} {stalls : List Nat} {s : State} : ∃ t, execMemberClose p lateNs stalls s = .next t ∧ Keeps s t := by
  refine ⟨_, rfl, ?_⟩
  have hbase := Keeps.refl s
  try dsimp only
  repeat' (first
    | with_reducible assumption | with_reducible apply Keeps.ite | with_reducible apply Keeps.fold | with_reducible apply memberClose_keeps
    | (intro _; intros; try dsimp only) | split | with_reducible apply Keeps.other)

theorem execBeatBoundary_keeps {p : Fin 4} {counts : List (Nat × Nat)} {s : State} : ∃ t, execBeatBoundary p counts s = .next t ∧ Keeps s t := by
  refine ⟨_, rfl, ?_⟩
  have hbase := Keeps.refl s
  try dsimp only
  repeat' (first
    | with_reducible assumption | with_reducible apply Keeps.ite | with_reducible apply Keeps.fold | with_reducible apply beatBoundary_keeps
    | (intro _; intros; try dsimp only) | split | with_reducible apply Keeps.other)

theorem execSealCandidate_keeps {p : Fin 4} {value : Nat} {s : State} : ∃ t, execSealCandidate p value s = .next t ∧ Keeps s t := by
  refine ⟨_, rfl, ?_⟩
  have hbase := Keeps.refl s
  try dsimp only
  repeat' (first
    | with_reducible assumption | with_reducible apply Keeps.ite | with_reducible apply Keeps.fold | with_reducible apply sealCandidate_keeps
    | (intro _; intros; try dsimp only) | split | with_reducible apply Keeps.other)

theorem execIsolateDie_keeps {d : Fin 4} {s : State} : ∃ t, execIsolateDie d s = .next t ∧ Keeps s t := by
  refine ⟨_, rfl, ?_⟩
  have hbase := Keeps.refl s
  try dsimp only
  repeat' (first
    | with_reducible assumption | with_reducible apply Keeps.ite | with_reducible apply Keeps.fold | with_reducible apply State.isolate_keeps
    | (intro _; intros; try dsimp only) | split | with_reducible apply Keeps.other)

theorem execD2dRetry_keeps {m : DieLink} {inRow inSecond : Nat} {s : State} : ∃ t, execD2dRetry m inRow inSecond s = .next t ∧ Keeps s t := by
  refine ⟨_, rfl, ?_⟩
  have hbase := Keeps.refl s
  try dsimp only
  repeat' (first
    | with_reducible assumption | with_reducible apply Keeps.ite | with_reducible apply Keeps.fold | with_reducible apply d2dRetry_keeps
    | (intro _; intros; try dsimp only) | split | with_reducible apply Keeps.other)

theorem execModuleRetrainEnd_keeps {m : DieLink} {ok : Bool} {s : State} : ∃ t, execModuleRetrainEnd m ok s = .next t ∧ Keeps s t := by
  refine ⟨_, rfl, ?_⟩
  have hbase := Keeps.refl s
  try dsimp only
  repeat' (first
    | with_reducible assumption | with_reducible apply Keeps.ite | with_reducible apply Keeps.fold | with_reducible apply moduleRetrainEnd_keeps
    | (intro _; intros; try dsimp only) | split | with_reducible apply Keeps.other)

theorem execStart_keeps {p : Fin 4} {bad : List (Fin 4)} {s : State} : ∃ t, execStart p bad s = .next t ∧ Keeps s t := by
  refine ⟨_, rfl, ?_⟩
  have hbase := Keeps.refl s
  try dsimp only
  repeat' (first
    | with_reducible assumption | with_reducible apply Keeps.ite | with_reducible apply Keeps.fold | with_reducible apply start_keeps
    | (intro _; intros; try dsimp only) | split | with_reducible apply Keeps.other)

theorem execSuiteEnd_keeps {r : Fin 4} {core : Nat} {outs : List (List Byte)} {s : State} : ∃ t, execSuiteEnd r core outs s = .next t ∧ Keeps s t := by
  refine ⟨_, rfl, ?_⟩
  have hbase := Keeps.refl s
  try dsimp only
  repeat' (first
    | with_reducible assumption | with_reducible apply Keeps.ite | with_reducible apply Keeps.fold | with_reducible apply suiteEnd_keeps
    | (intro _; intros; try dsimp only) | split | with_reducible apply Keeps.other)

theorem execClear_keeps {p : Fin 4} {s : State} : ∃ t, execClear p s = .next t ∧ Keeps s t := by
  refine ⟨_, rfl, ?_⟩
  have hbase := Keeps.refl s
  try dsimp only
  repeat' (first
    | with_reducible assumption | with_reducible apply Keeps.ite | with_reducible apply Keeps.fold | with_reducible apply clear_keeps
    | (intro _; intros; try dsimp only) | split | with_reducible apply Keeps.other)

theorem execSave_keeps {p : Fin 4} {addr : Nat} {s : State} : ∃ t, execSave p addr s = .next t ∧ Keeps s t := by
  refine ⟨_, rfl, ?_⟩
  have hbase := Keeps.refl s
  try dsimp only
  repeat' (first
    | with_reducible assumption | with_reducible apply Keeps.ite | with_reducible apply Keeps.fold | with_reducible apply State.ctxBegin_keeps
    | (intro _; intros; try dsimp only) | split | with_reducible apply Keeps.other)

theorem execRestore_keeps {p : Fin 4} {addr : Nat} {s : State} : ∃ t, execRestore p addr s = .next t ∧ Keeps s t := by
  refine ⟨_, rfl, ?_⟩
  have hbase := Keeps.refl s
  try dsimp only
  repeat' (first
    | with_reducible assumption | with_reducible apply Keeps.ite | with_reducible apply Keeps.fold | with_reducible apply State.ctxBegin_keeps
    | (intro _; intros; try dsimp only) | split | with_reducible apply Keeps.other)

theorem execEmpty_keeps {p : Fin 4} {addr : Nat} {s : State} : ∃ t, execEmpty p addr s = .next t ∧ Keeps s t := by
  refine ⟨_, rfl, ?_⟩
  have hbase := Keeps.refl s
  try dsimp only
  repeat' (first
    | with_reducible assumption | with_reducible apply Keeps.ite | with_reducible apply Keeps.fold | with_reducible apply State.ctxBegin_keeps
    | (intro _; intros; try dsimp only) | split | with_reducible apply Keeps.other)

theorem execContextDone_keeps {p : Fin 4} {phys : ReadUpset} {s : State} : ∃ t, execContextDone p phys s = .next t ∧ Keeps s t := by
  refine ⟨_, rfl, ?_⟩
  have hbase := Keeps.refl s
  try dsimp only
  repeat' (first
    | with_reducible assumption | with_reducible apply Keeps.ite | with_reducible apply Keeps.fold | with_reducible apply contextDone_keeps
    | (intro _; intros; try dsimp only) | split | with_reducible apply Keeps.other)

theorem execCaps_keeps {data : List Byte} {h : GlkHead} {s : State} : ∃ t, execCaps data h s = .next t ∧ Keeps s t := by
  refine ⟨_, rfl, ?_⟩
  have hbase := Keeps.refl s
  try dsimp only
  repeat' (first
    | with_reducible assumption | with_reducible apply Keeps.ite | with_reducible apply Keeps.fold | with_reducible apply capsIn_keeps
    | (intro _; intros; try dsimp only) | split | with_reducible apply Keeps.other)

theorem execCreditInit_keeps {lanes : Nat} {credits : List Nat} {h : GlkHead} {s : State} : ∃ t, execCreditInit lanes credits h s = .next t ∧ Keeps s t := by
  refine ⟨_, rfl, ?_⟩
  have hbase := Keeps.refl s
  try dsimp only
  repeat' (first
    | with_reducible assumption | with_reducible apply Keeps.ite | with_reducible apply Keeps.fold | with_reducible apply creditInit_keeps
    | (intro _; intros; try dsimp only) | split | with_reducible apply Keeps.other)

theorem execGlkTrainingTimeout_keeps {s : State} : ∃ t, execGlkTrainingTimeout s = .next t ∧ Keeps s t := by
  refine ⟨_, rfl, ?_⟩
  have hbase := Keeps.refl s
  try dsimp only
  repeat' (first
    | with_reducible assumption | with_reducible apply Keeps.ite | with_reducible apply Keeps.fold | with_reducible apply State.glkTrainFail_keeps
    | (intro _; intros; try dsimp only) | split | with_reducible apply Keeps.other)

theorem execDownNotice_keeps {h : GlkHead} {s : State} : ∃ t, execDownNotice h s = .next t ∧ Keeps s t := by
  refine ⟨_, rfl, ?_⟩
  have hbase := Keeps.refl s
  try dsimp only
  repeat' (first
    | with_reducible assumption | with_reducible apply Keeps.ite | with_reducible apply Keeps.fold | with_reducible apply downNotice_keeps
    | (intro _; intros; try dsimp only) | split | with_reducible apply Keeps.other)

theorem execEcho_keeps {data : List Byte} {h : GlkHead} {s : State} : ∃ t, execEcho data h s = .next t ∧ Keeps s t := by
  refine ⟨_, rfl, ?_⟩
  have hbase := Keeps.refl s
  try dsimp only
  repeat' (first
    | with_reducible assumption | with_reducible apply Keeps.ite | with_reducible apply Keeps.fold | with_reducible apply echo_keeps
    | (intro _; intros; try dsimp only) | split | with_reducible apply Keeps.other)

theorem execMboxWord_keeps {c word : Nat} {h : GlkHead} {s : State} : ∃ t, execMboxWord c word h s = .next t ∧ Keeps s t := by
  refine ⟨_, rfl, ?_⟩
  have hbase := Keeps.refl s
  try dsimp only
  repeat' (first
    | with_reducible assumption | with_reducible apply Keeps.ite | with_reducible apply Keeps.fold | with_reducible apply mboxWord_keeps
    | (intro _; intros; try dsimp only) | split | with_reducible apply Keeps.other)

theorem execGlkRetrain_keeps {s : State} : ∃ t, execGlkRetrain s = .next t ∧ Keeps s t := by
  refine ⟨_, rfl, ?_⟩
  have hbase := Keeps.refl s
  try dsimp only
  repeat' (first
    | with_reducible assumption | with_reducible apply Keeps.ite | with_reducible apply Keeps.fold | with_reducible apply glkRetrainNow_keeps
    | (intro _; intros; try dsimp only) | split | with_reducible apply Keeps.other)

theorem execGlkRetrainEnd_keeps {ok : Bool} {s : State} : ∃ t, execGlkRetrainEnd ok s = .next t ∧ Keeps s t := by
  refine ⟨_, rfl, ?_⟩
  have hbase := Keeps.refl s
  try dsimp only
  repeat' (first
    | with_reducible assumption | with_reducible apply Keeps.ite | with_reducible apply Keeps.fold | with_reducible apply glkRetrainEnd_keeps
    | (intro _; intros; try dsimp only) | split | with_reducible apply Keeps.other)

theorem execGlkFlitDiscard_keeps {c : DiscardCause} {s : State} : ∃ t, execGlkFlitDiscard c s = .next t ∧ Keeps s t := by
  refine ⟨_, rfl, ?_⟩
  have hbase := Keeps.refl s
  try dsimp only
  repeat' (first
    | with_reducible assumption | with_reducible apply Keeps.ite | with_reducible apply Keeps.fold | with_reducible apply glkFlitDiscard_keeps
    | (intro _; intros; try dsimp only) | split | with_reducible apply Keeps.other)

theorem execGlkNak_keeps {ack : Nat} {s : State} : ∃ t, execGlkNak ack s = .next t ∧ Keeps s t := by
  refine ⟨_, rfl, ?_⟩
  have hbase := Keeps.refl s
  try dsimp only
  repeat' (first
    | with_reducible assumption | with_reducible apply Keeps.ite | with_reducible apply Keeps.fold | with_reducible apply glkNak_keeps
    | (intro _; intros; try dsimp only) | split | with_reducible apply Keeps.other)

theorem execGlkLaneLoss_keeps {lanes : Nat} {s : State} : ∃ t, execGlkLaneLoss lanes s = .next t ∧ Keeps s t := by
  refine ⟨_, rfl, ?_⟩
  have hbase := Keeps.refl s
  try dsimp only
  repeat' (first
    | with_reducible assumption | with_reducible apply Keeps.ite | with_reducible apply Keeps.fold | with_reducible apply State.glkLoseLanes_keeps
    | (intro _; intros; try dsimp only) | split | with_reducible apply Keeps.other)

theorem execGlkLaneRecal_keeps {lane : Fin 16} {s : State} : ∃ t, execGlkLaneRecal lane s = .next t ∧ Keeps s t := by
  refine ⟨_, rfl, ?_⟩
  have hbase := Keeps.refl s
  try dsimp only
  repeat' (first
    | with_reducible assumption | with_reducible apply Keeps.ite | with_reducible apply Keeps.fold | with_reducible apply glkLaneRecal_keeps
    | (intro _; intros; try dsimp only) | split | with_reducible apply Keeps.other)

theorem execGlkLaneRecalEnd_keeps {lane : Fin 16} {ok : Bool} {s : State} : ∃ t, execGlkLaneRecalEnd lane ok s = .next t ∧ Keeps s t := by
  refine ⟨_, rfl, ?_⟩
  have hbase := Keeps.refl s
  try dsimp only
  repeat' (first
    | with_reducible assumption | with_reducible apply Keeps.ite | with_reducible apply Keeps.fold | with_reducible apply glkLaneRecalEnd_keeps
    | (intro _; intros; try dsimp only) | split | with_reducible apply Keeps.other)

theorem execSnpInv_keeps {tag addr : Nat} {h : GlkHead} {s : State} : ∃ t, execSnpInv tag addr h s = .next t ∧ Keeps s t := by
  refine ⟨_, rfl, ?_⟩
  have hbase := Keeps.refl s
  try dsimp only
  repeat' (first
    | with_reducible assumption | with_reducible apply Keeps.ite | with_reducible apply Keeps.fold | with_reducible apply snpInv_keeps
    | (intro _; intros; try dsimp only) | split | with_reducible apply Keeps.other)

theorem execGlkData_keeps {tag : Nat} {data : List Byte} {phys : ReadUpset} {h : GlkHead} {s : State} : ∃ t, execGlkData tag data phys h s = .next t ∧ Keeps s t := by
  refine ⟨_, rfl, ?_⟩
  have hbase := Keeps.refl s
  try dsimp only
  repeat' (first
    | with_reducible assumption | with_reducible apply Keeps.ite | with_reducible apply Keeps.fold | with_reducible apply glkData_keeps
    | (intro _; intros; try dsimp only) | split | with_reducible apply Keeps.other)

theorem execWrAck_keeps {tag : Nat} {h : GlkHead} {s : State} : ∃ t, execWrAck tag h s = .next t ∧ Keeps s t := by
  refine ⟨_, rfl, ?_⟩
  have hbase := Keeps.refl s
  try dsimp only
  repeat' (first
    | with_reducible assumption | with_reducible apply Keeps.ite | with_reducible apply Keeps.fold | with_reducible apply wrAck_keeps
    | (intro _; intros; try dsimp only) | split | with_reducible apply Keeps.other)

theorem execGlkErr_keeps {tag reason : Nat} {h : GlkHead} {s : State} : ∃ t, execGlkErr tag reason h s = .next t ∧ Keeps s t := by
  refine ⟨_, rfl, ?_⟩
  have hbase := Keeps.refl s
  try dsimp only
  repeat' (first
    | with_reducible assumption | with_reducible apply Keeps.ite | with_reducible apply Keeps.fold | with_reducible apply glkErr_keeps
    | (intro _; intros; try dsimp only) | split | with_reducible apply Keeps.other)

theorem execGlkTimeout_keeps {tag : Nat} {s : State} : ∃ t, execGlkTimeout tag s = .next t ∧ Keeps s t := by
  refine ⟨_, rfl, ?_⟩
  have hbase := Keeps.refl s
  try dsimp only
  repeat' (first
    | with_reducible assumption | with_reducible apply Keeps.ite | with_reducible apply Keeps.fold | with_reducible apply glkTimeout_keeps
    | (intro _; intros; try dsimp only) | split | with_reducible apply Keeps.other)

theorem execDbell_keeps {n : Fin 256} {value : Nat} {h : GlkHead} {s : State} : ∃ t, execDbell n value h s = .next t ∧ Keeps s t := by
  refine ⟨_, rfl, ?_⟩
  have hbase := Keeps.refl s
  try dsimp only
  repeat' (first
    | with_reducible assumption | with_reducible apply Keeps.ite | with_reducible apply Keeps.fold | with_reducible apply dbell_keeps
    | (intro _; intros; try dsimp only) | split | with_reducible apply Keeps.other)

theorem execReset_keeps {warm : Bool} {s : State} : ∃ t, execReset warm s = .next t ∧ Keeps s t := by
  refine ⟨_, rfl, ?_⟩
  have hbase := Keeps.refl s
  try dsimp only
  repeat' (first
    | with_reducible assumption | with_reducible apply Keeps.ite | with_reducible apply Keeps.fold | with_reducible apply reset_keeps
    | (intro _; intros; try dsimp only) | split | with_reducible apply Keeps.other)

theorem execStartUp_keeps {s : State} : ∃ t, execStartUp s = .next t ∧ Keeps s t := by
  refine ⟨_, rfl, ?_⟩
  have hbase := Keeps.refl s
  try dsimp only
  repeat' (first
    | with_reducible assumption | with_reducible apply Keeps.ite | with_reducible apply Keeps.fold | with_reducible apply startUp_keeps
    | (intro _; intros; try dsimp only) | split | with_reducible apply Keeps.other)

theorem execBootStageEnd_keeps {x : StageEnd} {s : State} : ∃ t, execBootStageEnd x s = .next t ∧ Keeps s t := by
  refine ⟨_, rfl, ?_⟩
  have hbase := Keeps.refl s
  try dsimp only
  repeat' (first
    | with_reducible assumption | with_reducible apply Keeps.ite | with_reducible apply Keeps.fold | with_reducible apply bootStageEnd_keeps
    | (intro _; intros; try dsimp only) | split | with_reducible apply Keeps.other)

theorem execPhaseEnd_keeps {x : PhaseEnd} {s : State} : ∃ t, execPhaseEnd x s = .next t ∧ Keeps s t := by
  refine ⟨_, rfl, ?_⟩
  have hbase := Keeps.refl s
  try dsimp only
  repeat' (first
    | with_reducible assumption | with_reducible apply Keeps.ite | with_reducible apply Keeps.fold | with_reducible apply phaseEnd_keeps
    | (intro _; intros; try dsimp only) | split | with_reducible apply Keeps.other)

theorem execBaseInstruction_keeps {r : Fin 4} {k : Fin 40} {s : State} : ∃ t, execBaseInstruction r k s = .next t ∧ Keeps s t := by
  refine ⟨_, rfl, ?_⟩
  have hbase := Keeps.refl s
  try dsimp only
  repeat' (first
    | with_reducible assumption | with_reducible apply Keeps.ite | with_reducible apply Keeps.fold | with_reducible apply baseInstruction_keeps
    | (intro _; intros; try dsimp only) | split | with_reducible apply Keeps.other)

theorem execEcall_keeps {r : Fin 4} {k : Fin 40} {s : State} : ∃ t, execEcall r k s = .next t ∧ Keeps s t := by
  refine ⟨_, rfl, ?_⟩
  have hbase := Keeps.refl s
  try dsimp only
  repeat' (first
    | with_reducible assumption | with_reducible apply Keeps.ite | with_reducible apply Keeps.fold | with_reducible apply ecall_keeps
    | (intro _; intros; try dsimp only) | split | with_reducible apply Keeps.other)

theorem execMbxtx_keeps {r : Fin 4} {k : Fin 40} {s : State} : ∃ t, execMbxtx r k s = .next t ∧ Keeps s t := by
  refine ⟨_, rfl, ?_⟩
  have hbase := Keeps.refl s
  try dsimp only
  repeat' (first
    | with_reducible assumption | with_reducible apply Keeps.ite | with_reducible apply Keeps.fold | with_reducible apply mbxtx_keeps
    | (intro _; intros; try dsimp only) | split | with_reducible apply Keeps.other)

theorem execMbxrx_keeps {r : Fin 4} {k : Fin 40} {s : State} : ∃ t, execMbxrx r k s = .next t ∧ Keeps s t := by
  refine ⟨_, rfl, ?_⟩
  have hbase := Keeps.refl s
  try dsimp only
  repeat' (first
    | with_reducible assumption | with_reducible apply Keeps.ite | with_reducible apply Keeps.fold | with_reducible apply mbxrx_keeps
    | (intro _; intros; try dsimp only) | split | with_reducible apply Keeps.other)

theorem execMbxst_keeps {r : Fin 4} {k : Fin 40} {s : State} : ∃ t, execMbxst r k s = .next t ∧ Keeps s t := by
  refine ⟨_, rfl, ?_⟩
  have hbase := Keeps.refl s
  try dsimp only
  repeat' (first
    | with_reducible assumption | with_reducible apply Keeps.ite | with_reducible apply Keeps.fold | with_reducible apply mbxstRead_keeps
    | (intro _; intros; try dsimp only) | split | with_reducible apply Keeps.other)

theorem execMbxstClear_keeps {r : Fin 4} {k : Fin 40} {s : State} : ∃ t, execMbxstClear r k s = .next t ∧ Keeps s t := by
  refine ⟨_, rfl, ?_⟩
  have hbase := Keeps.refl s
  try dsimp only
  repeat' (first
    | with_reducible assumption | with_reducible apply Keeps.ite | with_reducible apply Keeps.fold | with_reducible apply mbxstClear_keeps
    | (intro _; intros; try dsimp only) | split | with_reducible apply Keeps.other)

theorem execHubResync_keeps {dest : Nat} {s : State} : ∃ t, execHubResync dest s = .next t ∧ Keeps s t := by
  refine ⟨_, rfl, ?_⟩
  have hbase := Keeps.refl s
  try dsimp only
  repeat' (first
    | with_reducible assumption | with_reducible apply Keeps.ite | with_reducible apply Keeps.fold | with_reducible apply hubResync_keeps
    | (intro _; intros; try dsimp only) | split | with_reducible apply Keeps.other)

theorem execResyncSample_keeps {s : State} : ∃ t, execResyncSample s = .next t ∧ Keeps s t := by
  refine ⟨_, rfl, ?_⟩
  have hbase := Keeps.refl s
  try dsimp only
  repeat' (first
    | with_reducible assumption | with_reducible apply Keeps.ite | with_reducible apply Keeps.fold | with_reducible apply resyncSample_keeps
    | (intro _; intros; try dsimp only) | split | with_reducible apply Keeps.other)

theorem execRegWrite_keeps {addr size value : Nat} {s : State} : ∃ t, execRegWrite addr size value s = .next t ∧ Keeps s t := by
  refine ⟨_, rfl, ?_⟩
  have hbase := Keeps.refl s
  try dsimp only
  repeat' (first
    | with_reducible assumption | refine Keeps.of_fst (by with_reducible assumption) ?_ | with_reducible apply Keeps.ite
    | with_reducible apply Keeps.fold | with_reducible apply State.regWrite_keeps | (intro _; intros; try dsimp only) | split
    | with_reducible apply Keeps.other)

theorem execJdrop_keeps {r : Fin 4} {k : Fin 40} {s : State} : ∃ t, execJdrop r k s = .next t ∧ Keeps s t := by
  refine ⟨_, rfl, ?_⟩
  have hbase := Keeps.refl s
  try dsimp only
  repeat' (first
    | with_reducible assumption | with_reducible apply Keeps.ite | with_reducible apply Keeps.fold | with_reducible apply jdrop_keeps
    | (intro _; intros; try dsimp only) | split | with_reducible apply Keeps.other)

theorem execJtake_keeps {r : Fin 4} {k : Fin 40} {s : State} : ∃ t, execJtake r k s = .next t ∧ Keeps s t := by
  refine ⟨_, rfl, ?_⟩
  have hbase := Keeps.refl s
  try dsimp only
  repeat' (first
    | with_reducible assumption | with_reducible apply Keeps.ite | with_reducible apply Keeps.fold | with_reducible apply jtake_keeps
    | (intro _; intros; try dsimp only) | split | with_reducible apply Keeps.other)

theorem execJtry_keeps {r : Fin 4} {k : Fin 40} {s : State} : ∃ t, execJtry r k s = .next t ∧ Keeps s t := by
  refine ⟨_, rfl, ?_⟩
  have hbase := Keeps.refl s
  try dsimp only
  repeat' (first
    | with_reducible assumption | with_reducible apply Keeps.ite | with_reducible apply Keeps.fold | with_reducible apply jtry_keeps
    | (intro _; intros; try dsimp only) | split | with_reducible apply Keeps.other)

theorem execJpeek_keeps {r : Fin 4} {k : Fin 40} {s : State} : ∃ t, execJpeek r k s = .next t ∧ Keeps s t := by
  refine ⟨_, rfl, ?_⟩
  have hbase := Keeps.refl s
  try dsimp only
  repeat' (first
    | with_reducible assumption | with_reducible apply Keeps.ite | with_reducible apply Keeps.fold | with_reducible apply jpeek_keeps
    | (intro _; intros; try dsimp only) | split | with_reducible apply Keeps.other)

theorem execJrdrop_keeps {r : Fin 4} {k : Fin 40} {s : State} : ∃ t, execJrdrop r k s = .next t ∧ Keeps s t := by
  refine ⟨_, rfl, ?_⟩
  have hbase := Keeps.refl s
  try dsimp only
  repeat' (first
    | with_reducible assumption | with_reducible apply Keeps.ite | with_reducible apply Keeps.fold | with_reducible apply jrdrop_keeps
    | (intro _; intros; try dsimp only) | split | with_reducible apply Keeps.other)

theorem execLaunch_keeps {r : Fin 4} {k : Fin 40} {parityBad : Bool} {s : State} : ∃ t, execLaunch r k parityBad s = .next t ∧ Keeps s t := by
  refine ⟨_, rfl, ?_⟩
  have hbase := Keeps.refl s
  try dsimp only
  repeat' (first
    | with_reducible assumption | with_reducible apply Keeps.ite | with_reducible apply Keeps.fold | with_reducible apply launch_keeps
    | (intro _; intros; try dsimp only) | split | with_reducible apply Keeps.other)

theorem execBwait_keeps {r : Fin 4} {k : Fin 40} {s : State} : ∃ t, execBwait r k s = .next t ∧ Keeps s t := by
  refine ⟨_, rfl, ?_⟩
  have hbase := Keeps.refl s
  try dsimp only
  repeat' (first
    | with_reducible assumption | with_reducible apply Keeps.ite | with_reducible apply Keeps.fold | with_reducible apply bwait_keeps
    | (intro _; intros; try dsimp only) | split | with_reducible apply Keeps.other)

theorem execSumrd_keeps {r : Fin 4} {k : Fin 40} {s : State} : ∃ t, execSumrd r k s = .next t ∧ Keeps s t := by
  refine ⟨_, rfl, ?_⟩
  have hbase := Keeps.refl s
  try dsimp only
  repeat' (first
    | with_reducible assumption | with_reducible apply Keeps.ite | with_reducible apply Keeps.fold | with_reducible apply sumrd_keeps
    | (intro _; intros; try dsimp only) | split | with_reducible apply Keeps.other)

theorem execCcTrap_keeps {r : Fin 4} {k : Fin 40} {s : State} : ∃ t, execCcTrap r k s = .next t ∧ Keeps s t := by
  refine ⟨_, rfl, ?_⟩
  have hbase := Keeps.refl s
  try dsimp only
  repeat' (first
    | with_reducible assumption | with_reducible apply Keeps.ite | with_reducible apply Keeps.fold | with_reducible apply ccTrapCmd_keeps
    | (intro _; intros; try dsimp only) | split | with_reducible apply Keeps.other)

theorem execGlkCreditReturn_keeps {ack cls n : Nat} {s : State} : ∃ t, execGlkCreditReturn ack cls n s = .next t ∧ Keeps s t := by
  refine ⟨_, rfl, ?_⟩
  have hbase := Keeps.refl s
  try dsimp only
  repeat' (first
    | with_reducible assumption | with_reducible apply Keeps.ite | with_reducible apply Keeps.fold | with_reducible apply glkCreditReturn_keeps
    | (intro _; intros; try dsimp only) | split | with_reducible apply Keeps.other)

theorem execGlkRd_keeps {tag addr size : Nat} {phys : ReadUpset} {h : GlkHead} {s : State} : ∃ t, execGlkRd tag addr size phys h s = .next t ∧ Keeps s t := by
  refine ⟨_, rfl, ?_⟩
  have hbase := Keeps.refl s
  try dsimp only
  repeat' (first
    | with_reducible assumption | with_reducible apply Keeps.ite | with_reducible apply Keeps.fold | with_reducible apply glkRd_keeps
    | (intro _; intros; try dsimp only) | split | with_reducible apply Keeps.other)

theorem execGlkWr_keeps {tag addr : Nat} {data : List Byte} {phys : ReadUpset} {h : GlkHead} {s : State} : ∃ t, execGlkWr tag addr data phys h s = .next t ∧ Keeps s t := by
  refine ⟨_, rfl, ?_⟩
  have hbase := Keeps.refl s
  try dsimp only
  repeat' (first
    | with_reducible assumption | with_reducible apply Keeps.ite | with_reducible apply Keeps.fold | with_reducible apply glkWr_keeps
    | (intro _; intros; try dsimp only) | split | with_reducible apply Keeps.other)

theorem execHandoverEnd_keeps {r : Fin 4} {ok : Bool} {s : State} : ∃ t, execHandoverEnd r ok s = .next t ∧ Keeps s t := by
  refine ⟨_, rfl, ?_⟩
  have hbase := Keeps.refl s
  try dsimp only
  repeat' (first
    | with_reducible assumption | with_reducible apply Keeps.ite | with_reducible apply Keeps.fold | with_reducible apply handoverOver_keeps
    | (intro _; intros; try dsimp only) | split | with_reducible apply Keeps.other)

theorem execBypass_keeps {s : State} : ∃ t, execBypass s = .next t ∧ Keeps s t := by
  refine ⟨_, rfl, ?_⟩
  have hbase := Keeps.refl s
  try dsimp only
  repeat' (first
    | with_reducible assumption | with_reducible apply Keeps.ite | with_reducible apply Keeps.fold | with_reducible apply State.tapTo_keeps
    | (intro _; intros; try dsimp only) | split | with_reducible apply Keeps.other)

theorem execIdcode_keeps {s : State} : ∃ t, execIdcode s = .next t ∧ Keeps s t := by
  refine ⟨_, rfl, ?_⟩
  have hbase := Keeps.refl s
  try dsimp only
  repeat' (first
    | with_reducible assumption | with_reducible apply Keeps.ite | with_reducible apply Keeps.fold | with_reducible apply State.tapTo_keeps
    | (intro _; intros; try dsimp only) | split | with_reducible apply Keeps.other)

theorem execSamplePreload_keeps {pins load : List Bool} {s : State} : ∃ t, execSamplePreload pins load s = .next t ∧ Keeps s t := by
  refine ⟨_, rfl, ?_⟩
  have hbase := Keeps.refl s
  try dsimp only
  repeat' (first
    | with_reducible assumption | with_reducible apply Keeps.ite | with_reducible apply Keeps.fold | with_reducible apply State.sample_keeps
    | (intro _; intros; try dsimp only) | split | with_reducible apply Keeps.other)

theorem execExtest_keeps {pins load : List Bool} {s : State} : ∃ t, execExtest pins load s = .next t ∧ Keeps s t := by
  refine ⟨_, rfl, ?_⟩
  have hbase := Keeps.refl s
  try dsimp only
  repeat' (first
    | with_reducible assumption | with_reducible apply Keeps.ite | with_reducible apply Keeps.fold | with_reducible apply State.tapDrive_keeps
    | (intro _; intros; try dsimp only) | split | with_reducible apply Keeps.other)

theorem execClamp_keeps {s : State} : ∃ t, execClamp s = .next t ∧ Keeps s t := by
  refine ⟨_, rfl, ?_⟩
  have hbase := Keeps.refl s
  try dsimp only
  repeat' (first
    | with_reducible assumption | with_reducible apply Keeps.ite | with_reducible apply Keeps.fold | with_reducible apply State.tapTo_keeps
    | (intro _; intros; try dsimp only) | split | with_reducible apply Keeps.other)

theorem execHighz_keeps {s : State} : ∃ t, execHighz s = .next t ∧ Keeps s t := by
  refine ⟨_, rfl, ?_⟩
  have hbase := Keeps.refl s
  try dsimp only
  repeat' (first
    | with_reducible assumption | with_reducible apply Keeps.ite | with_reducible apply Keeps.fold | with_reducible apply State.tapTo_keeps
    | (intro _; intros; try dsimp only) | split | with_reducible apply Keeps.other)

theorem execExtestPulse_keeps {pins load : List Bool} {s : State} : ∃ t, execExtestPulse pins load s = .next t ∧ Keeps s t := by
  refine ⟨_, rfl, ?_⟩
  have hbase := Keeps.refl s
  try dsimp only
  repeat' (first
    | with_reducible assumption | with_reducible apply Keeps.ite | with_reducible apply Keeps.fold | with_reducible apply State.tapDrive_keeps
    | (intro _; intros; try dsimp only) | split | with_reducible apply Keeps.other)

theorem execExtestTrain_keeps {pins load : List Bool} {s : State} : ∃ t, execExtestTrain pins load s = .next t ∧ Keeps s t := by
  refine ⟨_, rfl, ?_⟩
  have hbase := Keeps.refl s
  try dsimp only
  repeat' (first
    | with_reducible assumption | with_reducible apply Keeps.ite | with_reducible apply Keeps.fold | with_reducible apply State.tapDrive_keeps
    | (intro _; intros; try dsimp only) | split | with_reducible apply Keeps.other)

theorem execTapReset_keeps {s : State} : ∃ t, execTapReset s = .next t ∧ Keeps s t := by
  refine ⟨_, rfl, ?_⟩
  have hbase := Keeps.refl s
  try dsimp only
  repeat' (first
    | with_reducible assumption | with_reducible apply Keeps.ite | with_reducible apply Keeps.fold | (intro _; intros; try dsimp only) | split
    | with_reducible apply Keeps.other)

theorem execAdd_keeps {r : Fin 4} {k : Fin 40} {chk : Option VecMiss} {s : State} : ∃ t, execAdd r k chk s = .next t ∧ Keeps s t := by
  refine ⟨_, rfl, ?_⟩
  have hbase := Keeps.refl s
  try dsimp only
  repeat' (first
    | with_reducible assumption | with_reducible apply Keeps.ite | with_reducible apply Keeps.fold | with_reducible apply State.vecStep_keeps
    | with_reducible apply vecLanes_keeps | with_reducible apply VecOut.keeps_done | with_reducible apply VecOut.keeps_wait
    | refine VecOut.of_done ?_ (by with_reducible assumption) | (intro _; intros; try dsimp only) | split | with_reducible apply Keeps.other)

theorem execSub_keeps {r : Fin 4} {k : Fin 40} {chk : Option VecMiss} {s : State} : ∃ t, execSub r k chk s = .next t ∧ Keeps s t := by
  refine ⟨_, rfl, ?_⟩
  have hbase := Keeps.refl s
  try dsimp only
  repeat' (first
    | with_reducible assumption | with_reducible apply Keeps.ite | with_reducible apply Keeps.fold | with_reducible apply State.vecStep_keeps
    | with_reducible apply vecLanes_keeps | with_reducible apply VecOut.keeps_done | with_reducible apply VecOut.keeps_wait
    | refine VecOut.of_done ?_ (by with_reducible assumption) | (intro _; intros; try dsimp only) | split | with_reducible apply Keeps.other)

theorem execMul_keeps {r : Fin 4} {k : Fin 40} {chk : Option VecMiss} {s : State} : ∃ t, execMul r k chk s = .next t ∧ Keeps s t := by
  refine ⟨_, rfl, ?_⟩
  have hbase := Keeps.refl s
  try dsimp only
  repeat' (first
    | with_reducible assumption | with_reducible apply Keeps.ite | with_reducible apply Keeps.fold | with_reducible apply State.vecStep_keeps
    | with_reducible apply vecLanes_keeps | with_reducible apply VecOut.keeps_done | with_reducible apply VecOut.keeps_wait
    | refine VecOut.of_done ?_ (by with_reducible assumption) | (intro _; intros; try dsimp only) | split | with_reducible apply Keeps.other)

theorem execFma_keeps {r : Fin 4} {k : Fin 40} {chk : Option VecMiss} {s : State} : ∃ t, execFma r k chk s = .next t ∧ Keeps s t := by
  refine ⟨_, rfl, ?_⟩
  have hbase := Keeps.refl s
  try dsimp only
  repeat' (first
    | with_reducible assumption | with_reducible apply Keeps.ite | with_reducible apply Keeps.fold | with_reducible apply State.vecStep_keeps
    | with_reducible apply vecLanes_keeps | with_reducible apply VecOut.keeps_done | with_reducible apply VecOut.keeps_wait
    | refine VecOut.of_done ?_ (by with_reducible assumption) | (intro _; intros; try dsimp only) | split | with_reducible apply Keeps.other)

theorem execMax_keeps {r : Fin 4} {k : Fin 40} {chk : Option VecMiss} {s : State} : ∃ t, execMax r k chk s = .next t ∧ Keeps s t := by
  refine ⟨_, rfl, ?_⟩
  have hbase := Keeps.refl s
  try dsimp only
  repeat' (first
    | with_reducible assumption | with_reducible apply Keeps.ite | with_reducible apply Keeps.fold | with_reducible apply State.vecStep_keeps
    | with_reducible apply vecLanes_keeps | with_reducible apply VecOut.keeps_done | with_reducible apply VecOut.keeps_wait
    | refine VecOut.of_done ?_ (by with_reducible assumption) | (intro _; intros; try dsimp only) | split | with_reducible apply Keeps.other)

theorem execMin_keeps {r : Fin 4} {k : Fin 40} {chk : Option VecMiss} {s : State} : ∃ t, execMin r k chk s = .next t ∧ Keeps s t := by
  refine ⟨_, rfl, ?_⟩
  have hbase := Keeps.refl s
  try dsimp only
  repeat' (first
    | with_reducible assumption | with_reducible apply Keeps.ite | with_reducible apply Keeps.fold | with_reducible apply State.vecStep_keeps
    | with_reducible apply vecLanes_keeps | with_reducible apply VecOut.keeps_done | with_reducible apply VecOut.keeps_wait
    | refine VecOut.of_done ?_ (by with_reducible assumption) | (intro _; intros; try dsimp only) | split | with_reducible apply Keeps.other)

theorem execAbs_keeps {r : Fin 4} {k : Fin 40} {chk : Option VecMiss} {s : State} : ∃ t, execAbs r k chk s = .next t ∧ Keeps s t := by
  refine ⟨_, rfl, ?_⟩
  have hbase := Keeps.refl s
  try dsimp only
  repeat' (first
    | with_reducible assumption | with_reducible apply Keeps.ite | with_reducible apply Keeps.fold | with_reducible apply State.vecStep_keeps
    | with_reducible apply vecLanes_keeps | with_reducible apply VecOut.keeps_done | with_reducible apply VecOut.keeps_wait
    | refine VecOut.of_done ?_ (by with_reducible assumption) | (intro _; intros; try dsimp only) | split | with_reducible apply Keeps.other)

theorem execNeg_keeps {r : Fin 4} {k : Fin 40} {chk : Option VecMiss} {s : State} : ∃ t, execNeg r k chk s = .next t ∧ Keeps s t := by
  refine ⟨_, rfl, ?_⟩
  have hbase := Keeps.refl s
  try dsimp only
  repeat' (first
    | with_reducible assumption | with_reducible apply Keeps.ite | with_reducible apply Keeps.fold | with_reducible apply State.vecStep_keeps
    | with_reducible apply vecLanes_keeps | with_reducible apply VecOut.keeps_done | with_reducible apply VecOut.keeps_wait
    | refine VecOut.of_done ?_ (by with_reducible assumption) | (intro _; intros; try dsimp only) | split | with_reducible apply Keeps.other)

theorem execDiv_keeps {r : Fin 4} {k : Fin 40} {chk : Option VecMiss} {s : State} : ∃ t, execDiv r k chk s = .next t ∧ Keeps s t := by
  refine ⟨_, rfl, ?_⟩
  have hbase := Keeps.refl s
  try dsimp only
  repeat' (first
    | with_reducible assumption | with_reducible apply Keeps.ite | with_reducible apply Keeps.fold | with_reducible apply State.vecStep_keeps
    | with_reducible apply vecLanes_keeps | with_reducible apply VecOut.keeps_done | with_reducible apply VecOut.keeps_wait
    | refine VecOut.of_done ?_ (by with_reducible assumption) | (intro _; intros; try dsimp only) | split | with_reducible apply Keeps.other)

theorem execSqrt_keeps {r : Fin 4} {k : Fin 40} {chk : Option VecMiss} {s : State} : ∃ t, execSqrt r k chk s = .next t ∧ Keeps s t := by
  refine ⟨_, rfl, ?_⟩
  have hbase := Keeps.refl s
  try dsimp only
  repeat' (first
    | with_reducible assumption | with_reducible apply Keeps.ite | with_reducible apply Keeps.fold | with_reducible apply State.vecStep_keeps
    | with_reducible apply vecLanes_keeps | with_reducible apply VecOut.keeps_done | with_reducible apply VecOut.keeps_wait
    | refine VecOut.of_done ?_ (by with_reducible assumption) | (intro _; intros; try dsimp only) | split | with_reducible apply Keeps.other)

theorem execRsqrt_keeps {r : Fin 4} {k : Fin 40} {chk : Option VecMiss} {s : State} : ∃ t, execRsqrt r k chk s = .next t ∧ Keeps s t := by
  refine ⟨_, rfl, ?_⟩
  have hbase := Keeps.refl s
  try dsimp only
  repeat' (first
    | with_reducible assumption | with_reducible apply Keeps.ite | with_reducible apply Keeps.fold | with_reducible apply State.vecStep_keeps
    | with_reducible apply vecLanes_keeps | with_reducible apply VecOut.keeps_done | with_reducible apply VecOut.keeps_wait
    | refine VecOut.of_done ?_ (by with_reducible assumption) | (intro _; intros; try dsimp only) | split | with_reducible apply Keeps.other)

theorem execRecip_keeps {r : Fin 4} {k : Fin 40} {chk : Option VecMiss} {s : State} : ∃ t, execRecip r k chk s = .next t ∧ Keeps s t := by
  refine ⟨_, rfl, ?_⟩
  have hbase := Keeps.refl s
  try dsimp only
  repeat' (first
    | with_reducible assumption | with_reducible apply Keeps.ite | with_reducible apply Keeps.fold | with_reducible apply State.vecStep_keeps
    | with_reducible apply vecLanes_keeps | with_reducible apply VecOut.keeps_done | with_reducible apply VecOut.keeps_wait
    | refine VecOut.of_done ?_ (by with_reducible assumption) | (intro _; intros; try dsimp only) | split | with_reducible apply Keeps.other)

theorem execExp_keeps {r : Fin 4} {k : Fin 40} {chk : Option VecMiss} {s : State} : ∃ t, execExp r k chk s = .next t ∧ Keeps s t := by
  refine ⟨_, rfl, ?_⟩
  have hbase := Keeps.refl s
  try dsimp only
  repeat' (first
    | with_reducible assumption | with_reducible apply Keeps.ite | with_reducible apply Keeps.fold | with_reducible apply State.vecStep_keeps
    | with_reducible apply vecLanes_keeps | with_reducible apply VecOut.keeps_done | with_reducible apply VecOut.keeps_wait
    | refine VecOut.of_done ?_ (by with_reducible assumption) | (intro _; intros; try dsimp only) | split | with_reducible apply Keeps.other)

theorem execLog_keeps {r : Fin 4} {k : Fin 40} {chk : Option VecMiss} {s : State} : ∃ t, execLog r k chk s = .next t ∧ Keeps s t := by
  refine ⟨_, rfl, ?_⟩
  have hbase := Keeps.refl s
  try dsimp only
  repeat' (first
    | with_reducible assumption | with_reducible apply Keeps.ite | with_reducible apply Keeps.fold | with_reducible apply State.vecStep_keeps
    | with_reducible apply vecLanes_keeps | with_reducible apply VecOut.keeps_done | with_reducible apply VecOut.keeps_wait
    | refine VecOut.of_done ?_ (by with_reducible assumption) | (intro _; intros; try dsimp only) | split | with_reducible apply Keeps.other)

theorem execTanh_keeps {r : Fin 4} {k : Fin 40} {chk : Option VecMiss} {s : State} : ∃ t, execTanh r k chk s = .next t ∧ Keeps s t := by
  refine ⟨_, rfl, ?_⟩
  have hbase := Keeps.refl s
  try dsimp only
  repeat' (first
    | with_reducible assumption | with_reducible apply Keeps.ite | with_reducible apply Keeps.fold | with_reducible apply State.vecStep_keeps
    | with_reducible apply vecLanes_keeps | with_reducible apply VecOut.keeps_done | with_reducible apply VecOut.keeps_wait
    | refine VecOut.of_done ?_ (by with_reducible assumption) | (intro _; intros; try dsimp only) | split | with_reducible apply Keeps.other)

theorem execSigm_keeps {r : Fin 4} {k : Fin 40} {chk : Option VecMiss} {s : State} : ∃ t, execSigm r k chk s = .next t ∧ Keeps s t := by
  refine ⟨_, rfl, ?_⟩
  have hbase := Keeps.refl s
  try dsimp only
  repeat' (first
    | with_reducible assumption | with_reducible apply Keeps.ite | with_reducible apply Keeps.fold | with_reducible apply State.vecStep_keeps
    | with_reducible apply vecLanes_keeps | with_reducible apply VecOut.keeps_done | with_reducible apply VecOut.keeps_wait
    | refine VecOut.of_done ?_ (by with_reducible assumption) | (intro _; intros; try dsimp only) | split | with_reducible apply Keeps.other)

theorem execGelu_keeps {r : Fin 4} {k : Fin 40} {chk : Option VecMiss} {s : State} : ∃ t, execGelu r k chk s = .next t ∧ Keeps s t := by
  refine ⟨_, rfl, ?_⟩
  have hbase := Keeps.refl s
  try dsimp only
  repeat' (first
    | with_reducible assumption | with_reducible apply Keeps.ite | with_reducible apply Keeps.fold | with_reducible apply State.vecStep_keeps
    | with_reducible apply vecLanes_keeps | with_reducible apply VecOut.keeps_done | with_reducible apply VecOut.keeps_wait
    | refine VecOut.of_done ?_ (by with_reducible assumption) | (intro _; intros; try dsimp only) | split | with_reducible apply Keeps.other)

theorem execSilu_keeps {r : Fin 4} {k : Fin 40} {chk : Option VecMiss} {s : State} : ∃ t, execSilu r k chk s = .next t ∧ Keeps s t := by
  refine ⟨_, rfl, ?_⟩
  have hbase := Keeps.refl s
  try dsimp only
  repeat' (first
    | with_reducible assumption | with_reducible apply Keeps.ite | with_reducible apply Keeps.fold | with_reducible apply State.vecStep_keeps
    | with_reducible apply vecLanes_keeps | with_reducible apply VecOut.keeps_done | with_reducible apply VecOut.keeps_wait
    | refine VecOut.of_done ?_ (by with_reducible assumption) | (intro _; intros; try dsimp only) | split | with_reducible apply Keeps.other)

theorem execCmpeq_keeps {r : Fin 4} {k : Fin 40} {chk : Option VecMiss} {s : State} : ∃ t, execCmpeq r k chk s = .next t ∧ Keeps s t := by
  refine ⟨_, rfl, ?_⟩
  have hbase := Keeps.refl s
  try dsimp only
  repeat' (first
    | with_reducible assumption | with_reducible apply Keeps.ite | with_reducible apply Keeps.fold | with_reducible apply State.vecStep_keeps
    | with_reducible apply vecLanes_keeps | with_reducible apply VecOut.keeps_done | with_reducible apply VecOut.keeps_wait
    | refine VecOut.of_done ?_ (by with_reducible assumption) | (intro _; intros; try dsimp only) | split | with_reducible apply Keeps.other)

theorem execCmplt_keeps {r : Fin 4} {k : Fin 40} {chk : Option VecMiss} {s : State} : ∃ t, execCmplt r k chk s = .next t ∧ Keeps s t := by
  refine ⟨_, rfl, ?_⟩
  have hbase := Keeps.refl s
  try dsimp only
  repeat' (first
    | with_reducible assumption | with_reducible apply Keeps.ite | with_reducible apply Keeps.fold | with_reducible apply State.vecStep_keeps
    | with_reducible apply vecLanes_keeps | with_reducible apply VecOut.keeps_done | with_reducible apply VecOut.keeps_wait
    | refine VecOut.of_done ?_ (by with_reducible assumption) | (intro _; intros; try dsimp only) | split | with_reducible apply Keeps.other)

theorem execCmple_keeps {r : Fin 4} {k : Fin 40} {chk : Option VecMiss} {s : State} : ∃ t, execCmple r k chk s = .next t ∧ Keeps s t := by
  refine ⟨_, rfl, ?_⟩
  have hbase := Keeps.refl s
  try dsimp only
  repeat' (first
    | with_reducible assumption | with_reducible apply Keeps.ite | with_reducible apply Keeps.fold | with_reducible apply State.vecStep_keeps
    | with_reducible apply vecLanes_keeps | with_reducible apply VecOut.keeps_done | with_reducible apply VecOut.keeps_wait
    | refine VecOut.of_done ?_ (by with_reducible assumption) | (intro _; intros; try dsimp only) | split | with_reducible apply Keeps.other)

theorem execSel_keeps {r : Fin 4} {k : Fin 40} {chk : Option VecMiss} {s : State} : ∃ t, execSel r k chk s = .next t ∧ Keeps s t := by
  refine ⟨_, rfl, ?_⟩
  have hbase := Keeps.refl s
  try dsimp only
  repeat' (first
    | with_reducible assumption | with_reducible apply Keeps.ite | with_reducible apply Keeps.fold | with_reducible apply State.vecStep_keeps
    | with_reducible apply vecLanes_keeps | with_reducible apply VecOut.keeps_done | with_reducible apply VecOut.keeps_wait
    | refine VecOut.of_done ?_ (by with_reducible assumption) | (intro _; intros; try dsimp only) | split | with_reducible apply Keeps.other)

theorem execIadd_keeps {r : Fin 4} {k : Fin 40} {chk : Option VecMiss} {s : State} : ∃ t, execIadd r k chk s = .next t ∧ Keeps s t := by
  refine ⟨_, rfl, ?_⟩
  have hbase := Keeps.refl s
  try dsimp only
  repeat' (first
    | with_reducible assumption | with_reducible apply Keeps.ite | with_reducible apply Keeps.fold | with_reducible apply State.vecStep_keeps
    | with_reducible apply vecLanes_keeps | with_reducible apply VecOut.keeps_done | with_reducible apply VecOut.keeps_wait
    | refine VecOut.of_done ?_ (by with_reducible assumption) | (intro _; intros; try dsimp only) | split | with_reducible apply Keeps.other)

theorem execIand_keeps {r : Fin 4} {k : Fin 40} {chk : Option VecMiss} {s : State} : ∃ t, execIand r k chk s = .next t ∧ Keeps s t := by
  refine ⟨_, rfl, ?_⟩
  have hbase := Keeps.refl s
  try dsimp only
  repeat' (first
    | with_reducible assumption | with_reducible apply Keeps.ite | with_reducible apply Keeps.fold | with_reducible apply State.vecStep_keeps
    | with_reducible apply vecLanes_keeps | with_reducible apply VecOut.keeps_done | with_reducible apply VecOut.keeps_wait
    | refine VecOut.of_done ?_ (by with_reducible assumption) | (intro _; intros; try dsimp only) | split | with_reducible apply Keeps.other)

theorem execIor_keeps {r : Fin 4} {k : Fin 40} {chk : Option VecMiss} {s : State} : ∃ t, execIor r k chk s = .next t ∧ Keeps s t := by
  refine ⟨_, rfl, ?_⟩
  have hbase := Keeps.refl s
  try dsimp only
  repeat' (first
    | with_reducible assumption | with_reducible apply Keeps.ite | with_reducible apply Keeps.fold | with_reducible apply State.vecStep_keeps
    | with_reducible apply vecLanes_keeps | with_reducible apply VecOut.keeps_done | with_reducible apply VecOut.keeps_wait
    | refine VecOut.of_done ?_ (by with_reducible assumption) | (intro _; intros; try dsimp only) | split | with_reducible apply Keeps.other)

theorem execIxor_keeps {r : Fin 4} {k : Fin 40} {chk : Option VecMiss} {s : State} : ∃ t, execIxor r k chk s = .next t ∧ Keeps s t := by
  refine ⟨_, rfl, ?_⟩
  have hbase := Keeps.refl s
  try dsimp only
  repeat' (first
    | with_reducible assumption | with_reducible apply Keeps.ite | with_reducible apply Keeps.fold | with_reducible apply State.vecStep_keeps
    | with_reducible apply vecLanes_keeps | with_reducible apply VecOut.keeps_done | with_reducible apply VecOut.keeps_wait
    | refine VecOut.of_done ?_ (by with_reducible assumption) | (intro _; intros; try dsimp only) | split | with_reducible apply Keeps.other)

theorem execCvtif_keeps {r : Fin 4} {k : Fin 40} {chk : Option VecMiss} {s : State} : ∃ t, execCvtif r k chk s = .next t ∧ Keeps s t := by
  refine ⟨_, rfl, ?_⟩
  have hbase := Keeps.refl s
  try dsimp only
  repeat' (first
    | with_reducible assumption | with_reducible apply Keeps.ite | with_reducible apply Keeps.fold | with_reducible apply State.vecStep_keeps
    | with_reducible apply vecLanes_keeps | with_reducible apply VecOut.keeps_done | with_reducible apply VecOut.keeps_wait
    | refine VecOut.of_done ?_ (by with_reducible assumption) | (intro _; intros; try dsimp only) | split | with_reducible apply Keeps.other)

theorem execCvtfi_keeps {r : Fin 4} {k : Fin 40} {chk : Option VecMiss} {s : State} : ∃ t, execCvtfi r k chk s = .next t ∧ Keeps s t := by
  refine ⟨_, rfl, ?_⟩
  have hbase := Keeps.refl s
  try dsimp only
  repeat' (first
    | with_reducible assumption | with_reducible apply Keeps.ite | with_reducible apply Keeps.fold | with_reducible apply State.vecStep_keeps
    | with_reducible apply vecLanes_keeps | with_reducible apply VecOut.keeps_done | with_reducible apply VecOut.keeps_wait
    | refine VecOut.of_done ?_ (by with_reducible assumption) | (intro _; intros; try dsimp only) | split | with_reducible apply Keeps.other)

theorem execMov_keeps {r : Fin 4} {k : Fin 40} {chk : Option VecMiss} {s : State} : ∃ t, execMov r k chk s = .next t ∧ Keeps s t := by
  refine ⟨_, rfl, ?_⟩
  have hbase := Keeps.refl s
  try dsimp only
  repeat' (first
    | with_reducible assumption | with_reducible apply Keeps.ite | with_reducible apply Keeps.fold | with_reducible apply State.vecStep_keeps
    | with_reducible apply vecLanes_keeps | with_reducible apply VecOut.keeps_done | with_reducible apply VecOut.keeps_wait
    | refine VecOut.of_done ?_ (by with_reducible assumption) | (intro _; intros; try dsimp only) | split | with_reducible apply Keeps.other)

theorem execBcast_keeps {r : Fin 4} {k : Fin 40} {chk : Option VecMiss} {s : State} : ∃ t, execBcast r k chk s = .next t ∧ Keeps s t := by
  refine ⟨_, rfl, ?_⟩
  have hbase := Keeps.refl s
  try dsimp only
  repeat' (first
    | with_reducible assumption | with_reducible apply Keeps.ite | with_reducible apply Keeps.fold | with_reducible apply State.vecStep_keeps
    | with_reducible apply vecBcast_keeps | with_reducible apply VecOut.keeps_done | with_reducible apply VecOut.keeps_wait
    | refine VecOut.of_done ?_ (by with_reducible assumption) | (intro _; intros; try dsimp only) | split | with_reducible apply Keeps.other)

theorem execTrans_keeps {r : Fin 4} {k : Fin 40} {chk : Option VecMiss} {s : State} : ∃ t, execTrans r k chk s = .next t ∧ Keeps s t := by
  refine ⟨_, rfl, ?_⟩
  have hbase := Keeps.refl s
  try dsimp only
  repeat' (first
    | with_reducible assumption | with_reducible apply Keeps.ite | with_reducible apply Keeps.fold | with_reducible apply State.vecStep_keeps
    | with_reducible apply vecTrans_keeps | with_reducible apply VecOut.keeps_done | with_reducible apply VecOut.keeps_wait
    | refine VecOut.of_done ?_ (by with_reducible assumption) | (intro _; intros; try dsimp only) | split | with_reducible apply Keeps.other)

theorem execIota_keeps {r : Fin 4} {k : Fin 40} {chk : Option VecMiss} {s : State} : ∃ t, execIota r k chk s = .next t ∧ Keeps s t := by
  refine ⟨_, rfl, ?_⟩
  have hbase := Keeps.refl s
  try dsimp only
  repeat' (first
    | with_reducible assumption | with_reducible apply Keeps.ite | with_reducible apply Keeps.fold | with_reducible apply State.vecStep_keeps
    | with_reducible apply vecIota_keeps | with_reducible apply VecOut.keeps_done | with_reducible apply VecOut.keeps_wait
    | refine VecOut.of_done ?_ (by with_reducible assumption) | (intro _; intros; try dsimp only) | split | with_reducible apply Keeps.other)

theorem execRsum_keeps {r : Fin 4} {k : Fin 40} {chk : Option VecMiss} {s : State} : ∃ t, execRsum r k chk s = .next t ∧ Keeps s t := by
  refine ⟨_, rfl, ?_⟩
  have hbase := Keeps.refl s
  try dsimp only
  repeat' (first
    | with_reducible assumption | with_reducible apply Keeps.ite | with_reducible apply Keeps.fold | with_reducible apply State.vecStep_keeps
    | with_reducible apply vecReduce_keeps | with_reducible apply VecOut.keeps_done | with_reducible apply VecOut.keeps_wait
    | refine VecOut.of_done ?_ (by with_reducible assumption) | (intro _; intros; try dsimp only) | split | with_reducible apply Keeps.other)

theorem execRmax_keeps {r : Fin 4} {k : Fin 40} {chk : Option VecMiss} {s : State} : ∃ t, execRmax r k chk s = .next t ∧ Keeps s t := by
  refine ⟨_, rfl, ?_⟩
  have hbase := Keeps.refl s
  try dsimp only
  repeat' (first
    | with_reducible assumption | with_reducible apply Keeps.ite | with_reducible apply Keeps.fold | with_reducible apply State.vecStep_keeps
    | with_reducible apply vecReduce_keeps | with_reducible apply VecOut.keeps_done | with_reducible apply VecOut.keeps_wait
    | refine VecOut.of_done ?_ (by with_reducible assumption) | (intro _; intros; try dsimp only) | split | with_reducible apply Keeps.other)

theorem execRmin_keeps {r : Fin 4} {k : Fin 40} {chk : Option VecMiss} {s : State} : ∃ t, execRmin r k chk s = .next t ∧ Keeps s t := by
  refine ⟨_, rfl, ?_⟩
  have hbase := Keeps.refl s
  try dsimp only
  repeat' (first
    | with_reducible assumption | with_reducible apply Keeps.ite | with_reducible apply Keeps.fold | with_reducible apply State.vecStep_keeps
    | with_reducible apply vecReduce_keeps | with_reducible apply VecOut.keeps_done | with_reducible apply VecOut.keeps_wait
    | refine VecOut.of_done ?_ (by with_reducible assumption) | (intro _; intros; try dsimp only) | split | with_reducible apply Keeps.other)

theorem execRamax_keeps {r : Fin 4} {k : Fin 40} {chk : Option VecMiss} {s : State} : ∃ t, execRamax r k chk s = .next t ∧ Keeps s t := by
  refine ⟨_, rfl, ?_⟩
  have hbase := Keeps.refl s
  try dsimp only
  repeat' (first
    | with_reducible assumption | with_reducible apply Keeps.ite | with_reducible apply Keeps.fold | with_reducible apply State.vecStep_keeps
    | with_reducible apply vecArgMax_keeps | with_reducible apply VecOut.keeps_done | with_reducible apply VecOut.keeps_wait
    | refine VecOut.of_done ?_ (by with_reducible assumption) | (intro _; intros; try dsimp only) | split | with_reducible apply Keeps.other)

theorem execRnf_keeps {r : Fin 4} {k : Fin 40} {chk : Option VecMiss} {s : State} : ∃ t, execRnf r k chk s = .next t ∧ Keeps s t := by
  refine ⟨_, rfl, ?_⟩
  have hbase := Keeps.refl s
  try dsimp only
  repeat' (first
    | with_reducible assumption | with_reducible apply Keeps.ite | with_reducible apply Keeps.fold | with_reducible apply State.vecStep_keeps
    | with_reducible apply vecReduce_keeps | with_reducible apply VecOut.keeps_done | with_reducible apply VecOut.keeps_wait
    | refine VecOut.of_done ?_ (by with_reducible assumption) | (intro _; intros; try dsimp only) | split | with_reducible apply Keeps.other)

theorem execPost_keeps {r : Fin 4} {k : Fin 40} {chk : Option VecMiss} {s : State} : ∃ t, execPost r k chk s = .next t ∧ Keeps s t := by
  refine ⟨_, rfl, ?_⟩
  have hbase := Keeps.refl s
  try dsimp only
  repeat' (first
    | with_reducible assumption | with_reducible apply Keeps.ite | with_reducible apply Keeps.fold | with_reducible apply State.vecStep_keeps
    | with_reducible apply vecPostOp_keeps | with_reducible apply VecOut.keeps_done | with_reducible apply VecOut.keeps_wait
    | refine VecOut.of_done ?_ (by with_reducible assumption) | (intro _; intros; try dsimp only) | split | with_reducible apply Keeps.other)

theorem execLd_keeps {r : Fin 4} {k : Fin 40} {chk : Option VecMiss} {s : State} : ∃ t, execLd r k chk s = .next t ∧ Keeps s t := by
  refine ⟨_, rfl, ?_⟩
  have hbase := Keeps.refl s
  try dsimp only
  repeat' (first
    | with_reducible assumption | with_reducible apply Keeps.ite | with_reducible apply Keeps.fold | with_reducible apply State.vecStep_keeps
    | with_reducible apply vecLd_keeps | with_reducible apply VecOut.keeps_done | with_reducible apply VecOut.keeps_wait
    | refine VecOut.of_done ?_ (by with_reducible assumption) | (intro _; intros; try dsimp only) | split | with_reducible apply Keeps.other)

theorem execSt_keeps {r : Fin 4} {k : Fin 40} {chk : Option VecMiss} {s : State} : ∃ t, execSt r k chk s = .next t ∧ Keeps s t := by
  refine ⟨_, rfl, ?_⟩
  have hbase := Keeps.refl s
  try dsimp only
  repeat' (first
    | with_reducible assumption | with_reducible apply Keeps.ite | with_reducible apply Keeps.fold | with_reducible apply State.vecStep_keeps
    | with_reducible apply vecSt_keeps | with_reducible apply VecOut.keeps_done | with_reducible apply VecOut.keeps_wait
    | refine VecOut.of_done ?_ (by with_reducible assumption) | (intro _; intros; try dsimp only) | split | with_reducible apply Keeps.other)

theorem execLdh_keeps {r : Fin 4} {k : Fin 40} {chk : Option VecMiss} {s : State} : ∃ t, execLdh r k chk s = .next t ∧ Keeps s t := by
  refine ⟨_, rfl, ?_⟩
  have hbase := Keeps.refl s
  try dsimp only
  repeat' (first
    | with_reducible assumption | with_reducible apply Keeps.ite | with_reducible apply Keeps.fold | with_reducible apply State.vecStep_keeps
    | with_reducible apply vecLdh_keeps | with_reducible apply VecOut.keeps_done | with_reducible apply VecOut.keeps_wait
    | refine VecOut.of_done ?_ (by with_reducible assumption) | (intro _; intros; try dsimp only) | split | with_reducible apply Keeps.other)

/-- Every command completes, and keeps. -/
theorem exec_keeps (c : Instr) (s : State) : ∃ t, exec c s = .next t ∧ Keeps s t := by
  cases c with
  | reset warm => exact @execReset_keeps warm s
  | startUp => exact @execStartUp_keeps s
  | bootStageEnd x => exact @execBootStageEnd_keeps x s
  | phaseEnd x => exact @execPhaseEnd_keeps x s
  | selfCheck ok => exact @execSelfCheck_keeps ok s
  | stateBlockWrite how => exact @execStateBlockWrite_keeps how s
  | imageInstall => exact @execImageInstall_keeps s
  | opSecTick fec glkFec => exact @execOpSecTick_keeps fec glkFec s
  | opsecStore => exact @execOpsecStore_keeps s
  | recordMirror ok => exact @execRecordMirror_keeps ok s
  | regWrite addr size value => exact @execRegWrite_keeps addr size value s
  | start p bad => exact @execStart_keeps p bad s
  | clear p => exact @execClear_keeps p s
  | save p addr => exact @execSave_keeps p addr s
  | restore p addr => exact @execRestore_keeps p addr s
  | empty p addr => exact @execEmpty_keeps p addr s
  | contextDone p phys => exact @execContextDone_keeps p phys s
  | doorbell n value => exact @execDoorbell_keeps n value s
  | dbell n value h => exact @execDbell_keeps n value h s
  | completionHeadWrite n value => exact @execCompletionHeadWrite_keeps n value s
  | ringEnable n on => exact @execRingEnable_keeps n on s
  | hubResync dest => exact @execHubResync_keeps dest s
  | resyncSample => exact @execResyncSample_keeps s
  | beatStop p at_ => exact @execBeatStop_keeps p at_ s
  | sealCandidate p value => exact @execSealCandidate_keeps p value s
  | evrClear => exact @execEvrClear_keeps s
  | flashEraseEnd => exact @execFlashEraseEnd_keeps s
  | eraseSectorTimeout => exact @execEraseSectorTimeout_keeps s
  | objectPresent => exact @execObjectPresent_keeps s
  | presentationEnd part kak => exact @execPresentationEnd_keeps part kak s
  | attestationReport => exact @execAttestationReport_keeps s
  | certificates => exact @execCertificates_keeps s
  | reportSigning => exact @execReportSigning_keeps s
  | reportComplete => exact @execReportComplete_keeps s
  | tokenPresent => exact @execTokenPresent_keeps s
  | lock => exact @execLock_keeps s
  | unlockExpiry => exact @execUnlockExpiry_keeps s
  | injectionArm => exact @execInjectionArm_keeps s
  | mbxHoldEnd c => exact @execMbxHoldEnd_keeps c s
  | glkRetrain => exact @execGlkRetrain_keeps s
  | glkRetrainEnd ok => exact @execGlkRetrainEnd_keeps ok s
  | fabPortCfg p value => exact @execFabPortCfg_keeps p value s
  | mbxTx c word => exact @execMbxTx_keeps c word s
  | mboxWord c word h => exact @execMboxWord_keeps c word h s
  | mboxDeliver c => exact @execMboxDeliver_keeps c s
  | wordRemove c dir => exact @execWordRemove_keeps c dir s
  | mbxTimeout c dir => exact @execMbxTimeout_keeps c dir s
  | endpointReset e => exact @execEndpointReset_keeps e s
  | endpointReady e => exact @execEndpointReady_keeps e s
  | glkRd tag addr size phys h => exact @execGlkRd_keeps tag addr size phys h s
  | glkWr tag addr data phys h => exact @execGlkWr_keeps tag addr data phys h s
  | snpInv tag addr h => exact @execSnpInv_keeps tag addr h s
  | glkData tag data phys h => exact @execGlkData_keeps tag data phys h s
  | wrAck tag h => exact @execWrAck_keeps tag h s
  | glkErr tag reason h => exact @execGlkErr_keeps tag reason h s
  | glkTimeout tag => exact @execGlkTimeout_keeps tag s
  | caps data h => exact @execCaps_keeps data h s
  | creditInit lanes credits h => exact @execCreditInit_keeps lanes credits h s
  | downNotice h => exact @execDownNotice_keeps h s
  | echo data h => exact @execEcho_keeps data h s
  | glkTrainingTimeout => exact @execGlkTrainingTimeout_keeps s
  | glkFlitDiscard cause => exact @execGlkFlitDiscard_keeps cause s
  | glkNak ack => exact @execGlkNak_keeps ack s
  | glkLaneRecal lane => exact @execGlkLaneRecal_keeps lane s
  | glkLaneRecalEnd lane ok => exact @execGlkLaneRecalEnd_keeps lane ok s
  | glkLaneLoss lanes => exact @execGlkLaneLoss_keeps lanes s
  | portTrainTimeout p => exact @execPortTrainTimeout_keeps p s
  | lmgmt p m => exact @execLmgmt_keeps p m s
  | dataFlit p f => exact @execDataFlit_keeps p f s
  | dropFlit p f => exact @execDropFlit_keeps p f s
  | replyFlit p f => exact @execReplyFlit_keeps p f s
  | nullFlit p f => exact @execNullFlit_keeps p f s
  | tincanFlit p f w => exact @execTincanFlit_keeps p f w s
  | collReady p f w => exact @execCollReady_keeps p f w s
  | collData p f w => exact @execCollData_keeps p f w s
  | collLanded p f w => exact @execCollLanded_keeps p f w s
  | flitDiscard p c => exact @execFlitDiscard_keeps p c s
  | nak p ack ecc => exact @execNak_keeps p ack ecc s
  | portRetrainEnd p ok => exact @execPortRetrainEnd_keeps p ok s
  | laneLoss p lanes beatLost => exact @execLaneLoss_keeps p lanes beatLost s
  | laneRecalDue p => exact @execLaneRecalDue_keeps p s
  | recalOffer p domain beat lane => exact @execRecalOffer_keeps p domain beat lane s
  | laneRecalEnd p ok => exact @execLaneRecalEnd_keeps p ok s
  | firewallViolation e addr => exact @execFirewallViolation_keeps e addr s
  | engineFail e => exact @execEngineFail_keeps e s
  | engineReady e tempC => exact @execEngineReady_keeps e tempC s
  | join m => exact @execJoin_keeps m s
  | withdraw domain node part => exact @execWithdraw_keeps domain node part s
  | formationTimeout p => exact @execFormationTimeout_keeps p s
  | firstBeat p ann => exact @execFirstBeat_keeps p ann s
  | beatInEdge p => exact @execBeatInEdge_keeps p s
  | beatInMiss p => exact @execBeatInMiss_keeps p s
  | closeDeadline p stalls => exact @execCloseDeadline_keeps p stalls s
  | memberClose p lateNs stalls => exact @execMemberClose_keeps p lateNs stalls s
  | closingToken p tok members atNs => exact @execClosingToken_keeps p tok members atNs s
  | overrunToken p tok => exact @execOverrunToken_keeps p tok s
  | faultToken p org => exact @execFaultToken_keeps p org s
  | stretchLimit p => exact @execStretchLimit_keeps p s
  | stallSymbol p org => exact @execStallSymbol_keeps p org s
  | overrunSymbol p tok => exact @execOverrunSymbol_keeps p tok s
  | symbolTimeout p => exact @execSymbolTimeout_keeps p s
  | boundarySymbol p b => exact @execBoundarySymbol_keeps p b s
  | beatBoundary p counts => exact @execBeatBoundary_keeps p counts s
  | handoverEnd r ok => exact @execHandoverEnd_keeps r ok s
  | rotationDue r => exact @execRotationDue_keeps r s
  | suiteEnd r core outs => exact @execSuiteEnd_keeps r core outs s
  | dupCompare r twin kind wrong => exact @execDupCompare_keeps r twin kind wrong s
  | descFetch n phys => exact @execDescFetch_keeps n phys s
  | descComplete o id => exact @execDescComplete_keeps o id s
  | matrix o u => exact @execMatrix_keeps o u s
  | tilePassEnd r k errs acc => exact @execTilePassEnd_keeps r k errs acc s
  | vector o u => exact @execVector_keeps o u s
  | layout o u => exact @execLayout_keeps o u s
  | norm o u => exact @execNorm_keeps o u s
  | finalise o u => exact @execFinalise_keeps o u s
  | apply o u => exact @execApply_keeps o u s
  | stepEnd o u => exact @execStepEnd_keeps o u s
  | stepStateReady p => exact @execStepStateReady_keeps p s
  | allReduce o phys => exact @execAllReduce_keeps o phys s
  | reduceScatter o phys => exact @execReduceScatter_keeps o phys s
  | allGather o phys => exact @execAllGather_keeps o phys s
  | broadcast o phys => exact @execBroadcast_keeps o phys s
  | allToAll o phys => exact @execAllToAll_keeps o phys s
  | barrier o => exact @execBarrier_keeps o s
  | tincan o phys => exact @execTincan_keeps o phys s
  | fpExchange o phys => exact @execFpExchange_keeps o phys s
  | copy o u bad => exact @execCopy_keeps o u bad s
  | encode o u bad => exact @execEncode_keeps o u bad s
  | decode o u bad => exact @execDecode_keeps o u bad s
  | verify o u bad => exact @execVerify_keeps o u bad s
  | stash o u => exact @execStash_keeps o u s
  | recallOp o u => exact @execRecall_keeps o u s
  | release o u => exact @execRelease_keeps o u s
  | groupRows o u => exact @execGroupRows_keeps o u s
  | snapshot o => exact @execSnapshot_keeps o s
  | chunkLeft p phys => exact @execChunkLeft_keeps p phys s
  | snapshotFinish p => exact @execSnapshotFinish_keeps p s
  | alloc o => exact @execAlloc_keeps o s
  | free o => exact @execFree_keeps o s
  | drop o => exact @execDrop_keeps o s
  | takeNow o => exact @execTakeNow_keeps o s
  | peek o => exact @execPeek_keeps o s
  | rdrop o => exact @execRdrop_keeps o s
  | fence o => exact @execFence_keeps o s
  | programLaunch o => exact @execProgramLaunch_keeps o s
  | resync o => exact @execResync_keeps o s
  | jdrop r k => exact @execJdrop_keeps r k s
  | jtake r k => exact @execJtake_keeps r k s
  | jtry r k => exact @execJtry_keeps r k s
  | jpeek r k => exact @execJpeek_keeps r k s
  | jrdrop r k => exact @execJrdrop_keeps r k s
  | launch r k parityBad => exact @execLaunch_keeps r k parityBad s
  | bwait r k => exact @execBwait_keeps r k s
  | sumrd r k => exact @execSumrd_keeps r k s
  | ecall r k => exact @execEcall_keeps r k s
  | ccTrap r k => exact @execCcTrap_keeps r k s
  | baseInstruction r k => exact @execBaseInstruction_keeps r k s
  | mbxtx r k => exact @execMbxtx_keeps r k s
  | mbxrx r k => exact @execMbxrx_keeps r k s
  | mbxst r k => exact @execMbxst_keeps r k s
  | mbxstClear r k => exact @execMbxstClear_keeps r k s
  | add r k chk => exact @execAdd_keeps r k chk s
  | sub r k chk => exact @execSub_keeps r k chk s
  | mul r k chk => exact @execMul_keeps r k chk s
  | fma r k chk => exact @execFma_keeps r k chk s
  | max r k chk => exact @execMax_keeps r k chk s
  | min r k chk => exact @execMin_keeps r k chk s
  | abs r k chk => exact @execAbs_keeps r k chk s
  | neg r k chk => exact @execNeg_keeps r k chk s
  | div r k chk => exact @execDiv_keeps r k chk s
  | sqrt r k chk => exact @execSqrt_keeps r k chk s
  | rsqrt r k chk => exact @execRsqrt_keeps r k chk s
  | recip r k chk => exact @execRecip_keeps r k chk s
  | exp r k chk => exact @execExp_keeps r k chk s
  | log r k chk => exact @execLog_keeps r k chk s
  | tanh r k chk => exact @execTanh_keeps r k chk s
  | sigm r k chk => exact @execSigm_keeps r k chk s
  | gelu r k chk => exact @execGelu_keeps r k chk s
  | silu r k chk => exact @execSilu_keeps r k chk s
  | cmpeq r k chk => exact @execCmpeq_keeps r k chk s
  | cmplt r k chk => exact @execCmplt_keeps r k chk s
  | cmple r k chk => exact @execCmple_keeps r k chk s
  | sel r k chk => exact @execSel_keeps r k chk s
  | iadd r k chk => exact @execIadd_keeps r k chk s
  | iand r k chk => exact @execIand_keeps r k chk s
  | ior r k chk => exact @execIor_keeps r k chk s
  | ixor r k chk => exact @execIxor_keeps r k chk s
  | cvtif r k chk => exact @execCvtif_keeps r k chk s
  | cvtfi r k chk => exact @execCvtfi_keeps r k chk s
  | mov r k chk => exact @execMov_keeps r k chk s
  | bcast r k chk => exact @execBcast_keeps r k chk s
  | trans r k chk => exact @execTrans_keeps r k chk s
  | iota r k chk => exact @execIota_keeps r k chk s
  | rsum r k chk => exact @execRsum_keeps r k chk s
  | rmax r k chk => exact @execRmax_keeps r k chk s
  | rmin r k chk => exact @execRmin_keeps r k chk s
  | ramax r k chk => exact @execRamax_keeps r k chk s
  | rnf r k chk => exact @execRnf_keeps r k chk s
  | post r k chk => exact @execPost_keeps r k chk s
  | ld r k chk => exact @execLd_keeps r k chk s
  | st r k chk => exact @execSt_keeps r k chk s
  | ldh r k chk => exact @execLdh_keeps r k chk s
  | scrubRead m errs => exact @execScrubRead_keeps m errs s
  | recalDue m => exact @execRecalDue_keeps m s
  | visitStart m => exact @execVisitStart_keeps m s
  | visitEnd m ok spare => exact @execVisitEnd_keeps m ok spare s
  | isolateDie d => exact @execIsolateDie_keeps d s
  | d2dRetry m inRow inSecond => exact @execD2dRetry_keeps m inRow inSecond s
  | moduleRetrainEnd m ok => exact @execModuleRetrainEnd_keeps m ok s
  | railPoll reads act => exact @execRailPoll_keeps reads act s
  | sensorRead dies hub => exact @execSensorRead_keeps dies hub s
  | hbmTempRead temps => exact @execHbmTempRead_keeps temps s
  | droop r cycles => exact @execDroop_keeps r cycles s
  | thermalTrip => exact @execThermalTrip_keeps s
  | bypass => exact @execBypass_keeps s
  | idcode => exact @execIdcode_keeps s
  | samplePreload pins load => exact @execSamplePreload_keeps pins load s
  | extest pins load => exact @execExtest_keeps pins load s
  | clamp => exact @execClamp_keeps s
  | highz => exact @execHighz_keeps s
  | extestPulse pins load => exact @execExtestPulse_keeps pins load s
  | extestTrain pins load => exact @execExtestTrain_keeps pins load s
  | dropCreditReport q node part epoch => exact @execDropCreditReport_keeps q node part epoch s
  | endpointWordSend e c word => exact @execEndpointWordSend_keeps e c word s
  | glkCreditReturn ack cls n => exact @execGlkCreditReturn_keeps ack cls n s
  | tapReset => exact @execTapReset_keeps s

end Sys2Proof.Machine
end

