-- ==== Sys2Proof/Laws/Field.lean ====
section
/-! SUPPORT. The arithmetic of GF(256) (R327) is that of a field: products distribute over XOR, commute and associate, and have no zero divisors. -/
namespace Sys2Proof.Machine

theorem xorN_eq (a b : Nat) : xorN a b = a ^^^ b := rfl

theorem gfDouble_eq (a : Nat) (h : a < 256) : gfDouble a = (2 * a) ^^^ (a / 128 * 0x11D) := by
  unfold gfDouble
  rcases Nat.lt_or_ge a 128 with h1 | h1
  · rw [if_neg (by omega), Nat.div_eq_of_lt h1, Nat.zero_mul, Nat.xor_zero]
  · rw [if_pos (by omega), show a / 128 = 1 by omega, Nat.one_mul, Nat.mod_eq_of_lt (by omega : 2 * a < 512)]
    rfl

theorem gfDouble_lt (a : Nat) (h : a < 256) : gfDouble a < 256 := by
  have : ∀ a < 256, gfDouble a < 256 := by decide +kernel
  exact this a h

theorem gfDouble_xor (a b : Nat) (ha : a < 256) (hb : b < 256) : gfDouble (a ^^^ b) = gfDouble a ^^^ gfDouble b := by
  have hx : a ^^^ b < 256 := Nat.xor_lt_two_pow (n := 8) ha hb
  rw [gfDouble_eq _ hx, gfDouble_eq _ ha, gfDouble_eq _ hb]
  have h2 : 2 * (a ^^^ b) = (2 * a) ^^^ (2 * b) := by
    have := Nat.shiftLeft_xor_distrib (a := a) (b := b) (i := 1)
    simpa [Nat.shiftLeft_eq, Nat.mul_comm] using this
  have h3 : (a ^^^ b) / 128 = a / 128 ^^^ b / 128 := by
    have := Nat.shiftRight_xor_distrib (a := a) (b := b) (i := 7)
    simpa [Nat.shiftRight_eq_div_pow] using this
  have h4 : (a / 128 ^^^ b / 128) * 0x11D = a / 128 * 0x11D ^^^ b / 128 * 0x11D := by
    obtain h | h : a / 128 = 0 ∨ a / 128 = 1 := by omega
    all_goals obtain h' | h' : b / 128 = 0 ∨ b / 128 = 1 := by omega
    all_goals simp [h, h']
  rw [h2, h3, h4]
  ac_rfl

theorem gfMulF_lt (k : Nat) : ∀ a b, a < 256 → gfMulF k a b < 256 := by
  induction k with
  | zero => intro _ _ _; exact Nat.zero_lt_succ _
  | succ k ih =>
    intro a b ha
    refine Nat.xor_lt_two_pow (n := 8) ?_ (ih _ _ (gfDouble_lt a ha))
    split <;> omega

theorem gfMulF_xor_right (k : Nat) : ∀ a b c, gfMulF k a (b ^^^ c) = gfMulF k a b ^^^ gfMulF k a c := by
  induction k with
  | zero => intro _ _ _; simp [gfMulF]
  | succ k ih =>
    intro a b c
    have hd : (b ^^^ c) / 2 = b / 2 ^^^ c / 2 := by
      have := Nat.shiftRight_xor_distrib (a := b) (b := c) (i := 1)
      simpa [Nat.shiftRight_eq_div_pow] using this
    have hm : (b ^^^ c) % 2 = (b % 2 + c % 2) % 2 := by
      have := Nat.xor_mod_two_eq (m := b) (n := c)
      omega
    simp only [gfMulF, hd, ih, xorN_eq]
    have e : (if (b ^^^ c) % 2 = 1 then a else 0) = (if b % 2 = 1 then a else 0) ^^^ (if c % 2 = 1 then a else 0) := by
      rw [hm]
      obtain h | h : b % 2 = 0 ∨ b % 2 = 1 := by omega
      all_goals obtain h' | h' : c % 2 = 0 ∨ c % 2 = 1 := by omega
      all_goals simp [h, h']
    rw [e]
    ac_rfl

theorem gfMulF_xor_left (k : Nat) : ∀ a b c, a < 256 → b < 256 → gfMulF k (a ^^^ b) c = gfMulF k a c ^^^ gfMulF k b c := by
  induction k with
  | zero => intro _ _ _ _ _; simp [gfMulF]
  | succ k ih =>
    intro a b c ha hb
    simp only [gfMulF, gfDouble_xor a b ha hb, ih _ _ _ (gfDouble_lt a ha) (gfDouble_lt b hb), xorN_eq]
    split
    · ac_rfl
    · simp only [Nat.zero_xor]

theorem gfMul_lt (a b : Nat) (h : a < 256) : gfMul a b < 256 := gfMulF_lt 8 a b h
theorem gfMul_xor_right (a b c : Nat) : gfMul a (b ^^^ c) = gfMul a b ^^^ gfMul a c := gfMulF_xor_right 8 a b c
theorem gfMul_xor_left (a b c : Nat) (ha : a < 256) (hb : b < 256) : gfMul (a ^^^ b) c = gfMul a c ^^^ gfMul b c := gfMulF_xor_left 8 a b c ha hb
theorem gfMul_zero (a : Nat) (h : a < 256) : gfMul a 0 = 0 := by
  have : ∀ a < 256, gfMul a 0 = 0 := by decide +kernel
  exact this a h
theorem gfMul_one (a : Nat) (h : a < 256) : gfMul a 1 = a := by
  have : ∀ a < 256, gfMul a 1 = a := by decide +kernel
  exact this a h

/-- Two functions that distribute over XOR and agree on the powers of two agree. -/
theorem gfBasis (f g : Nat → Nat) (hf : ∀ a b, a < 256 → b < 256 → f (a ^^^ b) = f a ^^^ f b) (hg : ∀ a b, a < 256 → b < 256 → g (a ^^^ b) = g a ^^^ g b)
    (h : ∀ i < 8, f (2 ^ i) = g (2 ^ i)) (a : Nat) (ha : a < 256) : f a = g a := by
  have h0 : f 0 = g 0 := by
    have := hf 0 0 (by omega) (by omega)
    have := hg 0 0 (by omega) (by omega)
    simp_all
  have split : ∀ a < 256, a ≠ 0 → 2 ^ Nat.log2 a < 256 ∧ Nat.log2 a < 8 ∧ a - 2 ^ Nat.log2 a < a ∧ a = 2 ^ Nat.log2 a ^^^ (a - 2 ^ Nat.log2 a) := by decide +kernel
  induction a using Nat.strong_induction_on with
  | _ a ih =>
    by_cases hz : a = 0
    · rw [hz, h0]
    · obtain ⟨h1, h2, h3, h4⟩ := split a ha hz
      rw [h4, hf _ _ h1 (by omega), hg _ _ h1 (by omega), h _ h2, ih _ h3 (by omega)]

theorem gfMul_comm (a b : Nat) (ha : a < 256) (hb : b < 256) : gfMul a b = gfMul b a := by
  refine gfBasis (gfMul · b) (gfMul b ·) (fun x y hx hy => gfMul_xor_left x y b hx hy) (fun x y _ _ => gfMul_xor_right b x y) (fun i hi => ?_) a ha
  have hp : 2 ^ i < 256 := Nat.pow_lt_pow_right (by omega) (m := i) (n := 8) hi
  refine gfBasis (gfMul (2 ^ i) ·) (gfMul · (2 ^ i)) (fun x y _ _ => gfMul_xor_right _ x y) (fun x y hx hy => gfMul_xor_left x y _ hx hy) (fun j hj => ?_) b hb
  have : ∀ i < 8, ∀ j < 8, gfMul (2 ^ i) (2 ^ j) = gfMul (2 ^ j) (2 ^ i) := by decide +kernel
  exact this i hi j hj

theorem gfMul_assoc (a b c : Nat) (ha : a < 256) (hb : b < 256) (hc : c < 256) : gfMul (gfMul a b) c = gfMul a (gfMul b c) := by
  have hl : ∀ x y, x < 256 → y < 256 → gfMul x y < 256 := fun x y h _ => gfMul_lt x y h
  refine gfBasis (fun a => gfMul (gfMul a b) c) (fun a => gfMul a (gfMul b c))
    (fun x y hx hy => by simp only [gfMul_xor_left x y b hx hy, gfMul_xor_left _ _ c (hl x b hx hb) (hl y b hy hb)])
    (fun x y hx hy => gfMul_xor_left x y _ hx hy) (fun i hi => ?_) a ha
  have hp : 2 ^ i < 256 := Nat.pow_lt_pow_right (by omega) (m := i) (n := 8) hi
  refine gfBasis (fun b => gfMul (gfMul (2 ^ i) b) c) (fun b => gfMul (2 ^ i) (gfMul b c))
    (fun x y hx hy => by simp only [gfMul_xor_right, gfMul_xor_left _ _ c (hl _ x hp hx) (hl _ y hp hy)])
    (fun x y hx hy => by simp only [gfMul_xor_left x y c hx hy, gfMul_xor_right]) (fun j hj => ?_) b hb
  refine gfBasis (fun c => gfMul (gfMul (2 ^ i) (2 ^ j)) c) (fun c => gfMul (2 ^ i) (gfMul (2 ^ j) c))
    (fun x y _ _ => gfMul_xor_right _ x y) (fun x y _ _ => by simp only [gfMul_xor_right]) (fun k hk => ?_) c hc
  have : ∀ i < 8, ∀ j < 8, ∀ k < 8, gfMul (gfMul (2 ^ i) (2 ^ j)) (2 ^ k) = gfMul (2 ^ i) (gfMul (2 ^ j) (2 ^ k)) := by decide +kernel
  exact this i hi j hj k hk

/-- The power a^254, by squares. -/
def gfInvSq (a : Nat) : Nat :=
  (List.range 6).foldl (fun x _ => gfMul (gfMul x x) (gfMul a a)) (gfMul a a)

/-- Every element but zero has an inverse. -/
theorem gfMul_inv (a : Nat) (ha : a < 256) (h : a ≠ 0) : ∃ b < 256, gfMul a b = 1 := by
  have : ∀ a < 256, a ≠ 0 → gfMul a (gfInvSq a) = 1 ∧ gfInvSq a < 256 := by decide +kernel
  exact ⟨gfInvSq a, (this a ha h).2, (this a ha h).1⟩

theorem gfMul_eq_zero (a b : Nat) (ha : a < 256) (hb : b < 256) (h : gfMul a b = 0) : a = 0 ∨ b = 0 := by
  by_cases hz : a = 0
  · exact .inl hz
  · obtain ⟨c, h2, h1⟩ := gfMul_inv a ha hz
    refine .inr ?_
    have := gfMul_assoc c a b h2 ha hb
    rw [h, gfMul_zero _ h2, gfMul_comm _ _ h2 ha, h1, gfMul_comm _ _ (by omega) hb, gfMul_one b hb] at this
    exact this

theorem gfMul_cancel (a b c : Nat) (ha : a < 256) (hb : b < 256) (hc : c < 256) (h0 : a ≠ 0) (h : gfMul a b = gfMul a c) : b = c := by
  obtain ⟨d, h2, h1⟩ := gfMul_inv a ha h0
  have e : ∀ x < 256, gfMul d (gfMul a x) = x := fun x hx => by
    rw [← gfMul_assoc _ _ _ h2 ha hx, gfMul_comm _ _ h2 ha, h1, gfMul_comm _ _ (by omega) hx, gfMul_one x hx]
  rw [← e b hb, ← e c hc, h]

theorem gfPowN_lt (n : Nat) : gfPowN 2 n < 256 := by
  cases n with
  | zero => exact Nat.one_lt_two_pow (n := 8) (by omega)
  | succ n => exact gfMul_lt 2 _ (by omega)

theorem gfPowN_ne_zero (n : Nat) : gfPowN 2 n ≠ 0 := by
  induction n with
  | zero => exact Nat.one_ne_zero
  | succ n ih =>
    intro h
    obtain h | h := gfMul_eq_zero 2 _ (by omega) (gfPowN_lt n) h
    · omega
    · exact ih h

theorem gfPowN_add (m n : Nat) : gfPowN 2 (m + n) = gfMul (gfPowN 2 m) (gfPowN 2 n) := by
  induction m with
  | zero => rw [Nat.zero_add, gfMul_comm _ _ (gfPowN_lt 0) (gfPowN_lt n)]; exact (gfMul_one _ (gfPowN_lt n)).symm
  | succ m ih =>
    rw [Nat.succ_add]
    simp only [gfPowN, ih]
    exact (gfMul_assoc _ _ _ (by omega) (gfPowN_lt m) (gfPowN_lt n)).symm

/-- A power of α at a place of a sector is a power of the locator of the place. -/
theorem gfAlpha_mul (j m : Nat) (h : (j + 1) * m < 255) : gfAlpha ((j + 1) * m) = gfMul (gfAlpha (j * m)) (gfAlpha m) := by
  have h1 : (j + 1) * m = j * m + m := by ring
  simp only [gfAlpha, Nat.mod_eq_of_lt h, Nat.mod_eq_of_lt (show j * m < 255 by omega), Nat.mod_eq_of_lt (show m < 255 by omega)]
  rw [h1, gfPowN_add]

theorem gfAlpha_lt (n : Nat) : gfAlpha n < 256 := gfPowN_lt _
theorem gfAlpha_ne_zero (n : Nat) : gfAlpha n ≠ 0 := gfPowN_ne_zero _
theorem gfAlpha_zero : gfAlpha 0 = 1 := rfl

/-- The locators of the places of a sector differ. -/
theorem gfAlpha_inj (m n : Nat) (hm : m < 68) (hn : n < 68) (h : gfAlpha m = gfAlpha n) : m = n := by
  have one : ∀ d < 68, d ≠ 0 → gfPowN 2 d ≠ 1 := by decide +kernel
  have key : ∀ a b, a < 68 → b < 68 → a ≤ b → gfPowN 2 a = gfPowN 2 b → a = b := fun a b _ hb hab h => by
    have e := gfPowN_add a (b - a)
    rw [show a + (b - a) = b by omega, ← h] at e
    by_contra hne
    exact one (b - a) (by omega) (by omega) (gfMul_cancel _ _ _ (gfPowN_lt a) (gfPowN_lt _) (by omega) (gfPowN_ne_zero a) (e.symm.trans (gfMul_one _ (gfPowN_lt a)).symm))
  simp only [gfAlpha, Nat.mod_eq_of_lt (show m < 255 by omega), Nat.mod_eq_of_lt (show n < 255 by omega)] at h
  obtain hle | hle := Nat.le_total m n
  · exact key m n hm hn hle h
  · exact (key n m hn hm hle h.symm).symm

/-! ## The ring -/

/-- An element of GF(256). -/
@[ext] structure GE where
  n : Nat
  lt : n < 256

/-- GF(256) is a commutative ring. A proof takes it with letI. -/
abbrev GE.ring : CommRing GE where
  add a b := ⟨a.n ^^^ b.n, Nat.xor_lt_two_pow (n := 8) a.lt b.lt⟩
  zero := ⟨0, by omega⟩
  neg a := a
  mul a b := ⟨gfMul a.n b.n, gfMul_lt a.n b.n a.lt⟩
  one := ⟨1, by omega⟩
  nsmul n a := ⟨if n % 2 = 1 then a.n else 0, by have := a.lt; split <;> omega⟩
  nsmul_zero a := GE.ext rfl
  nsmul_succ n a := GE.ext (by
    change (if (n + 1) % 2 = 1 then a.n else 0) = (if n % 2 = 1 then a.n else 0) ^^^ a.n
    obtain h | h : n % 2 = 0 ∨ n % 2 = 1 := by omega
    · rw [if_pos (by omega), if_neg (by omega), Nat.zero_xor]
    · rw [if_neg (by omega), if_pos h, Nat.xor_self])
  zsmul z a := ⟨if z % 2 = 1 then a.n else 0, by have := a.lt; split <;> omega⟩
  zsmul_zero' a := GE.ext rfl
  zsmul_succ' n a := GE.ext (by
    change (if (((n + 1 : Nat) : Int)) % 2 = 1 then a.n else 0) = (if (n : Int) % 2 = 1 then a.n else 0) ^^^ a.n
    obtain h | h : (n : Int) % 2 = 0 ∨ (n : Int) % 2 = 1 := by omega
    · rw [if_pos (by omega), if_neg (by omega), Nat.zero_xor]
    · rw [if_neg (by omega), if_pos h, Nat.xor_self])
  zsmul_neg' n a := GE.ext (by
    change (if (Int.negSucc n) % 2 = 1 then a.n else 0) = (if (((n + 1 : Nat) : Int)) % 2 = 1 then a.n else 0)
    obtain h | h : (n : Int) % 2 = 0 ∨ (n : Int) % 2 = 1 := by omega
    · rw [if_pos (by omega), if_pos (by omega)]
    · rw [if_neg (by omega), if_neg (by omega)])
  add_assoc a b c := GE.ext (Nat.xor_assoc a.n b.n c.n)
  zero_add a := GE.ext (Nat.zero_xor a.n)
  add_zero a := GE.ext (Nat.xor_zero a.n)
  add_comm a b := GE.ext (Nat.xor_comm a.n b.n)
  neg_add_cancel a := GE.ext (Nat.xor_self a.n)
  mul_assoc a b c := GE.ext (gfMul_assoc a.n b.n c.n a.lt b.lt c.lt)
  one_mul a := GE.ext ((gfMul_comm 1 a.n (by omega) a.lt).trans (gfMul_one a.n a.lt))
  mul_one a := GE.ext (gfMul_one a.n a.lt)
  zero_mul a := GE.ext ((gfMul_comm 0 a.n (by omega) a.lt).trans (gfMul_zero a.n a.lt))
  mul_zero a := GE.ext (gfMul_zero a.n a.lt)
  left_distrib a b c := GE.ext (gfMul_xor_right a.n b.n c.n)
  right_distrib a b c := GE.ext (gfMul_xor_left a.n b.n c.n a.lt b.lt)
  mul_comm a b := GE.ext (gfMul_comm a.n b.n a.lt b.lt)

/-- It has no zero divisors. -/
theorem GE.mul_eq_zero (a b : GE) (h : (GE.ring.mul a b).n = 0) : a.n = 0 ∨ b.n = 0 := gfMul_eq_zero a.n b.n a.lt b.lt h

end Sys2Proof.Machine
end

