-- ==== Sys2Proof/Laws/Flits.lean ====
section
/-! SUPPORT. What a flit that is accepted on a port does. -/
namespace Sys2Proof.Machine

/-- A flit for this node that is accepted is consumed, and its buffer is free again. -/
theorem State.flitIn_of_lands {s t : State} {p : Nat} {f : Flit} {k : State → State} (h : FlitLands s t p f) :
    s.flitIn p f k = (k t).returnCredit p f.vc f.dl := by
  unfold State.flitIn State.fabIn
  have e := h.acked
  have m := h.mine
  rw [if_neg (by simp [h.up]), if_neg (by simp [h.conforms]), if_neg h.numbered, if_pos h.inOrder]
  unfold State.eccOr
  simp only [h.good]
  rw [← e, if_neg (fun n => n m)]

/-- A collective flit of the collective that an engine runs is acted on for it. -/
theorem State.collIn_of_takes {s : State} {q : Nat} {f : Flit} {tc : Bool} {x : Coll} {k : State → Nat → Option (Bool × Coll) → State}
    (h : CollTakes s q f tc x) : ∃ g, s.collIn q f k = k s g (some (tc, x)) := by
  obtain ⟨g, hg, hd⟩ := h.group
  refine ⟨g, ?_⟩
  have e := h.engine
  unfold State.collIn
  simp only [h.running, hg, hd, Bool.true_eq_false, Bool.false_eq_true, if_false]
  cases tc
  · simp only [Bool.false_eq_true, if_false] at e
    simp only [e, h.takes, if_true]
  · simp only [if_true] at e
    cases hb : (s.part q).coll.bulk with
    | none => simp only [e.1, h.takes, if_true]
    | some y => simp only [e.1, e.2 y hb, h.takes, Bool.false_eq_true, if_false, if_true]

end Sys2Proof.Machine
end

