-- ==== Sys2Proof/Laws/Link.lean ====
section
/-! SUPPORT. Sending over GlaetLink, and the recorder, change nothing but what they are for. -/
namespace Sys2Proof.Machine

theorem LinkOnly.refl (s : State) : LinkOnly s s := rfl

theorem LinkOnly.trans {a b c : State} (h : LinkOnly a b) (k : LinkOnly b c) : LinkOnly a c := by
  unfold LinkOnly at *
  rw [k, h]

theorem LinkOnly.of_updGlk (s : State) (g : Glk → Glk) : LinkOnly s (s.updGlk g) := rfl

theorem LinkOnly.of_emit (s : State) (o : Out) : LinkOnly s (s.emit o) := rfl

theorem LinkOnly.each {α : Type} {s : State} {l : List α} {f : State → α → State} (h : ∀ s x, LinkOnly s (f s x)) : LinkOnly s (s.each l f) := by
  unfold State.each
  induction l generalizing s with
  | nil => exact LinkOnly.refl s
  | cons x t ih => exact (h s x).trans ih

theorem LinkOnly.fget {s t : State} (h : LinkOnly s t) (f : Fld) : t.fget f = s.fget f := by rw [h]; rfl
theorem LinkOnly.mem {s t : State} (h : LinkOnly s t) : t.mem = s.mem := by rw [h]
theorem LinkOnly.parts {s t : State} (h : LinkOnly s t) : t.parts = s.parts := by rw [h]
theorem LinkOnly.rings {s t : State} (h : LinkOnly s t) : t.rings = s.rings := by rw [h]
theorem LinkOnly.slots {s t : State} (h : LinkOnly s t) : t.slots = s.slots := by rw [h]
theorem LinkOnly.recs {s t : State} (h : LinkOnly s t) : t.recs = s.recs := by rw [h]
theorem LinkOnly.chans {s t : State} (h : LinkOnly s t) : t.chans = s.chans := by rw [h]
theorem LinkOnly.regs {s t : State} (h : LinkOnly s t) : t.regs = s.regs := by rw [h]

/-- A message sent, or kept back for a credit, changes only the link. -/
theorem State.glkPut_only (s : State) (m : GlkMsg) : LinkOnly s (s.glkPut m) := by
  unfold State.glkPut
  split <;> rfl

theorem State.glkDrain_only (s : State) : LinkOnly s s.glkDrain :=
  (LinkOnly.of_updGlk s _).trans (LinkOnly.each fun s m => s.glkPut_only m)

theorem State.glkFree_only (s : State) (c : Nat) : LinkOnly s (s.glkFree c) := rfl

/-- What a flit that arrives brings changes only the link. -/
theorem State.glkTake_only (s : State) (h : GlkHead) (n : Nat) : LinkOnly s (s.glkTake h n) := by
  unfold State.glkTake
  dsimp only
  split
  · exact ((LinkOnly.of_updGlk s _).trans (LinkOnly.of_updGlk ..)).trans (State.glkDrain_only _)
  · exact LinkOnly.of_updGlk s _

/-- A message that comes in sequence is taken, or takes the link down when its header does not conform (R397, R398). -/
theorem State.glkIn_of_comes {s t : State} {h : GlkHead} {n : Nat} {ok : Bool} {k : State → State} (c : MsgComes s t h n) :
    s.glkIn h n ok k = if ok then k t else s.glkDown := by
  unfold State.glkIn State.glkAccept
  simp only [c.up, c.inOrder, c.taken, Bool.true_eq_false, if_false, if_true]
  cases ok <;> simp

/-- A request that goes out changes only the link. -/
theorem State.glkIssue_only (s : State) (m : GlkMsg) (o : Outst) : LinkOnly s (s.glkIssue m o) := by
  unfold State.glkIssue
  dsimp only
  split
  · exact ((LinkOnly.of_updGlk s _).trans (State.glkPut_only ..)).trans (State.glkPut_only ..)
  · exact (LinkOnly.of_updGlk s _).trans (State.glkPut_only ..)

theorem State.glkRequest_only (s : State) (op pa : Nat) (data : List Byte) (w : Owner) : LinkOnly s (s.glkRequest op pa data w) := by
  unfold State.glkRequest
  dsimp only
  split
  · exact (LinkOnly.of_updGlk s _).trans (State.glkIssue_only ..)
  · exact (LinkOnly.of_updGlk s _).trans (LinkOnly.of_updGlk ..)

theorem State.glkUndefer_only (s : State) : LinkOnly s s.glkUndefer := by
  refine (LinkOnly.of_updGlk s _).trans (LinkOnly.each fun s x => ?_)
  split
  · exact State.glkIssue_only ..
  · exact LinkOnly.of_updGlk ..

/-- The writes of a companion range change only the link. -/
theorem State.glkSendRange_only (s : State) (pa len : Nat) (w : Owner) : LinkOnly s (s.glkSendRange pa len w) := by
  unfold State.glkSendRange
  split
  · exact LinkOnly.refl s
  · exact LinkOnly.each fun s l => LinkOnly.each fun s w => State.glkRequest_only ..

theorem State.fillLine_only (s : State) (l : Nat) : LinkOnly s (s.fillLine l) := LinkOnly.of_updGlk ..

theorem State.touchLine_only (s : State) (l : Nat) : LinkOnly s (s.touchLine l) := by
  unfold State.touchLine; split
  · exact State.fillLine_only ..
  · exact LinkOnly.refl s

theorem State.dropOnce_only (s : State) : LinkOnly s s.dropOnce := by
  unfold State.dropOnce; split
  · exact LinkOnly.refl s
  · exact LinkOnly.of_updGlk ..

theorem State.askShared_only (s : State) (l : Nat) (w : Owner) : LinkOnly s (s.askShared l w) := by
  unfold State.askShared; split
  · exact LinkOnly.refl s
  · exact State.glkRequest_only ..

theorem State.flushIrqs_only (s : State) : LinkOnly s s.flushIrqs := by
  refine (LinkOnly.of_updGlk s _).trans (LinkOnly.each fun s x => ?_)
  split
  · exact State.glkPut_only ..
  · exact LinkOnly.of_updGlk ..

/-- An interrupt changes only the link. -/
theorem State.queueIrq_only (s : State) (k : Nat) (t : Option Nat) (m : GlkMsg) : LinkOnly s (s.queueIrq k t m) :=
  (LinkOnly.of_updGlk s _).trans (State.flushIrqs_only _)

theorem State.evrIrq_only (s : State) : LinkOnly s s.evrIrq := State.glkPut_only ..

theorem LinkOnly.noteOnly {s t : State} (h : LinkOnly s t) : NoteOnly s t :=
  ⟨by rw [h], fun f _ => h.fget f, [], by rw [h.recs]; simp⟩

/-- A record of an event: it is appended at NEXT, unless Music Box is full, and nothing else changes but its interrupts (R437, R438, R443). -/
theorem State.record_recs (s : State) (e : Event) : (s.record e).recs = if s.evrFull then s.recs else s.recs ++ [s.recOf e] := by
  unfold State.record
  split
  · simp [State.fadd]
  · dsimp only
    split <;> split <;> simp [(State.evrIrq_only _).recs]

theorem State.record_only (s : State) (e : Event) : NoteOnly s (s.record e) := by
  unfold State.record
  split
  · refine ⟨rfl, fun f hf => State.fget_fadd_ne _ (hf _ (List.mem_singleton_self _)) _, [], by simp [State.fadd]⟩
  · dsimp only
    have key : ∀ t : State, LinkOnly { s with recs := s.recs ++ [s.recOf e] } t → NoteOnly s t := by
      intro t h
      refine ⟨by rw [h], fun f _ => (h.fget f).trans rfl, [s.recOf e], h.recs⟩
    have irq : ∀ (c : Bool) (u : State), LinkOnly u (if c then u.evrIrq else u) := by
      intro c u; split
      · exact State.evrIrq_only _
      · exact LinkOnly.refl _
    exact key _ ((irq _ _).trans (irq _ _))

theorem NoteOnly.fget {s t : State} (h : NoteOnly s t) {f : Fld} (hf : f.key ≠ EVR_STAT_DROPPED.key) : t.fget f = s.fget f :=
  h.2.1 f (by simpa using hf)
theorem NoteOnly.mem {s t : State} (h : NoteOnly s t) : t.mem = s.mem := by rw [h.1]
theorem NoteOnly.parts {s t : State} (h : NoteOnly s t) : t.parts = s.parts := by rw [h.1]
theorem NoteOnly.rings {s t : State} (h : NoteOnly s t) : t.rings = s.rings := by rw [h.1]
theorem NoteOnly.slots {s t : State} (h : NoteOnly s t) : t.slots = s.slots := by rw [h.1]
theorem NoteOnly.chans {s t : State} (h : NoteOnly s t) : t.chans = s.chans := by rw [h.1]
theorem NoteOnly.regionSt {s t : State} (h : NoteOnly s t) : t.regionSt = s.regionSt := by rw [h.1]

theorem State.noteDiscard_only (s : State) (a v : Nat) : NoteOnly s (s.noteDiscard a v) := State.record_only ..
theorem State.noteAccess_only (s : State) (a : Nat) : NoteOnly s (s.noteAccess a) := State.record_only ..
theorem State.noteHub_only (s : State) (c l a : Nat) : NoteOnly s (s.noteHub c l a) := State.record_only ..

end Sys2Proof.Machine
end

