-- ==== Sys2Proof/Laws/Runs.lean ====
section
/-! SUPPORT. What a start command does with the descriptor that is next. -/
namespace Sys2Proof.Machine

/-- The start command of a class does the work of the descriptor that is at work: it reads, it does what its class does, and settles (R91). An error
of the class's own checks leaves this to the class. -/
theorem State.startDesc_of_runsOwn {s : State} {o : Origin} {is : Nat → Bool} {ins outs : State → Desc → List (Nat × Nat)}
    {run checks : State → Desc → Run} {d : Desc} {u : Upset} (h : RunsNow s o is ins outs d) (hu : u ∈ [.none, .check, .parity, .adder]) :
    s.startDesc o is ins outs u run checks = (run (s.reading o (ins s d)) d).settle o d (ins s d) := by
  simp only [List.mem_cons, List.not_mem_nil, or_false] at hu
  unfold State.startDesc State.goDesc State.runDesc State.reading
  rcases hu with rfl | rfl | rfl | rfl <;>
    simp only [h.running, h.next, h.started, h.passed, h.work, h.free, h.lines, h.good, upsetFault, and_false, if_false, if_true, Bool.false_eq_true,
      Bool.true_eq_false]

/-- The start command of a class without an error does the work of the descriptor that is at work (R91). -/
theorem State.startDesc_of_runsNow {s : State} {o : Origin} {is : Nat → Bool} {ins outs : State → Desc → List (Nat × Nat)}
    {run checks : State → Desc → Run} {d : Desc} (h : RunsNow s o is ins outs d) :
    s.startDesc o is ins outs .none run checks = (run (s.reading o (ins s d)) d).settle o d (ins s d) :=
  State.startDesc_of_runsOwn h List.mem_cons_self

/-- The start command of a class marks a descriptor that may start and goes on with it: its checks at the start first (R91). -/
theorem State.startDesc_of_startsNow {s t : State} {o : Origin} {is : Nat → Bool} {ins outs : State → Desc → List (Nat × Nat)}
    {run checks : State → Desc → Run} {u : Upset} {d f : Desc} (h : StartsNow s o is outs d t f) :
    s.startDesc o is ins outs u run checks = t.goDesc o f ins outs u run checks := by
  obtain ⟨h1, h2, h3, h4, ⟨e, h5, h6, h7⟩, h8, h9⟩ := h
  subst h7
  unfold State.startDesc
  simp only [h1, h2, h3, Nat.not_lt.2 h4, h5, h6, h8, if_false, if_true, Bool.true_eq_false, Bool.false_eq_true, and_self]
  unfold State.markStarted at h9 ⊢
  simp only [h9]

@[simp] theorem State.streamReady_nil (s : State) : s.streamReady [] = true := rfl
@[simp] theorem State.dropStream_nil (s : State) : s.dropStream [] = s := by
  simp [State.dropStream, companionLines, State.updGlk]
@[simp] theorem State.noteReads_nil (s : State) : s.noteReads [] = s := rfl

/-- Nothing to read: nothing goes wrong. -/
@[simp] theorem State.readFor_nil (s : State) (p : Nat) : s.readFor p [] = (s, none) := by
  have h : s.injSector p [] = none := by simp [State.injSector]
  have k : s.damagedIn [] = [] := by simp [State.damagedIn]
  unfold State.readFor
  simp only [h, k, List.foldl_nil]

@[simp] theorem State.reading_nil (s : State) (o : Origin) : s.reading o [] = s := by simp [State.reading]

/-- A class without inputs does its work at once. -/
theorem State.startPlain_of_runsNow {s : State} {o : Origin} {is : Nat → Bool} {run : State → Desc → Run} {d : Desc}
    (h : RunsNow s o is noRanges noRanges d) : s.startPlain o is run = (run s d).settle o d [] := by
  have e := State.startDesc_of_runsNow (run := run) (checks := fun s _ => .going s) h
  rw [State.reading_nil] at e
  exact e

end Sys2Proof.Machine
end

