-- ==== Sys2Proof/WellFormed.lean ====
section
/-! DEFINITION. Which commands are well formed: operand values that the wires, messages and symbols of the manual can carry. The identifiers of
partitions, rings, regions, slots, ports, stacks and engines are bounded by their types (R9); the checks here bound the rest. The machine gives
every command its meaning, well formed or not. -/
namespace Sys2Proof

/-- A field of `w` bits. -/
def fitsBits (w v : Nat) : Bool := decide (v < 2 ^ w)

/-- Physical errors: symbols of a sector, 0 to 67, each by its error (R328), or a word. -/
def ReadUpset.wf (u : ReadUpset) : Bool := u.all fun x => fitsBits 44 x.1 && x.2.all fun e => decide (e.1 < 68)

/-- What goes wrong in a unit: core queues are Q0 to Q10 (R112); DPAs have 44 bits (R36). -/
def Upset.wf : Upset → Bool
  | .coreQueue q => decide (q < 11)
  | .storeUncorr a => fitsBits 44 a
  | .sector a e => fitsBits 44 a && e.all fun x => decide (x.1 < 68)
  | _ => true

/-- A flit (R349). -/
def Flit.wf (f : Flit) : Bool :=
  fitsBits 8 f.typ && fitsBits 2 f.vc && fitsBits 1 f.dl && fitsBits 16 f.dstNode && fitsBits 2 f.dstPart && fitsBits 2 f.srcPart &&
    fitsBits 16 f.srcNode && fitsBits 16 f.epoch && fitsBits 48 f.addr && decide (f.payload.length ≤ 224) && fitsBits 12 f.seq &&
    fitsBits 12 f.ack && fitsBits 12 f.credit && fitsBits 2 f.cvc && fitsBits 1 f.cdl && f.nak == false

/-- An LMGMT flit: a node ID, a ROLE, the four lanes of a port (R355, R359). -/
def Lmgmt.wf : Lmgmt → Bool
  | .check node role port _ _ lanes _ win => fitsBits 16 node && fitsBits 4 role && decide (port < 18) && fitsBits 4 lanes && fitsBits 8 win
  | .echo => true
  | .echoed rtt turn => decide (turn ≤ rtt)

/-- A token (R59). -/
def Token.wf (t : Token) : Bool := fitsBits 16 t.node && fitsBits 2 t.part && fitsBits 3 t.cause

/-- An origin (R422). -/
def FaultOrigin.wf (o : FaultOrigin) : Bool := fitsBits 16 o.node && fitsBits 2 o.part && fitsBits 12 o.code

/-- A join symbol (R54). -/
def JoinMsg.wf (m : JoinMsg) : Bool :=
  fitsBits 16 m.domain && fitsBits 16 m.node && fitsBits 48 m.start && fitsBits 16 m.settings.members && fitsBits 15 m.settings.periodUs &&
    fitsBits 7 m.settings.guardUs && fitsBits 4 m.settings.stretchLim

/-- A boundary symbol (R56, R75). -/
def BoundaryMsg.wf (b : BoundaryMsg) : Bool := fitsBits 16 b.domain && fitsBits 48 b.number && fitsBits 48 b.stop && b.tok.wf

/-- An element of the vector engine: register, row and column (R211). -/
def VecMiss.wf (m : VecMiss) : Bool := decide (m.reg < 32) && decide (m.row < 32) && decide (m.col < 32)

/-- A part record's body (R476). -/
def PartRecord.wf (x : PartRecord) : Bool :=
  fitsBits 384 x.deviceId && fitsBits 8 x.stepping && fitsBits 8 x.ngen && fitsBits 64 x.serial && ((x.vmin ++ x.fmax).all fun v => decide (v.1 < 256)) &&
    (x.twins.all fun t => fitsBits 6 t.1 && fitsBits 6 t.2) && x.retired.all (fitsBits 42)

/-- The header of a GlaetLink message and of its flit (R397, R398). -/
def GlkHead.wf (h : GlkHead) : Bool :=
  fitsBits 12 h.seq && fitsBits 12 h.ack && fitsBits 4 h.ccls && fitsBits 12 h.credits && decide (h.slot < 15) && fitsBits 3 h.size

/-- A command is well formed. -/
def Instr.wf : Instr → Bool
  | .regWrite a n v => fitsBits 44 a && decide (n ≤ 128) && fitsBits (8 * n) v
  | .start _ bad => decide (bad.Nodup)
  | .save _ a | .restore _ a | .empty _ a => fitsBits 44 a && a % 4096 == 0
  | .doorbell _ v | .completionHeadWrite _ v | .hubResync v | .sealCandidate _ v | .fabPortCfg _ v => fitsBits 64 v
  | .dbell _ v h => fitsBits 64 v && h.wf
  | .beatStop _ at_ => fitsBits 48 at_
  | .bootStageEnd x => x.part.wf
  | .phaseEnd x => fitsBits 16 x.elapsedMs
  | .presentationEnd x _ => x.wf
  | .mbxHoldEnd c | .mboxDeliver c | .wordRemove c _ | .mbxTimeout c _ => decide (c < 256)
  | .mboxWord c w h => decide (c < 256) && fitsBits 64 w && h.wf
  | .mbxTx c w | .endpointWordSend _ c w => decide (c < 256) && fitsBits 64 w
  | .glkRd t a n u h => fitsBits 12 t && fitsBits 44 a && [4, 8, 16, 32, 64, 128].contains n && u.wf && h.wf
  | .glkWr t a d u h => fitsBits 12 t && fitsBits 44 a && [4, 8, 16, 32, 64, 128].contains d.length && u.wf && h.wf
  | .snpInv t a h => fitsBits 12 t && fitsBits 48 a && h.wf
  | .glkData t d u h => fitsBits 12 t && decide (d.length ≤ 128) && u.wf && h.wf
  | .wrAck t h => fitsBits 12 t && h.wf
  | .glkTimeout t => fitsBits 12 t
  | .glkErr t r h => fitsBits 12 t && fitsBits 8 r && h.wf
  | .echo d h | .caps d h => decide (d.length ≤ 128) && h.wf
  | .downNotice h => h.wf
  | .creditInit l c h => fitsBits 16 l && decide (c.length ≤ 8) && h.wf
  | .glkNak a => fitsBits 12 a
  | .glkCreditReturn a c _ => fitsBits 12 a && decide (c < 8)
  | .glkLaneLoss l => fitsBits 16 l
  | .lmgmt _ m => m.wf
  | .dataFlit _ f | .dropFlit _ f | .replyFlit _ f | .nullFlit _ f | .tincanFlit _ f _ | .collReady _ f _ | .collData _ f _ | .collLanded _ f _ => f.wf
  | .nak _ a _ => fitsBits 12 a
  | .laneLoss _ l _ => fitsBits 4 l
  | .recalOffer _ d b _ => fitsBits 16 d && fitsBits 48 b
  | .firewallViolation _ a => fitsBits 44 a
  | .join m => m.wf
  | .withdraw d n _ => fitsBits 16 d && fitsBits 16 n
  | .firstBeat _ a => fitsBits 16 a.masterNode && fitsBits 48 a.number
  | .closeDeadline _ l | .memberClose _ _ l => decide (l.length ≤ 8)
  | .closingToken _ t _ _ | .overrunToken _ t | .overrunSymbol _ t => t.wf
  | .faultToken _ o | .stallSymbol _ o => o.wf
  | .boundarySymbol _ b => b.wf
  | .suiteEnd _ c _ => decide (c < 42)
  | .dupCompare _ t n _ => decide (t < 42) && decide (n < 3)
  | .descFetch _ u | .allReduce _ u | .reduceScatter _ u | .allGather _ u | .broadcast _ u | .allToAll _ u | .tincan _ u | .fpExchange _ u |
    .chunkLeft _ u => u.wf
  | .matrix _ u | .vector _ u | .layout _ u | .norm _ u | .finalise _ u | .apply _ u | .stepEnd _ u | .copy _ u _ | .encode _ u _ |
    .decode _ u _ | .verify _ u _ | .stash _ u | .recallOp _ u | .release _ u | .groupRows _ u => u.wf
  | .tilePassEnd _ _ l acc => (l.all fun x => decide (x.row < 128)) && (match acc with | some x => decide (x.1 < 16) | none => true)
  | .add _ _ m | .sub _ _ m | .mul _ _ m | .fma _ _ m | .max _ _ m | .min _ _ m | .abs _ _ m | .neg _ _ m | .div _ _ m | .sqrt _ _ m |
    .rsqrt _ _ m | .recip _ _ m | .exp _ _ m | .log _ _ m | .tanh _ _ m | .sigm _ _ m | .gelu _ _ m | .silu _ _ m | .cmpeq _ _ m |
    .cmplt _ _ m | .cmple _ _ m | .sel _ _ m | .iadd _ _ m | .iand _ _ m | .ior _ _ m | .ixor _ _ m | .cvtif _ _ m | .cvtfi _ _ m |
    .mov _ _ m | .bcast _ _ m | .trans _ _ m | .iota _ _ m | .rsum _ _ m | .rmax _ _ m | .rmin _ _ m | .ramax _ _ m | .rnf _ _ m |
    .post _ _ m | .ld _ _ m | .st _ _ m | .ldh _ _ m => m.all VecMiss.wf
  | .scrubRead _ e => e.all fun x => decide (x.1 < 68)
  | .railPoll l _ => decide (l.length ≤ 23)
  | .sensorRead l _ => decide (l.length ≤ 4)
  | .hbmTempRead l => decide (l.length ≤ 12)
  | .dropCreditReport _ n p e => fitsBits 16 n && fitsBits 2 p && fitsBits 16 e
  | .reset _ | .startUp | .selfCheck _ | .stateBlockWrite _ | .imageInstall | .opSecTick _ _ | .opsecStore | .recordMirror _ | .clear _ |
    .contextDone _ _ | .ringEnable _ _ | .resyncSample | .evrClear | .flashEraseEnd | .eraseSectorTimeout | .objectPresent |
    .attestationReport | .certificates | .reportSigning | .reportComplete | .tokenPresent | .lock | .unlockExpiry | .injectionArm |
    .glkRetrain | .glkRetrainEnd _ | .endpointReset _ | .endpointReady _ | .glkTrainingTimeout | .glkFlitDiscard _ |
    .glkLaneRecal _ | .glkLaneRecalEnd _ _ | .portTrainTimeout _ | .flitDiscard _ _ | .portRetrainEnd _ _ | .laneRecalDue _ |
    .laneRecalEnd _ _ | .engineFail _ | .engineReady _ _ | .formationTimeout _ | .beatInEdge _ | .beatInMiss _ | .stretchLimit _ |
    .symbolTimeout _ | .beatBoundary _ _ | .handoverEnd _ _ | .rotationDue _ | .descComplete _ _ | .stepStateReady _ | .barrier _ |
    .snapshot _ | .snapshotFinish _ | .alloc _ | .free _ | .drop _ | .takeNow _ | .peek _ | .rdrop _ | .fence _ | .programLaunch _ |
    .resync _ | .jdrop _ _ | .jtake _ _ | .jtry _ _ | .jpeek _ _ | .jrdrop _ _ | .launch _ _ _ | .bwait _ _ | .sumrd _ _ | .ecall _ _ |
    .ccTrap _ _ | .baseInstruction _ _ | .mbxtx _ _ | .mbxrx _ _ | .mbxst _ _ | .mbxstClear _ _ | .recalDue _ | .visitStart _ |
    .visitEnd _ _ _ | .isolateDie _ | .d2dRetry _ _ _ | .moduleRetrainEnd _ _ | .droop _ _ | .thermalTrip | .bypass | .idcode |
    .samplePreload _ _ | .extest _ _ | .clamp | .highz | .extestPulse _ _ | .extestTrain _ _ | .tapReset => true

end Sys2Proof
end

