-- ==== Sys2Proof/Tests/Slice0.lean ====
section
/-! SUPPORT. Small tests of the model: what is well formed, the worked examples of the manual, and for every statement of this row states and
operands that meet its hypotheses. -/
namespace Sys2Proof.Tests
open Sys2Proof Sys2Proof.Machine
set_option Elab.async false
set_option linter.unusedVariables false

/-! ## States and commands to test with -/

theorem some_eq {A : Type} (x : Option A) (h : x.isSome = true) : x = some (x.get h) := (Option.some_get h).symm
/-- The value of a fetch that gives one. -/
def okGet {E A : Type} (x : Except E A) (h : x.isOk = true) : A := match x with
  | .ok a => a
  | .error _ => nomatch h
theorem ok_eq {A E B : Type} (x : A × Except E B) (h : x.2.isOk = true) : x = (x.1, .ok (okGet x.2 h)) := by
  obtain ⟨a, e | b⟩ := x
  · exact nomatch h
  · rfl
theorem none_eq {A B : Type} (x : A × Option B) (h : x.2.isNone = true) : x = (x.1, none) := by
  obtain ⟨a, _ | b⟩ := x
  · rfl
  · exact nomatch h
/-- The state after a jar operation. -/
def jarState : JarOut → State
  | .done s | .misuse s => s
/-- A jar operation that is performed. -/
def isDone : JarOut → Bool
  | .done _ => true
  | .misuse _ => false
theorem done_eq (x : JarOut) (h : isDone x = true) : x = .done (jarState x) := by
  cases x with
  | done s => rfl
  | misuse s => exact nomatch h
theorem noteOnly_refl (s : State) : NoteOnly s s := ⟨rfl, fun _ _ => rfl, [], (List.append_nil _).symm⟩
theorem misuse_eq (x : JarOut) (h : isDone x = false) : x = .misuse (jarState x) := by
  cases x with
  | done s => exact nomatch h
  | misuse s => rfl
/-- The kind, the state (State.reset where there is none) and the numbers of what an instruction gives. -/
def rvKind : RvOut → Nat
  | .next _ => 0
  | .nextTrap .. => 1
  | .trap _ => 2
  | .other => 3
def rvState : RvOut → State
  | .next s | .nextTrap s .. => s
  | _ => State.reset
def rvCause : RvOut → Nat
  | .nextTrap _ c _ | .trap c => c
  | _ => 0
def rvTo : RvOut → Nat
  | .nextTrap _ _ t => t
  | _ => 0
theorem rvNext_eq (x : RvOut) (h : rvKind x = 0) : x = .next (rvState x) := by cases x <;> first | rfl | exact nomatch h
theorem rvNextTrap_eq (x : RvOut) (h : rvKind x = 1) : x = .nextTrap (rvState x) (rvCause x) (rvTo x) := by cases x <;> first | rfl | exact nomatch h
theorem rvTrap_eq (x : RvOut) (h : rvKind x = 2) : x = .trap (rvCause x) := by cases x <;> first | rfl | exact nomatch h
/-- The state and the run after a vector instruction, and whether it goes on. -/
def vecState : VecOut → State
  | .done s _ => s
  | .wait => State.reset
def vecRun (v : VecRun) : VecOut → VecRun
  | .done _ u => u
  | .wait => v
def vecGoes : VecOut → Bool
  | .done .. => true
  | .wait => false
theorem vecDone_eq (x : VecOut) (v : VecRun) (h : vecGoes x = true) : x = .done (vecState x) (vecRun v x) := by
  cases x with
  | done s u => rfl
  | wait => exact nomatch h
theorem vecWait_eq (x : VecOut) (h : vecGoes x = false) : x = .wait := by
  cases x with
  | done s u => exact nomatch h
  | wait => rfl
theorem pair_eq {A B : Type} (x : A × B) : x = (x.1, x.2) := rfl
/-- The first 2^30 bytes of partition 0's virtual addresses lie at 2^30 of the device's memory, writable. -/
def mapped (s : State) : State :=
  let t := (s.fsets [(HUB_PART_PTBASE_ENABLE 0, 1), (HUB_PART_PTBASE_BASE 0, 1)])
  { t with mem := (t.mem.writeNat 0x1000 8 0x2003).writeNat 0x2000 8 (2 ^ 30 + 7) }
theorem somePair_eq {A B : Type} (x : Option (A × B)) (h : x.isSome = true) : x = some ((x.get h).1, (x.get h).2) := (Option.some_get h).symm
theorem pairSome_eq {A B : Type} (x : A × Option B) (h : x.2.isSome = true) : x = (x.1, some (x.2.get h)) := by rw [Option.some_get]
theorem fst_eq {A B : Type} (x : A × B) {b : B} (h : x.2 = b) : x = (x.1, b) := by rw [← h]
/-- The reset state with register fields set. -/
def st (l : List (Fld × Nat)) : State := State.reset.fsets l
/-- Partition 0 runs, at beat 10. -/
def run : State := st [(FAB_NODE_ID, 0), (HUB_PART_CTRL_STATE 0, 3), (BEAT_STATE_STATE 0, 2), (BEAT_NOW_NUMBER 0, 10)]
/-- A state with the domain `d` in partition 0. -/
def inDom (s : State) (d : Domain) : State := s.updDom 0 fun _ => d
/-- A join of node `n`, partition 0, of domain 1 of three members. -/
def joinOf (n : Nat) : JoinMsg := ⟨none, 1, n, 0, true, false, 1, ⟨3, 500, 8, 4, false⟩, 100, 100⟩
/-- A formed domain of nodes 0 and 7. -/
def dom2 : Domain := { Domain.idle with id := some 1, joined := [joinOf 0, joinOf 7], formed := true }
/-- A running master, and a running member with node 9 whose master is node 0, behind port 2. -/
def master : State := inDom (run.fsets [(BEAT_CTRL_JOIN 0, 1), (BEAT_DOMAIN_MEMBERS 0, 2)]) dom2
def member : State := inDom (run.fset FAB_NODE_ID 9) { dom2 with joined := [{ joinOf 0 with port := some 2 }, joinOf 9] }
/-- Partition 0 starts and forms a domain of which the joins `l` have come. -/
def formingOf (l : List JoinMsg) : State :=
  inDom (st [(FAB_NODE_ID, 0), (HUB_PART_CTRL_STATE 0, 2), (BEAT_STATE_STATE 0, 1), (BEAT_CTRL_JOIN 0, 1), (BEAT_DOMAIN_ID 0, 1)]) { Domain.idle with id := some 1, joined := l }
def forming0 : State := formingOf [joinOf 0]
/-- The same with the domain formed, of which node 7 is the master, or node 0. -/
def formedOf (l : List JoinMsg) : State := (formingOf l).updDom 0 fun d => { d with formed := true }
def formed7 : State := formedOf [joinOf 7]
def formed0 : State := (forming0.updDom 0 fun d => { d with formed := true }).updPart 0 fun q => { q with coll := { q.coll with loaded := true } }
/-- Tokens. -/
def tok : Token := ⟨0xFFFF, 3, 0, 7⟩
/-- Ring 0 with 16 entries in the window of the companion, enabled, in a running partition. -/
def ringOn : State := run.fsets [(HUB_RING_SQ_LOG2 0, 4), (HUB_RING_CQ_LOG2 0, 4), (HUB_RING_SQ_BASE 0, 2 ^ 30), (HUB_RING_CQ_BASE 0, 2 ^ 30 + 1),
  (HUB_RING_PTRS_STATE 0, 1), (HUB_RING_PTRS_CQ_PH 0, 1), (HUB_RING_CTRL_WEIGHT 0, 1), (GLK_STAT_STATE, 2)]
/-- The same ring, in the stopped partition. -/
def ringIdle : State := ringOn.fsets [(HUB_PART_CTRL_STATE 0, 1), (HUB_RING_PTRS_STATE 0, 0)]
/-- Ring 0 with one entry handed over and none fetched. -/
def ring1 : State := ringOn.fset (HUB_RING_PTRS_TAIL 0) 1
/-- A value out of its bit fields (byte, bit, value). -/
def raws (l : List (Nat × Nat × Nat)) : Nat := l.foldl (fun n x => n + x.2.2 * 2 ^ (8 * x.1 + x.2.1)) 0
/-- A descriptor that has started. -/
def dsc (raw : Nat) : Desc := ⟨1, 0, raw, 10, false, [], true, false, true, false, 0, 0, true, [], [], 1, [], true, 0, none⟩
/-- A state with the descriptors `l` in flight on ring 0. -/
def withD (s : State) (l : List Desc) : State := s.updRing 0 fun q => { q with inflight := l }
/-- A state whose ring 0 runs the descriptor `raw`. -/
def runD (s : State) (raw : Nat) : State := withD s [dsc raw]
/-- A state with jar `j` holding `n` marbles. -/
def withJar (s : State) (j n : Nat) (w : List (Waiter × Nat) := []) : State := s.updPart 0 fun q => { q with jars := mset q.jars j ⟨0, 0, n, w⟩ }
/-- A jar descriptor: operation, first jar, N. -/
def jarRaw (op j n : Nat) : Nat := raws [(0, 0, 9), (32, 0, op), (34, 0, j), (36, 0, n)]
/-- A state with the value `v` in `n` bytes of memory at `a`. -/
def memNat (s : State) (a n v : Nat) : State := { s with mem := s.mem.writeNat a n v }
/-- Ring 0 with one entry whose descriptor `raw` has come. -/
def fetched (raw : Nat) : State := (memNat ring1 glkBase 128 raw).updGlk fun g => { g with once := [0] }
/-- A descriptor that has run. -/
def ranD (s : State) (raw : Nat) : State := withD s [{ dsc raw with ran := true }]
/-- A stopped partition 0 with a legal configuration. -/
def stopped0 : State := st [(FAB_NODE_ID, 0), (HUB_PART_CTRL_STATE 0, 1), (HUB_PART_PTBASE_ENABLE 0, 1), (GLK_STAT_STATE, 2)]
/-- The same with a context command under way. -/
def ctx (c : CtxCmd) : State := (stopped0.fset (HUB_PART_CTX_BUSY 0) 1).updPart 0 fun q => { q with ctx := some c }
/-- A running node 0 on a ring of four nodes, whose port 0 leads to node 1. -/
def net : State := run.fsets [(FAB_TOPO_NAXES, 1), (FAB_AXIS_SIZE0, 4), (FAB_PORT_CFG_ROLE 0, 8), (FAB_PORT_CFG_PARTS 0, 15), (FAB_PORT_CFG_BEAT 0, 1), (FAB_PORT_STAT_STATE 0, 2)]
theorem freeRun_le (jars : List (Nat × Jar)) : ∀ f j, freeRun jars f j ≤ f
  | 0, _ => Nat.le_refl _
  | f + 1, j => by
    have := freeRun_le jars f (j + 1)
    simp only [freeRun]
    split <;> omega
theorem findRun_none (jars : List (Nat × Jar)) (n : Nat) (h : 4096 < n) : findRun jars n = none := by
  simp only [findRun, List.find?_eq_none, decide_eq_true_eq, Nat.not_le]
  intro j _
  have := freeRun_le jars (min n (4096 - j)) j
  omega
/-- A check that refuses, and its reason. -/
def isBad {A : Type} : Except Stop A → Bool
  | .error (.bad _) => true
  | _ => false
def badOf {A : Type} : Except Stop A → Code
  | .error (.bad c) => c
  | _ => .memUncorr
theorem bad_eq {A B : Type} (x : A × Except Stop B) (h : isBad x.2 = true) : x = (x.1, .error (.bad (badOf x.2))) := by
  obtain ⟨a, (_ | _ | c) | b⟩ := x
  all_goals first | rfl | exact nomatch h
/-- A core of slot L0 that stands at the instruction word `w`, with 7 in x1, 5 in x2 and the address of data memory in x3. -/
def coreAt (s : State) (w : Nat) : State :=
  (memNat (s.fset (CORE_CC_STAT_STATE 0 0) 1) (imemBase 0 0) 4 w).updSlot 0 0 fun q => { q with x := [(1, 7), (2, 5), (3, 0x10000)] }
/-- The vendor instruction `f3` on x1 and x2, and on x3. -/
def vend (f3 : Nat) : Nat := 0x0B + f3 * 4096 + 1 * 2 ^ 15 + 2 * 2 ^ 20
def vend3 (f3 : Nat) : Nat := 0x0B + f3 * 4096 + 3 * 2 ^ 15
theorem noTrap (x : RvOut) (h : rvKind x = 3) (c : Nat) : x ≠ .trap c := fun e => by rw [e] at h; exact nomatch h
/-- What starting a descriptor gives: its kind, and the state, the code and the cause in it. -/
def runKind : Run → Nat
  | .done .. => 0
  | .going _ => 1
  | .wait _ => 2
  | .fault .. => 3
def runState : Run → State
  | .done s _ | .going s | .wait s | .fault s _ _ => s
def runCode : Run → Code
  | .fault _ c _ => c
  | _ => .memUncorr
def runCause : Run → Cause
  | .fault _ _ w => w
  | _ => {}
theorem going_eq (x : Run) (h : runKind x = 1) : x = .going (runState x) := by cases x <;> first | rfl | exact nomatch h
theorem wait_eq (x : Run) (h : runKind x = 2) : x = .wait (runState x) := by cases x <;> first | rfl | exact nomatch h
theorem fault_eq (x : Run) (h : runKind x = 3) : x = .fault (runState x) (runCode x) (runCause x) := by cases x <;> first | rfl | exact nomatch h
def VR : VecRun := ⟨.ring 0, 1, 0, 0, 0, false, [], ⟨0, 0, 0, 0, 0, 0, 0, false, false⟩, [], [], []⟩
/-- Matrix descriptors of one array with four rows: BF16 that opens its groups, FP4 that keeps and closes them; a number of tiles. -/
def mxRaw (open' tiles : Nat) : Nat := raws [(0, 0, 1), (33, 0, open'), (36, 0, tiles), (96, 0, 4)]
def mxRaw4 (open' tiles : Nat) : Nat := raws [(0, 0, 1), (32, 0, 0x66), (33, 0, open'), (36, 0, tiles), (96, 0, 4)]
/-- A matrix descriptor whose tiles pass. -/
def passing (raw : Nat) (work : List Nat) : Desc := { dsc raw with ran := true, ready := false, work := work }
/-- A vector engine that runs one instruction `w` of two. -/
def vecRaw : Nat := raws [(0, 0, 2), (32, 0, 2), (34, 0, 2)]
def vecD (w : Nat) : Desc := { dsc vecRaw with extra := [w, w] }
def vecS (w : Nat) (v : VecRun := VR) : State := (withD run [vecD w]).updSlot 0 0 fun q => { q with vec := some v, fresh := [3] }
/-- Layout descriptors: MATERIALISE of 4 elements of which 2 are in the source, and its neighbour. -/
def kaRaw : Nat := raws [(0, 0, 3), (33, 2, 2), (34, 0, 1)]
def kaShape4 : Nat := raws [(0, 0, 4), (4, 0, 2), (16, 0, 1), (24, 0, 1)]
def kaShape0 : Nat := 0
/-- A descriptor that has not started. -/
def fresh (raw : Nat) : Desc := { dsc raw with took := false, started := false, passed := false }
def startD (s : State) (raw : Nat) : State := withD s [fresh raw]
def kaShape2 : Nat := raws [(0, 0, 2), (4, 0, 2), (12, 0, 2), (16, 0, 1), (24, 0, 1)]
/-- The ranges of an update and the state it runs in, with the tables loaded. -/
def abRaw (op : Nat) : Nat := raws [(0, 0, 4), (32, 0, op)]
def abRun : State := run.updPart 0 fun q => { q with abc := { q.abc with loaded := true, ready := true } }
theorem ok1_eq {E A : Type} (x : Except E A) (h : x.isOk = true) : x = .ok (okGet x h) := by cases x <;> first | rfl | exact nomatch h
/-- The error of a fetch that fails. -/
def errGet {E A : Type} (x : Except E A) (h : x.isOk = false) : E := match x with
  | .ok _ => nomatch h
  | .error e => e
theorem err1_eq {E A : Type} (x : Except E A) (h : x.isOk = false) : x = .error (errGet x h) := by cases x <;> first | rfl | exact nomatch h
/-- A group of the partitions 0 of nodes 0 and 1. -/
def grp : Nat := 1 + 2 ^ 32 + 2 * 2 ^ 80 + 2 ^ 96 + 2 ^ 112 + 2 * 2 ^ 320
/-- Node 0 with that group, and a collective descriptor of it. -/
def withG (s : State) : State := s.updPart 0 fun q => { q with coll := { q.coll with loaded := true, groups := [grp] } }
def coRaw (op : Nat) : Nat := raws [(0, 0, 5), (32, 0, op)]
/-- A collective of the group under way. -/
def coll0 : Coll := ⟨1, coRaw 0, grp, 0, 0, false, 0, 0, [], [], [], [], 4, [], [], [], true, ⟨0, 0, 0, 0, 0, 0, 0, false, false⟩, false, false⟩
def collS (x : Coll) (tc : Bool) : State := (withG net).updPart 0 fun q => { q with coll := if tc then { q.coll with tc := some x } else { q.coll with bulk := some x } }
/-- A flit from node 1 to node 0. -/
def flit (typ vc : Nat) (pl : List Byte) : Flit := ⟨typ, vc, 0, 0, 0, 0, 1, 0, 0, pl, 0, 0, 0, 0, 0, false, 0, .good⟩
/-- A flit of the group with the phase `ph`. -/
def cflit (typ vc ph : Nat) : Flit := flit typ vc (natLe 16 (raws [(0, 4, ph), (4, 0, 1)]))
/-- A flit of the group with the cause `c`, and a collective of two elements. -/
def cflitC (c : Nat) : Flit := flit 4 0 (natLe 16 (raws [(1, 0, c), (4, 0, 1)]))
def collB : Coll := { coll0 with raw := coRaw 0 + raws [(36, 0, 2)] }
theorem none_ne {A : Type} {x : Option A} {r : A} (h : x = none) (g : x = some r) : False := by rw [h] at g; exact nomatch g
/-- Page tables in companion memory, and damaged ones; every stream taken. -/
def farTable : State := net.fsets [(HUB_PART_PTBASE_ENABLE 0, 1), (HUB_PART_PTBASE_BASE 0, 2 ^ 30)]
def hurtTable : State := { mapped net with damage := [(64, [(0, 1), (1, 1)])] }
def fullStreams : State := net.updPart 0 fun q => { q with streams := List.replicate 4096 ⟨9, 0, 0, 0, 0, [], []⟩ }
/-- Port 0 trains. -/
def training : State := net.fset (FAB_PORT_STAT_STATE 0) 1 |>.fset (FAB_OE_STATE 0) 2
/-- Jigsaw descriptors: two data shards, one parity shard, one byte each; all shards at address 0. -/
def jgRaw (op : Nat) : Nat := raws [(0, 0, 6), (32, 0, op), (33, 0, 2), (34, 0, 1), (40, 0, 1)]
/-- Partition 0 with its memory mapped, a byte 1 at its address 0, and the descriptor `raw`. -/
def jg (raw : Nat) : State := memNat (runD (mapped net) raw) (2 ^ 30) 1 1
/-- The same with the descriptors `l`, and with no way to node 1. -/
def jgOn (l : List Desc) : State := memNat (withD (mapped net) l) (2 ^ 30) 1 1
def jgOff (l : List Desc) : State := memNat (withD (mapped run) l) (2 ^ 30) 1 1
/-- Activation descriptors of handle 5. -/
def yoRaw (op form : Nat) : Nat := raws [(0, 0, 7), (32, 0, op), (33, 0, form), (36, 0, 5)]
def keep (st : Nat) : Handle := ⟨st, 0, 0, 0, 0, 0, 0, []⟩
def withH (s : State) (x : Handle) : State := s.updRegion 0 fun q => { q with handles := [(5, x)] }
/-- A snapshot of one chunk of 8 bytes at address 0, streaming; local or to node 1 with a completion drop. -/
def snapOf (remote en : Nat) : Snap := ⟨1, raws [(0, 0, 8), (32, 0, remote), (48, 0, 1), (80, 0, 1), (80, 23, en)], 8 * 2 ^ 64, [], 5, 0, true, [], [], 0, 0, false, false⟩
def snapS (x : Snap) : State := (mapped net).updPart 0 fun q => { q with snap := some x }
/-- Updates: one that waits for another, one not started, one that skips, one at the last step; and a state whose snapshot holds chunk 0. -/
def abLater : Desc := { dsc (abRaw 0) with order := 2 }
def abFresh (op : Nat) : Desc := { fresh (abRaw op) with noop := true }
def abSkip : Desc := { dsc (abRaw 2) with work := [0, 0, 2 ^ 64] }
def abWrap : Nat := raws [(0, 0, 4), (32, 0, 3), (36, 0, 2 ^ 48 - 1)]
def abHeld : State := (mapped abRun).updPart 0 fun q => { q with snap := some { snapOf 0 0 with list := 64 + 8 * 2 ^ 64 } }
/-- A duplicate of tile work. -/
def dup : Dup := ⟨0, 0, 41, 0, 7, 10, true, ⟨[], [], 0⟩⟩
/-- A companion link in training, and one that is up. -/
def glk1 : State := run.fset GLK_STAT_STATE 1
def glk2 : State := run.fsets [(GLK_STAT_STATE, 2), (GLK_STAT_LANES_UP, 0xFFFF)]
/-- The header of a message with the size code `n`, in sequence. -/
def hd (n : Nat) : GlkHead := ⟨0, 0, 0, 0, 0, n, false⟩
/-- The link with the slot L0 of region 0 in handover, and with a snoop answer that waits. -/
def glkHand : State := glk2.updRegion 0 fun q => { q with handover := some 0 }
def glkLate : State := glk2.updGlk fun g => { g with waiting := [.bare 2 1 3] }
/-- A request under way, with the tag 7. -/
def req (op : Nat) (snooped : Bool) (o : Owner) : Outst := ⟨7, op, 128, o, snooped⟩
def glkReq (o : Outst) : State := glk2.updGlk fun g => { g with outst := [o] }
/-- Stack 0 is up, in a running or a stopped device. -/
def memUp : State := run.fset (MEM_STAT_UP 0) 7
def memIdle : State := st [(MEM_STAT_UP 0, 7)]
def a0 : Nat := dpaOfStack 0 0 0
/-- A device out of reset whose start-up stands at a stage of the boot, and at a phase of the hub. -/
def stage (n : Nat) (l : List (Fld × Nat) := []) : State := let s := st ((SEC_BOOT_STAGE, n) :: l); { s with sec := { s.sec with resetLow := false } }
def stageEnd (ok : Bool) (id : Nat) : StageEnd := ⟨ok, { PartRecord.none with deviceId := id }, ⟨120, []⟩⟩
def phase (n : Nat) : State := st [(HUB_START_PHASE, n)]
def phaseEnd : PhaseEnd := ⟨70000, [], 0, []⟩
/-- A signed object without a body. -/
def object (type : Nat) : List Byte := natLe 8 (raws [(0, 0, 0x4749534F), (4, 0, type), (5, 0, 1), (6, 0, 0xA1)]) ++ List.replicate 0x15F8 0
/-- A device with the image or the part record in its flash. -/
def withImage (s : State) : State := { s with flash := { s.flash with image := some (object 1), partRec := some (object 2) } }
/-- A load of such an object under way, all its lines here. -/
def loading (type : Nat) : State :=
  let s := { stage 6 [(SEC_LOAD_STAT_STATE, 1), (GLK_STAT_STATE, 2)] with mem := Memory.empty.writeBytes (2 ^ 42) ((object type).take 8) }
  { s.updGlk fun g => { g with held := List.range 44 } with sec := { s.sec with loadAt := 2 ^ 42, loadType := type } }
/-- An attestation request in a state, with the nonce here. -/
def attesting (state sent : Nat) : State :=
  let s := st [(SEC_ATT_STAT_STATE, state)]
  { s.updGlk fun g => { g with held := [0] } with sec := { s.sec with attAt := 2 ^ 42, areaSent := sent } }
/-- An unlock under way, with the token `t` here. -/
def unlocking (t : List Byte) : State :=
  let s := { st [(JIB_STAT_PSTATE, 1)] with mem := Memory.empty.writeBytes (2 ^ 42) t }
  { s.updGlk fun g => { g with held := [0, 1] } with sec := { s.sec with tokenAt := 2 ^ 42 } }
/-- The head of a token for challenge 0 that has not expired. -/
def token0 : List Byte := natLe 24 (raws [(0, 0, 0x5442494A), (4, 0, 1), (16, 0, 1)])
/-- An unlocked device in a running partition with an injection of kind `k`. -/
def unlocked (k : Nat) : State := run.fsets [(JIB_STAT_UNLOCKED, 1), (JIB_STAT_SCOPE, 255), (JIB_INJ_KIND, k), (JIB_INJ_HOLD_US, 5), (JIB_INJ_TARGET, 64)]

/-! ## What is well formed -/

/-- A flit, a join symbol, a token and an origin with one field out of range each. -/
def badFlits : List Flit :=
  let f := flit 1 0 []
  [{ f with typ := 256 }, { f with vc := 4 }, { f with dl := 2 }, { f with dstNode := 65536 }, { f with dstPart := 4 }, { f with srcPart := 4 },
    { f with srcNode := 65536 }, { f with epoch := 65536 }, { f with addr := 2 ^ 48 }, { f with payload := List.replicate 225 0 }, { f with seq := 4096 },
    { f with ack := 4096 }, { f with credit := 4096 }, { f with cvc := 4 }, { f with cdl := 2 }]
def badJoins : List JoinMsg :=
  let m := joinOf 7
  [{ m with domain := 65536 }, { m with node := 65536 }, { m with start := 2 ^ 48 }, { m with settings := ⟨65536, 500, 8, 4, false⟩ },
    { m with settings := ⟨3, 32768, 8, 4, false⟩ }, { m with settings := ⟨3, 500, 128, 4, false⟩ }, { m with settings := ⟨3, 500, 8, 16, false⟩ }]
def badTokens : List Token := [⟨65536, 3, 0, 7⟩, ⟨0, 4, 0, 7⟩, ⟨0, 3, 0, 8⟩]
def badOrigins : List FaultOrigin := [⟨65536, 0, 0⟩, ⟨0, 4, 0⟩, ⟨0, 0, 4096⟩]

/-! Terms that each break one check. -/

def illFormed1 : List Instr :=
  [.regWrite (2 ^ 44) 8 0, .regWrite 0 129 0, .regWrite 0 4 (2 ^ 32), .start 0 [1, 1],
    .save 0 (2 ^ 44), .restore 0 1, .doorbell 0 (2 ^ 64), .beatStop 0 (2 ^ 48),
    .bootStageEnd (stageEnd true (2 ^ 384)), .bootStageEnd ⟨true, { PartRecord.none with ngen := 256 }, ⟨0, []⟩⟩,
    .bootStageEnd ⟨true, { PartRecord.none with vmin := [(256, 0)] }, ⟨0, []⟩⟩, .bootStageEnd ⟨true, { PartRecord.none with twins := [(64, 0)] }, ⟨0, []⟩⟩,
    .presentationEnd { PartRecord.none with retired := [2 ^ 42] } ⟨0, []⟩, .phaseEnd { phaseEnd with elapsedMs := 65536 }]
def illFormed2 : List Instr :=
  [.mboxDeliver 256, .mbxTx 256 0, .mboxWord 0 (2 ^ 64) (hd 1), .glkRd 4096 0 8 [] (hd 1),
    .glkRd 0 (2 ^ 44) 8 [] (hd 1), .glkRd 0 0 3 [] (hd 1), .glkRd 0 0 8 [(2 ^ 44, [])] (hd 1), .glkRd 0 0 8 [(0, [(68, 1)])] (hd 1),
    .glkWr 0 0 [0] [] (hd 1), .snpInv 0 (2 ^ 48) (hd 0), .glkData 0 (List.replicate 129 0) [] (hd 5), .wrAck 4096 (hd 0)]
def illFormed3 : List Instr :=
  [.glkErr 0 256 (hd 0), .caps (List.replicate 129 0) (hd 1), .creditInit 65536 [] (hd 2), .creditInit 0 (List.replicate 9 0) (hd 2),
    .glkNak 4096, .glkCreditReturn 0 8 0, .glkLaneLoss 65536, .lmgmt 0 (.check 65536 0 0 false false 0 false 0),
    .lmgmt 0 (.check 0 16 0 false false 0 false 0), .lmgmt 0 (.check 0 0 18 false false 0 false 0), .lmgmt 0 (.check 0 0 0 false false 16 false 0),
    .lmgmt 0 (.check 0 0 0 false false 0 false 256), .lmgmt 0 (.echoed 3 4), .nak 0 4096 .good]
def illFormed4 : List Instr :=
  [.laneLoss 0 16 false, .recalOffer 0 65536 0 0, .firewallViolation 0 (2 ^ 44), .withdraw 65536 0 0,
    .firstBeat 0 ⟨0, 0, 2 ^ 48, 0⟩, .closeDeadline 0 (List.replicate 9 0), .boundarySymbol 0 ⟨1, 2 ^ 48, 0, tok, 0, 0⟩,
    .boundarySymbol 0 ⟨1, 0, 0, tok, 0, 2 ^ 48⟩, .boundarySymbol 0 ⟨65536, 0, 0, tok, 0, 0⟩, .suiteEnd 0 42 [],
    .dupCompare 0 42 0 [], .dupCompare 0 0 3 [], .matrix (.ring 0) (.coreQueue 11)]
def illFormed5 : List Instr :=
  [.matrix (.ring 0) (.storeUncorr (2 ^ 44)), .matrix (.ring 0) (.sector 0 [(68, 1)]), .tilePassEnd 0 0 [⟨0, 128, 0, none, 1⟩] none,
    .tilePassEnd 0 0 [] (some (16, 0)), .add 0 0 (some ⟨32, 0, 0, false⟩), .add 0 0 (some ⟨0, 32, 0, false⟩), .add 0 0 (some ⟨0, 0, 32, false⟩),
    .railPoll (List.replicate 24 none) [], .sensorRead (List.replicate 5 (0, 0)) 0, .hbmTempRead (List.replicate 13 0), .dropCreditReport 0 65536 0 0]
def badHeads : List GlkHead :=
  [{ hd 1 with seq := 4096 }, { hd 1 with ack := 4096 }, { hd 1 with ccls := 16 }, { hd 1 with credits := 4096 }, { hd 1 with slot := 15 }, hd 8]

def illFormed : List Instr :=
  illFormed1 ++ illFormed2 ++ illFormed3 ++ illFormed4 ++ illFormed5 ++ badFlits.map (.dropFlit 0) ++
    badHeads.map (.wrAck 0) ++ badJoins.map .join ++ badTokens.map (.overrunToken 0) ++ badOrigins.map (.faultToken 0)

theorem test_wf_refuses : illFormed.all (fun i => !i.wf) = true := by decide +kernel

theorem test_wf_accepts : ([.regWrite (2 ^ 44 - 1) 4 (2 ^ 32 - 1), .start 0 [1, 2], .save 0 4096, .join (joinOf 7), .dropFlit 0 (flit 2 2 []), .overrunToken 0 tok,
    .matrix (.ring 0) (.coreQueue 10), .add 0 0 (some ⟨31, 31, 31, true⟩), .glkRd 4095 0 128 [] (hd 5), .tapReset] : List Instr).all Instr.wf = true := by decide +kernel

/-- No word spells a command: the table gives no row any bits. -/
theorem test_no_words : decodeTableWord 32 0 = none ∧ run.withFetchWord 32 0 = run := ⟨rfl, rfl⟩

/-! ## The worked examples of the manual -/

/-- 01_organisation.md, Example: in layout 5, DPA 0x078_0123_4000 lies in stack M7 at 0x61_1000, and the next granule in M8. -/
theorem test_address_example : stackAddr 5 0x07801234000 = (7, 0x611000) ∧ (stackAddr 5 0x07801235000).1 = 8 := by decide +kernel

/-- 00_scope.md, Example: of the staged values 5 and 9 the later one waits, and a read still gives the value in effect. -/
theorem test_staged_example :
    let s := State.fset run (HUB_RING_CTRL_WEIGHT 0) 3
    let t := ((s.regWrite (HUB_RING_CTRL 0) 8 0x500).1.regWrite (HUB_RING_CTRL 0) 8 0x900).1
    t.fget (HUB_RING_CTRL_WEIGHT 0) = 3 ∧ mget? t.staged (HUB_RING_CTRL_WEIGHT 0).key = some 9 := by decide +kernel

/-- 02_beat.md, Example: of 2.0 µs, DROOP at node 0x0040 and 11.4 µs, THROTTLE at node 0x0213 the latter stands in the merged token; S is 12 µs. -/
theorem test_merge_example : mergeToken ⟨0x40, 0, 2000, 2⟩ ⟨0x213, 2, 11400, 1⟩ = ⟨0x213, 2, 11400, 1⟩ ∧ stretchUs 11400 = 12 := by decide +kernel

/-- 02_beat.md, Example: the master holds the merged token at 506.3 µs, 14.3 µs after the close deadline of 492.0 µs; with a guard of 8 µs and S = 12 µs
the boundary symbol counts down 5.7 µs, to 512.0 µs. -/
theorem test_boundary_example :
    (((State.masterEnds (State.fset master (BEAT_GUARD_US 0) 8) 0 ⟨0x213, 2, 11400, 1⟩ 14300).part 0).dom.boundary.map fun b => (b.countdownNs, b.stretchUs)) =
      some (5700, 12) := by decide +kernel

/-- 03_commands.md, Example: HEAD at index 0 and TAIL at index 3, both of phase 1: TAIL 15 of phase 1 is accepted, then TAIL 1 of phase 0 is discarded with
DB_ERR, then TAIL 0 of phase 0 fills the ring. -/
theorem test_doorbell_example :
    let s := State.fsets ringOn [(HUB_RING_PTRS_HEAD_PH 0, 1), (HUB_RING_PTRS_TAIL 0, 3), (HUB_RING_PTRS_TAIL_PH 0, 1)]
    let t := doorbell 0 (2 ^ 16 + 15) s
    let u := doorbell 0 1 t
    doorbell 0 (2 ^ 16 + 3) s = s ∧ t.ringPending 0 = 15 ∧ (u.ringPending 0, u.fget (HUB_RING_STAT_DB_ERR 0)) = (15, 1) ∧
      (doorbell 0 0 t).ringPending 0 = 16 := by decide +kernel

/-- 19_power.md, Example: PKG_W of 4,000 W with HYST_W at 100 W: 4,180 W at level 64 gives 61, 4,020 W gives 60, and 3,960 W leaves it. -/
theorem test_cap_example : capLevel 64 4180 1 4000 100 = 61 ∧ capLevel 61 4020 1 4000 100 = 60 ∧ capLevel 60 3960 1 4000 100 = 60 := by decide +kernel

/-- 06_numerics.md, Example: a block of E4M3 activations with 13.6875, -0.002105712890625 and 2^-18 has scale 0x7A and elements 0x7E, 0x99, 0x00;
with 14.75 in place of the first, that value is held at 448. -/
theorem test_block_example :
    let x := mxBlock 2 1 [0x415B0000, 0xBB0A0000, 0x36800000] []
    let y := mxBlock 2 1 [0x416C0000] []
    x.1 = 0x7A ∧ x.2.1 = [0x7E, 0x99, 0x00] ∧ x.2.2.zeros = 1 ∧ x.2.2.underflows = 1 ∧ x.2.2.saturated = 0 ∧ y.2.1 = [0x7E] ∧ y.2.2.saturated = 1 := by decide +kernel

/-- 06_numerics.md, Example: as a gradient the second value rounds to 9 units from rnd 24,576 on, and the third to the smallest subnormal from 61,440 on. -/
theorem test_gradient_example :
    (mxBlock 2 2 [0x415B0000, 0xBB0A0000, 0x36800000] [65535, 24576, 61440]).2.1 = [0x7E, 0x99, 0x01] ∧
      (mxBlock 2 2 [0x415B0000, 0xBB0A0000, 0x36800000] [65535, 24575, 61439]).2.1 = [0x7E, 0x98, 0x00] := by decide +kernel

/-- 07_accumulation.md, Example: 1.0 plus 13,631,489 units of 2^-22 is 0x4088_0001 when rnd is at least 32,768, else 0x4088_0000, which is also the
nearest-even sum; then -0.5 is exact. -/
theorem test_accumulate_example :
    groupAdd 0x3F800000 (.fin false 13631489 (-22)) (some 32768) = 0x40880001 ∧ groupAdd 0x3F800000 (.fin false 13631489 (-22)) (some 32767) = 0x40880000 ∧
      groupAdd 0x3F800000 (.fin false 13631489 (-22)) none = 0x40880000 ∧ groupAdd 0x40880001 (.fin true 2097152 (-22)) (some 0) = 0x40700002 := by decide +kernel

/-- 10_abacus.md, Worked example: at step 249 the learning rate is 2^-10 × (250 / 1,000) = 2^-12. -/
theorem test_warmup_example : schedLr (raws [(1, 0, 1), (28, 0, 0x3A800000), (56, 0, 1000), (60, 0, 9000)]) 249 = 0x39800000 := by decide +kernel

/-- 15_collectives.md, Example: node 0x0A5B of sizes 8, 8, 16, 16 has rank 3 in the group of axis 1. -/
theorem test_rank_example :
    let s := st [(FAB_NODE_ID, 0x0A5B), (FAB_TOPO_NAXES, 4), (FAB_AXIS_SIZE0, 8), (FAB_AXIS_SIZE1, 8), (FAB_AXIS_SIZE2, 16), (FAB_AXIS_SIZE3, 16)]
    s.myRank (0x1105 + 2 ^ 32 + 8 * 2 ^ (80 + 64) + 2 ^ (96 + 64) + 2 ^ (112 + 64) + 8 * 2 ^ 64 * 2 ^ 256) 0 = 3 := by decide +kernel

/-- 15_collectives.md, Example: the tree of 1.0, 2^-24, 2^-24, 2^-24, 0.25 and 0 gives 0x3FA0_0001. -/
theorem test_tree_example :
    let f := lanes2 fadd32
    f (f (f 0x3F800000 0x33800000) (f 0x33800000 0x33800000)) (f 0x3E800000 0) = 0x3FA00001 := by decide +kernel

/-- 20_security.md, Example: with HSS_RES 37, the first report takes index 2,368 and reserves block 37, which makes HSS_RES 38. -/
theorem test_hss_example :
    let s := (fun s : State => { s with sec := { s.sec with block := { s.sec.block with hssRes := 37 } } }) (st [(SEC_ATT_STAT_HSS_NEXT, 2368)])
    s.takeHss.sec.block.hssRes = 38 ∧ s.takeHss.fget SEC_ATT_STAT_HSS_NEXT = 2369 := by decide +kernel

/-- R45, R332: a symbol in error is put right, two are not. -/
theorem test_sector : sectorDecode [(67, 0xFF)] = .corrected 67 0xFF ∧ sectorDecode [(0, 1), (67, 1)] = .uncorrectable := by decide +kernel

/-! ## The hypotheses of the statements can be met -/

/-- The hypotheses of StepRunsFront can be met. -/
theorem witness_StepRunsFront :
    (∃ (s : State), (s.pending = [])) :=
  ⟨State.reset, by decide +kernel⟩

/-- The hypotheses of StepKeepsInv can be met. -/
theorem witness_StepKeepsInv :
    (∃ (s t : State), (Inv s) ∧ (step s = .next t)) :=
  ⟨State.reset, State.reset, ⟨by decide +kernel, by decide +kernel, fun _ d => by cases d <;> exact Nat.zero_le _⟩, rfl⟩

/-- The hypotheses of FormationOutcomes can be met. -/
theorem witness_FormationOutcomes :
    (∃ (s : State) (m : JoinMsg) (p : Fin 4) (w : JoinMsg), (s.formsWith p m.domain = true) ∧ (m.node = s.node → m.part ≠ p) ∧ (∀ q : Fin 4, q ≠ p → s.formsWith q m.domain = false) ∧ (masterOf (addJoin (s.part p).dom.joined m) = some w) ∧ ((addJoin (s.part p).dom.joined m).length < w.settings.members)) ∧
    (∃ (s : State) (domain node : Nat) (part p : Fin 4), (s.fget (BEAT_STATE_STATE p) = 1) ∧ (s.domId p = some domain) ∧ (∃ j ∈ (s.part p).dom.joined, j.node = node ∧ j.part = part) ∧ (∀ q : Fin 4, q ≠ p → s.fget (BEAT_STATE_STATE q) ≠ 1) ∧ ((s.part p).dom.formed = false)) ∧
    (∃ (s : State) (domain node : Nat) (part p : Fin 4), ∃ m, (s.fget (BEAT_STATE_STATE p) = 1) ∧ (s.domId p = some domain) ∧ (∃ j ∈ (s.part p).dom.joined, j.node = node ∧ j.part = part) ∧ (∀ q : Fin 4, q ≠ p → s.fget (BEAT_STATE_STATE q) ≠ 1) ∧ ((s.part p).dom.formed = true) ∧ (s.domMaster p = some m) ∧ (m.node = node) ∧ (m.part = part)) ∧
    (∃ (s : State) (domain node : Nat) (part p : Fin 4), ∃ m, (s.fget (BEAT_STATE_STATE p) = 1) ∧ (s.domId p = some domain) ∧ (∃ j ∈ (s.part p).dom.joined, j.node = node ∧ j.part = part) ∧ (∀ q : Fin 4, q ≠ p → s.fget (BEAT_STATE_STATE q) ≠ 1) ∧ ((s.part p).dom.formed = true) ∧ (s.domMaster p = some m) ∧ (m.node ≠ node ∨ m.part ≠ part) ∧ (m.node ≠ s.node ∨ m.part ≠ p)) ∧
    (∃ (s : State) (domain node : Nat) (part p : Fin 4), ∃ m, (s.fget (BEAT_STATE_STATE p) = 1) ∧ (s.domId p = some domain) ∧ (∃ j ∈ (s.part p).dom.joined, j.node = node ∧ j.part = part) ∧ (∀ q : Fin 4, q ≠ p → s.fget (BEAT_STATE_STATE q) ≠ 1) ∧ ((s.part p).dom.formed = true) ∧ (s.domMaster p = some m) ∧ (m.node ≠ node ∨ m.part ≠ part) ∧ (m.node = s.node) ∧ (m.part = p)) ∧
    (∃ (s : State) (p : Fin 4) (c : Nat), (s.forming p = true) ∧ (∀ j ∈ (s.part p).dom.joined, j.testing = false) ∧ (formCause (s.part p).dom.joined true (s.isMaster p) = some c)) ∧
    (∃ (s : State) (p : Fin 4) (c d : Nat), (s.fget (BEAT_STATE_STATE p) = 1) ∧ (s.domId p = some d) ∧ (∀ q : Fin 4, q ≠ p → s.fget (BEAT_STATE_STATE q) ≠ 1)) :=
  ⟨⟨forming0, joinOf 7, 0, joinOf 0, by decide +kernel, by decide +kernel, by decide +kernel, by decide +kernel, by decide +kernel⟩,
    ⟨forming0, 1, 0, 0, 0, by decide +kernel, by decide +kernel, ⟨_, List.Mem.head _, rfl, rfl⟩, by decide +kernel, by decide +kernel⟩,
    ⟨formed7, 1, 7, 0, 0, joinOf 7, by decide +kernel, by decide +kernel, ⟨_, List.Mem.head _, rfl, rfl⟩, by decide +kernel, by decide +kernel, by decide +kernel, by decide +kernel, by decide +kernel⟩,
    ⟨formedOf [joinOf 9, joinOf 7], 1, 9, 0, 0, joinOf 7, by decide +kernel, by decide +kernel, ⟨_, List.Mem.head _, rfl, rfl⟩, by decide +kernel, by decide +kernel, by decide +kernel, by decide +kernel, by decide +kernel⟩,
    ⟨formedOf [joinOf 7, joinOf 0], 1, 7, 0, 0, joinOf 0, by decide +kernel, by decide +kernel, ⟨_, List.Mem.head _, rfl, rfl⟩, by decide +kernel, by decide +kernel, by decide +kernel, by decide +kernel, by decide +kernel, by decide +kernel⟩,
    ⟨formingOf [joinOf 0, { joinOf 7 with settings := ⟨2, 500, 8, 4, false⟩ }], 0, 5, by decide +kernel, by decide +kernel, by decide +kernel⟩,
    ⟨forming0, 0, 4, 1, by decide +kernel, by decide +kernel, by decide +kernel⟩⟩

/-- The hypotheses of FirstBeatBegins can be met. -/
theorem witness_FirstBeatBegins :
    (∃ (s : State) (p : Fin 4) (a : FirstBeatAnn), (s.mayBegin p a = true)) :=
  ⟨formed0, 0, ⟨0, 0, 1, 0⟩, by decide +kernel⟩

/-- The hypotheses of BeatCloses can be met. -/
theorem witness_BeatCloses :
    (∃ (s : State) (p : Fin 4) (stalls : List Nat), (s.running p = true) ∧ ((s.part p).dom.deadline = false) ∧ (s.flag (BEAT_CTRL_STRICT p) = false ∨ s.closable p = true)) ∧
    (∃ (s u : State) (p : Fin 4) (stalls : List Nat) (t : Token), ∃ m, (s.running p = true) ∧ ((s.part p).dom.deadline = false) ∧ (s.flag (BEAT_CTRL_STRICT p) = true) ∧ (s.closable p = false) ∧ (u = s.updDom p (fun d => { d with deadline := true })) ∧ (t = ⟨s.node, p, 0, causeOf 1 (s.stallsWith p stalls)⟩) ∧ (s.hosted p = some m)) ∧
    (∃ (s u : State) (p : Fin 4) (stalls : List Nat) (t : Token), ∃ d q, (s.running p = true) ∧ ((s.part p).dom.deadline = false) ∧ (s.flag (BEAT_CTRL_STRICT p) = true) ∧ (s.closable p = false) ∧ (u = s.updDom p (fun d => { d with deadline := true })) ∧ (t = ⟨s.node, p, 0, causeOf 1 (s.stallsWith p stalls)⟩) ∧ (s.hosted p = none) ∧ (s.domId p = some d) ∧ (s.parentPort p = some q)) ∧
    (∃ (s : State) (p : Fin 4) (late : Nat) (stalls : List Nat), (s.running p = true) ∧ ((s.part p).dom.deadline = true) ∧ ((s.part p).dom.closed = false) ∧ ((s.part p).dom.ended = false) ∧ (s.closable p = true)) ∧
    (∃ (s u : State) (p : Fin 4) (t : Token) (n ns : Nat), (s.inDomain p = true) ∧ (u = s.updDom (s.chief p) (fun d => { d with merged := none, got := 0 })) ∧ ((s.tokens p).2 + n < s.tokensDue p)) ∧
    (∃ (s u : State) (p : Fin 4) (t : Token) (n ns : Nat), ∃ m, (s.inDomain p = true) ∧ (u = s.updDom (s.chief p) (fun d => { d with merged := none, got := 0 })) ∧ (s.tokensDue p ≤ (s.tokens p).2 + n) ∧ (s.hosted p = some m)) ∧
    (∃ (s u : State) (p : Fin 4) (t : Token) (n ns : Nat), ∃ d q, (s.inDomain p = true) ∧ (u = s.updDom (s.chief p) (fun d => { d with merged := none, got := 0 })) ∧ (s.tokensDue p ≤ (s.tokens p).2 + n) ∧ (s.hosted p = none) ∧ (s.domId p = some d) ∧ (s.parentPort p = some q)) :=
  ⟨⟨run, 0, [], by decide +kernel, by decide +kernel, by decide +kernel⟩,
    ⟨(fun s : State => (s.fset (BEAT_CTRL_STRICT 0) 1).updRing 0 fun q => { q with inflight := [dsc 0x0A] }) master, _, 0, [], _, 0, by decide +kernel, by decide +kernel, by decide +kernel, by decide +kernel, rfl, rfl, by decide +kernel⟩,
    ⟨(fun s : State => (s.fset (BEAT_CTRL_STRICT 0) 1).updRing 0 fun q => { q with inflight := [dsc 0x0A] }) member, _, 0, [], _, 1, 2, by decide +kernel, by decide +kernel, by decide +kernel, by decide +kernel, rfl, rfl, by decide +kernel, by decide +kernel, by decide +kernel⟩,
    ⟨inDom run { dom2 with deadline := true }, 0, 0, [], by decide +kernel, by decide +kernel, by decide +kernel, by decide +kernel, by decide +kernel⟩,
    ⟨master, _, 0, tok, 1, 0, by decide +kernel, rfl, by decide +kernel⟩,
    ⟨master, _, 0, tok, 2, 0, 0, by decide +kernel, rfl, by decide +kernel, by decide +kernel⟩,
    ⟨member, _, 0, tok, 1, 5, 1, 2, by decide +kernel, rfl, by decide +kernel, by decide +kernel, by decide +kernel, by decide +kernel⟩⟩

/-- The hypotheses of BeatSymbols can be met. -/
theorem witness_BeatSymbols :
    (∃ (s : State) (p : Fin 4) (f : FaultOrigin), ∃ m, (s.inDomain p = true) ∧ (s.hosted p = some m)) ∧
    (∃ (s : State) (p : Fin 4) (f : FaultOrigin), ∃ d q, (s.inDomain p = true) ∧ (s.hosted p = none) ∧ (s.domId p = some d) ∧ (s.parentPort p = some q)) ∧
    (∃ (s : State) (p : Fin 4) (t : Token), ∃ m, (s.inDomain p = true) ∧ (s.hosted p = some m)) ∧
    (∃ (s : State) (p : Fin 4) (t : Token), ∃ d q, (s.inDomain p = true) ∧ (s.hosted p = none) ∧ (s.domId p = some d) ∧ (s.parentPort p = some q)) ∧
    (∃ (s : State) (p : Fin 4), (s.inDomain p = true) ∧ (s.isMaster p = true) ∧ ((s.part p).dom.boundary = none) ∧ ((s.tokens p).2 < s.tokensDue p)) ∧
    (∃ (s : State) (p : Fin 4), (s.inDomain p = true) ∧ ((s.part p).dom.closed = true) ∧ ((s.part p).dom.boundary = none)) ∧
    (∃ (s : State) (p : Fin 4) (d : Nat) (not : Option Nat) (f : FaultOrigin) (t : Token), (s.domId p = some d) ∧ (s.mates p = [p.val]) ∧ (¬ (f.node = s.node ∧ f.part = p))) ∧
    (∃ (s u : State) (p : Fin 4) (f : FaultOrigin), (u = s.fsets [(HUB_PART_FLT_ORIGIN_NODE p, f.node), (HUB_PART_FLT_ORIGIN_PART p, f.part), (HUB_PART_FLT_ORIGIN_CODE p, f.code)]) ∧ (u.mayFault p .beatStall = true)) :=
  ⟨⟨master, 0, ⟨1, 0, 2⟩, 0, by decide +kernel, by decide +kernel⟩,
    ⟨member, 0, ⟨1, 0, 2⟩, 1, 2, by decide +kernel, by decide +kernel, by decide +kernel, by decide +kernel⟩,
    ⟨master, 0, tok, 0, by decide +kernel, by decide +kernel⟩,
    ⟨member, 0, tok, 1, 2, by decide +kernel, by decide +kernel, by decide +kernel, by decide +kernel⟩,
    ⟨master, 0, by decide +kernel, by decide +kernel, by decide +kernel, by decide +kernel⟩,
    ⟨inDom run { dom2 with closed := true }, 0, by decide +kernel, by decide +kernel, by decide +kernel⟩,
    ⟨member, 0, 1, some 2, ⟨1, 0, 2⟩, tok, by decide +kernel, by decide +kernel, by decide +kernel⟩,
    ⟨member, _, 0, ⟨9, 1, 2⟩, rfl, by decide +kernel⟩⟩

/-- The hypotheses of BoundarySymbolTaken can be met. -/
theorem witness_BoundarySymbolTaken :
    (∃ (s : State) (p : Fin 4) (b : BoundaryMsg), (s.inDomain p = true) ∧ (s.hosted p = none) ∧ (s.domId p = some b.domain) ∧ (s.mates p = [p.val]) ∧ (b.number = s.beat p + 1) ∧ (s.running p = true) ∧ (s.flag (HUB_SEAL_SEALED p) = true) ∧ (b.tok.node < 65536) ∧ (b.tok.part < 4) ∧ (b.tok.cause < 8) ∧ (b.stretchUs < 2 ^ 24)) :=
  ⟨member.fset (HUB_SEAL_SEALED 0) 1, 0, ⟨1, 11, 0, tok, 2 ^ 24 - 1, 0⟩, by decide +kernel, by decide +kernel, by decide +kernel, by decide +kernel, by decide +kernel, by decide +kernel, by decide +kernel, by decide +kernel, by decide +kernel, by decide +kernel, by decide +kernel⟩

/-- The hypotheses of BeatControl can be met. -/
theorem witness_BeatControl :
    (∃ (s : State) (p : Fin 4) (n : Nat), (s.running p = true) ∧ (s.isMaster p = true) ∧ (s.beat p + 2 ≤ n) ∧ (n < 2 ^ 48)) ∧
    (∃ (s : State) (p : Fin 4) (n : Nat), (s.isMaster p = false ∨ n < s.beat p + 2)) ∧
    (∃ (s : State) (p : Fin 4), (s.running p = true) ∧ (s.isMaster p = true) ∧ (s.fget (BEAT_CTRL_SOURCE p) = 1)) ∧
    (∃ (s : State) (p : Fin 4) (v : Nat), (bits v 0 48 ≠ s.fget (HUB_SEAL_CAND p))) ∧
    (∃ (s : State) (p : Fin 4) (v : Nat), (bits v 0 48 = s.fget (HUB_SEAL_CAND p))) ∧
    (∃ (s : State) (p : Fin 4) (counts : List (Nat × Nat)) (b : BoundaryMsg), (s.running p = true) ∧ ((s.part p).dom.boundary = some b)) :=
  ⟨⟨master, 0, 12, by decide +kernel, by decide +kernel, by decide +kernel, by decide +kernel⟩,
    ⟨run, 0, 11, by decide +kernel⟩,
    ⟨master.fset (BEAT_CTRL_SOURCE 0) 1, 0, by decide +kernel, by decide +kernel, by decide +kernel⟩,
    ⟨run, 0, 2 ^ 48 - 1, by decide +kernel⟩,
    ⟨run, 0, 0, by decide +kernel⟩,
    ⟨inDom run { dom2 with boundary := some ⟨1, 11, 0, tok, 0, 0⟩ }, 0, [], ⟨1, 11, 0, tok, 0, 0⟩, by decide +kernel, by decide +kernel⟩⟩

/-- The hypotheses of TokensMerge can be met. -/
theorem witness_TokensMerge :
    (∃ (a b : Token), ((a.node, a.part) ≠ (b.node, b.part))) ∧
    (∃ (late : Nat) (stalls : List Nat), (stalls.length = 7) ∧ (late = 0)) ∧
    (∃ (late : Nat) (stalls : List Nat), (stalls.length = 7) ∧ (late ≠ 0) ∧ (∀ x ∈ stalls, x = 0)) ∧
    (∃ (late : Nat) (stalls : List Nat), (stalls.length = 7) ∧ (late ≠ 0) ∧ (∃ x ∈ stalls, x ≠ 0)) :=
  ⟨⟨⟨1, 0, 5, 0⟩, ⟨1, 1, 5, 0⟩, by decide +kernel⟩,
    ⟨0, [1, 2, 3, 4, 5, 6, 7], by decide +kernel, by decide +kernel⟩,
    ⟨1, [0, 0, 0, 0, 0, 0, 0], by decide +kernel, by decide +kernel, by decide +kernel⟩,
    ⟨1, [0, 4, 0, 4, 0, 0, 0], by decide +kernel, by decide +kernel, by decide +kernel⟩⟩

/-- The hypotheses of DoorbellRule can be met. -/
theorem witness_DoorbellRule :
    (∃ (s : State) (n : Fin 256) (v S old new h d : Nat), (S = s.sqSize n) ∧ (s.fget (HUB_RING_PTRS_TAIL n) < S) ∧ (s.fget (HUB_RING_PTRS_TAIL_PH n) ≤ 1) ∧ (s.fget (HUB_RING_PTRS_HEAD n) < S) ∧ (s.fget (HUB_RING_PTRS_HEAD_PH n) ≤ 1) ∧ (S ≤ 65536) ∧ (old = s.fget (HUB_RING_PTRS_TAIL_PH n) * S + s.fget (HUB_RING_PTRS_TAIL n)) ∧ (new = bits v 16 1 * S + bits v 0 16) ∧ (h = s.fget (HUB_RING_PTRS_HEAD_PH n) * S + s.fget (HUB_RING_PTRS_HEAD n)) ∧ (d = (new + 2 * S - old) % (2 * S)) ∧ (s.ringState n = 0)) ∧
    (∃ (s : State) (n : Fin 256) (v S old new h d : Nat), (S = s.sqSize n) ∧ (s.fget (HUB_RING_PTRS_TAIL n) < S) ∧ (s.fget (HUB_RING_PTRS_TAIL_PH n) ≤ 1) ∧ (s.fget (HUB_RING_PTRS_HEAD n) < S) ∧ (s.fget (HUB_RING_PTRS_HEAD_PH n) ≤ 1) ∧ (S ≤ 65536) ∧ (old = s.fget (HUB_RING_PTRS_TAIL_PH n) * S + s.fget (HUB_RING_PTRS_TAIL n)) ∧ (new = bits v 16 1 * S + bits v 0 16) ∧ (h = s.fget (HUB_RING_PTRS_HEAD_PH n) * S + s.fget (HUB_RING_PTRS_HEAD n)) ∧ (d = (new + 2 * S - old) % (2 * S)) ∧ (s.ringState n ≠ 0) ∧ (S ≤ bits v 0 16)) ∧
    (∃ (s : State) (n : Fin 256) (v S old new h d : Nat), (S = s.sqSize n) ∧ (s.fget (HUB_RING_PTRS_TAIL n) < S) ∧ (s.fget (HUB_RING_PTRS_TAIL_PH n) ≤ 1) ∧ (s.fget (HUB_RING_PTRS_HEAD n) < S) ∧ (s.fget (HUB_RING_PTRS_HEAD_PH n) ≤ 1) ∧ (S ≤ 65536) ∧ (old = s.fget (HUB_RING_PTRS_TAIL_PH n) * S + s.fget (HUB_RING_PTRS_TAIL n)) ∧ (new = bits v 16 1 * S + bits v 0 16) ∧ (h = s.fget (HUB_RING_PTRS_HEAD_PH n) * S + s.fget (HUB_RING_PTRS_HEAD n)) ∧ (d = (new + 2 * S - old) % (2 * S)) ∧ (s.ringState n ≠ 0) ∧ (bits v 0 16 < S) ∧ (d = 0)) ∧
    (∃ (s : State) (n : Fin 256) (v S old new h d : Nat), (S = s.sqSize n) ∧ (s.fget (HUB_RING_PTRS_TAIL n) < S) ∧ (s.fget (HUB_RING_PTRS_TAIL_PH n) ≤ 1) ∧ (s.fget (HUB_RING_PTRS_HEAD n) < S) ∧ (s.fget (HUB_RING_PTRS_HEAD_PH n) ≤ 1) ∧ (S ≤ 65536) ∧ (old = s.fget (HUB_RING_PTRS_TAIL_PH n) * S + s.fget (HUB_RING_PTRS_TAIL n)) ∧ (new = bits v 16 1 * S + bits v 0 16) ∧ (h = s.fget (HUB_RING_PTRS_HEAD_PH n) * S + s.fget (HUB_RING_PTRS_HEAD n)) ∧ (d = (new + 2 * S - old) % (2 * S)) ∧ (s.ringState n ≠ 0) ∧ (bits v 0 16 < S) ∧ (0 < d) ∧ (s.ringPending n + d ≤ S)) ∧
    (∃ (s : State) (n : Fin 256) (v S old new h d : Nat), (S = s.sqSize n) ∧ (s.fget (HUB_RING_PTRS_TAIL n) < S) ∧ (s.fget (HUB_RING_PTRS_TAIL_PH n) ≤ 1) ∧ (s.fget (HUB_RING_PTRS_HEAD n) < S) ∧ (s.fget (HUB_RING_PTRS_HEAD_PH n) ≤ 1) ∧ (S ≤ 65536) ∧ (old = s.fget (HUB_RING_PTRS_TAIL_PH n) * S + s.fget (HUB_RING_PTRS_TAIL n)) ∧ (new = bits v 16 1 * S + bits v 0 16) ∧ (h = s.fget (HUB_RING_PTRS_HEAD_PH n) * S + s.fget (HUB_RING_PTRS_HEAD n)) ∧ (d = (new + 2 * S - old) % (2 * S)) ∧ (s.ringState n ≠ 0) ∧ (bits v 0 16 < S) ∧ (0 < d) ∧ (S < s.ringPending n + d)) ∧
    (∃ (s : State) (n : Fin 256) (v S old new h d : Nat), ∃ (u : State), (S = s.sqSize n) ∧ (s.fget (HUB_RING_PTRS_TAIL n) < S) ∧ (s.fget (HUB_RING_PTRS_TAIL_PH n) ≤ 1) ∧ (s.fget (HUB_RING_PTRS_HEAD n) < S) ∧ (s.fget (HUB_RING_PTRS_HEAD_PH n) ≤ 1) ∧ (S ≤ 65536) ∧ (old = s.fget (HUB_RING_PTRS_TAIL_PH n) * S + s.fget (HUB_RING_PTRS_TAIL n)) ∧ (new = bits v 16 1 * S + bits v 0 16) ∧ (h = s.fget (HUB_RING_PTRS_HEAD_PH n) * S + s.fget (HUB_RING_PTRS_HEAD n)) ∧ (d = (new + 2 * S - old) % (2 * S)) ∧ (NoteOnly (s.fset (HUB_RING_STAT_DB_ERR n) 1) u)) ∧
    (∃ (s : State) (n : Fin 256) (v S old new h d : Nat), ∃ (hd : GlkHead) (t : State), (S = s.sqSize n) ∧ (s.fget (HUB_RING_PTRS_TAIL n) < S) ∧ (s.fget (HUB_RING_PTRS_TAIL_PH n) ≤ 1) ∧ (s.fget (HUB_RING_PTRS_HEAD n) < S) ∧ (s.fget (HUB_RING_PTRS_HEAD_PH n) ≤ 1) ∧ (S ≤ 65536) ∧ (old = s.fget (HUB_RING_PTRS_TAIL_PH n) * S + s.fget (HUB_RING_PTRS_TAIL n)) ∧ (new = bits v 16 1 * S + bits v 0 16) ∧ (h = s.fget (HUB_RING_PTRS_HEAD_PH n) * S + s.fget (HUB_RING_PTRS_HEAD n)) ∧ (d = (new + 2 * S - old) % (2 * S)) ∧ (MsgComes s t hd (slotsOf 8)) ∧ (headFits hd 8 = true) ∧ (t.glk.behindSnoop = false) ∧ (t.glk.writeWaits = false) ∧ (t.fatal = false)) :=
  ⟨⟨ringIdle, 255, 5, _, _, _, _, _, rfl, by decide +kernel, by decide +kernel, by decide +kernel, by decide +kernel, by decide +kernel, rfl, rfl, rfl, rfl, by decide +kernel⟩,
    ⟨ringOn, 0, 16, _, _, _, _, _, rfl, by decide +kernel, by decide +kernel, by decide +kernel, by decide +kernel, by decide +kernel, rfl, rfl, rfl, rfl, by decide +kernel, by decide +kernel⟩,
    ⟨ring1, 0, 1, _, _, _, _, _, rfl, by decide +kernel, by decide +kernel, by decide +kernel, by decide +kernel, by decide +kernel, rfl, rfl, rfl, rfl, by decide +kernel, by decide +kernel, by decide +kernel⟩,
    ⟨ring1, 0, 2 ^ 16, _, _, _, _, _, rfl, by decide +kernel, by decide +kernel, by decide +kernel, by decide +kernel, by decide +kernel, rfl, rfl, rfl, rfl, by decide +kernel, by decide +kernel, by decide +kernel, by decide +kernel⟩,
    ⟨ring1, 0, 2 ^ 16 + 1, _, _, _, _, _, rfl, by decide +kernel, by decide +kernel, by decide +kernel, by decide +kernel, by decide +kernel, rfl, rfl, rfl, rfl, by decide +kernel, by decide +kernel, by decide +kernel, by decide +kernel⟩,
    ⟨ringOn, 0, 2 ^ 16 + 1, _, _, _, _, _, _, rfl, by decide +kernel, by decide +kernel, by decide +kernel, by decide +kernel, by decide +kernel, rfl, rfl, rfl, rfl, noteOnly_refl _⟩,
    ⟨ring1, 0, 2 ^ 16, _, _, _, _, _, ⟨0, 0, 5, 0, 0, 1, false⟩, _, rfl, by decide +kernel, by decide +kernel, by decide +kernel, by decide +kernel, by decide +kernel, rfl, rfl, rfl, rfl, ⟨by decide +kernel, by decide +kernel, rfl⟩, by decide +kernel, by decide +kernel, by decide +kernel, by decide +kernel⟩⟩

/-- The hypotheses of CompletionHeadRule can be met. -/
theorem witness_CompletionHeadRule :
    (∃ (s : State) (n : Fin 256) (v S c d : Nat), (S = s.cqSize n) ∧ ((s.ring n).cqHead < 2 * S) ∧ (c = ((1 - bits v 16 1) * S + bits v 0 16) % (2 * S)) ∧ (d = (c + 2 * S - (s.ring n).cqHead) % (2 * S)) ∧ (s.ringState n = 0)) ∧
    (∃ (s : State) (n : Fin 256) (v S c d : Nat), (S = s.cqSize n) ∧ ((s.ring n).cqHead < 2 * S) ∧ (c = ((1 - bits v 16 1) * S + bits v 0 16) % (2 * S)) ∧ (d = (c + 2 * S - (s.ring n).cqHead) % (2 * S)) ∧ (s.ringState n ≠ 0) ∧ (S ≤ bits v 0 16)) ∧
    (∃ (s : State) (n : Fin 256) (v S c d : Nat), (S = s.cqSize n) ∧ ((s.ring n).cqHead < 2 * S) ∧ (c = ((1 - bits v 16 1) * S + bits v 0 16) % (2 * S)) ∧ (d = (c + 2 * S - (s.ring n).cqHead) % (2 * S)) ∧ (s.ringState n ≠ 0) ∧ (bits v 0 16 < S) ∧ (d = 0)) ∧
    (∃ (s : State) (n : Fin 256) (v S c d : Nat), (S = s.cqSize n) ∧ ((s.ring n).cqHead < 2 * S) ∧ (c = ((1 - bits v 16 1) * S + bits v 0 16) % (2 * S)) ∧ (d = (c + 2 * S - (s.ring n).cqHead) % (2 * S)) ∧ (s.ringState n ≠ 0) ∧ (bits v 0 16 < S) ∧ (0 < d) ∧ (d ≤ s.cqUsed n)) ∧
    (∃ (s : State) (n : Fin 256) (v S c d : Nat), (S = s.cqSize n) ∧ ((s.ring n).cqHead < 2 * S) ∧ (c = ((1 - bits v 16 1) * S + bits v 0 16) % (2 * S)) ∧ (d = (c + 2 * S - (s.ring n).cqHead) % (2 * S)) ∧ (s.ringState n ≠ 0) ∧ (bits v 0 16 < S) ∧ (s.cqUsed n < d)) :=
  ⟨⟨ringIdle, 255, 5, _, _, _, rfl, by decide +kernel, rfl, rfl, by decide +kernel⟩,
    ⟨ringOn, 0, 16, _, _, _, rfl, by decide +kernel, rfl, rfl, by decide +kernel, by decide +kernel⟩,
    ⟨ring1, 0, 2 ^ 16, _, _, _, rfl, by decide +kernel, rfl, rfl, by decide +kernel, by decide +kernel, by decide +kernel⟩,
    ⟨ring1.fset (HUB_RING_PTRS_CQ_TAIL 0) 15, 0, 2 ^ 16 + 15, _, _, _, rfl, by decide +kernel, rfl, rfl, by decide +kernel, by decide +kernel, by decide +kernel, by decide +kernel⟩,
    ⟨ring1, 0, 15, _, _, _, rfl, by decide +kernel, rfl, rfl, by decide +kernel, by decide +kernel, by decide +kernel⟩⟩

/-- The hypotheses of RingEnables can be met. -/
theorem witness_RingEnables :
    (∃ (s : State) (n : Fin 256) (on : Bool), (s.governed (HUB_RING_CTRL n) = true)) ∧
    (∃ (s : State) (n : Fin 256), (s.governed (HUB_RING_CTRL n) = false) ∧ (s.ringState n = 0) ∧ (s.enableRefused n = false)) ∧
    (∃ (s : State) (n : Fin 256), (s.governed (HUB_RING_CTRL n) = false) ∧ (s.ringState n = 0) ∧ (s.enableRefused n = true)) ∧
    (∃ (s : State) (n : Fin 256), (s.governed (HUB_RING_CTRL n) = false) ∧ (s.ringState n = 1)) ∧
    (∃ (s : State) (n : Fin 256), ∃ f, (f ∈ [HUB_RING_PTRS_HEAD n, HUB_RING_PTRS_HEAD_PH n, HUB_RING_PTRS_TAIL n, HUB_RING_PTRS_TAIL_PH n, HUB_RING_PTRS_CQ_TAIL n, HUB_RING_CNT0_FETCHED n, HUB_RING_CNT0_COMPLETED n, HUB_RING_CNT1_ERRORS n, HUB_RING_CNT1_NOOPS n])) :=
  ⟨⟨ringOn, 0, true, by decide +kernel⟩,
    ⟨ringIdle, 0, by decide +kernel, by decide +kernel, by decide +kernel⟩,
    ⟨ringIdle.fset (HUB_RING_SQ_LOG2 0) 17, 0, by decide +kernel, by decide +kernel, by decide +kernel⟩,
    ⟨ringOn.fset (HUB_PART_CTRL_STATE 0) 1, 0, by decide +kernel, by decide +kernel⟩,
    ⟨ringOn, 0, HUB_RING_PTRS_CQ_TAIL 0, by decide +kernel⟩⟩

/-- The hypotheses of RingFetches can be met. -/
theorem witness_RingFetches :
    (∃ (s : State) (n : Fin 256) (phys : ReadUpset), (∃ x ∈ phys, x.1 = HUB_RING_PTRS n ∧ eccFails x.2 = true)) ∧
    (∃ (s u : State) (n : Fin 256) (phys : ReadUpset) (l p raw : Nat), (∀ x ∈ phys, x.1 ≠ HUB_RING_PTRS n) ∧ (u = s.strike phys) ∧ (u.nextRing = some n.val) ∧ (l = (u.entryAt n - glkBase) / 128) ∧ (p = u.ringPart n) ∧ (raw = u.loadNat (u.entryAt n) 128) ∧ (u.glk.inS l = false)) ∧
    (∃ (s u : State) (n : Fin 256) (phys : ReadUpset) (l p raw : Nat), (∀ x ∈ phys, x.1 ≠ HUB_RING_PTRS n) ∧ (u = s.strike phys) ∧ (u.nextRing = some n.val) ∧ (l = (u.entryAt n - glkBase) / 128) ∧ (p = u.ringPart n) ∧ (raw = u.loadNat (u.entryAt n) 128) ∧ (u.glk.inS l = true) ∧ (u.mustPause p raw = true)) ∧
    (∃ (s u : State) (n : Fin 256) (phys : ReadUpset) (l p raw : Nat), ∃ (w : State) (c : Code), (∀ x ∈ phys, x.1 ≠ HUB_RING_PTRS n) ∧ (u = s.strike phys) ∧ (u.nextRing = some n.val) ∧ (l = (u.entryAt n - glkBase) / 128) ∧ (p = u.ringPart n) ∧ (raw = u.loadNat (u.entryAt n) 128) ∧ (u.glk.inS l = true) ∧ (u.mustPause p raw = false) ∧ ((u.touchLine l).tryValidate (.ring n) raw (u.ring n).prevEff (u.damage.length + 1) = (w, .error (.bad c)))) ∧
    (∃ (s u : State) (n : Fin 256) (phys : ReadUpset) (l p raw : Nat), ∃ (w : State) (v : Nat × List Nat), (∀ x ∈ phys, x.1 ≠ HUB_RING_PTRS n) ∧ (u = s.strike phys) ∧ (u.nextRing = some n.val) ∧ (l = (u.entryAt n - glkBase) / 128) ∧ (p = u.ringPart n) ∧ (raw = u.loadNat (u.entryAt n) 128) ∧ (u.glk.inS l = true) ∧ (u.mustPause p raw = false) ∧ ((u.touchLine l).tryValidate (.ring n) raw (u.ring n).prevEff (u.damage.length + 1) = (w, .ok v))) :=
  ⟨⟨ring1, 0, [(HUB_RING_PTRS 0, [(0, 1), (1, 1)])], by decide +kernel⟩,
    ⟨ring1, _, 0, [], _, _, _, by decide +kernel, rfl, by decide +kernel, rfl, rfl, rfl, by decide +kernel⟩,
    ⟨fetched (raws [(0, 0, 0x0A), (8, 0, 12)]), _, 0, [], _, _, _, by decide +kernel, rfl, by decide +kernel, rfl, rfl, rfl, by decide +kernel, by decide +kernel⟩,
    ⟨fetched 0xFF, _, 0, [], _, _, _, _, _, by decide +kernel, rfl, by decide +kernel, rfl, rfl, rfl, by decide +kernel, by decide +kernel, bad_eq _ (by decide +kernel)⟩,
    ⟨fetched 0x0A, _, 0, [], _, _, _, _, _, by decide +kernel, rfl, by decide +kernel, rfl, rfl, rfl, by decide +kernel, by decide +kernel, ok_eq _ (by decide +kernel)⟩⟩

/-- The hypotheses of DescriptorsComplete can be met. -/
theorem witness_DescriptorsComplete :
    (∃ (s : State) (o : Origin) (id : Nat) (d : Desc), (s.desc? o id = some d) ∧ (s.running (s.originPart o) = true) ∧ (s.mayComplete o d = true) ∧ (dDoneEn d.raw = false ∨ dDoneN d.raw = 0)) ∧
    (∃ (s : State) (o : Origin) (id : Nat) (d : Desc), ∃ t, (s.desc? o id = some d) ∧ (s.running (s.originPart o) = true) ∧ (s.mayComplete o d = true) ∧ (dDoneEn d.raw = true) ∧ (dDoneN d.raw ≠ 0) ∧ (s.dropJar (s.originPart o) (dDoneJar d.raw) (dDoneN d.raw) (originUnit o) = .done t)) ∧
    (∃ (s : State) (o : Origin) (d : Desc), (RunsNow s o (fun raw => dClass raw == 0x0A) noRanges noRanges d)) ∧
    (∃ (s : State) (o : Origin) (d : Desc), (RunsNow s o isLaunch noRanges noRanges d) ∧ (s.ccFree (dRegion d.raw) (dSlot d.raw) = true)) ∧
    (∃ (s : State) (o : Origin) (d : Desc), (RunsNow s o (fun raw => dClass raw == 0x0C) noRanges noRanges d)) ∧
    (∃ (s : State) (dest : Nat), (s.fatal = false) ∧ (inCompanion (bits dest 12 32 * 4096) = true) ∧ (s.fieldReads s.devViews HUB_RESYNC_STAT_PENDING < 4)) ∧
    (∃ (s u : State) (q : ResyncReq) (l : List ResyncReq), (s.resyncQ = q :: l) ∧ (s.resyncNow = none) ∧ (s.glkUp = true) ∧ (u = { s with resyncQ := l }) ∧ (u.resyncLive q = true)) :=
  ⟨⟨ranD run 0x0A, .ring 0, 1, _, some_eq _ (by decide +kernel), by decide +kernel, by decide +kernel, .inl (by decide +kernel)⟩,
    ⟨ranD (withJar run 5 7) (raws [(0, 0, 0x0A), (18, 0, 5), (18, 15, 1), (24, 0, 2)]), .ring 0, 1, _, _, some_eq _ (by decide +kernel), by decide +kernel, by decide +kernel, by decide +kernel, by decide +kernel, done_eq _ (by decide +kernel)⟩,
    ⟨runD run 0x0A, .ring 0, dsc 0x0A, ⟨by decide +kernel, by decide +kernel, by decide +kernel, by decide +kernel, by decide +kernel, by decide +kernel, by decide +kernel, by decide +kernel⟩⟩,
    ⟨runD run 0x0B, .ring 0, dsc 0x0B, ⟨by decide +kernel, by decide +kernel, by decide +kernel, by decide +kernel, by decide +kernel, by decide +kernel, by decide +kernel, by decide +kernel⟩, by decide +kernel⟩,
    ⟨runD run 0x0C, .ring 0, dsc 0x0C, ⟨by decide +kernel, by decide +kernel, by decide +kernel, by decide +kernel, by decide +kernel, by decide +kernel, by decide +kernel, by decide +kernel⟩⟩,
    ⟨run, 2 ^ 42, by decide +kernel, by decide +kernel, by decide +kernel⟩,
    ⟨{ run.fset GLK_STAT_STATE 2 with resyncQ := [⟨2 ^ 42, none⟩] }, _, _, _, rfl, by decide +kernel, by decide +kernel, rfl, by decide +kernel⟩⟩

/-- The hypotheses of PartitionStarts can be met. -/
theorem witness_PartitionStarts :
    (∃ (s : State) (p : Fin 4) (bad : List (Fin 4)), (s.fatal = true ∨ s.pstate p ≠ 6 ∧ (s.pstate p ≠ 1 ∨ s.flag (HUB_PART_CTX_BUSY p) = true ∨ s.glkUp = false))) ∧
    (∃ (s : State) (p : Fin 4) (bad : List (Fin 4)), (s.pstate p = 6) ∧ (s.fatal = false)) ∧
    (∃ (s : State) (p : Fin 4) (bad : List (Fin 4)) (r : Nat), (s.pstate p = 1) ∧ (s.fatal = false) ∧ (s.flag (HUB_PART_CTX_BUSY p) = false) ∧ (s.glkUp = true) ∧ (s.startReason p = some r)) ∧
    (∃ (s : State) (p : Fin 4), ∃ m, (s.startReason p = none) ∧ (m ∈ stackSet s.layout p)) ∧
    (∃ (s u : State) (p : Fin 4) (bad : List (Fin 4)), (s.pstate p = 1) ∧ (s.fatal = false) ∧ (s.flag (HUB_PART_CTX_BUSY p) = false) ∧ (s.glkUp = true) ∧ (s.startReason p = none) ∧ (s.toRejoin p = []) ∧ (u = s.fsets [(HUB_PART_CTRL_REASON p, 0), (HUB_PART_CTRL_STATE p, 2)])) :=
  ⟨⟨run, 0, [], .inr (by decide +kernel)⟩,
    ⟨stopped0.fset (HUB_PART_CTRL_STATE 0) 6, 0, [], by decide +kernel, by decide +kernel⟩,
    ⟨stopped0.fset (HUB_PART_PTBASE_ENABLE 0) 0, 0, [], 1, by decide +kernel, by decide +kernel, by decide +kernel, by decide +kernel, by decide +kernel⟩,
    ⟨stopped0, 0, 11, by decide +kernel, by decide +kernel⟩,
    ⟨stopped0, _, 0, [], by decide +kernel, by decide +kernel, by decide +kernel, by decide +kernel, by decide +kernel, by decide +kernel, rfl⟩⟩

/-- The hypotheses of ClearStops can be met. -/
theorem witness_ClearStops :
    (∃ (s : State) (p : Fin 4), (s.pstate p ≠ 5 ∨ s.fatal = true)) ∧
    (∃ (s : State) (p : Fin 4), (s.pstate p = 5) ∧ (s.fatal = false)) :=
  ⟨⟨run, 0, .inl (by decide +kernel)⟩,
    ⟨run.fset (HUB_PART_CTRL_STATE 0) 5, 0, by decide +kernel, by decide +kernel⟩⟩

/-- The hypotheses of ContextCommands can be met. -/
theorem witness_ContextCommands :
    (∃ (s : State) (p : Fin 4) (addr a : Nat), (s.pstate p = 1) ∧ (s.flag (HUB_PART_CTX_BUSY p) = false) ∧ (s.fatal = false) ∧ (a = addr / 4096 % 2 ^ 32 * 4096) ∧ (s.ctxFits p a = true)) ∧
    (∃ (s : State) (p : Fin 4) (c : CtxCmd) (phys : ReadUpset), ((s.part p).ctx = some c) ∧ (c.bad = false) ∧ (c.cmd ≠ 3 → s.refusedIn c.addr ctxLen = false) ∧ (c.cmd = 3)) ∧
    (∃ (s : State) (p : Fin 4) (c : CtxCmd) (phys : ReadUpset), ((s.part p).ctx = some c) ∧ (c.bad = false) ∧ (c.cmd ≠ 3 → s.refusedIn c.addr ctxLen = false) ∧ (c.cmd = 1) ∧ (s.glk.acksDue (.ctx p) = false)) ∧
    (∃ (s : State) (p : Fin 4) (c : CtxCmd) (phys : ReadUpset), ((s.part p).ctx = some c) ∧ (c.bad = false) ∧ (c.cmd ≠ 3 → s.refusedIn c.addr ctxLen = false) ∧ (c.cmd = 1) ∧ (s.glk.acksDue (.ctx p) = true)) ∧
    (∃ (s : State) (p : Fin 4) (c : CtxCmd) (phys : ReadUpset), ∃ (u : State), ((s.part p).ctx = some c) ∧ (c.bad = false) ∧ (c.cmd ≠ 3 → s.refusedIn c.addr ctxLen = false) ∧ (c.cmd = 2) ∧ (s.streamReady [(c.addr, ctxLen)] = true) ∧ ((s.strike phys).readFor p [(c.addr, ctxLen)] = (u, none))) ∧
    (∃ (s : State) (p : Fin 4) (c : CtxCmd) (phys : ReadUpset), ∃ (u : State) (a : Nat), ((s.part p).ctx = some c) ∧ (c.bad = false) ∧ (c.cmd ≠ 3 → s.refusedIn c.addr ctxLen = false) ∧ (c.cmd = 2) ∧ (s.streamReady [(c.addr, ctxLen)] = true) ∧ ((s.strike phys).readFor p [(c.addr, ctxLen)] = (u, some a))) ∧
    (∃ (s : State) (p : Fin 4) (c : CtxCmd) (phys : ReadUpset), ((s.part p).ctx = some c) ∧ (c.bad = true)) :=
  ⟨⟨stopped0, 0, 2 ^ 42, 2 ^ 42, by decide +kernel, by decide +kernel, by decide +kernel, by decide +kernel, by decide +kernel⟩,
    ⟨ctx ⟨3, 2 ^ 42, false⟩, 0, ⟨3, 2 ^ 42, false⟩, [], by decide +kernel, by decide +kernel, by decide +kernel, by decide +kernel⟩,
    ⟨ctx ⟨1, 2 ^ 42, false⟩, 0, ⟨1, 2 ^ 42, false⟩, [], by decide +kernel, by decide +kernel, by decide +kernel, by decide +kernel, by decide +kernel⟩,
    ⟨(ctx ⟨1, 2 ^ 42, false⟩).updGlk fun g => { g with outst := [⟨1, 3, 0, .ctx 0, false⟩] }, 0, ⟨1, 2 ^ 42, false⟩, [], by decide +kernel, by decide +kernel, by decide +kernel, by decide +kernel, by decide +kernel⟩,
    ⟨ctx ⟨2, 0x8000, false⟩, 0, ⟨2, 0x8000, false⟩, [], _, by decide +kernel, by decide +kernel, by decide +kernel, by decide +kernel, by decide +kernel, none_eq _ (by decide +kernel)⟩,
    ⟨ctx ⟨2, 0x8000, false⟩, 0, ⟨2, 0x8000, false⟩, [(0x8000, [(0, 1), (1, 1)])], _, _, by decide +kernel, by decide +kernel, by decide +kernel, by decide +kernel, by decide +kernel, pairSome_eq _ (by decide +kernel)⟩,
    ⟨ctx ⟨2, 2 ^ 42, true⟩, 0, ⟨2, 2 ^ 42, true⟩, [], by decide +kernel, by decide +kernel⟩⟩

/-- The hypotheses of JarsAllocate can be met. -/
theorem witness_JarsAllocate :
    (∃ (s : State) (o : Origin) (d : Desc) (j : Nat), (RunsNow s o (isJar 0) noRanges noRanges d) ∧ (findRun (s.part (s.originPart o)).jars (jarN d.raw) = some j)) ∧
    (∃ (s : State) (o : Origin) (d : Desc), ∃ i, (RunsNow s o (isJar 0) noRanges noRanges d) ∧ (findRun (s.part (s.originPart o)).jars (jarN d.raw) = none) ∧ (i < 4096)) ∧
    (∃ (s : State) (o : Origin) (d : Desc), (RunsNow s o (isJar 1) noRanges noRanges d) ∧ (∀ i < jarN d.raw, ∃ x : Jar, s.jar? (s.originPart o) (i + jarFirst d.raw) = some x ∧ x.takes = [] ∧ s.homeHeld x = false ∧ (s.part (s.originPart o)).dropHeldFor (i + jarFirst d.raw) = false)) ∧
    (∃ (s : State) (o : Origin) (d : Desc) (i : Nat), (RunsNow s o (isJar 1) noRanges noRanges d) ∧ (i < jarN d.raw) ∧ (∀ k < jarN d.raw, ((s.jar? (s.originPart o) (k + jarFirst d.raw)).map s.homeHeld).getD false = false) ∧ (s.freeable (s.originPart o) (i + jarFirst d.raw) = false) ∧ (∀ k < i, s.freeable (s.originPart o) (k + jarFirst d.raw) = true)) :=
  ⟨⟨runD (run) (jarRaw 0 0 3), .ring 0, dsc (jarRaw 0 0 3), 0, ⟨by decide +kernel, by decide +kernel, by decide +kernel, by decide +kernel, by decide +kernel, by decide +kernel, by decide +kernel, by decide +kernel⟩, by decide +kernel⟩,
    ⟨runD (run) (jarRaw 0 0 5000), .ring 0, dsc (jarRaw 0 0 5000), 0, ⟨by decide +kernel, by decide +kernel, by decide +kernel, by decide +kernel, by decide +kernel, by decide +kernel, by decide +kernel, by decide +kernel⟩, findRun_none _ _ (by decide +kernel), by decide +kernel⟩,
    ⟨runD (withJar run 7 0) (jarRaw 1 7 1), .ring 0, dsc (jarRaw 1 7 1), ⟨by decide +kernel, by decide +kernel, by decide +kernel, by decide +kernel, by decide +kernel, by decide +kernel, by decide +kernel, by decide +kernel⟩, fun i hi => by
      have h1 : jarN (jarRaw 1 7 1) = 1 := by decide +kernel
      have hi : i < jarN (jarRaw 1 7 1) := hi
      obtain rfl : i = 0 := by omega
      exact ⟨⟨0, 0, 0, []⟩, by decide +kernel, by decide +kernel, by decide +kernel, by decide +kernel⟩⟩,
    ⟨runD (withJar run 7 0) (jarRaw 1 7 2), .ring 0, dsc (jarRaw 1 7 2), 1, ⟨by decide +kernel, by decide +kernel, by decide +kernel, by decide +kernel, by decide +kernel, by decide +kernel, by decide +kernel, by decide +kernel⟩, by decide +kernel, by decide +kernel, by decide +kernel, by decide +kernel⟩⟩

/-- The hypotheses of MarblesConserved can be met. -/
theorem witness_MarblesConserved :
    (∃ (s : State) (o : Origin) (d : Desc) (x : Jar), (RunsNow s o (isJar 2) noRanges noRanges d) ∧ (s.jarsLive (s.originPart o) = true) ∧ (s.jar? (s.originPart o) (jarFirst d.raw) = some x) ∧ (s.homeHeld x = false) ∧ (s.injOn 6 (s.originPart o) = false) ∧ (x.count + jarN d.raw ≤ 0xFFFFFFFF)) ∧
    (∃ (s : State) (o : Origin) (d : Desc) (x : Jar), (RunsNow s o (isJar 2) noRanges noRanges d) ∧ (s.jarsLive (s.originPart o) = true) ∧ (s.jar? (s.originPart o) (jarFirst d.raw) = some x) ∧ (s.homeHeld x = false) ∧ (s.injOn 6 (s.originPart o) = false) ∧ (0xFFFFFFFF < x.count + jarN d.raw)) ∧
    (∃ (s : State) (o : Origin) (d : Desc) (x : Jar), (RunsNow s o (isJar 3) noRanges noRanges d) ∧ (s.jar? (s.originPart o) (jarFirst d.raw) = some x) ∧ (s.homeHeld x = false) ∧ (x.takes = []) ∧ (jarN d.raw ≤ x.count)) ∧
    (∃ (s : State) (o : Origin) (d : Desc) (x : Jar), (RunsNow s o (isJar 3) noRanges noRanges d) ∧ (s.jar? (s.originPart o) (jarFirst d.raw) = some x) ∧ (s.homeHeld x = false) ∧ (x.takes ≠ [] ∨ x.count < jarN d.raw)) ∧
    (∃ (s : State) (o : Origin) (d : Desc) (x : Jar), (RunsNow s o (isJar 4) noRanges noRanges d) ∧ (s.jar? (s.originPart o) (jarFirst d.raw) = some x) ∧ (s.homeHeld x = false)) ∧
    (∃ (s : State) (o : Origin) (d : Desc), (RunsNow s o (isJar 5) noRanges noRanges d) ∧ (blkEn (jarBlk d.raw) = false)) ∧
    (∃ (s : State) (o : Origin) (d : Desc), ∃ (u : State), (RunsNow s o (isJar 5) noRanges noRanges d) ∧ (blkEn (jarBlk d.raw) = true) ∧ (s.sendDrop (s.originPart o) (jarBlk d.raw) 0 (.desc o d.id) = some u)) :=
  ⟨⟨runD (withJar run 7 5) (jarRaw 2 7 (2 ^ 32 - 6)), .ring 0, dsc (jarRaw 2 7 (2 ^ 32 - 6)), ⟨0, 0, 5, []⟩, ⟨by decide +kernel, by decide +kernel, by decide +kernel, by decide +kernel, by decide +kernel, by decide +kernel, by decide +kernel, by decide +kernel⟩, by decide +kernel, by decide +kernel, by decide +kernel, by decide +kernel, by decide +kernel⟩,
    ⟨runD (withJar run 7 5) (jarRaw 2 7 (2 ^ 32 - 5)), .ring 0, dsc (jarRaw 2 7 (2 ^ 32 - 5)), ⟨0, 0, 5, []⟩, ⟨by decide +kernel, by decide +kernel, by decide +kernel, by decide +kernel, by decide +kernel, by decide +kernel, by decide +kernel, by decide +kernel⟩, by decide +kernel, by decide +kernel, by decide +kernel, by decide +kernel, by decide +kernel⟩,
    ⟨runD (withJar run 7 5) (jarRaw 3 7 5), .ring 0, dsc (jarRaw 3 7 5), ⟨0, 0, 5, []⟩, ⟨by decide +kernel, by decide +kernel, by decide +kernel, by decide +kernel, by decide +kernel, by decide +kernel, by decide +kernel, by decide +kernel⟩, by decide +kernel, by decide +kernel, by decide +kernel, by decide +kernel⟩,
    ⟨runD (withJar run 7 5) (jarRaw 3 7 6), .ring 0, dsc (jarRaw 3 7 6), ⟨0, 0, 5, []⟩, ⟨by decide +kernel, by decide +kernel, by decide +kernel, by decide +kernel, by decide +kernel, by decide +kernel, by decide +kernel, by decide +kernel⟩, by decide +kernel, by decide +kernel, by decide +kernel⟩,
    ⟨runD (withJar run 7 5) (jarRaw 4 7 0), .ring 0, dsc (jarRaw 4 7 0), ⟨0, 0, 5, []⟩, ⟨by decide +kernel, by decide +kernel, by decide +kernel, by decide +kernel, by decide +kernel, by decide +kernel, by decide +kernel, by decide +kernel⟩, by decide +kernel, by decide +kernel⟩,
    ⟨runD (run) (jarRaw 5 0 0), .ring 0, dsc (jarRaw 5 0 0), ⟨by decide +kernel, by decide +kernel, by decide +kernel, by decide +kernel, by decide +kernel, by decide +kernel, by decide +kernel, by decide +kernel⟩, by decide +kernel⟩,
    ⟨runD net (jarRaw 5 0 0 + 2 ^ (8 * 48) * (1 + 2 ^ 23)), .ring 0, dsc (jarRaw 5 0 0 + 2 ^ (8 * 48) * (1 + 2 ^ 23)), _, ⟨by decide +kernel, by decide +kernel, by decide +kernel, by decide +kernel, by decide +kernel, by decide +kernel, by decide +kernel, by decide +kernel⟩, by decide +kernel, some_eq _ (by decide +kernel)⟩⟩

/-- The hypotheses of CoreRetires can be met. -/
theorem witness_CoreRetires :
    (∃ (s : State) (r : Fin 4) (k : Fin 40) (rd : Nat) (v : Word), (s.ccPc r k + 4 < 0x10000)) ∧
    (∃ (s : State) (r : Fin 4) (k : Fin 40) (rd : Nat) (v : Word), (0x10000 ≤ s.ccPc r k + 4)) ∧
    (∃ (s : State) (r : Fin 4) (k : Fin 40) (w f3 : Nat), (s.ccRuns r k = true) ∧ (s.insnAt r k = w) ∧ (w % 128 = 0x0B) ∧ (insnF7 w = 0) ∧ (insnF3 w = f3) ∧ (s.ccPc r k + 4 ≤ 0x10000)) :=
  ⟨⟨run, 3, 39, 31, 5, by decide +kernel⟩,
    ⟨run.fset (CORE_CC_PC_PC 0 0) 0xFFFC, 0, 0, 1, 5, by decide +kernel⟩,
    ⟨memNat (run.fset (CORE_CC_STAT_STATE 0 0) 1) (imemBase 0 0) 4 0x0000200B, 0, 0, 0x0000200B, 2, by decide +kernel, by decide +kernel, by decide +kernel, by decide +kernel, by decide +kernel, by decide +kernel⟩⟩

/-- The hypotheses of VendorInstructions can be met. -/
theorem witness_VendorInstructions :
    (∃ (s : State) (r : Fin 4) (k : Fin 40) (w : Nat) (p j n : Nat), ∃ t, (p = s.regionPart r) ∧ (j = s.vJar r k w) ∧ (n = s.vCount r k w) ∧ (s.vendorAt r k 0 = some w) ∧ (s.jarHeld p j = false) ∧ (s.dropJar p j n (unitSlot r k) = .done t)) ∧
    (∃ (s : State) (r : Fin 4) (k : Fin 40) (w : Nat) (p j n : Nat), ∃ t, (p = s.regionPart r) ∧ (j = s.vJar r k w) ∧ (n = s.vCount r k w) ∧ (s.vendorAt r k 0 = some w) ∧ (s.jarHeld p j = false) ∧ (s.dropJar p j n (unitSlot r k) = .misuse t)) ∧
    (∃ (s : State) (r : Fin 4) (k : Fin 40) (w : Nat) (p j n : Nat), ∃ (i : Instr) (f : Nat), (p = s.regionPart r) ∧ (j = s.vJar r k w) ∧ (n = s.vCount r k w) ∧ ((i, f) ∈ [(.jdrop r k, 0), (.jtry r k, 2), (.jpeek r k, 3)]) ∧ (s.vendorAt r k f = some w) ∧ (s.jarHeld p j = true)) ∧
    (∃ (s : State) (r : Fin 4) (k : Fin 40) (w : Nat) (p j n : Nat), ∃ (x : Jar), (p = s.regionPart r) ∧ (j = s.vJar r k w) ∧ (n = s.vCount r k w) ∧ (s.vendorAt r k 1 = some w) ∧ (s.fget (CORE_CC_STAT_WAIT r k) ≠ 1) ∧ (s.jar? p j = some x) ∧ (s.homeHeld x = false) ∧ (x.takes = []) ∧ (n ≤ x.count)) ∧
    (∃ (s : State) (r : Fin 4) (k : Fin 40) (w : Nat) (p j n : Nat), ∃ (x : Jar), (p = s.regionPart r) ∧ (j = s.vJar r k w) ∧ (n = s.vCount r k w) ∧ (s.vendorAt r k 1 = some w) ∧ (s.fget (CORE_CC_STAT_WAIT r k) ≠ 1) ∧ (s.jar? p j = some x) ∧ (s.homeHeld x = false) ∧ (x.takes ≠ [] ∨ x.count < n)) ∧
    (∃ (s : State) (r : Fin 4) (k : Fin 40) (w : Nat) (p j n : Nat), ∃ (x : Jar), (p = s.regionPart r) ∧ (j = s.vJar r k w) ∧ (n = s.vCount r k w) ∧ (s.vendorAt r k 1 = some w) ∧ (s.fget (CORE_CC_STAT_WAIT r k) ≠ 1) ∧ (s.jar? p j = some x) ∧ (s.homeHeld x = true)) ∧
    (∃ (s : State) (r : Fin 4) (k : Fin 40) (w : Nat) (p j n : Nat), ∃ (x : Jar), (p = s.regionPart r) ∧ (j = s.vJar r k w) ∧ (n = s.vCount r k w) ∧ (s.vendorAt r k 2 = some w) ∧ (s.jar? p j = some x) ∧ (s.homeHeld x = false) ∧ (x.takes = []) ∧ (n ≤ x.count)) ∧
    (∃ (s : State) (r : Fin 4) (k : Fin 40) (w : Nat) (p j n : Nat), ∃ (x : Jar), (p = s.regionPart r) ∧ (j = s.vJar r k w) ∧ (n = s.vCount r k w) ∧ (s.vendorAt r k 2 = some w) ∧ (s.jar? p j = some x) ∧ (s.homeHeld x = false) ∧ (x.takes ≠ [] ∨ x.count < n)) ∧
    (∃ (s : State) (r : Fin 4) (k : Fin 40) (w : Nat) (p j n : Nat), ∃ (x : Jar), (p = s.regionPart r) ∧ (j = s.vJar r k w) ∧ (n = s.vCount r k w) ∧ (s.vendorAt r k 3 = some w) ∧ (s.jar? p j = some x) ∧ (s.homeHeld x = false)) ∧
    (∃ (s : State) (r : Fin 4) (k : Fin 40) (w : Nat) (p j n : Nat), (p = s.regionPart r) ∧ (j = s.vJar r k w) ∧ (n = s.vCount r k w) ∧ (s.jar? p j = none) ∧ (s.vendorAt r k 2 = some w)) ∧
    (∃ (s : State) (r : Fin 4) (k : Fin 40) (w : Nat) (p j n : Nat), (p = s.regionPart r) ∧ (j = s.vJar r k w) ∧ (n = s.vCount r k w) ∧ (s.jar? p j = none) ∧ (s.vendorAt r k 3 = some w)) ∧
    (∃ (s : State) (r : Fin 4) (k : Fin 40) (w : Nat) (p j n : Nat), (p = s.regionPart r) ∧ (j = s.vJar r k w) ∧ (n = s.vCount r k w) ∧ (s.jar? p j = none) ∧ (s.vendorAt r k 1 = some w) ∧ (s.fget (CORE_CC_STAT_WAIT r k) ≠ 1)) ∧
    (∃ (s : State) (r : Fin 4) (k : Fin 40) (w : Nat) (p j n : Nat), ∃ a blk, (p = s.regionPart r) ∧ (j = s.vJar r k w) ∧ (n = s.vCount r k w) ∧ (s.vendorAt r k 4 = some w) ∧ (vData r k (s.vAddr r k w) 16 = some a) ∧ (blk = s.loadNat a 16) ∧ (blkEn blk = false)) ∧
    (∃ (s : State) (r : Fin 4) (k : Fin 40) (w : Nat) (p j n : Nat), ∃ a blk, ∃ (t : State), (p = s.regionPart r) ∧ (j = s.vJar r k w) ∧ (n = s.vCount r k w) ∧ (s.vendorAt r k 4 = some w) ∧ (vData r k (s.vAddr r k w) 16 = some a) ∧ (blk = s.loadNat a 16) ∧ (blkEn blk = true) ∧ (s.sendDrop p blk 0 .core = some t)) ∧
    (∃ (s : State) (r : Fin 4) (k : Fin 40) (w : Nat) (p j n : Nat), ∃ a blk, (p = s.regionPart r) ∧ (j = s.vJar r k w) ∧ (n = s.vCount r k w) ∧ (s.vendorAt r k 4 = some w) ∧ (vData r k (s.vAddr r k w) 16 = some a) ∧ (blk = s.loadNat a 16) ∧ (blkEn blk = true) ∧ (s.sendDrop p blk 0 .core = none)) ∧
    (∃ (s : State) (r : Fin 4) (k : Fin 40) (w : Nat) (p j n : Nat), ∃ a, ∃ (bad : Bool), (p = s.regionPart r) ∧ (j = s.vJar r k w) ∧ (n = s.vCount r k w) ∧ (s.vendorAt r k 5 = some w) ∧ (s.vAddr r k w % 128 = 0) ∧ (vData r k (s.vAddr r k w) 128 = some a) ∧ (32 ≤ s.occupancy r k ∨ (s.coreQ r k 10).credits = 0)) ∧
    (∃ (s : State) (r : Fin 4) (k : Fin 40) (w : Nat) (p j n : Nat), ∃ a, ∃ (bad : Bool), ∃ (c : CoreQueue), (p = s.regionPart r) ∧ (j = s.vJar r k w) ∧ (n = s.vCount r k w) ∧ (s.vendorAt r k 5 = some w) ∧ (s.vAddr r k w % 128 = 0) ∧ (vData r k (s.vAddr r k w) 128 = some a) ∧ (s.occupancy r k < 32) ∧ ((s.coreQ r k 10).credits = c.credits + 1) ∧ (c.entries = (s.coreQ r k 10).entries ++ [!bad])) ∧
    (∃ (s : State) (r : Fin 4) (k : Fin 40) (w : Nat) (p j n : Nat), (p = s.regionPart r) ∧ (j = s.vJar r k w) ∧ (n = s.vCount r k w) ∧ (s.vendorAt r k 6 = some w) ∧ (s.vAddr r k w ≤ s.beat p)) ∧
    (∃ (s : State) (r : Fin 4) (k : Fin 40) (w : Nat) (p j n : Nat), (p = s.regionPart r) ∧ (j = s.vJar r k w) ∧ (n = s.vCount r k w) ∧ (s.vendorAt r k 6 = some w) ∧ (s.beat p < s.vAddr r k w)) ∧
    (∃ (s : State) (r : Fin 4) (k : Fin 40) (w : Nat) (p j n : Nat), ∃ i, (p = s.regionPart r) ∧ (j = s.vJar r k w) ∧ (n = s.vCount r k w) ∧ (s.vendorAt r k 7 = some w) ∧ (i = s.vAddr r k w % 16) ∧ (i ∈ (s.slot r k).fresh)) ∧
    (∃ (s : State) (r : Fin 4) (k : Fin 40) (w : Nat) (p j n : Nat), ∃ i, (p = s.regionPart r) ∧ (j = s.vJar r k w) ∧ (n = s.vCount r k w) ∧ (s.vendorAt r k 7 = some w) ∧ (i = s.vAddr r k w % 16) ∧ (i ∉ (s.slot r k).fresh)) :=
  ⟨⟨coreAt (withJar run 7 4294967290) (vend 0), 0, 0, vend 0, _, _, _, _, rfl, rfl, rfl, by decide +kernel, by decide +kernel, done_eq _ (by decide +kernel)⟩,
    ⟨coreAt (withJar run 7 4294967291) (vend 0), 0, 0, vend 0, _, _, _, _, rfl, rfl, rfl, by decide +kernel, by decide +kernel, misuse_eq _ (by decide +kernel)⟩,
    ⟨coreAt ((run.updPart 0 fun q => { q with jars := mset q.jars 7 ⟨0, 1, 5, []⟩ }).updRegion 0 fun q => { q with handover := some 1 }) (vend 0), 0, 0, vend 0, _, _, _, .jdrop 0 0, 0, rfl, rfl, rfl, List.Mem.head _, by decide +kernel, by decide +kernel⟩,
    ⟨coreAt (withJar run 7 5) (vend 1), 0, 0, vend 1, _, _, _, ⟨0, 0, 5, []⟩, rfl, rfl, rfl, by decide +kernel, by decide +kernel, by decide +kernel, by decide +kernel, by decide +kernel, by decide +kernel⟩,
    ⟨coreAt (withJar run 7 4) (vend 1), 0, 0, vend 1, _, _, _, ⟨0, 0, 4, []⟩, rfl, rfl, rfl, by decide +kernel, by decide +kernel, by decide +kernel, by decide +kernel, .inr (by decide +kernel)⟩,
    ⟨coreAt ((run.updPart 0 fun q => { q with jars := mset q.jars 7 ⟨0, 1, 5, []⟩ }).updRegion 0 fun q => { q with handover := some 1 }) (vend 1), 0, 0, vend 1, _, _, _, ⟨0, 1, 5, []⟩, rfl, rfl, rfl, by decide +kernel, by decide +kernel, by decide +kernel, by decide +kernel⟩,
    ⟨coreAt (withJar run 7 5) (vend 2), 0, 0, vend 2, _, _, _, ⟨0, 0, 5, []⟩, rfl, rfl, rfl, by decide +kernel, by decide +kernel, by decide +kernel, by decide +kernel, by decide +kernel⟩,
    ⟨coreAt (withJar run 7 4) (vend 2), 0, 0, vend 2, _, _, _, ⟨0, 0, 4, []⟩, rfl, rfl, rfl, by decide +kernel, by decide +kernel, by decide +kernel, .inr (by decide +kernel)⟩,
    ⟨coreAt (withJar run 7 4) (vend 3), 0, 0, vend 3, _, _, _, ⟨0, 0, 4, []⟩, rfl, rfl, rfl, by decide +kernel, by decide +kernel, by decide +kernel⟩,
    ⟨coreAt (run) (vend 2), 0, 0, vend 2, _, _, _, rfl, rfl, rfl, by decide +kernel, by decide +kernel⟩,
    ⟨coreAt (run) (vend 3), 0, 0, vend 3, _, _, _, rfl, rfl, rfl, by decide +kernel, by decide +kernel⟩,
    ⟨coreAt (run) (vend 1), 0, 0, vend 1, _, _, _, rfl, rfl, rfl, by decide +kernel, by decide +kernel, by decide +kernel⟩,
    ⟨coreAt (run) (vend3 4), 0, 0, vend3 4, _, _, _, _, _, rfl, rfl, rfl, by decide +kernel, some_eq _ (by decide +kernel), rfl, by decide +kernel⟩,
    ⟨(coreAt (net) (vend3 4)) |> fun s => memNat s (dmemBase 0 0) 16 (1 + 2 ^ 23), 0, 0, vend3 4, _, _, _, _, _, _, rfl, rfl, rfl, by decide +kernel, some_eq _ (by decide +kernel), rfl, by decide +kernel, some_eq _ (by decide +kernel)⟩,
    ⟨(coreAt (run) (vend3 4)) |> fun s => memNat s (dmemBase 0 0) 16 (1 + 2 ^ 23), 0, 0, vend3 4, _, _, _, _, _, rfl, rfl, rfl, by decide +kernel, some_eq _ (by decide +kernel), rfl, by decide +kernel, by decide +kernel⟩,
    ⟨(coreAt run (vend3 5)).updSlot 0 0 fun q => { q with cq := List.replicate 32 (0, 0) }, 0, 0, vend3 5, _, _, _, _, false, rfl, rfl, rfl, by decide +kernel, by decide +kernel, some_eq _ (by decide +kernel), .inl (by decide +kernel)⟩,
    ⟨(coreAt run (vend3 5)).updSlot 0 0 fun q => { q with cq := List.replicate 31 (0, 0) }, 0, 0, vend3 5, _, _, _, _, false, ⟨31, [true]⟩, rfl, rfl, rfl, by decide +kernel, by decide +kernel, some_eq _ (by decide +kernel), by decide +kernel, by decide +kernel, by decide +kernel⟩,
    ⟨coreAt (run) (vend 6), 0, 0, vend 6, _, _, _, rfl, rfl, rfl, by decide +kernel, by decide +kernel⟩,
    ⟨coreAt (run) (vend3 6), 0, 0, vend3 6, _, _, _, rfl, rfl, rfl, by decide +kernel, by decide +kernel⟩,
    ⟨(coreAt run (vend 7)).updSlot 0 0 fun q => { q with fresh := [7] }, 0, 0, vend 7, _, _, _, _, rfl, rfl, rfl, by decide +kernel, rfl, by decide +kernel⟩,
    ⟨coreAt (run) (vend 7), 0, 0, vend 7, _, _, _, _, rfl, rfl, rfl, by decide +kernel, rfl, by decide +kernel⟩⟩

/-- The hypotheses of ProgramsRun can be met. -/
theorem witness_ProgramsRun :
    (∃ (s t : State) (r : Fin 4) (k : Fin 40), (s.ccRuns r k = true) ∧ (s.ccStep r k = .next t)) ∧
    (∃ (s t : State) (r : Fin 4) (k : Fin 40) (c target : Nat), (s.ccRuns r k = true) ∧ (s.ccStep r k = .nextTrap t c target)) ∧
    (∃ (s : State) (r : Fin 4) (k : Fin 40) (w len pc : Nat) (a b : Word), (s.ccInsn r k = some (w, len)) ∧ (pc = s.ccPc r k) ∧ (pc + len < 0x10000) ∧ (a = s.xget r k (insnRs1 w)) ∧ (b = s.xget r k (insnRs2 w)) ∧ (w % 128 = 0x33) ∧ (insnF7 w = 0 ∨ insnF7 w = 0x20 ∧ (insnF3 w = 0 ∨ insnF3 w = 5))) ∧
    (∃ (s : State) (r : Fin 4) (k : Fin 40) (w len pc : Nat) (a b : Word), (s.ccInsn r k = some (w, len)) ∧ (pc = s.ccPc r k) ∧ (pc + len < 0x10000) ∧ (a = s.xget r k (insnRs1 w)) ∧ (b = s.xget r k (insnRs2 w)) ∧ (w % 128 = 0x33) ∧ (insnF7 w = 1)) ∧
    (∃ (s : State) (r : Fin 4) (k : Fin 40) (w len pc : Nat) (a b : Word), (s.ccInsn r k = some (w, len)) ∧ (pc = s.ccPc r k) ∧ (pc + len < 0x10000) ∧ (a = s.xget r k (insnRs1 w)) ∧ (b = s.xget r k (insnRs2 w)) ∧ (w % 128 = 0x13) ∧ (insnF3 w = 0)) ∧
    (∃ (s : State) (r : Fin 4) (k : Fin 40) (w len pc : Nat) (a b : Word), (s.ccInsn r k = some (w, len)) ∧ (pc = s.ccPc r k) ∧ (pc + len < 0x10000) ∧ (a = s.xget r k (insnRs1 w)) ∧ (b = s.xget r k (insnRs2 w)) ∧ (w % 128 = 0x63) ∧ (insnF3 w = 0) ∧ (a ≠ b)) ∧
    (∃ (s : State) (r : Fin 4) (k : Fin 40) (w len pc : Nat) (a b : Word), (s.ccInsn r k = some (w, len)) ∧ (pc = s.ccPc r k) ∧ (pc + len < 0x10000) ∧ (a = s.xget r k (insnRs1 w)) ∧ (b = s.xget r k (insnRs2 w)) ∧ (w % 128 = 0x37)) ∧
    (∃ (s : State) (r : Fin 4) (k : Fin 40) (len : Nat), (s.ccRuns r k = true) ∧ (s.ccInsn r k = some (0x73, len))) ∧
    (∃ (s : State) (r : Fin 4) (k : Fin 40) (c : Nat), (s.ccRuns r k = true) ∧ (s.ccStep r k = .trap c)) ∧
    (∃ (s : State) (r : Fin 4) (k : Fin 40) (c : Nat), (s.ccRuns r k = true) ∧ (∀ x, s.ccStep r k ≠ .trap x) ∧ (s.vendorTrap r k = some c)) :=
  ⟨⟨coreAt run 2130483, _, 0, 0, by decide +kernel, rvNext_eq _ (by decide +kernel)⟩,
    ⟨coreAt run 98407, _, 0, 0, _, _, by decide +kernel, rvNextTrap_eq _ (by decide +kernel)⟩,
    ⟨coreAt run 2130483, 0, 0, 2130483, 4, _, _, _, by decide +kernel, rfl, by decide +kernel, rfl, rfl, by decide +kernel, .inl (by decide +kernel)⟩,
    ⟨coreAt run 35684915, 0, 0, 35684915, 4, _, _, _, by decide +kernel, rfl, by decide +kernel, rfl, rfl, by decide +kernel, by decide +kernel⟩,
    ⟨coreAt run 4293952019, 0, 0, 4293952019, 4, _, _, _, by decide +kernel, rfl, by decide +kernel, rfl, rfl, by decide +kernel, by decide +kernel⟩,
    ⟨coreAt run 2130019, 0, 0, 2130019, 4, _, _, _, by decide +kernel, rfl, by decide +kernel, rfl, rfl, by decide +kernel, by decide +kernel, by decide +kernel⟩,
    ⟨coreAt run 2147484215, 0, 0, 2147484215, 4, _, _, _, by decide +kernel, rfl, by decide +kernel, rfl, rfl, by decide +kernel⟩,
    ⟨coreAt run 0x73, 0, 0, 4, by decide +kernel, by decide +kernel⟩,
    ⟨coreAt run 0, 0, 0, _, by decide +kernel, rvTrap_eq _ (by decide +kernel)⟩,
    ⟨coreAt run (vend 5), 0, 0, _, by decide +kernel, noTrap _ (by decide +kernel), some_eq _ (by decide +kernel)⟩⟩

/-- The hypotheses of MailboxCsrs can be met. -/
theorem witness_MailboxCsrs :
    (∃ (s : State) (r : Fin 4) (k : Fin 40) (w : Nat), (s.csrAt r k 0x7C0 = some w) ∧ (csrWrites w = true)) ∧
    (∃ (s : State) (r : Fin 4) (k : Fin 40) (w : Nat), (s.csrAt r k 0x7C0 = some w) ∧ (csrWrites w = false)) ∧
    (∃ (s : State) (r : Fin 4) (k : Fin 40) (w : Nat), ∃ x l, (s.csrAt r k 0x7C1 = some w) ∧ (csrReads w = true) ∧ (s.mboxHeld (coreChan r k) = false) ∧ ((s.chan (coreChan r k)).toB = x :: l)) ∧
    (∃ (s : State) (r : Fin 4) (k : Fin 40) (w : Nat), (s.csrAt r k 0x7C1 = some w) ∧ ((s.chan (coreChan r k)).toB = [] ∨ csrReads w = false)) ∧
    (∃ (s : State) (r : Fin 4) (k : Fin 40) (w : Nat), (s.csrAt r k 0x7C2 = some w) ∧ (csrWrites w = false)) ∧
    (∃ (s : State) (r : Fin 4) (k : Fin 40) (w : Nat), (s.csrAt r k 0x7C2 = some w) ∧ (csrWrites w = true)) :=
  ⟨⟨coreAt run 2080411763, 0, 0, 2080411763, by decide +kernel, by decide +kernel⟩,
    ⟨coreAt run 2080383603, 0, 0, 2080383603, by decide +kernel, by decide +kernel⟩,
    ⟨(coreAt run 2081432179).updChan 64 fun q => { q with toB := [(1, 2), (3, 4)] }, 0, 0, 2081432179, _, _, by decide +kernel, by decide +kernel, by decide +kernel, rfl⟩,
    ⟨coreAt run 2081432179, 0, 0, 2081432179, by decide +kernel, .inl (by decide +kernel)⟩,
    ⟨coreAt run 2082480755, 0, 0, 2082480755, by decide +kernel, by decide +kernel⟩,
    ⟨coreAt run 2082509427, 0, 0, 2082509427, by decide +kernel, by decide +kernel⟩⟩

/-- The hypotheses of EnginesStart can be met. -/
theorem witness_EnginesStart :
    (∃ (s t : State) (o : Origin) (d f : Desc) (up : Upset), ∃ (r k : Nat) (gs : List (Nat × Nat × Nat)), ∃ x, (StartsNow s o isMatrix (fun _ d => mxOutputs d) d t f) ∧ (f.noop = false) ∧ (f.passed = false) ∧ (t.handoverMeets (mxInputs o t f ++ mxOutputs f) = false) ∧ (t.matrixQueued f = false) ∧ (r = dRegion f.raw) ∧ (k = dSlot f.raw) ∧ (gs = mxGroups f.raw) ∧ (gs.find? (t.groupFails r k f.raw) = some x)) ∧
    (∃ (s t : State) (o : Origin) (d f : Desc) (up : Upset), ∃ (r k : Nat) (gs : List (Nat × Nat × Nat)), (StartsNow s o isMatrix (fun _ d => mxOutputs d) d t f) ∧ (f.noop = false) ∧ (f.passed = false) ∧ (t.handoverMeets (mxInputs o t f ++ mxOutputs f) = false) ∧ (t.matrixQueued f = false) ∧ (r = dRegion f.raw) ∧ (k = dSlot f.raw) ∧ (gs = mxGroups f.raw) ∧ (∀ x ∈ gs, t.groupFails r k f.raw x = false) ∧ (mxOpen f.raw = true ∧ (∃ x ∈ gs, t.groupState r k x.1 = 2))) ∧
    (∃ (s t : State) (o : Origin) (d f : Desc) (up : Upset), ∃ (r k : Nat) (gs : List (Nat × Nat × Nat)), ∃ (v : State) (e : Desc), (StartsNow s o isMatrix (fun _ d => mxOutputs d) d t f) ∧ (f.noop = false) ∧ (f.passed = false) ∧ (t.handoverMeets (mxInputs o t f ++ mxOutputs f) = false) ∧ (t.matrixQueued f = false) ∧ (r = dRegion f.raw) ∧ (k = dSlot f.raw) ∧ (gs = mxGroups f.raw) ∧ (∀ x ∈ gs, t.groupFails r k f.raw x = false) ∧ (mxOpen f.raw = true → ∀ x ∈ gs, t.groupState r k x.1 ≠ 2) ∧ (v = ((t.each gs fun s x => s.useGroup r k f.raw x).updSlot r k fun q => { q with begun := if mxOpen f.raw then q.begun.filter fun g => !(gs.any fun x => x.1 == g) else q.begun }).updDesc o f.id (fun e => { e with passed := true })) ∧ (v.desc? o f.id = some e)) ∧
    (∃ (s : State) (o : Origin) (d : Desc), (RunsNow s o isMatrix (mxInputs o) (fun _ d => mxOutputs d) d)) ∧
    (∃ (s : State) (r : Fin 4) (k : Fin 40) (raw : Nat) (x : Nat × Nat × Nat), (x.1 < 16) ∧ (mxOpen raw = true)) ∧
    (∃ (s : State) (r : Fin 4) (k : Fin 40) (raw : Nat) (x : Nat × Nat × Nat), (x.1 < 16) ∧ (mxOpen raw = false)) ∧
    (∃ (s u : State) (o : Origin) (d : Desc), (RunsNow s o isVector (vxRanges (s.originPart o) false) (vxRanges (s.originPart o) true) d) ∧ (u = s.reading o (vxRanges (s.originPart o) false s d)) ∧ ((u.slot (dRegion d.raw) (dSlot d.raw)).vec = none) ∧ (u.behind isVector d = false)) ∧
    (∃ (s u : State) (o : Origin) (d : Desc), (RunsNow s o isVector (vxRanges (s.originPart o) false) (vxRanges (s.originPart o) true) d) ∧ (u = s.reading o (vxRanges (s.originPart o) false s d)) ∧ ((u.slot (dRegion d.raw) (dSlot d.raw)).vec ≠ none ∨ u.behind isVector d = true)) :=
  ⟨⟨startD (run.fset (CORE_ACC_GRP_STATE 0 0 0) 1) (mxRaw 1 1), _, .ring 0, fresh (mxRaw 1 1), _, .none, _, _, _, _, ⟨by decide +kernel, by decide +kernel, by decide +kernel, by decide +kernel, ⟨_, some_eq _ (by decide +kernel), by decide +kernel, rfl⟩, by decide +kernel, some_eq _ (by decide +kernel)⟩, by decide +kernel, by decide +kernel, by decide +kernel, by decide +kernel, rfl, rfl, rfl, some_eq _ (by decide +kernel)⟩,
    ⟨startD (run.fset (CORE_ACC_GRP_STATE 0 0 0) 2) (mxRaw 1 1), _, .ring 0, fresh (mxRaw 1 1), _, .none, _, _, _, ⟨by decide +kernel, by decide +kernel, by decide +kernel, by decide +kernel, ⟨_, some_eq _ (by decide +kernel), by decide +kernel, rfl⟩, by decide +kernel, some_eq _ (by decide +kernel)⟩, by decide +kernel, by decide +kernel, by decide +kernel, by decide +kernel, rfl, rfl, rfl, by decide +kernel, by decide +kernel⟩,
    ⟨startD (run) (mxRaw 1 1), _, .ring 0, fresh (mxRaw 1 1), _, .none, _, _, _, _, _, ⟨by decide +kernel, by decide +kernel, by decide +kernel, by decide +kernel, ⟨_, some_eq _ (by decide +kernel), by decide +kernel, rfl⟩, by decide +kernel, some_eq _ (by decide +kernel)⟩, by decide +kernel, by decide +kernel, by decide +kernel, by decide +kernel, rfl, rfl, rfl, by decide +kernel, by decide +kernel, rfl, some_eq _ (by decide +kernel)⟩,
    ⟨runD (run) (mxRaw 1 1), .ring 0, dsc (mxRaw 1 1), ⟨by decide +kernel, by decide +kernel, by decide +kernel, by decide +kernel, by decide +kernel, by decide +kernel, by decide +kernel, by decide +kernel⟩⟩,
    ⟨run, 0, 0, mxRaw 1 1, (15, 0, 0), by decide +kernel, by decide +kernel⟩,
    ⟨run, 0, 0, mxRaw 0 1, (0, 0, 0), by decide +kernel, by decide +kernel⟩,
    ⟨runD (run) (2), _, .ring 0, dsc (2), ⟨by decide +kernel, by decide +kernel, by decide +kernel, by decide +kernel, by decide +kernel, by decide +kernel, by decide +kernel, by decide +kernel⟩, rfl, by decide +kernel, by decide +kernel⟩,
    ⟨(runD (run) (2)).updSlot 0 0 fun q => { q with vec := some VR }, _, .ring 0, dsc (2), ⟨by decide +kernel, by decide +kernel, by decide +kernel, by decide +kernel, by decide +kernel, by decide +kernel, by decide +kernel, by decide +kernel⟩, rfl, .inl (by decide +kernel)⟩⟩

/-- The hypotheses of TilePasses can be met. -/
theorem witness_TilePasses :
    (∃ (s : State) (r : Fin 4) (k : Fin 40) (o : Origin) (d : Desc) (l : List (Origin × Desc)) (p t : Nat) (g : Rng), ∃ (w : List Nat) (errs : List ArrErr) (u : State), (s.matrixRuns r k = (o, d) :: l) ∧ (d.ran = true) ∧ (p = s.originPart o) ∧ (s.running p = true) ∧ (t = d.work.headD 0) ∧ (g = ⟨s.seedOf p, d.step, mxTensor d.raw⟩) ∧ (t < mxTiles d.raw) ∧ (s.injArray p d.raw = none) ∧ (w = s.wRows p d.raw t) ∧ (u = State.sample (State.each (s.each (mxGroups d.raw) fun q x => (q.addTile p d.raw g w t errs x).noteLongK p d.raw t x) (mxActive d.raw) fun q a => (q.fadd (ARR_TILES_PASSES r k a) 1).accAdd (ARR_CYCLES_ACTIVE r k a) (mxRows d.raw a)) r 0 k (dTag d.raw) (mxExact d.raw) ⟨s.tileStreams p d.raw t w, s.tileOuts p d.raw t w [], crc64 (s.tileOuts p d.raw t w errs)⟩) ∧ (errs = [] ∨ mxExact d.raw = false) ∧ (t + 1 < mxTiles d.raw)) ∧
    (∃ (s : State) (r : Fin 4) (k : Fin 40) (o : Origin) (d : Desc) (l : List (Origin × Desc)) (p t : Nat) (g : Rng), ∃ (w : List Nat) (errs : List ArrErr) (u : State), (s.matrixRuns r k = (o, d) :: l) ∧ (d.ran = true) ∧ (p = s.originPart o) ∧ (s.running p = true) ∧ (t = d.work.headD 0) ∧ (g = ⟨s.seedOf p, d.step, mxTensor d.raw⟩) ∧ (t < mxTiles d.raw) ∧ (s.injArray p d.raw = none) ∧ (w = s.wRows p d.raw t) ∧ (u = State.sample (State.each (s.each (mxGroups d.raw) fun q x => (q.addTile p d.raw g w t errs x).noteLongK p d.raw t x) (mxActive d.raw) fun q a => (q.fadd (ARR_TILES_PASSES r k a) 1).accAdd (ARR_CYCLES_ACTIVE r k a) (mxRows d.raw a)) r 0 k (dTag d.raw) (mxExact d.raw) ⟨s.tileStreams p d.raw t w, s.tileOuts p d.raw t w [], crc64 (s.tileOuts p d.raw t w errs)⟩) ∧ (errs = [] ∨ mxExact d.raw = false) ∧ (mxTiles d.raw ≤ t + 1) ∧ (mxClose d.raw = false)) ∧
    (∃ (s : State) (r : Fin 4) (k : Fin 40) (o : Origin) (d : Desc) (l : List (Origin × Desc)) (p t : Nat) (g : Rng), ∃ (w : List Nat) (errs : List ArrErr) (u : State), (s.matrixRuns r k = (o, d) :: l) ∧ (d.ran = true) ∧ (p = s.originPart o) ∧ (s.running p = true) ∧ (t = d.work.headD 0) ∧ (g = ⟨s.seedOf p, d.step, mxTensor d.raw⟩) ∧ (t < mxTiles d.raw) ∧ (s.injArray p d.raw = none) ∧ (w = s.wRows p d.raw t) ∧ (u = State.sample (State.each (s.each (mxGroups d.raw) fun q x => (q.addTile p d.raw g w t errs x).noteLongK p d.raw t x) (mxActive d.raw) fun q a => (q.fadd (ARR_TILES_PASSES r k a) 1).accAdd (ARR_CYCLES_ACTIVE r k a) (mxRows d.raw a)) r 0 k (dTag d.raw) (mxExact d.raw) ⟨s.tileStreams p d.raw t w, s.tileOuts p d.raw t w [], crc64 (s.tileOuts p d.raw t w errs)⟩) ∧ (errs = [] ∨ mxExact d.raw = false) ∧ (mxTiles d.raw ≤ t + 1) ∧ (mxClose d.raw = true)) ∧
    (∃ (s : State) (r : Fin 4) (k : Fin 40) (o : Origin) (d : Desc) (l : List (Origin × Desc)) (p t : Nat) (g : Rng), ∃ (w : List Nat) (errs : List ArrErr) (u : State), ∃ x i, (s.matrixRuns r k = (o, d) :: l) ∧ (d.ran = true) ∧ (p = s.originPart o) ∧ (s.running p = true) ∧ (t = d.work.headD 0) ∧ (g = ⟨s.seedOf p, d.step, mxTensor d.raw⟩) ∧ (t < mxTiles d.raw) ∧ (s.injArray p d.raw = none) ∧ (w = s.wRows p d.raw t) ∧ (u = State.sample (State.each (s.each (mxGroups d.raw) fun q x => (q.addTile p d.raw g w t errs x).noteLongK p d.raw t x) (mxActive d.raw) fun q a => (q.fadd (ARR_TILES_PASSES r k a) 1).accAdd (ARR_CYCLES_ACTIVE r k a) (mxRows d.raw a)) r 0 k (dTag d.raw) (mxExact d.raw) ⟨s.tileStreams p d.raw t w, s.tileOuts p d.raw t w [], crc64 (s.tileOuts p d.raw t w errs)⟩) ∧ (errs = [] ∨ mxExact d.raw = false) ∧ (∃ y ∈ mxGroups d.raw, y.1 = x ∧ i < mxRows d.raw y.2.1)) ∧
    (∃ (s : State) (r : Fin 4) (k : Fin 40) (o : Origin) (d : Desc) (l : List (Origin × Desc)) (p t : Nat) (g : Rng), ∃ (w : List Nat) (errs : List ArrErr) (u : State), ∃ a x, (s.matrixRuns r k = (o, d) :: l) ∧ (d.ran = true) ∧ (p = s.originPart o) ∧ (s.running p = true) ∧ (t = d.work.headD 0) ∧ (g = ⟨s.seedOf p, d.step, mxTensor d.raw⟩) ∧ (t < mxTiles d.raw) ∧ (s.injArray p d.raw = none) ∧ (w = s.wRows p d.raw t) ∧ (u = State.sample (State.each (s.each (mxGroups d.raw) fun q x => (q.addTile p d.raw g w t errs x).noteLongK p d.raw t x) (mxActive d.raw) fun q a => (q.fadd (ARR_TILES_PASSES r k a) 1).accAdd (ARR_CYCLES_ACTIVE r k a) (mxRows d.raw a)) r 0 k (dTag d.raw) (mxExact d.raw) ⟨s.tileStreams p d.raw t w, s.tileOuts p d.raw t w [], crc64 (s.tileOuts p d.raw t w errs)⟩) ∧ (mxExact d.raw = true) ∧ (mxActive d.raw = [a]) ∧ (s.firstMismatch p d.raw a t w errs false = some x)) ∧
    (∃ (s : State) (r : Fin 4) (k : Fin 40) (o : Origin) (d : Desc) (l : List (Origin × Desc)) (p t : Nat) (g : Rng), ∃ x i, (s.matrixRuns r k = (o, d) :: l) ∧ (d.ran = true) ∧ (p = s.originPart o) ∧ (s.running p = true) ∧ (t = d.work.headD 0) ∧ (g = ⟨s.seedOf p, d.step, mxTensor d.raw⟩) ∧ (mxTiles d.raw ≤ t) ∧ (∃ y ∈ mxGroups d.raw, y.1 = x ∧ i < mxRows d.raw y.2.1)) :=
  ⟨⟨withD run [passing (mxRaw 1 2) [0]], 0, 0, .ring 0, passing (mxRaw 1 2) [0], [], _, _, _, _, [], _, by decide +kernel, by decide +kernel, rfl, by decide +kernel, rfl, rfl, by decide +kernel, by decide +kernel, rfl, rfl, .inl rfl, by decide +kernel⟩,
    ⟨withD run [passing (mxRaw 1 2) [1]], 0, 0, .ring 0, passing (mxRaw 1 2) [1], [], _, _, _, _, [], _, by decide +kernel, by decide +kernel, rfl, by decide +kernel, rfl, rfl, by decide +kernel, by decide +kernel, rfl, rfl, .inl rfl, by decide +kernel, by decide +kernel⟩,
    ⟨withD run [passing (mxRaw 1 2 + raws [(33, 1, 1)]) [1]], 0, 0, .ring 0, passing (mxRaw 1 2 + raws [(33, 1, 1)]) [1], [], _, _, _, _, [], _, by decide +kernel, by decide +kernel, rfl, by decide +kernel, rfl, rfl, by decide +kernel, by decide +kernel, rfl, rfl, .inl rfl, by decide +kernel, by decide +kernel⟩,
    ⟨withD run [passing (mxRaw4 1 2) [0]], 0, 0, .ring 0, passing (mxRaw4 1 2) [0], [], _, _, _, _, [], _, 0, 3, by decide +kernel, by decide +kernel, rfl, by decide +kernel, rfl, rfl, by decide +kernel, by decide +kernel, rfl, rfl, .inl rfl, by decide +kernel⟩,
    ⟨withD run [passing (raws [(0, 0, 1), (32, 0, 0x66), (33, 0, 1), (36, 0, 2), (96, 0, 1)]) [0]], 0, 0, .ring 0, passing (raws [(0, 0, 1), (32, 0, 0x66), (33, 0, 1), (36, 0, 2), (96, 0, 1)]) [0], [], _, _, _, _, [⟨0, 0, 0, none, 1⟩], _, 0, (0, 0), by decide +kernel, by decide +kernel, rfl, by decide +kernel, rfl, rfl, by decide +kernel, by decide +kernel, rfl, rfl, by decide +kernel, by decide +kernel, by decide +kernel⟩,
    ⟨withD run [passing (mxRaw4 1 2) [2]], 0, 0, .ring 0, passing (mxRaw4 1 2) [2], [], _, _, _, 0, 3, by decide +kernel, by decide +kernel, rfl, by decide +kernel, rfl, rfl, by decide +kernel, by decide +kernel⟩⟩

/-- The hypotheses of VectorLanes can be met. -/
theorem witness_VectorLanes :
    (∃ (s : State) (r : Fin 4) (k : Fin 40) (d : Desc) (v : VecRun) (w op : Nat) (f : VecRun → Nat → Nat → Nat) (c : Fin 4 → Fin 40 → Option VecMiss → Instr), ((op, f, c) ∈ ([ (0x01, laneEl (lane2 fadd32), .add), (0x02, laneEl (lane2 fsub32), .sub), (0x03, laneEl (lane2 fmul32), .mul), (0x04, laneEl (ffma32), .fma), (0x05, laneEl (lane2 fmax32), .max), (0x06, laneEl (lane2 fmin32), .min), (0x07, laneEl (lane1 fabs32), .abs), (0x08, laneEl (lane1 fneg32), .neg), (0x09, laneEl (lane2 fdiv32), .div), (0x0A, laneEl (lane1 fsqrt32), .sqrt), (0x0B, laneEl (lane1 vRsqrt), .rsqrt), (0x0C, laneEl (lane1 (fdiv32 one32)), .recip), (0x0D, laneEl (lane1 vExp), .exp), (0x0E, laneEl (lane1 vLog), .log), (0x0F, laneEl (lane1 vTanh), .tanh), (0x10, laneEl (lane1 vSigm), .sigm), (0x11, laneEl (lane1 (fnGated fnEpGelu)), .gelu), (0x12, laneEl (lane1 (fnGated fnEpSilu)), .silu), (0x13, laneEl (lane2 (vCmp Val.eqv)), .cmpeq), (0x14, laneEl (lane2 (vCmp Val.lt)), .cmplt), (0x15, laneEl (lane2 (vCmp fun a b => a.lt b || a.eqv b)), .cmple), (0x16, laneEl (fun a b c => if c = 0 then b else a), .sel), (0x18, laneEl (lane2 fun a b => (a + b) % 2 ^ 32), .iadd), (0x19, laneEl (lane2 Nat.land), .iand), (0x1A, laneEl (lane2 Nat.lor), .ior), (0x1B, laneEl (lane2 xorN), .ixor), (0x1C, laneEl (lane1 vCvtif), .cvtif), (0x1D, laneEl (lane1 vCvtfi), .cvtfi), (0x20, laneEl (lane1 id), .mov), (0x21, fun v w _ => v.el (viA w) 0, .bcast), (0x22, fun v w e => v.el (viA w) (e / 1024 * 1024 + e % 32 * 32 + e % 1024 / 32), .trans), (0x23, fun _ _ e => e, .iota)] : List (Nat × (VecRun → Nat → Nat → Nat) × (Fin 4 → Fin 40 → Option VecMiss → Instr)))) ∧ (VectorAt s r k d v w) ∧ (viOp w = op)) ∧
    (∃ (s : State) (r k : Nat) (d : Desc) (v : VecRun), (v.pc + 1 < vxLen d.raw)) ∧
    (∃ (s : State) (r k : Nat) (d : Desc) (v : VecRun), (v.pc + 1 = vxLen d.raw) ∧ (v.iter + 1 < vxIters d.raw)) :=
  ⟨⟨vecS (2 ^ 58), 0, 0, vecD (2 ^ 58), VR, 2 ^ 58, 1, _, _, List.Mem.head _, ⟨by decide +kernel, by decide +kernel, by decide +kernel, by decide +kernel⟩, by decide +kernel⟩,
    ⟨run, 0, 0, vecD 0, VR, by decide +kernel⟩,
    ⟨run, 0, 0, vecD 0, { VR with pc := 1 }, by decide +kernel, by decide +kernel⟩⟩

/-- The hypotheses of VectorFoldsAndMoves can be met. -/
theorem witness_VectorFoldsAndMoves :
    (∃ (s t : State) (r : Fin 4) (k : Fin 40) (d : Desc) (v x : VecRun) (w op : Nat) (f : State → Desc → VecRun → Nat → VecOut) (c : Fin 4 → Fin 40 → Option VecMiss → Instr), ((op, f, c) ∈ ([(0x28, vecReduce sumLeaves 0, .rsum), (0x29, vecReduce (foldMax fmax32) (inf32 true), .rmax), (0x2A, vecReduce (foldMax fmin32) (inf32 false), .rmin), (0x2B, vecArgMax, .ramax), (0x2C, vecReduce (fun l => some (l.filter fun x => !isFin32 x).length) 0, .rnf), (0x2F, vecPostOp, .post), (0x30, vecLd, .ld), (0x31, vecSt, .st), (0x32, vecLdh, .ldh)] : List (Nat × (State → Desc → VecRun → Nat → VecOut) × (Fin 4 → Fin 40 → Option VecMiss → Instr)))) ∧ (VectorAt s r k d v w) ∧ (viOp w = op) ∧ (f s d v w = .done t x)) ∧
    (∃ (s t : State) (r : Fin 4) (k : Fin 40) (d : Desc) (v x : VecRun) (w op : Nat) (f : State → Desc → VecRun → Nat → VecOut) (c : Fin 4 → Fin 40 → Option VecMiss → Instr), ((op, f, c) ∈ ([(0x28, vecReduce sumLeaves 0, .rsum), (0x29, vecReduce (foldMax fmax32) (inf32 true), .rmax), (0x2A, vecReduce (foldMax fmin32) (inf32 false), .rmin), (0x2B, vecArgMax, .ramax), (0x2C, vecReduce (fun l => some (l.filter fun x => !isFin32 x).length) 0, .rnf), (0x2F, vecPostOp, .post), (0x30, vecLd, .ld), (0x31, vecSt, .st), (0x32, vecLdh, .ldh)] : List (Nat × (State → Desc → VecRun → Nat → VecOut) × (Fin 4 → Fin 40 → Option VecMiss → Instr)))) ∧ (VectorAt s r k d v w) ∧ (viOp w = op) ∧ (f s d v w = .wait)) ∧
    (∃ (s t : State) (r : Fin 4) (k : Fin 40) (d : Desc) (v x : VecRun) (w op : Nat) (f : State → Desc → VecRun → Nat → VecOut) (c : Fin 4 → Fin 40 → Option VecMiss → Instr), ((op, f, c) ∈ ([(0x28, vecReduce sumLeaves 0, .rsum), (0x29, vecReduce (foldMax fmax32) (inf32 true), .rmax), (0x2A, vecReduce (foldMax fmin32) (inf32 false), .rmin), (0x2B, vecArgMax, .ramax), (0x2C, vecReduce (fun l => some (l.filter fun x => !isFin32 x).length) 0, .rnf), (0x2F, vecPostOp, .post), (0x30, vecLd, .ld), (0x31, vecSt, .st), (0x32, vecLdh, .ldh)] : List (Nat × (State → Desc → VecRun → Nat → VecOut) × (Fin 4 → Fin 40 → Option VecMiss → Instr)))) ∧ (VectorAt s r k d v w) ∧ (viOp w = op)) ∧
    (∃ (s : State) (d : Desc) (v : VecRun) (w : Nat) (g : List Nat → Option Nat) (y empty : Nat), (viShape w = 0) ∧ (0 < viCount w) ∧ (g ((List.range (viCount w)).map (v.el (viA w))) = some y)) ∧
    (∃ (s : State) (d : Desc) (v : VecRun) (w x i : Nat), (i = viSum w) ∧ (i ∈ (s.slot (dRegion d.raw) (dSlot d.raw)).fresh)) ∧
    (∃ (s : State) (d : Desc) (v : VecRun) (w x i : Nat), (i = viSum w) ∧ (i ∉ (s.slot (dRegion d.raw) (dSlot d.raw)).fresh)) ∧
    (∃ (l : List Nat), (4 < l.length) ∧ (l.length ≤ 4096)) ∧
    (∃ (s : State) (d : Desc) (v : VecRun) (w : Nat), (viFlag w = true) ∧ (v.iter ≠ 0)) ∧
    (∃ (s : State) (d : Desc) (v : VecRun) (w : Nat), (viFmt w = 0xE)) :=
  ⟨⟨vecS (0x28 * 2 ^ 58 + 3 * 2 ^ 32 + 1), _, 0, 0, vecD (0x28 * 2 ^ 58 + 3 * 2 ^ 32 + 1), VR, _, 0x28 * 2 ^ 58 + 3 * 2 ^ 32 + 1, 0x28, _, _, List.Mem.head _, ⟨by decide +kernel, by decide +kernel, by decide +kernel, by decide +kernel⟩, by decide +kernel, vecDone_eq _ VR (by decide +kernel)⟩,
    ⟨vecS (0x28 * 2 ^ 58 + 3 * 2 ^ 32 + 1 + 2 ^ 31), run, 0, 0, vecD (0x28 * 2 ^ 58 + 3 * 2 ^ 32 + 1 + 2 ^ 31), VR, VR, 0x28 * 2 ^ 58 + 3 * 2 ^ 32 + 1 + 2 ^ 31, 0x28, _, _, List.Mem.head _, ⟨by decide +kernel, by decide +kernel, by decide +kernel, by decide +kernel⟩, by decide +kernel, vecWait_eq _ (by decide +kernel)⟩,
    ⟨vecS (0x28 * 2 ^ 58 + 3 * 2 ^ 32 + 1), run, 0, 0, vecD (0x28 * 2 ^ 58 + 3 * 2 ^ 32 + 1), VR, VR, 0x28 * 2 ^ 58 + 3 * 2 ^ 32 + 1, 0x28, _, _, List.Mem.head _, ⟨by decide +kernel, by decide +kernel, by decide +kernel, by decide +kernel⟩, by decide +kernel⟩,
    ⟨run, vecD 0, VR, 1, fun l => some l.length, 1, 0, by decide +kernel, by decide +kernel, by decide +kernel⟩,
    ⟨vecS 0, vecD 0, VR, 3 * 2 ^ 32, 0, 3, by decide +kernel, by decide +kernel⟩,
    ⟨vecS 0, vecD 0, VR, 15 * 2 ^ 32, 0, 15, by decide +kernel, by decide +kernel⟩,
    ⟨List.replicate 5 0, by decide +kernel, by decide +kernel⟩,
    ⟨run, vecD 0, { VR with iter := 1 }, 2 ^ 44, by decide +kernel, by decide +kernel⟩,
    ⟨run, vecD 0, VR, 14 * 2 ^ 45, by decide +kernel⟩⟩

/-- The hypotheses of LayoutCopies can be met. -/
theorem witness_LayoutCopies :
    (∃ (s u w v : State) (o : Origin) (d : Desc) (p : Nat) (l : List (Nat × Nat)) (h : Health), (RunsNow s o isLayout (fun s d => s.dpaRanges (s.originPart o) (kaReads d.raw d.shape)) (fun s d => s.dpaRanges (s.originPart o) (kaWrites d.raw d.shape)) d) ∧ (p = s.originPart o) ∧ (l = s.dpaRanges p (kaReads d.raw d.shape)) ∧ (u = s.reading o l) ∧ (u.behind isLayout d = true)) ∧
    (∃ (s u w v : State) (o : Origin) (d : Desc) (p : Nat) (l : List (Nat × Nat)) (h : Health), (RunsNow s o isLayout (fun s d => s.dpaRanges (s.originPart o) (kaReads d.raw d.shape)) (fun s d => s.dpaRanges (s.originPart o) (kaWrites d.raw d.shape)) d) ∧ (p = s.originPart o) ∧ (l = s.dpaRanges p (kaReads d.raw d.shape)) ∧ (u = s.reading o l) ∧ (u.behind isLayout d = false) ∧ (p = u.originPart o) ∧ (w = u.accAdd (KAL_CYCLES_ACTIVE (dRegion d.raw)) (ceilDiv (max (sideLines (fmtBits (kaSrc d.raw)) (kaSrcStrides d.raw d.shape) (kaValid d.raw d.shape)) (sideLines (fmtBits (kaDst d.raw)) (kaDstStrides d.raw d.shape) (kaWritten d.raw d.shape))) 2)) ∧ (w.kaWrite p d.raw d.shape ⟨w.seedOf p, d.step, kaTensor d.raw⟩ (.desc p d.id) = (v, h))) ∧
    (∃ (s u w v : State) (o : Origin) (d : Desc) (p : Nat) (l : List (Nat × Nat)) (h : Health), ∃ (c : Upset), (RunsNow s o isLayout (fun s d => s.dpaRanges (s.originPart o) (kaReads d.raw d.shape)) (fun s d => s.dpaRanges (s.originPart o) (kaWrites d.raw d.shape)) d) ∧ (p = s.originPart o) ∧ (l = s.dpaRanges p (kaReads d.raw d.shape)) ∧ (u = s.reading o l) ∧ (u.behind isLayout d = false) ∧ (c = .check ∨ c = .parity)) ∧
    (∃ (s : State) (o : Origin) (d : Desc), (kaEmpty d.raw d.shape = true)) ∧
    (∃ (s : State) (o : Origin) (d : Desc), (kaEmpty d.raw d.shape = false) ∧ (64 ≤ (s.extents o).length)) ∧
    (∃ (s : State) (o : Origin) (d : Desc), (kaEmpty d.raw d.shape = false) ∧ ((s.extents o).length < 64) ∧ (∃ e ∈ s.extents o, padClash d.raw d.shape e.1 e.2 = true)) ∧
    (∃ (s : State) (o : Origin) (d : Desc), (kaEmpty d.raw d.shape = false) ∧ ((s.extents o).length < 64) ∧ (∀ e ∈ s.extents o, padClash d.raw d.shape e.1 e.2 = false)) ∧
    (∃ (s t v : State) (o : Origin) (d f : Desc) (c : Code) (w : Cause) (u : Upset), (StartsNow s o isLayout (fun s d => s.dpaRanges (s.originPart o) (kaWrites d.raw d.shape)) d t f) ∧ (f.noop = true) ∧ (f.passed = false) ∧ (startLayout o t f = .fault v c w)) ∧
    (∃ (s t v : State) (o : Origin) (d f : Desc) (c : Code) (w : Cause) (u : Upset), ∃ (e : Desc), (StartsNow s o isLayout (fun s d => s.dpaRanges (s.originPart o) (kaWrites d.raw d.shape)) d t f) ∧ (f.noop = true) ∧ (f.passed = false) ∧ (startLayout o t f = .going v) ∧ ((v.updDesc o f.id fun e => { e with passed := true }).desc? o f.id = some e) ∧ (e.noop = true)) ∧
    (∃ (s : State) (p raw sh : Nat) (j lo x : List Nat), (lo = (kaDims raw).map (shPadLo sh)) ∧ (x = (j.zip lo).map (fun y => y.1 - y.2)) ∧ ((∃ y ∈ j.zip lo, y.1 < y.2) ∨ (∃ v ∈ x.zipIdx, shSrcExtent sh v.2 ≤ v.1))) ∧
    (∃ (s : State) (p raw sh : Nat) (j lo x : List Nat), (lo = (kaDims raw).map (shPadLo sh)) ∧ (x = (j.zip lo).map (fun y => y.1 - y.2)) ∧ (∀ y ∈ j.zip lo, y.2 ≤ y.1) ∧ (∀ v ∈ x.zipIdx, v.1 < shSrcExtent sh v.2)) :=
  ⟨⟨(withD run [{ dsc kaRaw with extra := [kaShape4], order := 1 }]).updRing 1 fun q => { q with inflight := [{ dsc kaRaw with extra := [kaShape4], order := 0 }] }, _, run, run, .ring 0, { dsc kaRaw with extra := [kaShape4], order := 1 }, _, _, ⟨0, 0, 0, 0, 0, 0, 0, false, false⟩, ⟨by decide +kernel, by decide +kernel, by decide +kernel, by decide +kernel, by decide +kernel, by decide +kernel, by decide +kernel, by decide +kernel⟩, rfl, rfl, rfl, by decide +kernel⟩,
    ⟨withD run [{ dsc kaRaw with extra := [kaShape4], order := 1 }], _, _, _, .ring 0, { dsc kaRaw with extra := [kaShape4], order := 1 }, _, _, _, ⟨by decide +kernel, by decide +kernel, by decide +kernel, by decide +kernel, by decide +kernel, by decide +kernel, by decide +kernel, by decide +kernel⟩, rfl, rfl, rfl, by decide +kernel, by decide +kernel, rfl, pair_eq _⟩,
    ⟨withD run [{ dsc kaRaw with extra := [kaShape4], order := 1 }], _, run, run, .ring 0, { dsc kaRaw with extra := [kaShape4], order := 1 }, _, _, ⟨0, 0, 0, 0, 0, 0, 0, false, false⟩, .check, ⟨by decide +kernel, by decide +kernel, by decide +kernel, by decide +kernel, by decide +kernel, by decide +kernel, by decide +kernel, by decide +kernel⟩, rfl, rfl, rfl, by decide +kernel, .inl rfl⟩,
    ⟨run, .ring 0, dsc kaRaw, by decide +kernel⟩,
    ⟨run.updRing 0 fun q => { q with extents := List.replicate 64 (kaRaw, kaShape2) }, .ring 0, { dsc kaRaw with extra := [kaShape4], order := 1 }, by decide +kernel, by decide +kernel⟩,
    ⟨run.updRing 0 fun q => { q with extents := List.replicate 63 (kaRaw, kaShape2) }, .ring 0, { dsc kaRaw with extra := [kaShape4], order := 1 }, by decide +kernel, by decide +kernel, by decide +kernel⟩,
    ⟨run.updRing 0 fun q => { q with extents := List.replicate 63 (kaRaw, kaShape2) }, .ring 0, { dsc kaRaw with extra := [kaShape2], order := 1 }, by decide +kernel, by decide +kernel, by decide +kernel⟩,
    ⟨withD (run.updRing 0 fun q => { q with extents := List.replicate 64 (kaRaw, kaShape2) }) [{ fresh kaRaw with extra := [kaShape4], noop := true }], _, _, .ring 0, { fresh kaRaw with extra := [kaShape4], noop := true }, _, _, _, .none, ⟨by decide +kernel, by decide +kernel, by decide +kernel, by decide +kernel, ⟨_, some_eq _ (by decide +kernel), by decide +kernel, rfl⟩, by decide +kernel, some_eq _ (by decide +kernel)⟩, by decide +kernel, by decide +kernel, fault_eq _ (by decide +kernel)⟩,
    ⟨withD (run.updRing 0 fun q => { q with extents := List.replicate 1 (kaRaw, kaShape4) }) [{ fresh kaRaw with extra := [kaShape4], noop := true }], _, _, .ring 0, { fresh kaRaw with extra := [kaShape4], noop := true }, _, .memUncorr, {}, .none, _, ⟨by decide +kernel, by decide +kernel, by decide +kernel, by decide +kernel, ⟨_, some_eq _ (by decide +kernel), by decide +kernel, rfl⟩, by decide +kernel, some_eq _ (by decide +kernel)⟩, by decide +kernel, by decide +kernel, going_eq _ (by decide +kernel), some_eq _ (by decide +kernel), by decide +kernel⟩,
    ⟨run, 0, kaRaw, kaShape4, [2], _, _, rfl, rfl, .inr (by decide +kernel)⟩,
    ⟨run, 0, kaRaw, kaShape4, [1], _, _, rfl, rfl, by decide +kernel, by decide +kernel⟩⟩

/-- The hypotheses of UpdatesRun can be met. -/
theorem witness_UpdatesRun :
    (∃ (s u : State) (o : Origin) (d : Desc) (op p : Nat) (l : List (Nat × Nat)) (c : Upset) (i : Instr), ((op, i) ∈ [(0, .norm o c), (1, .finalise o c), (2, .apply o c), (3, .stepEnd o c)]) ∧ (c ∈ [.none, .check, .parity, .adder]) ∧ (RunsNow s o (isAbOp op) (fun s d => abInputs s o d) (fun s d => abOutputs s o d) d) ∧ (p = s.originPart o) ∧ (l = abInputs s o d) ∧ (u = s.reading o l) ∧ (u.originPart o = p) ∧ (abOp d.raw = op) ∧ (u.behind isUpdate d = true)) ∧
    (∃ (s u : State) (o : Origin) (d : Desc) (op p : Nat) (l : List (Nat × Nat)) (c : Upset) (i : Instr), ∃ n, ((op, i) ∈ [(0, .norm o c), (1, .finalise o c), (2, .apply o c), (3, .stepEnd o c)]) ∧ (c ∈ [.none, .check, .parity, .adder]) ∧ (RunsNow s o (isAbOp op) (fun s d => abInputs s o d) (fun s d => abOutputs s o d) d) ∧ (p = s.originPart o) ∧ (l = abInputs s o d) ∧ (u = s.reading o l) ∧ (u.originPart o = p) ∧ (abOp d.raw = op) ∧ (u.behind isUpdate d = false) ∧ (u.heldChunk p (abOutputs u o d) = some n)) ∧
    (∃ (s u : State) (o : Origin) (d : Desc) (op p : Nat) (l : List (Nat × Nat)) (c : Upset) (i : Instr), ((op, i) ∈ [(0, .norm o c), (1, .finalise o c), (2, .apply o c), (3, .stepEnd o c)]) ∧ (c ∈ [.none, .check, .parity, .adder]) ∧ (RunsNow s o (isAbOp op) (fun s d => abInputs s o d) (fun s d => abOutputs s o d) d) ∧ (p = s.originPart o) ∧ (l = abInputs s o d) ∧ (u = s.reading o l) ∧ (u.originPart o = p) ∧ (abOp d.raw = op) ∧ (u.behind isUpdate d = false) ∧ (u.heldChunk p (abOutputs u o d) = none) ∧ (abcKind op c = none) ∧ (op = 0)) ∧
    (∃ (s u : State) (o : Origin) (d : Desc) (op p : Nat) (l : List (Nat × Nat)) (c : Upset) (i : Instr), ((op, i) ∈ [(0, .norm o c), (1, .finalise o c), (2, .apply o c), (3, .stepEnd o c)]) ∧ (c ∈ [.none, .check, .parity, .adder]) ∧ (RunsNow s o (isAbOp op) (fun s d => abInputs s o d) (fun s d => abOutputs s o d) d) ∧ (p = s.originPart o) ∧ (l = abInputs s o d) ∧ (u = s.reading o l) ∧ (u.originPart o = p) ∧ (abOp d.raw = op) ∧ (u.behind isUpdate d = false) ∧ (u.heldChunk p (abOutputs u o d) = none) ∧ (abcKind op c = none) ∧ (op = 1)) ∧
    (∃ (s u : State) (o : Origin) (d : Desc) (op p : Nat) (l : List (Nat × Nat)) (c : Upset) (i : Instr), ((op, i) ∈ [(0, .norm o c), (1, .finalise o c), (2, .apply o c), (3, .stepEnd o c)]) ∧ (c ∈ [.none, .check, .parity, .adder]) ∧ (RunsNow s o (isAbOp op) (fun s d => abInputs s o d) (fun s d => abOutputs s o d) d) ∧ (p = s.originPart o) ∧ (l = abInputs s o d) ∧ (u = s.reading o l) ∧ (u.originPart o = p) ∧ (abOp d.raw = op) ∧ (u.behind isUpdate d = false) ∧ (u.heldChunk p (abOutputs u o d) = none) ∧ (abcKind op c = none) ∧ (op = 2) ∧ (d.latched.skip = false)) ∧
    (∃ (s u : State) (o : Origin) (d : Desc) (op p : Nat) (l : List (Nat × Nat)) (c : Upset) (i : Instr), ((op, i) ∈ [(0, .norm o c), (1, .finalise o c), (2, .apply o c), (3, .stepEnd o c)]) ∧ (c ∈ [.none, .check, .parity, .adder]) ∧ (RunsNow s o (isAbOp op) (fun s d => abInputs s o d) (fun s d => abOutputs s o d) d) ∧ (p = s.originPart o) ∧ (l = abInputs s o d) ∧ (u = s.reading o l) ∧ (u.originPart o = p) ∧ (abOp d.raw = op) ∧ (u.behind isUpdate d = false) ∧ (u.heldChunk p (abOutputs u o d) = none) ∧ (abcKind op c = none) ∧ (op = 2) ∧ (d.latched.skip = true)) ∧
    (∃ (s u : State) (o : Origin) (d : Desc) (op p : Nat) (l : List (Nat × Nat)) (c : Upset) (i : Instr), ((op, i) ∈ [(0, .norm o c), (1, .finalise o c), (2, .apply o c), (3, .stepEnd o c)]) ∧ (c ∈ [.none, .check, .parity, .adder]) ∧ (RunsNow s o (isAbOp op) (fun s d => abInputs s o d) (fun s d => abOutputs s o d) d) ∧ (p = s.originPart o) ∧ (l = abInputs s o d) ∧ (u = s.reading o l) ∧ (u.originPart o = p) ∧ (abOp d.raw = op) ∧ (u.behind isUpdate d = false) ∧ (u.heldChunk p (abOutputs u o d) = none) ∧ (abcKind op c = none) ∧ (op = 3)) ∧
    (∃ (s u : State) (o : Origin) (d : Desc) (op p : Nat) (l : List (Nat × Nat)) (c : Upset) (i : Instr), ∃ k, ((op, i) ∈ [(0, .norm o c), (1, .finalise o c), (2, .apply o c), (3, .stepEnd o c)]) ∧ (c ∈ [.none, .check, .parity, .adder]) ∧ (RunsNow s o (isAbOp op) (fun s d => abInputs s o d) (fun s d => abOutputs s o d) d) ∧ (p = s.originPart o) ∧ (l = abInputs s o d) ∧ (u = s.reading o l) ∧ (u.originPart o = p) ∧ (abOp d.raw = op) ∧ (u.behind isUpdate d = false) ∧ (u.heldChunk p (abOutputs u o d) = none) ∧ (abcKind op c = some k)) ∧
    (∃ (s t v : State) (o : Origin) (d f : Desc) (op : Nat) (c : Upset) (i : Instr), ∃ x w, ((op, i) ∈ [(0, .norm o c), (1, .finalise o c), (2, .apply o c), (3, .stepEnd o c)]) ∧ (StartsNow s o (isAbOp op) (fun s d => abOutputs s o d) d t f) ∧ (f.passed = false) ∧ (f.noop = true ∨ t.handoverMeets (abInputs t o f ++ abOutputs t o f) = false) ∧ (startUpdate o t f = .fault v x w)) ∧
    (∃ (s t v : State) (o : Origin) (d f : Desc) (op : Nat) (c : Upset) (i : Instr), ((op, i) ∈ [(0, .norm o c), (1, .finalise o c), (2, .apply o c), (3, .stepEnd o c)]) ∧ (StartsNow s o (isAbOp op) (fun s d => abOutputs s o d) d t f) ∧ (f.passed = false) ∧ (f.noop = true ∨ t.handoverMeets (abInputs t o f ++ abOutputs t o f) = false) ∧ (startUpdate o t f = .wait v)) ∧
    (∃ (s : State) (o : Origin) (d : Desc) (p : Nat) (w : Cause), (p = s.originPart o) ∧ (w = { unit := unitRegion (dRegion d.raw) }) ∧ (abStep d.raw ≠ s.stepOf p ∨ (abOp d.raw ≠ 1 ∧ abStep d.raw ≠ s.fget (ABC_SCHED_TAG (s.lead p))))) ∧
    (∃ (s : State) (o : Origin) (d : Desc) (p : Nat) (w : Cause), (p = s.originPart o) ∧ (w = { unit := unitRegion (dRegion d.raw) }) ∧ (abStep d.raw = s.stepOf p) ∧ (abOp d.raw = 1 ∨ abStep d.raw = s.fget (ABC_SCHED_TAG (s.lead p))) ∧ (abOp d.raw = 3) ∧ (abStep d.raw = 2 ^ 48 - 1)) ∧
    (∃ (s : State) (o : Origin) (d : Desc) (p : Nat) (w : Cause), (p = s.originPart o) ∧ (w = { unit := unitRegion (dRegion d.raw) }) ∧ (abStep d.raw = s.stepOf p) ∧ (abOp d.raw = 1 ∨ abStep d.raw = s.fget (ABC_SCHED_TAG (s.lead p))) ∧ (abOp d.raw ≠ 3 ∨ abStep d.raw ≠ 2 ^ 48 - 1) ∧ ((s.part p).abc.ready = false)) ∧
    (∃ (s : State) (p : Fin 4), (s.running p = true) ∧ ((s.part p).abc.loaded = true)) ∧
    (∃ (s t : State) (p : Fin 4), (s.running p = true) ∧ ((s.part p).abc.loaded = false) ∧ (s.fetchReady [s.tableRange p] = true) ∧ (t = (s.loadGroups p).useFetch [s.tableRange p]) ∧ ((t.part p).abc.loaded = true) ∧ (t.running p = true)) ∧
    (∃ (s : State) (p : Fin 4), (s.running p = true) ∧ ((s.part p).abc.loaded = false) ∧ (s.fetchReady [s.tableRange p] = false) ∧ (((s.askFetch [s.tableRange p] (.fetch p)).part p).abc.loaded = false)) :=
  ⟨⟨(withD abRun [abLater]).updRing 1 fun q => { q with inflight := [dsc (abRaw 0)] }, _, .ring 0, abLater, 0, _, _, .none, .norm (.ring 0) .none, .head _, by decide +kernel, ⟨by decide +kernel, by decide +kernel, by decide +kernel, by decide +kernel, by decide +kernel, by decide +kernel, by decide +kernel, by decide +kernel⟩, rfl, rfl, rfl, by decide +kernel, by decide +kernel, by decide +kernel⟩,
    ⟨withD (abHeld) [dsc (abRaw 2)], _, .ring 0, dsc (abRaw 2), 2, _, _, .none, .apply (.ring 0) .none, 0, .tail _ (.tail _ (.head _)), by decide +kernel, ⟨by decide +kernel, by decide +kernel, by decide +kernel, by decide +kernel, by decide +kernel, by decide +kernel, by decide +kernel, by decide +kernel⟩, rfl, rfl, rfl, by decide +kernel, by decide +kernel, by decide +kernel, by decide +kernel⟩,
    ⟨withD (abRun) [dsc (abRaw 0)], _, .ring 0, dsc (abRaw 0), 0, _, _, .none, .norm (.ring 0) .none, .head _, by decide +kernel, ⟨by decide +kernel, by decide +kernel, by decide +kernel, by decide +kernel, by decide +kernel, by decide +kernel, by decide +kernel, by decide +kernel⟩, rfl, rfl, rfl, by decide +kernel, by decide +kernel, by decide +kernel, by decide +kernel, by decide +kernel, by decide +kernel⟩,
    ⟨withD (abRun) [dsc (abRaw 1)], _, .ring 0, dsc (abRaw 1), 1, _, _, .none, .finalise (.ring 0) .none, .tail _ (.head _), by decide +kernel, ⟨by decide +kernel, by decide +kernel, by decide +kernel, by decide +kernel, by decide +kernel, by decide +kernel, by decide +kernel, by decide +kernel⟩, rfl, rfl, rfl, by decide +kernel, by decide +kernel, by decide +kernel, by decide +kernel, by decide +kernel, by decide +kernel⟩,
    ⟨withD (mapped abRun) [dsc (abRaw 2)], _, .ring 0, dsc (abRaw 2), 2, _, _, .none, .apply (.ring 0) .none, .tail _ (.tail _ (.head _)), by decide +kernel, ⟨by decide +kernel, by decide +kernel, by decide +kernel, by decide +kernel, by decide +kernel, by decide +kernel, by decide +kernel, by decide +kernel⟩, rfl, rfl, rfl, by decide +kernel, by decide +kernel, by decide +kernel, by decide +kernel, by decide +kernel, by decide +kernel, by decide +kernel⟩,
    ⟨withD (mapped abRun) [abSkip], _, .ring 0, abSkip, 2, _, _, .none, .apply (.ring 0) .none, .tail _ (.tail _ (.head _)), by decide +kernel, ⟨by decide +kernel, by decide +kernel, by decide +kernel, by decide +kernel, by decide +kernel, by decide +kernel, by decide +kernel, by decide +kernel⟩, rfl, rfl, rfl, by decide +kernel, by decide +kernel, by decide +kernel, by decide +kernel, by decide +kernel, by decide +kernel, by decide +kernel⟩,
    ⟨withD (abRun) [dsc (abRaw 3)], _, .ring 0, dsc (abRaw 3), 3, _, _, .none, .stepEnd (.ring 0) .none, .tail _ (.tail _ (.tail _ (.head _))), by decide +kernel, ⟨by decide +kernel, by decide +kernel, by decide +kernel, by decide +kernel, by decide +kernel, by decide +kernel, by decide +kernel, by decide +kernel⟩, rfl, rfl, rfl, by decide +kernel, by decide +kernel, by decide +kernel, by decide +kernel, by decide +kernel, by decide +kernel⟩,
    ⟨withD (abRun) [dsc (abRaw 0)], _, .ring 0, dsc (abRaw 0), 0, _, _, .check, .norm (.ring 0) .check, 0, .head _, by decide +kernel, ⟨by decide +kernel, by decide +kernel, by decide +kernel, by decide +kernel, by decide +kernel, by decide +kernel, by decide +kernel, by decide +kernel⟩, rfl, rfl, rfl, by decide +kernel, by decide +kernel, by decide +kernel, by decide +kernel, by decide +kernel⟩,
    ⟨withD (abRun.fset (ABC_STEP_NUMBER 0) 1) [abFresh 0], _, _, .ring 0, abFresh 0, _, 0, .none, .norm (.ring 0) .none, _, _, .head _, ⟨by decide +kernel, by decide +kernel, by decide +kernel, by decide +kernel, ⟨_, some_eq _ (by decide +kernel), by decide +kernel, rfl⟩, by decide +kernel, some_eq _ (by decide +kernel)⟩, by decide +kernel, .inl (by decide +kernel), fault_eq _ (by decide +kernel)⟩,
    ⟨withD ((run.updPart 0 fun q => { q with abc := { q.abc with loaded := true, ready := false } })) [abFresh 0], _, _, .ring 0, abFresh 0, _, 0, .none, .norm (.ring 0) .none, .head _, ⟨by decide +kernel, by decide +kernel, by decide +kernel, by decide +kernel, ⟨_, some_eq _ (by decide +kernel), by decide +kernel, rfl⟩, by decide +kernel, some_eq _ (by decide +kernel)⟩, by decide +kernel, .inl (by decide +kernel), wait_eq _ (by decide +kernel)⟩,
    ⟨abRun.fset (ABC_STEP_NUMBER 0) 1, .ring 0, dsc (abRaw 0), _, _, rfl, rfl, .inl (by decide +kernel)⟩,
    ⟨abRun.fsets [(ABC_STEP_NUMBER 0, 2 ^ 48 - 1), (ABC_SCHED_TAG 0, 2 ^ 48 - 1)], .ring 0, dsc abWrap, _, _, rfl, rfl, by decide +kernel, .inr (by decide +kernel), by decide +kernel, by decide +kernel⟩,
    ⟨(run.updPart 0 fun q => { q with abc := { q.abc with loaded := true, ready := false } }), .ring 0, dsc (abRaw 0), _, _, rfl, rfl, by decide +kernel, .inr (by decide +kernel), .inl (by decide +kernel), by decide +kernel⟩,
    ⟨abRun, 0, by decide +kernel, by decide +kernel⟩,
    ⟨run, _, 0, by decide +kernel, by decide +kernel, by decide +kernel, rfl, by decide +kernel, by decide +kernel⟩,
    ⟨(run.fset (ABC_TABLE_BASE 0) (2 ^ 30)).fset (ABC_TABLE_COUNT 0) 1, 0, by decide +kernel, by decide +kernel, by decide +kernel, by decide +kernel⟩⟩

/-- The hypotheses of LossScale can be met. -/
theorem witness_LossScale :
    (∃ (s : State) (r : Nat) (skip : Bool) (e e2 : Int) (c2 : Nat), (e = sext 8 (s.fget (ABC_LOSS_EXP r))) ∧ (s.nextLoss r skip = (c2, e2)) ∧ (skip = true)) ∧
    (∃ (s : State) (r : Nat) (skip : Bool) (e e2 : Int) (c2 : Nat), (e = sext 8 (s.fget (ABC_LOSS_EXP r))) ∧ (s.nextLoss r skip = (c2, e2)) ∧ (sext 8 (s.fget (ABC_LOSS_MIN_EXP r)) ≤ e)) ∧
    (∃ (s : State) (r : Nat) (skip : Bool) (e e2 : Int) (c2 : Nat), (e = sext 8 (s.fget (ABC_LOSS_EXP r))) ∧ (s.nextLoss r skip = (c2, e2)) ∧ (e ≤ sext 8 (s.fget (ABC_LOSS_MAX_EXP r)))) ∧
    (∃ (s : State) (r : Nat) (skip : Bool) (e e2 : Int) (c2 : Nat), (e = sext 8 (s.fget (ABC_LOSS_EXP r))) ∧ (s.nextLoss r skip = (c2, e2)) ∧ (skip = false) ∧ (s.fget (ABC_LOSS_GROWTH_INT r) = 0)) ∧
    (∃ (s : State) (r : Nat) (skip : Bool) (e e2 : Int) (c2 : Nat), (e = sext 8 (s.fget (ABC_LOSS_EXP r))) ∧ (s.nextLoss r skip = (c2, e2)) ∧ (skip = false) ∧ (s.fget (ABC_LOSS_GROWTH_INT r) ≠ 0) ∧ (s.fget (ABC_LOSS_GROWTH_INT r) ≤ min (s.fget (ABC_LOSS_CLEAN r) + 1) 0xFFFF)) :=
  ⟨⟨State.reset, 0, true, _, _, _, rfl, pair_eq _, by decide +kernel⟩,
    ⟨(State.reset.fset (ABC_LOSS_MIN_EXP 0) 128), 0, true, _, _, _, rfl, pair_eq _, by decide +kernel⟩,
    ⟨(State.reset.fset (ABC_LOSS_MAX_EXP 0) 127), 0, true, _, _, _, rfl, pair_eq _, by decide +kernel⟩,
    ⟨(State.reset.fset (ABC_LOSS_GROWTH_INT 0) 0), 0, false, _, _, _, rfl, pair_eq _, by decide +kernel, by decide +kernel⟩,
    ⟨(State.reset.fset (ABC_LOSS_GROWTH_INT 0) 1), 0, false, _, _, _, rfl, pair_eq _, by decide +kernel, by decide +kernel, by decide +kernel⟩⟩

/-- The hypotheses of CollectivesStart can be met. -/
theorem witness_CollectivesStart :
    (∃ (s u w : State) (o : Origin) (phys : ReadUpset) (d : Desc) (op p i n size : Nat) (l : List (Nat × Nat)) (bytes : List Byte) (elems : List Nat) (x : Coll) (c : Origin → ReadUpset → Instr), ((op, c) ∈ ([(0, .allReduce), (1, .reduceScatter), (2, .allGather), (3, .broadcast), (4, .allToAll)] : List (Nat × (Origin → ReadUpset → Instr)))) ∧ (RunsNow (s.strike phys) o (isColl op) (collInputs o) (collOuts o) d) ∧ (coOp d.raw = op) ∧ (l = collInputs o (s.strike phys) d) ∧ (u = (s.strike phys).reading o l) ∧ (u.engineBusy o false d = true)) ∧
    (∃ (s u w : State) (o : Origin) (phys : ReadUpset) (d : Desc) (op p i n size : Nat) (l : List (Nat × Nat)) (bytes : List Byte) (elems : List Nat) (x : Coll) (c : Origin → ReadUpset → Instr), ((op, c) ∈ ([(0, .allReduce), (1, .reduceScatter), (2, .allGather), (3, .broadcast), (4, .allToAll)] : List (Nat × (Origin → ReadUpset → Instr)))) ∧ (RunsNow (s.strike phys) o (isColl op) (collInputs o) (collOuts o) d) ∧ (coOp d.raw = op) ∧ (l = collInputs o (s.strike phys) d) ∧ (u = (s.strike phys).reading o l) ∧ (u.engineBusy o false d = false) ∧ (p = u.originPart o) ∧ (n = geMembers (u.entryOf p d.raw)) ∧ (i = u.myRank (u.entryOf p d.raw) p) ∧ (size = coCount d.raw * coSize d.raw) ∧ (bytes = (if coReads d.raw i then u.vload p (coSrc d.raw) (coSrcLen d.raw n) else [])) ∧ (elems = (List.range (bytes.length / coSize d.raw)).map (fun j => leNat ((bytes.drop (j * coSize d.raw)).take (coSize d.raw)))) ∧ (w = (if op = 2 then u.vstore p (coDst d.raw + i * coCount d.raw * coSize d.raw) bytes (.desc p d.id) else if op = 3 ∧ coRoot d.raw = i then u.vstore p (coDst d.raw) bytes (.desc p d.id) else u)) ∧ (x = { w.openColl p d (w.workOf o d) (if coReduces d.raw then elems.map (coWiden (coType d.raw)) else []) with slots := if op = 4 then (List.range n).map fun t => (Coll.block (w.openColl p d (w.workOf o d) (if coReduces d.raw then elems.map (coWiden (coType d.raw)) else [])) i t, (bytes.drop (t * size)).take size) else [] })) ∧
    (∃ (s u : State) (o : Origin) (phys : ReadUpset) (d : Desc) (op r : Nat) (l : List (Nat × Nat)) (c : Instr), ((op, c) ∈ [(5, .barrier o), (6, .tincan o phys), (7, .fpExchange o phys)]) ∧ (op = 5 → phys = []) ∧ (RunsNow (s.strike phys) o (isColl op) (collInputs o) (collOuts o) d) ∧ (l = collInputs o (s.strike phys) d) ∧ (u = (s.strike phys).reading o l) ∧ (r = u.vloadNat (u.originPart o) (coSrcAt d.raw) 64) ∧ (u.engineBusy o true d = true)) ∧
    (∃ (s u : State) (o : Origin) (phys : ReadUpset) (d : Desc) (op r : Nat) (l : List (Nat × Nat)) (c : Instr), ((op, c) ∈ [(5, .barrier o), (6, .tincan o phys), (7, .fpExchange o phys)]) ∧ (op = 5 → phys = []) ∧ (RunsNow (s.strike phys) o (isColl op) (collInputs o) (collOuts o) d) ∧ (l = collInputs o (s.strike phys) d) ∧ (u = (s.strike phys).reading o l) ∧ (r = u.vloadNat (u.originPart o) (coSrcAt d.raw) 64) ∧ (u.engineBusy o true d = false) ∧ (op = 5)) ∧
    (∃ (s u : State) (o : Origin) (phys : ReadUpset) (d : Desc) (op r : Nat) (l : List (Nat × Nat)) (c : Instr), ((op, c) ∈ [(5, .barrier o), (6, .tincan o phys), (7, .fpExchange o phys)]) ∧ (op = 5 → phys = []) ∧ (RunsNow (s.strike phys) o (isColl op) (collInputs o) (collOuts o) d) ∧ (l = collInputs o (s.strike phys) d) ∧ (u = (s.strike phys).reading o l) ∧ (r = u.vloadNat (u.originPart o) (coSrcAt d.raw) 64) ∧ (u.engineBusy o true d = false) ∧ (op = 6)) ∧
    (∃ (s u : State) (o : Origin) (phys : ReadUpset) (d : Desc) (op r : Nat) (l : List (Nat × Nat)) (c : Instr), ∃ (key : List Byte), ((op, c) ∈ [(5, .barrier o), (6, .tincan o phys), (7, .fpExchange o phys)]) ∧ (op = 5 → phys = []) ∧ (RunsNow (s.strike phys) o (isColl op) (collInputs o) (collOuts o) d) ∧ (l = collInputs o (s.strike phys) d) ∧ (u = (s.strike phys).reading o l) ∧ (r = u.vloadNat (u.originPart o) (coSrcAt d.raw) 64) ∧ (u.engineBusy o true d = false) ∧ (op = 7) ∧ (key = natLe 16 r ++ natLe 8 (bits r 192 64) ++ natLe 6 (bits r 128 48) ++ natLe 2 0) ∧ (bit r 352 = true) ∧ (bit r 353 = false)) ∧
    (∃ (s u : State) (o : Origin) (phys : ReadUpset) (d : Desc) (op r : Nat) (l : List (Nat × Nat)) (c : Instr), ∃ (v : State), ∃ (z : State), ((op, c) ∈ [(5, .barrier o), (6, .tincan o phys), (7, .fpExchange o phys)]) ∧ (op = 5 → phys = []) ∧ (RunsNow (s.strike phys) o (isColl op) (collInputs o) (collOuts o) d) ∧ (l = collInputs o (s.strike phys) d) ∧ (u = (s.strike phys).reading o l) ∧ (r = u.vloadNat (u.originPart o) (coSrcAt d.raw) 64) ∧ (u.engineBusy o true d = false) ∧ (op = 7) ∧ (bit r 352 = false ∨ bit r 353 = true) ∧ (v = (u.logFpx (u.originPart o) true false 0 0 0xFFFF)) ∧ (z = v.contribute (u.originPart o) (v.openTree o d (natLe 64 (2 ^ 512 - 1))))) ∧
    (∃ (s t : State) (o : Origin) (d : Desc) (p g e n c : Nat), (p = s.originPart o) ∧ (g = coGroup d.raw) ∧ (e = s.entryOf p d.raw) ∧ (n = mgetD (s.part p).coll.seqs g 0) ∧ (c = s.collCheck p d.raw e) ∧ (t = ((s.updDesc o d.id fun x => { x with work := [n, c] }).updPart p fun q => { q with coll := { q.coll with seqs := mset q.coll.seqs g ((n + 1) % 2 ^ 32) } })) ∧ (∀ f ∈ (t.part p).coll.early, cfGid f = geGid e → cfSeq f = n → cfCheck f = c)) ∧
    (∃ (s t : State) (o : Origin) (d : Desc) (p g e n c : Nat), ∃ f, (p = s.originPart o) ∧ (g = coGroup d.raw) ∧ (e = s.entryOf p d.raw) ∧ (n = mgetD (s.part p).coll.seqs g 0) ∧ (c = s.collCheck p d.raw e) ∧ (t = ((s.updDesc o d.id fun x => { x with work := [n, c] }).updPart p fun q => { q with coll := { q.coll with seqs := mset q.coll.seqs g ((n + 1) % 2 ^ 32) } })) ∧ ((t.part p).coll.early.find? (fun f => cfGid f == geGid e && cfSeq f == n && cfCheck f != c) = some f)) :=
  ⟨⟨runD (collS coll0 false) (coRaw 0), _, run, .ring 0, [], dsc (coRaw 0), 0, 0, 0, 0, 0, _, [], [], coll0, _, List.Mem.head _, ⟨by decide +kernel, by decide +kernel, by decide +kernel, by decide +kernel, by decide +kernel, by decide +kernel, by decide +kernel, by decide +kernel⟩, by decide +kernel, rfl, rfl, by decide +kernel⟩,
    ⟨runD (withG net) (coRaw 0), _, _, .ring 0, [], dsc (coRaw 0), 0, _, _, _, _, _, _, _, _, _, List.Mem.head _, ⟨by decide +kernel, by decide +kernel, by decide +kernel, by decide +kernel, by decide +kernel, by decide +kernel, by decide +kernel, by decide +kernel⟩, by decide +kernel, rfl, rfl, by decide +kernel, rfl, rfl, rfl, rfl, rfl, rfl, rfl, rfl⟩,
    ⟨runD (collS coll0 true) (coRaw 5), _, .ring 0, [], dsc (coRaw 5), 5, _, _, _, .head _, by decide +kernel, ⟨by decide +kernel, by decide +kernel, by decide +kernel, by decide +kernel, by decide +kernel, by decide +kernel, by decide +kernel, by decide +kernel⟩, rfl, rfl, rfl, by decide +kernel⟩,
    ⟨runD (withG net) (coRaw 5), _, .ring 0, [], dsc (coRaw 5), 5, _, _, _, .head _, by decide +kernel, ⟨by decide +kernel, by decide +kernel, by decide +kernel, by decide +kernel, by decide +kernel, by decide +kernel, by decide +kernel, by decide +kernel⟩, rfl, rfl, rfl, by decide +kernel, by decide +kernel⟩,
    ⟨runD (withG net) (coRaw 6), _, .ring 0, [], dsc (coRaw 6), 6, _, _, _, .tail _ (.head _), by decide +kernel, ⟨by decide +kernel, by decide +kernel, by decide +kernel, by decide +kernel, by decide +kernel, by decide +kernel, by decide +kernel, by decide +kernel⟩, rfl, rfl, rfl, by decide +kernel, by decide +kernel⟩,
    ⟨memNat (mapped (runD (withG net) (coRaw 7))) (2 ^ 30 + 64) 64 (2 ^ 352), _, .ring 0, [], dsc (coRaw 7), 7, _, _, _, _, .tail _ (.tail _ (.head _)), by decide +kernel, ⟨by decide +kernel, by decide +kernel, by decide +kernel, by decide +kernel, by decide +kernel, by decide +kernel, by decide +kernel, by decide +kernel⟩, rfl, rfl, rfl, by decide +kernel, by decide +kernel, rfl, by decide +kernel, by decide +kernel⟩,
    ⟨memNat (mapped (runD (withG net) (coRaw 7))) (2 ^ 30 + 64) 64 (0), _, .ring 0, [], dsc (coRaw 7), 7, _, _, _, _, _, .tail _ (.tail _ (.head _)), by decide +kernel, ⟨by decide +kernel, by decide +kernel, by decide +kernel, by decide +kernel, by decide +kernel, by decide +kernel, by decide +kernel, by decide +kernel⟩, rfl, rfl, rfl, by decide +kernel, by decide +kernel, by decide +kernel, rfl, rfl⟩,
    ⟨withG run, _, .ring 0, dsc (coRaw 0), _, _, _, _, _, rfl, rfl, rfl, rfl, rfl, rfl, by decide +kernel⟩,
    ⟨(withG run).updPart 0 fun q => { q with coll := { q.coll with early := [cflit 4 0 0] } }, _, .ring 0, dsc (coRaw 0), _, _, _, _, _, _, rfl, rfl, rfl, rfl, rfl, rfl, some_eq _ (by decide +kernel)⟩⟩

/-- The hypotheses of CollectiveFlits can be met. -/
theorem witness_CollectiveFlits :
    (∃ (s t u : State) (p : Fin 18) (f : Flit) (ns q : Nat) (tc : Bool) (x : Coll), (FlitLands s t p f) ∧ (q = f.dstPart) ∧ (CollTakes t q f tc x) ∧ (u = t.countWait q f ns) ∧ (f.typ = 4) ∧ (f.vc = 0) ∧ (x.inTree = false)) ∧
    (∃ (s t u : State) (p : Fin 18) (f : Flit) (ns q : Nat) (tc : Bool) (x : Coll), ∃ r, (FlitLands s t p f) ∧ (q = f.dstPart) ∧ (CollTakes t q f tc x) ∧ (u = t.countWait q f ns) ∧ (f.typ = 3) ∧ (f.vc = 1) ∧ (x.inTree = true) ∧ (t.senderRank x.entry f.srcNode f.srcPart = some r)) ∧
    (∃ (s t u : State) (p : Fin 18) (f : Flit) (ns q : Nat) (tc : Bool) (x : Coll), ∃ (v : State), (FlitLands s t p f) ∧ (q = f.dstPart) ∧ (CollTakes t q f tc x) ∧ (u = t.countWait q f ns) ∧ (∀ r k base len, v.peerOf x f = some r → v.dataPlace q x r f = some (k, base, len) → f.addr < base ∨ base + len < f.addr + (cfData f).length)) ∧
    (∃ (s t u : State) (p : Fin 18) (f : Flit) (ns q : Nat) (tc : Bool) (x : Coll), ∃ (v : State) (r k base len : Nat), (FlitLands s t p f) ∧ (q = f.dstPart) ∧ (CollTakes t q f tc x) ∧ (u = t.countWait q f ns) ∧ (v.peerOf x f = some r) ∧ (v.dataPlace q x r f = some (k, base, len)) ∧ (base ≤ f.addr) ∧ (f.addr + (cfData f).length ≤ base + len)) ∧
    (∃ (s t u : State) (p : Fin 18) (f : Flit) (ns q : Nat) (tc : Bool) (x : Coll), (FlitLands s t p f) ∧ (q = f.dstPart) ∧ (CollTakes t q f tc x) ∧ (u = t.countWait q f ns) ∧ (cfCause f = 0 ∨ ns = 0)) ∧
    (∃ (s t u : State) (p : Fin 18) (f : Flit) (ns q : Nat) (tc : Bool) (x : Coll), ∃ i, (FlitLands s t p f) ∧ (q = f.dstPart) ∧ (CollTakes t q f tc x) ∧ (u = t.countWait q f ns) ∧ (i < 7) ∧ (ns ≠ 0) ∧ (cfCause f = i + 1)) :=
  ⟨⟨collS coll0 false, _, _, 0, cflit 4 0 0, 0, _, false, coll0, ⟨by decide +kernel, by decide +kernel, by decide +kernel, by decide +kernel, by decide +kernel, rfl, by decide +kernel⟩, rfl, ⟨by decide +kernel, ⟨0, by decide +kernel, by decide +kernel⟩, by rw [if_neg (by decide)]; decide +kernel, by decide +kernel⟩, rfl, by decide +kernel, by decide +kernel, by decide +kernel⟩,
    ⟨collS { coll0 with raw := coRaw 5, entry := grp + 2 ^ 36 } true, _, _, 0, cflit 3 1 0, 0, _, true, { coll0 with raw := coRaw 5, entry := grp + 2 ^ 36 }, _, ⟨by decide +kernel, by decide +kernel, by decide +kernel, by decide +kernel, by decide +kernel, rfl, by decide +kernel⟩, rfl, ⟨by decide +kernel, ⟨0, by decide +kernel, by decide +kernel⟩, by rw [if_pos rfl]; exact ⟨by decide +kernel, fun y h => nomatch (show none = some y from h)⟩, by decide +kernel⟩, rfl, by decide +kernel, by decide +kernel, by decide +kernel, some_eq _ (by decide +kernel)⟩,
    ⟨collS coll0 false, _, _, 0, { cflit 3 0 0 with srcPart := 3 }, 0, _, false, coll0, collS coll0 false, ⟨by decide +kernel, by decide +kernel, by decide +kernel, by decide +kernel, by decide +kernel, rfl, by decide +kernel⟩, rfl, ⟨by decide +kernel, ⟨0, by decide +kernel, by decide +kernel⟩, by rw [if_neg (by decide)]; decide +kernel, by decide +kernel⟩, rfl, fun _ _ _ _ h _ => (none_ne (by decide +kernel) h).elim⟩,
    ⟨collS collB false, _, _, 0, cflit 3 0 0, 0, _, false, collB, collS collB false, 1, 1, 0, 8, ⟨by decide +kernel, by decide +kernel, by decide +kernel, by decide +kernel, by decide +kernel, rfl, by decide +kernel⟩, rfl, ⟨by decide +kernel, ⟨0, by decide +kernel, by decide +kernel⟩, by rw [if_neg (by decide)]; decide +kernel, by decide +kernel⟩, rfl, by decide +kernel, by decide +kernel, by decide +kernel, by decide +kernel⟩,
    ⟨collS coll0 false, _, _, 0, cflit 4 0 0, 0, _, false, coll0, ⟨by decide +kernel, by decide +kernel, by decide +kernel, by decide +kernel, by decide +kernel, rfl, by decide +kernel⟩, rfl, ⟨by decide +kernel, ⟨0, by decide +kernel, by decide +kernel⟩, by rw [if_neg (by decide)]; decide +kernel, by decide +kernel⟩, rfl, by decide +kernel⟩,
    ⟨collS coll0 false, _, _, 0, cflitC 5, 7, _, false, coll0, 4, ⟨by decide +kernel, by decide +kernel, by decide +kernel, by decide +kernel, by decide +kernel, rfl, by decide +kernel⟩, rfl, ⟨by decide +kernel, ⟨0, by decide +kernel, by decide +kernel⟩, by rw [if_neg (by decide)]; decide +kernel, by decide +kernel⟩, rfl, by decide +kernel, by decide +kernel, by decide +kernel⟩⟩

/-- The hypotheses of FlitsLand can be met. -/
theorem witness_FlitsLand :
    (∃ (s t : State) (p : Fin 18) (f : Flit), (FlitLands s t p f) ∧ (f.typ = 1) ∧ (f.vc = 0)) ∧
    (∃ (s t : State) (p : Fin 18) (f : Flit), (FlitLands s t p f) ∧ (f.typ = 2) ∧ (f.vc = 2)) ∧
    (∃ (s t : State) (p : Fin 18) (f : Flit), (FlitLands s t p f) ∧ (f.typ = 5) ∧ (f.vc = 2)) ∧
    (∃ (s : State) (p : Fin 18) (f : Flit), (f.typ = 6) ∧ (s.portUp p = true) ∧ (flitConforms f = true) ∧ (f.ecc = .good)) ∧
    (∃ (s : State) (p : Fin 18) (f : Flit) (i : Instr), (i ∈ [.dataFlit p f, .dropFlit p f, .replyFlit p f]) ∧ (s.portUp p = true) ∧ (f.typ = 0 ∨ 7 < f.typ ∨ f.vc = 3 ∨ 224 < f.payload.length ∨ f.rsv ≠ 0)) ∧
    (∃ (s : State) (p : Fin 18) (f : Flit) (i : Instr), (i ∈ [.dataFlit p f, .dropFlit p f, .replyFlit p f]) ∧ (s.portUp p = true) ∧ (1 ≤ f.typ) ∧ (f.typ ≤ 7) ∧ (f.vc ≠ 3) ∧ (f.payload.length ≤ 224) ∧ (f.rsv = 0) ∧ (f.seq ≠ (s.port p).seqRx) ∧ ((s.port p).nakSent = false) ∧ ((f.seq + 4096 - (s.port p).seqRx) % 4096 < 2048)) ∧
    (∃ (s : State) (p : Fin 18) (f : Flit) (i : Instr), (i ∈ [.dataFlit p f, .dropFlit p f, .replyFlit p f]) ∧ (s.portUp p = true) ∧ (1 ≤ f.typ) ∧ (f.typ ≤ 7) ∧ (f.vc ≠ 3) ∧ (f.payload.length ≤ 224) ∧ (f.rsv = 0) ∧ (f.seq ≠ (s.port p).seqRx) ∧ ((s.port p).nakSent = true ∨ 2048 ≤ (f.seq + 4096 - (s.port p).seqRx) % 4096)) ∧
    (∃ (s : State) (p : Fin 18) (f : Flit) (i : Instr), (i ∈ [.dataFlit p f, .dropFlit p f, .replyFlit p f]) ∧ (s.portUp p = true) ∧ (1 ≤ f.typ) ∧ (f.typ ≤ 7) ∧ (f.vc ≠ 3) ∧ (f.payload.length ≤ 224) ∧ (f.rsv = 0) ∧ (f.seq = (s.port p).seqRx) ∧ (f.ecc = .bad)) ∧
    (∃ (s : State) (q : Nat) (f : Flit), (s.running q = true) ∧ ((s.part q).inbound ≠ [])) ∧
    (∃ (s : State) (q : Nat) (f : Flit), ∃ (t : State) (x : Fetched (List (Nat × Nat))), ∃ rs, (s.running q = true) ∧ ((s.part q).inbound = []) ∧ (s.streamsFull q f.srcNode f.srcPart f.epoch = false) ∧ (s.xlateRead q f.addr f.payload.length true (s.damage.length + 1) = (t, x)) ∧ (x = .ok rs)) ∧
    (∃ (s : State) (q : Nat) (f : Flit), ∃ (t : State) (x : Fetched (List (Nat × Nat))), ∃ l, (s.running q = true) ∧ ((s.part q).inbound = []) ∧ (s.streamsFull q f.srcNode f.srcPart f.epoch = false) ∧ (s.xlateRead q f.addr f.payload.length true (s.damage.length + 1) = (t, x)) ∧ (x = .error (.need l))) ∧
    (∃ (s : State) (q : Nat) (f : Flit), ∃ (t : State) (x : Fetched (List (Nat × Nat))), ∃ c, (s.running q = true) ∧ ((s.part q).inbound = []) ∧ (s.streamsFull q f.srcNode f.srcPart f.epoch = false) ∧ (s.xlateRead q f.addr f.payload.length true (s.damage.length + 1) = (t, x)) ∧ (x = .error (.bad c))) ∧
    (∃ (s : State) (q : Nat) (f : Flit), ∃ (t : State) (x : Fetched (List (Nat × Nat))), ∃ a, (s.running q = true) ∧ ((s.part q).inbound = []) ∧ (s.streamsFull q f.srcNode f.srcPart f.epoch = false) ∧ (s.xlateRead q f.addr f.payload.length true (s.damage.length + 1) = (t, x)) ∧ (x = .error (.sector a))) ∧
    (∃ (s : State) (q : Nat) (f : Flit), ∃ (t : State), (s.running q = true) ∧ (s.streamsFull q f.srcNode f.srcPart f.epoch = true) ∧ (t = (s.reply f 3).raise q .dropHoldFull { unit := unitHub, log := f.srcNode + f.srcPart * 65536 + f.epoch * 2 ^ 32 }) ∧ ((s.part q).inbound = [])) ∧
    (∃ (s : State) (q : Nat) (f : Flit), (s.running q = false)) ∧
    (∃ (s : State) (q node part epoch : Nat) (t : Stream) (h : HeldDrop) (l : List HeldDrop), ((s.part q).streams.find? (·.is node part epoch) = some t) ∧ (t.held = h :: l) ∧ (t.landed < h.upTo)) ∧
    (∃ (s t : State) (q : Fin 4) (node part epoch : Nat) (x : (Nat × Nat × Nat) × Dropper), ∃ o id, ((s.part q).sentDrops.find? (fun x => x.1 == (node, part, epoch)) = some x) ∧ (t = s.updPart q (fun r => { r with sentDrops := dropFirst (fun x => x.1 == (node, part, epoch)) r.sentDrops })) ∧ (x.2 = .desc o id)) ∧
    (∃ (s t : State) (q : Fin 4) (node part epoch : Nat) (x : (Nat × Nat × Nat) × Dropper), ((s.part q).sentDrops.find? (fun x => x.1 == (node, part, epoch)) = some x) ∧ (t = s.updPart q (fun r => { r with sentDrops := dropFirst (fun x => x.1 == (node, part, epoch)) r.sentDrops })) ∧ (x.2 = .snap)) ∧
    (∃ (s t : State) (q : Fin 4) (node part epoch : Nat) (x : (Nat × Nat × Nat) × Dropper), ((s.part q).sentDrops.find? (fun x => x.1 == (node, part, epoch)) = some x) ∧ (t = s.updPart q (fun r => { r with sentDrops := dropFirst (fun x => x.1 == (node, part, epoch)) r.sentDrops })) ∧ (x.2 = .core)) :=
  ⟨⟨net, _, 0, flit 1 0 [0], ⟨by decide +kernel, by decide +kernel, by decide +kernel, by decide +kernel, by decide +kernel, rfl, by decide +kernel⟩, by decide +kernel, by decide +kernel⟩,
    ⟨net, _, 0, flit 2 2 (List.replicate 24 0), ⟨by decide +kernel, by decide +kernel, by decide +kernel, by decide +kernel, by decide +kernel, rfl, by decide +kernel⟩, by decide +kernel, by decide +kernel⟩,
    ⟨net, _, 0, flit 5 2 [], ⟨by decide +kernel, by decide +kernel, by decide +kernel, by decide +kernel, by decide +kernel, rfl, by decide +kernel⟩, by decide +kernel, by decide +kernel⟩,
    ⟨net, 0, flit 6 0 [], by decide +kernel, by decide +kernel, by decide +kernel, by decide +kernel⟩,
    ⟨net, 0, flit 1 0 (List.replicate 225 0), .dataFlit 0 (flit 1 0 (List.replicate 225 0)), by decide +kernel, by decide +kernel, by decide +kernel⟩,
    ⟨net, 0, { flit 1 0 [0] with seq := 5 }, .dataFlit 0 ({ flit 1 0 [0] with seq := 5 }), by decide +kernel, by decide +kernel, by decide +kernel, by decide +kernel, by decide +kernel, by decide +kernel, by decide +kernel, by decide +kernel, by decide +kernel, by decide +kernel⟩,
    ⟨net, 0, { flit 1 0 [0] with seq := 4095 }, .dataFlit 0 ({ flit 1 0 [0] with seq := 4095 }), by decide +kernel, by decide +kernel, by decide +kernel, by decide +kernel, by decide +kernel, by decide +kernel, by decide +kernel, by decide +kernel, by decide +kernel⟩,
    ⟨net, 0, { flit 1 0 [0] with ecc := .bad }, .dataFlit 0 ({ flit 1 0 [0] with ecc := .bad }), by decide +kernel, by decide +kernel, by decide +kernel, by decide +kernel, by decide +kernel, by decide +kernel, by decide +kernel, by decide +kernel, by decide +kernel⟩,
    ⟨net.updPart 0 fun q => { q with inbound := [flit 1 0 [0]] }, 0, flit 1 0 [0], by decide +kernel, by decide +kernel⟩,
    ⟨mapped net, 0, flit 1 0 (List.replicate 224 0), _, _, _, by decide +kernel, by decide +kernel, by decide +kernel, pair_eq _, ok1_eq _ (by decide +kernel)⟩,
    ⟨farTable, 0, flit 1 0 (List.replicate 224 0), _, _, 0, by decide +kernel, by decide +kernel, by decide +kernel, pair_eq _, by decide +kernel⟩,
    ⟨net, 0, flit 1 0 (List.replicate 224 0), _, _, .xlateFault, by decide +kernel, by decide +kernel, by decide +kernel, pair_eq _, by decide +kernel⟩,
    ⟨hurtTable, 0, flit 1 0 (List.replicate 224 0), _, _, 4096, by decide +kernel, by decide +kernel, by decide +kernel, pair_eq _, by decide +kernel⟩,
    ⟨fullStreams, 0, flit 1 0 [0], _, by decide +kernel, by decide +kernel, rfl, by decide +kernel⟩,
    ⟨State.reset, 0, flit 1 0 [0], by decide +kernel⟩,
    ⟨net.updPart 0 fun q => { q with streams := [⟨1, 0, 0, 7, 0, [⟨8, 0, 1⟩], []⟩] }, 0, 1, 0, 0, ⟨1, 0, 0, 7, 0, [⟨8, 0, 1⟩], []⟩, ⟨8, 0, 1⟩, [], by decide +kernel, by decide +kernel, by decide +kernel⟩,
    ⟨net.updPart 0 fun q => { q with sentDrops := [((1, 0, 0), .desc (.ring 0) 1)] }, _, 0, 1, 0, 0, ((1, 0, 0), .desc (.ring 0) 1), .ring 0, 1, by decide +kernel, rfl, by decide +kernel⟩,
    ⟨net.updPart 0 fun q => { q with sentDrops := [((1, 0, 0), .snap)] }, _, 0, 1, 0, 0, ((1, 0, 0), .snap), by decide +kernel, rfl, by decide +kernel⟩,
    ⟨net.updPart 0 fun q => { q with sentDrops := [((1, 0, 0), .core)] }, _, 0, 1, 0, 0, ((1, 0, 0), .core), by decide +kernel, rfl, by decide +kernel⟩⟩

/-- The hypotheses of LinkRetry can be met. -/
theorem witness_LinkRetry :
    (∃ (s : State) (p : Fin 18), (s.portUp p = true)) ∧
    (∃ (s t : State) (p : Fin 18) (ack n : Nat), (s.portUp p = true) ∧ (t = s.fabTake p ack 0 0 0) ∧ (n = (if (t.port p).naks.1 = ack then (t.port p).naks.2 + 1 else 1)) ∧ (n < 8)) ∧
    (∃ (s t : State) (p : Fin 18) (ack n : Nat), (s.portUp p = true) ∧ (t = s.fabTake p ack 0 0 0) ∧ (n = (if (t.port p).naks.1 = ack then (t.port p).naks.2 + 1 else 1)) ∧ (8 ≤ n)) ∧
    (∃ (s : State) (p : Fin 18), ((s.port p).retraining = true) ∧ ((s.port p).retrainFails < 2)) ∧
    (∃ (s : State) (p : Fin 18), ((s.port p).retraining = true) ∧ (2 ≤ (s.port p).retrainFails)) :=
  ⟨⟨net, 0, by decide +kernel⟩,
    ⟨net, _, 0, 0, _, by decide +kernel, rfl, rfl, by decide +kernel⟩,
    ⟨net.updPort 0 fun q => { q with naks := (0, 7) }, _, 0, 0, _, by decide +kernel, rfl, rfl, by decide +kernel⟩,
    ⟨net.updPort 0 fun q => { q with retraining := true, retrainFails := 1 }, 0, by decide +kernel, by decide +kernel⟩,
    ⟨net.updPort 0 fun q => { q with retraining := true, retrainFails := 2 }, 0, by decide +kernel, by decide +kernel⟩⟩

/-- The hypotheses of PortBringUp can be met. -/
theorem witness_PortBringUp :
    (∃ (s : State) (p : Fin 18) (v : Nat), (s.anyActive = true ∨ 2 ≤ bits v 4 4 ∧ bits v 4 4 ≤ 7)) ∧
    (∃ (s u : State) (p : Fin 18) (v : Nat), (s.anyActive = false) ∧ (bits v 4 4 < 2 ∨ 7 < bits v 4 4) ∧ (u = State.fsets (State.clearPort (s.fsets [(FAB_PORT_CFG_PARTS p, bits v 16 4), (FAB_PORT_CFG_BEAT p, bits v 8 1), (FAB_PORT_CFG_ROLE p, bits v 4 4), (FAB_PORT_CFG_ENABLE p, bits v 0 1)]) p) [(FAB_PORT_STAT_LANES_UP p, 0), (FAB_PORT_STAT_PEER_NODE p, 0xFFFF), (FAB_PORT_STAT_PEER_ROLE p, 0), (FAB_PORT_STAT_PEER_SWITCH p, 0), (FAB_PORT_STAT_PEER_BEAT p, 0), (FAB_PORT_DELAY_DELAY_PS p, 0)])) ∧
    (∃ (s : State) (p : Fin 18), (s.portTraining p = true)) ∧
    (∃ (s : State) (p : Fin 18) (rtt turn : Nat), (s.portUp p = true)) ∧
    (∃ (s u : State) (p : Fin 18) (node role peer lanes lit win : Nat) (sw beat tincan : Bool), (s.portTraining p = true) ∧ (lit = maskAnd (lanes % 16) (s.litLanes p)) ∧ (2 ≤ laneCount lit) ∧ (s.noId (s.fget (FAB_PORT_CFG_ROLE p)) = true)) ∧
    (∃ (s u : State) (p : Fin 18) (node role peer lanes lit win : Nat) (sw beat tincan : Bool), (s.portTraining p = true) ∧ (lit = maskAnd (lanes % 16) (s.litLanes p)) ∧ (2 ≤ laneCount lit) ∧ (s.noId (s.fget (FAB_PORT_CFG_ROLE p)) = false) ∧ (u = (s.emit (.lmgmt p (s.ownCheck p lit))).fsets [(FAB_PORT_STAT_PEER_NODE p, if sw then 0xFFFF else node), (FAB_PORT_STAT_PEER_ROLE p, role), (FAB_PORT_STAT_PEER_SWITCH p, b2n sw), (FAB_PORT_STAT_PEER_BEAT p, b2n beat)]) ∧ (u.roleMatches (u.fget (FAB_PORT_CFG_ROLE p)) node role sw = true)) ∧
    (∃ (s u : State) (p : Fin 18) (node role peer lanes lit win : Nat) (sw beat tincan : Bool), (s.portTraining p = true) ∧ (lit = maskAnd (lanes % 16) (s.litLanes p)) ∧ (2 ≤ laneCount lit) ∧ (s.noId (s.fget (FAB_PORT_CFG_ROLE p)) = false) ∧ (u = (s.emit (.lmgmt p (s.ownCheck p lit))).fsets [(FAB_PORT_STAT_PEER_NODE p, if sw then 0xFFFF else node), (FAB_PORT_STAT_PEER_ROLE p, role), (FAB_PORT_STAT_PEER_SWITCH p, b2n sw), (FAB_PORT_STAT_PEER_BEAT p, b2n beat)]) ∧ (u.roleMatches (u.fget (FAB_PORT_CFG_ROLE p)) node role sw = false)) :=
  ⟨⟨State.reset, 0, 2 * 16, by decide +kernel⟩,
    ⟨State.reset, _, 0, 1, by decide +kernel, by decide +kernel, rfl⟩,
    ⟨training, 0, by decide +kernel⟩,
    ⟨net, 0, 1000, 0, by decide +kernel⟩,
    ⟨training.fset FAB_NODE_ID 0xFFFF, run, 0, 1, 9, 0, 15, _, 0, false, true, false, by decide +kernel, rfl, by decide +kernel, by decide +kernel⟩,
    ⟨training, _, 0, 1, 9, 0, 15, _, 0, false, true, false, by decide +kernel, rfl, by decide +kernel, by decide +kernel, rfl, by decide +kernel⟩,
    ⟨training, _, 0, 2, 9, 0, 15, _, 0, false, true, false, by decide +kernel, rfl, by decide +kernel, by decide +kernel, rfl, by decide +kernel⟩⟩

/-- The hypotheses of LanesAndEngines can be met. -/
theorem witness_LanesAndEngines :
    (∃ (s : State) (p : Fin 18) (lanes left : Nat), (s.portUp p = true) ∧ (left = maskMinus (s.fget (FAB_PORT_STAT_LANES_UP p)) (lanes % 16)) ∧ (left ≠ s.fget (FAB_PORT_STAT_LANES_UP p))) ∧
    (∃ (s : State) (p : Fin 18), (s.portUp p = true) ∧ (s.beatPorts.contains p.val = true) ∧ (maskMinus (s.fget (FAB_PORT_STAT_LANES_UP p)) 0 = s.fget (FAB_PORT_STAT_LANES_UP p))) ∧
    (∃ (s : State) (p : Fin 18), ∃ l, ((s.port p).offered = none) ∧ (s.mayRecal p = true) ∧ (s.schedules p = true) ∧ (s.fget (FAB_PORT_RECAL_BEAT p) = 0) ∧ ((s.port p).early = some l)) ∧
    (∃ (s : State) (p : Fin 18), ((s.port p).offered = none) ∧ (s.mayRecal p = true) ∧ (s.schedules p = true) ∧ (s.fget (FAB_PORT_RECAL_BEAT p) = 0) ∧ ((s.port p).early = none) ∧ (s.laneTime p = true)) ∧
    (∃ (s : State) (p : Fin 18), ((s.port p).offered = none) ∧ (s.mayRecal p = true) ∧ (s.schedules p = true) ∧ (s.fget (FAB_PORT_RECAL_BEAT p) = 0) ∧ ((s.port p).early = none) ∧ (s.laneTime p = false)) ∧
    (∃ (s u : State) (p : Fin 18) (l : Nat), ((s.port p).offered = some l) ∧ (u = s.updPort p (fun q => { q with offered := none })) ∧ (u.mayRecal p = true)) ∧
    (∃ (s : State) (p : Nat), (s.runningParts = [])) ∧
    (∃ (s : State) (p : Nat), (s.runningParts ≠ [])) ∧
    (∃ (s u : State) (p : Fin 18) (domain beat : Nat) (lane : Fin 4) (ps : List Nat), (s.portUp p = true) ∧ (u = s.each allParts (fun s q => if (s.booked q 3 p).isSome then s.updPart q fun x => { x with books := x.books.filter fun b => !(b.kind == 3 && b.unit == p) } else s)) ∧ (ps = u.runningParts.filter (fun q => u.domId q == some domain && decide (u.beat q + 2 ≤ beat))) ∧ (ps ≠ [])) ∧
    (∃ (s u : State) (p : Fin 18) (domain beat : Nat) (lane : Fin 4) (ps : List Nat), (s.portUp p = true) ∧ (u = s.each allParts (fun s q => if (s.booked q 3 p).isSome then s.updPart q fun x => { x with books := x.books.filter fun b => !(b.kind == 3 && b.unit == p) } else s)) ∧ (ps = u.runningParts.filter (fun q => u.domId q == some domain && decide (u.beat q + 2 ≤ beat))) ∧ (ps = [])) ∧
    (∃ (s : State) (p : Fin 18) (l : Nat), ((s.port p).laneOut = some l) ∧ ((s.port p).laneRetry = false)) ∧
    (∃ (s : State) (p : Fin 18) (l : Nat), ((s.port p).laneOut = some l) ∧ ((s.port p).laneRetry = true)) ∧
    (∃ (s u : State) (e : Fin 4) (addr : Nat), (u = (s.fadd (FAB_OE_VIOL e) 1).noteHub 8 0 addr) ∧ (s.fget (FAB_OE_STATE e) = 3)) ∧
    (∃ (s u : State) (e : Fin 4) (addr : Nat), (u = (s.fadd (FAB_OE_VIOL e) 1).noteHub 8 0 addr) ∧ (s.fget (FAB_OE_STATE e) ≠ 3) ∧ (u.fget (FAB_OE_VIOL e) ≠ 16)) ∧
    (∃ (s u : State) (e : Fin 4) (addr : Nat), (u = (s.fadd (FAB_OE_VIOL e) 1).noteHub 8 0 addr) ∧ (s.fget (FAB_OE_STATE e) ≠ 3) ∧ (u.fget (FAB_OE_VIOL e) = 16)) ∧
    (∃ (s : State) (e : Fin 4), (s.fget (FAB_OE_STATE e) = 2)) ∧
    (∃ (s : State) (e : Fin 4) (c : Nat), (s.fget (FAB_OE_STATE e) = 4) ∧ (∀ x ∈ s.deadLinks, ∀ m, x ≠ .engine e m)) :=
  ⟨⟨net.fset (FAB_PORT_STAT_LANES_UP 0) 15, 0, 8, _, by decide +kernel, rfl, by decide +kernel⟩,
    ⟨net, 0, by decide +kernel, by decide +kernel, by decide +kernel⟩,
    ⟨(net.fset (FAB_PORT_STAT_PEER_NODE 0) 1).updPort 0 fun q => { q with early := some 2 }, 0, 2, by decide +kernel, by decide +kernel, by decide +kernel, by decide +kernel, by decide +kernel⟩,
    ⟨(net.fset (FAB_PORT_STAT_PEER_NODE 0) 1).updPort 0 fun q => { q with early := none }, 0, by decide +kernel, by decide +kernel, by decide +kernel, by decide +kernel, by decide +kernel, by decide +kernel⟩,
    ⟨(net.fset (FAB_PORT_STAT_PEER_NODE 0) 1).updPort 0 fun q => { q with recalAt := 5 }, 0, by decide +kernel, by decide +kernel, by decide +kernel, by decide +kernel, by decide +kernel, by decide +kernel⟩,
    ⟨(net.fset (FAB_PORT_STAT_PEER_NODE 0) 1).updPort 0 fun q => { q with offered := some 3 }, _, 0, 3, by decide +kernel, rfl, by decide +kernel⟩,
    ⟨State.reset, 0, by decide +kernel⟩,
    ⟨run, 0, by decide +kernel⟩,
    ⟨inDom net dom2, _, 0, 1, 20, 0, _, by decide +kernel, rfl, rfl, by decide +kernel⟩,
    ⟨net, _, 0, 0, 20, 0, _, by decide +kernel, rfl, rfl, by decide +kernel⟩,
    ⟨net.updPort 0 fun q => { q with laneOut := some 3 }, 0, 3, by decide +kernel, by decide +kernel⟩,
    ⟨net.updPort 0 fun q => { q with laneOut := some 3, laneRetry := true }, 0, 3, by decide +kernel, by decide +kernel⟩,
    ⟨State.reset.fset (FAB_OE_STATE 0) 3, _, 0, 0, rfl, by decide +kernel⟩,
    ⟨State.reset, _, 0, 0, rfl, by decide +kernel, by decide +kernel⟩,
    ⟨State.reset.fset (FAB_OE_VIOL 0) 15, _, 0, 0, rfl, by decide +kernel, by decide +kernel⟩,
    ⟨State.reset.fset (FAB_OE_STATE 0) 2, 0, by decide +kernel⟩,
    ⟨State.reset.fset (FAB_OE_STATE 0) 4, 0, 0, by decide +kernel, by decide +kernel⟩⟩

/-- The hypotheses of JigsawRuns can be met. -/
theorem witness_JigsawRuns :
    (∃ (s u v : State) (o : Origin) (d : Desc) (p : Nat) (data : List Byte) (l : List (Nat × Nat)), (RunsNow s o (isJgOp 0) (fun s d => jgInputs s o d) (fun s d => jgOutputs s o d) d) ∧ (l = jgInputs s o d) ∧ (u = s.reading o l) ∧ (p = u.originPart o) ∧ (data = u.vload p (jgSrc d.raw) (jgLen d.raw)) ∧ (v = u.jigBytes data.length) ∧ (u.behindIn p isJig d = true)) ∧
    (∃ (s u v : State) (o : Origin) (d : Desc) (p : Nat) (data : List Byte) (l : List (Nat × Nat)), (RunsNow s o (isJgOp 0) (fun s d => jgInputs s o d) (fun s d => jgOutputs s o d) d) ∧ (l = jgInputs s o d) ∧ (u = s.reading o l) ∧ (p = u.originPart o) ∧ (data = u.vload p (jgSrc d.raw) (jgLen d.raw)) ∧ (v = u.jigBytes data.length) ∧ (u.behindIn p isJig d = false) ∧ (jgRemote d.raw = false)) ∧
    (∃ (s u v : State) (o : Origin) (d : Desc) (p : Nat) (data : List Byte) (l : List (Nat × Nat)), (RunsNow s o (isJgOp 0) (fun s d => jgInputs s o d) (fun s d => jgOutputs s o d) d) ∧ (l = jgInputs s o d) ∧ (u = s.reading o l) ∧ (p = u.originPart o) ∧ (data = u.vload p (jgSrc d.raw) (jgLen d.raw)) ∧ (v = u.jigBytes data.length) ∧ (u.behindIn p isJig d = false) ∧ (jgRemote d.raw = false)) ∧
    (∃ (s u v : State) (o : Origin) (d : Desc) (p : Nat) (data : List Byte) (l : List (Nat × Nat)), ∃ w, (RunsNow s o (isJgOp 0) (fun s d => jgInputs s o d) (fun s d => jgOutputs s o d) d) ∧ (l = jgInputs s o d) ∧ (u = s.reading o l) ∧ (p = u.originPart o) ∧ (data = u.vload p (jgSrc d.raw) (jgLen d.raw)) ∧ (v = u.jigBytes data.length) ∧ (u.behindIn p isJig d = false) ∧ (jgRemote d.raw = true) ∧ (v.sendData p (jgBlk d.raw) (jgDst d.raw) (data.length + 1) data = some w)) ∧
    (∃ (s u v : State) (o : Origin) (d : Desc) (p : Nat) (data : List Byte) (l : List (Nat × Nat)), (RunsNow s o (isJgOp 0) (fun s d => jgInputs s o d) (fun s d => jgOutputs s o d) d) ∧ (l = jgInputs s o d) ∧ (u = s.reading o l) ∧ (p = u.originPart o) ∧ (data = u.vload p (jgSrc d.raw) (jgLen d.raw)) ∧ (v = u.jigBytes data.length) ∧ (u.behindIn p isJig d = false) ∧ (jgRemote d.raw = true) ∧ (v.sendData p (jgBlk d.raw) (jgDst d.raw) (data.length + 1) data = none)) ∧
    (∃ (s u v : State) (o : Origin) (d : Desc) (op p : Nat) (codes : List (List Nat)) (l : List (Nat × Nat)) (c : Origin → Upset → Option (Nat × Nat) → Instr), ((op, c) ∈ ([(1, .encode), (2, .decode), (3, .verify)] : List (Nat × (Origin → Upset → Option (Nat × Nat) → Instr)))) ∧ (RunsNow s o (isJgOp op) (fun s d => jgInputs s o d) (fun s d => jgOutputs s o d) d) ∧ (jgOp d.raw = op) ∧ (l = jgInputs s o d) ∧ (u = s.reading o l) ∧ (p = u.originPart o) ∧ (codes = (List.range (jgLen d.raw)).map (fun b => fullCode d.raw (codeAt (u.shardData p d.raw d.table) b))) ∧ (v = u.jigBytes ((jgReads d.raw).length * jgLen d.raw)) ∧ (u.behindIn p isJig d = true)) ∧
    (∃ (s u v : State) (o : Origin) (d : Desc) (op p : Nat) (codes : List (List Nat)) (l : List (Nat × Nat)) (c : Origin → Upset → Option (Nat × Nat) → Instr), ((op, c) ∈ ([(1, .encode), (2, .decode), (3, .verify)] : List (Nat × (Origin → Upset → Option (Nat × Nat) → Instr)))) ∧ (RunsNow s o (isJgOp op) (fun s d => jgInputs s o d) (fun s d => jgOutputs s o d) d) ∧ (jgOp d.raw = op) ∧ (l = jgInputs s o d) ∧ (u = s.reading o l) ∧ (p = u.originPart o) ∧ (codes = (List.range (jgLen d.raw)).map (fun b => fullCode d.raw (codeAt (u.shardData p d.raw d.table) b))) ∧ (v = u.jigBytes ((jgReads d.raw).length * jgLen d.raw)) ∧ (u.behindIn p isJig d = false) ∧ (op = 1 ∨ (∀ x ∈ codes, codeGood d.raw x = true))) ∧
    (∃ (s u v : State) (o : Origin) (d : Desc) (op p : Nat) (codes : List (List Nat)) (l : List (Nat × Nat)) (c : Origin → Upset → Option (Nat × Nat) → Instr), ∃ b, ((op, c) ∈ ([(1, .encode), (2, .decode), (3, .verify)] : List (Nat × (Origin → Upset → Option (Nat × Nat) → Instr)))) ∧ (RunsNow s o (isJgOp op) (fun s d => jgInputs s o d) (fun s d => jgOutputs s o d) d) ∧ (jgOp d.raw = op) ∧ (l = jgInputs s o d) ∧ (u = s.reading o l) ∧ (p = u.originPart o) ∧ (codes = (List.range (jgLen d.raw)).map (fun b => fullCode d.raw (codeAt (u.shardData p d.raw d.table) b))) ∧ (v = u.jigBytes ((jgReads d.raw).length * jgLen d.raw)) ∧ (u.behindIn p isJig d = false) ∧ (op = 3) ∧ (codes.findIdx? (fun x => !codeGood d.raw x) = some b)) ∧
    (∃ (s u v : State) (o : Origin) (d : Desc) (op p : Nat) (codes : List (List Nat)) (l : List (Nat × Nat)) (c : Origin → Upset → Option (Nat × Nat) → Instr), ∃ (b : Nat) (bad : Option (Nat × Nat)), ((op, c) ∈ ([(1, .encode), (2, .decode), (3, .verify)] : List (Nat × (Origin → Upset → Option (Nat × Nat) → Instr)))) ∧ (RunsNow s o (isJgOp op) (fun s d => jgInputs s o d) (fun s d => jgOutputs s o d) d) ∧ (jgOp d.raw = op) ∧ (l = jgInputs s o d) ∧ (u = s.reading o l) ∧ (p = u.originPart o) ∧ (codes = (List.range (jgLen d.raw)).map (fun b => fullCode d.raw (codeAt (u.shardData p d.raw d.table) b))) ∧ (v = u.jigBytes ((jgReads d.raw).length * jgLen d.raw)) ∧ (u.behindIn p isJig d = false) ∧ (op = 2) ∧ (codes.findIdx? (fun x => !codeGood d.raw x) = some b) ∧ (∀ i off, bad = some (i, off) → b / 128 ≤ off / 128)) ∧
    (∃ (s u v : State) (o : Origin) (d : Desc) (op p : Nat) (codes : List (List Nat)) (l : List (Nat × Nat)) (c : Origin → Upset → Option (Nat × Nat) → Instr), ∃ off, ((op, c) ∈ ([(1, .encode), (2, .decode), (3, .verify)] : List (Nat × (Origin → Upset → Option (Nat × Nat) → Instr)))) ∧ (RunsNow s o (isJgOp op) (fun s d => jgInputs s o d) (fun s d => jgOutputs s o d) d) ∧ (jgOp d.raw = op) ∧ (l = jgInputs s o d) ∧ (u = s.reading o l) ∧ (p = u.originPart o) ∧ (codes = (List.range (jgLen d.raw)).map (fun b => fullCode d.raw (codeAt (u.shardData p d.raw d.table) b))) ∧ (v = u.jigBytes ((jgReads d.raw).length * jgLen d.raw)) ∧ (u.behindIn p isJig d = false) ∧ (op = 2 → ∀ b, codes.findIdx? (fun x => !codeGood d.raw x) = some b → off / 128 < b / 128)) ∧
    (∃ (raw : Nat) (code : List Nat), (jgOp raw = 1)) ∧
    (∃ (raw : Nat) (code : List Nat), (jgOp raw = 3)) :=
  ⟨⟨(jgOn [{ dsc (jgRaw 0) with order := 2 }]).updRing 1 fun q => { q with inflight := [dsc (jgRaw 0)] }, _, _, .ring 0, { dsc (jgRaw 0) with order := 2 }, _, _, _, ⟨by decide +kernel, by decide +kernel, by decide +kernel, by decide +kernel, by decide +kernel, by decide +kernel, by decide +kernel, by decide +kernel⟩, rfl, rfl, rfl, rfl, rfl, by decide +kernel⟩,
    ⟨jgOn [dsc (jgRaw 0)], _, _, .ring 0, dsc (jgRaw 0), _, _, _, ⟨by decide +kernel, by decide +kernel, by decide +kernel, by decide +kernel, by decide +kernel, by decide +kernel, by decide +kernel, by decide +kernel⟩, rfl, rfl, rfl, rfl, rfl, by decide +kernel, by decide +kernel⟩,
    ⟨jgOn [dsc (jgRaw 0)], _, _, .ring 0, dsc (jgRaw 0), _, _, _, ⟨by decide +kernel, by decide +kernel, by decide +kernel, by decide +kernel, by decide +kernel, by decide +kernel, by decide +kernel, by decide +kernel⟩, rfl, rfl, rfl, rfl, rfl, by decide +kernel, by decide +kernel⟩,
    ⟨jgOn [dsc (jgRaw 0 + raws [(34, 7, 1), (80, 0, 1)])], _, _, .ring 0, dsc (jgRaw 0 + raws [(34, 7, 1), (80, 0, 1)]), _, _, _, _, ⟨by decide +kernel, by decide +kernel, by decide +kernel, by decide +kernel, by decide +kernel, by decide +kernel, by decide +kernel, by decide +kernel⟩, rfl, rfl, rfl, rfl, rfl, by decide +kernel, by decide +kernel, some_eq _ (by decide +kernel)⟩,
    ⟨jgOff [dsc (jgRaw 0 + raws [(34, 7, 1), (80, 0, 1)])], _, _, .ring 0, dsc (jgRaw 0 + raws [(34, 7, 1), (80, 0, 1)]), _, _, _, ⟨by decide +kernel, by decide +kernel, by decide +kernel, by decide +kernel, by decide +kernel, by decide +kernel, by decide +kernel, by decide +kernel⟩, rfl, rfl, rfl, rfl, rfl, by decide +kernel, by decide +kernel, by decide +kernel⟩,
    ⟨(jgOn [{ dsc (jgRaw 1) with order := 2 }]).updRing 1 fun q => { q with inflight := [dsc (jgRaw 1)] }, _, _, .ring 0, { dsc (jgRaw 1) with order := 2 }, 1, _, _, _, _, List.Mem.head _, ⟨by decide +kernel, by decide +kernel, by decide +kernel, by decide +kernel, by decide +kernel, by decide +kernel, by decide +kernel, by decide +kernel⟩, by decide +kernel, rfl, rfl, rfl, rfl, rfl, by decide +kernel⟩,
    ⟨jgOn [dsc (jgRaw 1)], _, _, .ring 0, dsc (jgRaw 1), 1, _, _, _, _, List.Mem.head _, ⟨by decide +kernel, by decide +kernel, by decide +kernel, by decide +kernel, by decide +kernel, by decide +kernel, by decide +kernel, by decide +kernel⟩, by decide +kernel, rfl, rfl, rfl, rfl, rfl, by decide +kernel, by decide +kernel⟩,
    ⟨jgOn [dsc (jgRaw 3)], _, _, .ring 0, dsc (jgRaw 3), 3, _, _, _, _, 0, .tail _ (.tail _ (.head _)), ⟨by decide +kernel, by decide +kernel, by decide +kernel, by decide +kernel, by decide +kernel, by decide +kernel, by decide +kernel, by decide +kernel⟩, by decide +kernel, rfl, rfl, rfl, rfl, rfl, by decide +kernel, by decide +kernel, by decide +kernel⟩,
    ⟨jgOn [dsc (jgRaw 2)], _, _, .ring 0, dsc (jgRaw 2), 2, _, _, _, _, 0, none, .tail _ (.head _), ⟨by decide +kernel, by decide +kernel, by decide +kernel, by decide +kernel, by decide +kernel, by decide +kernel, by decide +kernel, by decide +kernel⟩, by decide +kernel, rfl, rfl, rfl, rfl, rfl, by decide +kernel, by decide +kernel, by decide +kernel, fun _ _ h => nomatch h⟩,
    ⟨jgOn [dsc (jgRaw 1)], _, _, .ring 0, dsc (jgRaw 1), 1, _, _, _, _, 0, List.Mem.head _, ⟨by decide +kernel, by decide +kernel, by decide +kernel, by decide +kernel, by decide +kernel, by decide +kernel, by decide +kernel, by decide +kernel⟩, by decide +kernel, rfl, rfl, rfl, rfl, rfl, by decide +kernel, fun h => absurd h (by decide)⟩,
    ⟨jgRaw 1, [1, 2, 3], by decide +kernel⟩,
    ⟨jgRaw 3, [1, 2, 3], by decide +kernel⟩⟩

/-- The hypotheses of ActivationsRun can be met. -/
theorem witness_ActivationsRun :
    (∃ (s u : State) (o : Origin) (d : Desc) (outs : State → Desc → List (Nat × Nat)) (r p : Nat) (l : List (Nat × Nat)) (x : Handle), ∃ (op : Nat) (ins : State → Desc → List (Nat × Nat)) (i : Instr), (outs = (fun s d => s.dpaRanges (s.originPart o) (yoWrites d.raw))) ∧ (r = dRegion d.raw) ∧ (u = s.reading o l) ∧ (p = u.originPart o) ∧ ((op, ins, i) ∈ ([(0, (fun s d => if s.stashReads d.raw then s.dpaRanges (s.originPart o) (yoReads d.raw ++ healthExtent (yoHealth d.raw)) else []), .stash o .none), (1, recallInputs, .recallOp o .none), (2, fun _ _ => [], .release o .none), (3, fun s d => s.dpaRanges (s.originPart o) (yoReads d.raw), .groupRows o .none)] : List (Nat × (State → Desc → List (Nat × Nat)) × Instr))) ∧ (RunsNow s o (isYoOp op) ins outs d) ∧ (l = ins s d) ∧ (u.yoBehind d = true)) ∧
    (∃ (s u : State) (o : Origin) (d : Desc) (outs : State → Desc → List (Nat × Nat)) (r p : Nat) (l : List (Nat × Nat)) (x : Handle), ∃ code chunks, (outs = (fun s d => s.dpaRanges (s.originPart o) (yoWrites d.raw))) ∧ (r = dRegion d.raw) ∧ (u = s.reading o l) ∧ (p = u.originPart o) ∧ (RunsNow s o (isYoOp 0) (fun s d => if s.stashReads d.raw then s.dpaRanges (s.originPart o) (yoReads d.raw ++ healthExtent (yoHealth d.raw)) else []) outs d) ∧ (l = (if s.stashReads d.raw then s.dpaRanges (s.originPart o) (yoReads d.raw ++ healthExtent (yoHealth d.raw)) else [])) ∧ (u.yoBehind d = false) ∧ (u.handle? r (yoHandle d.raw) = none) ∧ (u.place d.raw = some (code, chunks)) ∧ (x = ⟨code + 1, yoForm d.raw, yoFmt d.raw, yoRows d.raw, yoCols d.raw, yoTensor d.raw, yoPool d.raw, chunks⟩) ∧ (code = 2)) ∧
    (∃ (s u : State) (o : Origin) (d : Desc) (outs : State → Desc → List (Nat × Nat)) (r p : Nat) (l : List (Nat × Nat)) (x : Handle), ∃ code chunks, (outs = (fun s d => s.dpaRanges (s.originPart o) (yoWrites d.raw))) ∧ (r = dRegion d.raw) ∧ (u = s.reading o l) ∧ (p = u.originPart o) ∧ (RunsNow s o (isYoOp 0) (fun s d => if s.stashReads d.raw then s.dpaRanges (s.originPart o) (yoReads d.raw ++ healthExtent (yoHealth d.raw)) else []) outs d) ∧ (l = (if s.stashReads d.raw then s.dpaRanges (s.originPart o) (yoReads d.raw ++ healthExtent (yoHealth d.raw)) else [])) ∧ (u.yoBehind d = false) ∧ (u.handle? r (yoHandle d.raw) = none) ∧ (u.place d.raw = some (code, chunks)) ∧ (x = ⟨code + 1, yoForm d.raw, yoFmt d.raw, yoRows d.raw, yoCols d.raw, yoTensor d.raw, yoPool d.raw, chunks⟩) ∧ (code ≠ 2) ∧ (u.stashBytes p d.raw = none)) ∧
    (∃ (s u : State) (o : Origin) (d : Desc) (outs : State → Desc → List (Nat × Nat)) (r p : Nat) (l : List (Nat × Nat)) (x : Handle), ∃ code chunks, ∃ bs hl v, (outs = (fun s d => s.dpaRanges (s.originPart o) (yoWrites d.raw))) ∧ (r = dRegion d.raw) ∧ (u = s.reading o l) ∧ (p = u.originPart o) ∧ (RunsNow s o (isYoOp 0) (fun s d => if s.stashReads d.raw then s.dpaRanges (s.originPart o) (yoReads d.raw ++ healthExtent (yoHealth d.raw)) else []) outs d) ∧ (l = (if s.stashReads d.raw then s.dpaRanges (s.originPart o) (yoReads d.raw ++ healthExtent (yoHealth d.raw)) else [])) ∧ (u.yoBehind d = false) ∧ (u.handle? r (yoHandle d.raw) = none) ∧ (u.place d.raw = some (code, chunks)) ∧ (x = ⟨code + 1, yoForm d.raw, yoFmt d.raw, yoRows d.raw, yoCols d.raw, yoTensor d.raw, yoPool d.raw, chunks⟩) ∧ (code ≠ 2) ∧ (u.stashBytes p d.raw = some (bs, hl)) ∧ (v = (if yoForm d.raw = 1 then State.mergeHealth ((u.noteUndo o d).putRanges (.desc p d.id) (u.keptRanges r bs.length chunks) bs) p (yoHealth d.raw) hl (yoTensor d.raw) 1 2 (.desc p d.id) else (u.noteUndo o d).putRanges (.desc p d.id) (u.keptRanges r bs.length chunks) bs)) ∧ (v.running p = true)) ∧
    (∃ (s u : State) (o : Origin) (d : Desc) (outs : State → Desc → List (Nat × Nat)) (r p : Nat) (l : List (Nat × Nat)) (x : Handle), (outs = (fun s d => s.dpaRanges (s.originPart o) (yoWrites d.raw))) ∧ (r = dRegion d.raw) ∧ (u = s.reading o l) ∧ (p = u.originPart o) ∧ (RunsNow s o (isYoOp 0) (fun s d => if s.stashReads d.raw then s.dpaRanges (s.originPart o) (yoReads d.raw ++ healthExtent (yoHealth d.raw)) else []) outs d) ∧ (l = (if s.stashReads d.raw then s.dpaRanges (s.originPart o) (yoReads d.raw ++ healthExtent (yoHealth d.raw)) else [])) ∧ (u.yoBehind d = false) ∧ (u.handle? r (yoHandle d.raw) = some x)) ∧
    (∃ (s u : State) (o : Origin) (d : Desc) (outs : State → Desc → List (Nat × Nat)) (r p : Nat) (l : List (Nat × Nat)) (x : Handle), (outs = (fun s d => s.dpaRanges (s.originPart o) (yoWrites d.raw))) ∧ (r = dRegion d.raw) ∧ (u = s.reading o l) ∧ (p = u.originPart o) ∧ (RunsNow s o (isYoOp 0) (fun s d => if s.stashReads d.raw then s.dpaRanges (s.originPart o) (yoReads d.raw ++ healthExtent (yoHealth d.raw)) else []) outs d) ∧ (l = (if s.stashReads d.raw then s.dpaRanges (s.originPart o) (yoReads d.raw ++ healthExtent (yoHealth d.raw)) else [])) ∧ (u.yoBehind d = false) ∧ (u.handle? r (yoHandle d.raw) = none) ∧ (u.place d.raw = none)) ∧
    (∃ (s u : State) (o : Origin) (d : Desc) (outs : State → Desc → List (Nat × Nat)) (r p : Nat) (l : List (Nat × Nat)) (x : Handle), ∃ (v : State), (outs = (fun s d => s.dpaRanges (s.originPart o) (yoWrites d.raw))) ∧ (r = dRegion d.raw) ∧ (u = s.reading o l) ∧ (p = u.originPart o) ∧ (RunsNow s o (isYoOp 1) recallInputs outs d) ∧ (l = recallInputs s d) ∧ (u.yoBehind d = false) ∧ (u.handle? r (yoHandle d.raw) = some x) ∧ (x.fits d.raw = true) ∧ (v = (if x.st = 3 then u.noteUndo o d else (u.noteUndo o d).recallWrite p d.id d.raw x (u.keptOf r x).toArray)) ∧ (v.running p = true)) ∧
    (∃ (s u : State) (o : Origin) (d : Desc) (outs : State → Desc → List (Nat × Nat)) (r p : Nat) (l : List (Nat × Nat)) (x : Handle), (outs = (fun s d => s.dpaRanges (s.originPart o) (yoWrites d.raw))) ∧ (r = dRegion d.raw) ∧ (u = s.reading o l) ∧ (p = u.originPart o) ∧ (RunsNow s o (isYoOp 1) recallInputs outs d) ∧ (l = recallInputs s d) ∧ (u.yoBehind d = false) ∧ (u.handle? r (yoHandle d.raw) = none ∨ (u.handle? r (yoHandle d.raw) = some x ∧ x.fits d.raw = false))) ∧
    (∃ (s u : State) (o : Origin) (d : Desc) (outs : State → Desc → List (Nat × Nat)) (r p : Nat) (l : List (Nat × Nat)) (x : Handle), (outs = (fun s d => s.dpaRanges (s.originPart o) (yoWrites d.raw))) ∧ (r = dRegion d.raw) ∧ (u = s.reading o l) ∧ (p = u.originPart o) ∧ (RunsNow s o (isYoOp 2) (fun _ _ => []) outs d) ∧ (l = []) ∧ (u.yoBehind d = false) ∧ (u.handle? r (yoHandle d.raw) = some x)) ∧
    (∃ (s u : State) (o : Origin) (d : Desc) (outs : State → Desc → List (Nat × Nat)) (r p : Nat) (l : List (Nat × Nat)) (x : Handle), (outs = (fun s d => s.dpaRanges (s.originPart o) (yoWrites d.raw))) ∧ (r = dRegion d.raw) ∧ (u = s.reading o l) ∧ (p = u.originPart o) ∧ (RunsNow s o (isYoOp 2) (fun _ _ => []) outs d) ∧ (l = []) ∧ (u.yoBehind d = false) ∧ (u.handle? r (yoHandle d.raw) = none)) ∧
    (∃ (s u : State) (o : Origin) (d : Desc) (outs : State → Desc → List (Nat × Nat)) (r p : Nat) (l : List (Nat × Nat)) (x : Handle), ∃ (idx : Array Nat) (order : List Nat) (v w : State), (outs = (fun s d => s.dpaRanges (s.originPart o) (yoWrites d.raw))) ∧ (r = dRegion d.raw) ∧ (u = s.reading o l) ∧ (p = u.originPart o) ∧ (RunsNow s o (isYoOp 3) (fun s d => s.dpaRanges (s.originPart o) (yoReads d.raw)) outs d) ∧ (l = s.dpaRanges (s.originPart o) (yoReads d.raw)) ∧ (u.yoBehind d = false) ∧ (idx = ((List.range (yoRows d.raw)).map fun i => u.vloadNat p (yoVidx d.raw + 2 * i) 2).toArray) ∧ (order = variantOrder idx (yoVcount d.raw)) ∧ (v = (u.each order.zipIdx fun t x => t.vstore p (yoDst d.raw + x.2 * yoDstride d.raw) (u.vload p (yoAddr d.raw + x.1 * yoStride d.raw) (yoCols d.raw)) (.desc p d.id)).vstore p (yoSeg d.raw) (segTable idx (yoVcount d.raw) 0) (.desc p d.id)) ∧ (w = (if yoPerm d.raw = 0 then v else v.vstore p (yoPerm d.raw) (order.flatMap (natLe 4)) (.desc p d.id))) ∧ (∀ x ∈ idx, x < 4096 ∧ x < yoVcount d.raw)) ∧
    (∃ (s u : State) (o : Origin) (d : Desc) (outs : State → Desc → List (Nat × Nat)) (r p : Nat) (l : List (Nat × Nat)) (x : Handle), ∃ (idx : Array Nat) (order : List Nat) (v w : State), (outs = (fun s d => s.dpaRanges (s.originPart o) (yoWrites d.raw))) ∧ (r = dRegion d.raw) ∧ (u = s.reading o l) ∧ (p = u.originPart o) ∧ (RunsNow s o (isYoOp 3) (fun s d => s.dpaRanges (s.originPart o) (yoReads d.raw)) outs d) ∧ (l = s.dpaRanges (s.originPart o) (yoReads d.raw)) ∧ (u.yoBehind d = false) ∧ (idx = ((List.range (yoRows d.raw)).map fun i => u.vloadNat p (yoVidx d.raw + 2 * i) 2).toArray) ∧ (order = variantOrder idx (yoVcount d.raw)) ∧ (v = (u.each order.zipIdx fun t x => t.vstore p (yoDst d.raw + x.2 * yoDstride d.raw) (u.vload p (yoAddr d.raw + x.1 * yoStride d.raw) (yoCols d.raw)) (.desc p d.id)).vstore p (yoSeg d.raw) (segTable idx (yoVcount d.raw) 0) (.desc p d.id)) ∧ (w = (if yoPerm d.raw = 0 then v else v.vstore p (yoPerm d.raw) (order.flatMap (natLe 4)) (.desc p d.id))) ∧ (∃ x ∈ idx, 4096 ≤ x ∨ yoVcount d.raw ≤ x)) ∧
    (∃ (s : State) (r h : Nat) (x : Handle) (owner : Owner), (x.chunks = [])) ∧
    (∃ (idx : Array Nat) (n : Nat), (∀ i < idx.size, idx.getD i 0 < n)) :=
  ⟨⟨(withD run [{ dsc (yoRaw 2 0) with order := 2 }]).updRing 1 fun q => { q with inflight := [dsc (yoRaw 2 0)] }, _, .ring 0, { dsc (yoRaw 2 0) with order := 2 }, _, _, _, _, keep 1, 2, _, _, rfl, rfl, rfl, rfl, .tail _ (.tail _ (.head _)), ⟨by decide +kernel, by decide +kernel, by decide +kernel, by decide +kernel, by decide +kernel, by decide +kernel, by decide +kernel, by decide +kernel⟩, rfl, by decide +kernel⟩,
    ⟨runD (run) (yoRaw 0 4), _, .ring 0, dsc (yoRaw 0 4), _, _, _, _, _, _, _, rfl, rfl, rfl, rfl, ⟨by decide +kernel, by decide +kernel, by decide +kernel, by decide +kernel, by decide +kernel, by decide +kernel, by decide +kernel, by decide +kernel⟩, rfl, by decide +kernel, by decide +kernel, somePair_eq _ (by decide +kernel), rfl, rfl⟩,
    ⟨runD (memNat ((mapped run).fsets [(YOY_BUDGET_ACT 0, 4), (YOY_POOL_CHUNKS 0, 4)]) (2 ^ 30) 1 7) (yoRaw 0 2 + raws [(40, 0, 1), (44, 0, 1)]), _, .ring 0, dsc (yoRaw 0 2 + raws [(40, 0, 1), (44, 0, 1)]), _, _, _, _, _, _, _, rfl, rfl, rfl, rfl, ⟨by decide +kernel, by decide +kernel, by decide +kernel, by decide +kernel, by decide +kernel, by decide +kernel, by decide +kernel, by decide +kernel⟩, rfl, by decide +kernel, by decide +kernel, somePair_eq _ (by decide +kernel), rfl, by decide +kernel, by decide +kernel⟩,
    ⟨runD (run) (yoRaw 0 0), _, .ring 0, dsc (yoRaw 0 0), _, _, _, _, _, _, _, _, _, _, rfl, rfl, rfl, rfl, ⟨by decide +kernel, by decide +kernel, by decide +kernel, by decide +kernel, by decide +kernel, by decide +kernel, by decide +kernel, by decide +kernel⟩, rfl, by decide +kernel, by decide +kernel, somePair_eq _ (by decide +kernel), rfl, by decide +kernel, somePair_eq _ (by decide +kernel), rfl, by decide +kernel⟩,
    ⟨runD (withH run (keep 1)) (yoRaw 0 0), _, .ring 0, dsc (yoRaw 0 0), _, _, _, _, keep 1, rfl, rfl, rfl, rfl, ⟨by decide +kernel, by decide +kernel, by decide +kernel, by decide +kernel, by decide +kernel, by decide +kernel, by decide +kernel, by decide +kernel⟩, rfl, by decide +kernel, by decide +kernel⟩,
    ⟨runD (run) (yoRaw 0 0 + raws [(40, 0, 1), (44, 0, 1)]), _, .ring 0, dsc (yoRaw 0 0 + raws [(40, 0, 1), (44, 0, 1)]), _, _, _, _, keep 1, rfl, rfl, rfl, rfl, ⟨by decide +kernel, by decide +kernel, by decide +kernel, by decide +kernel, by decide +kernel, by decide +kernel, by decide +kernel, by decide +kernel⟩, rfl, by decide +kernel, by decide +kernel, by decide +kernel⟩,
    ⟨runD (withH run (keep 1)) (yoRaw 1 0), _, .ring 0, dsc (yoRaw 1 0), _, _, _, _, keep 1, _, rfl, rfl, rfl, rfl, ⟨by decide +kernel, by decide +kernel, by decide +kernel, by decide +kernel, by decide +kernel, by decide +kernel, by decide +kernel, by decide +kernel⟩, rfl, by decide +kernel, by decide +kernel, by decide +kernel, rfl, by decide +kernel⟩,
    ⟨runD (run) (yoRaw 1 0), _, .ring 0, dsc (yoRaw 1 0), _, _, _, _, keep 1, rfl, rfl, rfl, rfl, ⟨by decide +kernel, by decide +kernel, by decide +kernel, by decide +kernel, by decide +kernel, by decide +kernel, by decide +kernel, by decide +kernel⟩, rfl, by decide +kernel, by decide +kernel⟩,
    ⟨runD (withH run (keep 1)) (yoRaw 2 0), _, .ring 0, dsc (yoRaw 2 0), _, _, _, _, keep 1, rfl, rfl, rfl, rfl, ⟨by decide +kernel, by decide +kernel, by decide +kernel, by decide +kernel, by decide +kernel, by decide +kernel, by decide +kernel, by decide +kernel⟩, rfl, by decide +kernel, by decide +kernel⟩,
    ⟨runD (run) (yoRaw 2 0), _, .ring 0, dsc (yoRaw 2 0), _, _, _, _, keep 1, rfl, rfl, rfl, rfl, ⟨by decide +kernel, by decide +kernel, by decide +kernel, by decide +kernel, by decide +kernel, by decide +kernel, by decide +kernel, by decide +kernel⟩, rfl, by decide +kernel, by decide +kernel⟩,
    ⟨runD (run) (yoRaw 3 0), _, .ring 0, dsc (yoRaw 3 0), _, _, _, _, keep 1, _, _, _, _, rfl, rfl, rfl, rfl, ⟨by decide +kernel, by decide +kernel, by decide +kernel, by decide +kernel, by decide +kernel, by decide +kernel, by decide +kernel, by decide +kernel⟩, rfl, by decide +kernel, rfl, rfl, rfl, rfl, by decide +kernel⟩,
    ⟨runD (memNat (mapped run) (2 ^ 30) 2 7) (yoRaw 3 0 + raws [(40, 0, 1)]), _, .ring 0, dsc (yoRaw 3 0 + raws [(40, 0, 1)]), _, _, _, _, keep 1, _, _, _, _, rfl, rfl, rfl, rfl, ⟨by decide +kernel, by decide +kernel, by decide +kernel, by decide +kernel, by decide +kernel, by decide +kernel, by decide +kernel, by decide +kernel⟩, rfl, by decide +kernel, rfl, rfl, rfl, rfl, by decide +kernel⟩,
    ⟨withH run (keep 1), 0, 5, keep 1, .resync, by decide +kernel⟩,
    ⟨#[1, 0, 1], 2, by decide +kernel⟩⟩

/-- The hypotheses of Snapshots can be met. -/
theorem witness_Snapshots :
    (∃ (s : State) (o : Origin) (d : Desc), (RunsNow s o isSnapshot noRanges noRanges d)) ∧
    (∃ (s u w : State) (p : Fin 4) (phys : ReadUpset) (x y : Snap) (i : Nat) (data : List Byte), ∃ j, ((s.part p).snap = some x) ∧ (x.next = some i) ∧ ((s.strike phys).readFor p (s.dpaRange p (snSrc x.list i) (snLen x.list i)) = (u, none)) ∧ (data = (s.dpaRange p (snSrc x.list i) (snLen x.list i)).flatMap (fun r => u.load r.1 r.2)) ∧ (y = { x with left := x.left ++ [i], bytes := x.bytes + data.length }) ∧ (w = u.updPart p (fun q => { q with snap := some y })) ∧ (j ≠ i)) ∧
    (∃ (s u w : State) (p : Fin 4) (phys : ReadUpset) (x y : Snap) (i : Nat) (data : List Byte), ((s.part p).snap = some x) ∧ (x.next = some i) ∧ ((s.strike phys).readFor p (s.dpaRange p (snSrc x.list i) (snLen x.list i)) = (u, none)) ∧ (data = (s.dpaRange p (snSrc x.list i) (snLen x.list i)).flatMap (fun r => u.load r.1 r.2)) ∧ (y = { x with left := x.left ++ [i], bytes := x.bytes + data.length }) ∧ (w = u.updPart p (fun q => { q with snap := some y })) ∧ (snRemote x.raw = false)) ∧
    (∃ (s u w : State) (p : Fin 4) (phys : ReadUpset) (x y : Snap) (i : Nat) (data : List Byte), ∃ v, ((s.part p).snap = some x) ∧ (x.next = some i) ∧ ((s.strike phys).readFor p (s.dpaRange p (snSrc x.list i) (snLen x.list i)) = (u, none)) ∧ (data = (s.dpaRange p (snSrc x.list i) (snLen x.list i)).flatMap (fun r => u.load r.1 r.2)) ∧ (y = { x with left := x.left ++ [i], bytes := x.bytes + data.length }) ∧ (w = u.updPart p (fun q => { q with snap := some y })) ∧ (snRemote x.raw = true) ∧ (blkEn (snBlk x.raw) = false ∨ y.held ≠ []) ∧ (w.sendData p (snBlk x.raw) (snDst x.raw + snOff x.list i) (data.length + 1) data = some v)) ∧
    (∃ (s u w : State) (p : Fin 4) (phys : ReadUpset) (x y : Snap) (i : Nat) (data : List Byte), ((s.part p).snap = some x) ∧ (x.next = some i) ∧ ((s.strike phys).readFor p (s.dpaRange p (snSrc x.list i) (snLen x.list i)) = (u, none)) ∧ (data = (s.dpaRange p (snSrc x.list i) (snLen x.list i)).flatMap (fun r => u.load r.1 r.2)) ∧ (y = { x with left := x.left ++ [i], bytes := x.bytes + data.length }) ∧ (w = u.updPart p (fun q => { q with snap := some y })) ∧ (snRemote x.raw = true) ∧ (w.sendData p (snBlk x.raw) (snDst x.raw + snOff x.list i) (data.length + 1) data = none)) ∧
    (∃ (s u w : State) (p : Fin 4) (phys : ReadUpset) (x y : Snap) (i : Nat) (data : List Byte), ∃ v z, ((s.part p).snap = some x) ∧ (x.next = some i) ∧ ((s.strike phys).readFor p (s.dpaRange p (snSrc x.list i) (snLen x.list i)) = (u, none)) ∧ (data = (s.dpaRange p (snSrc x.list i) (snLen x.list i)).flatMap (fun r => u.load r.1 r.2)) ∧ (y = { x with left := x.left ++ [i], bytes := x.bytes + data.length }) ∧ (w = u.updPart p (fun q => { q with snap := some y })) ∧ (snRemote x.raw = true) ∧ (blkEn (snBlk x.raw) = true) ∧ (y.held = []) ∧ (w.sendData p (snBlk x.raw) (snDst x.raw + snOff x.list i) (data.length + 1) data = some v) ∧ (v.sendDrop p (snBlk x.raw) y.bytes .snap = some z)) ∧
    (∃ (s u : State) (p : Fin 4) (phys : ReadUpset) (x : Snap) (i a : Nat), ((s.part p).snap = some x) ∧ (x.next = some i) ∧ ((s.strike phys).readFor p (s.dpaRange p (snSrc x.list i) (snLen x.list i)) = (u, some a))) ∧
    (∃ (s t : State) (p : Fin 4) (x : Snap), ((s.part p).snap = some x) ∧ (s.snapDone p x = false)) ∧
    (∃ (s t : State) (p : Fin 4) (x : Snap), ((s.part p).snap = some x) ∧ (s.snapDone p x = true) ∧ (t = (if snNoteEn x.raw = true ∧ snNoteN x.raw ≠ 0 then (s.putRanges (.snap p) x.statusAt (x.record 1 (s.beat p))).dropOr p (snNoteJar x.raw) (snNoteN x.raw) { unit := unitHub } else s.putRanges (.snap p) x.statusAt (x.record 1 (s.beat p))).updPart p (fun q => { q with snap := none }))) :=
  ⟨⟨runD run 8, .ring 0, dsc 8, ⟨by decide +kernel, by decide +kernel, by decide +kernel, by decide +kernel, by decide +kernel, by decide +kernel, by decide +kernel, by decide +kernel⟩⟩,
    ⟨snapS (snapOf 0 0), _, _, 0, [], snapOf 0 0, _, 0, _, 1, by decide +kernel, by decide +kernel, none_eq _ (by decide +kernel), rfl, rfl, rfl, by decide +kernel⟩,
    ⟨snapS (snapOf 0 0), _, _, 0, [], snapOf 0 0, _, 0, _, by decide +kernel, by decide +kernel, none_eq _ (by decide +kernel), rfl, rfl, rfl, by decide +kernel⟩,
    ⟨snapS (snapOf 1 0), _, _, 0, [], snapOf 1 0, _, 0, _, _, by decide +kernel, by decide +kernel, none_eq _ (by decide +kernel), rfl, rfl, rfl, by decide +kernel, by decide +kernel, some_eq _ (by decide +kernel)⟩,
    ⟨(mapped run).updPart 0 fun q => { q with snap := some (snapOf 1 0) }, _, _, 0, [], snapOf 1 0, _, 0, _, by decide +kernel, by decide +kernel, none_eq _ (by decide +kernel), rfl, rfl, rfl, by decide +kernel, by decide +kernel⟩,
    ⟨snapS (snapOf 1 1), _, _, 0, [], snapOf 1 1, _, 0, _, _, _, by decide +kernel, by decide +kernel, none_eq _ (by decide +kernel), rfl, rfl, rfl, by decide +kernel, by decide +kernel, by decide +kernel, some_eq _ (by decide +kernel), some_eq _ (by decide +kernel)⟩,
    ⟨{ snapS (snapOf 0 0) with damage := [(2 ^ 24, [(0, 1), (1, 1)])] }, _, 0, [], snapOf 0 0, 0, _, by decide +kernel, by decide +kernel, pairSome_eq _ (by decide +kernel)⟩,
    ⟨snapS (snapOf 0 0), State.reset, 0, snapOf 0 0, by decide +kernel, by decide +kernel⟩,
    ⟨snapS { snapOf 0 0 with left := [0] }, _, 0, { snapOf 0 0 with left := [0] }, by decide +kernel, by decide +kernel, rfl⟩⟩

/-- The hypotheses of CheckingRuns can be met. -/
theorem witness_CheckingRuns :
    (∃ (s t : State) (r : Fin 4) (twin kind : Nat) (d : Dup) (l : List Dup), ∃ wrong, ((s.region r).queue twin kind = d :: l) ∧ (t = (s.updRegion r fun q => { q with dups := q.dups.erase d }).dupCount r kind) ∧ (crc64 (d.unit.replay wrong) = d.unit.digest)) ∧
    (∃ (s t : State) (r : Fin 4) (twin kind : Nat) (d : Dup) (l : List Dup), ∃ wrong, ((s.region r).queue twin kind = d :: l) ∧ (t = (s.updRegion r fun q => { q with dups := q.dups.erase d }).dupCount r kind) ∧ (crc64 (d.unit.replay wrong) ≠ d.unit.digest)) ∧
    (∃ (s : State) (r : Fin 4) (d : Dup), (s.fget (RGN_DUP_LOG_VALID r) = 1) ∧ (d.worker < 42)) ∧
    (∃ (s : State) (r : Fin 4), (s.running (s.regionPart r) = true) ∧ (s.rotationDue r = true) ∧ (s.fget (RGN_TWIN_PHASE_TWIN0_PHASE r) = 2) ∧ (s.booked (s.regionPart r) 1 r = none) ∧ ((s.region r).handover = none)) ∧
    (∃ (s : State) (r : Fin 4) (k : Nat), ((s.region r).handover = some k)) ∧
    (∃ (s : State) (r : Fin 4) (k : Fin 40), (s.fget (RGN_TWIN_IDS_TWIN1 r) ≠ 0x3F)) ∧
    (∃ (s : State) (r : Fin 4) (k : Fin 40), (s.fget (RGN_TWIN_IDS_TWIN1 r) = 0x3F)) ∧
    (∃ (s : State) (r : Fin 4) (k : Fin 40), ∃ (j : Fin 40), (j ≠ k)) ∧
    (∃ (s : State) (r : Fin 4) (core : Nat) (stored : List Nat) (outs : List (List Byte)), (mget? (s.region r).suites core = some stored) ∧ (s.testing (s.regionPart r) = false) ∧ (outs.map crc64 = stored)) ∧
    (∃ (s : State) (r : Fin 4) (core : Nat) (stored : List Nat) (outs : List (List Byte)), (mget? (s.region r).suites core = some stored) ∧ (s.testing (s.regionPart r) = false) ∧ (outs.map crc64 ≠ stored)) ∧
    (∃ (s : State) (r : Fin 4) (core : Nat) (stored : List Nat) (outs : List (List Byte)), ∃ (t : State), (mget? (s.region r).suites core = some stored) ∧ (s.testing (s.regionPart r) = true) ∧ (t = (if outs.map crc64 = stored then s.suitePass r core else s.suiteFail r core))) :=
  ⟨⟨run.updRegion 0 fun q => { q with dups := [dup] }, _, 0, 0, 0, dup, [], [], by decide +kernel, rfl, by decide +kernel⟩,
    ⟨run.updRegion 0 fun q => { q with dups := [{ dup with unit := ⟨[], [], 1⟩ }] }, _, 0, 0, 0, { dup with unit := ⟨[], [], 1⟩ }, [], [], by decide +kernel, rfl, by decide +kernel⟩,
    ⟨run.fset (RGN_DUP_LOG_VALID 0) 1, 0, dup, by decide +kernel, by decide +kernel⟩,
    ⟨run.fsets [(RGN_TWIN_PHASE_TWIN0_PHASE 0, 2), (RGN_TWIN_PHASE_SINCE_S 0, 1800)], 0, by decide +kernel, by decide +kernel, by decide +kernel, by decide +kernel, by decide +kernel⟩,
    ⟨run.updRegion 0 fun q => { q with handover := some 3 }, 0, 3, by decide +kernel⟩,
    ⟨run.fset (RGN_TWIN_IDS_TWIN1 0) 41, 0, 39, by decide +kernel⟩,
    ⟨run.fset (RGN_TWIN_IDS_TWIN1 0) 0x3F, 0, 0, by decide +kernel⟩,
    ⟨run, 0, 0, 39, by decide +kernel⟩,
    ⟨run.updRegion 0 fun q => { q with suites := [(63, [0])] }, 0, 63, [0], [[]], by decide +kernel, by decide +kernel, by decide +kernel⟩,
    ⟨run.updRegion 0 fun q => { q with suites := [(63, [0])] }, 0, 63, [0], [], by decide +kernel, by decide +kernel, by decide +kernel⟩,
    ⟨run.updRegion 0 fun q => { q with suites := [(0, [0])] }, 0, 0, [0], [[]], _, by decide +kernel, by decide +kernel, rfl⟩⟩

/-- The hypotheses of LinkTrains can be met. -/
theorem witness_LinkTrains :
    (∃ (s t : State) (data : List Byte) (h : GlkHead), (s.fget GLK_STAT_STATE = 1) ∧ (s.glk.capsSeen = false) ∧ (s.glk.follows h = true) ∧ (headMgmt h = true) ∧ (headFits h data.length = true) ∧ (t = (s.glkTake h (slotsOf data.length)).tick.updGlk (fun g => { g with capsSeen := true, seqTx := 2 }))) ∧
    (∃ (s r t : State) (lanes : Nat) (credits : List Nat) (h : GlkHead), (s.fget GLK_STAT_STATE = 1) ∧ (s.glk.capsSeen = true) ∧ (lanes < 65536) ∧ (s.glk.follows h = true) ∧ (headMgmt h = true) ∧ (r = s.glkTake h (slotsOf (headBytes h))) ∧ (glkLanes lanes < r.glk.minLanes ∨ (∃ c ∈ leastCredits, credits.getD c.1 0 < c.2))) ∧
    (∃ (s r t : State) (lanes : Nat) (credits : List Nat) (h : GlkHead), (s.fget GLK_STAT_STATE = 1) ∧ (s.glk.capsSeen = true) ∧ (lanes < 65536) ∧ (s.glk.follows h = true) ∧ (headMgmt h = true) ∧ (r = s.glkTake h (slotsOf (headBytes h))) ∧ (r.glk.minLanes ≤ glkLanes lanes) ∧ (∀ c ∈ leastCredits, c.2 ≤ credits.getD c.1 0) ∧ (t = ((r.fsets [(GLK_STAT_LANES_UP, lanes), (GLK_STAT_STATE, if glkLanes lanes = 16 then 2 else 3)]).updGlk fun g => { g with credits := (List.range 8).map fun c => (c, credits.getD c 0), lost := false }).glkDrain)) ∧
    (∃ (s : State) (data : List Byte) (h : GlkHead), (s.fget GLK_STAT_STATE = 1) ∧ (s.glk.follows h = true) ∧ (headMgmt h = false) ∧ (s.glk.capsSeen = false)) ∧
    (∃ (s : State) (data : List Byte) (h : GlkHead), ∃ (lanes : Nat) (credits : List Nat), (s.fget GLK_STAT_STATE = 1) ∧ (s.glk.follows h = true) ∧ (headMgmt h = false) ∧ (s.glk.capsSeen = true)) ∧
    (∃ (s : State), (s.fget GLK_STAT_STATE = 1)) ∧
    (∃ (s t : State) (h : GlkHead), (MsgComes s t h (slotsOf (headBytes h))) ∧ (headMgmt h = true)) ∧
    (∃ (s t : State) (h : GlkHead), (MsgComes s t h (slotsOf (headBytes h))) ∧ (headMgmt h = false)) ∧
    (∃ (s t : State) (data : List Byte) (h : GlkHead), (MsgComes s t h (slotsOf data.length)) ∧ (headMgmt h = true) ∧ (headFits h data.length = true)) :=
  ⟨⟨glk1, _, [1, 2, 3, 4, 5, 6, 7, 8], hd 1, by decide +kernel, by decide +kernel, by decide +kernel, by decide +kernel, by decide +kernel, rfl⟩,
    ⟨glk1.updGlk fun g => { g with capsSeen := true, minLanes := 4 }, _, run, 7, [], hd 1, by decide +kernel, by decide +kernel, by decide +kernel, by decide +kernel, by decide +kernel, rfl, by decide +kernel⟩,
    ⟨glk1.updGlk fun g => { g with capsSeen := true, minLanes := 4 }, _, _, 15, [64, 0, 64, 256, 0, 16, 16, 8], hd 1, by decide +kernel, by decide +kernel, by decide +kernel, by decide +kernel, by decide +kernel, rfl, by decide +kernel, by decide +kernel, rfl⟩,
    ⟨glk1, [], hd 0, by decide +kernel, by decide +kernel, by decide +kernel, by decide +kernel⟩,
    ⟨glk1.updGlk fun g => { g with capsSeen := true }, [], hd 0, 0, [], by decide +kernel, by decide +kernel, by decide +kernel, by decide +kernel⟩,
    ⟨glk1, by decide +kernel⟩,
    ⟨glk2, _, hd 1, ⟨by decide +kernel, by decide +kernel, rfl⟩, by decide +kernel⟩,
    ⟨glk2, _, hd 0, ⟨by decide +kernel, by decide +kernel, rfl⟩, by decide +kernel⟩,
    ⟨glk2, _, [1, 2, 3, 4, 5, 6, 7, 8], hd 1, ⟨by decide +kernel, by decide +kernel, rfl⟩, by decide +kernel, by decide +kernel⟩⟩

/-- The hypotheses of LinkRuns can be met. -/
theorem witness_LinkRuns :
    (∃ (s : State), (s.glkUp = true) ∧ (s.glk.retraining = false)) ∧
    (∃ (s : State), ∃ (t : State), (s.glkUp = true) ∧ (t = (s.fadd GLK_CNT0_FEC_UNCORR 1).updGlk (fun g => { g with nakSent := true }))) ∧
    (∃ (s : State), ∃ (t : State), (s.glkUp = true) ∧ (t = (s.fadd GLK_CNT1_CRC_ERR 1).updGlk (fun g => { g with nakSent := true }))) ∧
    (∃ (s : State), ∃ (ack : Nat) (t : State), (s.glkUp = true) ∧ (t = s.updGlk (fun g => { g.acked ack with naks := (g.acked ack).naks + 1 })) ∧ (t.glk.naks < 8)) ∧
    (∃ (s : State), ∃ (ack : Nat) (t : State), (s.glkUp = true) ∧ (t = s.updGlk (fun g => { g.acked ack with naks := (g.acked ack).naks + 1 })) ∧ (8 ≤ t.glk.naks)) ∧
    (∃ (s : State), ∃ (ack cls n : Nat), (s.glkUp = true)) ∧
    (∃ (s : State), ∃ (lane : Fin 16), (s.glkUp = true) ∧ (s.glk.retraining = false) ∧ (s.glk.laneOut = none) ∧ (s.glkLaneDue = some lane.val)) ∧
    (∃ (s : State), ∃ (mask left : Nat), (s.glkUp = true) ∧ (mask < 65536) ∧ (left = maskMinus (s.fget GLK_STAT_LANES_UP) mask) ∧ (s.glk.laneOut = none) ∧ (left = 0 ∨ glkLanes left < s.glk.minLanes)) ∧
    (∃ (s : State), ∃ (mask left : Nat), (s.glkUp = true) ∧ (mask < 65536) ∧ (left = maskMinus (s.fget GLK_STAT_LANES_UP) mask) ∧ (s.glk.laneOut = none) ∧ (left ≠ 0) ∧ (s.glk.minLanes ≤ glkLanes left) ∧ (left ≠ s.fget GLK_STAT_LANES_UP)) ∧
    (∃ (s : State) (t : State), (s.glk.retraining = true) ∧ (t = (s.updGlk fun g => { g with retraining := false, retrainFails := 0 }).fset GLK_CTRL_RETRAIN 0) ∧ (s.glk.retrainFails < 2)) ∧
    (∃ (s : State) (t : State), (s.glk.retraining = true) ∧ (t = (s.updGlk fun g => { g with retraining := false, retrainFails := 0 }).fset GLK_CTRL_RETRAIN 0) ∧ (2 ≤ s.glk.retrainFails)) ∧
    (∃ (s t : State) (lane : Fin 16), (s.glk.laneOut = some lane.val) ∧ (t = (s.updGlk fun g => { g with laneOut := none, laneRetry := false }).fsetBit GLK_STAT_LANES_UP lane true) ∧ (s.glk.laneRetry = false)) ∧
    (∃ (s t : State) (lane : Fin 16), (s.glk.laneOut = some lane.val) ∧ (t = (s.updGlk fun g => { g with laneOut := none, laneRetry := false }).fsetBit GLK_STAT_LANES_UP lane true) ∧ (s.glk.laneRetry = true)) ∧
    (∃ (s t : State), (t = s.glkReplay)) ∧
    (∃ (s : State) (h : GlkHead) (slots : Nat) (ok : Bool) (k : State → State), (s.glk.follows h = false) ∧ (s.glk.nakSent = false) ∧ ((h.seq + 4096 - s.glk.seqRx) % 4096 < 2048)) ∧
    (∃ (s : State) (h : GlkHead) (slots : Nat) (ok : Bool) (k : State → State), (s.glk.follows h = false) ∧ (s.glk.nakSent = true)) ∧
    (∃ (g : Glk) (a b : List (Nat × GlkMsg)) (e : Nat × GlkMsg), (g.unacked = a ++ e :: b) ∧ (∀ x ∈ a, x.1 ≠ e.1)) :=
  ⟨⟨glk2, by decide +kernel, by decide +kernel⟩,
    ⟨glk2, _, by decide +kernel, rfl⟩,
    ⟨glk2, _, by decide +kernel, rfl⟩,
    ⟨glk2, 0, _, by decide +kernel, rfl, by decide +kernel⟩,
    ⟨glk2.updGlk fun g => { g with naks := 7 }, 0, _, by decide +kernel, rfl, by decide +kernel⟩,
    ⟨glk2, 0, 0, 0, by decide +kernel⟩,
    ⟨glk2, 0, by decide +kernel, by decide +kernel, by decide +kernel, by decide +kernel⟩,
    ⟨glk2.updGlk fun g => { g with minLanes := 4 }, 0xFFF8, _, by decide +kernel, by decide +kernel, rfl, by decide +kernel, by decide +kernel⟩,
    ⟨glk2.updGlk fun g => { g with minLanes := 4 }, 0xFFF0, _, by decide +kernel, by decide +kernel, rfl, by decide +kernel, by decide +kernel, by decide +kernel, by decide +kernel⟩,
    ⟨glk2.updGlk fun g => { g with retraining := true, retrainFails := 1 }, _, by decide +kernel, rfl, by decide +kernel⟩,
    ⟨glk2.updGlk fun g => { g with retraining := true, retrainFails := 2 }, _, by decide +kernel, rfl, by decide +kernel⟩,
    ⟨glk2.updGlk fun g => { g with laneOut := some 15, laneRetry := false }, _, 15, by decide +kernel, rfl, by decide +kernel⟩,
    ⟨glk2.updGlk fun g => { g with laneOut := some 15, laneRetry := true }, _, 15, by decide +kernel, rfl, by decide +kernel⟩,
    ⟨glk2, _, rfl⟩,
    ⟨glk2, ⟨5, 0, 0, 0, 0, 0, false⟩, 1, true, id, by decide +kernel, by decide +kernel, by decide +kernel⟩,
    ⟨glk2.updGlk fun g => { g with nakSent := true }, ⟨5, 0, 0, 0, 0, 0, false⟩, 1, true, id, by decide +kernel, by decide +kernel⟩,
    ⟨{ State.reset.glk with unacked := [(4095, .bare 0 0 0), (0, .bare 0 0 0), (1, .bare 0 0 0)] }, [(4095, .bare 0 0 0)], [(1, .bare 0 0 0)], (0, .bare 0 0 0), by decide +kernel, by decide +kernel⟩⟩

/-- The hypotheses of SnoopsAndAnswers can be met. -/
theorem witness_SnoopsAndAnswers :
    (∃ (s r t : State) (tag addr l : Nat) (h : GlkHead), ∃ j, (MsgComes s r h 1) ∧ (headFits h 0 = true) ∧ (addr % 128 = 0) ∧ (addr < 2 ^ 42) ∧ (l = addr / 128) ∧ (t = (((r.glkFree 1).fadd GLK_CACHE_CNT_SNOOPS 1).updGlk fun g => { g with shared := g.shared.filter (· != l), outst := g.outst.map fun o => if o.op = 0 ∧ lineOf o.pa = l then { o with snooped := true } else o }).glkPut (GlkMsg.bare 2 1 tag)) ∧ (j ≠ l)) ∧
    (∃ (s r t : State) (tag addr l : Nat) (h : GlkHead), ∃ o, (MsgComes s r h 1) ∧ (headFits h 0 = true) ∧ (addr % 128 = 0) ∧ (addr < 2 ^ 42) ∧ (l = addr / 128) ∧ (t = (((r.glkFree 1).fadd GLK_CACHE_CNT_SNOOPS 1).updGlk fun g => { g with shared := g.shared.filter (· != l), outst := g.outst.map fun o => if o.op = 0 ∧ lineOf o.pa = l then { o with snooped := true } else o }).glkPut (GlkMsg.bare 2 1 tag)) ∧ (o ∈ t.glk.outst) ∧ (o.op = 0) ∧ (lineOf o.pa = l)) ∧
    (∃ (s r t u : State) (tag : Nat) (data : List Byte) (phys : ReadUpset) (h : GlkHead) (o : Outst) (l : Nat), (MsgComes s r h (slotsOf data.length)) ∧ (headFits h data.length = true) ∧ (data.length = 128) ∧ (r.glk.request tag = some o) ∧ (o.isWrite = false) ∧ (l = lineOf o.pa) ∧ (t = { r.glkFree 3 with mem := r.mem.writeBytes (glkBase + 128 * l) data }) ∧ (u = (if o.op = 1 then t.updGlk fun g => { g with held := l :: g.held.filter (· != l) } else if o.snooped = true then t.updGlk fun g => { g with once := l :: g.once.filter (· != l) } else t.fillLine l)) ∧ (o.op ≠ 0) ∧ (o.owner ≠ .security .token)) ∧
    (∃ (s r t u : State) (tag : Nat) (data : List Byte) (phys : ReadUpset) (h : GlkHead) (o : Outst) (l : Nat), (MsgComes s r h (slotsOf data.length)) ∧ (headFits h data.length = true) ∧ (data.length = 128) ∧ (r.glk.request tag = some o) ∧ (o.isWrite = false) ∧ (l = lineOf o.pa) ∧ (t = { r.glkFree 3 with mem := r.mem.writeBytes (glkBase + 128 * l) data }) ∧ (u = (if o.op = 1 then t.updGlk fun g => { g with held := l :: g.held.filter (· != l) } else if o.snooped = true then t.updGlk fun g => { g with once := l :: g.once.filter (· != l) } else t.fillLine l)) ∧ (o.op ≠ 0) ∧ (o.owner = .security .token)) ∧
    (∃ (s r t u : State) (tag : Nat) (data : List Byte) (phys : ReadUpset) (h : GlkHead) (o : Outst) (l : Nat), (MsgComes s r h (slotsOf data.length)) ∧ (headFits h data.length = true) ∧ (data.length = 128) ∧ (r.glk.request tag = some o) ∧ (o.isWrite = false) ∧ (l = lineOf o.pa) ∧ (t = { r.glkFree 3 with mem := r.mem.writeBytes (glkBase + 128 * l) data }) ∧ (u = (if o.op = 1 then t.updGlk fun g => { g with held := l :: g.held.filter (· != l) } else if o.snooped = true then t.updGlk fun g => { g with once := l :: g.once.filter (· != l) } else t.fillLine l)) ∧ (o.op = 0) ∧ (o.snooped = true)) ∧
    (∃ (s r t u : State) (tag : Nat) (data : List Byte) (phys : ReadUpset) (h : GlkHead) (o : Outst) (l : Nat), (MsgComes s r h (slotsOf data.length)) ∧ (headFits h data.length = true) ∧ (data.length = 128) ∧ (r.glk.request tag = some o) ∧ (o.isWrite = false) ∧ (l = lineOf o.pa) ∧ (t = { r.glkFree 3 with mem := r.mem.writeBytes (glkBase + 128 * l) data }) ∧ (u = (if o.op = 1 then t.updGlk fun g => { g with held := l :: g.held.filter (· != l) } else if o.snooped = true then t.updGlk fun g => { g with once := l :: g.once.filter (· != l) } else t.fillLine l)) ∧ (o.op = 1)) ∧
    (∃ (s r t : State) (tag : Nat) (h : GlkHead) (o : Outst), (MsgComes s r h 1) ∧ (headFits h 0 = true) ∧ (r.glk.request tag = some o) ∧ (o.isWrite = true) ∧ (t = (r.glkFree 2).updGlk (fun g => { g with irqs := g.irqs.map fun w => if w.tag = some tag then { w with tag := none } else w }))) ∧
    (∃ (s r : State) (tag reason : Nat) (h : GlkHead) (o : Outst), (MsgComes s r h 1) ∧ (headFits h 0 = true) ∧ (8 ≤ reason) ∧ (reason ≤ 10) ∧ (r.glk.request tag = some o)) ∧
    (∃ (s : State) (tag : Nat) (o : Outst), (s.glk.request tag = some o)) ∧
    (∃ (s r : State) (tag : Nat) (h : GlkHead), ∃ (data : List Byte) (phys : ReadUpset), (r.glk.request tag = none) ∧ (MsgComes s r h (slotsOf data.length)) ∧ (headFits h data.length = true) ∧ (data.length = 128)) ∧
    (∃ (s r : State) (tag : Nat) (h : GlkHead), (r.glk.request tag = none) ∧ (MsgComes s r h 1) ∧ (headFits h 0 = true)) ∧
    (∃ (s r : State) (tag addr reason : Nat) (h : GlkHead), (MsgComes s r h 1) ∧ (headFits h 0 = false ∨ addr % 128 ≠ 0)) ∧
    (∃ (s r : State) (tag addr reason : Nat) (h : GlkHead), (MsgComes s r h 1) ∧ (headFits h 0 = false)) ∧
    (∃ (s r : State) (tag addr reason : Nat) (h : GlkHead), (MsgComes s r h 1) ∧ (headFits h 0 = false ∨ reason < 8 ∨ 10 < reason)) ∧
    (∃ (s : State) (m : GlkMsg), (mgetD s.glk.credits m.cls 0 = 0)) :=
  ⟨⟨glk2, _, _, 3, 128, _, hd 0, 0, ⟨by decide +kernel, by decide +kernel, rfl⟩, by decide +kernel, by decide +kernel, by decide +kernel, rfl, rfl, by decide +kernel⟩,
    ⟨glkReq (req 0 false (.fetch 0)), _, _, 3, 128, _, hd 0, { req 0 false (.fetch 0) with snooped := true }, ⟨by decide +kernel, by decide +kernel, rfl⟩, by decide +kernel, by decide +kernel, by decide +kernel, rfl, rfl, by decide +kernel, by decide +kernel, by decide +kernel⟩,
    ⟨glkReq (req 1 false (.desc 0 1)), _, _, _, 7, List.replicate 128 1, [], hd 5, req 1 false (.desc 0 1), _, ⟨by decide +kernel, by decide +kernel, rfl⟩, by decide +kernel, by decide +kernel, by decide +kernel, by decide +kernel, rfl, rfl, rfl, by decide +kernel, by decide +kernel⟩,
    ⟨glkReq (req 1 false (.security .token)), _, _, _, 7, List.replicate 128 1, [], hd 5, req 1 false (.security .token), _, ⟨by decide +kernel, by decide +kernel, rfl⟩, by decide +kernel, by decide +kernel, by decide +kernel, by decide +kernel, rfl, rfl, rfl, by decide +kernel, by decide +kernel⟩,
    ⟨glkReq (req 0 true (.fetch 0)), _, _, _, 7, List.replicate 128 1, [], hd 5, req 0 true (.fetch 0), _, ⟨by decide +kernel, by decide +kernel, rfl⟩, by decide +kernel, by decide +kernel, by decide +kernel, by decide +kernel, rfl, rfl, rfl, by decide +kernel, by decide +kernel⟩,
    ⟨glkReq (req 1 false (.desc 0 1)), _, _, _, 7, List.replicate 128 1, [], hd 5, req 1 false (.desc 0 1), _, ⟨by decide +kernel, by decide +kernel, rfl⟩, by decide +kernel, by decide +kernel, by decide +kernel, by decide +kernel, rfl, rfl, rfl, by decide +kernel⟩,
    ⟨glkReq (req 3 false .resync), _, _, 7, hd 0, req 3 false .resync, ⟨by decide +kernel, by decide +kernel, rfl⟩, by decide +kernel, by decide +kernel, by decide +kernel, rfl⟩,
    ⟨glkReq (req 1 false .resync), _, 7, 8, hd 0, req 1 false .resync, ⟨by decide +kernel, by decide +kernel, rfl⟩, by decide +kernel, by decide +kernel, by decide +kernel, by decide +kernel⟩,
    ⟨glkReq (req 1 false .resync), 7, req 1 false .resync, by decide +kernel⟩,
    ⟨glk2, _, 7, hd 5, List.replicate 128 1, [], by decide +kernel, ⟨by decide +kernel, by decide +kernel, rfl⟩, by decide +kernel, by decide +kernel⟩,
    ⟨glk2, _, 7, hd 0, by decide +kernel, ⟨by decide +kernel, by decide +kernel, rfl⟩, by decide +kernel⟩,
    ⟨glk2, _, 7, 5, 0, hd 0, ⟨by decide +kernel, by decide +kernel, rfl⟩, by decide +kernel⟩,
    ⟨glk2, _, 7, 0, 0, hd 1, ⟨by decide +kernel, by decide +kernel, rfl⟩, by decide +kernel⟩,
    ⟨glk2, _, 7, 0, 7, hd 0, ⟨by decide +kernel, by decide +kernel, rfl⟩, by decide +kernel⟩,
    ⟨glk2, .bare 2 1 3, by decide +kernel⟩⟩

/-- The hypotheses of CompanionAccess can be met. -/
theorem witness_CompanionAccess :
    (∃ (s r t : State) (tag a size : Nat) (phys : ReadUpset) (h : GlkHead), ∃ e, (MsgComes s r h 1) ∧ (h.rsv = false) ∧ (h.size ≤ 5) ∧ (r.glk.behindSnoop = false) ∧ (r.inHandover a = false) ∧ (t = r.glkFree 0) ∧ (target a = .registers) ∧ (t.regError a size false = some e)) ∧
    (∃ (s r t : State) (tag a size : Nat) (phys : ReadUpset) (h : GlkHead), (MsgComes s r h 1) ∧ (h.rsv = false) ∧ (h.size ≤ 5) ∧ (r.glk.behindSnoop = false) ∧ (r.inHandover a = false) ∧ (t = r.glkFree 0) ∧ (target a = .registers) ∧ (t.regError a size false = none)) ∧
    (∃ (s r t : State) (tag a size : Nat) (phys : ReadUpset) (h : GlkHead), ∃ e, (MsgComes s r h 1) ∧ (h.rsv = false) ∧ (h.size ≤ 5) ∧ (r.glk.behindSnoop = false) ∧ (r.inHandover a = false) ∧ (t = r.glkFree 0) ∧ (target a ≠ .registers) ∧ (t.memError a size false = some e)) ∧
    (∃ (s r t : State) (tag a size : Nat) (phys : ReadUpset) (h : GlkHead), ∃ u, (MsgComes s r h 1) ∧ (h.rsv = false) ∧ (h.size ≤ 5) ∧ (r.glk.behindSnoop = false) ∧ (r.inHandover a = false) ∧ (t = r.glkFree 0) ∧ (target a ≠ .registers) ∧ (t.memError a size false = none) ∧ (wordStruck phys a size = none) ∧ ((t.strike phys).readRanges [(a, size)] = (u, true))) ∧
    (∃ (s r t : State) (tag a size : Nat) (phys : ReadUpset) (h : GlkHead), ∃ u, (MsgComes s r h 1) ∧ (h.rsv = false) ∧ (h.size ≤ 5) ∧ (r.glk.behindSnoop = false) ∧ (r.inHandover a = false) ∧ (t = r.glkFree 0) ∧ (target a ≠ .registers) ∧ (t.memError a size false = none) ∧ (wordStruck phys a size = none) ∧ ((t.strike phys).readRanges [(a, size)] = (u, false))) ∧
    (∃ (s r : State) (tag a size : Nat) (data : List Byte) (phys : ReadUpset) (h : GlkHead), (r.glk.behindSnoop = false) ∧ (r.fatal = false) ∧ (r.inHandover a = true) ∧ (MsgComes s r h 1) ∧ (h.rsv = false) ∧ (h.size ≤ 5)) ∧
    (∃ (s r : State) (tag a size : Nat) (data : List Byte) (phys : ReadUpset) (h : GlkHead), (r.glk.behindSnoop = false) ∧ (r.fatal = false) ∧ (r.inHandover a = true) ∧ (MsgComes s r h (1 + slotsOf data.length)) ∧ (headFits h data.length = true)) ∧
    (∃ (s r : State) (tag a size : Nat) (data : List Byte) (phys : ReadUpset) (h : GlkHead), (r.glk.behindSnoop = true) ∧ (MsgComes s r h 1) ∧ (h.rsv = false) ∧ (h.size ≤ 5)) ∧
    (∃ (s r : State) (tag a size : Nat) (data : List Byte) (phys : ReadUpset) (h : GlkHead), (r.glk.behindSnoop = true) ∧ (MsgComes s r h (1 + slotsOf data.length)) ∧ (headFits h data.length = true)) ∧
    (∃ (s r t : State) (tag a : Nat) (data : List Byte) (phys : ReadUpset) (h : GlkHead), ∃ u, (MsgComes s r h (1 + slotsOf data.length)) ∧ (headFits h data.length = true) ∧ (r.glk.behindSnoop = false) ∧ (r.inHandover a = false) ∧ (t = (r.glkFree 0).glkFree 3) ∧ (target a = .registers) ∧ (t.regWrite a data.length (leNat data) = (u, none))) ∧
    (∃ (s r t : State) (tag a : Nat) (data : List Byte) (phys : ReadUpset) (h : GlkHead), ∃ u e, (MsgComes s r h (1 + slotsOf data.length)) ∧ (headFits h data.length = true) ∧ (r.glk.behindSnoop = false) ∧ (r.inHandover a = false) ∧ (t = (r.glkFree 0).glkFree 3) ∧ (target a = .registers) ∧ (t.regWrite a data.length (leNat data) = (u, some e))) ∧
    (∃ (s r t : State) (tag a : Nat) (data : List Byte) (phys : ReadUpset) (h : GlkHead), ∃ e, (MsgComes s r h (1 + slotsOf data.length)) ∧ (headFits h data.length = true) ∧ (r.glk.behindSnoop = false) ∧ (r.inHandover a = false) ∧ (t = (r.glkFree 0).glkFree 3) ∧ (target a ≠ .registers) ∧ (t.memError a data.length true = some e)) ∧
    (∃ (s r t : State) (tag a : Nat) (data : List Byte) (phys : ReadUpset) (h : GlkHead), ∃ u, (MsgComes s r h (1 + slotsOf data.length)) ∧ (headFits h data.length = true) ∧ (r.glk.behindSnoop = false) ∧ (r.inHandover a = false) ∧ (t = (r.glkFree 0).glkFree 3) ∧ (target a ≠ .registers) ∧ (t.memError a data.length true = none) ∧ ((t.strike phys).writeRange a data.length = (u, none))) ∧
    (∃ (s r t : State) (tag a : Nat) (data : List Byte) (phys : ReadUpset) (h : GlkHead), ∃ u sec, (MsgComes s r h (1 + slotsOf data.length)) ∧ (headFits h data.length = true) ∧ (r.glk.behindSnoop = false) ∧ (r.inHandover a = false) ∧ (t = (r.glkFree 0).glkFree 3) ∧ (target a ≠ .registers) ∧ (t.memError a data.length true = none) ∧ ((t.strike phys).writeRange a data.length = (u, some sec))) ∧
    (∃ (s : State) (a size : Nat) (write : Bool), (target a = .unmapped ∨ target a = .companion) ∧ (s.fatal = false)) ∧
    (∃ (s : State) (a size : Nat) (write : Bool), (s.fatal = true)) ∧
    (∃ (s : State) (a size : Nat) (write : Bool), (s.fatal = false) ∧ (target a = .dram) ∧ (s.dramRefuses a = false)) :=
  ⟨⟨glk2, _, _, 5, BEAT_PERIOD 0, 2, [], hd 1, _, ⟨by decide +kernel, by decide +kernel, rfl⟩, by decide +kernel, by decide +kernel, by decide +kernel, by decide +kernel, rfl, by decide +kernel, some_eq _ (by decide +kernel)⟩,
    ⟨glk2, _, _, 5, BEAT_PERIOD 0, 8, [], hd 1, ⟨by decide +kernel, by decide +kernel, rfl⟩, by decide +kernel, by decide +kernel, by decide +kernel, by decide +kernel, rfl, by decide +kernel, by decide +kernel⟩,
    ⟨glk2, _, _, 5, 2 ^ 42, 64, [], hd 1, _, ⟨by decide +kernel, by decide +kernel, rfl⟩, by decide +kernel, by decide +kernel, by decide +kernel, by decide +kernel, rfl, by decide +kernel, some_eq _ (by decide +kernel)⟩,
    ⟨glk2, _, _, 5, 0, 64, [], hd 1, _, ⟨by decide +kernel, by decide +kernel, rfl⟩, by decide +kernel, by decide +kernel, by decide +kernel, by decide +kernel, rfl, by decide +kernel, by decide +kernel, by decide +kernel, fst_eq _ (by decide +kernel)⟩,
    ⟨glk2, _, _, 5, 0, 64, [(0, [(0, 1), (1, 1)])], hd 1, _, ⟨by decide +kernel, by decide +kernel, rfl⟩, by decide +kernel, by decide +kernel, by decide +kernel, by decide +kernel, rfl, by decide +kernel, by decide +kernel, by decide +kernel, fst_eq _ (by decide +kernel)⟩,
    ⟨glkHand, _, 5, sramBase, 8, [], [], hd 1, by decide +kernel, by decide +kernel, by decide +kernel, ⟨by decide +kernel, by decide +kernel, rfl⟩, by decide +kernel, by decide +kernel⟩,
    ⟨glkHand, _, 5, sramBase, 8, List.replicate 8 1, [], hd 1, by decide +kernel, by decide +kernel, by decide +kernel, ⟨by decide +kernel, by decide +kernel, rfl⟩, by decide +kernel⟩,
    ⟨glkLate, _, 5, sramBase, 8, [], [], hd 1, by decide +kernel, ⟨by decide +kernel, by decide +kernel, rfl⟩, by decide +kernel, by decide +kernel⟩,
    ⟨glkLate, _, 5, sramBase, 8, List.replicate 8 1, [], hd 1, by decide +kernel, ⟨by decide +kernel, by decide +kernel, rfl⟩, by decide +kernel⟩,
    ⟨glk2, _, _, 5, BEAT_GUARD 0, natLe 8 5, [], hd 1, _, ⟨by decide +kernel, by decide +kernel, rfl⟩, by decide +kernel, by decide +kernel, by decide +kernel, rfl, by decide +kernel, none_eq _ (by decide +kernel)⟩,
    ⟨glk2, _, _, 5, BEAT_GUARD 0, [0], [], hd 1, _, _, ⟨by decide +kernel, by decide +kernel, rfl⟩, by decide +kernel, by decide +kernel, by decide +kernel, rfl, by decide +kernel, pairSome_eq _ (by decide +kernel)⟩,
    ⟨glk2, _, _, 5, 2 ^ 42, List.replicate 128 1, [], hd 5, _, ⟨by decide +kernel, by decide +kernel, rfl⟩, by decide +kernel, by decide +kernel, by decide +kernel, rfl, by decide +kernel, some_eq _ (by decide +kernel)⟩,
    ⟨glk2, _, _, 5, 0, List.replicate 64 1, [(0, [(0, 1), (1, 1)])], hd 4, _, ⟨by decide +kernel, by decide +kernel, rfl⟩, by decide +kernel, by decide +kernel, by decide +kernel, rfl, by decide +kernel, by decide +kernel, none_eq _ (by decide +kernel)⟩,
    ⟨glk2, _, _, 5, 0, List.replicate 8 1, [(0, [(0, 1), (1, 1)])], hd 1, _, _, ⟨by decide +kernel, by decide +kernel, rfl⟩, by decide +kernel, by decide +kernel, by decide +kernel, rfl, by decide +kernel, by decide +kernel, pairSome_eq _ (by decide +kernel)⟩,
    ⟨glk2, 2 ^ 42, 8, true, by decide +kernel, by decide +kernel⟩,
    ⟨glk2.fset HUB_DEVFAULT_FATAL 1, 0, 8, true, by decide +kernel⟩,
    ⟨glk2, 0, 64, true, by decide +kernel, by decide +kernel, by decide +kernel⟩⟩

/-- The hypotheses of MailboxesRun can be met. -/
theorem witness_MailboxesRun :
    (∃ (s : State) (c word : Nat), ∃ (r : State) (h : GlkHead), (companionChannel c = true) ∧ (MsgComes s r h 2) ∧ (headFits h 8 = true) ∧ (r.glk.behindSnoop = false)) ∧
    (∃ (s : State) (c word : Nat), ∃ (r : State) (h : GlkHead), (companionChannel c = true) ∧ (MsgComes s r h 2) ∧ (headFits h 8 = true) ∧ (r.glk.behindSnoop = true)) ∧
    (∃ (s : State) (e : Fin 4) (c word : Nat), (sendDir (.opticalEngine e) c = none) ∧ (s.inReset (.opticalEngine e) = false)) ∧
    (∃ (s : State) (e : Endpoint) (c word : Nat) (d : Dir), (sendDir e c = some d) ∧ (e ≠ .companion) ∧ (s.inReset e = false)) ∧
    (∃ (s : State) (c word stamp : Nat) (d : Dir), (s.inReset (receiver c d) = true)) ∧
    (∃ (s : State) (c word stamp : Nat) (d : Dir), (s.inReset (receiver c d) = false) ∧ (16 ≤ ((s.chan c).queue d).length)) ∧
    (∃ (s : State) (c word stamp : Nat) (d : Dir), ∃ c' d', (s.inReset (receiver c d) = false) ∧ (((s.chan c).queue d).length < 16) ∧ ((c', d') ≠ (c, d))) ∧
    (∃ (s : State) (c w stamp : Nat) (l : List (Nat × Nat)), ((s.chan c).toA = (w, stamp) :: l) ∧ (companionChannel c = true) ∧ (s.glkUp = true) ∧ (s.glk.canSend 6 = true)) ∧
    (∃ (s : State) (c : Nat) (d : Dir), (mbxChannelExists c = true) ∧ (receiver c d ≠ .companion) ∧ (s.inReset (receiver c d) = false) ∧ (s.mboxHeld c = false)) ∧
    (∃ (s t : State) (c : Nat) (d : Dir) (x : Nat × Nat) (l : List (Nat × Nat)), ((s.chan c).queue d = x :: l) ∧ (t = s.updChan c (fun q => q.setQueue d l))) ∧
    (∃ (s : State) (c : Nat) (d : Dir), (mbxChannelExists c = true) ∧ ((s.chan c).queue d ≠ []) ∧ (s.mboxLimit c d ≠ some 0)) ∧
    (∃ (s : State) (e : Endpoint), (e ≠ .companion)) :=
  ⟨⟨glk2, 0, 5, _, hd 1, by decide +kernel, ⟨by decide +kernel, by decide +kernel, rfl⟩, by decide +kernel, by decide +kernel⟩,
    ⟨glkLate, 0, 5, _, hd 1, by decide +kernel, ⟨by decide +kernel, by decide +kernel, rfl⟩, by decide +kernel, by decide +kernel⟩,
    ⟨{ glk2.fset (FAB_OE_STATE 0) 2 with epReset := [] }, 0, 64, 5, by decide +kernel, by decide +kernel⟩,
    ⟨glk2, .controlCore 0 0, 64, 5, .toA, by decide +kernel, by decide +kernel, by decide +kernel⟩,
    ⟨run, 64, 5, 0, .toA, by decide +kernel⟩,
    ⟨glk2.updChan 64 fun q => { q with toA := List.replicate 16 (0, 0) }, 64, 5, 0, .toA, by decide +kernel, by decide +kernel⟩,
    ⟨glk2.updChan 64 fun q => { q with toA := List.replicate 15 (0, 0) }, 64, 5, 0, .toA, 65, .toA, by decide +kernel, by decide +kernel, by decide +kernel⟩,
    ⟨(glk2.updChan 64 fun q => { q with toA := [(5, 0)] }).updGlk fun g => { g with credits := [(6, 1)] }, 64, 5, 0, [], by decide +kernel, by decide +kernel, by decide +kernel, by decide +kernel⟩,
    ⟨run, 64, .toB, by decide +kernel, by decide +kernel, by decide +kernel, by decide +kernel⟩,
    ⟨run.updChan 64 fun q => { q with toB := [(5, 0)] }, _, 64, .toB, (5, 0), [], by decide +kernel, rfl⟩,
    ⟨(run.updChan 64 fun q => { q with toB := [(5, 0)] }).fset (MBX_CFG_TIMEOUT_US 64) 5, 64, .toB, by decide +kernel, by decide +kernel, by decide +kernel⟩,
    ⟨run, .nutcracker, by decide +kernel⟩⟩

/-- The hypotheses of SectorCode can be met. -/
theorem witness_SectorCode :
    (∃ (i : Nat) (v : Byte), (i < 68) ∧ (v ≠ 0)) ∧
    (∃ (i j : Nat) (v w : Byte), (i < 68) ∧ (j < 68) ∧ (i ≠ j) ∧ (v ≠ 0) ∧ (w ≠ 0)) ∧
    (∃ (i j k : Nat) (v w x : Byte), (i < 68) ∧ (j < 68) ∧ (k < 68) ∧ (i ≠ j) ∧ (i ≠ k) ∧ (j ≠ k) ∧ (v ≠ 0) ∧ (w ≠ 0) ∧ (x ≠ 0)) :=
  ⟨⟨67, 255, by decide +kernel, by decide +kernel⟩,
    ⟨0, 67, 1, 255, by decide +kernel, by decide +kernel, by decide +kernel, by decide +kernel, by decide +kernel⟩,
    ⟨0, 1, 67, 1, 1, 255, by decide +kernel, by decide +kernel, by decide +kernel, by decide +kernel, by decide +kernel, by decide +kernel, by decide +kernel, by decide +kernel, by decide +kernel⟩⟩

/-- The hypotheses of MemoryAndDies can be met. -/
theorem witness_MemoryAndDies :
    (∃ (s t : State) (m : Fin 12) (addr a : Nat) (errs : List (Nat × Byte)), (s.stackUp m = true) ∧ (addr = (s.stack m).scrub * 64) ∧ ((s.stack m).outPc.contains (pcOf addr) = false) ∧ (a = dpaOfStack s.layout m addr) ∧ (t = s.strike [(a, errs)]) ∧ (sectorDecode (t.errsAt a) ≠ .uncorrectable)) ∧
    (∃ (s t : State) (m : Fin 12) (addr a : Nat) (errs : List (Nat × Byte)), (s.stackUp m = true) ∧ (addr = (s.stack m).scrub * 64) ∧ ((s.stack m).outPc.contains (pcOf addr) = false) ∧ (a = dpaOfStack s.layout m addr) ∧ (t = s.strike [(a, errs)]) ∧ (sectorDecode (t.errsAt a) = .uncorrectable) ∧ ((t.region (m / 3)).bad.contains a = true)) ∧
    (∃ (s t : State) (m : Fin 12) (addr a : Nat) (errs : List (Nat × Byte)), ∃ u, (s.stackUp m = true) ∧ (addr = (s.stack m).scrub * 64) ∧ ((s.stack m).outPc.contains (pcOf addr) = false) ∧ (a = dpaOfStack s.layout m addr) ∧ (t = s.strike [(a, errs)]) ∧ (sectorDecode (t.errsAt a) = .uncorrectable) ∧ ((t.region (m / 3)).bad.contains a = false) ∧ (u = (t.logUncorr a true).raise (partOfDram t.layout a) .memUncorr (t.uncorrCause a))) ∧
    (∃ (s : State) (m : Fin 12) (errs : List (Nat × Byte)), (s.stackUp m = true) ∧ ((s.stack m).outPc.contains (pcOf ((s.stack m).scrub * 64)) = true)) ∧
    (∃ (s t : State) (m : Nat), (t = s.scrubOn m) ∧ (((s.stack m).scrub + 1) * 64 < stackSize)) ∧
    (∃ (s t : State) (m : Nat), (t = s.scrubOn m) ∧ (stackSize ≤ ((s.stack m).scrub + 1) * 64)) ∧
    (∃ (s : State) (m : Fin 12), (s.stackUp m = true) ∧ ((s.stack m).pass = none) ∧ (s.passDue m = true) ∧ ((s.partsOfStack m).filter s.running = []) ∧ (s.passRuns (m / 3) = false)) ∧
    (∃ (s : State) (m : Fin 12), (s.stackUp m = true) ∧ ((s.stack m).pass = none) ∧ (s.passDue m = true) ∧ ((s.partsOfStack m).filter s.running = []) ∧ (s.passRuns (m / 3) = true)) ∧
    (∃ (s : State) (m : Fin 12), ∃ p ps, (s.stackUp m = true) ∧ ((s.stack m).pass = none) ∧ (s.passDue m = true) ∧ ((s.partsOfStack m).filter s.running = p :: ps)) ∧
    (∃ (s : State) (m : Fin 12) (v : Nat), ∃ i, ((s.stack m).pass = some v) ∧ ((s.stack m).visit = none) ∧ (nextVisit (s.stack m) v = some i)) ∧
    (∃ (s : State) (m : Fin 12) (v : Nat), ((s.stack m).pass = some v) ∧ ((s.stack m).visit = none) ∧ (nextVisit (s.stack m) v = none)) ∧
    (∃ (s : State) (m : Fin 12) (i : Nat) (spare : Bool), ((s.stack m).visit = some i) ∧ ((s.stack m).retry = false)) ∧
    (∃ (s : State) (m : Fin 12) (i : Nat) (spare : Bool), ((s.stack m).visit = some i) ∧ ((s.stack m).retry = true)) ∧
    (∃ (s : State) (d : Fin 4), (s.isolated d = false)) ∧
    (∃ (s : State) (d : Fin 4), (s.isolated d = true)) ∧
    (∃ (s : State) (m : DieLink) (a b : Nat), (s.gated m = false) ∧ (a < 16) ∧ (b ≤ 65536)) ∧
    (∃ (s : State) (m : DieLink) (a b : Nat), (s.gated m = false) ∧ (16 ≤ a ∨ 65536 < b) ∧ (s.retraining.contains m = false)) ∧
    (∃ (s t : State) (m : DieLink), (s.retraining.contains m = true) ∧ (t = { s with retraining := s.retraining.filter (· != m) })) :=
  ⟨⟨memUp, _, 0, _, _, [], by decide +kernel, rfl, by decide +kernel, rfl, rfl, by decide +kernel⟩,
    ⟨memUp.updRegion 0 fun q => { q with bad := [a0] }, _, 0, _, _, [(0, 1), (1, 1)], by decide +kernel, rfl, by decide +kernel, rfl, rfl, by decide +kernel, by decide +kernel⟩,
    ⟨memUp, _, 0, _, _, [(0, 1), (1, 1)], _, by decide +kernel, rfl, by decide +kernel, rfl, rfl, by decide +kernel, by decide +kernel, rfl⟩,
    ⟨memUp.updStack 0 fun q => { q with outPc := [0] }, 0, [], by decide +kernel, by decide +kernel⟩,
    ⟨memUp, _, 0, rfl, by decide +kernel⟩,
    ⟨memUp.updStack 0 fun q => { q with scrub := stackSize / 64 - 1 }, _, 0, rfl, by decide +kernel⟩,
    ⟨memIdle.updStack 0 fun q => { q with since := 2 ^ 32 }, 0, by decide +kernel, by decide +kernel, by decide +kernel, by decide +kernel, by decide +kernel⟩,
    ⟨(memIdle.updStack 0 fun q => { q with since := 2 ^ 32 }).updStack 1 fun q => { q with pass := some 0 }, 0, by decide +kernel, by decide +kernel, by decide +kernel, by decide +kernel, by decide +kernel⟩,
    ⟨memUp.updStack 0 fun q => { q with since := 2 ^ 32 }, 0, 0, [], by decide +kernel, by decide +kernel, by decide +kernel, by decide +kernel⟩,
    ⟨memUp.updStack 0 fun q => { q with pass := some 63 }, 0, 63, 63, by decide +kernel, by decide +kernel, by decide +kernel⟩,
    ⟨memUp.updStack 0 fun q => { q with pass := some 64 }, 0, 64, by decide +kernel, by decide +kernel, by decide +kernel⟩,
    ⟨memUp.updStack 0 fun q => { q with visit := some 63 }, 0, 63, true, by decide +kernel, by decide +kernel⟩,
    ⟨memUp.updStack 0 fun q => { q with visit := some 63, retry := true }, 0, 63, true, by decide +kernel, by decide +kernel⟩,
    ⟨run, 3, by decide +kernel⟩,
    ⟨run.fset HUB_DIE_STAT_DIE 0x1000, 3, by decide +kernel⟩,
    ⟨run, .hub 0 11, 15, 65536, by decide +kernel, by decide +kernel, by decide +kernel⟩,
    ⟨run, .hub 0 11, 16, 0, by decide +kernel, by decide +kernel, by decide +kernel⟩,
    ⟨{ run with retraining := [.bridge 3 15] }, _, .bridge 3 15, by decide +kernel, rfl⟩⟩

/-- The hypotheses of PowerRuns can be met. -/
theorem witness_PowerRuns :
    (∃ (s : State) (r : Fin 4), (s.tooHot r = true) ∧ (s.inEmergency r = false)) ∧
    (∃ (s : State) (r : Fin 4), (s.tooHot r = false ∨ s.inEmergency r = true)) ∧
    (∃ (s : State) (p cycles : Nat) (r : Fin 4), (s.inEmergency r = true) ∧ (s.tooHot r = true)) ∧
    (∃ (s : State) (p cycles : Nat) (r : Fin 4), (s.inEmergency r = false)) :=
  ⟨⟨run.fset PWR_THERM_EMERG_C 0, 3, by decide +kernel, by decide +kernel⟩,
    ⟨run, 3, .inl (by decide +kernel)⟩,
    ⟨(fun s : State => { s with power := { s.power with emerg := [3] } }) (run.fset PWR_THERM_EMERG_C 0), 0, 0, 3, by decide +kernel, by decide +kernel⟩,
    ⟨run, 0, 0, 3, by decide +kernel⟩⟩

/-- The hypotheses of TestPortRuns can be met. -/
theorem witness_TestPortRuns :
    (∃ (s : State) (pins drive : List Bool), (s.sec.resetLow = true)) ∧
    (∃ (s : State) (pins drive : List Bool), (s.sec.resetLow = false)) ∧
    (∃ (s : State), (s.sec.resetLow = false) ∧ (s.tap.inst ∈ [TapInst.extest, .clamp, .highz, .extestPulse, .extestTrain])) ∧
    (∃ (s : State), (s.sec.resetLow = true ∨ s.tap.inst ∉ [TapInst.extest, .clamp, .highz, .extestPulse, .extestTrain])) :=
  ⟨⟨State.reset, [], [true], by decide +kernel⟩,
    ⟨stage 0, [], [true], by decide +kernel⟩,
    ⟨(fun s : State => { s with tap := { s.tap with inst := .clamp } }) (stage 0), by decide +kernel, by decide +kernel⟩,
    ⟨State.reset, .inl (by decide +kernel)⟩⟩

/-- The hypotheses of RecorderRuns can be met. -/
theorem witness_RecorderRuns :
    (∃ (s : State) (fec : List (Fin 72 × Nat × Nat)) (glkFec : Nat), (s.sec.resetLow = false)) ∧
    (∃ (s : State) (p i symbols words : Nat), (i < 4) ∧ (s.fget FAB_RECAL_ERR_LOG2 ≠ 0) ∧ (2 ^ s.fget FAB_RECAL_ERR_LOG2 < symbols)) ∧
    (∃ (s : State) (p i symbols words : Nat), (i < 4) ∧ (s.fget FAB_RECAL_ERR_LOG2 = 0 ∨ symbols ≤ 2 ^ s.fget FAB_RECAL_ERR_LOG2)) ∧
    (∃ (s : State) (x : Rec) (i : Nat), (i = s.fget EVR_MIRROR_MIRRORED) ∧ (s.recs[i]? = some x) ∧ (s.sec.erasing = false)) ∧
    (∃ (s : State), (s.fget EVR_CTRL_CLEAR = 0)) ∧
    (∃ (s : State), (s.sec.erasing = true)) :=
  ⟨⟨stage 6, [], 0, by decide +kernel⟩,
    ⟨run.fset FAB_RECAL_ERR_LOG2 4, 0, 3, 17, 0, by decide +kernel, by decide +kernel, by decide +kernel⟩,
    ⟨run, 0, 3, 17, 0, by decide +kernel, by decide +kernel⟩,
    ⟨{ stage 6 with recs := (stage 6 |>.noteHub 1 2 3).recs }, _, _, rfl, some_eq _ (by decide +kernel), by decide +kernel⟩,
    ⟨run, by decide +kernel⟩,
    ⟨(fun s : State => { s with sec := { s.sec with erasing := true } }) run, by decide +kernel⟩⟩

/-- The hypotheses of RegisterWrites can be met. -/
theorem witness_RegisterWrites :
    (∃ (s : State) (a size v : Nat) (e : Nat × Bool), (s.regError a size true = some e)) ∧
    (∃ (s : State) (a size v : Nat) (w : RegWrite), (s.regError a size true = none) ∧ (inEvrWindow a = false) ∧ (w = RegWrite.of a size v) ∧ (s.untimely w = true ∨ s.legal w = false)) ∧
    (∃ (s : State) (a size v : Nat) (w : RegWrite), (s.regError a size true = none) ∧ (w = RegWrite.of a size v) ∧ (0xF0000020000 ≤ w.reg) ∧ (w.reg < 0xF0000030000) ∧ (s.untimely w = false) ∧ (s.legal w = true) ∧ ((s.writeFields w).recs.length = s.recs.length)) ∧
    (∃ (s : State) (w : RegWrite) (f : Fld), (w.covers f = true) ∧ (f.acc = .rw)) ∧
    (∃ (s : State) (w : RegWrite) (f : Fld), (w.covers f = true) ∧ (f.acc = .rwb)) ∧
    (∃ (s : State) (w : RegWrite) (f : Fld), (w.covers f = true) ∧ (f.acc = .w1c)) ∧
    (∃ (s : State) (w : RegWrite) (f : Fld), (w.covers f = true) ∧ (f.acc ≠ .rw) ∧ (f.acc ≠ .rwb) ∧ (f.acc ≠ .w1c)) ∧
    (∃ (s : State) (w : RegWrite) (f : Fld), (w.covers f = false)) ∧
    (∃ (s : State) (w : RegWrite) (f : Fld), ∃ (g : Fld), (g.key ≠ f.key)) ∧
    (∃ (s : State) (w : RegWrite) (f : Fld), (bits w.mask f.lsb f.width = 2 ^ f.width - 1)) ∧
    (∃ (s : State) (a size : Nat), (s.fatal = true) ∧ (servedFatal a = false)) ∧
    (∃ (s : State) (a size : Nat), (s.fatal = false) ∧ (regMapped a = false)) :=
  ⟨⟨run, BEAT_PERIOD 0, 2, 5, _, some_eq _ (by decide +kernel)⟩,
    ⟨run, BEAT_PERIOD 0, 8, 5, _, by decide +kernel, by decide +kernel, rfl, .inl (by decide +kernel)⟩,
    ⟨run, PWR_THERM, 8, 0x5F556459, _, by decide +kernel, rfl, by decide +kernel, by decide +kernel, by decide +kernel, by decide +kernel, by decide +kernel⟩,
    ⟨run, RegWrite.of (BEAT_PERIOD 0) 8 600, BEAT_PERIOD_US 0, by decide +kernel, by decide +kernel⟩,
    ⟨run, RegWrite.of (HUB_RING_CTRL 255) 4 1, HUB_RING_CTRL_ENABLE 255, by decide +kernel, by decide +kernel⟩,
    ⟨run, RegWrite.of (HUB_RING_STAT 255) 4 7, HUB_RING_STAT_REFUSED 255, by decide +kernel, by decide +kernel⟩,
    ⟨run, RegWrite.of (BEAT_NOW 0) 8 1, BEAT_NOW_NUMBER 0, by decide +kernel, by decide +kernel, by decide +kernel, by decide +kernel⟩,
    ⟨run, RegWrite.of (HUB_RING_SQ 0 + 4) 4 7, HUB_RING_SQ_LOG2 0, by decide +kernel⟩,
    ⟨run, RegWrite.of (BEAT_PERIOD 0) 8 600, BEAT_PERIOD_US 0, BEAT_GUARD_US 0, by decide +kernel⟩,
    ⟨run, RegWrite.of (BEAT_PERIOD 0) 8 600, BEAT_PERIOD_US 0, by decide +kernel⟩,
    ⟨run.fset HUB_DEVFAULT_FATAL 1, HUB_LAYOUT, 8, by decide +kernel, by decide +kernel⟩,
    ⟨run, 0xF0000FFFFF8, 8, by decide +kernel, by decide +kernel⟩⟩

/-- The hypotheses of BootRuns can be met. -/
theorem witness_BootRuns :
    (∃ (s : State), (s.sec.resetLow = true) ∧ (s.flash.companion = false) ∧ (s.flash.directory = true)) ∧
    (∃ (s : State), (s.sec.resetLow = true) ∧ (s.flash.companion = true ∨ s.flash.directory = false)) ∧
    (∃ (s : State) (x : StageEnd), (s.sec.resetLow = false) ∧ (s.fget SEC_BOOT_STOPPED = 0) ∧ (s.fget SEC_BOOT_STAGE = 0) ∧ (x.ok = true)) ∧
    (∃ (s : State) (x : StageEnd), (s.sec.resetLow = false) ∧ (s.fget SEC_BOOT_STOPPED = 0) ∧ (s.fget SEC_BOOT_STAGE = 0) ∧ (x.ok = false)) ∧
    (∃ (s : State) (x : StageEnd), (s.sec.resetLow = false) ∧ (s.fget SEC_BOOT_STOPPED = 0) ∧ (s.fget SEC_BOOT_STAGE = 1) ∧ (x.ok = true)) ∧
    (∃ (s : State) (x : StageEnd), (s.sec.resetLow = false) ∧ (s.fget SEC_BOOT_STOPPED = 0) ∧ (s.fget SEC_BOOT_STAGE = 1) ∧ (x.ok = false)) ∧
    (∃ (s : State) (x : StageEnd), (s.sec.resetLow = false) ∧ (s.fget SEC_BOOT_STOPPED = 0) ∧ (s.fget SEC_BOOT_STAGE = 2) ∧ (s.rpmc.accepted = none ∨ x.ok = false)) ∧
    (∃ (s : State) (x : StageEnd), ∃ b item1, (s.sec.resetLow = false) ∧ (s.fget SEC_BOOT_STOPPED = 0) ∧ (s.fget SEC_BOOT_STAGE = 2) ∧ (s.rpmc.accepted = some (b, item1)) ∧ (x.ok = true)) ∧
    (∃ (s : State) (x : StageEnd), ∃ obj, (s.sec.resetLow = false) ∧ (s.fget SEC_BOOT_STOPPED = 0) ∧ (s.fget SEC_BOOT_STAGE = 3) ∧ (s.sec.mFw = 0) ∧ (s.fget SEC_BOOT_SOURCE ≠ 1) ∧ (s.flash.image = some obj) ∧ (x.ok = true)) ∧
    (∃ (s : State) (x : StageEnd), ∃ obj, (s.sec.resetLow = false) ∧ (s.fget SEC_BOOT_STOPPED = 0) ∧ (s.fget SEC_BOOT_STAGE = 4) ∧ (s.sec.mPr = 0) ∧ (s.fget SEC_BOOT_SOURCE ≠ 1) ∧ (s.flash.partRec = some obj) ∧ (x.ok = true)) ∧
    (∃ (s : State) (x : StageEnd), (s.sec.resetLow = false) ∧ (s.fget SEC_BOOT_STOPPED = 0) ∧ (s.fget SEC_BOOT_STAGE = 5)) ∧
    (∃ (s t : State) (x : PhaseEnd), (t = s.fset HUB_START_ELAPSED_MS (min x.elapsedMs 0xFFFF)) ∧ (s.fget HUB_START_PHASE = 1)) ∧
    (∃ (s t : State) (x : PhaseEnd), (t = s.fset HUB_START_ELAPSED_MS (min x.elapsedMs 0xFFFF)) ∧ (s.fget HUB_START_PHASE = 2)) ∧
    (∃ (s t : State) (x : PhaseEnd), (t = s.fset HUB_START_ELAPSED_MS (min x.elapsedMs 0xFFFF)) ∧ (s.fget HUB_START_PHASE = 3)) ∧
    (∃ (s t : State) (x : PhaseEnd), (t = s.fset HUB_START_ELAPSED_MS (min x.elapsedMs 0xFFFF)) ∧ (s.fget HUB_START_PHASE = 4)) ∧
    (∃ (s t : State) (x : PhaseEnd), (t = s.fset HUB_START_ELAPSED_MS (min x.elapsedMs 0xFFFF)) ∧ (s.fget HUB_START_PHASE = 5)) ∧
    (∃ (s t : State) (x : PhaseEnd), (t = s.fset HUB_START_ELAPSED_MS (min x.elapsedMs 0xFFFF)) ∧ (s.fget HUB_START_PHASE = 6)) ∧
    (∃ (s t : State) (x : PhaseEnd), (t = s.fset HUB_START_ELAPSED_MS (min x.elapsedMs 0xFFFF)) ∧ (s.fget HUB_START_PHASE = 7) ∧ (s.glkUp = true)) ∧
    (∃ (s t : State) (x : PhaseEnd), (t = s.fset HUB_START_ELAPSED_MS (min x.elapsedMs 0xFFFF)) ∧ (s.fget HUB_START_PHASE = 7) ∧ (s.glkUp = false)) ∧
    (∃ (s : State), (s.sec.resetLow = false) ∧ (s.fget SEC_BOOT_STAGE = 6)) ∧
    (∃ (s : State) (obj : List Byte), (s.sec.install = some obj) ∧ (s.fget SEC_BOOT_STAGE = 6)) :=
  ⟨⟨(fun s : State => { s with flash := { s.flash with companion := false, directory := true } }) State.reset, by decide +kernel, by decide +kernel, by decide +kernel⟩,
    ⟨(fun s : State => { s with flash := { s.flash with companion := true } }) State.reset, by decide +kernel, by decide +kernel⟩,
    ⟨stage 0, stageEnd true 0, by decide +kernel, by decide +kernel, by decide +kernel, by decide +kernel⟩,
    ⟨stage 0, stageEnd false 0, by decide +kernel, by decide +kernel, by decide +kernel, by decide +kernel⟩,
    ⟨stage 1, stageEnd true 0, by decide +kernel, by decide +kernel, by decide +kernel, by decide +kernel⟩,
    ⟨stage 1, stageEnd false 0, by decide +kernel, by decide +kernel, by decide +kernel, by decide +kernel⟩,
    ⟨stage 2, stageEnd false 0, by decide +kernel, by decide +kernel, by decide +kernel, by decide +kernel⟩,
    ⟨stage 2, stageEnd true 0, _, _, by decide +kernel, by decide +kernel, by decide +kernel, somePair_eq _ (by decide +kernel), by decide +kernel⟩,
    ⟨withImage (stage 3), stageEnd true 0, _, by decide +kernel, by decide +kernel, by decide +kernel, by decide +kernel, by decide +kernel, some_eq _ (by decide +kernel), by decide +kernel⟩,
    ⟨withImage (stage 4), stageEnd true 0, _, by decide +kernel, by decide +kernel, by decide +kernel, by decide +kernel, by decide +kernel, some_eq _ (by decide +kernel), by decide +kernel⟩,
    ⟨stage 5, stageEnd true 0, by decide +kernel, by decide +kernel, by decide +kernel⟩,
    ⟨phase 1, _, phaseEnd, rfl, by decide +kernel⟩,
    ⟨phase 2, _, phaseEnd, rfl, by decide +kernel⟩,
    ⟨phase 3, _, phaseEnd, rfl, by decide +kernel⟩,
    ⟨phase 4, _, phaseEnd, rfl, by decide +kernel⟩,
    ⟨phase 5, _, phaseEnd, rfl, by decide +kernel⟩,
    ⟨phase 6, _, phaseEnd, rfl, by decide +kernel⟩,
    ⟨(phase 7).fset GLK_STAT_STATE 2, _, phaseEnd, rfl, by decide +kernel, by decide +kernel⟩,
    ⟨phase 7, _, phaseEnd, rfl, by decide +kernel, by decide +kernel⟩,
    ⟨stage 6, by decide +kernel, by decide +kernel⟩,
    ⟨(fun s : State => { s with sec := { s.sec with install := some [] } }) (stage 6), [], by decide +kernel, by decide +kernel⟩⟩

/-- The hypotheses of StateBlockCommits can be met. -/
theorem witness_StateBlockCommits :
    (∃ (s : State) (c : Nat), (s.sec.resetLow = false) ∧ (3 ≤ s.fget SEC_BOOT_STAGE) ∧ (s.rpmc.counter < 2 ^ 32) ∧ (c = (s.rpmc.counter + 1) % 2 ^ 32) ∧ (∀ b, mget? s.rpmc.slots ((c + 1) % 2 ^ 32 % 64) = some b → b.seq ≠ (c + 1) % 2 ^ 32)) ∧
    (∃ (s : State) (c : Nat), ∃ b, (s.sec.resetLow = false) ∧ (3 ≤ s.fget SEC_BOOT_STAGE) ∧ (s.rpmc.counter < 2 ^ 32) ∧ (c = (s.rpmc.counter + 1) % 2 ^ 32) ∧ (mget? s.rpmc.slots (s.rpmc.counter % 64) = some b) ∧ (b.seq = s.rpmc.counter)) :=
  ⟨⟨(fun s : State => { s with rpmc := { s.rpmc with counter := 2 ^ 32 - 1, slots := [] } }) (stage 3), _, by decide +kernel, by decide +kernel, by decide +kernel, rfl, fun _ hb => nomatch hb⟩,
    ⟨(fun s : State => { s with rpmc := { s.rpmc with counter := 2 ^ 32 - 1, slots := [(63, { (stage 3).sec.block with seq := 2 ^ 32 - 1 })] } }) (stage 3), _, _, by decide +kernel, by decide +kernel, by decide +kernel, rfl, some_eq _ (by decide +kernel), by decide +kernel⟩⟩

/-- The hypotheses of PresentationsRun can be met. -/
theorem witness_PresentationsRun :
    (∃ (s t : State), (s.fget SEC_LOAD_STAT_STATE ≠ 1) ∧ (1 ≤ s.fget SEC_LOAD_TYPE) ∧ (s.fget SEC_LOAD_TYPE ≤ 4) ∧ (glkBase ≤ s.fget SEC_LOAD_ADDR * 4096) ∧ (s.fget SEC_LOAD_ADDR * 4096 < glkEnd) ∧ (t = { s with sec := { s.sec with loadAt := s.fget SEC_LOAD_ADDR * 4096, loadType := s.fget SEC_LOAD_TYPE, loadInstall := s.flag SEC_LOAD_INSTALL } }) ∧ (t.notPermitted = true)) ∧
    (∃ (s t : State), (s.fget SEC_LOAD_STAT_STATE ≠ 1) ∧ (1 ≤ s.fget SEC_LOAD_TYPE) ∧ (s.fget SEC_LOAD_TYPE ≤ 4) ∧ (glkBase ≤ s.fget SEC_LOAD_ADDR * 4096) ∧ (s.fget SEC_LOAD_ADDR * 4096 < glkEnd) ∧ (t = { s with sec := { s.sec with loadAt := s.fget SEC_LOAD_ADDR * 4096, loadType := s.fget SEC_LOAD_TYPE, loadInstall := s.flag SEC_LOAD_INSTALL } }) ∧ (t.notPermitted = false)) ∧
    (∃ (s : State), (s.fget SEC_LOAD_STAT_STATE = 1 ∨ s.fget SEC_LOAD_TYPE = 0 ∨ 4 < s.fget SEC_LOAD_TYPE ∨ s.fget SEC_LOAD_ADDR * 4096 < glkBase ∨ glkEnd ≤ s.fget SEC_LOAD_ADDR * 4096)) ∧
    (∃ (s t : State) (part : PartRecord) (kak : Bundle) (a type n : Nat) (obj : List Byte), ∃ r, (s.fget SEC_LOAD_STAT_STATE = 1) ∧ (3 ≤ s.fget SEC_BOOT_STAGE) ∧ (s.secFails .load = false) ∧ (a = s.sec.loadAt) ∧ (type = s.sec.loadType) ∧ (s.streamReady [(a, headLen)] = true) ∧ (headReason (s.load a headLen) type = some r)) ∧
    (∃ (s t : State) (part : PartRecord) (kak : Bundle) (a type n : Nat) (obj : List Byte), (s.fget SEC_LOAD_STAT_STATE = 1) ∧ (3 ≤ s.fget SEC_BOOT_STAGE) ∧ (s.secFails .load = false) ∧ (a = s.sec.loadAt) ∧ (type = s.sec.loadType) ∧ (s.streamReady [(a, headLen)] = true) ∧ (headReason (s.load a headLen) type = none) ∧ (n = headLen + objBody (s.load a headLen)) ∧ (a + n ≤ glkEnd) ∧ (s.streamReady [(a, n)] = true) ∧ (obj = s.load a n) ∧ (t = s.dropStream [(a, n)])) ∧
    (∃ (s : State) (part : PartRecord) (kak : Bundle), (s.fget SEC_LOAD_STAT_STATE = 1) ∧ (3 ≤ s.fget SEC_BOOT_STAGE) ∧ (s.secFails .load = true)) ∧
    (∃ (s : State) (part : PartRecord) (kak : Bundle), (s.fget SEC_LOAD_STAT_STATE = 1) ∧ (3 ≤ s.fget SEC_BOOT_STAGE) ∧ (s.secFails .load = false) ∧ (s.streamReady [(s.sec.loadAt, headLen)] = false)) ∧
    (∃ (s t : State) (type svn : Nat), (t = s.raiseSvn type svn) ∧ (svn ≤ s.fget (svnFld type))) :=
  ⟨⟨((stage 6).fsets [(SEC_LOAD_TYPE, 1), (SEC_LOAD_ADDR, 2 ^ 30)]).fset SEC_BOOT_STOPPED 1, _, by decide +kernel, by decide +kernel, by decide +kernel, by decide +kernel, by decide +kernel, rfl, by decide +kernel⟩,
    ⟨(stage 6).fsets [(SEC_LOAD_TYPE, 4), (SEC_LOAD_ADDR, 2 ^ 30)], _, by decide +kernel, by decide +kernel, by decide +kernel, by decide +kernel, by decide +kernel, rfl, by decide +kernel⟩,
    ⟨(stage 6).fsets [(SEC_LOAD_TYPE, 0), (SEC_LOAD_ADDR, 2 ^ 30)], by decide +kernel⟩,
    ⟨{ loading 1 with mem := .empty }, run, PartRecord.none, ⟨0, []⟩, _, _, 0, [], _, by decide +kernel, by decide +kernel, by decide +kernel, rfl, rfl, by decide +kernel, some_eq _ (by decide +kernel)⟩,
    ⟨loading 1, _, PartRecord.none, ⟨0, []⟩, _, _, _, _, by decide +kernel, by decide +kernel, by decide +kernel, rfl, rfl, by decide +kernel, by decide +kernel, rfl, by decide +kernel, by decide +kernel, rfl, rfl⟩,
    ⟨(fun s : State => { s with sec := { s.sec with failed := [.load] } }) (loading 1), PartRecord.none, ⟨0, []⟩, by decide +kernel, by decide +kernel, by decide +kernel⟩,
    ⟨(loading 1).updGlk fun g => { g with held := [] }, PartRecord.none, ⟨0, []⟩, by decide +kernel, by decide +kernel, by decide +kernel, by decide +kernel⟩,
    ⟨stage 6, _, 1, 0, rfl, by decide +kernel⟩⟩

/-- The hypotheses of AttestationRuns can be met. -/
theorem witness_AttestationRuns :
    (∃ (s : State), (s.attBad 0x2000 = false) ∧ (hssMax ≤ s.fget SEC_ATT_STAT_HSS_NEXT)) ∧
    (∃ (s : State), (s.attBad 0x2000 = false) ∧ (s.fget SEC_ATT_STAT_HSS_NEXT < hssMax)) ∧
    (∃ (s : State), (s.attBad 0x2000 = true)) ∧
    (∃ (s : State), (s.attBad 0x4000 = true)) ∧
    (∃ (s : State), (s.attBad 0x4000 = false)) ∧
    (∃ (s t : State), (s.fget SEC_ATT_STAT_STATE = 1) ∧ (s.secFails .attest = false) ∧ (s.attMayBegin = true) ∧ (s.streamReady [(s.sec.attAt + 0x10, 32)] = true) ∧ (t = (s.dropStream [(s.sec.attAt + 0x10, 32)]).takeHss)) ∧
    (∃ (s : State), (s.fget SEC_ATT_STAT_STATE = 1) ∧ (s.secFails .attest = true)) ∧
    (∃ (s : State), (s.fget SEC_ATT_STAT_STATE = 1) ∧ (s.secFails .attest = false) ∧ (s.attMayBegin = false)) ∧
    (∃ (s : State), (s.fget SEC_ATT_STAT_STATE = 2) ∧ (s.secFails .attest = false) ∧ (s.glk.acksDue (.security .attest) = false) ∧ (s.sec.areaSent = 1)) ∧
    (∃ (s : State), (s.fget SEC_ATT_STAT_STATE = 2) ∧ (s.secFails .attest = false) ∧ (s.glk.acksDue (.security .attest) = false) ∧ (s.sec.areaSent ≠ 1)) ∧
    (∃ (s : State), (s.fget SEC_ATT_STAT_STATE = 2) ∧ (s.secFails .attest = false) ∧ (s.glk.acksDue (.security .attest) = true)) ∧
    (∃ (s : State) (t : Nat), (s.sec.attBegan = some t)) :=
  ⟨⟨st [(SEC_ATT_ADDR, 2 ^ 30), (SEC_ATT_STAT_HSS_NEXT, 2 ^ 20)], by decide +kernel, by decide +kernel⟩,
    ⟨st [(SEC_ATT_ADDR, 2 ^ 30), (SEC_ATT_STAT_HSS_NEXT, 2 ^ 20 - 1)], by decide +kernel, by decide +kernel⟩,
    ⟨State.reset, by decide +kernel⟩,
    ⟨State.reset, by decide +kernel⟩,
    ⟨st [(SEC_ATT_ADDR, 2 ^ 30), (SEC_ATT_STAT_HSS_NEXT, 0)], by decide +kernel⟩,
    ⟨attesting 1 0, _, by decide +kernel, by decide +kernel, by decide +kernel, by decide +kernel, rfl⟩,
    ⟨(fun s : State => { s with sec := { s.sec with failed := [.attest] } }) (attesting 1 0), by decide +kernel, by decide +kernel⟩,
    ⟨{ attesting 1 0 with sec := { (attesting 1 0).sec with attBegan := some 0 } }, by decide +kernel, by decide +kernel, by decide +kernel⟩,
    ⟨attesting 2 1, by decide +kernel, by decide +kernel, by decide +kernel, by decide +kernel⟩,
    ⟨attesting 2 2, by decide +kernel, by decide +kernel, by decide +kernel, by decide +kernel⟩,
    ⟨(attesting 2 1).updGlk fun g => { g with outst := [⟨1, 3, 0, .security .attest, false⟩] }, by decide +kernel, by decide +kernel, by decide +kernel⟩,
    ⟨{ run with sec := { run.sec with attBegan := some 7 } }, 7, by decide +kernel⟩⟩

/-- The hypotheses of TokensAndInjections can be met. -/
theorem witness_TokensAndInjections :
    (∃ (s t : State) (a : Nat), (s.fget JIB_STAT_PSTATE ≠ 1) ∧ (a = s.fget JIB_UNLOCK_ADDR * 4096) ∧ (glkBase ≤ a) ∧ (a < glkEnd) ∧ (t = (s.fsets [(JIB_UNLOCK_GO, 1), (JIB_STAT_PSTATE, 1)]).secBegins .token)) ∧
    (∃ (s : State), (s.fget JIB_STAT_PSTATE = 1 ∨ s.fget JIB_UNLOCK_ADDR * 4096 < glkBase ∨ glkEnd ≤ s.fget JIB_UNLOCK_ADDR * 4096)) ∧
    (∃ (s : State), (s.fget JIB_STAT_PSTATE = 1) ∧ (s.secFails .token = false) ∧ (s.streamReady [s.tokenRange] = true)) ∧
    (∃ (s : State) (x : List Byte), (numAt x 8 8 ≠ s.fget JIB_CHAL_CHAL ∨ numAt x 0x10 5 ≤ s.fget EVR_OPSEC_SECONDS ∨ beNat (sliceOf x 0x20 48) ≠ Config.deviceId)) ∧
    (∃ (s : State), (s.fget JIB_STAT_UNLOCKED = 1) ∧ (s.fget JIB_STAT_ARMED = 0) ∧ (injLegal (s.fget JIB_STAT_SCOPE) (s.fget JIB_INJ_KIND) (s.fget JIB_INJ_K) (s.fget JIB_INJ_HOLD_US) (s.fget JIB_INJ_TARGET) = true) ∧ (s.running (s.fget JIB_CTRL_PART) = true) ∧ (s.fget JIB_INJ_KIND ≠ 7)) ∧
    (∃ (s : State), ∃ c, (s.fget JIB_STAT_UNLOCKED = 1) ∧ (s.fget JIB_STAT_ARMED = 0) ∧ (injLegal (s.fget JIB_STAT_SCOPE) (s.fget JIB_INJ_KIND) (s.fget JIB_INJ_K) (s.fget JIB_INJ_HOLD_US) (s.fget JIB_INJ_TARGET) = true) ∧ (s.running (s.fget JIB_CTRL_PART) = true) ∧ (s.fget JIB_INJ_KIND = 7) ∧ (c = s.fget JIB_INJ_TARGET % 256)) ∧
    (∃ (s : State), (s.fget JIB_STAT_UNLOCKED = 0)) ∧
    (∃ (s : State), (s.fget JIB_STAT_UNLOCKED = 1) ∧ (s.fget JIB_STAT_ARMED = 1)) :=
  ⟨⟨st [(JIB_UNLOCK_ADDR, 2 ^ 30)], _, _, by decide +kernel, rfl, by decide +kernel, by decide +kernel, rfl⟩,
    ⟨State.reset, by decide +kernel⟩,
    ⟨unlocking token0, by decide +kernel, by decide +kernel, by decide +kernel⟩,
    ⟨State.reset, [], by decide +kernel⟩,
    ⟨unlocked 6, by decide +kernel, by decide +kernel, by decide +kernel, by decide +kernel, by decide +kernel⟩,
    ⟨unlocked 7, _, by decide +kernel, by decide +kernel, by decide +kernel, by decide +kernel, by decide +kernel, rfl⟩,
    ⟨State.reset, by decide +kernel⟩,
    ⟨(unlocked 6).fset JIB_STAT_ARMED 1, by decide +kernel, by decide +kernel⟩⟩

end Sys2Proof.Tests
end

section
/-! Ring positions modulo 2S, doorbells (R83) and completion-head writes (R99). -/
namespace Sys2Proof.Machine

/-! ## Distances modulo the size of a position -/

/-- Going from `a` to `b` and on from `b` to `c` is going from `a` to `c`, modulo `m`. -/
theorem modDist_trans {m a b c : Nat} (hab : a ≤ b + m) (hbc : b ≤ c + m) (hac : a ≤ c + m) :
    ((b + m - a) % m + (c + m - b) % m) % m = (c + m - a) % m := by
  rw [← Nat.add_mod, show b + m - a + (c + m - b) = c + m - a + m by omega, Nat.add_mod_right]

/-- A position that lies on the way from `a` to `c` leaves the rest of the way. -/
theorem modDist_rest {m a b c : Nat} (hab : a ≤ b + m) (hbc : b ≤ c + m) (hac : a ≤ c + m) (hm : 0 < m)
    (h : (b + m - a) % m ≤ (c + m - a) % m) : (c + m - b) % m = (c + m - a) % m - (b + m - a) % m := by
  have hw : (c + m - a) % m < m := Nat.mod_lt _ hm
  have sum : (b + m - a) % m + (c + m - b) % m ≡ (b + m - a) % m + ((c + m - a) % m - (b + m - a) % m) [MOD m] := by
    rw [Nat.add_sub_cancel' h]
    exact (modDist_trans hab hbc hac).trans (Nat.mod_eq_of_lt hw).symm
  exact (Nat.ModEq.add_left_cancel' _ sum).eq_of_lt_of_lt (Nat.mod_lt _ hm) (by omega)

/-- Phase and index of a ring of `z` entries form a position below `2 * z`. -/
theorem ringPos_lt {ph i z : Nat} (hph : ph ≤ 1) (hi : i < z) : ph * z + i < 2 * z := by
  have := Nat.mul_le_mul_right z hph
  omega

theorem bits_lt (v lo w : Nat) : bits v lo w < 2 ^ w := Nat.mod_lt _ (Nat.two_pow_pos w)

/-! ## Fields of a ring -/

section Rings
variable {s : State}

/-- A field set in a list of fields reads as set, when no later one shares its key. -/
theorem State.fget_fsets_append_cons (l₁ l₂ : List (Fld × Nat)) (f : Fld) (v : Nat) (h : ∀ e ∈ l₂, f.key ≠ e.1.key) :
    (s.fsets (l₁ ++ (f, v) :: l₂)).fget f = v % 2 ^ f.width := by
  induction l₁ generalizing s with
  | nil => exact (State.fget_fsets_ne _ l₂ h).trans (State.fget_fset_self _ f v)
  | cons e t ih => exact ih

/-- The recorder's count of dropped records lies below the registers of the rings. -/
theorem key_ne_DROPPED_of_ring (n : Nat) {f : Fld} (hr : HUB_RING_PTRS n ≤ f.reg) : f.key ≠ EVR_STAT_DROPPED.key := by
  simp only [HUB_RING_PTRS] at hr
  simp only [Fld.key, EVR_STAT_DROPPED, EVR_STAT]
  omega

/-- Setting DB_ERR and recording the write leaves HUB_RING_PTRS alone: the ring goes on from its previous tail (R83). -/
theorem NoteOnly.fget_ptrs {u : State} {n w : Nat} {f : Fld} (h : NoteOnly (s.fset (HUB_RING_STAT_DB_ERR n) w) u)
    (hr : f.reg = HUB_RING_PTRS n) (hl : f.lsb < 64) : u.fget f = s.fget f := by
  have hkey : f.key ≠ (HUB_RING_STAT_DB_ERR n).key :=
    Fld.key_ne_of_reg (by rw [hr]; simp [HUB_RING_STAT_DB_ERR, HUB_RING_PTRS, HUB_RING_STAT]) hl (by simp [HUB_RING_STAT_DB_ERR])
  rw [h.fget (key_ne_DROPPED_of_ring n hr.ge), State.fget_fset_ne _ hkey]

/-! ## Doorbells -/

/-- pos(TAIL) of ring `n` (R83). -/
def State.tailPos (s : State) (n : Nat) : Nat := s.fget (HUB_RING_PTRS_TAIL_PH n) * s.sqSize n + s.fget (HUB_RING_PTRS_TAIL n)

/-- pos(HEAD) of ring `n` (R83). -/
def State.headPos (s : State) (n : Nat) : Nat := s.fget (HUB_RING_PTRS_HEAD_PH n) * s.sqSize n + s.fget (HUB_RING_PTRS_HEAD n)

/-- The position that a doorbell's value names (R83). -/
def State.doorbellPos (s : State) (n v : Nat) : Nat := bits v 16 1 * s.sqSize n + bits v 0 16

/-- d of R83: the entries by which a doorbell would advance TAIL. -/
def State.doorbellDist (s : State) (n v : Nat) : Nat := (s.doorbellPos n v + 2 * s.sqSize n - s.tailPos n) % (2 * s.sqSize n)

/-- The state with TAIL and its phase of ring `n` taken from a doorbell's value. -/
def State.withTail (s : State) (n v : Nat) : State :=
  s.fsets [(HUB_RING_PTRS_TAIL n, bits v 0 16), (HUB_RING_PTRS_TAIL_PH n, bits v 16 1)]

theorem State.ringPending_eq (s : State) (n : Nat) :
    s.ringPending n = (s.tailPos n + 2 * s.sqSize n - s.headPos n) % (2 * s.sqSize n) := rfl

theorem doorbell_of_off {n v : Nat} (h : s.ringState n = 0) : doorbell n v s = s.dbError n v := if_pos h

theorem doorbell_of_reserved {n v : Nat} (on : s.ringState n ≠ 0) (h : s.sqSize n ≤ bits v 0 16) :
    doorbell n v s = s.noteDiscard (HUB_RING_DB n) v := (if_neg on).trans (if_pos h)

/-- A doorbell whose TAIL is an index of a ring that is not OFF is judged by d alone. -/
theorem doorbell_of_index {n v : Nat} (on : s.ringState n ≠ 0) (hi : bits v 0 16 < s.sqSize n) : doorbell n v s =
    if s.doorbellDist n v = 0 then s else if s.sqSize n < s.ringPending n + s.doorbellDist n v then s.dbError n v else s.withTail n v :=
  (if_neg on).trans (if_neg (Nat.not_le.2 hi))

theorem doorbell_of_same {n v : Nat} (on : s.ringState n ≠ 0) (hi : bits v 0 16 < s.sqSize n) (hd : s.doorbellDist n v = 0) :
    doorbell n v s = s := by rw [doorbell_of_index on hi, if_pos hd]

theorem doorbell_of_fits {n v : Nat} (on : s.ringState n ≠ 0) (hi : bits v 0 16 < s.sqSize n) (hd : 0 < s.doorbellDist n v)
    (h : s.ringPending n + s.doorbellDist n v ≤ s.sqSize n) : doorbell n v s = s.withTail n v := by
  rw [doorbell_of_index on hi, if_neg hd.ne', if_neg (Nat.not_lt.2 h)]

theorem doorbell_of_overfull {n v : Nat} (on : s.ringState n ≠ 0) (hi : bits v 0 16 < s.sqSize n) (hd : 0 < s.doorbellDist n v)
    (h : s.sqSize n < s.ringPending n + s.doorbellDist n v) : doorbell n v s = s.dbError n v := by
  rw [doorbell_of_index on hi, if_neg hd.ne', if_pos h]

/-! ### The state after a doorbell that is taken -/

@[simp] theorem State.withTail_tail (s : State) (n v : Nat) : (s.withTail n v).fget (HUB_RING_PTRS_TAIL n) = bits v 0 16 := by
  refine (State.fget_fsets_append_cons [] _ _ _ ?_).trans (Nat.mod_eq_of_lt (bits_lt v 0 16))
  simp [Fld.key, HUB_RING_PTRS_TAIL, HUB_RING_PTRS_TAIL_PH]

@[simp] theorem State.withTail_tailPh (s : State) (n v : Nat) : (s.withTail n v).fget (HUB_RING_PTRS_TAIL_PH n) = bits v 16 1 :=
  (State.fget_fsets_append_cons [_] [] _ _ (by simp)).trans (Nat.mod_eq_of_lt (bits_lt v 16 1))

/-- Only TAIL and its phase change. -/
theorem State.withTail_fget_ne {n v : Nat} {f : Fld} (ht : f.key ≠ (HUB_RING_PTRS_TAIL n).key) (hp : f.key ≠ (HUB_RING_PTRS_TAIL_PH n).key) :
    (s.withTail n v).fget f = s.fget f := State.fget_fsets_ne _ _ (by simp [ht, hp])

@[simp] theorem State.withTail_sqSize (s : State) (n v : Nat) : (s.withTail n v).sqSize n = s.sqSize n := by
  unfold State.sqSize
  rw [State.withTail_fget_ne] <;>
    simp only [Fld.key, HUB_RING_SQ_LOG2, HUB_RING_SQ, HUB_RING_PTRS_TAIL, HUB_RING_PTRS_TAIL_PH, HUB_RING_PTRS] <;> omega

@[simp] theorem State.withTail_headPos (s : State) (n v : Nat) : (s.withTail n v).headPos n = s.headPos n := by
  unfold State.headPos
  rw [State.withTail_sqSize, State.withTail_fget_ne, State.withTail_fget_ne] <;>
    simp [Fld.key, HUB_RING_PTRS_TAIL, HUB_RING_PTRS_TAIL_PH, HUB_RING_PTRS_HEAD, HUB_RING_PTRS_HEAD_PH]

@[simp] theorem State.withTail_tailPos (s : State) (n v : Nat) : (s.withTail n v).tailPos n = s.doorbellPos n v := by
  simp [State.tailPos, State.doorbellPos]

/-- A doorbell that fits makes exactly d more entries pending (R83). -/
theorem State.withTail_ringPending {n v : Nat} (ht : s.tailPos n < 2 * s.sqSize n) (hh : s.headPos n < 2 * s.sqSize n)
    (h : s.ringPending n + s.doorbellDist n v ≤ s.sqSize n) : (s.withTail n v).ringPending n = s.ringPending n + s.doorbellDist n v := by
  have step : (s.ringPending n + s.doorbellDist n v) % (2 * s.sqSize n) = (s.withTail n v).ringPending n := by
    rw [State.ringPending_eq (s.withTail n v), State.withTail_sqSize, State.withTail_headPos, State.withTail_tailPos]
    exact modDist_trans (a := s.headPos n) (b := s.tailPos n) (c := s.doorbellPos n v) (by omega) (by omega) (by omega)
  rw [← step, Nat.mod_eq_of_lt (by omega)]

/-! ### DBELL -/

/-- A doorbell message that is taken in sequence, with nothing before it that it must wait for, rings once its buffer is free (R406, R407). -/
theorem dbell_of_comes {t : State} {n : Fin 256} {v : Nat} {h : GlkHead} (c : MsgComes s t h (slotsOf 8)) (fits : headFits h 8 = true)
    (snoop : t.glk.behindSnoop = false) (writes : t.glk.writeWaits = false) (live : t.fatal = false) :
    dbell n v h s = doorbell n v (t.glkFree 4) := by
  have live' : (t.glkFree 4).fatal = false := by
    rw [← live]
    exact congrArg (· != 0) ((State.glkFree_only t 4).fget HUB_DEVFAULT_FATAL)
  unfold dbell
  rw [State.glkIn_of_comes c, if_pos fits]
  simp only [snoop, writes, Bool.or_false, Bool.false_eq_true, if_false]
  exact if_neg (by simp [live'])

/-! ## Completion heads -/

/-- cpos of the head that a completion-head write names (R99). -/
def State.headWritePos (s : State) (n v : Nat) : Nat := ((1 - bits v 16 1) * s.cqSize n + bits v 0 16) % (2 * s.cqSize n)

/-- d of R99: the entries that a completion-head write would free. -/
def State.headWriteDist (s : State) (n v : Nat) : Nat :=
  (s.headWritePos n v + 2 * s.cqSize n - (s.ring n).cqHead) % (2 * s.cqSize n)

/-- A discarded completion-head write: CQ_ERR, and a record of the ring and the value (R99). -/
def State.cqError (s : State) (n v : Nat) : State := (s.fset (HUB_RING_STAT_CQ_ERR n) 1).noteDiscard (HUB_RING_CQDB n) v

/-- The state with the completion head of ring `n` at the position written. -/
def State.withCqHead (s : State) (n v : Nat) : State := s.updRing n fun q => { q with cqHead := s.headWritePos n v }

theorem State.cqSize_pos (s : State) (n : Nat) : 0 < s.cqSize n := Nat.two_pow_pos _

theorem completionHead_of_off {n v : Nat} (h : s.ringState n = 0) : completionHead n v s = s.cqError n v := if_pos h

theorem completionHead_of_reserved {n v : Nat} (on : s.ringState n ≠ 0) (h : s.cqSize n ≤ bits v 0 16) :
    completionHead n v s = s.noteDiscard (HUB_RING_CQDB n) v := (if_neg on).trans (if_pos h)

/-- A write whose HEAD is an index of a ring that is not OFF is judged by d alone. -/
theorem completionHead_of_index {n v : Nat} (on : s.ringState n ≠ 0) (hi : bits v 0 16 < s.cqSize n) : completionHead n v s =
    if s.headWriteDist n v = 0 then s else if s.headWriteDist n v ≤ s.cqUsed n then s.withCqHead n v else s.cqError n v :=
  (if_neg on).trans (if_neg (Nat.not_le.2 hi))

theorem completionHead_of_same {n v : Nat} (on : s.ringState n ≠ 0) (hi : bits v 0 16 < s.cqSize n) (hd : s.headWriteDist n v = 0) :
    completionHead n v s = s := by rw [completionHead_of_index on hi, if_pos hd]

theorem completionHead_of_written {n v : Nat} (on : s.ringState n ≠ 0) (hi : bits v 0 16 < s.cqSize n) (hd : 0 < s.headWriteDist n v)
    (h : s.headWriteDist n v ≤ s.cqUsed n) : completionHead n v s = s.withCqHead n v := by
  rw [completionHead_of_index on hi, if_neg hd.ne', if_pos h]

theorem completionHead_of_unwritten {n v : Nat} (on : s.ringState n ≠ 0) (hi : bits v 0 16 < s.cqSize n)
    (h : s.cqUsed n < s.headWriteDist n v) : completionHead n v s = s.cqError n v := by
  rw [completionHead_of_index on hi, if_neg (Nat.ne_zero_of_lt h), if_neg (Nat.not_le.2 h)]

/-- A write that lies on the way from the old head to CQ_TAIL frees exactly d of the w entries (R99). -/
theorem State.withCqHead_cqUsed {n v : Nat} (hh : (s.ring n).cqHead < 2 * s.cqSize n) (h : s.headWriteDist n v ≤ s.cqUsed n) :
    (s.withCqHead n v).cqUsed n = s.cqUsed n - s.headWriteDist n v := by
  have hm : 0 < 2 * s.cqSize n := Nat.mul_pos two_pos (s.cqSize_pos n)
  have hc : s.headWritePos n v < 2 * s.cqSize n := Nat.mod_lt _ hm
  have moved : (s.withCqHead n v).cqUsed n = (s.cqTailPos n + 2 * s.cqSize n - s.headWritePos n v) % (2 * s.cqSize n) := by
    simp [State.cqUsed, State.cqTailPos, State.cqSize, State.withCqHead]
  rw [moved]
  exact modDist_rest (by omega) (by omega) (by omega) hm h

/-! ### Right after an enable -/

theorem State.ringOn_cqHead (s : State) (n : Nat) : ((s.ringOn n).ring n).cqHead = 0 := by simp [State.ringOn, Ring.fresh]

/-- What an enable sets after CQ_TAIL and CQ_PH (R79, R80). -/
def ringOnRest (n : Nat) : List (Fld × Nat) :=
  [(HUB_RING_CNT0_FETCHED n, 0), (HUB_RING_CNT0_COMPLETED n, 0), (HUB_RING_CNT1_ERRORS n, 0), (HUB_RING_CNT1_NOOPS n, 0), (PWR_ERING_VALUE n, 0),
    (HUB_RING_PTRS_STATE n, 1), (HUB_RING_CTRL_ENABLE n, 1)]

/-- No field of HUB_RING_PTRS below STATE is set after CQ_TAIL and CQ_PH. -/
theorem ringOnRest_key_ne {n : Nat} {f : Fld} (hr : f.reg = HUB_RING_PTRS n) (hl : f.lsb < 51) : ∀ e ∈ ringOnRest n, f.key ≠ e.1.key := by
  simp only [ringOnRest, List.forall_mem_cons, Fld.key, hr, HUB_RING_CNT0_FETCHED, HUB_RING_CNT0_COMPLETED, HUB_RING_CNT1_ERRORS,
    HUB_RING_CNT1_NOOPS, PWR_ERING_VALUE, HUB_RING_PTRS_STATE, HUB_RING_CTRL_ENABLE, HUB_RING_PTRS, HUB_RING_CNT0, HUB_RING_CNT1, PWR_ERING,
    HUB_RING_CTRL]
  refine ⟨?_, ?_, ?_, ?_, ?_, ?_, ?_, by simp⟩ <;> omega

theorem State.ringOn_cqPh (s : State) (n : Nat) : (s.ringOn n).fget (HUB_RING_PTRS_CQ_PH n) = 1 :=
  State.fget_fsets_append_cons [_, _, _, _, _] (ringOnRest n) _ _ (ringOnRest_key_ne rfl (by simp [HUB_RING_PTRS_CQ_PH]))

theorem State.ringOn_cqTail (s : State) (n : Nat) : (s.ringOn n).fget (HUB_RING_PTRS_CQ_TAIL n) = 0 := by
  refine State.fget_fsets_append_cons [_, _, _, _] ((HUB_RING_PTRS_CQ_PH n, 1) :: ringOnRest n) _ _ (List.forall_mem_cons.2 ⟨?_, ?_⟩)
  · simp [Fld.key, HUB_RING_PTRS_CQ_TAIL, HUB_RING_PTRS_CQ_PH]
  · exact ringOnRest_key_ne rfl (by simp [HUB_RING_PTRS_CQ_TAIL])

/-- Head and CQ_TAIL are both at cpos 0: nothing is written and not yet freed (R99). -/
theorem State.ringOn_cqUsed (s : State) (n : Nat) : (s.ringOn n).cqUsed n = 0 := by
  simp [State.cqUsed, State.cqTailPos, State.ringOn_cqHead, State.ringOn_cqTail, State.ringOn_cqPh]

end Rings

/-! ## The rules -/

/-- Settles O13: with positions as numbers below 2S, a doorbell that fits adds its distance to the pending count, and the others are discarded by
the order of the checks (R83; log entry 89 for OFF before a reserved TAIL). -/
theorem doorbellRule : Obligations.DoorbellRule := by
  rintro s n v _ _ _ _ _ rfl htail htailPh hhead hheadPh - rfl rfl rfl rfl
  refine ⟨rfl, fun off => ?_, fun on hi => ?_, fun on hi hd => ?_, fun on hi hd hfit => ?_, fun on hi hd hover => ?_, fun u hu => ⟨?_, ?_, ?_⟩,
    fun hd t c fits snoop writes live => ?_⟩
  · exact congrArg _ (doorbell_of_off off)
  · exact congrArg _ (doorbell_of_reserved on hi)
  · exact congrArg _ (doorbell_of_same on hi hd)
  · exact ⟨s.withTail n v, congrArg _ (doorbell_of_fits on hi hd hfit), rfl, s.withTail_tail n v, s.withTail_tailPh n v,
      State.withTail_ringPending (ringPos_lt htailPh htail) (ringPos_lt hheadPh hhead) hfit⟩
  · exact congrArg _ (doorbell_of_overfull on hi hd hover)
  · rw [hu.fget (key_ne_DROPPED_of_ring n (by simp [HUB_RING_STAT_DB_ERR, HUB_RING_STAT, HUB_RING_PTRS])), State.fget_fset_self]; rfl
  · exact hu.fget_ptrs rfl (by simp [HUB_RING_PTRS_TAIL])
  · exact hu.fget_ptrs rfl (by simp [HUB_RING_PTRS_TAIL_PH])
  · exact congrArg _ (dbell_of_comes c fits snoop writes live)

/-- Settles O14: the doorbell's test with the roles exchanged; a head between the old head and CQ_TAIL leaves the rest of the w entries (R99; log
entry 89 for OFF before a reserved HEAD, log entry 19 for the record). -/
theorem completionHeadRule : Obligations.CompletionHeadRule := by
  rintro s n v _ _ _ rfl hhead rfl rfl
  refine ⟨rfl, fun off => ?_, fun on hi => ?_, fun on hi hd => ?_, fun on hi hd hw => ?_, fun on hi hw => ?_, s.ringOn_cqUsed n⟩
  · exact congrArg _ (completionHead_of_off off)
  · exact congrArg _ (completionHead_of_reserved on hi)
  · exact congrArg _ (completionHead_of_same on hi hd)
  · exact ⟨s.withCqHead n v, congrArg _ (completionHead_of_written on hi hd hw), rfl, State.withCqHead_cqUsed hhead hw⟩
  · exact congrArg _ (completionHead_of_unwritten on hi hw)

end Sys2Proof.Machine
end

section
/-! What one step and a run of steps do: the front of the queue, the invariant, what is never taken back. -/
namespace Sys2Proof.Machine

/-! ## The queue -/

/-- Settles O1: a step takes the front of the queue; an empty queue leaves the block as it is (log entry 1). -/
theorem stepRunsFront : Obligations.StepRunsFront := by
  refine ⟨fun _ _ _ => rfl, fun s h => ?_⟩
  unfold step
  rw [h]

theorem step_of_nil {s : State} (h : s.pending = []) : step s = .next s := stepRunsFront.2 s h

theorem step_of_cons {s : State} {c : Instr} {rest : List Instr} (h : s.pending = c :: rest) : step s = exec c { s with pending := rest } := by
  unfold step
  rw [h]

/-- A step answers a next state, which has kept what the state before it had, on the rest of the queue. -/
theorem step_keeps (s : State) : ∃ t, step s = .next t ∧ Keeps { s with pending := s.pending.tail } t := by
  cases h : s.pending with
  | nil =>
    rw [step_of_nil h]
    exact ⟨s, rfl, h, id, id, id, Nat.le_refl _, List.prefix_refl _⟩
  | cons c rest =>
    rw [step_of_cons h]
    exact exec_keeps c _

/-! ## The invariant -/

/-- Two spellings of the bound of the mailbox queues (R444). -/
theorem State.boxesFit_iff (s : State) : s.boxesFit ↔ ∀ b d, ((s.chan b).queue d).length ≤ 16 := by
  refine forall_congr' fun b => ⟨fun h d => ?_, fun h => ⟨h .toA, h .toB⟩⟩
  cases d
  · exact h.1
  · exact h.2

theorem Keeps.inv {a t : State} (k : Keeps a t) (h : Inv a) : Inv t :=
  ⟨k.mem h.mem, k.regs h.regs, t.boxesFit_iff.1 (k.boxes (a.boxesFit_iff.2 h.boxes))⟩

/-- Settles O2: the state after reset stores nothing, so every map of it reads its default. -/
theorem resetState : Obligations.ResetState :=
  ⟨⟨rfl, rfl, fun _ d => by cases d <;> exact Nat.zero_le _⟩, rfl, rfl, rfl, rfl, fun _ => rfl, fun _ => rfl, fun _ => rfl⟩

/-- Settles O3: every command keeps the invariant, and taking the front of the queue leaves it alone. -/
theorem stepKeepsInv : Obligations.StepKeepsInv := by
  intro s t h e
  obtain ⟨u, hu, k⟩ := step_keeps s
  obtain rfl : u = t := by simpa [hu] using e
  exact k.inv ⟨h.mem, h.regs, h.boxes⟩

/-! ## Runs -/

/-- Settles O4: what the answer to a command has kept of the state before it (log entries 1 and 2). -/
theorem stepAlwaysGoesOn : Obligations.StepAlwaysGoesOn := by
  intro c s
  obtain ⟨t, ht, k⟩ := exec_keeps c s
  obtain ⟨l, hl⟩ := k.out
  exact ⟨t, ht, k.pending, k.free, ⟨l, hl.symm⟩, fun h => t.boxesFit_iff.1 (k.boxes (s.boxesFit_iff.2 h))⟩

/-- A run of as many steps as commands wait takes them all. -/
theorem runSteps_drains (n : Nat) (s : State) (hn : s.pending.length = n) :
    ∃ t, runSteps n s = .next t ∧ t.pending = [] ∧ s.out <+: t.out := by
  induction n generalizing s with
  | zero => exact ⟨s, rfl, List.length_eq_zero_iff.1 hn, List.prefix_refl _⟩
  | succ n ih =>
    obtain ⟨u, hu, k⟩ := step_keeps s
    have shorter : u.pending.length = n := by
      rw [k.pending]
      simp [hn]
    obtain ⟨t, ht, empty, sent⟩ := ih u shorter
    refine ⟨t, ?_, empty, k.out.trans sent⟩
    rw [runSteps, hu]
    exact ht

/-- Settles O5: each step shortens the queue by one and takes back nothing sent (log entry 1). -/
theorem queueDrains : Obligations.QueueDrains := by
  intro s
  obtain ⟨t, ht, empty, l, sent⟩ := runSteps_drains s.pending.length s rfl
  exact ⟨t, ht, empty, l, sent.symm⟩

end Sys2Proof.Machine
end

section
/-! The decoder of the sector code (R327, R328): the syndromes of at most three errors as sums in GF(256), and the Vandermonde argument that two or
three errors never look like one. -/
namespace Sys2Proof.Machine

/-! ## Two or three errors never look like none or like one -/

section Vandermonde
variable {R : Type} [CommRing R] [NoZeroDivisors R]

/-- Three terms at different locators whose first three power sums vanish: the first one is zero. -/
theorem eq_zero_of_powerSums {a b c x y z : R} (hxy : x ≠ y) (hxz : x ≠ z) (h0 : a + b + c = 0) (h1 : a * x + b * y + c * z = 0)
    (h2 : a * x ^ 2 + b * y ^ 2 + c * z ^ 2 = 0) : a = 0 := by
  have h : a * ((x - y) * (x - z)) = 0 := by linear_combination h2 - (y + z) * h1 + y * z * h0
  exact (mul_eq_zero.1 h).resolve_right (mul_ne_zero (sub_ne_zero.2 hxy) (sub_ne_zero.2 hxz))

/-- The power sums of errors `a`, `b`, `c` at different locators are not those of one error, at a locator `l`, when two of the errors are there. -/
theorem not_geometric_of_powerSums {a b c x y z l : R} (ha : a ≠ 0) (hb : b ≠ 0) (hxy : x ≠ y) (hxz : x ≠ z) (hyz : y ≠ z)
    (h1 : a * x + b * y + c * z = (a + b + c) * l) (h2 : a * x ^ 2 + b * y ^ 2 + c * z ^ 2 = (a * x + b * y + c * z) * l)
    (h3 : a * x ^ 3 + b * y ^ 3 + c * z ^ 3 = (a * x ^ 2 + b * y ^ 2 + c * z ^ 2) * l) : False := by
  have hx : a * (x - l) = 0 := eq_zero_of_powerSums (b := b * (y - l)) (c := c * (z - l)) hxy hxz
    (by linear_combination h1) (by linear_combination h2) (by linear_combination h3)
  have hy : b * (y - l) = 0 := eq_zero_of_powerSums (b := a * (x - l)) (c := c * (z - l)) hxy.symm hyz
    (by linear_combination h1) (by linear_combination h2) (by linear_combination h3)
  have ex : x = l := sub_eq_zero.1 ((mul_eq_zero.1 hx).resolve_left ha)
  have ey : y = l := sub_eq_zero.1 ((mul_eq_zero.1 hy).resolve_left hb)
  exact hxy (ex.trans ey.symm)

end Vandermonde

/-! ## Errors and locators as elements of GF(256) -/

theorem GE.noZeroDivisors : letI := GE.ring; NoZeroDivisors GE := by
  let := GE.ring
  exact ⟨fun {a b} h => (GE.mul_eq_zero a b (congrArg GE.n h)).imp (fun h => GE.ext h) (fun h => GE.ext h)⟩

/-- The error in a symbol. -/
def geOf (v : Byte) : GE := ⟨v.toNat, v.isLt⟩

/-- The locator α^(67 − i) of symbol `i`. -/
def geLoc (i : Nat) : GE := ⟨gfAlpha (67 - i), gfAlpha_lt _⟩

theorem geOf_ne_zero {v : Byte} (h : v ≠ 0) : letI := GE.ring; geOf v ≠ 0 :=
  fun e => h (BitVec.eq_of_toNat_eq (congrArg GE.n e))

theorem geLoc_inj {i j : Nat} (hi : i < 68) (hj : j < 68) (h : geLoc i = geLoc j) : i = j := by
  have := gfAlpha_inj (67 - i) (67 - j) (by omega) (by omega) (congrArg GE.n h)
  omega

/-- A power of a locator, as the syndromes take it. -/
theorem geLoc_pow (i j : Nat) (hj : j ≤ 3) : letI := GE.ring; (geLoc i ^ j).n = gfAlpha (j * (67 - i)) := by
  let := GE.ring
  induction j with
  | zero => rw [pow_zero, Nat.zero_mul]; rfl
  | succ j ih =>
    have bound : (j + 1) * (67 - i) ≤ 3 * 67 := Nat.mul_le_mul hj (Nat.sub_le ..)
    rw [pow_succ, gfAlpha_mul j _ (by omega), ← ih (by omega)]
    rfl

/-- The j-th syndrome of three errors is their j-th power sum. -/
theorem sectorSyndrome_three (n i j k : Nat) (v w x : Byte) (hn : n ≤ 3) : letI := GE.ring;
    sectorSyndrome n [(i, v), (j, w), (k, x)] = (geOf v * geLoc i ^ n + geOf w * geLoc j ^ n + geOf x * geLoc k ^ n).n := by
  let := GE.ring
  have term : ∀ (i : Nat) (v : Byte), gfMul v.toNat (gfAlpha (n * (67 - i))) = (geOf v * geLoc i ^ n).n := fun i v => by
    rw [← geLoc_pow i n hn]
    rfl
  simp only [sectorSyndrome, List.foldl_cons, List.foldl_nil, term, xorN_eq, Nat.zero_xor]
  rfl

/-- A symbol with error zero adds nothing. -/
theorem sectorSyndrome_append_zero (n k : Nat) (l : List (Nat × Byte)) : sectorSyndrome n (l ++ [(k, 0)]) = sectorSyndrome n l := by
  have h : gfMul 0 (gfAlpha (n * (67 - k))) = 0 := (gfMul_comm _ _ (by omega) (gfAlpha_lt _)).trans (gfMul_zero _ (gfAlpha_lt _))
  simp [sectorSyndrome, List.foldl_append, h, xorN_eq]

/-! ## The decoder -/

/-- The decoder sees the error pattern by its four syndromes alone. -/
theorem sectorDecode_congr {e f : List (Nat × Byte)} (h : ∀ n, sectorSyndrome n e = sectorSyndrome n f) : sectorDecode e = sectorDecode f := by
  simp only [sectorDecode, h]

/-- Syndromes that are not all zero and not those of one symbol in error are reported. -/
theorem sectorDecode_uncorrectable {e : List (Nat × Byte)}
    (dirty : ¬ (sectorSyndrome 0 e = 0 ∧ sectorSyndrome 1 e = 0 ∧ sectorSyndrome 2 e = 0 ∧ sectorSyndrome 3 e = 0))
    (notOne : ∀ i, gfMul (sectorSyndrome 0 e) (gfAlpha (67 - i)) = sectorSyndrome 1 e →
      gfMul (sectorSyndrome 1 e) (gfAlpha (67 - i)) = sectorSyndrome 2 e → gfMul (sectorSyndrome 2 e) (gfAlpha (67 - i)) ≠ sectorSyndrome 3 e) :
    sectorDecode e = .uncorrectable := by
  unfold sectorDecode
  simp only [if_neg dirty]
  split
  · rfl
  · split
    · next i found =>
      have first := List.find?_some found
      exact if_neg fun h => notOne i (by simpa using first) h.1 h.2
    · rfl

/-- Errors in three symbols, of which the third may be none, are reported. -/
theorem sectorDecode_three {i j k : Nat} {v w : Byte} (x : Byte) (hi : i < 68) (hj : j < 68) (hk : k < 68) (hij : i ≠ j) (hik : i ≠ k) (hjk : j ≠ k)
    (hv : v ≠ 0) (hw : w ≠ 0) : sectorDecode [(i, v), (j, w), (k, x)] = .uncorrectable := by
  let := GE.ring
  have := GE.noZeroDivisors
  have locs : ∀ {i j}, i < 68 → j < 68 → i ≠ j → geLoc i ≠ geLoc j := fun hi hj h e => h (geLoc_inj hi hj e)
  have s0 := sectorSyndrome_three 0 i j k v w x (by omega)
  have s1 := sectorSyndrome_three 1 i j k v w x (by omega)
  have s2 := sectorSyndrome_three 2 i j k v w x (by omega)
  have s3 := sectorSyndrome_three 3 i j k v w x (by omega)
  simp only [pow_zero, pow_one, mul_one] at s0 s1
  refine sectorDecode_uncorrectable (fun ⟨h0, h1, h2, _⟩ => ?_) (fun m h1 h2 h3 => ?_)
  · rw [s0] at h0
    rw [s1] at h1
    rw [s2] at h2
    exact geOf_ne_zero hv (eq_zero_of_powerSums (locs hi hj hij) (locs hi hk hik) (GE.ext h0) (GE.ext h1) (GE.ext h2))
  · rw [s0, s1] at h1
    rw [s1, s2] at h2
    rw [s2, s3] at h3
    exact not_geometric_of_powerSums (l := geLoc m) (geOf_ne_zero hv) (geOf_ne_zero hw) (locs hi hj hij) (locs hi hk hik) (locs hj hk hjk)
      (GE.ext h1.symm) (GE.ext h2.symm) (GE.ext h3.symm)

/-- Two errors are three with the third one zero, at any other place. -/
theorem sectorDecode_two {i j : Nat} {v w : Byte} (hi : i < 68) (hj : j < 68) (hij : i ≠ j) (hv : v ≠ 0) (hw : w ≠ 0) :
    sectorDecode [(i, v), (j, w)] = .uncorrectable := by
  obtain ⟨k, hk, hik, hjk⟩ : ∃ k < 68, i ≠ k ∧ j ≠ k := by
    by_cases h0 : i = 0 ∨ j = 0
    · by_cases h1 : i = 1 ∨ j = 1
      · exact ⟨2, by omega⟩
      · exact ⟨1, by omega⟩
    · exact ⟨0, by omega⟩
  rw [← sectorDecode_three 0 hi hj hk hij hik hjk hv hw]
  exact sectorDecode_congr fun n => (sectorSyndrome_append_zero n k [(i, v), (j, w)]).symm

/-- One error is found at its symbol, whatever its value: S0 is its value, and only its own locator leads from S0 to S1. -/
theorem sectorDecode_one {i : Nat} {v : Byte} (hi : i < 68) (hv : v ≠ 0) : sectorDecode [(i, v)] = .corrected i v := by
  have s : ∀ n, sectorSyndrome n [(i, v)] = gfMul v.toNat (gfAlpha (n * (67 - i))) := fun n => by
    simp [sectorSyndrome, xorN_eq]
  have v0 : v.toNat ≠ 0 := fun h => hv (BitVec.eq_of_toNat_eq h)
  have vlt : v.toNat < 256 := v.isLt
  have s0 : gfMul v.toNat (gfAlpha (0 * (67 - i))) = v.toNat := by rw [Nat.zero_mul]; exact gfMul_one _ vlt
  have s1 : gfMul v.toNat (gfAlpha (1 * (67 - i))) ≠ 0 := fun h =>
    (gfMul_eq_zero _ _ vlt (gfAlpha_lt _) h).elim v0 (gfAlpha_ne_zero _)
  have next : ∀ n < 3, gfMul (gfMul v.toNat (gfAlpha (n * (67 - i)))) (gfAlpha (67 - i)) = gfMul v.toNat (gfAlpha ((n + 1) * (67 - i))) := fun n hn => by
    have bound : (n + 1) * (67 - i) ≤ 3 * 67 := Nat.mul_le_mul hn (Nat.sub_le ..)
    rw [gfMul_assoc _ _ _ vlt (gfAlpha_lt _) (gfAlpha_lt _), ← gfAlpha_mul n _ (by omega)]
  have found : (List.range 68).find? (fun m => gfMul v.toNat (gfAlpha (67 - m)) == gfMul v.toNat (gfAlpha (1 * (67 - i)))) = some i := by
    rw [List.find?_range_eq_some]
    refine ⟨by rw [Nat.one_mul]; exact beq_self_eq_true _, List.mem_range.2 hi, fun m hm => ?_⟩
    have : gfMul v.toNat (gfAlpha (67 - m)) ≠ gfMul v.toNat (gfAlpha (1 * (67 - i))) := fun h => by
      rw [Nat.one_mul] at h
      have := gfAlpha_inj _ _ (by omega) (by omega) (gfMul_cancel _ _ _ vlt (gfAlpha_lt _) (gfAlpha_lt _) v0 h)
      omega
    simpa using this
  unfold sectorDecode
  simp only [s, s0]
  rw [if_neg (fun h => v0 h.1), if_neg (by simp only [v0, s1, or_self, not_false_iff]), found]
  dsimp only
  rw [if_pos ⟨next 1 (by omega), next 2 (by omega)⟩, BitVec.ofNat_toNat, BitVec.setWidth_eq]

/-- Settles O50: one error is corrected at its symbol; two or three are no geometric row of syndromes, by the Vandermonde argument (R327, R328). -/
theorem sectorCode : Obligations.SectorCode :=
  ⟨rfl, fun _ _ hi hv => sectorDecode_one hi hv, fun _ _ _ _ hi hj hij hv hw => sectorDecode_two hi hj hij hv hw,
    fun _ _ _ _ _ x hi hj hk hij hik hjk hv hw _ => sectorDecode_three x hi hj hk hij hik hjk hv hw⟩

end Sys2Proof.Machine
end

section
/-! Closing tokens (R59) and causes of lateness (R60). -/
namespace Sys2Proof.Machine

/-! ## The merge keeps the token that outranks the others -/

/-- Token `b` takes the place of token `a` in a merge: it is later, or as late and of a lower member (R59). -/
def Outranks (b a : Token) : Prop :=
  a.lateNs < b.lateNs ∨ a.lateNs = b.lateNs ∧ (b.node < a.node ∨ b.node = a.node ∧ b.part < a.part)

theorem mergeToken_eq (a b : Token) [Decidable (Outranks b a)] : mergeToken a b = if Outranks b a then b else a := by
  unfold mergeToken
  by_cases h1 : a.lateNs < b.lateNs
  · rw [if_pos h1, if_pos (.inl h1)]
  by_cases h2 : b.lateNs < a.lateNs
  · rw [if_neg h1, if_pos h2, if_neg (by unfold Outranks; omega)]
  · rw [if_neg h1, if_neg h2]
    exact if_congr (by unfold Outranks; omega) rfl rfl

theorem mergeToken_of_outranks {a b : Token} (h : Outranks b a) : mergeToken a b = b := by
  classical rw [mergeToken_eq, if_pos h]

theorem mergeToken_of_not_outranks {a b : Token} (h : ¬ Outranks b a) : mergeToken a b = a := by
  classical rw [mergeToken_eq, if_neg h]

theorem outranks_trans {a b c : Token} (hab : Outranks a b) (hbc : Outranks b c) : Outranks a c := by
  unfold Outranks at *; omega

theorem not_outranks_trans {a b c : Token} (hab : ¬ Outranks a b) (hbc : ¬ Outranks b c) : ¬ Outranks a c := by
  unfold Outranks at *; omega

theorem outranks_asymm {a b : Token} (h : Outranks a b) : ¬ Outranks b a := by
  unfold Outranks at *; omega

/-- Of two different members one outranks the other. -/
theorem outranks_or {a b : Token} (h : (a.node, a.part) ≠ (b.node, b.part)) : Outranks a b ∨ Outranks b a := by
  rw [Ne, Prod.mk.injEq] at h
  unfold Outranks
  omega

theorem mergeToken_assoc (a b c : Token) : mergeToken (mergeToken a b) c = mergeToken a (mergeToken b c) := by
  by_cases hba : Outranks b a <;> by_cases hcb : Outranks c b
  · rw [mergeToken_of_outranks hba, mergeToken_of_outranks hcb, mergeToken_of_outranks (outranks_trans hcb hba)]
  · rw [mergeToken_of_outranks hba, mergeToken_of_not_outranks hcb, mergeToken_of_outranks hba]
  · rw [mergeToken_of_not_outranks hba, mergeToken_of_outranks hcb]
  · rw [mergeToken_of_not_outranks hba, mergeToken_of_not_outranks hcb, mergeToken_of_not_outranks hba,
      mergeToken_of_not_outranks (not_outranks_trans hcb hba)]

theorem mergeToken_comm {a b : Token} (h : (a.node, a.part) ≠ (b.node, b.part)) : mergeToken a b = mergeToken b a := by
  rcases outranks_or h with k | k
  · rw [mergeToken_of_outranks k, mergeToken_of_not_outranks (outranks_asymm k)]
  · rw [mergeToken_of_outranks k, mergeToken_of_not_outranks (outranks_asymm k)]

theorem not_outranks_self (a : Token) : ¬ Outranks a a := fun h => outranks_asymm h h

/-- The merged token of a list is one of them, and none outranks it. -/
theorem foldl_mergeToken (l : List Token) (a : Token) :
    l.foldl mergeToken a ∈ a :: l ∧ ∀ u ∈ a :: l, ¬ Outranks u (l.foldl mergeToken a) := by
  induction l generalizing a with
  | nil => exact ⟨List.mem_singleton_self a, by simpa using not_outranks_self a⟩
  | cons b l ih =>
    rw [List.foldl_cons]
    obtain ⟨mem, top⟩ := ih (mergeToken a b)
    have rest := fun u hu => top u (List.mem_cons_of_mem _ hu)
    have first := top _ List.mem_cons_self
    by_cases h : Outranks b a
    · rw [mergeToken_of_outranks h] at mem rest first ⊢
      refine ⟨List.mem_cons_of_mem _ mem, List.forall_mem_cons.2 ⟨?_, List.forall_mem_cons.2 ⟨first, rest⟩⟩⟩
      exact not_outranks_trans (outranks_asymm h) first
    · rw [mergeToken_of_not_outranks h] at mem rest first ⊢
      refine ⟨?_, List.forall_mem_cons.2 ⟨first, List.forall_mem_cons.2 ⟨not_outranks_trans h first, rest⟩⟩⟩
      rcases List.mem_cons.1 mem with e | m
      · rw [e]
        exact List.mem_cons_self
      · exact List.mem_cons_of_mem _ (List.mem_cons_of_mem _ m)

theorem not_outranks_iff {t u : Token} : ¬ Outranks u t ↔
    u.lateNs < t.lateNs ∨ u.lateNs = t.lateNs ∧ (t.node < u.node ∨ t.node = u.node ∧ t.part ≤ u.part) := by
  unfold Outranks; omega

/-! ## The cause of a lateness -/

/-- The fold of max over a list is its greatest element, or the start. -/
theorem le_foldl_max (l : List Nat) (a : Nat) : a ≤ l.foldl max a ∧ ∀ y ∈ l, y ≤ l.foldl max a := by
  induction l generalizing a with
  | nil => exact ⟨Nat.le_refl a, by simp⟩
  | cons b l ih =>
    obtain ⟨start, rest⟩ := ih (max a b)
    rw [List.foldl_cons]
    exact ⟨by omega, List.forall_mem_cons.2 ⟨by omega, rest⟩⟩

theorem foldl_max_mem (l : List Nat) (a : Nat) : l.foldl max a ∈ a :: l := by
  induction l generalizing a with
  | nil => exact List.mem_singleton_self a
  | cons b l ih =>
    rw [List.foldl_cons]
    rcases List.mem_cons.1 (ih (max a b)) with e | m
    · rw [e]
      rcases max_choice a b with h | h <;> simp [h]
    · exact List.mem_cons_of_mem _ (List.mem_cons_of_mem _ m)

theorem causeOf_of_no_stall {late : Nat} {stalls : List Nat} (hl : late ≠ 0) (h : ∀ x ∈ stalls, x = 0) : causeOf late stalls = 7 := by
  have best : stalls.foldl max 0 = 0 := (List.mem_cons.1 (foldl_max_mem stalls 0)).elim id (h _)
  unfold causeOf
  rw [if_neg hl, best]
  rfl

/-- The cause names the first place of the greatest stall time (R60). -/
theorem causeOf_of_stall {late : Nat} {stalls : List Nat} (hl : late ≠ 0) (h : ∃ x ∈ stalls, x ≠ 0) :
    ∃ i x, causeOf late stalls = i + 1 ∧ stalls[i]? = some x ∧ (∀ y ∈ stalls, y ≤ x) ∧ ∀ (j y : Nat), j < i → stalls[j]? = some y → y < x := by
  have top := (le_foldl_max stalls 0).2
  obtain ⟨z, hz, z0⟩ := h
  have best : stalls.foldl max 0 ≠ 0 := by
    have := top z hz
    omega
  have mem : stalls.foldl max 0 ∈ stalls := (List.mem_cons.1 (foldl_max_mem stalls 0)).resolve_left best
  have place := List.idxOf_lt_length_of_mem mem
  refine ⟨stalls.idxOf (stalls.foldl max 0), stalls.foldl max 0, ?_, ?_, top, fun j y hj hy => ?_⟩
  · unfold causeOf
    simp only [if_neg hl, if_neg best]
    omega
  · rw [List.getElem?_eq_getElem place, List.getElem_idxOf]
  · obtain ⟨hlen, rfl⟩ := List.getElem?_eq_some_iff.1 hy
    exact lt_of_le_of_ne (top _ (List.getElem_mem hlen)) (by simpa using List.not_of_lt_findIdx hj)

/-- Settles O12: a merge keeps the token that outranks the others; a cause is the first place of the greatest stall time (R59, R60). -/
theorem tokensMerge : Obligations.TokensMerge := by
  refine ⟨⟨mergeToken_assoc, fun a b => mergeToken_comm, fun a l => ?_⟩, fun late stalls _ =>
    ⟨fun h => by rw [h]; rfl, causeOf_of_no_stall, causeOf_of_stall⟩⟩
  obtain ⟨mem, top⟩ := foldl_mergeToken l a
  exact ⟨_, mem, rfl, fun u hu => not_outranks_iff.1 (top u hu)⟩

end Sys2Proof.Machine
end

section
/-! Bookings (R73, R74). -/
namespace Sys2Proof.Machine

/-! ## The beat that a booking gets -/

/-- A beat in which nothing is booked may be booked (R74). -/
theorem bookable_of_unbooked {l : List Booking} {b : Booking} (h : ∀ c ∈ l, c.beat ≠ b.beat) : bookable l b = true := by
  simp only [bookable, Bool.not_eq_true', List.any_eq_false, Bool.and_eq_true, beq_iff_eq]
  exact fun c hc e => h c hc e.1.1

/-- Of the bookings from beat `n` on, one fewer lies after it when one lies in it. -/
theorem countP_from_succ_lt {l : List Booking} {n : Nat} (h : ∃ c ∈ l, c.beat = n) :
    l.countP (fun c => decide (n + 1 ≤ c.beat)) < l.countP (fun c => decide (n ≤ c.beat)) := by
  induction l with
  | nil => simp at h
  | cons b l ih =>
    have mono : l.countP (fun c => decide (n + 1 ≤ c.beat)) ≤ l.countP (fun c => decide (n ≤ c.beat)) :=
      List.countP_mono_left fun c _ hc => by simp only [decide_eq_true_eq] at hc ⊢; omega
    simp only [List.countP_cons, decide_eq_true_eq]
    by_cases hb : b.beat = n
    · rw [if_neg (by omega), if_pos (by omega)]
      omega
    · obtain ⟨c, hc, e⟩ := h
      have hl := ih ⟨c, (List.mem_cons.1 hc).resolve_left (fun x => hb (x ▸ e)), e⟩
      split_ifs <;> omega

/-- The search for a beat ends in the first one that the rules allow, when it may try one beat more than are booked. -/
theorem bookBeat_spec {l : List Booking} {kind unit : Nat} (f beat : Nat) (hf : l.countP (fun c => decide (beat ≤ c.beat)) < f) :
    beat ≤ bookBeat l kind unit f beat ∧ bookable l ⟨bookBeat l kind unit f beat, kind, unit⟩ = true ∧
      ∀ n, beat ≤ n → n < bookBeat l kind unit f beat → bookable l ⟨n, kind, unit⟩ = false := by
  induction f generalizing beat with
  | zero => omega
  | succ f ih =>
    rw [bookBeat]
    split
    · next free => exact ⟨Nat.le_refl _, free, fun n _ _ => by omega⟩
    · next taken =>
      have booked : ∃ c ∈ l, c.beat = beat := by
        by_contra none
        exact taken (bookable_of_unbooked fun c hc e => none ⟨c, hc, e⟩)
      have fewer := countP_from_succ_lt booked
      obtain ⟨later, free, first⟩ := ih (beat + 1) (by omega)
      refine ⟨by omega, free, fun n hn hlt => ?_⟩
      by_cases e : n = beat
      · rw [e]
        simpa using taken
      · exact first n (by omega) hlt

/-! ## The list -/

theorem insertBooking_perm (b : Booking) (l : List Booking) : (insertBooking b l).Perm (b :: l) := by
  induction l with
  | nil => rfl
  | cons c t ih =>
    rw [insertBooking]
    split
    · rfl
    · exact (ih.cons c).trans (.swap ..)

theorem before_iff (a b : Booking) : a.before b = true ↔
    a.beat < b.beat ∨ a.beat = b.beat ∧ (a.kind < b.kind ∨ a.kind = b.kind ∧ a.unit < b.unit) := by
  simp [Booking.before]

theorem not_before_trans {a b c : Booking} (hab : ¬ a.before b) (hbc : ¬ b.before c) : ¬ a.before c := by
  rw [before_iff] at *
  omega

theorem before_asymm {a b : Booking} (h : a.before b) : ¬ b.before a := by
  rw [before_iff] at *
  omega

/-- A booking enters a list in the order of R73 at its place. -/
theorem insertBooking_sorted {b : Booking} {l : List Booking} (h : l.Pairwise fun x y => ¬ y.before x) :
    (insertBooking b l).Pairwise fun x y => ¬ y.before x := by
  induction l with
  | nil => exact List.pairwise_singleton ..
  | cons c t ih =>
    obtain ⟨first, rest⟩ := List.pairwise_cons.1 h
    rw [insertBooking]
    split
    · next hb =>
      exact List.pairwise_cons.2 ⟨List.forall_mem_cons.2 ⟨before_asymm hb, fun x hx => not_before_trans (first x hx) (before_asymm hb)⟩, h⟩
    · next hb =>
      refine List.pairwise_cons.2 ⟨fun x hx => ?_, ih rest⟩
      rcases List.mem_cons.1 ((insertBooking_perm b t).mem_iff.1 hx) with rfl | hx
      · exact hb
      · exact first x hx

theorem State.books_book (s : State) (p kind unit beat : Nat) : ((s.book p kind unit beat).part p).books =
    insertBooking ⟨bookBeat (s.part p).books kind unit ((s.part p).books.length + 1) (max beat (s.beat p + 2)), kind, unit⟩ (s.part p).books := by
  simp [State.book]

/-- Settles O44: the search takes the first beat that the rules allow (R74), since one more beat is tried than are booked, and the entry is
inserted at its place in the order of R73. -/
theorem bookingsKeepRules : Obligations.BookingsKeepRules := by
  intro s p kind unit beat
  have few := Nat.lt_succ_of_le (List.countP_le_length (l := (s.part p).books) (p := fun c => decide (max beat (s.beat p + 2) ≤ c.beat)))
  obtain ⟨late, free, first⟩ := bookBeat_spec (kind := kind) (unit := unit) _ _ few
  rw [State.books_book]
  exact ⟨_, rfl, rfl, rfl, (Nat.le_max_left ..).trans late, (Nat.le_max_right ..).trans late, free, first, insertBooking_sorted,
    insertBooking_perm ..⟩

end Sys2Proof.Machine
end

section
/-! The loss scale of Abacus, and the state block in the flash (R471, R472). -/
namespace Sys2Proof.Machine

/-! ## The loss scale -/

section LossScale
variable {s : State} {r : Nat}

/-- A skipped step clears CLEAN and backs the exponent off where it may. -/
theorem State.nextLoss_skip (s : State) (r : Nat) : s.nextLoss r true = (0, if s.flag (ABC_LOSS_BACKOFF r) = true ∧
    sext 8 (s.fget (ABC_LOSS_MIN_EXP r)) < sext 8 (s.fget (ABC_LOSS_EXP r)) then sext 8 (s.fget (ABC_LOSS_EXP r)) - 1
      else sext 8 (s.fget (ABC_LOSS_EXP r))) := rfl

/-- A clean step that does not complete a growth interval counts. -/
theorem State.nextLoss_count (h : s.fget (ABC_LOSS_GROWTH_INT r) = 0 ∨ min (s.fget (ABC_LOSS_CLEAN r) + 1) 0xFFFF < s.fget (ABC_LOSS_GROWTH_INT r)) :
    s.nextLoss r false = (min (s.fget (ABC_LOSS_CLEAN r) + 1) 0xFFFF, sext 8 (s.fget (ABC_LOSS_EXP r))) := by
  unfold State.nextLoss
  exact (if_neg Bool.false_ne_true).trans (if_neg (by omega))

/-- The clean step that completes a growth interval restarts CLEAN and raises the exponent where it may. -/
theorem State.nextLoss_grow (h : s.fget (ABC_LOSS_GROWTH_INT r) ≠ 0) (hc : s.fget (ABC_LOSS_GROWTH_INT r) ≤ min (s.fget (ABC_LOSS_CLEAN r) + 1) 0xFFFF) :
    s.nextLoss r false = (0, if sext 8 (s.fget (ABC_LOSS_EXP r)) < sext 8 (s.fget (ABC_LOSS_MAX_EXP r)) then sext 8 (s.fget (ABC_LOSS_EXP r)) + 1
      else sext 8 (s.fget (ABC_LOSS_EXP r))) := by
  unfold State.nextLoss
  exact (if_neg Bool.false_ne_true).trans (if_pos ⟨h, hc⟩)

end LossScale

/-- Settles O33: the three ways a step moves the loss scale, each by at most one and within the bounds. -/
theorem lossScale : Obligations.LossScale := by
  rintro s r skip e e2 c2 rfl h
  cases skip with
  | true =>
    rw [State.nextLoss_skip, Prod.mk.injEq] at h
    obtain ⟨rfl, rfl⟩ := h
    split_ifs with down
    · simp [down]
      omega
    · simp [down]
      omega
  | false =>
    by_cases grow : s.fget (ABC_LOSS_GROWTH_INT r) ≠ 0 ∧ s.fget (ABC_LOSS_GROWTH_INT r) ≤ min (s.fget (ABC_LOSS_CLEAN r) + 1) 0xFFFF
    · rw [State.nextLoss_grow grow.1 grow.2, Prod.mk.injEq] at h
      obtain ⟨rfl, rfl⟩ := h
      split_ifs with up
      · simp [up, grow.1]
        omega
      · simp [up, grow.1]
    · rw [State.nextLoss_count (by omega), Prod.mk.injEq] at h
      obtain ⟨rfl, rfl⟩ := h
      simp
      omega

/-! ## The state block -/

/-- The next start finds the block that it looks for: the one after the counter, or else the one that the counter names (R472). -/
theorem Rpmc.accepted_of_next {m : Rpmc} {b : StateBlock} (h : mget? m.slots ((m.counter + 1) % 2 ^ 32 % 64) = some b)
    (hs : b.seq = (m.counter + 1) % 2 ^ 32) : m.accepted = some (b, true) := by
  unfold Rpmc.accepted
  simp only [h, if_pos hs]

theorem Rpmc.accepted_of_counted {m : Rpmc} {c : StateBlock} (hn : ∀ b, mget? m.slots ((m.counter + 1) % 2 ^ 32 % 64) = some b → b.seq ≠ (m.counter + 1) % 2 ^ 32)
    (h : mget? m.slots (m.counter % 64) = some c) (hs : c.seq = m.counter) : m.accepted = some (c, false) := by
  unfold Rpmc.accepted
  cases e : mget? m.slots ((m.counter + 1) % 2 ^ 32 % 64) with
  | none => simp only [e, h, if_pos hs]
  | some b => simp only [e, h, if_neg (hn b e), if_pos hs]

theorem stateBlockWrite_of_taken {s : State} (low : s.sec.resetLow = false) (stage : 3 ≤ s.fget SEC_BOOT_STAGE) :
    stateBlockWrite .committed s = s.commit s.blockNow ∧
    stateBlockWrite .uncounted s = { s with
      rpmc := { s.rpmc with slots := mset s.rpmc.slots ((s.rpmc.counter + 1) % 2 ^ 32 % 64) { s.blockNow with seq := (s.rpmc.counter + 1) % 2 ^ 32 } } } ∧
    stateBlockWrite .torn s = { s with rpmc := { s.rpmc with slots := merase s.rpmc.slots ((s.rpmc.counter + 1) % 2 ^ 32 % 64) } } := by
  have taken : s.blockTaken = true := by simp [State.blockTaken, low, stage]
  simp [stateBlockWrite, taken]

/-- A committed write moves the counter to its block. -/
theorem State.commit_rpmc (s : State) (b : StateBlock) : (s.commit b).rpmc = { s.rpmc with
    counter := (s.rpmc.counter + 1) % 2 ^ 32,
    slots := mset s.rpmc.slots ((s.rpmc.counter + 1) % 2 ^ 32 % 64) { b with seq := (s.rpmc.counter + 1) % 2 ^ 32 } } := rfl

/-- Settles O57: the write of the state block by where it ends (R471, R472). -/
theorem stateBlockCommits : Obligations.StateBlockCommits := by
  rintro s c low stage small rfl
  obtain ⟨committed, uncounted, torn⟩ := stateBlockWrite_of_taken low stage
  refine ⟨fun stale => ?_, ?_, fun b held seq => ?_⟩
  · refine ⟨_, _, congrArg Host.Outcome.next committed, rfl, ?_, rfl, rfl, Rpmc.accepted_of_counted (fun b hb => ?_) ?_ rfl⟩
    · exact (State.fget_fset_self ..).trans (Nat.mod_mod ..)
    · rw [State.commit_rpmc] at hb ⊢
      rw [mget?_mset, if_neg (by dsimp only; omega)] at hb
      exact stale b hb
    · rw [State.commit_rpmc, mget?_mset, if_pos rfl]
      rfl
  · exact ⟨_, _, congrArg Host.Outcome.next uncounted, rfl, rfl, Rpmc.accepted_of_next ((mget?_mset ..).trans (if_pos rfl)) rfl, rfl⟩
  · refine ⟨_, congrArg Host.Outcome.next torn, Rpmc.accepted_of_counted (fun b hb => ?_) ?_ seq, rfl⟩
    · rw [mget?_merase, if_pos rfl] at hb
      cases hb
    · rw [mget?_merase, if_neg (by dsimp only; omega)]
      exact held

end Sys2Proof.Machine
end

section
/-! CLEAR (R102). -/
namespace Sys2Proof.Machine

/-! ## Rings and slots -/

section Clear
variable {s : State}

/-- The rings and slots of a partition after a CLEAR: rings OFF, slots empty. -/
def State.haltUnits (s : State) (p : Nat) : State := (s.each (s.ringsOf p) State.offRing).each (s.slotsOf p) State.idleSlot

/-- A change that neither an OFF ring nor an emptied slot makes is not made. -/
theorem State.haltUnits_keeps {β : Type} (f : State → β) (ring : ∀ s n, f (State.offRing s n) = f s) (slot : ∀ s x, f (State.idleSlot s x) = f s) (p : Nat) :
    f (s.haltUnits p) = f s :=
  (State.each_keeps _ f _ _ slot).trans (State.each_keeps _ f _ _ ring)

theorem State.fget_idleSlot (s : State) (x : Nat × Nat) (f : Fld) : (s.idleSlot x).fget f = s.fget f := by
  unfold State.idleSlot
  dsimp only
  split <;> rfl

theorem State.fget_offRing_ne (s : State) (n : Nat) {f : Fld} (hs : f.key ≠ (HUB_RING_PTRS_STATE n).key) (he : f.key ≠ (HUB_RING_CTRL_ENABLE n).key) :
    (s.offRing n).fget f = s.fget f := by
  unfold State.offRing
  split
  · rfl
  · exact State.fget_fsets_ne _ _ (by simp [hs, he])

theorem State.layout_haltUnits (s : State) (p : Nat) : (s.haltUnits p).layout = s.layout :=
  State.haltUnits_keeps State.layout (fun s n => s.fget_offRing_ne n
      (by simp only [Fld.key, HUB_LAYOUT_CURRENT, HUB_LAYOUT, HUB_RING_PTRS_STATE, HUB_RING_PTRS]; omega)
      (by simp only [Fld.key, HUB_LAYOUT_CURRENT, HUB_LAYOUT, HUB_RING_CTRL_ENABLE, HUB_RING_CTRL]; omega))
    (fun s x => s.fget_idleSlot x _) p

@[simp] theorem State.part_haltUnits (s : State) (p q : Nat) : (s.haltUnits p).part q = s.part q :=
  State.haltUnits_keeps (State.part · q) (fun s n => by unfold State.offRing; split <;> simp [State.ringOff])
    (fun s x => by unfold State.idleSlot; dsimp only; split <;> rfl) p

@[simp] theorem State.mem_haltUnits (s : State) (p : Nat) : (s.haltUnits p).mem = s.mem :=
  State.haltUnits_keeps State.mem (fun s n => by unfold State.offRing; split <;> simp [State.ringOff])
    (fun s x => by unfold State.idleSlot; dsimp only; split <;> rfl) p

@[simp] theorem State.out_haltUnits (s : State) (p : Nat) : (s.haltUnits p).out = s.out :=
  State.haltUnits_keeps State.out (fun s n => by unfold State.offRing; split <;> simp [State.ringOff])
    (fun s x => by unfold State.idleSlot; dsimp only; split <;> rfl) p

theorem State.ringState_offRing (s : State) (n : Nat) : (s.offRing n).ringState n = 0 := by
  unfold State.offRing
  split
  · assumption
  · exact State.fget_fsets_append_cons [] [(HUB_RING_CTRL_ENABLE n, 0)] _ _
      (by simp only [List.mem_singleton, forall_eq, Fld.key, HUB_RING_PTRS_STATE, HUB_RING_PTRS, HUB_RING_CTRL_ENABLE, HUB_RING_CTRL]; omega)

theorem State.ringState_offRing_keep (s : State) (m n : Nat) (h : s.ringState n = 0) : (s.offRing m).ringState n = 0 := by
  by_cases e : n = m
  · rw [e]
    exact s.ringState_offRing m
  · exact (s.fget_offRing_ne m
      (by simp only [Fld.key, HUB_RING_PTRS_STATE, HUB_RING_PTRS]; omega)
      (by simp only [Fld.key, HUB_RING_PTRS_STATE, HUB_RING_PTRS, HUB_RING_CTRL_ENABLE, HUB_RING_CTRL]; omega)).trans h

/-- A slot holds no command, no descriptor and no fresh summary. -/
def State.slotAtRest (s : State) (x : Nat × Nat) : Prop :=
  (s.slot x.1 x.2).cq = [] ∧ (s.slot x.1 x.2).inflight = [] ∧ (s.slot x.1 x.2).fresh = []

theorem State.idleSlot_atRest (s : State) (x : Nat × Nat) : (s.idleSlot x).slotAtRest x := by
  unfold State.slotAtRest State.idleSlot
  dsimp only
  split
  · next h =>
    simp only [Bool.and_eq_true, List.isEmpty_iff] at h
    obtain ⟨⟨⟨⟨⟨⟨cq, inflight⟩, fresh⟩, -⟩, -⟩, -⟩, -⟩ := h
    exact ⟨cq, inflight, fresh⟩
  · rw [State.slot_updSlot_self]
    exact ⟨rfl, rfl, rfl⟩

theorem State.idleSlot_keeps_atRest (s : State) (x y : Nat × Nat) (h : s.slotAtRest y) : (s.idleSlot x).slotAtRest y := by
  by_cases e : slotKey y.1 y.2 = slotKey x.1 x.2
  · have := s.idleSlot_atRest x
    unfold State.slotAtRest State.slot at this ⊢
    rwa [e]
  · unfold State.slotAtRest State.idleSlot
    dsimp only
    split
    · exact h
    · rwa [State.slot_updSlot_ne _ e]

theorem State.haltUnits_slots (s : State) (p : Nat) : ∀ x ∈ s.slotsOf p, (s.haltUnits p).slotAtRest x :=
  State.each_all State.idleSlot_atRest State.idleSlot_keeps_atRest (s.slotsOf p) (s.each (s.ringsOf p) State.offRing)

theorem State.haltUnits_rings (s : State) (p : Nat) : ∀ n ∈ s.ringsOf p, (s.haltUnits p).ringState n = 0 := fun n hn =>
  (State.each_keeps _ (State.ringState · n) _ _ fun s x => s.fget_idleSlot x _).trans
    (State.each_all (P := fun s n => s.ringState n = 0) State.ringState_offRing State.ringState_offRing_keep _ _ n hn)

/-! ## The state after CLEAR -/

/-- The state after a CLEAR that is performed. -/
def State.cleared (s : State) (p : Nat) : State :=
  ((((s.haltUnits p).clearFlds ((s.haltUnits p).clearedFlds p)).updPart p fun q =>
    { q with pend := [], dom := .idle, coll := .idle, runFirst := 0, endedBeat := 0, sentDrops := [] })).fset (HUB_PART_CTRL_STATE p) 1

theorem clear_of_faulted {p : Nat} (faulted : s.pstate p = 5) (live : s.fatal = false) : clear p s = s.cleared p := by
  have on : ¬ (s.pstate p ≠ 5 ∨ s.fatal = true) := by simp [faulted, live]
  simp only [clear, if_neg on, State.cleared, State.haltUnits]

theorem State.fget_cleared_ne {p : Nat} {f : Fld} (h : f.key ≠ (HUB_PART_CTRL_STATE p).key) :
    (s.cleared p).fget f = ((s.haltUnits p).clearFlds ((s.haltUnits p).clearedFlds p)).fget f := State.fget_fset_ne _ h _

/-- A field that CLEAR clears reads its reset value after it. -/
theorem State.fget_cleared_mem {p : Nat} {f : Fld} (h : f.key ≠ (HUB_PART_CTRL_STATE p).key) (hf : f ∈ (s.haltUnits p).clearedFlds p) :
    (s.cleared p).fget f = f.reset := (State.fget_cleared_ne h).trans (State.fget_clearFlds_mem hf)

theorem State.slotsOf_haltUnits (s : State) (p : Nat) : (s.haltUnits p).slotsOf p = s.slotsOf p := by
  unfold State.slotsOf State.regions
  rw [State.layout_haltUnits]

theorem State.regions_haltUnits (s : State) (p : Nat) : (s.haltUnits p).regions p = s.regions p := by
  unfold State.regions
  rw [State.layout_haltUnits]

/-- The fields of a slot that CLEAR clears. -/
theorem State.slot_clearedFlds {p : Nat} {x : Nat × Nat} (hx : x ∈ s.slotsOf p) : VEC_CHECK_LOG_VALID x.1 x.2 ∈ (s.haltUnits p).clearedFlds p ∧
    (∀ m < 4, ARR_CHECK_LOG_VALID x.1 x.2 m ∈ (s.haltUnits p).clearedFlds p) ∧ ∀ g < 16, CORE_ACC_GRP_STATE x.1 x.2 g ∈ (s.haltUnits p).clearedFlds p := by
  unfold State.clearedFlds
  rw [State.slotsOf_haltUnits]
  have place : ∀ {f : Fld} {b c d : List Fld} {l : Nat × Nat → List Fld}, f ∈ l x → f ∈ (s.slotsOf p).flatMap l ++ b ++ c ++ d :=
    fun h => List.mem_append_left _ (List.mem_append_left _ (List.mem_append_left _ (List.mem_flatMap.2 ⟨x, hx, h⟩)))
  refine ⟨place (by simp), fun m hm => place ?_, fun g hg => place ?_⟩
  · exact List.mem_append_left _ (List.mem_append_left _ (List.mem_map.2 ⟨m, List.mem_range.2 hm, rfl⟩))
  · exact List.mem_append_right _ (List.mem_flatMap.2 ⟨g, List.mem_range.2 hg, List.mem_cons_self⟩)

/-- The fields of a region that CLEAR clears. -/
theorem State.region_clearedFlds {p r : Nat} (hr : r ∈ s.regions p) :
    ∀ f ∈ [KAL_FAULT_LOG_VALID r, ABC_CHECK_LOG_VALID r, YOY_LOG_VALID r, RGN_DUP_LOG_VALID r], f ∈ (s.haltUnits p).clearedFlds p := by
  intro f hf
  unfold State.clearedFlds
  rw [State.regions_haltUnits]
  exact List.mem_append_left _ (List.mem_append_left _ (List.mem_append_right _ (List.mem_flatMap.2 ⟨r, hr, hf⟩)))

theorem State.fault_clearedFlds (s : State) (p : Nat) : HUB_PART_CTRL_FAULT p ∈ (s.haltUnits p).clearedFlds p :=
  List.mem_append_right _ (by simp)

end Clear

/-- The register of a field that CLEAR leaves at 0 is not the one whose STATE it sets. -/
theorem key_ne_PART_STATE {f : Fld} {p : Nat} (hp : p < 4) (h : 0xF0000000260 ≤ f.reg) : f.key ≠ (HUB_PART_CTRL_STATE p).key := by
  simp only [Fld.key, HUB_PART_CTRL_STATE, HUB_PART_CTRL]
  omega

/-- Settles O19: CLEAR halts the rings and slots of the partition, clears its log and group fields, and stops it (R102). -/
theorem clearStops : Obligations.ClearStops := by
  intro s p
  refine ⟨fun h => congrArg Host.Outcome.next (if_pos h), fun faulted live => ⟨s.cleared p, congrArg Host.Outcome.next (clear_of_faulted faulted live),
    State.fget_fset_self .., ?_, fun n hn => ?_, fun x hx => ?_, fun r hr => ?_, ?_, ?_, ?_, fun q hq => ?_, fun a => ?_, ?_⟩⟩
  · exact State.fget_cleared_mem (by simp [Fld.key, HUB_PART_CTRL_FAULT, HUB_PART_CTRL_STATE]) (s.fault_clearedFlds p)
  · refine (State.fget_cleared_ne (key_ne_PART_STATE p.isLt (by simp only [HUB_RING_PTRS_STATE, HUB_RING_PTRS]; omega))).trans ?_
    rw [State.fget_clearFlds]
    split
    · rfl
    · exact s.haltUnits_rings p n hn
  · obtain ⟨vec, arr, acc⟩ := State.slot_clearedFlds hx
    obtain ⟨cq, inflight, fresh⟩ := s.haltUnits_slots p x hx
    refine ⟨cq, inflight, fresh, State.fget_cleared_mem (key_ne_PART_STATE p.isLt ?_) vec,
      fun m hm => State.fget_cleared_mem (key_ne_PART_STATE p.isLt ?_) (arr m hm), fun g hg => State.fget_cleared_mem (key_ne_PART_STATE p.isLt ?_) (acc g hg)⟩
    · simp only [VEC_CHECK_LOG_VALID, VEC_CHECK_LOG]; omega
    · simp only [ARR_CHECK_LOG_VALID, ARR_CHECK_LOG]; omega
    · simp only [CORE_ACC_GRP_STATE, CORE_ACC_GRP]; omega
  · have zero : ∀ f ∈ [KAL_FAULT_LOG_VALID r, ABC_CHECK_LOG_VALID r, YOY_LOG_VALID r, RGN_DUP_LOG_VALID r], (s.cleared p).fget f = f.reset := fun f hf =>
      State.fget_cleared_mem (key_ne_PART_STATE p.isLt (by
        simp only [List.mem_cons, List.not_mem_nil, or_false] at hf
        rcases hf with rfl | rfl | rfl | rfl
        · simp only [KAL_FAULT_LOG_VALID, KAL_FAULT_LOG]; omega
        · simp only [ABC_CHECK_LOG_VALID, ABC_CHECK_LOG]; omega
        · simp only [YOY_LOG_VALID, YOY_LOG]; omega
        · simp only [RGN_DUP_LOG_VALID, RGN_DUP_LOG]; omega)) (State.region_clearedFlds hr f hf)
    exact ⟨zero _ (by simp), zero _ (by simp), zero _ (by simp), zero _ (by simp)⟩
  · simp [State.cleared]
  · simp [State.cleared]
  · simp [State.cleared]
  · simp [State.cleared, State.part_updPart_ne _ hq]
  · exact congrArg (Memory.read · a) (s.mem_haltUnits p)
  · exact s.out_haltUnits p

end Sys2Proof.Machine
end

section
/-! BOUNDARY_SYMBOL at a member without the master (R56, R66). -/
namespace Sys2Proof.Machine

section Boundary
variable {s : State}

/-! ## BEAT_LATE and the statistics -/

/-- BEAT_LATE after a boundary symbol. -/
def State.withLate (s : State) (p : Nat) (b : BoundaryMsg) : State :=
  s.fsets [(BEAT_LATE_NODE p, b.tok.node), (BEAT_LATE_PART p, b.tok.part), (BEAT_LATE_CAUSE p, b.tok.cause),
    (BEAT_LATE_LATE_US p, b.stretchUs), (BEAT_LATE_BEAT_LO p, (b.number - 1) % 65536)]

/-- A statistic counts unless `c` holds. -/
def State.countUnless (s : State) (c : Prop) [Decidable c] (f : Fld) : State := if c then s else s.fadd f 1

theorem State.fget_countUnless_ne {c : Prop} [Decidable c] {f g : Fld} (h : g.key ≠ f.key) : (s.countUnless c f).fget g = s.fget g := by
  unfold State.countUnless
  split
  · rfl
  · exact State.fget_fadd_ne _ h 1

theorem State.fget_countUnless_self {c : Prop} [Decidable c] {f : Fld} :
    (s.countUnless c f).fget f = if c then s.fget f else satAdd f.width (s.fget f) 1 := by
  unfold State.countUnless
  split
  · rfl
  · exact State.fget_fadd_self ..

theorem State.countUnless_part {c : Prop} [Decidable c] {f : Fld} (p : Nat) : (s.countUnless c f).part p = s.part p := by
  unfold State.countUnless
  split <;> rfl

theorem State.noteLate_eq (s : State) (p : Nat) (b : BoundaryMsg) :
    s.noteLate p b = ((s.withLate p b).countUnless ((s.part p).dom.ownLate = 0) (BEAT_STATS_OWN_LATE p)).countUnless (b.stretchUs = 0) (BEAT_STATS_STRETCHES p) := by
  unfold State.noteLate State.countUnless
  simp only [State.part_fsets]
  rfl

/-- The fields of BEAT_LATE and BEAT_STATS that a boundary symbol changes. -/
def lateFlds (p : Nat) : List Fld := [BEAT_LATE_NODE p, BEAT_LATE_PART p, BEAT_LATE_CAUSE p, BEAT_LATE_LATE_US p, BEAT_LATE_BEAT_LO p,
  BEAT_STATS_OWN_LATE p, BEAT_STATS_STRETCHES p]

theorem State.noteLate_sameRegs (s : State) (p : Nat) (b : BoundaryMsg) : SameRegs s (s.noteLate p b) (lateFlds p) := by
  intro f hf
  simp only [lateFlds, List.forall_mem_cons] at hf
  obtain ⟨node, part, cause, late, lo, own, stretches, -⟩ := hf
  rw [State.noteLate_eq, State.fget_countUnless_ne stretches, State.fget_countUnless_ne own]
  exact State.fget_fsets_ne _ _ (by simp [node, part, cause, late, lo])

/-- A field of BEAT_LATE keeps through the counting what it got. -/
theorem State.noteLate_late {p : Nat} {b : BoundaryMsg} {f : Fld} (h : f.reg = BEAT_LATE p) (hl : f.lsb < 64) :
    (s.noteLate p b).fget f = (s.withLate p b).fget f := by
  rw [State.noteLate_eq, State.fget_countUnless_ne, State.fget_countUnless_ne]
  · simp only [Fld.key, h, BEAT_STATS_OWN_LATE, BEAT_STATS, BEAT_LATE]; omega
  · simp only [Fld.key, h, BEAT_STATS_STRETCHES, BEAT_STATS, BEAT_LATE]; omega

theorem State.withLate_stats {p : Nat} {b : BoundaryMsg} {f : Fld} (h : f.reg = BEAT_STATS p) (hl : f.lsb < 64) : (s.withLate p b).fget f = s.fget f := by
  refine State.fget_fsets_ne _ _ ?_
  simp only [List.forall_mem_cons, Fld.key, h, BEAT_LATE_NODE, BEAT_LATE_PART, BEAT_LATE_CAUSE, BEAT_LATE_LATE_US, BEAT_LATE_BEAT_LO, BEAT_STATS, BEAT_LATE]
  refine ⟨?_, ?_, ?_, ?_, ?_, by simp⟩ <;> omega

/-- The values that BEAT_LATE takes. -/
theorem State.withLate_fget (s : State) (p : Nat) (b : BoundaryMsg) : (s.withLate p b).fget (BEAT_LATE_NODE p) = b.tok.node % 2 ^ 16 ∧
    (s.withLate p b).fget (BEAT_LATE_PART p) = b.tok.part % 2 ^ 2 ∧ (s.withLate p b).fget (BEAT_LATE_CAUSE p) = b.tok.cause % 2 ^ 3 ∧
    (s.withLate p b).fget (BEAT_LATE_LATE_US p) = b.stretchUs % 2 ^ 24 ∧ (s.withLate p b).fget (BEAT_LATE_BEAT_LO p) = (b.number - 1) % 65536 % 2 ^ 16 := by
  refine ⟨State.fget_fsets_append_cons [] _ _ _ ?_, State.fget_fsets_append_cons [_] _ _ _ ?_, State.fget_fsets_append_cons [_, _] _ _ _ ?_,
    State.fget_fsets_append_cons [_, _, _] _ _ _ ?_, State.fget_fsets_append_cons [_, _, _, _] [] _ _ (by simp)⟩ <;>
  simp [Fld.key, BEAT_LATE_NODE, BEAT_LATE_PART, BEAT_LATE_CAUSE, BEAT_LATE_LATE_US, BEAT_LATE_BEAT_LO]

theorem State.noteLate_ownLate (s : State) (p : Nat) (b : BoundaryMsg) : (s.noteLate p b).fget (BEAT_STATS_OWN_LATE p) =
    if (s.part p).dom.ownLate = 0 then s.fget (BEAT_STATS_OWN_LATE p) else satAdd 32 (s.fget (BEAT_STATS_OWN_LATE p)) 1 := by
  rw [State.noteLate_eq, State.fget_countUnless_ne (by simp [Fld.key, BEAT_STATS_OWN_LATE, BEAT_STATS_STRETCHES]), State.fget_countUnless_self,
    State.withLate_stats rfl (by simp [BEAT_STATS_OWN_LATE])]
  rfl

theorem State.noteLate_stretches (s : State) (p : Nat) (b : BoundaryMsg) : (s.noteLate p b).fget (BEAT_STATS_STRETCHES p) =
    if b.stretchUs = 0 then s.fget (BEAT_STATS_STRETCHES p) else satAdd 32 (s.fget (BEAT_STATS_STRETCHES p)) 1 := by
  rw [State.noteLate_eq, State.fget_countUnless_self, State.fget_countUnless_ne (by simp [Fld.key, BEAT_STATS_OWN_LATE, BEAT_STATS_STRETCHES]),
    State.withLate_stats rfl (by simp [BEAT_STATS_STRETCHES])]
  rfl

@[simp] theorem State.noteLate_part (s : State) (p q : Nat) (b : BoundaryMsg) : (s.noteLate p b).part q = s.part q := by
  rw [State.noteLate_eq, State.countUnless_part, State.countUnless_part]
  exact State.part_fsets ..

@[simp] theorem State.noteLate_mem (s : State) (p : Nat) (b : BoundaryMsg) : (s.noteLate p b).mem = s.mem := by
  unfold State.noteLate
  dsimp only
  split <;> split <;> simp

@[simp] theorem State.noteLate_out (s : State) (p : Nat) (b : BoundaryMsg) : (s.noteLate p b).out = s.out := by
  unfold State.noteLate
  dsimp only
  split <;> split <;> simp

/-- The registers of a running, sealed member that a boundary symbol leaves as they are. -/
theorem State.noteLate_pstate (s : State) (p : Fin 4) (b : BoundaryMsg) : (s.noteLate p b).pstate p = s.pstate p := by
  refine s.noteLate_sameRegs p b _ ?_
  simp only [lateFlds, List.forall_mem_cons, Fld.key, HUB_PART_CTRL_STATE, HUB_PART_CTRL, BEAT_LATE_NODE, BEAT_LATE_PART, BEAT_LATE_CAUSE, BEAT_LATE_LATE_US,
    BEAT_LATE_BEAT_LO, BEAT_STATS_OWN_LATE, BEAT_STATS_STRETCHES, BEAT_LATE, BEAT_STATS]
  have := p.isLt
  refine ⟨?_, ?_, ?_, ?_, ?_, ?_, ?_, by simp⟩ <;> omega

theorem State.noteLate_sealed (s : State) (p : Fin 4) (b : BoundaryMsg) : (s.noteLate p b).flag (HUB_SEAL_SEALED p) = s.flag (HUB_SEAL_SEALED p) := by
  refine congrArg (· != 0) (s.noteLate_sameRegs p b _ ?_)
  simp only [lateFlds, List.forall_mem_cons, Fld.key, HUB_SEAL_SEALED, HUB_SEAL, BEAT_LATE_NODE, BEAT_LATE_PART, BEAT_LATE_CAUSE, BEAT_LATE_LATE_US,
    BEAT_LATE_BEAT_LO, BEAT_STATS_OWN_LATE, BEAT_STATS_STRETCHES, BEAT_LATE, BEAT_STATS]
  have := p.isLt
  refine ⟨?_, ?_, ?_, ?_, ?_, ?_, ?_, by simp⟩ <;> omega

/-! ## The symbol taken and passed on -/

/-- A seal that has been judged is not judged again. -/
theorem State.sealSees_of_sealed {p b : Nat} (h : s.flag (HUB_SEAL_SEALED p) = true) : s.sealSees p b = s.updPart p fun q => { q with endedBeat := b } := by
  have h' : (s.updPart p fun q => { q with endedBeat := b }).flag (HUB_SEAL_SEALED p) = true := h
  simp only [State.sealSees, State.trySeal, h', Bool.true_or, if_true]

/-- What a running member with a judged seal takes from a boundary symbol. -/
theorem State.takeBoundary_of_sealed {p : Fin 4} {b : BoundaryMsg} (run : s.running p = true) (sealed : s.flag (HUB_SEAL_SEALED p) = true) :
    s.takeBoundary p b = ((s.noteLate p b).updPart p fun q => { q with endedBeat := b.number - 1 }).updDom p
      fun d => { d with boundary := some b, stopAt := if b.stop = 0 then d.stopAt else b.stop } := by
  have at3 : s.pstate p = 3 := by simpa [State.running] using run
  have run' : ((s.noteLate p b).updPart p fun q => { q with endedBeat := b.number - 1 }).running p = true := by
    have e := s.noteLate_pstate p b
    rw [at3] at e
    exact congrArg (· == 3) e
  simp only [State.takeBoundary, at3, State.sealSees_of_sealed ((s.noteLate_sealed p b).trans sealed), run', if_true]
  rfl

/-- The state in which a boundary symbol has left away from the master. -/
def State.passOn (s : State) (p : Nat) (b : BoundaryMsg) : State :=
  { s with out := s.out ++ (s.beatPorts.filter fun q => some q != s.parentPort p).map fun q => Out.sym q (.boundary (s.forwarded b q)) }

theorem boundarySymbol_of_only {p : Fin 4} {b : BoundaryMsg} (dom : s.inDomain p = true) (away : s.hosted p = none) (own : s.domId p = some b.domain)
    (only : s.mates p = [p.val]) (next : b.number = s.beat p + 1) : boundarySymbol p b s = (s.passOn p b).takeBoundary p b := by
  have mine : ¬ (s.inDomain p = false ∨ (s.hosted p).isSome ∨ s.domId p ≠ some b.domain ∨ b.number ≠ s.beat p + 1) := by
    simp [dom, away, own, next]
  unfold boundarySymbol
  rw [if_neg mine]
  simp only [only]
  rfl

end Boundary

/-- Settles O10: the symbol is passed on, BEAT_LATE and the statistics are noted, and the countdown starts (R56, R66). -/
theorem boundarySymbolTaken : Obligations.BoundarySymbolTaken := by
  intro s p b dom away own only next run sealed node part cause stretch
  have taken : (s.passOn p b).takeBoundary p b = _ := State.takeBoundary_of_sealed run sealed
  obtain ⟨eNode, ePart, eCause, eLate, eLo⟩ := (s.passOn p b).withLate_fget p b
  refine ⟨_, congrArg Host.Outcome.next ((boundarySymbol_of_only dom away own only next).trans taken), ?_, ?_, ?_, ?_, ?_, ?_, ?_, ?_, fun q hq hp => ?_,
    fun a => ?_, ?_⟩
  · exact (State.noteLate_late rfl (by simp [BEAT_LATE_NODE])).trans (eNode.trans (Nat.mod_eq_of_lt node))
  · exact (State.noteLate_late rfl (by simp [BEAT_LATE_PART])).trans (ePart.trans (Nat.mod_eq_of_lt part))
  · exact (State.noteLate_late rfl (by simp [BEAT_LATE_CAUSE])).trans (eCause.trans (Nat.mod_eq_of_lt cause))
  · exact (State.noteLate_late rfl (by simp [BEAT_LATE_LATE_US])).trans (eLate.trans (Nat.mod_eq_of_lt stretch))
  · refine (State.noteLate_late rfl (by simp [BEAT_LATE_BEAT_LO])).trans (eLo.trans ?_)
    rw [next, Nat.add_sub_cancel]
    exact Nat.mod_mod ..
  · exact (s.passOn p b).noteLate_ownLate p b
  · exact (s.passOn p b).noteLate_stretches p b
  · rw [State.part_updDom_self, State.part_updPart_self, State.noteLate_part]
    rfl
  · rw [State.updDom_out, State.updPart_out, State.noteLate_out]
    exact List.mem_append_right _ (List.mem_map.2 ⟨q, List.mem_filter.2 ⟨hq, by simpa using hp⟩, rfl⟩)
  · rw [State.updDom_mem, State.updPart_mem, State.noteLate_mem]
    rfl
  · exact (s.passOn p b).noteLate_sameRegs p b

end Sys2Proof.Machine
end

section
/-! The checksum column of the arrays (R151) and TILE_PASS_END (R188, R194, R201, R205). -/
namespace Sys2Proof.Machine

/-! ## The checksum column -/

theorem foldl_add_eq_sum {α : Type} (f : α → Int) (l : List α) (a : Int) : l.foldl (fun n x => n + f x) a = a + (l.map f).sum := by
  induction l generalizing a with
  | nil => simp
  | cons x t ih => rw [List.foldl_cons, ih, List.map_cons, List.sum_cons, add_assoc]

/-- Sums over rows and columns may be taken in either order. -/
theorem sum_map_sum_comm {α β : Type} (f : α → β → Int) (l : List α) (m : List β) :
    (m.map fun c => (l.map fun x => f x c).sum).sum = (l.map fun x => (m.map (f x)).sum).sum := by
  induction l with
  | nil => simp
  | cons x t ih => simp only [List.map_cons, List.sum_cons, List.sum_map_add, ih]

/-- The sum of a half-sum, without its flag. -/
theorem halfSum_fst (wf af : Nat) (w : List Nat) (x c h : Nat) : (halfSum wf af w x c h).1 = ((((w.drop (32 * h)).take 32).zipIdx).map fun y =>
    unitInt af (packed x (fmtBits af) (32 * h + y.2)) * unitInt wf (packed y.1 (fmtBits wf) c)).sum := by
  have fst : ∀ (l : List (Nat × Nat)) (a : Int × Bool), (l.foldl (fun acc y =>
      (acc.1 + unitInt af (packed x (fmtBits af) (32 * h + y.2)) * unitInt wf (packed y.1 (fmtBits wf) c),
        acc.2 || elemBad af (packed x (fmtBits af) (32 * h + y.2)) || elemBad wf (packed y.1 (fmtBits wf) c))) a).1 =
      l.foldl (fun n y => n + unitInt af (packed x (fmtBits af) (32 * h + y.2)) * unitInt wf (packed y.1 (fmtBits wf) c)) a.1 := by
    intro l
    induction l with
    | nil => intro a; rfl
    | cons y t ih => intro a; exact ih _
  unfold halfSum
  rw [fst, foldl_add_eq_sum, zero_add]

theorem checksums_false (wf p : Nat) (w : List Nat) : checksums wf p w false = w.map (checksumOf wf p) := by
  have h : (fun y : Nat × Nat => checksumOf wf p y.1) = checksumOf wf p ∘ Prod.fst := rfl
  simp only [checksums, Bool.false_and, Bool.false_eq_true, if_false]
  rw [h, ← List.map_map, List.zipIdx_map_fst]

/-- Without an injection the half-sum of the checksum cells is the sum of the column half-sums: products distribute over the exact sums of the
weights (R151). -/
theorem checkHalf_checksums (wf af p : Nat) (w : List Nat) (x h : Nat) :
    checkHalf af (checksums wf p w false) x h = ((List.range (64 * p)).map fun c => (halfSum wf af w x c h).1).sum := by
  simp only [halfSum_fst, sum_map_sum_comm, List.sum_map_mul_left]
  rw [checksums_false, checkHalf, ← List.map_drop, ← List.map_take, List.zipIdx_map, List.foldl_map,
    foldl_add_eq_sum fun y : Nat × Nat => unitInt af (packed x (fmtBits af) (32 * h + (Prod.map (checksumOf wf p) id y).2)) * (Prod.map (checksumOf wf p) id y).1,
    zero_add]
  simp only [Prod.map_fst, Prod.map_snd, id, checksumOf, foldl_add_eq_sum, zero_add]

/-- The comparison sees exactly the errors: the sums themselves agree (R151). -/
theorem mismatches_eq_errors (wf af p : Nat) (w : List Nat) (x : Nat) (errs : List ArrErr) (a i h : Nat) :
    mismatches wf af p w (checksums wf p w false) x errs a i h =
      ((List.range (64 * p)).foldl (fun n c => n + errSum errs a i h (some c)) 0 != errSum errs a i h none) := by
  have adder : columnAdder wf af p w x errs a i h = checkHalf af (checksums wf p w false) x h +
      (List.range (64 * p)).foldl (fun n c => n + errSum errs a i h (some c)) 0 := by
    simp only [columnAdder, add_assoc]
    rw [foldl_add_eq_sum, foldl_add_eq_sum, List.sum_map_add, checkHalf_checksums, zero_add, zero_add]
  rw [mismatches, adder, Bool.eq_iff_iff]
  simp

/-- A tile without errors passes every comparison. -/
theorem State.firstMismatch_no_errors (s : State) (p raw a t : Nat) (w : List Nat) : s.firstMismatch p raw a t w [] false = none := by
  have zero : ∀ i h c, errSum [] a i h c = 0 := fun _ _ _ => rfl
  simp [State.firstMismatch, mismatches_eq_errors, zero]

/-! ## The pass of a tile -/

section Pass
variable {s : State} {o : Origin} {d : Desc}

/-- The state with the tile of a matrix descriptor added to its groups, its pass counted and, it may be, sampled. -/
def State.tilePassed (s : State) (o : Origin) (d : Desc) (errs : List ArrErr) : State :=
  State.sample (State.each (s.each (mxGroups d.raw) fun q x => (q.addTile (s.originPart o) d.raw ⟨s.seedOf (s.originPart o), d.step, mxTensor d.raw⟩
      (s.wRows (s.originPart o) d.raw (d.work.headD 0)) (d.work.headD 0) errs x).noteLongK (s.originPart o) d.raw (d.work.headD 0) x) (mxActive d.raw) fun q a =>
    (q.fadd (ARR_TILES_PASSES (dRegion d.raw) (dSlot d.raw) a) 1).accAdd (ARR_CYCLES_ACTIVE (dRegion d.raw) (dSlot d.raw) a) (mxRows d.raw a))
    (dRegion d.raw) 0 (dSlot d.raw) (dTag d.raw) (mxExact d.raw)
    ⟨s.tileStreams (s.originPart o) d.raw (d.work.headD 0) (s.wRows (s.originPart o) d.raw (d.work.headD 0)),
      s.tileOuts (s.originPart o) d.raw (d.work.headD 0) (s.wRows (s.originPart o) d.raw (d.work.headD 0)) [],
      crc64 (s.tileOuts (s.originPart o) d.raw (d.work.headD 0) (s.wRows (s.originPart o) d.raw (d.work.headD 0)) errs)⟩

/-- The arrays of a tile whose checksum fails, each with the first row and half that does. -/
def State.tileMismatches (s : State) (o : Origin) (d : Desc) (errs : List ArrErr) : List (Nat × Nat × Nat) :=
  if mxExact d.raw then (mxActive d.raw).filterMap fun a =>
    (s.firstMismatch (s.originPart o) d.raw a (d.work.headD 0) (s.wRows (s.originPart o) d.raw (d.work.headD 0)) errs false).map fun x => (a, x)
  else []

/-- How the pass of a tile ends, without an injection. -/
theorem State.endTile_of_no_injection (noInj : s.injArray (s.originPart o) d.raw = none) (errs : List ArrErr) (hit : Option (Nat × Nat)) :
    s.endTile o d errs hit = if s.tileMismatches o d errs ≠ [] then (s.tilePassed o d errs).raiseMismatches o d (d.work.headD 0) (s.tileMismatches o d errs)
      else if let some x := hit then s.accFault o d x.1 x.2
      else if d.work.headD 0 + 1 < mxTiles d.raw then (s.tilePassed o d errs).updDesc o d.id fun e => { e with work := [d.work.headD 0 + 1] }
      else if mxClose d.raw then ((s.tilePassed o d errs).fsets ((mxGroups d.raw).map fun x => (CORE_ACC_GRP_STATE (dRegion d.raw) (dSlot d.raw) x.1, 2))).updDesc o d.id
        fun e => { e with work := [d.work.headD 0 + 1] }
      else (s.tilePassed o d errs).updDesc o d.id fun e => { e with ready := true } := by
  unfold State.endTile
  simp only [noInj]
  rfl

theorem State.tileMismatches_nil {errs : List ArrErr} (h : errs = [] ∨ mxExact d.raw = false) : s.tileMismatches o d errs = [] := by
  rcases h with rfl | h
  · simp [State.tileMismatches, State.firstMismatch_no_errors]
  · simp [State.tileMismatches, h]

theorem State.tileMismatches_one {errs : List ArrErr} {a : Nat} {x : Nat × Nat} (exact' : mxExact d.raw = true) (active : mxActive d.raw = [a])
    (first : s.firstMismatch (s.originPart o) d.raw a (d.work.headD 0) (s.wRows (s.originPart o) d.raw (d.work.headD 0)) errs false = some x) :
    s.tileMismatches o d errs = [(a, x)] := by
  rw [State.tileMismatches, if_pos exact', active, List.filterMap_cons, first]
  rfl

section Clean
variable {errs : List ArrErr} (noInj : s.injArray (s.originPart o) d.raw = none) (clean : s.tileMismatches o d errs = [])
include noInj clean

theorem State.endTile_hit (x : Nat × Nat) : s.endTile o d errs (some x) = s.accFault o d x.1 x.2 :=
  (State.endTile_of_no_injection noInj errs _).trans (if_neg (not_not.2 clean))

/-- Without an error the pass goes on to the next tile, to the epilogue's pass, or makes the descriptor ready. -/
theorem State.endTile_clean : s.endTile o d errs none =
    if d.work.headD 0 + 1 < mxTiles d.raw then (s.tilePassed o d errs).updDesc o d.id fun e => { e with work := [d.work.headD 0 + 1] }
    else if mxClose d.raw then ((s.tilePassed o d errs).fsets ((mxGroups d.raw).map fun x => (CORE_ACC_GRP_STATE (dRegion d.raw) (dSlot d.raw) x.1, 2))).updDesc o d.id
      fun e => { e with work := [d.work.headD 0 + 1] }
    else (s.tilePassed o d errs).updDesc o d.id fun e => { e with ready := true } :=
  (State.endTile_of_no_injection noInj errs _).trans (if_neg (not_not.2 clean))

end Clean

/-! ## TILE_PASS_END -/

/-- The descriptors that run on a slot name it. -/
theorem State.matrixRuns_place {r k : Nat} (h : (o, d) ∈ s.matrixRuns r k) : dRegion d.raw = r ∧ dSlot d.raw = k := by
  simp only [State.matrixRuns, List.mem_mergeSort, List.mem_append, List.mem_flatMap, List.mem_map, List.mem_filter, Bool.and_eq_true, beq_iff_eq, Prod.mk.injEq] at h
  rcases h with ⟨_, _, _, ⟨_, ⟨_, hr⟩, hk⟩, _, rfl⟩ | ⟨_, _, _, ⟨_, ⟨_, hr⟩, hk⟩, _, rfl⟩
  · exact ⟨hr, hk⟩
  · exact ⟨hr, hk⟩

/-- The accumulation check that fails counts when it names a row of a group that the descriptor uses. -/
def accHit (raw : Nat) (acc : Option (Nat × Nat)) : Option (Nat × Nat) :=
  acc.filter fun x => (mxGroups raw).any fun y => y.1 == x.1 && decide (x.2 < mxRows raw y.2.1)

theorem accHit_some {raw x i : Nat} (h : ∃ y ∈ mxGroups raw, y.1 = x ∧ i < mxRows raw y.2.1) : accHit raw (some (x, i)) = some (x, i) := by
  simp only [accHit, Option.filter_some, List.any_eq_true, Bool.and_eq_true, beq_iff_eq, decide_eq_true_eq]
  exact if_pos h

section Runs
variable {r k : Nat} {l : List (Origin × Desc)} (next : s.matrixRuns r k = (o, d) :: l) (ran : d.ran = true) (run : s.running (s.originPart o) = true)
include next ran run

theorem tilePassEnd_of_tile (more : d.work.headD 0 < mxTiles d.raw) (errs : List ArrErr) (acc : Option (Nat × Nat)) :
    tilePassEnd r k errs acc s = s.endTile o d errs (accHit d.raw acc) := by
  have live : ¬ (s.running (s.originPart o) = false ∨ d.ran = false) := by simp [run, ran]
  unfold tilePassEnd
  simp only [next, if_neg live, if_pos more]
  rfl

theorem tilePassEnd_of_epilogue (after : mxTiles d.raw ≤ d.work.headD 0) (errs : List ArrErr) (acc : Option (Nat × Nat)) : tilePassEnd r k errs acc s =
    match accHit d.raw acc with
      | some x => s.epilogueFault o d ⟨s.seedOf (s.originPart o), d.step, mxTensor d.raw⟩ x.1 x.2
      | none => (s.epilogue (s.originPart o) d ⟨s.seedOf (s.originPart o), d.step, mxTensor d.raw⟩).updDesc o d.id fun e => { e with ready := true } := by
  have live : ¬ (s.running (s.originPart o) = false ∨ d.ran = false) := by simp [run, ran]
  unfold tilePassEnd
  simp only [next, if_neg live, if_neg (Nat.not_lt.2 after)]
  rfl

end Runs

end Pass

/-- Settles O28: the pass of a tile, the check of its half-sums, and the epilogue's pass after the last tile (R151, R188, R205; log entry 80). -/
theorem tilePasses : Obligations.TilePasses := by
  refine ⟨mismatches_eq_errors, ?_⟩
  rintro s r k o d l p t g next ran rfl run rfl rfl
  obtain ⟨hr, hk⟩ := State.matrixRuns_place (by rw [next]; exact List.mem_cons_self : (o, d) ∈ s.matrixRuns r k)
  refine ⟨?_, fun after errs => ⟨?_, fun x i h => ?_⟩⟩
  · rintro w errs u more noInj rfl hu
    rw [← hr, ← hk] at hu
    obtain rfl : u = s.tilePassed o d errs := hu
    have ends := fun acc => tilePassEnd_of_tile next ran run more errs acc
    refine ⟨fun noError => ?_, fun a x acc exact' active first => ?_⟩
    · have clean := State.tileMismatches_nil (s := s) (o := o) noError
      have goesOn := (ends none).trans (State.endTile_clean noInj clean)
      refine ⟨fun h => congrArg Host.Outcome.next (goesOn.trans (if_pos h)), fun h keep => ?_, fun h close => ?_, fun x i h => ?_⟩
      · exact congrArg Host.Outcome.next (goesOn.trans ((if_neg (Nat.not_lt.2 h)).trans (if_neg (Bool.eq_false_iff.1 keep))))
      · rw [hr, hk] at goesOn
        exact congrArg Host.Outcome.next (goesOn.trans ((if_neg (Nat.not_lt.2 h)).trans (if_pos close)))
      · refine congrArg Host.Outcome.next ((ends _).trans ?_)
        rw [accHit_some h]
        exact State.endTile_hit noInj clean (x, i)
    · have bad := State.tileMismatches_one exact' active first
      refine congrArg Host.Outcome.next ((ends acc).trans ((State.endTile_of_no_injection noInj errs _).trans ?_))
      rw [bad]
      rfl
  · exact congrArg Host.Outcome.next (tilePassEnd_of_epilogue next ran run after errs none)
  · refine congrArg Host.Outcome.next ((tilePassEnd_of_epilogue next ran run after errs _).trans ?_)
    rw [accHit_some h]

end Sys2Proof.Machine
end

section
/-! The elementwise vector instructions (R212 to R217, R232, R235). -/
namespace Sys2Proof.Machine

/-! ## Writing elements -/

section Elements
variable (v : VecRun) (r : Nat) (g : Nat → Nat)

/-- The engine with element `e` of the operand at register `r` set to `g e`, for every `e` below `n`. -/
def VecRun.fill (n : Nat) : VecRun := v.setEls r ((List.range n).map fun e => (e, g e))

theorem VecRun.fill_succ (n : Nat) : v.fill r g (n + 1) = (v.fill r g n).setEl r n (g n) := by
  simp [VecRun.fill, VecRun.setEls, List.range_succ, List.foldl_append]

/-- Only tile registers change. -/
theorem VecRun.fill_eq (n : Nat) : v.fill r g n = { v with v := (v.fill r g n).v } := by
  induction n with
  | zero => rfl
  | succ n ih =>
    rw [VecRun.fill_succ, ih]
    rfl

theorem VecRun.fill_at (n i : Nat) : mgetD (v.fill r g n).v i 0 = if r * 1024 ≤ i ∧ i < r * 1024 + n then g (i - r * 1024) % 2 ^ 32 else mgetD v.v i 0 := by
  induction n with
  | zero => exact (if_neg (by omega)).symm
  | succ n ih =>
    rw [VecRun.fill_succ, VecRun.setEl, mgetD_mset, ih]
    by_cases e : i = r * 1024 + n
    · rw [if_pos e, if_pos (by omega), e, Nat.add_sub_cancel_left]
    · rw [if_neg e]
      exact if_congr (by omega) rfl rfl

theorem VecRun.fill_el {n e : Nat} (h : e < n) : (v.fill r g n).el r e = g e % 2 ^ 32 := by
  rw [VecRun.el, VecRun.fill_at, if_pos (by omega), Nat.add_sub_cancel_left]

theorem VecRun.fill_other {n i : Nat} (h : i < r * 1024 ∨ r * 1024 + n ≤ i) : mgetD (v.fill r g n).v i 0 = mgetD v.v i 0 := by
  rw [VecRun.fill_at, if_neg (by omega)]

end Elements

/-! ## An instruction of the engine -/

section Step
variable {s : State} {r k : Nat} {d : Desc} {v : VecRun} {w op : Nat} {f : State → Desc → VecRun → Nat → VecOut} (at_ : VectorAt s r k d v w) (hop : viOp w = op)
include at_ hop

/-- The engine goes on from an instruction that is done (R232). -/
theorem State.vecStep_done {t : State} {x : VecRun} (done : f s d v w = .done t x) : s.vecStep r k op none f = t.vecAdvance r k d x := by
  obtain ⟨holds, desc, word, run⟩ := at_
  have live : ¬ (s.running (s.originPart v.o) = false ∨ viOp w ≠ op) := by simp [run, hop]
  unfold State.vecStep
  simp only [holds, desc, word, if_neg live, done]

/-- An instruction whose post waits is tried again (R223). -/
theorem State.vecStep_wait (waits : f s d v w = .wait) :
    s.vecStep r k op none f = s.updSlot r k fun q => { q with vec := some { v with postWait := true } } := by
  obtain ⟨holds, desc, word, run⟩ := at_
  have live : ¬ (s.running (s.originPart v.o) = false ∨ viOp w ≠ op) := by simp [run, hop]
  unfold State.vecStep
  simp only [holds, desc, word, if_neg live, waits]

/-- A failed check of the engine takes the place of the instruction (R235). -/
theorem State.vecStep_some (m : VecMiss) : s.vecStep r k op (some m) f = s.vecFail r k v d m := by
  obtain ⟨holds, desc, word, run⟩ := at_
  have live : ¬ (s.running (s.originPart v.o) = false ∨ viOp w ≠ op) := by simp [run, hop]
  unfold State.vecStep
  simp only [holds, desc, word, if_neg live]

end Step

theorem State.vecAdvance_next {s : State} {r k : Nat} {d : Desc} {v : VecRun} (h : v.pc + 1 < vxLen d.raw) :
    s.vecAdvance r k d v = s.updSlot r k fun q => { q with vec := some { v with postWait := false, pc := v.pc + 1 } } := by
  unfold State.vecAdvance
  simp only [if_pos h, if_neg (Nat.ne_of_lt h)]

theorem State.vecAdvance_iter {s : State} {r k : Nat} {d : Desc} {v : VecRun} (h : v.pc + 1 = vxLen d.raw) (more : v.iter + 1 < vxIters d.raw) :
    s.vecAdvance r k d v = (s.sample r 1 k (dTag d.raw) true v.mirror).updSlot r k fun q =>
      { q with vec := some { v with postWait := false, pc := 0, iter := v.iter + 1, first := v.v, loads := [], outs := [] } } := by
  unfold State.vecAdvance
  simp only [if_neg (Nat.not_lt.2 h.ge), if_pos h, if_pos more]
  rfl

/-! ## The elementwise instructions -/

/-- The command `c` performs the instruction with opcode `op` by setting every element of the destination to what `g` gives (R214). -/
def PerformsLanes (op : Nat) (g : VecRun → Nat → Nat → Nat) (c : Fin 4 → Fin 40 → Option VecMiss → Instr) : Prop :=
  ∃ f : State → Desc → VecRun → Nat → VecOut, (∀ r k chk s, exec (c r k chk) s = .next (s.vecStep r k op chk f)) ∧
    ∀ s d v w, f s d v w = .done s (v.fill (viD w) (g v w) (viCount w))

/-- What such a command does at its instruction. -/
theorem PerformsLanes.effect {op : Nat} {g : VecRun → Nat → Nat → Nat} {c : Fin 4 → Fin 40 → Option VecMiss → Instr} (h : PerformsLanes op g c)
    {s : State} {r : Fin 4} {k : Fin 40} {d : Desc} {v : VecRun} {w : Nat} (at_ : VectorAt s r k d v w) (hop : viOp w = op) :
    exec (c r k none) s = .next (s.vecAdvance r k d (v.fill (viD w) (g v w) (viCount w))) ∧ ∀ m, exec (c r k (some m)) s = .next (s.vecFail r k v d m) := by
  obtain ⟨f, runs, lanes⟩ := h
  refine ⟨?_, fun m => ?_⟩
  · rw [runs, State.vecStep_done at_ hop (lanes s d v w)]
  · rw [runs, State.vecStep_some at_ hop]

/-- Settles O29: each command of the list sets every element of its destination by its lane function, and the engine goes on (R217, R232). -/
theorem vectorLanes : Obligations.VectorLanes := by
  refine ⟨fun s r k d v w op f c mem at_ hop => ?_, fun s r k d v => ⟨State.vecAdvance_next, State.vecAdvance_iter⟩⟩
  have performs : PerformsLanes op f c := by
    refine (?_ : ∀ x ∈ _, PerformsLanes x.1 x.2.1 x.2.2) _ mem
    repeat refine List.forall_mem_cons.2 ⟨⟨_, fun _ _ _ _ => rfl, fun _ _ _ _ => rfl⟩, ?_⟩
    exact List.forall_mem_nil _
  obtain ⟨done, failed⟩ := performs.effect at_ hop
  exact ⟨⟨_, done, fun e he => VecRun.fill_el _ _ _ he, fun i hi => VecRun.fill_other _ _ _ hi, VecRun.fill_eq ..⟩, failed⟩

end Sys2Proof.Machine
end

section
/-! The reductions, posts and memory instructions of vector programs (R219 to R223, R228 to R230). -/
namespace Sys2Proof.Machine

/-! ## What each gives -/

section Folds
variable {s : State} {d : Desc} {v : VecRun} {w : Nat}

/-- A reduction of shape ALL has one set of leaves: all elements (R219). -/
theorem vecReduce_all {g : List Nat → Option Nat} {y empty : Nat} (shape : viShape w = 0) (some' : 0 < viCount w)
    (result : g ((List.range (viCount w)).map (v.el (viA w))) = some y) :
    vecReduce g empty s d v w = vecPost s (v.setEl (viD w) 0 y) d w y (viPost w) := by
  have one : reduceSets w = [(0, List.range (viCount w))] := by
    unfold reduceSets
    simp only [shape]
  have leaves : (List.range (viCount w)).isEmpty = false := by
    rw [List.isEmpty_eq_false_iff, Ne, List.range_eq_nil]
    omega
  unfold vecReduce
  simp only [one, List.filterMap_cons, leaves, Bool.false_eq_true, if_false, result, Option.map_some, List.filterMap_nil, List.head?_cons, Option.getD_some,
    if_neg some'.ne']
  rfl

/-- A post into a summary register that is still fresh waits (R223). -/
theorem vecPost_of_fresh {x : Nat} (h : viSum w ∈ (s.slot (dRegion d.raw) (dSlot d.raw)).fresh) : vecPost s v d w x true = .wait := by
  simp [vecPost, State.postSum, h]

/-- A post makes its register fresh (R119, R222). -/
theorem vecPost_of_stale {x : Nat} (h : viSum w ∉ (s.slot (dRegion d.raw) (dSlot d.raw)).fresh) :
    vecPost s v d w x true = .done (s.updSlot (dRegion d.raw) (dSlot d.raw) fun q =>
      { q with sums := mset q.sums (viSum w) (BitVec.ofNat 64 x), fresh := viSum w :: q.fresh }) { v with outs := v.outs ++ natLe 8 x } := by
  simp [vecPost, State.postSum, h]

/-- Four leaves are summed as a tree of pairs (R219). -/
theorem sumLeaves_four (a b c e : Nat) : sumLeaves [a, b, c, e] = some (canon32 (fadd32 (fadd32 a b) (fadd32 c e))) := rfl

end Folds

/-! ## The commands -/

/-- The command `c` performs the instruction with opcode `op` by `f`. -/
def Performs (op : Nat) (f : State → Desc → VecRun → Nat → VecOut) (c : Fin 4 → Fin 40 → Option VecMiss → Instr) : Prop :=
  ∀ r k chk s, exec (c r k chk) s = .next (s.vecStep r k op chk f)

/-- Settles O30: each command of the list goes on with the result of its instruction, or waits with its post (R219 to R230). -/
theorem vectorFoldsAndMoves : Obligations.VectorFoldsAndMoves := by
  refine ⟨fun s t r k d v x w op f c mem at_ hop => ?_, fun _ _ _ _ _ _ _ => vecReduce_all, ?_, fun l longer _ => ?_, fun s d v w once later => ?_,
    fun s d v w => ⟨_, rfl, rfl⟩, fun s d v w fp32 => ?_⟩
  · have performs : Performs op f c := by
      refine (?_ : ∀ x ∈ _, Performs x.1 x.2.1 x.2.2) _ mem
      repeat refine List.forall_mem_cons.2 ⟨fun _ _ _ _ => rfl, ?_⟩
      exact List.forall_mem_nil _
    exact ⟨fun done => (performs ..).trans (congrArg Host.Outcome.next (State.vecStep_done at_ hop done)),
      fun waits => (performs ..).trans (congrArg Host.Outcome.next (State.vecStep_wait at_ hop waits)),
      fun m => (performs ..).trans (congrArg Host.Outcome.next (State.vecStep_some at_ hop m))⟩
  · rintro s d v w x i rfl
    exact ⟨vecPost_of_fresh, rfl, vecPost_of_stale⟩
  · match l, longer with
    | a :: b :: c :: e :: l, _ => exact sumLeaves_four a b c e
  · exact if_pos ⟨once, later⟩
  · exact if_pos fp32

end Sys2Proof.Machine
end

section
/-! The activation commands STASH, RECALL, RELEASE and GROUP_ROWS (R278 to R288). -/
namespace Sys2Proof.Machine

/-! ## The variant order (R288) -/

/-- Rows stand by variant, and within a variant by row. -/
theorem variantOrder_pairwise (idx : Array Nat) (n : Nat) :
    (variantOrder idx n).Pairwise fun i j => idx.getD i 0 < idx.getD j 0 ∨ idx.getD i 0 = idx.getD j 0 ∧ i < j := by
  rw [variantOrder, List.pairwise_flatMap]
  constructor
  · intro v _
    refine ((List.pairwise_lt_range (n := idx.size)).filter _).imp_of_mem fun hi hj less => .inr ⟨?_, less⟩
    rw [beq_iff_eq.1 (List.mem_filter.1 hi).2, beq_iff_eq.1 (List.mem_filter.1 hj).2]
  · refine List.pairwise_lt_range.imp fun less i hi j hj => .inl ?_
    rwa [beq_iff_eq.1 (List.mem_filter.1 hi).2, beq_iff_eq.1 (List.mem_filter.1 hj).2]

/-- Every row whose variant is in range stands in the order once. -/
theorem variantOrder_perm (idx : Array Nat) (n : Nat) (inRange : ∀ i < idx.size, idx.getD i 0 < n) :
    (variantOrder idx n).Perm (List.range idx.size) := by
  have nodup : (variantOrder idx n).Nodup := (variantOrder_pairwise idx n).imp fun h => by
    rintro rfl
    omega
  refine (List.perm_ext_iff_of_nodup nodup List.nodup_range).2 fun i => ?_
  simp only [variantOrder, List.mem_flatMap, List.mem_filter, List.mem_range, beq_iff_eq]
  exact ⟨fun ⟨_, _, less, _⟩ => less, fun less => ⟨_, inRange i less, less, rfl⟩⟩

/-! ## The keep table (R279) -/

@[simp] theorem State.handle?_touchEntry (s : State) (r h a b : Nat) : (s.touchEntry r h).handle? a b = s.handle? a b := rfl

theorem State.handle?_updRegion_self (s : State) (r h : Nat) (g : Region → Region) :
    (s.updRegion r g).handle? r h = mget? (g (s.region r)).handles h := by
  rw [State.handle?, State.region_updRegion_self]

/-- A handle that is emptied holds nothing. -/
theorem State.handle?_emptyHandle (s : State) (r h : Nat) : (s.emptyHandle r h).handle? r h = none := by
  cases held : mget? (s.region r).handles h with
  | none =>
    simp only [State.emptyHandle, State.restoreHandle, held]
    exact held
  | some x =>
    have undef (t : State) (l : List Nat) (f : State → Nat → Nat) : (t.each l fun t c => t.undef (f t c) 4).handle? r h = t.handle? r h :=
      State.each_keeps (f := fun t : State => t.handle? r h) (h := fun _ _ => rfl) ..
    simp only [State.emptyHandle, State.restoreHandle, held, undef, State.handle?_touchEntry, State.handle?_updRegion_self, mget?_merase, if_true]

/-- A handle without chunks that takes a tensor holds it. -/
theorem State.handle?_keepHandle (s : State) (r h : Nat) (x : Handle) (owner : Owner) (bare : x.chunks = []) :
    (s.keepHandle r h x owner).handle? r h = some x := by
  simp only [State.keepHandle, bare, State.chainWords, State.each, List.foldl_nil, State.handle?_touchEntry, State.handle?_updRegion_self, mget?_mset,
    if_true]

/-! ## What each operation does -/

section Runs
variable {o : Origin} {u : State} {d : Desc}

theorem runStash_of_behind (h : u.yoBehind d = true) : runStash o u d = .wait u := if_pos h
theorem runRecall_of_behind (h : u.yoBehind d = true) : runRecall o u d = .wait u := if_pos h
theorem runRelease_of_behind (h : u.yoBehind d = true) : runRelease u d = .wait u := if_pos h
theorem runGroupRows_of_behind (h : u.yoBehind d = true) : runGroupRows o u d = .wait u := if_pos h

/-- A STASH into a handle in use fails (R283). -/
theorem runStash_of_held {x : Handle} (first : u.yoBehind d = false) (h : u.handle? (dRegion d.raw) (yoHandle d.raw) = some x) :
    runStash o u d = u.yoFail d.raw 0 .yoyHandle := by
  simp [runStash, first, h]

/-- A STASH without a place fails (R283). -/
theorem runStash_of_full (first : u.yoBehind d = false) (h : u.handle? (dRegion d.raw) (yoHandle d.raw) = none) (full : u.place d.raw = none) :
    runStash o u d = u.yoFail d.raw 1 .yoyFull := by
  simp [runStash, first, h, full]

/-- The handle that a STASH placed in `chunks` with the placement `code` keeps. -/
def stashed (raw code : Nat) (chunks : List Nat) : Handle :=
  ⟨code + 1, yoForm raw, yoFmt raw, yoRows raw, yoCols raw, yoTensor raw, yoPool raw, chunks⟩

section Placed
variable {code : Nat} {chunks : List Nat} (first : u.yoBehind d = false) (empty : u.handle? (dRegion d.raw) (yoHandle d.raw) = none)
  (placed : u.place d.raw = some (code, chunks))
include first empty placed

/-- A tensor that is not kept only enters its handle (R283). -/
theorem runStash_of_notKept (h : code = 2) :
    runStash o u d = .done (u.keepHandle (dRegion d.raw) (yoHandle d.raw) (stashed d.raw code chunks) (.desc (u.originPart o) d.id)) 2 := by
  simp [runStash, first, empty, placed, h, stashed]

/-- An element that the form cannot hold fails the STASH (R282). -/
theorem runStash_of_lossy (h : code ≠ 2) (lossy : u.stashBytes (u.originPart o) d.raw = none) : runStash o u d = u.yoFail d.raw 2 .yoyLossy := by
  simp [runStash, first, empty, placed, h, lossy]

/-- A tensor that is kept is written to its chunks, and then enters its handle (R283). -/
theorem runStash_of_kept {bs : List Byte} {hl : Health} {v : State} (h : code ≠ 2) (bytes : u.stashBytes (u.originPart o) d.raw = some (bs, hl))
    (hv : v = (if yoForm d.raw = 1 then
        State.mergeHealth ((u.noteUndo o d).putRanges (.desc (u.originPart o) d.id) (u.keptRanges (dRegion d.raw) bs.length chunks) bs) (u.originPart o)
          (yoHealth d.raw) hl (yoTensor d.raw) 1 2 (.desc (u.originPart o) d.id)
      else (u.noteUndo o d).putRanges (.desc (u.originPart o) d.id) (u.keptRanges (dRegion d.raw) bs.length chunks) bs))
    (running : v.running (u.originPart o) = true) :
    runStash o u d = .done (v.keepHandle (dRegion d.raw) (yoHandle d.raw) (stashed d.raw code chunks) (.desc (u.originPart o) d.id)) code := by
  subst hv
  simp only [runStash, first, empty, placed, h, bytes, running, Option.isSome_none, Bool.false_eq_true, if_false, if_true]
  rfl

end Placed

/-- A RECALL of an EMPTY handle, or of one that does not fit, fails (R285). -/
theorem runRecall_of_not_fits (first : u.yoBehind d = false)
    (h : u.handle? (dRegion d.raw) (yoHandle d.raw) = none ∨ ∃ x, u.handle? (dRegion d.raw) (yoHandle d.raw) = some x ∧ x.fits d.raw = false) :
    runRecall o u d = u.yoFail d.raw 0 .yoyHandle := by
  obtain h | ⟨x, h, unfit⟩ := h
  · simp [runRecall, first, h]
  · simp [runRecall, first, h, unfit]

/-- A RECALL of a handle that fits writes its tensor, if it was kept, and empties it with FREE (R285). -/
theorem runRecall_of_fits {x : Handle} {v : State} (first : u.yoBehind d = false) (h : u.handle? (dRegion d.raw) (yoHandle d.raw) = some x)
    (fits : x.fits d.raw = true)
    (hv : v = (if x.st = 3 then u.noteUndo o d else
      (u.noteUndo o d).recallWrite (u.originPart o) d.id d.raw x (u.keptOf (dRegion d.raw) x).toArray))
    (running : v.running (u.originPart o) = true) :
    runRecall o u d = .done (if yoFree d.raw then v.emptyHandle (dRegion d.raw) (yoHandle d.raw) else v) (x.st - 1) := by
  subst hv
  simp [runRecall, first, h, fits, running]

/-- A RELEASE empties a handle in use (R285). -/
theorem runRelease_of_held {x : Handle} (first : u.yoBehind d = false) (h : u.handle? (dRegion d.raw) (yoHandle d.raw) = some x) :
    runRelease u d = .done (u.emptyHandle (dRegion d.raw) (yoHandle d.raw)) 0 := by
  simp [runRelease, first, h]

/-- A RELEASE of an EMPTY handle fails (R285). -/
theorem runRelease_of_empty (first : u.yoBehind d = false) (h : u.handle? (dRegion d.raw) (yoHandle d.raw) = none) :
    runRelease u d = u.yoFail d.raw 0 .yoyHandle := by
  simp [runRelease, first, h]

section GroupRows
variable {idx : Array Nat} (first : u.yoBehind d = false)
  (hidx : idx = ((List.range (yoRows d.raw)).map fun i => u.vloadNat (u.originPart o) (yoVidx d.raw + 2 * i) 2).toArray)
include first hidx

/-- GROUP_ROWS whose indices are in range writes the rows, the segment table and the permutation (R288). -/
theorem runGroupRows_of_inRange {order : List Nat} {v w : State} (horder : order = variantOrder idx (yoVcount d.raw))
    (hv : v = (u.each order.zipIdx fun t x => t.vstore (u.originPart o) (yoDst d.raw + x.2 * yoDstride d.raw)
        (u.vload (u.originPart o) (yoAddr d.raw + x.1 * yoStride d.raw) (yoCols d.raw)) (.desc (u.originPart o) d.id)).vstore (u.originPart o)
      (yoSeg d.raw) (segTable idx (yoVcount d.raw) 0) (.desc (u.originPart o) d.id))
    (hw : w = (if yoPerm d.raw = 0 then v else v.vstore (u.originPart o) (yoPerm d.raw) (order.flatMap (natLe 4)) (.desc (u.originPart o) d.id)))
    (inRange : ∀ x ∈ idx, x < 4096 ∧ x < yoVcount d.raw) :
    runGroupRows o u d = .done w ((List.range (yoVcount d.raw)).filter fun v => variantCount idx v != 0).length := by
  have none_out : (idx.any fun v => decide (4096 ≤ v) || decide (yoVcount d.raw ≤ v)) = false := by
    rw [Array.any_eq_false']
    intro x hx
    obtain ⟨h1, h2⟩ := inRange x hx
    simp [h1, h2]
  subst hw hv horder
  unfold runGroupRows
  simp only [first, ← hidx, none_out, Bool.false_eq_true, if_false]

/-- GROUP_ROWS with an index out of range fails before it writes (R288). -/
theorem runGroupRows_of_outOfRange (out : ∃ x ∈ idx, 4096 ≤ x ∨ yoVcount d.raw ≤ x) : runGroupRows o u d = u.yoFail d.raw 3 .variantRange := by
  have some_out : (idx.any fun v => decide (4096 ≤ v) || decide (yoVcount d.raw ≤ v)) = true := by
    rw [Array.any_eq_true']
    obtain ⟨x, hx, h⟩ := out
    exact ⟨x, hx, by simpa using h⟩
  unfold runGroupRows
  simp only [first, ← hidx, some_out, Bool.false_eq_true, if_false, if_true]

end GroupRows

end Runs

/-- The start command of an operation of the class does the work of the descriptor that is at work (R91). -/
theorem State.yoCmd_of_runsNow {s u : State} {o : Origin} {op : Nat} {ins outs : State → Desc → List (Nat × Nat)} {run : State → Desc → Run} {d : Desc}
    {l : List (Nat × Nat)} {x : Run} (h : RunsNow s o (isYoOp op) ins outs d)
    (houts : outs = fun s d => s.dpaRanges (s.originPart o) (yoWrites d.raw)) (hl : l = ins s d) (hu : u = s.reading o l) (hrun : run u d = x) :
    s.yoCmd op o .none ins run = x.settle o d l := by
  subst houts hl hu hrun
  exact State.startDesc_of_runsNow h

/-- Settles O41: STASH, RECALL, RELEASE and GROUP_ROWS do their work by the table of handles, and the variant order is a stable reordering. -/
theorem activationsRun : Obligations.ActivationsRun := by
  refine ⟨?_, fun s r h x owner => ⟨s.handle?_emptyHandle r h, s.handle?_keepHandle r h x owner⟩,
    fun idx n inRange => ⟨variantOrder_perm idx n inRange, variantOrder_pairwise idx n⟩⟩
  rintro s u o d outs r p l x houts rfl hu rfl
  refine ⟨?_, ?_, ?_, ?_, ?_, ?_⟩
  · intro op ins i mem now hl behind
    simp only [List.mem_cons, Prod.mk.injEq, List.not_mem_nil, or_false] at mem
    obtain ⟨rfl, rfl, rfl⟩ | ⟨rfl, rfl, rfl⟩ | ⟨rfl, rfl, rfl⟩ | ⟨rfl, rfl, rfl⟩ := mem
    · exact congrArg Host.Outcome.next (State.yoCmd_of_runsNow now houts hl hu (runStash_of_behind behind))
    · exact congrArg Host.Outcome.next (State.yoCmd_of_runsNow now houts hl hu (runRecall_of_behind behind))
    · exact congrArg Host.Outcome.next (State.yoCmd_of_runsNow now houts hl hu (runRelease_of_behind behind))
    · exact congrArg Host.Outcome.next (State.yoCmd_of_runsNow now houts hl hu (runGroupRows_of_behind behind))
  · rintro code chunks now hl first empty placed rfl
    have stash {y : Run} (h : runStash o u d = y) : exec (.stash o .none) s = .next (y.settle o d l) :=
      congrArg Host.Outcome.next (State.yoCmd_of_runsNow now houts hl hu h)
    exact ⟨fun h => stash (runStash_of_notKept first empty placed h), fun h lossy => stash (runStash_of_lossy first empty placed h lossy),
      fun bs hl v h bytes hv running => stash (runStash_of_kept first empty placed h bytes hv running)⟩
  · intro now hl first
    have stash {y : Run} (h : runStash o u d = y) : exec (.stash o .none) s = .next (y.settle o d l) :=
      congrArg Host.Outcome.next (State.yoCmd_of_runsNow now houts hl hu h)
    exact ⟨fun held => stash (runStash_of_held first held), fun empty full => stash (runStash_of_full first empty full)⟩
  · intro now hl first
    have runs {y : Run} (h : runRecall o u d = y) : exec (.recallOp o .none) s = .next (y.settle o d l) :=
      congrArg Host.Outcome.next (State.yoCmd_of_runsNow now houts hl hu h)
    exact ⟨fun held fits v hv running => runs (runRecall_of_fits first held fits hv running),
      fun unfit => runs (runRecall_of_not_fits first (unfit.imp_right fun h => ⟨x, h⟩))⟩
  · rintro now rfl first
    have release {y : Run} (h : runRelease u d = y) : exec (.release o .none) s = .next (y.settle o d []) :=
      congrArg Host.Outcome.next (State.yoCmd_of_runsNow now houts rfl hu h)
    refine ⟨fun held => ?_, fun empty => release (runRelease_of_empty first empty)⟩
    rw [release (runRelease_of_held first held), Run.settle, State.dropStream_nil]
  · intro idx order v w now hl first hidx horder hv hw
    have group {y : Run} (h : runGroupRows o u d = y) : exec (.groupRows o .none) s = .next (y.settle o d l) :=
      congrArg Host.Outcome.next (State.yoCmd_of_runsNow now houts hl hu h)
    exact ⟨fun inRange => group (runGroupRows_of_inRange first hidx horder hv hw inRange),
      fun out => group (runGroupRows_of_outOfRange first hidx out)⟩

end Sys2Proof.Machine
end

section
/-! Snoops and answers on GlaetLink (R398 to R411). -/
namespace Sys2Proof.Machine

section Link
variable {s r : State} {tag : Nat} {h : GlkHead}

/-! ## Sending (R401) -/

@[simp] theorem State.glkPut_shared (s : State) (m : GlkMsg) : (s.glkPut m).glk.shared = s.glk.shared := by
  unfold State.glkPut
  split <;> rfl

@[simp] theorem State.glkPut_outst (s : State) (m : GlkMsg) : (s.glkPut m).glk.outst = s.glk.outst := by
  unfold State.glkPut
  split <;> rfl

/-- A message without a credit of its class waits (R401). -/
theorem State.glkPut_of_no_credit {m : GlkMsg} (none : mgetD s.glk.credits m.cls 0 = 0) :
    s.glkPut m = s.updGlk fun g => { g with waiting := g.waiting ++ [m] } := by
  unfold State.glkPut Glk.canSend
  simp [none]

/-- A request that is settled is no longer outstanding (R411). -/
theorem Glk.request_settled (s : State) (tag : Nat) :
    (s.updGlk fun g => { g with outst := g.outst.filter fun o => o.tag != tag }).glk.request tag = none := by
  simp [Glk.request, State.updGlk]

/-! ## SNP_INV (R403) -/

/-- The link after a snoop of line `l`, before its answer. -/
def State.snooped (r : State) (l : Nat) : State :=
  ((r.glkFree 1).fadd GLK_CACHE_CNT_SNOOPS 1).updGlk fun g => { g with
    shared := g.shared.filter (· != l),
    outst := g.outst.map fun o => if o.op = 0 ∧ lineOf o.pa = l then { o with snooped := true } else o }

theorem State.snooped_shared (r : State) (l : Nat) : (r.snooped l).glk.shared = r.glk.shared.filter (· != l) := rfl

theorem State.snooped_outst (r : State) (l : Nat) :
    (r.snooped l).glk.outst = r.glk.outst.map fun o => if o.op = 0 ∧ lineOf o.pa = l then { o with snooped := true } else o := rfl

/-- A snoop that conforms is done (R403). -/
theorem snpInv_of_fits {addr : Nat} (comes : MsgComes s r h 1) (fits : headFits h 0 = true) (aligned : addr % 128 = 0) (inside : addr < 2 ^ 42) :
    snpInv tag addr h s = (r.snooped (addr / 128)).glkPut (GlkMsg.bare 2 1 tag) := by
  unfold snpInv
  rw [State.glkIn_of_comes comes, if_pos (by simp only [fits, aligned, inside, BEq.rfl, decide_true, Bool.and_self])]
  rfl

/-- A snoop that does not conform takes the link down (R398, R400). -/
theorem snpInv_of_misfit {addr : Nat} (comes : MsgComes s r h 1) (misfit : headFits h 0 = false ∨ addr % 128 ≠ 0) : snpInv tag addr h s = s.glkDown := by
  unfold snpInv
  refine (State.glkIn_of_comes comes).trans (if_neg ?_)
  obtain head | off := misfit
  · simp [head]
  · simp [off]

/-- The reads of the line are marked, and each is of the line it was of. -/
theorem State.snooped_marks {l : Nat} {o : Outst} (mem : o ∈ (r.snooped l).glk.outst) (read : o.op = 0) (line : lineOf o.pa = l) : o.snooped = true := by
  rw [State.snooped_outst, List.mem_map] at mem
  obtain ⟨e, _, rfl⟩ := mem
  by_cases hit : e.op = 0 ∧ lineOf e.pa = l
  · rw [if_pos hit]
  · rw [if_neg hit] at read line
    exact absurd ⟨read, line⟩ hit

/-- A snoop leaves the requests that are outstanding. -/
theorem State.snooped_tags (r : State) (l : Nat) : (r.snooped l).glk.outst.map Outst.tag = r.glk.outst.map Outst.tag := by
  rw [State.snooped_outst, List.map_map]
  refine List.map_congr_left fun o _ => ?_
  simp only [Function.comp]
  split <;> rfl

/-! ## GLK_DATA (R403, R404) -/

/-- The line that the answer to the read `o` brings: for stream use, for the requester alone, or into S (R403, R404). -/
def State.lineComes (t : State) (o : Outst) (l : Nat) : State :=
  if o.op = 1 then t.updGlk fun g => { g with held := l :: g.held.filter (· != l) }
  else if o.snooped then t.updGlk fun g => { g with once := l :: g.once.filter (· != l) }
  else t.fillLine l

theorem State.lineComes_snooped {t : State} {o : Outst} {l : Nat} (fetch : o.op = 0) (snooped : o.snooped = true) :
    (t.lineComes o l).glk.shared = t.glk.shared ∧ l ∈ (t.lineComes o l).glk.once := by
  simp [State.lineComes, fetch, snooped, State.updGlk]

theorem State.lineComes_stream {t : State} {o : Outst} {l : Nat} (stream : o.op = 1) :
    (t.lineComes o l).glk.shared = t.glk.shared ∧ l ∈ (t.lineComes o l).glk.held := by
  simp [State.lineComes, stream, State.updGlk]

section Data
variable {data : List Byte} {phys : ReadUpset} (comes : MsgComes s r h (slotsOf data.length)) (fits : headFits h data.length = true)
  (full : data.length = 128)
include comes fits full

/-- The answer to a read brings its line, and what waited for it goes on (R399, R403, R404). -/
theorem glkData_of_read {o : Outst} (request : r.glk.request tag = some o) (read : o.isWrite = false) :
    glkData tag data phys h s =
      letI t := ((({ r.glkFree 3 with mem := r.mem.writeBytes (glkBase + 128 * lineOf o.pa) data }.lineComes o (lineOf o.pa)).glkSettle tag).mergesGo).strike phys
      if o.op = 0 then t.each allParts State.fetchGoesOn else if o.owner = .security .token then t.tokenCheck else t := by
  have asked : (r.glkFree 3).glk.request tag = some o := request
  unfold glkData
  rw [State.glkIn_of_comes comes, if_pos (by rw [fits, full]; rfl)]
  simp only [asked, read, Bool.false_eq_true, if_false]
  rfl

/-- Data that nothing asked for is discarded (R411). -/
theorem glkData_of_no_request (none : r.glk.request tag = none) : glkData tag data phys h s = r.glkFree 3 := by
  have asked : (r.glkFree 3).glk.request tag = Option.none := none
  unfold glkData
  rw [State.glkIn_of_comes comes, if_pos (by rw [fits, full]; rfl)]
  simp only [asked]

end Data

/-! ## WR_ACK, GLK_ERR and GLK_TIMEOUT (R406, R411) -/

section Acknowledged
variable (comes : MsgComes s r h 1)
include comes

/-- An acknowledged write lets go what waits for it (R132, R381, R406). -/
theorem wrAck_of_write {o : Outst} (fits : headFits h 0 = true) (request : r.glk.request tag = some o) (write : o.isWrite = true) :
    wrAck tag h s = ((((((r.glkFree 2).updGlk fun g => { g with
      irqs := g.irqs.map fun w => if w.tag = some tag then { w with tag := none } else w }).glkSettle tag).flushIrqs.mergesGo).resyncGoes).landsGo).collsGo := by
  have asked : (r.glkFree 2).glk.request tag = some o := request
  unfold wrAck
  rw [State.glkIn_of_comes comes, if_pos fits]
  simp only [asked, write, if_true]

theorem wrAck_of_no_request (fits : headFits h 0 = true) (none : r.glk.request tag = none) : wrAck tag h s = r.glkFree 2 := by
  have asked : (r.glkFree 2).glk.request tag = Option.none := none
  unfold wrAck
  rw [State.glkIn_of_comes comes, if_pos fits]
  simp only [asked]

theorem wrAck_of_misfit (misfit : headFits h 0 = false) : wrAck tag h s = s.glkDown :=
  (State.glkIn_of_comes comes).trans (if_neg (by simp [misfit]))

/-- A refused request fails (R410, R411). -/
theorem glkErr_of_request {reason : Nat} {o : Outst} (fits : headFits h 0 = true) (low : 8 ≤ reason) (high : reason ≤ 10)
    (request : r.glk.request tag = some o) : glkErr tag reason h s = (r.glkFree 2).glkFail o .glkRefused 0 reason := by
  have asked : (r.glkFree 2).glk.request tag = some o := request
  unfold glkErr
  rw [State.glkIn_of_comes comes, if_pos (by simp [fits, low, high])]
  simp only [asked]

/-- A refusal whose header or reason does not conform takes the link down (R398). -/
theorem glkErr_of_misfit {reason : Nat} (misfit : headFits h 0 = false ∨ reason < 8 ∨ 10 < reason) : glkErr tag reason h s = s.glkDown := by
  refine (State.glkIn_of_comes comes).trans (if_neg ?_)
  obtain head | low | high := misfit
  · simp [head]
  · simp [Nat.not_le.2 low]
  · simp [Nat.not_le.2 high]

end Acknowledged

theorem glkTimeout_of_request {o : Outst} (request : s.glk.request tag = some o) : glkTimeout tag s = s.glkFail o .glkTimeout 1 0 := by
  simp only [glkTimeout, request]

theorem glkTimeout_of_no_request (none : s.glk.request tag = none) : glkTimeout tag s = s := by
  simp only [glkTimeout, none]

end Link

/-- Settles O47: snoops and answers act on the line and the request that they name, and what does not conform takes the link down. -/
theorem snoopsAndAnswers : Obligations.SnoopsAndAnswers := by
  refine ⟨?_, ?_, ?_, ?_, fun s tag o request => congrArg Host.Outcome.next (glkTimeout_of_request request), ?_, ?_, Glk.request_settled,
    fun s m => State.glkPut_of_no_credit⟩
  · rintro s r t tag addr l h comes fits aligned inside rfl rfl
    refine ⟨congrArg Host.Outcome.next (snpInv_of_fits comes fits aligned inside), ?_, ?_, ?_, ?_⟩
    · rw [State.glkPut_shared]
      exact (State.snooped_shared r _).symm ▸ by simp
    · intro j other
      rw [State.glkPut_shared]
      exact (State.snooped_shared r _).symm ▸ by simp [other]
    · rw [State.glkPut_outst]
      exact fun o mem => State.snooped_marks mem
    · rw [State.glkPut_outst]
      exact State.snooped_tags r _
  · rintro s r t u tag data phys h o l comes fits full request read rfl rfl rfl
    have data_comes := glkData_of_read (phys := phys) comes fits full request read
    refine ⟨fun stream other => ?_, fun stream token => ?_, fun fetch => ?_, State.lineComes_snooped, State.lineComes_stream⟩
    · exact congrArg Host.Outcome.next ((data_comes.trans (if_neg stream)).trans (if_neg other))
    · exact congrArg Host.Outcome.next ((data_comes.trans (if_neg stream)).trans (if_pos token))
    · exact congrArg Host.Outcome.next (data_comes.trans (if_pos fetch))
  · rintro s r t tag h o comes fits request write rfl
    exact congrArg Host.Outcome.next (wrAck_of_write comes fits request write)
  · intro s r tag reason h o comes fits low high request
    exact congrArg Host.Outcome.next (glkErr_of_request comes fits low high request)
  · intro s r tag h none
    exact ⟨fun data phys comes fits full => congrArg Host.Outcome.next (glkData_of_no_request comes fits full none),
      fun comes fits => congrArg Host.Outcome.next (wrAck_of_no_request comes fits none), congrArg Host.Outcome.next (glkTimeout_of_no_request none)⟩
  · intro s r tag addr reason h comes
    exact ⟨fun misfit => congrArg Host.Outcome.next (snpInv_of_misfit comes misfit), fun misfit => congrArg Host.Outcome.next (wrAck_of_misfit comes misfit),
      fun misfit => congrArg Host.Outcome.next (glkErr_of_misfit comes misfit)⟩

end Sys2Proof.Machine
end

section
/-! The commands of the beat: the first beat (R54), the close (R58 to R63), tokens and symbols (R62 to R65), BEAT_IN, the stop and the boundary
instant (R57, R70, R75). -/
namespace Sys2Proof.Machine

section Beat
variable {s : State} {p : Fin 4}

/-! ## Who is whose master -/

/-- `t` has the domains of `s`: the same device and, for each partition, the same ID, joins and state of formation. -/
structure SameDomains (s t : State) : Prop where
  node : t.node = s.node
  dom : ∀ q, t.domId q = s.domId q ∧ t.domMaster q = s.domMaster q ∧ t.inDomain q = s.inDomain q

namespace SameDomains
variable {t : State} (same : SameDomains s t)
include same

theorem domId : t.domId = s.domId := funext fun q => (same.dom q).1
theorem domMaster : t.domMaster = s.domMaster := funext fun q => (same.dom q).2.1
theorem inDomain : t.inDomain = s.inDomain := funext fun q => (same.dom q).2.2

theorem isMaster : t.isMaster = s.isMaster := by
  funext q
  unfold State.isMaster
  rw [same.domMaster, same.node]

theorem parentPort : t.parentPort = s.parentPort := by
  funext q
  rw [State.parentPort, same.domMaster, State.parentPort]

theorem mates : t.mates = s.mates := by
  funext q
  unfold State.mates
  rw [same.domId, same.inDomain]

theorem hosted : t.hosted = s.hosted := by
  funext q
  rw [State.hosted, same.mates, same.isMaster, State.hosted]

end SameDomains

/-- An update that keeps the ID, the joins and the state of formation keeps the domains. -/
theorem SameDomains.updDom (s : State) (q : Nat) {g : Domain → Domain}
    (keeps : ∀ d, (g d).id = d.id ∧ (g d).joined = d.joined ∧ (g d).formed = d.formed ∧ (g d).ended = d.ended) : SameDomains s (s.updDom q g) := by
  refine ⟨rfl, fun q' => ?_⟩
  unfold State.domId State.domMaster State.inDomain
  by_cases h : q' = q
  · obtain ⟨id, joined, formed, ended⟩ := keeps (s.part q).dom
    subst h
    simp only [State.part_updDom_self, id, joined, formed, ended, and_self]
  · simp only [State.part_updDom_ne s h, and_self]

/-- On a device without the master a symbol goes up by the port toward the master. -/
theorem State.sendUp_of_port {q : Nat} {d : Nat} {y : Nat → Sym} (id : s.domId p = some d) (port : s.parentPort p = some q) :
    s.sendUp p y = s.emit (.sym q (y d)) := by
  simp only [State.sendUp, id, port]

/-! ## FIRST_BEAT (R54) -/

/-- A partition that may begin has a master with a BEAT_START that is not 0, the one announced (R53, R54). -/
theorem State.master_of_mayBegin {p : Nat} {a : FirstBeatAnn} (may : s.mayBegin p a = true) :
    ∃ m, s.domMaster p = some m ∧ m.start = a.number ∧ a.number ≠ 0 := by
  unfold State.mayBegin at may
  cases master : s.domMaster p with
  | none => simp [master] at may
  | some m =>
    simp only [master, Bool.and_eq_true, beq_iff_eq, bne_iff_ne] at may
    obtain ⟨_, ⟨⟨_, start⟩, begins⟩, _⟩ := may
    exact ⟨m, rfl, start, begins⟩

/-- The registers of a partition whose run begins. -/
def State.begun (s : State) (p : Nat) (a : FirstBeatAnn) : State :=
  ((s.takeAnnounce p a).fsets [(BEAT_NOW_NUMBER p, a.number), (HUB_PART_CTRL_STATE p, 3), (BEAT_STATE_STATE p, 2)]).updPart p
    fun q => { q with runFirst := a.number, endedBeat := 0, dom := { q.dom with subtree := a.subtree } }

theorem State.begun_fget (s : State) (p : Fin 4) (a : FirstBeatAnn) :
    (s.begun p a).pstate p = 3 ∧ (s.begun p a).beat p = a.number % 2 ^ 48 ∧ (s.begun p a).fget (BEAT_STATE_STATE p) = 2 := by
  have := p.isLt
  have now_ne_ctrl : (BEAT_NOW_NUMBER p).key ≠ (HUB_PART_CTRL_STATE p).key := by
    simp only [Fld.key, BEAT_NOW_NUMBER, BEAT_NOW, HUB_PART_CTRL_STATE, HUB_PART_CTRL]
    omega
  have now_ne_state : (BEAT_NOW_NUMBER p).key ≠ (BEAT_STATE_STATE p).key := by
    simp only [Fld.key, BEAT_NOW_NUMBER, BEAT_NOW, BEAT_STATE_STATE, BEAT_STATE]
    omega
  have ctrl_ne_state : (HUB_PART_CTRL_STATE p).key ≠ (BEAT_STATE_STATE p).key := by
    simp only [Fld.key, HUB_PART_CTRL_STATE, HUB_PART_CTRL, BEAT_STATE_STATE, BEAT_STATE]
    omega
  have regs (f : Fld) : (s.begun p a).fget f =
      ((s.takeAnnounce p a).fsets [(BEAT_NOW_NUMBER p, a.number), (HUB_PART_CTRL_STATE p, 3), (BEAT_STATE_STATE p, 2)]).fget f := rfl
  rw [State.pstate, State.beat, regs, regs, regs]
  refine ⟨?_, ?_, ?_⟩
  · exact (s.takeAnnounce p a).fget_fsets_append_cons [(BEAT_NOW_NUMBER p, a.number)] _ _ 3 (by simpa using ctrl_ne_state)
  · exact (s.takeAnnounce p a).fget_fsets_append_cons [] _ _ a.number (by simpa using ⟨now_ne_ctrl, now_ne_state⟩)
  · exact (s.takeAnnounce p a).fget_fsets_append_cons [(BEAT_NOW_NUMBER p, a.number), (HUB_PART_CTRL_STATE p, 3)] [] _ 2 (by simp)

theorem State.begun_runFirst (s : State) (p : Nat) (a : FirstBeatAnn) : ((s.begun p a).part p).runFirst = a.number := by
  rw [State.begun, State.part_updPart_self]

/-- The announced first beat makes a partition that may begin run (R54). -/
theorem firstBeat_of_mayBegin {a : FirstBeatAnn} (may : s.mayBegin p a = true) :
    firstBeat p a s = (((((s.begun p a).freshCounts p).beatPulse p).schedStart p).judgeColl p).each
      (((((s.begun p a).freshCounts p).beatPulse p).schedStart p).judgeColl p |>.regions p) fun t r => t.bookRotation r :=
  if_neg (by simp [may])

/-! ## The close (R58 to R63) -/

theorem closeDeadline_of_running (stalls : List Nat) (runs : s.running p = true) (early : (s.part p).dom.deadline = false) :
    closeDeadline p stalls s =
      letI u := s.updDom p fun d => { d with deadline := true }
      letI t : Token := ⟨s.node, p, 0, causeOf 1 (s.stallsWith p stalls)⟩
      if s.flag (BEAT_CTRL_STRICT p) && !s.closable p then if (s.hosted p).isSome then u.overrunAll p none t else u.sendUp p fun d => .overrunToken d t
      else u := by
  have waited : ((s.updDom p fun d => { d with deadline := true }).part p).coll = (s.part p).coll := by
    rw [State.part_updDom_self]
  have same : SameDomains s (s.updDom p fun d => { d with deadline := true }) := SameDomains.updDom s p fun _ => ⟨rfl, rfl, rfl, rfl⟩
  unfold closeDeadline
  rw [if_neg (by simp [runs, early])]
  dsimp only
  rw [same.hosted]
  unfold State.stallsWith
  rw [waited]
  rfl

/-- A running member at or after the deadline that may close closes its beat (R58, R75). -/
theorem memberClose_of_closable {late : Nat} {stalls : List Nat} (runs : s.running p = true) (due : (s.part p).dom.deadline = true)
    (opened : (s.part p).dom.closed = false) (lives : (s.part p).dom.ended = false) (closable : s.closable p = true) :
    memberClose p late stalls s =
      letI u := (s.updDom p fun d => { d with closed := true, ownLate := late }).mergeIn p ⟨s.node, p, late, causeOf late (s.stallsWith p stalls)⟩ 1 late
      if (s.part p).dom.stopAt = u.beat p ∧ u.running p then (u.endRun p).leaveDomain p else u := by
  have waited : ((s.updDom p fun d => { d with closed := true, ownLate := late }).part p).coll = (s.part p).coll := by
    rw [State.part_updDom_self]
  unfold memberClose
  dsimp only
  rw [if_neg (by simp [runs, due, opened, lives, closable])]
  unfold State.stallsWith
  rw [waited]
  rfl

/-- The device's merged token is empty again. -/
def State.tokensSent (s : State) (p : Nat) : State := s.updDom (s.chief p) fun d => { d with merged := none, got := 0 }

theorem State.tokensSent_sameDomains (s : State) (p : Nat) : SameDomains s (s.tokensSent p) := SameDomains.updDom s _ fun _ => ⟨rfl, rfl, rfl, rfl⟩

theorem State.mergeIn_of_missing {p : Nat} {t : Token} {n ns : Nat} (missing : (s.tokens p).2 + n < s.tokensDue p) :
    s.mergeIn p t n ns = s.updDom (s.chief p) fun d => { d with merged := some (s.mergedWith p t), got := (s.tokens p).2 + n } :=
  if_pos missing

/-- The last token ends the beat at the device of the master, and goes up on any other (R59, R61). -/
theorem State.mergeIn_of_complete {p : Nat} {t : Token} {n ns : Nat} (complete : s.tokensDue p ≤ (s.tokens p).2 + n) :
    (∀ m, s.hosted p = some m → s.mergeIn p t n ns = (s.tokensSent p).masterEnds m (s.mergedWith p t) ns) ∧
      (s.hosted p = none → s.mergeIn p t n ns = (s.tokensSent p).sendUp p fun d => .closing d (s.mergedWith p t) ((s.tokens p).2 + n)) := by
  have last : s.mergeIn p t n ns = match (s.tokensSent p).hosted p with
      | some m => (s.tokensSent p).masterEnds m (s.mergedWith p t) ns
      | none => (s.tokensSent p).sendUp p fun d => .closing d (s.mergedWith p t) ((s.tokens p).2 + n) := by
    refine (if_neg (Nat.not_lt.2 complete)).trans ?_
    rfl
  rw [(s.tokensSent_sameDomains p).hosted] at last
  constructor
  · intro m host
    rw [host] at last
    exact last
  · intro away
    rw [away] at last
    exact last

/-! ## Tokens and symbols (R62 to R65) -/

section Symbols
variable (inside : s.inDomain p = true)
include inside

theorem faultToken_of_inside (f : FaultOrigin) :
    faultToken p f s = if (s.hosted p).isSome then s.stallAll p none f else s.sendUp p fun d => .faultToken d f :=
  if_neg (by simp [inside])

theorem overrunToken_of_inside (t : Token) :
    overrunToken p t s = if (s.hosted p).isSome then s.overrunAll p none t else s.sendUp p fun d => .overrunToken d t :=
  if_neg (by simp [inside])

theorem stallSymbol_of_inside (f : FaultOrigin) : stallSymbol p f s = s.stallAll p (s.parentPort p) f := if_neg (by simp [inside])

theorem overrunSymbol_of_inside (t : Token) : overrunSymbol p t s = s.overrunAll p (s.parentPort p) t := if_neg (by simp [inside])

end Symbols

/-- A stall of a domain with one member here stops that member, unless the stall came from it (R62, R422). -/
theorem State.stallAll_of_only {d : Nat} {not : Option Nat} {f : FaultOrigin} (id : s.domId p = some d) (only : s.mates p = [p.val])
    (other : ¬ (f.node = s.node ∧ f.part = p)) :
    s.stallAll p not f = ((s.flood not (.stall d f)).updDom p fun x => { x with ended := true }).stallOne p f := by
  unfold State.stallAll State.floodDom
  simp only [only, id]
  exact if_neg other

/-- An overrun of a domain with one member here raises BEAT_OVERRUN in it (R63). -/
theorem State.overrunAll_of_only {d : Nat} {not : Option Nat} {t : Token} (id : s.domId p = some d) (only : s.mates p = [p.val]) :
    s.overrunAll p not t = ((s.flood not (.overrun d t)).updDom p fun x => { x with ended := true }).raise p .beatOverrun
      { unit := unitHub, log := t.node + t.part * 65536 } := by
  unfold State.overrunAll State.floodDom
  simp only [only, id]
  rfl

/-- A member that may fault keeps the origin of the stall and raises BEAT_STALL (R422). -/
theorem State.stallOne_of_mayFault {u : State} {f : FaultOrigin} (hu : u = s.fsets [(HUB_PART_FLT_ORIGIN_NODE p, f.node),
      (HUB_PART_FLT_ORIGIN_PART p, f.part), (HUB_PART_FLT_ORIGIN_CODE p, f.code)]) (may : u.mayFault p .beatStall = true) :
    s.stallOne p f = ((u.raiseOne p .beatStall { unit := unitHub, log := f.code * 2 ^ 34 + f.part * 2 ^ 46 + f.node * 2 ^ 48 }).endMember p).faultIrq p
      (partKey p) := by
  subst hu
  exact if_pos may

/-! ## The stop, BEAT_IN, the seal and the boundary (R57, R70, R75, R322) -/

theorem beatStop_of_legal {n : Nat} (runs : s.running p = true) (master : s.isMaster p = true) (later : s.beat p + 2 ≤ n) (fits : n < 2 ^ 48) :
    beatStop p n s = s.fset (BEAT_STOP_AT p) n :=
  if_pos ⟨runs, master, later, Nat.le_of_lt_succ fits⟩

theorem beatStop_of_illegal {n : Nat} (illegal : s.isMaster p = false ∨ n < s.beat p + 2) : beatStop p n s = s.noteDiscard (BEAT_STOP p) n := by
  refine if_neg fun ⟨_, master, later, _⟩ => ?_
  obtain other | soon := illegal
  · rw [other] at master
    cases master
  · omega

theorem State.usesBeatIn_of_source (runs : s.running p = true) (master : s.isMaster p = true) (source : s.fget (BEAT_CTRL_SOURCE p) = 1) :
    s.usesBeatIn p = true := by
  simp [State.usesBeatIn, runs, master, source]

/-- A new candidate is judged anew (R322). -/
theorem sealCandidate_of_new {v : Nat} (new : bits v 0 48 ≠ s.fget (HUB_SEAL_CAND p)) : sealCandidate p v s =
    (((s.fsets [(HUB_SEAL_CAND p, bits v 0 48), (HUB_SEAL_NOTE_JAR p, bits v 48 12), (HUB_SEAL_NOTE_EN p, bits v 60 1)]).fset (HUB_SEAL_SEALED p) 0).updPart p
      fun q => { q with sealDead := false }).trySeal p :=
  if_pos (bne_iff_ne.2 new)

theorem sealCandidate_of_same {v : Nat} (same : bits v 0 48 = s.fget (HUB_SEAL_CAND p)) : sealCandidate p v s =
    s.fsets [(HUB_SEAL_CAND p, bits v 0 48), (HUB_SEAL_NOTE_JAR p, bits v 48 12), (HUB_SEAL_NOTE_EN p, bits v 60 1)] :=
  if_neg (by simp [same])

/-- The next beat begins when the countdown of the boundary symbol expires (R70). -/
theorem beatBoundary_of_running {counts : List (Nat × Nat)} {b : BoundaryMsg} (runs : s.running p = true) (due : (s.part p).dom.boundary = some b) :
    beatBoundary p counts s =
      letI u := (((s.latchCounts p counts).nextBeat p b).placeHolds p b.number).beatPulse p
      (u.each (u.regions p) fun t r => t.bookRotation r).drainPart p := by
  unfold beatBoundary
  simp only [due, runs, Bool.true_eq_false, if_false]

end Beat

/-- Settles O7: FIRST_BEAT makes the partition run in the announced beat. -/
theorem firstBeatBegins : Obligations.FirstBeatBegins := by
  intro s p a may
  obtain ⟨runs, beat, state⟩ := s.begun_fget p a
  exact ⟨s.begun p a, rfl, runs, beat, state, s.begun_runFirst p a, State.master_of_mayBegin may, congrArg Host.Outcome.next (firstBeat_of_mayBegin may)⟩

/-- Settles O8: a beat closes by its deadline, by its members and by the tokens on their way to the master. -/
theorem beatCloses : Obligations.BeatCloses := by
  refine ⟨?_, ?_, ?_, ?_⟩
  · intro s p stalls runs early may
    refine congrArg Host.Outcome.next ((closeDeadline_of_running stalls runs early).trans (if_neg ?_))
    obtain lax | closable := may
    · simp [lax]
    · simp [closable]
  · rintro s _ p stalls _ runs early strict stuck rfl rfl
    have overruns := (closeDeadline_of_running stalls runs early).trans (if_pos (by simp [strict, stuck]))
    refine ⟨fun m host => congrArg Host.Outcome.next (overruns.trans (if_pos (by simp [host]))), fun d q away id port => ?_⟩
    have same : SameDomains s (s.updDom p fun d => { d with deadline := true }) := SameDomains.updDom s p fun _ => ⟨rfl, rfl, rfl, rfl⟩
    exact congrArg Host.Outcome.next ((overruns.trans (if_neg (Option.not_isSome_iff_eq_none.2 away))).trans
      (State.sendUp_of_port ((congrFun same.domId p).trans id) ((congrFun same.parentPort p).trans port)))
  · intro s p late stalls runs due opened lives closable
    exact ⟨_, rfl, congrArg Host.Outcome.next (memberClose_of_closable runs due opened lives closable)⟩
  · rintro s _ p t n ns inside rfl
    have merges {y : State} (h : s.mergeIn p t n ns = y) : exec (.closingToken p t n ns) s = .next y :=
      congrArg Host.Outcome.next ((if_pos inside).trans h)
    have same := s.tokensSent_sameDomains p
    refine ⟨fun missing => merges (State.mergeIn_of_missing missing), fun m complete host => merges ((State.mergeIn_of_complete complete).1 m host),
      fun d q complete away id port => merges ?_⟩
    exact ((State.mergeIn_of_complete complete).2 away).trans
      (State.sendUp_of_port ((congrFun same.domId p).trans id) ((congrFun same.parentPort p).trans port))

/-- Settles O9: tokens go to the master and symbols come from it; a stall and an overrun end the domain and fault its members here. -/
theorem beatSymbols : Obligations.BeatSymbols := by
  refine ⟨?_, ?_, ?_, fun s p f inside => congrArg Host.Outcome.next (stallSymbol_of_inside inside f),
    fun s p t inside => congrArg Host.Outcome.next (overrunSymbol_of_inside inside t), ?_, ?_, fun s u p f => State.stallOne_of_mayFault⟩
  · intro s p f inside
    have token := faultToken_of_inside inside f
    exact ⟨fun m host => congrArg Host.Outcome.next (token.trans (if_pos (by simp [host]))), fun d q away id port =>
      congrArg Host.Outcome.next ((token.trans (if_neg (Option.not_isSome_iff_eq_none.2 away))).trans (State.sendUp_of_port id port))⟩
  · intro s p t inside
    have token := overrunToken_of_inside inside t
    exact ⟨fun m host => congrArg Host.Outcome.next (token.trans (if_pos (by simp [host]))), fun d q away id port =>
      congrArg Host.Outcome.next ((token.trans (if_neg (Option.not_isSome_iff_eq_none.2 away))).trans (State.sendUp_of_port id port))⟩
  · intro s p inside master open_ missing
    exact congrArg Host.Outcome.next (if_pos ⟨inside, master, open_, missing⟩)
  · intro s p inside closed open_
    exact congrArg Host.Outcome.next (if_pos ⟨inside, closed, open_⟩)
  · intro s p d not f t id only
    exact ⟨State.stallAll_of_only id only, State.overrunAll_of_only id only⟩

/-- Settles O11: the stop beat, BEAT_IN, the sealing candidate and the boundary instant. -/
theorem beatControl : Obligations.BeatControl := by
  refine ⟨?_, fun s p n illegal => congrArg Host.Outcome.next (beatStop_of_illegal illegal), ?_,
    fun s p v new => congrArg Host.Outcome.next (sealCandidate_of_new new), fun s p v same => congrArg Host.Outcome.next (sealCandidate_of_same same),
    fun s p counts b runs due => ⟨_, rfl, congrArg Host.Outcome.next (beatBoundary_of_running runs due)⟩⟩
  · intro s p n runs master later fits
    refine ⟨congrArg Host.Outcome.next (beatStop_of_legal runs master later fits), ?_, fun f hf => State.fget_fset_ne s (hf _ (List.mem_singleton_self _)) n⟩
    rw [State.fget_fset_self]
    exact Nat.mod_eq_of_lt fits
  · intro s p runs master source
    have uses := State.usesBeatIn_of_source runs master source
    exact ⟨congrArg Host.Outcome.next (if_pos uses), congrArg Host.Outcome.next (if_pos uses)⟩

end Sys2Proof.Machine
end

section
/-! RING_ENABLE (R78, R80) and DESC_FETCH (R84, R90). -/
namespace Sys2Proof.Machine

section Rings
variable {s : State}

/-! ## RING_ENABLE -/

/-- A field that a list of writes names, and to whose place it writes nothing but 0, reads 0. -/
theorem State.fget_fsets_zero {f : Fld} {l : List (Fld × Nat)} (mem : ∃ e ∈ l, e.1.key = f.key) (zero : ∀ e ∈ l, e.1.key = f.key → e.2 = 0) :
    (s.fsets l).fget f = 0 := by
  induction l generalizing s with
  | nil => simp at mem
  | cons e t ih =>
    by_cases later : ∃ x ∈ t, x.1.key = f.key
    · exact ih later fun x hx => zero x (List.mem_cons_of_mem _ hx)
    · obtain ⟨x, hx, key⟩ := mem
      obtain rfl | hx := List.mem_cons.1 hx
      · refine (State.fget_fsets_ne _ t fun y hy same => later ⟨y, hy, same.symm⟩).trans ?_
        rw [zero x List.mem_cons_self key, State.fget_fset, if_pos key.symm, Nat.zero_mod]
      · exact absurd ⟨x, hx, key⟩ later

/-- What RING_ENABLE writes to the registers of the ring (R80). -/
def ringReset (n : Nat) : List (Fld × Nat) :=
  [(HUB_RING_PTRS_HEAD n, 0), (HUB_RING_PTRS_HEAD_PH n, 0), (HUB_RING_PTRS_TAIL n, 0), (HUB_RING_PTRS_TAIL_PH n, 0),
    (HUB_RING_PTRS_CQ_TAIL n, 0), (HUB_RING_PTRS_CQ_PH n, 1), (HUB_RING_CNT0_FETCHED n, 0), (HUB_RING_CNT0_COMPLETED n, 0),
    (HUB_RING_CNT1_ERRORS n, 0), (HUB_RING_CNT1_NOOPS n, 0), (PWR_ERING_VALUE n, 0), (HUB_RING_PTRS_STATE n, 1), (HUB_RING_CTRL_ENABLE n, 1)]

theorem State.ringOn_fget (s : State) (n : Nat) (f : Fld) : (s.ringOn n).fget f = ((s.updRing n fun _ => .fresh).fsets (ringReset n)).fget f := rfl

/-- A ring that is enabled is fresh (R80). -/
theorem State.ringOn_ring (s : State) (n : Nat) : (s.ringOn n).ring n = .fresh := by
  have same : (s.ringOn n).ring n = (s.updRing n fun _ => .fresh).ring n := rfl
  rw [same, State.ring_updRing_self]

theorem State.ringOn_active (s : State) (n : Fin 256) : (s.ringOn n).ringState n = 1 := by
  have ne_enable : (HUB_RING_PTRS_STATE n).key ≠ (HUB_RING_CTRL_ENABLE n).key := by
    have := n.isLt
    simp only [Fld.key, HUB_RING_PTRS_STATE, HUB_RING_PTRS, HUB_RING_CTRL_ENABLE, HUB_RING_CTRL]
    omega
  have split : ringReset n = (ringReset n).take 11 ++ (HUB_RING_PTRS_STATE n, 1) :: [(HUB_RING_CTRL_ENABLE n, 1)] := rfl
  rw [State.ringState, State.ringOn_fget, split, State.fget_fsets_append_cons _ _ _ _ (by simpa using ne_enable)]
  rfl

/-- The three fields that RING_ENABLE sets. -/
def ringSet (n : Nat) : List Fld := [HUB_RING_PTRS_CQ_PH n, HUB_RING_PTRS_STATE n, HUB_RING_CTRL_ENABLE n]

/-- Pointers and counters of a ring that is enabled are 0 (R80). -/
theorem State.ringOn_zero (s : State) (n : Nat) {f : Fld} (mem : ∃ e ∈ ringReset n, e.1.key = f.key) (ne : ∀ g ∈ ringSet n, f.key ≠ g.key) :
    (s.ringOn n).fget f = 0 := by
  rw [State.ringOn_fget]
  refine State.fget_fsets_zero mem fun e he key => ?_
  have values : e.2 = 0 ∨ e.1 ∈ ringSet n := by
    revert e
    simp [ringReset, ringSet]
  exact values.resolve_right fun set_ => ne _ set_ key.symm

/-- The pointers and counters of a ring. -/
def ringCounts (n : Nat) : List Fld :=
  [HUB_RING_PTRS_HEAD n, HUB_RING_PTRS_HEAD_PH n, HUB_RING_PTRS_TAIL n, HUB_RING_PTRS_TAIL_PH n, HUB_RING_PTRS_CQ_TAIL n, HUB_RING_CNT0_FETCHED n,
    HUB_RING_CNT0_COMPLETED n, HUB_RING_CNT1_ERRORS n, HUB_RING_CNT1_NOOPS n]

theorem ringCounts_ne_ringSet (n : Fin 256) : ∀ f ∈ ringCounts n, ∀ g ∈ ringSet n, f.key ≠ g.key := by
  have := n.isLt
  simp only [ringCounts, ringSet, List.forall_mem_cons, List.not_mem_nil, IsEmpty.forall_iff, implies_true, and_true, Fld.key, HUB_RING_PTRS, HUB_RING_PTRS_HEAD, HUB_RING_PTRS_HEAD_PH,
    HUB_RING_PTRS_TAIL, HUB_RING_PTRS_TAIL_PH, HUB_RING_PTRS_CQ_TAIL, HUB_RING_CNT0, HUB_RING_CNT0_FETCHED, HUB_RING_CNT0_COMPLETED, HUB_RING_CNT1,
    HUB_RING_CNT1_ERRORS, HUB_RING_CNT1_NOOPS, HUB_RING_PTRS_CQ_PH, HUB_RING_PTRS_STATE, HUB_RING_CTRL_ENABLE, HUB_RING_CTRL]
  omega

theorem ringCounts_mem_ringReset (n : Nat) : ∀ f ∈ ringCounts n, (f, 0) ∈ ringReset n := by
  simp [ringCounts, ringReset]

/-- A 1 enables a ring that is OFF, or is refused (R78, R80). -/
theorem State.applyEnable_of_off {n : Nat} (off : s.ringState n = 0) : s.applyEnable n 1 =
    if s.enableRefused n then ((s.fset (HUB_RING_STAT_REFUSED n) 1).fset (HUB_RING_CTRL_ENABLE n) 0).noteDiscard (HUB_RING_CTRL n) 1 else s.ringOn n := by
  simp only [State.applyEnable, off, if_true]

/-- A 0 makes an ACTIVE ring drain (R80). -/
theorem State.applyEnable_of_active {n : Nat} (active : s.ringState n = 1) :
    s.applyEnable n 0 = ((s.fset (HUB_RING_PTRS_STATE n) 2).fset (HUB_RING_CTRL_ENABLE n) 0).settleRing n := by
  simp only [State.applyEnable, active, Nat.zero_ne_one, if_false, if_true]

/-- Outside a run that governs the ring, ENABLE takes effect at once (R80). -/
theorem ringEnable_of_free {n : Nat} (on : Bool) (free : s.governed (HUB_RING_CTRL n) = false) : ringEnable n on s = s.applyEnable n (b2n on) :=
  if_neg (by simp [free])

/-! ## DESC_FETCH -/

section Fetch
variable {u t : State} {n : Fin 256} {raw : Nat}

theorem LinkOnly.ringPart (only : LinkOnly u t) (n : Nat) : t.ringPart n = u.ringPart n := by
  rw [only]
  rfl

theorem LinkOnly.beat (only : LinkOnly u t) (p : Nat) : t.beat p = u.beat p := only.fget _

theorem LinkOnly.ring (only : LinkOnly u t) (n : Nat) : t.ring n = u.ring n := by
  rw [State.ring, only.rings, State.ring]

theorem LinkOnly.damage (only : LinkOnly u t) : t.damage = u.damage := by rw [only]

theorem LinkOnly.descSeq (only : LinkOnly u t) : t.descSeq = u.descSeq := by rw [only]

theorem LinkOnly.mustPause (only : LinkOnly u t) (p raw : Nat) : t.mustPause p raw = u.mustPause p raw := by
  rw [State.mustPause, only.beat, State.part, only.parts]
  rfl

/-- An entry of a later beat, or a second snapshot, pauses the ring (R67, R292). -/
theorem State.fetchEntry_of_pause (only : LinkOnly u t) (pause : u.mustPause (u.ringPart n) raw = true) :
    t.fetchEntry n raw = (t.updRing n fun q => { q with pausedAt := if u.beat (u.ringPart n) + 1 < dBeat raw then some (dBeat raw) else none }).passTurn
      (u.ringPart n) n false := by
  rw [← only.ringPart, ← only.mustPause] at pause
  rw [← only.ringPart, ← only.beat]
  exact if_pos pause

section Validated
variable (only : LinkOnly u t) (goes : u.mustPause (u.ringPart n) raw = false)
include only goes

/-- An entry that fails a check of R90 is rejected with its code. -/
theorem State.fetchEntry_of_bad {w : State} {c : Code}
    (bad : t.tryValidate (.ring n) raw (u.ring n).prevEff (u.damage.length + 1) = (w, .error (.bad c))) :
    t.fetchEntry n raw = w.rejectEntry n raw c (checkCause (.ring n)) := by
  rw [← only.ringPart, ← only.mustPause] at goes
  rw [← only.ring, ← only.damage] at bad
  unfold State.fetchEntry
  simp only [goes, Fin.ofNat_val_eq_self, bad, Bool.false_eq_true, if_false]
  rfl

/-- An entry that passes the checks is in flight behind the earlier ones (R85, R90). -/
theorem State.fetchEntry_of_ok {w : State} {v : Nat × List Nat}
    (ok : t.tryValidate (.ring n) raw (u.ring n).prevEff (u.damage.length + 1) = (w, .ok v)) :
    t.fetchEntry n raw = (((({ w.dropOnce with descSeq := u.descSeq + 1 }).headNext n).updRing n fun q =>
      { q with inflight := q.inflight ++ [mkDesc u.descSeq (u.fget (HUB_RING_PTRS_HEAD n)) raw v], prevEff := some v.1, pausedAt := none }).passTurn
        (u.ringPart n) n true).noteFetched (u.ringPart n) (mkDesc u.descSeq (u.fget (HUB_RING_PTRS_HEAD n)) raw v) := by
  rw [← only.ringPart, ← only.mustPause] at goes
  rw [← only.ring, ← only.damage] at ok
  rw [← only.ringPart, ← only.descSeq, ← only.fget]
  unfold State.fetchEntry
  simp only [goes, Fin.ofNat_val_eq_self, ok, Bool.false_eq_true, if_false]

end Validated

/-- DESC_FETCH of the ring whose turn it is reads its entry in the link cache, or asks for its line (R84, R100, R404). -/
theorem descFetch_of_turn {s : State} {phys : ReadUpset} (good : ∀ x ∈ phys, x.1 ≠ HUB_RING_PTRS n) (hu : u = s.strike phys)
    (turn : u.nextRing = some n.val) (hraw : raw = u.loadNat (u.entryAt n) 128) : descFetch n phys s =
      letI l := (u.entryAt n - glkBase) / 128
      if u.glk.inS l then (u.touchLine l).fetchEntry n raw else u.askShared l (.fetch (u.ringPart n)) := by
  rw [hraw]
  subst hu
  refine (if_neg ?_).trans (if_neg (not_not.2 turn))
  simp only [List.any_eq_true, Bool.and_eq_true, decide_eq_true_eq, not_exists, not_and]
  exact fun x hx same => absurd same (good x hx)

/-- An uncorrectable error in the ring's state is device-fatal (R417, R421). -/
theorem descFetch_of_ecc {s : State} {phys : ReadUpset} (bad : ∃ x ∈ phys, x.1 = HUB_RING_PTRS n ∧ eccFails x.2 = true) :
    descFetch n phys s = (s.strike phys).deviceFatal .hubInternal { unit := unitHub } :=
  if_pos (by simpa using bad)

end Fetch

end Rings
/-- Settles O15: ENABLE is staged while the partition runs; otherwise it takes effect at once, and a ring that is enabled is reset (R78, R80). -/
theorem ringEnables : Obligations.RingEnables := by
  refine ⟨?_, ?_, ?_, ?_, fun s n => ⟨s.ringOn_active n, s.ringOn_ring n, ?_⟩⟩
  · intro s n on governed
    refine congrArg Host.Outcome.next ((if_pos governed).trans ((if_pos governed).trans ?_))
    cases on <;> rfl
  · intro s n free off may
    exact congrArg Host.Outcome.next ((ringEnable_of_free true free).trans ((State.applyEnable_of_off off).trans (if_neg (by simp [may]))))
  · intro s n free off refused
    exact congrArg Host.Outcome.next ((ringEnable_of_free true free).trans ((State.applyEnable_of_off off).trans (if_pos refused)))
  · intro s n free active
    exact congrArg Host.Outcome.next ((ringEnable_of_free false free).trans (State.applyEnable_of_active active))
  · exact fun f hf => s.ringOn_zero n ⟨_, ringCounts_mem_ringReset n f hf, rfl⟩ (ringCounts_ne_ringSet n f hf)

/-- Settles O16: DESC_FETCH asks for the line of an entry, pauses before it, rejects it, or puts it in flight (R84, R90). -/
theorem ringFetches : Obligations.RingFetches := by
  refine ⟨fun s n phys bad => congrArg Host.Outcome.next (descFetch_of_ecc bad), ?_⟩
  intro s u n phys l p raw good hu turn hl hp hraw
  subst hl hp
  have fetch := descFetch_of_turn good hu turn hraw
  have only := u.touchLine_only ((u.entryAt n - glkBase) / 128)
  have reads (here : u.glk.inS ((u.entryAt n - glkBase) / 128) = true) := fetch.trans (if_pos here)
  refine ⟨fun away => ?_, fun here pause => ?_, fun w c here goes bad => ?_, fun w v here goes ok => ?_⟩
  · have asks := fetch.trans (if_neg (Bool.eq_false_iff.1 away))
    exact congrArg Host.Outcome.next asks
  · exact congrArg Host.Outcome.next ((reads here).trans (State.fetchEntry_of_pause only pause))
  · exact congrArg Host.Outcome.next ((reads here).trans (State.fetchEntry_of_bad only goes bad))
  · exact ⟨_, rfl, rfl, rfl, rfl, congrArg Host.Outcome.next ((reads here).trans (State.fetchEntry_of_ok only goes ok))⟩

end Sys2Proof.Machine
end

section
/-! The context commands SAVE, RESTORE and EMPTY, and CONTEXT_DONE (R137, R138). -/
namespace Sys2Proof.Machine

section Context
variable {s : State} {p : Fin 4}

/-! ## How a command begins -/

/-- The registers of partition `p` when a context command has begun. -/
def State.ctxBusy (s : State) (p a : Nat) : State := s.fsets [(HUB_PART_CTX_ADDR p, a / 4096), (HUB_PART_CTX_BUSY p, 1), (HUB_PART_CTX_ERR p, 0)]

/-- The command `cmd` of address `a` is under way in partition `p`. -/
def State.ctxUnderWay (s : State) (p a cmd : Nat) : State := (s.ctxBusy p a).updPart p fun q => { q with ctx := some ⟨cmd, a, false⟩ }

theorem State.ctxBusy_busy (s : State) (p a : Nat) : (s.ctxBusy p a).fget (HUB_PART_CTX_BUSY p) = 1 :=
  s.fget_fsets_append_cons [(HUB_PART_CTX_ADDR p, a / 4096)] [(HUB_PART_CTX_ERR p, 0)] _ 1 (by simp [Fld.key, HUB_PART_CTX_BUSY, HUB_PART_CTX_ERR])

theorem State.ctxBusy_err (s : State) (p a : Nat) : (s.ctxBusy p a).fget (HUB_PART_CTX_ERR p) = 0 :=
  s.fget_fsets_append_cons [(HUB_PART_CTX_ADDR p, a / 4096), (HUB_PART_CTX_BUSY p, 1)] [] _ 0 (by simp)

theorem State.ctxBusy_addr (s : State) (p a : Nat) (fits : a / 4096 < 2 ^ 32) : (s.ctxBusy p a).fget (HUB_PART_CTX_ADDR p) = a / 4096 := by
  have written : (s.ctxBusy p a).fget (HUB_PART_CTX_ADDR p) = a / 4096 % 2 ^ 32 :=
    s.fget_fsets_append_cons [] [(HUB_PART_CTX_BUSY p, 1), (HUB_PART_CTX_ERR p, 0)] _ (a / 4096)
      (by simp [Fld.key, HUB_PART_CTX_ADDR, HUB_PART_CTX_BUSY, HUB_PART_CTX_ERR])
  rw [written, Nat.mod_eq_of_lt fits]

theorem State.ctxBusy_sameRegs (s : State) (p a : Nat) : SameRegs s (s.ctxBusy p a) [HUB_PART_CTX_ADDR p, HUB_PART_CTX_BUSY p, HUB_PART_CTX_ERR p] :=
  fun f hf => State.fget_fsets_ne s _ (by simpa using hf)

/-- The jar image is one of the jars, the streams and the layout. -/
theorem State.jarImage_congr {t : State} {p : Nat} (jars : (t.part p).jars = (s.part p).jars) (streams : (t.part p).streams = (s.part p).streams)
    (layout : t.layout = s.layout) : t.jarImage p = s.jarImage p := by
  unfold State.jarImage State.jar? State.regions
  dsimp only
  rw [jars, streams, layout]

theorem State.ctxUnderWay_jarImage (s : State) (p : Fin 4) (a cmd : Nat) : (s.ctxUnderWay p a cmd).jarImage p = s.jarImage p := by
  have part : (s.ctxUnderWay p a cmd).part p = { s.part p with ctx := some ⟨cmd, a, false⟩ } := by
    rw [State.ctxUnderWay, State.part_updPart_self, State.ctxBusy, State.part_fsets]
  refine State.jarImage_congr (by rw [part]) (by rw [part]) (s.ctxBusy_sameRegs p a _ ?_)
  have := p.isLt
  simp only [List.forall_mem_cons, List.not_mem_nil, IsEmpty.forall_iff, implies_true, and_true, Fld.key, HUB_LAYOUT_CURRENT, HUB_LAYOUT, HUB_PART_CTX,
    HUB_PART_CTX_ADDR, HUB_PART_CTX_BUSY, HUB_PART_CTX_ERR]
  omega

/-- In a stopped partition without a command under way, a command whose conditions hold begins (R137, R138). -/
theorem State.ctxBegin_of_accepts {addr a cmd : Nat} (accepts : s.ctxAccepts p = true) (ha : a = addr / 4096 % 2 ^ 32 * 4096)
    (fits : s.ctxFits p a = true) (quiet : cmd = 1 → (s.part p).jarsBusy = false) : s.ctxBegin p cmd addr =
      if cmd = 1 then (s.ctxUnderWay p a cmd).put a (s.jarImage p) (.ctx p)
      else if cmd = 2 then (s.ctxUnderWay p a cmd).askStream [(a, ctxLen)] (.ctx p) else s.ctxUnderWay p a cmd := by
  have good : (cmd != 3 && !s.ctxFits p a || cmd == 1 && (s.part p).jarsBusy) = false := by
    by_cases save : cmd = 1
    · simp [fits, quiet save]
    · simp [fits, save]
  have image := s.ctxUnderWay_jarImage p a cmd
  unfold State.ctxUnderWay State.ctxBusy at image ⊢
  unfold State.ctxBegin
  rw [if_neg (by simp [accepts]), ← ha]
  dsimp only
  rw [good, if_neg Bool.false_ne_true, image]

/-! ## How a command ends -/

theorem State.ctxEnd_part (s : State) (p : Nat) (bad : Bool) : (s.ctxEnd p bad).part p = { s.part p with ctx := none } := by
  rw [State.ctxEnd, State.part_updPart_self, State.part_fsets]

theorem State.ctxEnd_busy (s : State) (p : Nat) (bad : Bool) : (s.ctxEnd p bad).fget (HUB_PART_CTX_BUSY p) = 0 :=
  s.fget_fsets_append_cons [] [(HUB_PART_CTX_ERR p, b2n bad)] _ 0 (by simp [Fld.key, HUB_PART_CTX_BUSY, HUB_PART_CTX_ERR])

theorem State.ctxEnd_err (s : State) (p : Nat) (bad : Bool) : (s.ctxEnd p bad).fget (HUB_PART_CTX_ERR p) = b2n bad := by
  have written : (s.ctxEnd p bad).fget (HUB_PART_CTX_ERR p) = b2n bad % 2 ^ 1 :=
    s.fget_fsets_append_cons [(HUB_PART_CTX_BUSY p, 0)] [] _ (b2n bad) (by simp)
  rw [written]
  cases bad <;> rfl

section Done
variable {c : CtxCmd} {phys : ReadUpset} (underWay : (s.part p).ctx = some c)
include underWay

/-- A command that could not be performed ends with ERR 1 (R138). -/
theorem contextDone_of_bad (bad : c.bad = true) : contextDone p phys s = (s.ctxEnd p true).dropStream [(c.addr, ctxLen)] := by
  simp [contextDone, underWay, bad, State.ctxFail]

section Good
variable (good : c.bad = false) (reaches : c.cmd ≠ 3 → s.refusedIn c.addr ctxLen = false)
include good reaches

/-- A command that can be performed ends with its effect, a SAVE once its writes are acknowledged (R138). -/
theorem contextDone_of_good : contextDone p phys s =
    if c.cmd = 3 then (s.updPart p fun q => { q with jars := [], streams := [] }).ctxEnd p false
    else if c.cmd = 1 then if s.glk.acksDue (.ctx p) then s else s.ctxEnd p false
    else if s.streamReady [(c.addr, ctxLen)] = false then s.askStream [(c.addr, ctxLen)] (.ctx p)
    else match ((s.strike phys).readFor p [(c.addr, ctxLen)]).2 with
      | some a => ((((s.strike phys).readFor p [(c.addr, ctxLen)]).1.ctxEnd p true).raise p .memUncorr
          (((s.strike phys).readFor p [(c.addr, ctxLen)]).1.uncorrCause a)).dropStream [(c.addr, ctxLen)]
      | none =>
        letI u := ((s.strike phys).readFor p [(c.addr, ctxLen)]).1
        if u.imageLegal p c.addr then
          ((u.updPart p fun q => { q with jars := u.imageJars p c.addr, streams := u.imageStreams c.addr }).ctxEnd p false).dropStream [(c.addr, ctxLen)]
        else (u.ctxEnd p true).dropStream [(c.addr, ctxLen)] := by
  have performed : ¬ (c.bad || (c.cmd != 3 && s.refusedIn c.addr ctxLen)) = true := by
    by_cases empty : c.cmd = 3
    · simp [good, empty]
    · simp [good, reaches empty]
  unfold contextDone
  simp only [underWay]
  exact if_neg performed

variable {u : State} (restore : c.cmd = 2) (ready : s.streamReady [(c.addr, ctxLen)] = true)
include restore ready

/-- A RESTORE of a legal image gives the jars and streams of the image; of any other it leaves them (R138). -/
theorem contextDone_of_restore (read : (s.strike phys).readFor p [(c.addr, ctxLen)] = (u, none)) : contextDone p phys s =
    State.dropStream (if u.imageLegal p c.addr then
        (u.updPart p fun q => { q with jars := u.imageJars p c.addr, streams := u.imageStreams c.addr }).ctxEnd p false
      else u.ctxEnd p true) [(c.addr, ctxLen)] := by
  rw [contextDone_of_good underWay good reaches]
  simp only [restore, ready, read, OfNat.ofNat_ne_one, Nat.reduceEqDiff, Bool.true_eq_false, if_false]
  split <;> rfl

/-- A RESTORE from an uncorrectable sector fails with MEM_UNCORR (R138). -/
theorem contextDone_of_uncorrectable {a : Nat} (read : (s.strike phys).readFor p [(c.addr, ctxLen)] = (u, some a)) : contextDone p phys s =
    ((u.ctxEnd p true).raise p .memUncorr (u.uncorrCause a)).dropStream [(c.addr, ctxLen)] := by
  rw [contextDone_of_good underWay good reaches]
  simp only [restore, ready, read, OfNat.ofNat_ne_one, Nat.reduceEqDiff, Bool.true_eq_false, if_false]

end Good
end Done

end Context

/-- Settles O20: SAVE, RESTORE and EMPTY begin with BUSY, and CONTEXT_DONE ends them with their effect. -/
theorem contextCommands : Obligations.ContextCommands := by
  refine ⟨?_, ?_, fun s p c phys underWay bad => congrArg Host.Outcome.next (contextDone_of_bad underWay bad), ?_⟩
  · intro s p addr a stopped idle alive ha fits
    have accepts : s.ctxAccepts p = true := by simp [State.ctxAccepts, stopped, idle, alive]
    have small : a / 4096 < 2 ^ 32 := by omega
    refine ⟨s.ctxBusy p a, s.ctxBusy_addr p a small, s.ctxBusy_busy p a, s.ctxBusy_err p a, fun _ => rfl, s.ctxBusy_sameRegs p a, fun cmd =>
      ⟨s.ctxUnderWay p a cmd, rfl, ?_, ?_, ?_⟩⟩
    · rintro rfl quiet
      exact congrArg Host.Outcome.next (State.ctxBegin_of_accepts accepts ha fits fun _ => quiet)
    · rintro rfl
      exact congrArg Host.Outcome.next (State.ctxBegin_of_accepts accepts ha fits fun h => absurd h (by decide))
    · rintro rfl
      exact congrArg Host.Outcome.next (State.ctxBegin_of_accepts accepts ha fits fun h => absurd h (by decide))
  · intro s p c phys underWay good reaches
    have done := contextDone_of_good (phys := phys) underWay good reaches
    refine ⟨fun empty => congrArg Host.Outcome.next (done.trans (if_pos empty)), fun save settled => ?_, fun save due => ?_,
      fun u restore ready read => congrArg Host.Outcome.next (contextDone_of_restore underWay good reaches restore ready read),
      fun u a restore ready read => congrArg Host.Outcome.next (contextDone_of_uncorrectable underWay good reaches restore ready read)⟩
    · exact congrArg Host.Outcome.next ((done.trans (if_neg (by omega))).trans ((if_pos save).trans (if_neg (by simp [settled]))))
    · exact congrArg Host.Outcome.next ((done.trans (if_neg (by omega))).trans ((if_pos save).trans (if_pos due)))
  · intro s p bad
    have part := s.ctxEnd_part p bad
    exact ⟨s.ctxEnd_busy p bad, s.ctxEnd_err p bad, by rw [part], by rw [part], by rw [part]⟩

end Sys2Proof.Machine
end

section
/-! The instructions of the control cores: how one retires, and the vendor instructions (R117 to R126). -/
namespace Sys2Proof.Machine

section Core
variable {s : State} {r : Fin 4} {k : Fin 40}

theorem ccPc_ne_ccStat (r k : Nat) (f : Fld) (stat : f.reg = CORE_CC_STAT r k) (lsb : f.lsb < 64) : (CORE_CC_PC_PC r k).key ≠ f.key := by
  simp only [Fld.key, stat, CORE_CC_PC_PC, CORE_CC_PC, CORE_CC_STAT]
  omega

/-! ## An instruction retires (R117) -/

theorem State.xget_retire (s : State) (r k rd : Nat) (v : Word) (pc i : Nat) :
    (s.retire r k rd v pc).xget r k i = if i = 0 then 0 else if i = rd then v else s.xget r k i := by
  have slot : ((s.retire r k rd v pc).slot r k).x = ((s.xset r k rd v).slot r k).x := by
    rw [State.retire, State.slot_updSlot_self]
    rfl
  unfold State.xget
  rw [slot]
  unfold State.xset
  by_cases zero : i = 0
  · simp [zero]
  · by_cases rd0 : rd = 0
    · simp [zero, rd0]
    · by_cases same : i = rd <;> simp [zero, rd0, same]

theorem State.ccPc_retire (s : State) (r k rd : Nat) (v : Word) {pc : Nat} (inside : pc < 0x10000) : (s.retire r k rd v pc).ccPc r k = pc := by
  have written : (s.retire r k rd v pc).ccPc r k = (((s.xset r k rd v).fset (CORE_CC_PC_PC r k) pc).fset (CORE_CC_STAT_WAIT r k) 0).fget (CORE_CC_PC_PC r k) := rfl
  rw [written, State.fget_fset_ne _ (ccPc_ne_ccStat r k _ rfl (by simp [CORE_CC_STAT_WAIT])), State.fget_fset_self]
  exact Nat.mod_eq_of_lt inside

theorem State.retire_wait (s : State) (r k rd : Nat) (v : Word) (pc : Nat) : (s.retire r k rd v pc).fget (CORE_CC_STAT_WAIT r k) = 0 :=
  State.fget_fset_self ((s.xset r k rd v).fset (CORE_CC_PC_PC r k) pc) _ 0

theorem State.xset_same (s : State) (r k i : Nat) (v : Word) :
    (s.xset r k i v).regs = s.regs ∧ (s.xset r k i v).mem = s.mem ∧ (s.xset r k i v).parts = s.parts ∧ (s.xset r k i v).out = s.out := by
  unfold State.xset
  split <;> exact ⟨rfl, rfl, rfl, rfl⟩

theorem State.retire_sameRegs (s : State) (r k rd : Nat) (v : Word) (pc : Nat) :
    SameRegs s (s.retire r k rd v pc) [CORE_CC_PC_PC r k, CORE_CC_STAT_WAIT r k] := by
  intro f hf
  obtain ⟨pc_ne, wait_ne⟩ : f.key ≠ (CORE_CC_PC_PC r k).key ∧ f.key ≠ (CORE_CC_STAT_WAIT r k).key := by simpa using hf
  have written : (s.retire r k rd v pc).fget f = (((s.xset r k rd v).fset (CORE_CC_PC_PC r k) pc).fset (CORE_CC_STAT_WAIT r k) 0).fget f := rfl
  rw [written, State.fget_fset_ne _ wait_ne, State.fget_fset_ne _ pc_ne, State.fget, (s.xset_same r k rd v).1, State.fget]

theorem State.retire_mem (s : State) (r k rd : Nat) (v : Word) (pc : Nat) : (s.retire r k rd v pc).mem = s.mem := (s.xset_same r k rd v).2.1

theorem State.retireNext_of_inside {rd : Nat} {v : Word} (inside : s.ccPc r k + 4 < 0x10000) :
    s.retireNext r k rd v = s.retire r k rd v (s.ccPc r k + 4) := if_pos inside

/-- At the end of instruction memory the next fetch is an access fault (R117). -/
theorem State.retireNext_of_end {rd : Nat} {v : Word} (last : 0x10000 ≤ s.ccPc r k + 4) :
    s.retireNext r k rd v = (s.retire r k rd v (s.ccPc r k + 4)).ccTrap r k 1 := if_neg (Nat.not_lt.2 last)

/-- A word of the vendor opcode is no compressed form. -/
theorem rvWord_of_vendor {w : Nat} (op : w % 128 = 0x0B) : rvWord w = some (w, 4) := by
  have low : w % 4 = 3 := by omega
  simp only [rvWord, low]

theorem State.vendorAt_of_word {w f3 : Nat} (runs : s.ccRuns r k = true) (insn : s.insnAt r k = w) (op : w % 128 = 0x0B) (f7 : insnF7 w = 0)
    (hf3 : insnF3 w = f3) (inside : s.ccPc r k + 4 ≤ 0x10000) : s.vendorAt r k f3 = some w := by
  have word : s.ccInsn r k = some (w, 4) := by rw [State.ccInsn, insn, rvWord_of_vendor op]
  simp [State.vendorAt, runs, State.vendorWord, word, op, f7, hf3, inside]

/-! ## Jar operations of programs (R119, R123 to R126) -/

section Vendor
variable {w p j n : Nat} (hp : p = s.regionPart r) (hj : j = s.vJar r k w) (hn : n = s.vCount r k w)

theorem State.jarHeld_of_jar {p j : Nat} {x : Jar} (jar : s.jar? p j = some x) : s.jarHeld p j = s.homeHeld x := by
  simp [State.jarHeld, jar]

theorem State.jarHeld_of_none {p j : Nat} (none : s.jar? p j = none) : s.jarHeld p j = false := by
  simp [State.jarHeld, none]

section Jdrop
include hp hj hn
variable (at_ : s.vendorAt r k 0 = some w) (free : s.jarHeld p j = false)
include at_ free

omit hn in
/-- JDROP performs the drop at the jar's home. -/
theorem jdrop_of_free : jdrop r k s = jdropAt r k w s := by
  subst hp hj
  simp [jdrop, at_, free]

theorem jdrop_of_done {t : State} (drop : s.dropJar p j n (unitSlot r k) = .done t) : jdrop r k s = t.vendorDone r k w 0 := by
  rw [jdrop_of_free hp hj at_ free]
  subst hp hj hn
  simp only [jdropAt, drop]

theorem jdrop_of_misuse {t : State} (drop : s.dropJar p j n (unitSlot r k) = .misuse t) : jdrop r k s = t.coreMisuse r k j := by
  rw [jdrop_of_free hp hj at_ free]
  subst hp hj hn
  simp only [jdropAt, drop]

end Jdrop

section Held
include hp hj
variable (held : s.jarHeld p j = true)
include held

/-- An operation on a jar whose home is in handover is held (R125). -/
theorem jdrop_of_held (at_ : s.vendorAt r k 0 = some w) : jdrop r k s = s.holdOp p (.core j r k) := by
  subst hp hj
  simp only [jdrop, at_, held, if_true]
  rfl

theorem jtry_of_held (at_ : s.vendorAt r k 2 = some w) : jtry r k s = s.holdOp p (.core j r k) := by
  subst hp hj
  simp only [jtry, at_, held, if_true]
  rfl

theorem jpeek_of_held (at_ : s.vendorAt r k 3 = some w) : jpeek r k s = s.holdOp p (.core j r k) := by
  subst hp hj
  simp only [jpeek, at_, held, if_true]
  rfl

end Held

section Take
include hp hj hn
variable (at_ : s.vendorAt r k 1 = some w) (fresh : s.fget (CORE_CC_STAT_WAIT r k) ≠ 1)
include at_ fresh

theorem jtake_of_at : jtake r k s = match s.takeJar p j n (.core r k) with
    | none => s.coreMisuse r k j
    | some (t, true) => t.vendorDone r k w 0
    | some (t, false) => t.ccWait r k 1 := by
  subst hp hj hn
  simp only [jtake, at_, fresh, if_false] <;> rfl

/-- JTAKE of a jar that is not allocated is JAR_MISUSE (R126). -/
theorem jtake_of_no_jar (none : s.jar? p j = none) : jtake r k s = s.coreMisuse r k j := by
  rw [jtake_of_at hp hj hn at_ fresh, State.takeJar]
  simp only [none]

section Jar
variable {x : Jar} (jar : s.jar? p j = some x)
include jar

/-- JTAKE takes when no take waits and the count reaches its number (R124). -/
theorem jtake_of_enough (free : s.homeHeld x = false) (first : x.takes = []) (enough : n ≤ x.count) :
    jtake r k s = (s.setJar p j { x with count := x.count - n }).vendorDone r k w 0 := by
  rw [jtake_of_at hp hj hn at_ fresh, State.takeJar]
  simp only [jar, free, first, enough, and_self, Bool.false_eq_true, if_false, if_true]

/-- JTAKE waits behind the takes before it (R124). -/
theorem jtake_of_short (free : s.homeHeld x = false) (short : x.takes ≠ [] ∨ x.count < n) :
    jtake r k s = (s.setJar p j { x with takes := x.takes ++ [(.core r k, n)] }).ccWait r k 1 := by
  have waits : ¬ (x.takes = [] ∧ n ≤ x.count) := fun ⟨first, enough⟩ => short.elim (absurd first) (absurd enough ∘ Nat.not_le.2)
  rw [jtake_of_at hp hj hn at_ fresh, State.takeJar]
  simp only [jar, free, waits, Bool.false_eq_true, if_false]

theorem jtake_of_held (held : s.homeHeld x = true) : jtake r k s = (s.holdOp p (.take j n (.core r k))).ccWait r k 1 := by
  rw [jtake_of_at hp hj hn at_ fresh, State.takeJar]
  simp only [jar, held, if_true]

end Jar
end Take

section Try
include hp hj
variable (at_ : s.vendorAt r k 2 = some w)
include at_

theorem jtry_of_no_jar (none : s.jar? p j = none) : jtry r k s = s.coreMisuse r k j := by
  have free := s.jarHeld_of_none none
  subst hp hj
  simp only [jtry, at_, free, jtryAt, none, Bool.false_eq_true, if_false]

variable {x : Jar} (jar : s.jar? p j = some x) (free : s.homeHeld x = false)
include hn jar free

theorem jtry_of_enough (first : x.takes = []) (enough : n ≤ x.count) :
    jtry r k s = (s.setJar p j { x with count := x.count - n }).vendorDone r k w 1 := by
  have home := (s.jarHeld_of_jar jar).trans free
  subst hp hj hn
  simp only [jtry, at_, home, jtryAt, jar, Jar.tryTake, first, enough, and_self, Bool.false_eq_true, if_false, if_true]

theorem jtry_of_short (short : x.takes ≠ [] ∨ x.count < n) : jtry r k s = s.vendorDone r k w 0 := by
  have home := (s.jarHeld_of_jar jar).trans free
  have fails : ¬ (x.takes = [] ∧ n ≤ x.count) := fun ⟨first, enough⟩ => short.elim (absurd first) (absurd enough ∘ Nat.not_le.2)
  subst hp hj hn
  simp only [jtry, at_, home, jtryAt, jar, Jar.tryTake, fails, Bool.false_eq_true, if_false]

end Try

section Peek
include hp hj
variable (at_ : s.vendorAt r k 3 = some w)
include at_

theorem jpeek_of_no_jar (none : s.jar? p j = none) : jpeek r k s = s.coreMisuse r k j := by
  have free := s.jarHeld_of_none none
  subst hp hj
  simp only [jpeek, at_, free, jpeekAt, none, Bool.false_eq_true, if_false]

theorem jpeek_of_jar {x : Jar} (jar : s.jar? p j = some x) (free : s.homeHeld x = false) :
    jpeek r k s = s.vendorDone r k w (BitVec.ofNat 64 x.count) := by
  have home := (s.jarHeld_of_jar jar).trans free
  subst hp hj
  simp only [jpeek, at_, home, jpeekAt, jar, Bool.false_eq_true, if_false]

end Peek

/-! ## JRDROP, LAUNCH, BWAIT and SUMRD (R119, R120, R130) -/

section Jrdrop
variable {a blk : Nat} (at_ : s.vendorAt r k 4 = some w) (inside : vData r k (s.vAddr r k w) 16 = some a) (hblk : blk = s.loadNat a 16)
include at_ inside hblk

theorem jrdrop_of_disabled (off : blkEn blk = false) : jrdrop r k s = s.vendorDone r k w 0 := by
  simp only [jrdrop, at_, inside, ← hblk, off, if_true]

include hp

theorem jrdrop_of_sent {t : State} (on : blkEn blk = true) (sent : s.sendDrop p blk 0 .core = some t) : jrdrop r k s = t.vendorDone r k w 0 := by
  subst hp
  simp only [jrdrop, at_, inside, ← hblk, on, sent, Bool.true_eq_false, if_false]

theorem jrdrop_of_no_route (on : blkEn blk = true) (none : s.sendDrop p blk 0 .core = none) : jrdrop r k s = s.noRoute p (blkNode blk) := by
  subst hp
  simp only [jrdrop, at_, inside, ← hblk, on, none, Bool.true_eq_false, if_false]

end Jrdrop

/-- Pushing into a queue takes a credit (R113). -/
theorem CoreQueue.push_of_credit {q c : CoreQueue} {good : Bool} (credit : q.credits = c.credits + 1) (entries : c.entries = q.entries ++ [good]) :
    CoreQueue.push q good = some c := by
  obtain ⟨n, l⟩ := c
  simp only at credit entries
  simp [CoreQueue.push, credit, entries]

theorem CoreQueue.push_of_no_credit {q : CoreQueue} {good : Bool} (none : q.credits = 0) : CoreQueue.push q good = Option.none := if_pos none

section Launch
variable {a : Nat} {bad : Bool} (at_ : s.vendorAt r k 5 = some w) (aligned : s.vAddr r k w % 128 = 0) (inside : vData r k (s.vAddr r k w) 128 = some a)
include at_ aligned inside

/-- LAUNCH waits while CQ holds 32 or no credit is left (R113, R120). -/
theorem launch_of_full (full : 32 ≤ s.occupancy r k ∨ (s.coreQ r k 10).credits = 0) : launch r k bad s = s.ccWait r k 4 := by
  simp only [launch, at_, aligned, inside, if_true]
  split
  · rfl
  · next room => rw [CoreQueue.push_of_no_credit (full.resolve_left room)]

/-- LAUNCH copies its descriptor into CQ and spends a credit (R113, R120). -/
theorem launch_of_room {c : CoreQueue} (room : s.occupancy r k < 32) (credit : (s.coreQ r k 10).credits = c.credits + 1)
    (entries : c.entries = (s.coreQ r k 10).entries ++ [!bad]) : launch r k bad s =
      (((({ s with descSeq := s.descSeq + 1 }.setCoreQ r k 10 c).updSlot r k fun q => { q with cq := q.cq ++ [(s.descSeq, s.loadNat a 128)] }).fadd
        (CORE_LAUNCHQ_LAUNCHED r k) 1).vendorDone r k w 0).drainCq r k 32 := by
  simp only [launch, at_, aligned, inside, Nat.not_le.2 room, CoreQueue.push_of_credit credit entries, if_true, if_false]

end Launch

section Bwait
variable (at_ : s.vendorAt r k 6 = some w)
include hp at_

theorem bwait_of_reached (reached : s.vAddr r k w ≤ s.beat p) : bwait r k s = s.vendorDone r k w (BitVec.ofNat 64 (s.beat p)) := by
  subst hp
  simp only [bwait, at_, reached, if_true]

theorem bwait_of_early (early : s.beat p < s.vAddr r k w) : bwait r k s = s.ccWait r k 2 := by
  subst hp
  simp only [bwait, at_, Nat.not_le.2 early, if_false]

end Bwait

section Sumrd
variable {i : Nat} (at_ : s.vendorAt r k 7 = some w) (hi : i = s.vAddr r k w % 16)
include at_ hi

theorem sumrd_of_fresh (fresh : i ∈ (s.slot r k).fresh) : sumrd r k s =
    (s.vendorDone r k w (mgetD (s.slot r k).sums i 0)).updSlot r k fun q => { q with fresh := q.fresh.filter (· != i) } := by
  subst hi
  simp only [sumrd, at_, List.contains_iff_mem.2 fresh, if_true]

theorem sumrd_of_stale (stale : i ∉ (s.slot r k).fresh) : sumrd r k s = s.ccWait r k 3 := by
  subst hi
  simp only [sumrd, at_, List.contains_iff_mem, stale, if_false]

end Sumrd
end Vendor

end Core

/-- Settles O23: an instruction that retires changes rd, the PC and WAIT, and at the end of instruction memory the next fetch traps. -/
theorem coreRetires : Obligations.CoreRetires := by
  refine ⟨fun s r k rd v inside => ?_, fun s r k rd v last => State.retireNext_of_end last,
    fun s r k w f3 runs insn op f7 hf3 inside => State.vendorAt_of_word runs insn op f7 hf3 inside⟩
  rw [State.retireNext_of_inside inside]
  obtain ⟨_, _, parts, out⟩ := s.xset_same r k rd v
  exact ⟨s.xget_retire r k rd v _, s.ccPc_retire r k rd v inside, s.retire_wait r k rd v _, fun a => by rw [s.retire_mem],
    s.retire_sameRegs r k rd v _, parts, out⟩

/-- Settles O24: each vendor instruction does what its word says, or waits. -/
theorem vendorInstructions : Obligations.VendorInstructions := by
  intro s r k w p j n hp hj hn
  refine ⟨fun at_ free => ⟨fun t drop => ?_, fun t drop => ?_⟩, ?_, fun at_ fresh x jar => ⟨fun free first enough => ?_, fun free short => ?_, fun held => ?_⟩,
    fun at_ x jar free => ⟨fun first enough => ?_, fun short => ?_⟩, fun at_ x jar free => ?_,
    fun none => ⟨fun at_ => ?_, fun at_ => ?_, fun at_ fresh => ?_⟩,
    fun at_ a blk inside hblk => ⟨fun off => ?_, fun t on sent => ?_, fun on noRoute => ?_⟩,
    fun at_ a bad aligned inside => ⟨fun full => ?_, fun room c credit entries => ?_⟩,
    fun at_ => ⟨fun reached => ?_, fun early => ?_⟩, fun at_ i hi => ⟨fun fresh => ?_, fun stale => ?_⟩⟩
  · exact congrArg Host.Outcome.next (jdrop_of_done hp hj hn at_ free drop)
  · exact congrArg Host.Outcome.next (jdrop_of_misuse hp hj hn at_ free drop)
  · intro i f mem at_ held
    simp only [List.mem_cons, Prod.mk.injEq, List.not_mem_nil, or_false] at mem
    obtain ⟨rfl, rfl⟩ | ⟨rfl, rfl⟩ | ⟨rfl, rfl⟩ := mem
    · exact congrArg Host.Outcome.next (jdrop_of_held hp hj held at_)
    · exact congrArg Host.Outcome.next (jtry_of_held hp hj held at_)
    · exact congrArg Host.Outcome.next (jpeek_of_held hp hj held at_)
  · exact congrArg Host.Outcome.next (jtake_of_enough hp hj hn at_ fresh jar free first enough)
  · exact congrArg Host.Outcome.next (jtake_of_short hp hj hn at_ fresh jar free short)
  · exact congrArg Host.Outcome.next (jtake_of_held hp hj hn at_ fresh jar held)
  · exact congrArg Host.Outcome.next (jtry_of_enough hp hj hn at_ jar free first enough)
  · exact congrArg Host.Outcome.next (jtry_of_short hp hj hn at_ jar free short)
  · exact congrArg Host.Outcome.next (jpeek_of_jar hp hj at_ jar free)
  · exact congrArg Host.Outcome.next (jtry_of_no_jar hp hj at_ none)
  · exact congrArg Host.Outcome.next (jpeek_of_no_jar hp hj at_ none)
  · exact congrArg Host.Outcome.next (jtake_of_no_jar hp hj hn at_ fresh none)
  · exact congrArg Host.Outcome.next (jrdrop_of_disabled at_ inside hblk off)
  · exact congrArg Host.Outcome.next (jrdrop_of_sent hp at_ inside hblk on sent)
  · exact congrArg Host.Outcome.next (jrdrop_of_no_route hp at_ inside hblk on noRoute)
  · exact congrArg Host.Outcome.next (launch_of_full at_ aligned inside full)
  · exact congrArg Host.Outcome.next (launch_of_room at_ aligned inside room credit entries)
  · exact congrArg Host.Outcome.next (bwait_of_reached hp at_ reached)
  · exact congrArg Host.Outcome.next (bwait_of_early hp at_ early)
  · exact congrArg Host.Outcome.next (sumrd_of_fresh at_ hi fresh)
  · exact congrArg Host.Outcome.next (sumrd_of_stale at_ hi stale)

end Sys2Proof.Machine
end

section
/-! The programs of the control cores: base instructions, ECALL, the trap (R117, R118), and the mailbox CSRs (R449). -/
namespace Sys2Proof.Machine

section Programs
variable {s : State} {r : Fin 4} {k : Fin 40}

/-! ## BASE_INSTRUCTION (R117) -/

section Runs
variable (runs : s.ccRuns r k = true)
include runs

theorem baseInstruction_of_next {t : State} (step : s.ccStep r k = .next t) : baseInstruction r k s = t := by
  simp [baseInstruction, runs, step]

theorem baseInstruction_of_nextTrap {t : State} {c target : Nat} (step : s.ccStep r k = .nextTrap t c target) :
    baseInstruction r k s = t.ccTrap r k c := by
  simp [baseInstruction, runs, step]

theorem ccTrapCmd_of_trap {c : Nat} (step : s.ccStep r k = .trap c) : ccTrapCmd r k s = s.ccTrap r k c := by
  simp [ccTrapCmd, runs, step]

theorem ccTrapCmd_of_vendorTrap {c : Nat} (step : ∀ x, s.ccStep r k ≠ .trap x) (trap : s.vendorTrap r k = some c) :
    ccTrapCmd r k s = s.ccTrap r k c := by
  unfold ccTrapCmd
  rw [if_neg (by simp [runs])]
  split
  · next x h => exact absurd h (step x)
  · simp only [trap]

end Runs

section Insn
variable {w len pc : Nat} {a b : Word}

/-- An instruction within instruction memory is executed by its opcode. -/
theorem State.ccStep_of_insn (insn : s.ccInsn r k = some (w, len)) (hpc : pc = s.ccPc r k) (inside : pc + len < 0x10000) :
    s.ccStep r k = rvExec s r k w pc len := by
  subst hpc
  simp only [State.ccStep, insn, Nat.not_lt.2 inside.le, if_false]

/-- It goes on behind itself. -/
theorem State.goTo_of_inside {rd target : Nat} {v : Word} (inside : target < 0x10000) : s.goTo r k rd v target = .next (s.retire r k rd v target) :=
  if_pos inside

variable (inside : pc + len < 0x10000) (ha : a = s.xget r k (insnRs1 w)) (hb : b = s.xget r k (insnRs2 w))
include inside

section Op
variable (op : w % 128 = 0x33)
include ha hb op

theorem rvExec_op (f7 : insnF7 w = 0 ∨ insnF7 w = 0x20 ∧ (insnF3 w = 0 ∨ insnF3 w = 5)) :
    rvExec s r k w pc len = .next (s.retire r k (insnRd w) (rvAlu (insnF3 w) (insnF7 w == 0x20) a b) (pc + len)) := by
  have base : insnF7 w ≠ 1 := by omega
  subst ha hb
  simp only [rvExec, op, rvOp, base, f7, if_false, if_true, Bool.false_eq_true]
  exact State.goTo_of_inside inside

theorem rvExec_mul (f7 : insnF7 w = 1) :
    rvExec s r k w pc len = .next (s.retire r k (insnRd w) (rvMul (insnF3 w) a b) (pc + len)) := by
  subst ha hb
  simp only [rvExec, op, rvOp, f7, if_false, if_true, Bool.false_eq_true]
  exact State.goTo_of_inside inside

end Op

include ha in
theorem rvExec_addi (op : w % 128 = 0x13) (f3 : insnF3 w = 0) :
    rvExec s r k w pc len = .next (s.retire r k (insnRd w) (a + (BitVec.ofNat 12 (bits w 20 12)).signExtend 64) (pc + len)) := by
  subst ha
  simp only [rvExec, op, rvOpImm, f3, Nat.zero_ne_one, OfNat.zero_ne_ofNat, if_false]
  exact State.goTo_of_inside inside

include ha hb in
/-- A branch that is not taken only moves the PC. -/
theorem rvExec_beq_of_ne (op : w % 128 = 0x63) (f3 : insnF3 w = 0) (differ : a ≠ b) :
    rvExec s r k w pc len = .next (s.retire r k 0 0 (pc + len)) := by
  have untaken : (s.xget r k (insnRs1 w) == s.xget r k (insnRs2 w)) = false := by rw [← ha, ← hb]; simpa using differ
  simp only [rvExec, op, rvBr, f3, rvBranch, untaken]
  exact State.goTo_of_inside inside

theorem rvExec_lui (op : w % 128 = 0x37) :
    rvExec s r k w pc len = .next (s.retire r k (insnRd w) ((BitVec.ofNat 32 (bits w 12 20 * 4096)).signExtend 64) (pc + len)) := by
  simp only [rvExec, op]
  exact State.goTo_of_inside inside

end Insn

/-! ## ECALL and the trap (R118) -/

/-- ECALL writes the low half of a0 to EXIT and makes the core idle. -/
def State.exited (s : State) (r k : Nat) : State :=
  (s.retire r k 0 0 (s.ccPc r k + 4)).fsets [(CORE_CC_STAT_EXIT r k, (s.xget r k 10).toNat % 2 ^ 32), (CORE_CC_STAT_STATE r k, 0)]

theorem ecall_of_insn {len : Nat} (runs : s.ccRuns r k = true) (insn : s.ccInsn r k = some (0x73, len)) : ecall r k s = s.exited r k :=
  if_pos (by simp [runs, insn])

theorem State.exited_state (s : State) (r k : Nat) : (s.exited r k).fget (CORE_CC_STAT_STATE r k) = 0 :=
  State.fget_fsets_append_cons [(CORE_CC_STAT_EXIT r k, _)] [] _ 0 (by simp)

theorem State.exited_exit (s : State) (r k : Nat) : (s.exited r k).fget (CORE_CC_STAT_EXIT r k) = (s.xget r k 10).toNat % 2 ^ 32 := by
  have written : (s.exited r k).fget (CORE_CC_STAT_EXIT r k) = (s.xget r k 10).toNat % 2 ^ 32 % 2 ^ 32 :=
    State.fget_fsets_append_cons [] [(CORE_CC_STAT_STATE r k, 0)] _ _ (by simp [Fld.key, CORE_CC_STAT_EXIT, CORE_CC_STAT_STATE])
  rw [written, Nat.mod_mod]

theorem State.exited_mem (s : State) (r k : Nat) : (s.exited r k).mem = s.mem := by
  rw [State.exited, State.fsets_mem, State.retire_mem]

theorem State.exited_sameRegs (s : State) (r k : Nat) :
    SameRegs s (s.exited r k) [CORE_CC_STAT_STATE r k, CORE_CC_STAT_EXIT r k, CORE_CC_STAT_WAIT r k, CORE_CC_PC_PC r k] := by
  intro f hf
  simp only [List.mem_cons, List.not_mem_nil, or_false, forall_eq_or_imp, forall_eq] at hf
  obtain ⟨state, exit, wait, pc⟩ := hf
  rw [State.exited, State.fget_fsets_ne _ _ (by simp [exit, state])]
  exact s.retire_sameRegs r k 0 0 _ f (by simp [pc, wait])

/-- CC_TRAP names the cause and the PC of the trap. -/
theorem State.ccTrap_eq (s : State) (r k c : Nat) :
    letI t := s.fsets [(CORE_CC_STAT_STATE r k, 3), (CORE_CC_STAT_CAUSE r k, c), (CORE_CC_STAT_WAIT r k, 0)]
    s.ccTrap r k c = t.raise (t.regionPart r) .ccTrap { unit := unitSlot r k, log := c, addr := s.ccPc r k } := by
  have pc : (s.fsets [(CORE_CC_STAT_STATE r k, 3), (CORE_CC_STAT_CAUSE r k, c), (CORE_CC_STAT_WAIT r k, 0)]).ccPc r k = s.ccPc r k := by
    refine State.fget_fsets_ne s _ ?_
    simp only [List.forall_mem_cons, List.not_mem_nil, IsEmpty.forall_iff, implies_true, and_true]
    exact ⟨ccPc_ne_ccStat r k _ rfl (by simp [CORE_CC_STAT_STATE]), ccPc_ne_ccStat r k _ rfl (by simp [CORE_CC_STAT_CAUSE]),
      ccPc_ne_ccStat r k _ rfl (by simp [CORE_CC_STAT_WAIT])⟩
  rw [State.ccTrap, pc]

/-! ## The mailbox CSRs (R449) -/

section Mailbox
variable {w : Nat}

theorem mbxtx_of_at (at_ : s.csrAt r k 0x7C0 = some w) : mbxtx r k s =
    (if csrWrites w then s.mboxSend (coreChan r k) .toA (s.csrNew r k w 0).toNat (unitSlot r k) else s).csrDone r k w 0 := by
  simp only [mbxtx, at_]

section Receive
variable (at_ : s.csrAt r k 0x7C1 = some w)
include at_

/-- MBXRX removes and returns the oldest word. -/
theorem mbxrx_of_word {x : Nat × Nat} {l : List (Nat × Nat)} (reads : csrReads w = true) (free : s.mboxHeld (coreChan r k) = false)
    (words : (s.chan (coreChan r k)).toB = x :: l) : mbxrx r k s = (s.mboxRemove (coreChan r k) .toB).csrDone r k w (BitVec.ofNat 64 x.1) := by
  simp [mbxrx, at_, reads, free, words]

theorem mbxrx_of_empty (empty : (s.chan (coreChan r k)).toB = [] ∨ csrReads w = false) : mbxrx r k s = s.csrDone r k w 0 := by
  obtain none | silent := empty
  · simp [mbxrx, at_, none]
  · simp [mbxrx, at_, silent]

end Receive

section Status
variable (at_ : s.csrAt r k 0x7C2 = some w)
include at_

theorem mbxstRead_of_read (reads : csrWrites w = false) : mbxstRead r k s = s.csrDone r k w (BitVec.ofNat 64 (s.mbxst r k)) := by
  simp [mbxstRead, at_, reads]

/-- MBXST_CLEAR clears the flags that its value names. -/
theorem mbxstClear_of_write (writes : csrWrites w = true) : mbxstClear r k s =
    (s.updChan (coreChan r k) fun q => q.clearFlags (s.csrNew r k w (BitVec.ofNat 64 (s.mbxst r k))).toNat).csrDone r k w
      (BitVec.ofNat 64 (s.mbxst r k)) := by
  simp [mbxstClear, at_, writes]

end Status
end Mailbox

end Programs

/-- Settles O25: BASE_INSTRUCTION executes the instruction at the PC, ECALL ends the program, CC_TRAP halts it. -/
theorem programsRun : Obligations.ProgramsRun := by
  refine ⟨fun s t r k runs step => congrArg Host.Outcome.next (baseInstruction_of_next runs step),
    fun s t r k c target runs step => congrArg Host.Outcome.next (baseInstruction_of_nextTrap runs step), ?_, ?_,
    fun s r k c runs step => congrArg Host.Outcome.next (ccTrapCmd_of_trap runs step),
    fun s r k c runs step trap => congrArg Host.Outcome.next (ccTrapCmd_of_vendorTrap runs step trap), fun s r k c => s.ccTrap_eq r k c⟩
  · intro s r k w len pc a b insn hpc inside ha hb
    rw [State.ccStep_of_insn insn hpc inside]
    exact ⟨rvExec_op inside ha hb, rvExec_mul inside ha hb, rvExec_addi inside ha, rvExec_beq_of_ne inside ha hb, rvExec_lui inside⟩
  · intro s r k len runs insn
    exact ⟨s.exited r k, congrArg Host.Outcome.next (ecall_of_insn runs insn), s.exited_state r k, s.exited_exit r k,
      fun a => by rw [s.exited_mem], s.exited_sameRegs r k⟩

/-- Settles O26: the CSR instructions on MBXTX, MBXRX and MBXST send, take, read and clear. -/
theorem mailboxCsrs : Obligations.MailboxCsrs := by
  intro s r k w
  refine ⟨fun at_ writes => ?_, fun at_ silent => ?_, fun at_ => ⟨fun x l reads free words => ?_, fun empty => ?_⟩, fun at_ reads => ?_,
    fun at_ writes => ⟨_, rfl, ?_⟩⟩
  · have sends := mbxtx_of_at at_
    rw [if_pos writes] at sends
    exact congrArg Host.Outcome.next sends
  · have sends := mbxtx_of_at at_
    rw [if_neg (Bool.eq_false_iff.1 silent)] at sends
    exact congrArg Host.Outcome.next sends
  · exact congrArg Host.Outcome.next (mbxrx_of_word at_ reads free words)
  · exact congrArg Host.Outcome.next (mbxrx_of_empty at_ empty)
  · exact congrArg Host.Outcome.next (mbxstRead_of_read at_ reads)
  · exact congrArg Host.Outcome.next (mbxstClear_of_write at_ writes)

end Sys2Proof.Machine
end

section
/-! MATRIX and VECTOR at their start (R188 to R190, R213, R225). -/
namespace Sys2Proof.Machine

/-! ## The checks of a class at the start (R91) -/

section GoDesc
variable {s v : State} {o : Origin} {f : Desc} {ins outs : State → Desc → List (Nat × Nat)} {u : Upset} {run checks : State → Desc → Run}
  (free : ¬ (f.noop = false ∧ s.handoverMeets (ins s f ++ outs s f) = true)) (fresh : f.passed = false)
include free fresh

/-- A check that fails faults the descriptor. -/
theorem State.goDesc_of_checkFault {c : Code} {w : Cause} (fails : checks s f = .fault v c w) :
    s.goDesc o f ins outs u run checks = (v.keepOuts o f.id c).descFault o f c w := by
  unfold State.goDesc
  rw [if_neg free, if_neg (by simp [fresh])]
  simp only [fails]

/-- A check that wants for something leaves the descriptor as it is. -/
theorem State.goDesc_of_checkWait (waits : checks s f = .wait v) : s.goDesc o f ins outs u run checks = v := by
  unfold State.goDesc
  rw [if_neg free, if_neg (by simp [fresh])]
  simp only [waits]

/-- A descriptor that passes its checks goes on to its run. -/
theorem State.goDesc_of_checkGoing (passes : checks s f = .going v) {t : State} {e : Desc}
    (ht : t = v.updDesc o f.id fun e => { e with passed := true }) (there : t.desc? o f.id = some e) :
    s.goDesc o f ins outs u run checks = t.runDesc o e (ins t e) u run := by
  subst ht
  unfold State.goDesc
  rw [if_neg free, if_neg (by simp [fresh])]
  simp only [passes, there]

end GoDesc

/-! ## MATRIX (R190) -/

section Matrix
variable {s : State} {d : Desc}

section Groups
variable (work : d.noop = false) (first : s.matrixQueued d = false)
include work first

/-- A group that fails its check is DESC_INVALID before anything is opened. -/
theorem startMatrix_of_fails {x : Nat × Nat × Nat} (fails : (mxGroups d.raw).find? (s.groupFails (dRegion d.raw) (dSlot d.raw) d.raw) = some x) :
    startMatrix s d = .fault s .descInvalid { unit := unitSlot (dRegion d.raw) (dSlot d.raw), log := x.1 } := by
  simp only [startMatrix, work, first, fails, Bool.false_eq_true, if_false]

variable (pass : ∀ x ∈ mxGroups d.raw, s.groupFails (dRegion d.raw) (dSlot d.raw) d.raw x = false)
include pass

theorem startMatrix_of_pass : startMatrix s d =
    if mxOpen d.raw ∧ (mxGroups d.raw).any fun x => s.groupState (dRegion d.raw) (dSlot d.raw) x.1 == 2 then .wait s
    else .going ((s.each (mxGroups d.raw) fun s x => s.useGroup (dRegion d.raw) (dSlot d.raw) d.raw x).updSlot (dRegion d.raw) (dSlot d.raw) fun q =>
      { q with begun := if mxOpen d.raw then q.begun.filter fun g => !((mxGroups d.raw).any fun x => x.1 == g) else q.begun }) := by
  have found : (mxGroups d.raw).find? (s.groupFails (dRegion d.raw) (dSlot d.raw) d.raw) = none :=
    List.find?_eq_none.2 fun x hx => by simp [pass x hx]
  simp only [startMatrix, work, first, found, Bool.false_eq_true, if_false]

/-- A group that is to be opened and still drains is waited for. -/
theorem startMatrix_of_draining (opens : mxOpen d.raw = true) (drains : ∃ x ∈ mxGroups d.raw, s.groupState (dRegion d.raw) (dSlot d.raw) x.1 = 2) :
    startMatrix s d = .wait s := by
  rw [startMatrix_of_pass work first pass, if_pos ⟨opens, by simpa using drains⟩]

/-- When every group passes and none drains, each is opened or continued. -/
theorem startMatrix_of_ready (ready : mxOpen d.raw = true → ∀ x ∈ mxGroups d.raw, s.groupState (dRegion d.raw) (dSlot d.raw) x.1 ≠ 2) :
    startMatrix s d = .going ((s.each (mxGroups d.raw) fun s x => s.useGroup (dRegion d.raw) (dSlot d.raw) d.raw x).updSlot (dRegion d.raw) (dSlot d.raw)
      fun q => { q with begun := if mxOpen d.raw then q.begun.filter fun g => !((mxGroups d.raw).any fun x => x.1 == g) else q.begun }) := by
  rw [startMatrix_of_pass work first pass, if_neg]
  rintro ⟨opens, drains⟩
  obtain ⟨x, hx, state⟩ := List.any_eq_true.1 drains
  exact ready opens x hx (beq_iff_eq.1 state)

end Groups

/-- What opening a group writes (R188). -/
def openedGroup (r k raw : Nat) (x : Nat × Nat × Nat) : List (Fld × Nat) :=
  [(CORE_ACC_GRP_STATE r k x.1, 1), (CORE_ACC_GRP_MODE r k x.1, mxMode raw), (CORE_ACC_GRP_TENSOR_ID r k x.1, mxTensor raw),
    (CORE_ACC_GRP_ROWS r k x.1, mxRows raw x.2.1), (CORE_ACC_GRP_LONG_K r k x.1, 0), (CORE_ACC_KPOS_KOPEN r k x.1, mxKblk raw),
    (CORE_ACC_KPOS_KNEXT r k x.1, mxKblk raw + 2 * mxTiles raw), (CORE_ACC_ORIGIN_COL r k x.1, mxCol0 raw + 64 * x.2.2),
    (CORE_ACC_ORIGIN_ROW r k x.1, mxRow0 raw x.2.1)]

variable {r k raw : Nat} {x : Nat × Nat × Nat}

theorem State.useGroup_of_open (opens : mxOpen raw = true) : s.useGroup r k raw x = s.fsets (openedGroup r k raw x) := if_pos opens

/-- A group that is continued only moves KNEXT (R190). -/
theorem State.useGroup_of_continue (goes : mxOpen raw = false) : s.useGroup r k raw x = s.fset (CORE_ACC_KPOS_KNEXT r k x.1) (mxKblk raw + 2 * mxTiles raw) :=
  if_neg (by simp [goes])

/-- The places of the fields of a group are all different. -/
theorem openedGroup_nodup (r k raw : Nat) (x : Nat × Nat × Nat) : ((openedGroup r k raw x).map fun e => e.1.key).Nodup := by
  simp only [openedGroup, List.map_cons, List.map_nil, List.nodup_cons, List.mem_cons, List.not_mem_nil, or_false, not_or, List.nodup_nil, not_false_eq_true, and_true, Fld.key,
    CORE_ACC_GRP, CORE_ACC_GRP_STATE, CORE_ACC_GRP_MODE, CORE_ACC_GRP_TENSOR_ID, CORE_ACC_GRP_ROWS, CORE_ACC_GRP_LONG_K, CORE_ACC_KPOS,
    CORE_ACC_KPOS_KOPEN, CORE_ACC_KPOS_KNEXT, CORE_ACC_ORIGIN, CORE_ACC_ORIGIN_COL, CORE_ACC_ORIGIN_ROW]
  omega

/-- A field that a list of writes to different places names reads what is written. -/
theorem State.fget_fsets_of_nodup {l : List (Fld × Nat)} (nodup : (l.map fun e => e.1.key).Nodup) {f : Fld} {n : Nat} (mem : (f, n) ∈ l) :
    (s.fsets l).fget f = n % 2 ^ f.width := by
  obtain ⟨l₁, l₂, rfl⟩ := List.append_of_mem mem
  refine State.fget_fsets_append_cons l₁ l₂ f n fun e he same => ?_
  rw [List.map_append, List.map_cons, List.nodup_append] at nodup
  exact (List.nodup_cons.1 nodup.2.1).1 (same ▸ List.mem_map_of_mem he)

theorem State.useGroup_open_fget (opens : mxOpen raw = true) {f : Fld} {n : Nat} (mem : (f, n) ∈ openedGroup r k raw x) :
    (s.useGroup r k raw x).fget f = n % 2 ^ f.width := by
  rw [State.useGroup_of_open opens]
  exact State.fget_fsets_of_nodup (openedGroup_nodup r k raw x) mem

/-- KNEXT is behind the last K block of the descriptor (R190). -/
theorem State.useGroup_knext : (s.useGroup r k raw x).fget (CORE_ACC_KPOS_KNEXT r k x.1) = (mxKblk raw + 2 * mxTiles raw) % 2 ^ 32 := by
  cases opens : mxOpen raw with
  | true => exact State.useGroup_open_fget opens (by simp [openedGroup])
  | false =>
    rw [State.useGroup_of_continue opens]
    exact State.fget_fset_self s _ _

theorem State.useGroup_mem : (s.useGroup r k raw x).mem = s.mem := by
  unfold State.useGroup
  split
  · exact State.fsets_mem ..
  · rfl

end Matrix

/-! ## VECTOR (R225) -/

section Vector
variable {u : State} {o : Origin} {d : Desc}

theorem runVector_of_free (idle : (u.slot (dRegion d.raw) (dSlot d.raw)).vec = none) (first : u.behind isVector d = false) : runVector o u d =
    .going (u.updSlot (dRegion d.raw) (dSlot d.raw) fun q => { q with vec := some ⟨o, d.id, 0, 0, d.step, false, [], .none, [], [], []⟩ }) := by
  simp [runVector, idle, first]

theorem runVector_of_busy (busy : (u.slot (dRegion d.raw) (dSlot d.raw)).vec ≠ none ∨ u.behind isVector d = true) : runVector o u d = .wait u :=
  if_pos (busy.imp_left Option.ne_none_iff_isSome.1)

end Vector

/-- Settles O27: MATRIX checks its groups before it opens or continues them, and VECTOR takes the engine of its slot. -/
theorem enginesStart : Obligations.EnginesStart := by
  refine ⟨?_, fun s o d now => congrArg Host.Outcome.next (State.startDesc_of_runsNow now), ?_, ?_⟩
  · rintro s t o d f up start work fresh away first r k gs rfl rfl rfl
    have goes : exec (.matrix o up) s = .next (t.goDesc o f (mxInputs o) (fun _ d => mxOutputs d) up (fun s _ => .going s) startMatrix) :=
      congrArg Host.Outcome.next (State.startDesc_of_startsNow start)
    have free : ¬ (f.noop = false ∧ t.handoverMeets (mxInputs o t f ++ mxOutputs f) = true) := by simp [away]
    refine ⟨fun x fails => ?_, fun pass => ⟨fun ⟨opens, drains⟩ => ?_, fun ready v e hv there => ?_⟩⟩
    · rw [goes, State.goDesc_of_checkFault free fresh (startMatrix_of_fails work first fails)]
    · rw [goes, State.goDesc_of_checkWait free fresh (startMatrix_of_draining work first pass opens drains)]
    · rw [goes, State.goDesc_of_checkGoing free fresh (startMatrix_of_ready work first pass ready) hv there]
  · intro s r k raw x _
    refine ⟨fun opens => ⟨?_, ?_, ?_, ?_⟩, State.useGroup_knext, fun continues f hf => ?_, fun a => by rw [State.useGroup_mem]⟩
    · exact State.useGroup_open_fget opens (f := CORE_ACC_GRP_STATE r k x.1) (n := 1) (by simp [openedGroup])
    · exact State.useGroup_open_fget opens (f := CORE_ACC_GRP_MODE r k x.1) (n := mxMode raw) (by simp [openedGroup])
    · exact State.useGroup_open_fget opens (f := CORE_ACC_GRP_LONG_K r k x.1) (n := 0) (by simp [openedGroup])
    · exact State.useGroup_open_fget opens (f := CORE_ACC_KPOS_KOPEN r k x.1) (n := mxKblk raw) (by simp [openedGroup])
    · rw [State.useGroup_of_continue continues]
      exact State.fget_fset_ne s (hf _ (List.mem_singleton_self _)) _
  · rintro s u o d now rfl
    have runs := State.startDesc_of_runsNow (run := runVector o) (checks := fun s _ => .going s) now
    refine ⟨fun idle first => ?_, fun busy => ?_⟩
    · rw [runVector_of_free idle first] at runs
      exact congrArg Host.Outcome.next runs
    · rw [runVector_of_busy busy] at runs
      exact congrArg Host.Outcome.next runs

end Sys2Proof.Machine
end

section
/-! LAYOUT: the extent checker at the start and the copy (R238 to R251). -/
namespace Sys2Proof.Machine

section Layout
variable {s u : State} {o : Origin} {d : Desc}

/-! ## The start (R251) -/

theorem startLayout_of_empty (empty : kaEmpty d.raw d.shape = true) : startLayout o s d = .going s := if_pos empty

section Checked
variable (some' : kaEmpty d.raw d.shape = false)
include some'

theorem startLayout_of_full (full : 64 ≤ (s.extents o).length) :
    startLayout o s d = .fault (s.kalLog o d.raw 1) .extentFull { unit := unitRegion (dRegion d.raw) } :=
  (if_neg (by simp [some'])).trans (if_pos full)

variable (room : (s.extents o).length < 64)
include room

theorem startLayout_of_clash (clash : ∃ e ∈ s.extents o, padClash d.raw d.shape e.1 e.2 = true) :
    startLayout o s d = .fault (s.kalLog o d.raw 0) .padClash { unit := unitRegion (dRegion d.raw) } :=
  (if_neg (by simp [some'])).trans ((if_neg (Nat.not_le.2 room)).trans (if_pos (List.any_eq_true.2 clash)))

/-- A layout that clashes with no extent enters the list of its origin. -/
theorem startLayout_of_clear (clear : ∀ e ∈ s.extents o, padClash d.raw d.shape e.1 e.2 = false) : startLayout o s d =
    .going ((s.addExtent o (d.raw, d.shape)).accMax (KAL_STAT_LIST_MAX (dRegion d.raw)) ((s.extents o).length + 1)) :=
  (if_neg (by simp [some'])).trans ((if_neg (Nat.not_le.2 room)).trans (if_neg (by simpa using fun a b => clear (a, b))))

end Checked

theorem State.extents_addExtent (s : State) (o : Origin) (e : Nat × Nat) (f : Fld) (n : Nat) : ((s.addExtent o e).accMax f n).extents o = s.extents o ++ [e] := by
  cases o with
  | ring n =>
    change ((s.updRing n fun q => { q with extents := q.extents ++ [e] }).ring n).extents = _
    rw [State.ring_updRing_self]
    rfl
  | slot r k =>
    change ((s.updSlot r k fun q => { q with extents := q.extents ++ [e] }).slot r k).extents = _
    rw [State.slot_updSlot_self]
    rfl

theorem State.addExtent_fget (s : State) (o : Origin) (e : Nat × Nat) (f g : Fld) (n : Nat) : ((s.addExtent o e).accMax f n).fget g = s.fget g := by
  cases o <;> rfl

theorem State.addExtent_mem (s : State) (o : Origin) (e : Nat × Nat) (f : Fld) (n : Nat) : ((s.addExtent o e).accMax f n).mem = s.mem := by
  cases o <;> rfl

/-! ## The run -/

theorem runLayout_of_behind {check : Bool} (behind : u.behind isLayout d = true) : runLayout o check u d = .wait u := if_pos behind

section First
variable (first : u.behind isLayout d = false)
include first

/-- A failed check of the converters is KAL_CHECK (R246). -/
theorem runLayout_of_check : runLayout o true u d = .fault (u.kalLog o d.raw 2) .kalCheck { unit := unitRegion (dRegion d.raw) } :=
  (if_neg (by simp [first])).trans (if_pos rfl)

/-- The copy writes its elements and scales, and merges its counts (R240, R249). -/
theorem runLayout_of_good {v w : State} {h : Health} {p : Nat} (hp : p = u.originPart o)
    (hw : w = u.accAdd (KAL_CYCLES_ACTIVE (dRegion d.raw)) (ceilDiv (max (sideLines (fmtBits (kaSrc d.raw)) (kaSrcStrides d.raw d.shape) (kaValid d.raw d.shape))
      (sideLines (fmtBits (kaDst d.raw)) (kaDstStrides d.raw d.shape) (kaWritten d.raw d.shape))) 2))
    (writes : w.kaWrite p d.raw d.shape ⟨w.seedOf p, d.step, kaTensor d.raw⟩ (.desc p d.id) = (v, h)) : runLayout o false u d =
      .done (v.mergeHealth p (kaHealth d.raw) h (kaTensor d.raw) (kaKind d.raw) (kaDst d.raw) (.desc p d.id)) ((kaWritten d.raw d.shape).foldl (· * ·) 1) := by
  subst hp hw
  unfold runLayout
  simp only [first, writes, Bool.false_eq_true, if_false]

end First

/-! ## Positions outside the valid source (R243) -/

section Value
variable {p raw sh : Nat} {j lo x : List Nat} (hlo : lo = (kaDims raw).map (shPadLo sh)) (hx : x = (j.zip lo).map fun y => y.1 - y.2)
include hlo hx

theorem State.kaValue_of_outside (outside : (∃ y ∈ j.zip lo, y.1 < y.2) ∨ ∃ v ∈ x.zipIdx, shSrcExtent sh v.2 ≤ v.1) : s.kaValue p raw sh j = kaPadValue raw := by
  subst hx hlo
  have invalid : kaIsValid raw sh j = false := by
    rw [kaIsValid, Bool.and_eq_false_iff, List.all_eq_false, List.all_eq_false]
    exact outside.imp (fun ⟨y, hy, low⟩ => ⟨y, hy, by simpa using low⟩) fun ⟨v, hv, high⟩ => ⟨v, hv, by simpa using high⟩
  exact if_neg (by simp [invalid])

theorem State.kaValue_of_inside (above : ∀ y ∈ j.zip lo, y.2 ≤ y.1) (below : ∀ v ∈ x.zipIdx, v.1 < shSrcExtent sh v.2) : s.kaValue p raw sh j =
    widen32 (kaSrc raw) (s.vbits p (kaSrcAddr raw * 8 + dot x (kaSrcStrides raw sh) * fmtBits (kaSrc raw)) (fmtBits (kaSrc raw)))
      (if isMx (kaSrc raw) then s.vloadNat p (kaSrcScale raw + kaSrcScaleOff raw sh x) 1 else 0) := by
  subst hx hlo
  have valid : kaIsValid raw sh j = true := by
    rw [kaIsValid, Bool.and_eq_true, List.all_eq_true, List.all_eq_true]
    exact ⟨fun y hy => decide_eq_true (above y hy), fun v hv => decide_eq_true (below v hv)⟩
  exact if_pos valid

end Value

end Layout

/-- Settles O31: LAYOUT passes the extent checker, copies with its padding, merges its counts, and answers the positions written. -/
theorem layoutCopies : Obligations.LayoutCopies := by
  refine ⟨?_, fun s o d => ⟨startLayout_of_empty, startLayout_of_full, startLayout_of_clash, fun some' room clear => ⟨_, startLayout_of_clear some' room clear,
    s.extents_addExtent o _ _ _, fun f _ => s.addExtent_fget o _ _ f _, fun a => by rw [State.addExtent_mem]⟩⟩, ?_,
    fun s p raw sh j lo x hlo hx => ⟨State.kaValue_of_outside hlo hx, State.kaValue_of_inside hlo hx⟩⟩
  · intro s u w v o d p l h now hp hl hu
    subst hp hl hu
    have runs {c : Upset} {y : Run} (own : c ∈ [.none, .check, .parity, .adder]) (h : runLayout o (ownUpset c)
        (s.reading o (s.dpaRanges (s.originPart o) (kaReads d.raw d.shape))) d = y) :
        exec (.layout o c) s = .next (y.settle o d (s.dpaRanges (s.originPart o) (kaReads d.raw d.shape))) := by
      subst h
      exact congrArg Host.Outcome.next (State.startDesc_of_runsOwn now own)
    refine ⟨fun behind => ?_, fun first hp hw writes => ?_, ?_⟩
    · have waits := runs (c := .none) List.mem_cons_self (runLayout_of_behind behind)
      exact waits
    · have copies := runs (c := .none) List.mem_cons_self (runLayout_of_good first hp hw writes)
      exact copies
    · rintro first c (rfl | rfl)
      · have fails := runs (c := .check) (by simp) (runLayout_of_check first)
        exact fails
      · have fails := runs (c := .parity) (by simp) (runLayout_of_check first)
        exact fails
  · intro s t v o d f c w u start noop fresh
    have goes : exec (.layout o u) s = .next (t.goDesc o f (fun s d => s.dpaRanges (s.originPart o) (kaReads d.raw d.shape))
        (fun s d => s.dpaRanges (s.originPart o) (kaWrites d.raw d.shape)) u (runLayout o (ownUpset u)) (startLayout o)) :=
      congrArg Host.Outcome.next (State.startDesc_of_startsNow start)
    have free (b : Bool) : ¬ (f.noop = false ∧ b = true) := by simp [noop]
    refine ⟨fun fails => ?_, fun passes e there idle => ?_⟩
    · rw [goes, State.goDesc_of_checkFault (free _) fresh fails]
    · rw [goes, State.goDesc_of_checkGoing (free _) fresh passes rfl there]
      exact congrArg Host.Outcome.next (if_pos idle)

end Sys2Proof.Machine
end

section
/-! The update descriptors NORM, FINALISE, APPLY and STEP_END, and STEP_STATE_READY (R256 to R277). -/
namespace Sys2Proof.Machine

section Updates
variable {s u : State} {o : Origin} {d : Desc} {c : Upset} {p : Nat}

/-! ## The run (R276, R277, R294) -/

theorem runUpdate_of_behind (behind : u.behind isUpdate d = true) : runUpdate o c u d = .wait u := if_pos behind

section First
variable (first : u.behind isUpdate d = false) (part : u.originPart o = p)
include first part

/-- A chunk of a snapshot that holds what the descriptor writes is pulled (R294). -/
theorem runUpdate_of_held {n : Nat} (held : u.heldChunk p (abOutputs u o d) = some n) : runUpdate o c u d = .wait (u.pullChunk p n) := by
  subst part
  unfold runUpdate
  simp only [first, held, Bool.false_eq_true, if_false]

variable (free : u.heldChunk p (abOutputs u o d) = none)
include free

/-- A failed check of the lanes or the adder, or a parity error, is ABC_CHECK (R277). -/
theorem runUpdate_of_kind {k : Nat} (kind : abcKind (abOp d.raw) c = some k) : runUpdate o c u d =
    .fault (u.abcLog d.raw k) .abcCheck { unit := unitRegion (dRegion d.raw), log := (u.abcLog d.raw k).abcWord (dRegion d.raw) } := by
  subst part
  unfold runUpdate
  simp only [first, free, kind, Bool.false_eq_true, if_false]

/-- The work of an update descriptor, by its operation (R265, R266, R269, R272). -/
def updateWork (u : State) (p : Nat) (d : Desc) : Run :=
  match abOp d.raw with
  | 0 => .done (u.normWork p d.id d.raw d.latched) 0
  | 1 => .done (u.finalWork p d.id d.raw) 0
  | 2 => if d.latched.skip then .done u 1 else .done ((u.sampleChunks p d.raw d.latched).applyWork p d.id d.raw d.latched) 0
  | _ => .done (u.stepEndWork p d.id d.raw) 0

theorem runUpdate_of_good (kind : abcKind (abOp d.raw) c = none) : runUpdate o c u d = updateWork u p d := by
  subst part
  unfold runUpdate
  simp only [first, free, kind, Bool.false_eq_true, if_false]
  rfl

end First

theorem updateWork_norm (op : abOp d.raw = 0) : updateWork u p d = .done (u.normWork p d.id d.raw d.latched) 0 := by
  simp only [updateWork, op]

theorem updateWork_final (op : abOp d.raw = 1) : updateWork u p d = .done (u.finalWork p d.id d.raw) 0 := by
  simp only [updateWork, op]

theorem updateWork_apply (op : abOp d.raw = 2) (goes : d.latched.skip = false) :
    updateWork u p d = .done ((u.sampleChunks p d.raw d.latched).applyWork p d.id d.raw d.latched) 0 := by
  simp only [updateWork, op, goes, Bool.false_eq_true, if_false]

/-- APPLY of a skipped step changes nothing and answers 1 (R267). -/
theorem updateWork_skip (op : abOp d.raw = 2) (skips : d.latched.skip = true) : updateWork u p d = .done u 1 := by
  simp only [updateWork, op, skips, if_true]

theorem updateWork_stepEnd (op : abOp d.raw = 3) : updateWork u p d = .done (u.stepEndWork p d.id d.raw) 0 := by
  simp only [updateWork, op]

/-! ## The start (R260, R261) -/

/-- The operation `op` is started by the command `i` with the upset `c`. -/
def StartsUpdate (o : Origin) (c : Upset) (op : Nat) (i : Instr) : Prop := ∀ s, exec i s = .next (s.updateCmd op o c)

theorem startsUpdate_of_mem {op : Nat} {i : Instr} (mem : (op, i) ∈ [(0, .norm o c), (1, .finalise o c), (2, .apply o c), (3, .stepEnd o c)]) :
    StartsUpdate o c op i := by
  simp only [List.mem_cons, Prod.mk.injEq, List.not_mem_nil, or_false] at mem
  obtain ⟨rfl, rfl⟩ | ⟨rfl, rfl⟩ | ⟨rfl, rfl⟩ | ⟨rfl, rfl⟩ := mem <;> exact fun _ => rfl

/-- The step of the descriptor is that of the counter and of the step state (R260). -/
def StepFits (s : State) (p raw : Nat) : Prop := abStep raw = s.stepOf p ∧ (abOp raw = 1 ∨ abStep raw = s.fget (ABC_SCHED_TAG (s.lead p)))

theorem StepFits.not_skew {raw : Nat} (fits : StepFits s p raw) :
    ¬ (abStep raw ≠ s.stepOf p ∨ abOp raw ≠ 1 ∧ abStep raw ≠ s.fget (ABC_SCHED_TAG (s.lead p))) := by
  obtain ⟨counter, tag⟩ := fits
  exact fun skew => skew.elim (absurd counter) fun ⟨other, differs⟩ => tag.elim other differs

section Start
variable (part : p = s.originPart o)
include part

theorem startUpdate_of_skew (skew : abStep d.raw ≠ s.stepOf p ∨ (abOp d.raw ≠ 1 ∧ abStep d.raw ≠ s.fget (ABC_SCHED_TAG (s.lead p)))) :
    startUpdate o s d = .fault s .stepSkew { unit := unitRegion (dRegion d.raw) } := by
  subst part
  exact if_pos skew

variable (fits : StepFits s p d.raw)
include fits

/-- STEP_END of the last step is STEP_WRAP (R261). -/
theorem startUpdate_of_wrap (op : abOp d.raw = 3) (last : abStep d.raw = 2 ^ 48 - 1) :
    startUpdate o s d = .fault s .stepWrap { unit := unitRegion (dRegion d.raw) } := by
  subst part
  exact (if_neg fits.not_skew).trans (if_pos ⟨op, last⟩)

/-- The descriptor waits for the step state (R256). -/
theorem startUpdate_of_unready (goes : abOp d.raw ≠ 3 ∨ abStep d.raw ≠ 2 ^ 48 - 1) (unready : (s.part p).abc.ready = false) :
    startUpdate o s d = .wait s := by
  subst part
  exact (if_neg fits.not_skew).trans ((if_neg fun ⟨op, last⟩ => goes.elim (absurd op) (absurd last)).trans (if_pos unready))

end Start

/-! ## STEP_STATE_READY (R256, R260) -/

section Ready
variable (runs : s.running p = true)
include runs

/-- With the group table read the step state is ready. -/
theorem stepStateReady_of_loaded (loaded : (s.part p).abc.loaded = true) :
    stepStateReady p s = s.updPart p fun q => { q with abc := { q.abc with ready := true } } := by
  unfold stepStateReady
  rw [if_neg (by simp [runs])]
  simp only [loaded, runs, if_true, and_self]

variable (unread : (s.part p).abc.loaded = false)
include unread

/-- The group table is read when its lines are there. -/
theorem stepStateReady_of_fetched {t : State} (here : s.fetchReady [s.tableRange p] = true) (ht : t = (s.loadGroups p).useFetch [s.tableRange p])
    (loaded : (t.part p).abc.loaded = true) (still : t.running p = true) :
    stepStateReady p s = t.updPart p fun q => { q with abc := { q.abc with ready := true } } := by
  subst ht
  unfold stepStateReady
  rw [if_neg (by simp [runs])]
  simp only [unread, here, loaded, still, Bool.false_eq_true, if_true, if_false, and_self]

/-- Its lines are asked for. -/
theorem stepStateReady_of_away (away : s.fetchReady [s.tableRange p] = false)
    (asks : ((s.askFetch [s.tableRange p] (.fetch p)).part p).abc.loaded = false) : stepStateReady p s = s.askFetch [s.tableRange p] (.fetch p) := by
  unfold stepStateReady
  rw [if_neg (by simp [runs])]
  simp only [unread, away, asks, Bool.false_eq_true, if_false, false_and]

end Ready

end Updates

/-- Settles O32: update descriptors work in the order of their engine once the step state is ready. -/
theorem updatesRun : Obligations.UpdatesRun := by
  refine ⟨?_, ?_, ?_, fun s p runs loaded => congrArg Host.Outcome.next (stepStateReady_of_loaded runs loaded),
    fun s t p runs unread here ht loaded still => congrArg Host.Outcome.next (stepStateReady_of_fetched runs unread here ht loaded still),
    fun s p runs unread away asks => congrArg Host.Outcome.next (stepStateReady_of_away runs unread away asks)⟩
  · intro s u o d op p l c i mem own now hp hl hu part hop
    have starts := startsUpdate_of_mem mem s
    have settles := State.startDesc_of_runsOwn (run := runUpdate o c) (checks := startUpdate o) now own
    rw [← hl, ← hu] at settles
    have runs {y : Run} (h : runUpdate o c u d = y) : exec i s = .next (y.settle o d l) := by
      rw [starts, State.updateCmd, settles, h]
    subst hop
    refine ⟨fun behind => ?_, fun first n held => ?_, fun first free => ⟨fun good => ⟨fun op => ?_, fun op => ?_, fun op goes => ?_, fun op skips => ?_,
      fun op => ?_⟩, fun k kind => ?_⟩⟩
    · rw [runs (runUpdate_of_behind behind), Run.settle]
    · rw [runs (runUpdate_of_held first part held), Run.settle]
    · rw [runs ((runUpdate_of_good first part free good).trans (updateWork_norm op)), Run.settle]
    · rw [runs ((runUpdate_of_good first part free good).trans (updateWork_final op)), Run.settle]
    · rw [runs ((runUpdate_of_good first part free good).trans (updateWork_apply op goes)), Run.settle]
    · rw [runs ((runUpdate_of_good first part free good).trans (updateWork_skip op skips)), Run.settle]
    · rw [runs ((runUpdate_of_good first part free good).trans (updateWork_stepEnd op)), Run.settle]
    · rw [runs (runUpdate_of_kind first part free kind), Run.settle]
  · intro s t v o d f op c i mem start fresh free
    have starts := startsUpdate_of_mem mem s
    have goes := State.startDesc_of_startsNow (ins := fun s d => abInputs s o d) (run := runUpdate o c) (checks := startUpdate o) (u := c) start
    have away : ¬ (f.noop = false ∧ t.handoverMeets (abInputs t o f ++ abOutputs t o f) = true) := by
      obtain noop | clear := free
      · simp [noop]
      · simp [clear]
    refine ⟨fun x w fails => ?_, fun waits => ?_⟩
    · rw [starts, State.updateCmd, goes, State.goDesc_of_checkFault away fresh fails]
    · rw [starts, State.updateCmd, goes, State.goDesc_of_checkWait away fresh waits]
  · rintro s o d p w part rfl
    exact ⟨startUpdate_of_skew part, fun counter tag => ⟨startUpdate_of_wrap part ⟨counter, tag⟩, startUpdate_of_unready part ⟨counter, tag⟩⟩⟩

end Sys2Proof.Machine
end

section
/-! The collectives at their start and their first step (R378 to R390, R316). -/
namespace Sys2Proof.Machine

section Collectives
variable {s u : State} {o : Origin} {d : Desc} {p : Nat}

/-! ## Bulk collectives (R378, R384, R385) -/

theorem runBulk_of_busy (busy : u.engineBusy o false d = true) : runBulk o u d = .wait u := if_pos busy

/-- The member places its own part: ALL_GATHER at its index, BROADCAST at the root (R384). -/
def State.placeOwn (u : State) (p i : Nat) (d : Desc) (bytes : List Byte) : State :=
  if coOp d.raw = 2 then u.vstore p (coDst d.raw + i * coCount d.raw * coSize d.raw) bytes (.desc p d.id)
  else if coOp d.raw = 3 ∧ coRoot d.raw = i then u.vstore p (coDst d.raw) bytes (.desc p d.id) else u

/-- The record with the blocks that ALL_TO_ALL takes with it. -/
def Coll.withBlocks (x : Coll) (raw i n : Nat) (bytes : List Byte) : Coll :=
  { x with slots := if coOp raw = 4 then (List.range n).map fun t => (x.block i t, (bytes.drop (t * (coCount raw * coSize raw))).take (coCount raw * coSize raw))
    else [] }

/-- A bulk collective whose engine is free places its own part, opens the engine and begins its first phase. -/
theorem runBulk_of_free {i n : Nat} {bytes : List Byte} {elems : List Nat} {w : State} {x : Coll} (free : u.engineBusy o false d = false)
    (hp : p = u.originPart o) (hn : n = geMembers (u.entryOf p d.raw)) (hi : i = u.myRank (u.entryOf p d.raw) p)
    (hbytes : bytes = if coReads d.raw i then u.vload p (coSrc d.raw) (coSrcLen d.raw n) else [])
    (helems : elems = (List.range (bytes.length / coSize d.raw)).map fun j => leNat ((bytes.drop (j * coSize d.raw)).take (coSize d.raw)))
    (hw : w = u.placeOwn p i d bytes)
    (hx : x = (w.openColl p d (w.workOf o d) (if coReduces d.raw then elems.map (coWiden (coType d.raw)) else [])).withBlocks d.raw i n bytes) :
    runBulk o u d = collRan o d ((w.collBegin p false x).takeEarlies p x) := by
  unfold runBulk
  rw [if_neg (by simp [free])]
  dsimp only
  rw [← hp, ← hn, ← hi, ← hbytes, ← helems]
  subst hx hw
  by_cases two : coOp d.raw = 2
  · simp [State.placeOwn, Coll.withBlocks, two, State.openColl]
  · by_cases three : coOp d.raw = 3
    · simp [State.placeOwn, Coll.withBlocks, three, State.openColl]
    · by_cases four : coOp d.raw = 4
      · simp [State.placeOwn, Coll.withBlocks, four, State.openColl]
      · simp [State.placeOwn, Coll.withBlocks, two, three, four, State.openColl]

/-! ## The Tin-Can engine (R387 to R390) -/

theorem runBarrier_of_busy (busy : u.engineBusy o true d = true) : runBarrier o u d = .wait u := if_pos busy
theorem runTincan_of_busy (busy : u.engineBusy o true d = true) : runTincan o u d = .wait u := if_pos busy
theorem runFpExchange_of_busy (busy : u.engineBusy o true d = true) : runFpExchange o u d = .wait u := if_pos busy

section Free
variable (free : u.engineBusy o true d = false)
include free

theorem runBarrier_of_free : runBarrier o u d = u.runTree o d (natLe 64 0) := if_neg (by simp [free])

theorem runTincan_of_free : runTincan o u d = u.runTree o d (u.vload (u.originPart o) (coSrc d.raw) 64) := if_neg (by simp [free])

variable {r : Nat} (hr : r = u.vloadNat (u.originPart o) (coSrcAt d.raw) 64)
include hr

/-- FP_EXCHANGE of a record that passes sends its key and the complement of the key (R316, R390). -/
theorem runFpExchange_of_key {key : List Byte} (hkey : key = (stepKey r).1) (full : bit r 352 = true) (pure_ : bit r 353 = false) :
    runFpExchange o u d = u.runTree o d (key ++ natLe 32 (2 ^ 256 - 1 - leNat key)) := by
  have passes : (stepKey r).2 = true := by rw [stepKey, full, pure_]; rfl
  subst hr hkey
  exact (if_neg (by simp [free])).trans (if_pos passes)

/-- One whose record fails contributes all-ones and raises REPLICA_DIVERGE (R316, R390). -/
theorem runFpExchange_of_failure {v z : State} (fails : bit r 352 = false ∨ bit r 353 = true) (hv : v = u.logFpx (u.originPart o) true false 0 0 0xFFFF)
    (hz : z = v.contribute (u.originPart o) (v.openTree o d (natLe 64 (2 ^ 512 - 1)))) :
    runFpExchange o u d = .fault z .replicaDiverge { unit := unitHub, log := z.fpxLog (u.originPart o) } := by
  have refused : ¬ (stepKey r).2 = true := by
    obtain empty | mixed := fails
    · rw [stepKey, empty, Bool.false_and]
      exact Bool.false_ne_true
    · rw [stepKey, mixed, Bool.not_true, Bool.and_false]
      exact Bool.false_ne_true
  subst hr hv hz
  exact (if_neg (by simp [free])).trans (if_neg refused)

end Free

/-! ## The start (R380) -/

/-- A collective takes its sequence number and its CHECK. -/
def State.collNumbered (s : State) (o : Origin) (d : Desc) (p n c : Nat) : State :=
  (s.updDesc o d.id fun x => { x with work := [n, c] }).updPart p fun q => { q with coll := { q.coll with seqs := mset q.coll.seqs (coGroup d.raw) ((n + 1) % 2 ^ 32) } }

section Start
variable {g e n c : Nat} {t : State} (hp : p = s.originPart o) (hg : g = coGroup d.raw) (he : e = s.entryOf p d.raw)
  (hn : n = mgetD (s.part p).coll.seqs g 0) (hc : c = s.collCheck p d.raw e) (ht : t = s.collNumbered o d p n c)
include hp hg he hn hc ht

theorem startColl_of_agree (agree : ∀ f ∈ (t.part p).coll.early, cfGid f = geGid e → cfSeq f = n → cfCheck f = c) : startColl o s d = .going t := by
  have found : (t.part p).coll.early.find? (fun f => cfGid f == geGid e && cfSeq f == n && cfCheck f != c) = none :=
    List.find?_eq_none.2 fun f hf => by simpa using agree f hf
  subst hp hg he hn hc ht
  unfold startColl State.collNumbered at *
  simp only [found]

/-- An early flit of the same operation with another CHECK is COLL_MISMATCH (R380). -/
theorem startColl_of_mismatch {f : Flit} (found : (t.part p).coll.early.find? (fun f => cfGid f == geGid e && cfSeq f == n && cfCheck f != c) = some f) :
    startColl o s d = .fault (t.logColl p 0 f.srcNode f.srcPart g (dTag d.raw)) .collMismatch
      { unit := unitHub, log := collWord 0 f.srcNode f.srcPart g (dTag d.raw) } := by
  subst hp hg he hn hc ht
  unfold startColl State.collNumbered at *
  simp only [found]

end Start

/-- A start command does the work of the collective that is at work. -/
theorem State.startCollective_of_runsNow {phys : ReadUpset} {op : Nat} {run : State → Desc → Run} {y : Run} {l : List (Nat × Nat)}
    (now : RunsNow (s.strike phys) o (isColl op) (collInputs o) (collOuts o) d) (hl : l = collInputs o (s.strike phys) d)
    (hu : u = (s.strike phys).reading o l) (hrun : run u d = y) : s.startCollective o op phys run = y.settle o d l := by
  subst hl hu hrun
  exact State.startDesc_of_runsNow now

end Collectives

/-- The command `c` starts the bulk collective of operation `op`. -/
def StartsBulk (op : Nat) (c : Origin → ReadUpset → Instr) : Prop := ∀ o phys s, exec (c o phys) s = .next (s.startCollective o op phys (runBulk o))

/-- Settles O34: a collective takes its number at the start, waits for its engine, and opens it with its contribution. -/
theorem collectivesStart : Obligations.CollectivesStart := by
  refine ⟨?_, ?_, ?_⟩
  · intro s u w o phys d op p i n size l bytes elems x c mem now hop hl hu
    have starts : StartsBulk op c := by
      refine (?_ : ∀ y ∈ _, StartsBulk y.1 y.2) _ mem
      repeat refine List.forall_mem_cons.2 ⟨fun _ _ _ => rfl, ?_⟩
      exact List.forall_mem_nil _
    have runs {y : Run} (h : runBulk o u d = y) : exec (c o phys) s = .next (y.settle o d l) :=
      (starts o phys s).trans (congrArg Host.Outcome.next (State.startCollective_of_runsNow now hl hu h))
    refine ⟨fun busy => ?_, fun free hp hn hi hsize hbytes helems hw hx => ?_⟩
    · rw [runs (runBulk_of_busy busy), Run.settle]
    · subst hop hsize
      exact runs (runBulk_of_free free hp hn hi hbytes helems hw hx)
  · intro s u o phys d op r l c mem quiet now hl hu hr
    simp only [List.mem_cons, Prod.mk.injEq, List.not_mem_nil, or_false] at mem
    obtain ⟨rfl, rfl⟩ | ⟨rfl, rfl⟩ | ⟨rfl, rfl⟩ := mem
    · obtain rfl := quiet rfl
      have runs {y : Run} (h : runBarrier o u d = y) : exec (.barrier o) s = .next (y.settle o d l) :=
        congrArg Host.Outcome.next (State.startCollective_of_runsNow now hl hu h)
      refine ⟨fun busy => ?_, fun free _ => runs (runBarrier_of_free free), fun _ op => absurd op (by decide), fun _ op => absurd op (by decide),
        fun _ op => absurd op (by decide)⟩
      rw [runs (runBarrier_of_busy busy), Run.settle]
    · have runs {y : Run} (h : runTincan o u d = y) : exec (.tincan o phys) s = .next (y.settle o d l) :=
        congrArg Host.Outcome.next (State.startCollective_of_runsNow now hl hu h)
      refine ⟨fun busy => ?_, fun _ op => absurd op (by decide), fun free _ => runs (runTincan_of_free free), fun _ op => absurd op (by decide),
        fun _ op => absurd op (by decide)⟩
      rw [runs (runTincan_of_busy busy), Run.settle]
    · have runs {y : Run} (h : runFpExchange o u d = y) : exec (.fpExchange o phys) s = .next (y.settle o d l) :=
        congrArg Host.Outcome.next (State.startCollective_of_runsNow now hl hu h)
      refine ⟨fun busy => ?_, fun _ op => absurd op (by decide), fun _ op => absurd op (by decide),
        fun free _ key hkey full pure_ => runs (runFpExchange_of_key free hr hkey full pure_), fun free _ fails v hv z hz => ?_⟩
      · rw [runs (runFpExchange_of_busy busy), Run.settle]
      · rw [runs (runFpExchange_of_failure free hr fails hv hz), Run.settle]
  · intro s t o d p g e n c hp hg he hn hc ht
    have ht' : t = s.collNumbered o d p n c := by rw [ht, hg]; rfl
    exact ⟨startColl_of_agree hp hg he hn hc ht', fun f found => startColl_of_mismatch hp hg he hn hc ht' found⟩

end Sys2Proof.Machine
end

section
/-! Jigsaw: COPY, ENCODE, DECODE and VERIFY (R342 to R344). -/
namespace Sys2Proof.Machine

section Jigsaw
variable {u v : State} {o : Origin} {d : Desc} {p : Nat} {bad : Option (Nat × Nat)}

/-! ## COPY -/

theorem runCopy_of_behind (behind : u.behindIn (u.originPart o) isJig d = true) : runCopy o bad u d = .wait u := if_pos behind

section Copy
variable {data : List Byte} (hp : p = u.originPart o) (hdata : data = u.vload p (jgSrc d.raw) (jgLen d.raw)) (hv : v = u.jigBytes data.length)
  (first : u.behindIn p isJig d = false)
include hp hdata hv first

theorem runCopy_of_local (here : jgRemote d.raw = false) : runCopy o none u d = .done (v.vstore p (jgDst d.raw) data (.desc p d.id)) (jgLen d.raw) := by
  subst hv hdata hp
  simp [runCopy, first, here]

/-- A disagreement of the encoders stops at the line that is being written (R344). -/
theorem runCopy_of_check (i off : Nat) (here : jgRemote d.raw = false) : runCopy o (some (i, off)) u d =
    (v.vstore p (jgDst d.raw) (data.take (off / 128 * 128)) (.desc p d.id)).jigFail p 0 i (off / 128 * 128) .jigCheck := by
  subst hv hdata hp
  simp [runCopy, first, here]

theorem runCopy_of_sent {w : State} (remote : jgRemote d.raw = true)
    (sent : v.sendData p (jgBlk d.raw) (jgDst d.raw) (data.length + 1) data = some w) :
    runCopy o none u d = w.dropRun o d (jgBlk d.raw) (jgLen d.raw) (jgLen d.raw) := by
  subst hv hdata hp
  simp [runCopy, first, remote, sent]

theorem runCopy_of_no_route (remote : jgRemote d.raw = true)
    (lost : v.sendData p (jgBlk d.raw) (jgDst d.raw) (data.length + 1) data = none) : runCopy o none u d = v.noRouteRun p (jgBlk d.raw) := by
  subst hv hdata hp
  simp [runCopy, first, remote, lost]

end Copy

/-! ## ENCODE, DECODE and VERIFY -/

theorem runShards_of_behind (behind : u.behindIn (u.originPart o) isJig d = true) : runShards o bad u d = .wait u := if_pos behind

/-- The first byte offset whose codeword is not divisible, in the operations that look for it (R342). -/
def shardMiss (raw : Nat) (codes : List (List Nat)) : Option Nat :=
  if jgOp raw = 2 ∨ jgOp raw = 3 then codes.findIdx? fun c => !codeGood raw c else none

theorem shardMiss_none {raw : Nat} {codes : List (List Nat)} (good : jgOp raw = 1 ∨ ∀ x ∈ codes, codeGood raw x = true) : shardMiss raw codes = none := by
  unfold shardMiss
  obtain encode | good := good
  · rw [if_neg (by omega)]
  · split
    · exact List.findIdx?_eq_none_iff.2 fun x hx => by simp [good x hx]
    · rfl

section Shards
variable {codes : List (List Nat)} (hp : p = u.originPart o)
  (hcodes : codes = (List.range (jgLen d.raw)).map fun b => fullCode d.raw (codeAt (u.shardData p d.raw d.table) b))
  (hv : v = u.jigBytes ((jgReads d.raw).length * jgLen d.raw)) (first : u.behindIn p isJig d = false)
include hp hcodes hv first

/-- Every codeword divisible: the shards are written whole. -/
theorem runShards_of_good (good : shardMiss d.raw codes = none) :
    runShards o none u d = .done (v.writeShards p d.raw d.table (.desc p d.id) codes fun _ => jgLen d.raw) 0 := by
  unfold runShards
  rw [← hp, if_neg (by simp [first])]
  dsimp only
  rw [← hcodes, ← hv]
  unfold shardMiss at good
  simp only [good, Bool.false_eq_true, if_false]

section Miss
variable {b : Nat} (miss : shardMiss d.raw codes = some b)
include miss

/-- VERIFY answers the first offset that is not divisible. -/
theorem runShards_of_verify (op : jgOp d.raw = 3) : runShards o none u d = .done v (2 ^ 63 + b) := by
  unfold runShards
  rw [← hp, if_neg (by simp [first])]
  dsimp only
  rw [← hcodes, ← hv]
  unfold shardMiss at miss
  simp only [miss, Bool.false_eq_true, if_false]
  exact if_pos op

/-- DECODE stops at the line before a codeword that is not divisible, unless the encoders disagree before (R342, R344). -/
theorem runShards_of_mismatch (op : jgOp d.raw = 2) (later : ∀ i off, bad = some (i, off) → b / 128 ≤ off / 128) : runShards o bad u d =
    (v.writeShards p d.raw d.table (.desc p d.id) codes fun _ => b / 128 * 128).jigFail p 1 0x1F (b / 128 * 128) .jigMismatch := by
  unfold runShards
  rw [← hp, if_neg (by simp [first])]
  dsimp only
  rw [← hcodes, ← hv]
  unfold shardMiss at miss
  match bad, later with
  | none, _ =>
    simp only [miss, Bool.false_eq_true, if_false]
    exact if_neg (by omega)
  | some (i, off), later =>
    have reached := later i off rfl
    simp only [miss]
    simp [op, reached]

end Miss

/-- A disagreement of the encoders stops at the line that is being written, unless DECODE has met a bad codeword (R344). -/
theorem runShards_of_check {i off : Nat} (earlier : jgOp d.raw = 2 → ∀ b, shardMiss d.raw codes = some b → off / 128 < b / 128) :
    runShards o (some (i, off)) u d = (v.writeShards p d.raw d.table (.desc p d.id) codes fun j =>
      if j < i then off / 128 * 128 + 128 else off / 128 * 128).jigFail p 0 i (off / 128 * 128) .jigCheck := by
  unfold runShards
  rw [← hp, if_neg (by simp [first])]
  dsimp only
  rw [← hcodes, ← hv]
  unfold shardMiss at earlier
  cases miss : if jgOp d.raw = 2 ∨ jgOp d.raw = 3 then codes.findIdx? fun c => !codeGood d.raw c else none with
  | none => simp only [Bool.false_eq_true, if_false]
  | some b =>
    have goes : (decide (jgOp d.raw = 2) && decide (b / 128 ≤ off / 128)) = false := by
      by_cases op : jgOp d.raw = 2
      · simp [op, Nat.not_le.2 (earlier op b miss)]
      · simp [op]
    simp only [goes, Bool.false_eq_true, if_false]

end Shards

/-- A start command of Jigsaw does the work of the descriptor that is at work. -/
theorem State.jigCmd_of_runsNow {s : State} {op : Nat} {run : State → Desc → Run} {y : Run} {l : List (Nat × Nat)}
    (now : RunsNow s o (isJgOp op) (fun s d => jgInputs s o d) (fun s d => jgOutputs s o d) d) (hl : l = jgInputs s o d) (hu : u = s.reading o l)
    (hrun : run u d = y) : s.jigCmd op o .none run = y.settle o d l := by
  subst hl hu hrun
  exact State.startDesc_of_runsNow now

end Jigsaw

/-- The command `c` starts the operation `op` on the shards. -/
def StartsShards (op : Nat) (c : Origin → Upset → Option (Nat × Nat) → Instr) : Prop :=
  ∀ o bad s, exec (c o .none bad) s = .next (s.jigCmd op o .none (runShards o bad))

/-- Settles O40: COPY, ENCODE, DECODE and VERIFY write and answer what their codewords and encoders let them. -/
theorem jigsawRuns : Obligations.JigsawRuns := by
  refine ⟨?_, ?_, fun raw code => ⟨fun op => by simp only [fullCode, op], fun op => by simp only [fullCode, op]⟩⟩
  · intro s u v o d p data l now hl hu hp hdata hv
    have runs {bad : Option (Nat × Nat)} {y : Run} (h : runCopy o bad u d = y) : exec (.copy o .none bad) s = .next (y.settle o d l) :=
      congrArg Host.Outcome.next (State.jigCmd_of_runsNow now hl hu h)
    refine ⟨fun behind bad => ?_, fun first => ⟨fun here => ?_, fun i off here => runs (runCopy_of_check hp hdata hv first i off here),
      fun w remote sent => runs (runCopy_of_sent hp hdata hv first remote sent), fun remote lost => runs (runCopy_of_no_route hp hdata hv first remote lost)⟩⟩
    · rw [runs (runCopy_of_behind (hp ▸ behind)), Run.settle]
    · rw [runs (runCopy_of_local hp hdata hv first here), Run.settle]
  · intro s u v o d op p codes l c mem now hop hl hu hp hcodes hv
    have starts : StartsShards op c := by
      refine (?_ : ∀ y ∈ _, StartsShards y.1 y.2) _ mem
      repeat refine List.forall_mem_cons.2 ⟨fun _ _ _ => rfl, ?_⟩
      exact List.forall_mem_nil _
    have some_op : op = 1 ∨ op = 2 ∨ op = 3 := by
      simp only [List.mem_cons, Prod.mk.injEq, List.not_mem_nil, or_false] at mem
      omega
    have runs {bad : Option (Nat × Nat)} {y : Run} (h : runShards o bad u d = y) : exec (c o .none bad) s = .next (y.settle o d l) :=
      (starts o bad s).trans (congrArg Host.Outcome.next (State.jigCmd_of_runsNow now hl hu h))
    subst hop
    refine ⟨fun behind bad => ?_, fun first => ⟨fun good => ?_, fun b verify found => ?_, fun b bad decode found later => ?_, fun i off earlier => ?_⟩⟩
    · rw [runs (runShards_of_behind (hp ▸ behind)), Run.settle]
    · rw [runs (runShards_of_good hp hcodes hv first (shardMiss_none good)), Run.settle]
    · rw [runs (runShards_of_verify hp hcodes hv first ((if_pos (.inr verify)).trans found) verify), Run.settle]
    · exact runs (runShards_of_mismatch hp hcodes hv first ((if_pos (.inl decode)).trans found) decode later)
    · exact runs (runShards_of_check hp hcodes hv first fun decode b miss => earlier decode b ((if_pos (.inl decode)).symm.trans miss))

end Sys2Proof.Machine
end

section
/-! The flits of the collectives (R382 to R391). -/
namespace Sys2Proof.Machine

section CollFlits
variable {s t u v : State} {p : Fin 18} {f : Flit} {q : Nat} {tc : Bool} {x : Coll} {ns : Nat}

/-- A flit that has the type and the channel of a command comes as it is. -/
theorem flitAs_self {f : Flit} {typ vc : Nat} (htyp : f.typ = typ) (hvc : f.vc = vc) : flitAs f typ vc = f := by
  have channel : (if f.vc = 3 then 3 else vc) = f.vc := by split <;> omega
  subst htyp
  unfold flitAs
  rw [channel, ite_self]

/-! ## A flit of the collective that an engine runs -/

section Takes
variable (takes : CollTakes t q f tc x)
include takes

/-- READY notes the extent that the member announces (R382). -/
theorem landReady_of_takes : landReady q f ns t = (t.countWait q f ns).takeReady q tc x f := by
  obtain ⟨g, at_⟩ := State.collIn_of_takes takes (k := fun s g x => match x with
    | some (tc, x) => (s.countWait q f ns).takeReady q tc x f
    | none => if s.seqAhead q g f then s.holdEarly q f else s)
  exact at_

theorem landCollData_of_takes (bulk : x.inTree = false) : landCollData q f ns t = (t.countWait q f ns).takeData q tc x f := by
  obtain ⟨g, at_⟩ := State.collIn_of_takes takes (k := fun s _ x => match x with
    | some (tc, x) => if x.inTree then s.reply f 2 else (s.countWait q f ns).takeData q tc x f
    | none => s.reply f 2)
  exact at_.trans (if_neg (by simp [bulk]))

/-- LANDED lowers what is still to be reported (R381, R382). -/
theorem landLanded_of_takes (bulk : x.inTree = false) : landLanded q f ns t =
    ((t.countWait q f ns).setEngine q tc (some { x with due := x.due - leNat ((cfData f).take 8) })).collGo q tc := by
  obtain ⟨g, at_⟩ := State.collIn_of_takes takes (k := fun s _ x => match x with
    | some (tc, x) =>
      if x.inTree then s
      else ((s.countWait q f ns).setEngine q tc (some { x with due := x.due - leNat ((cfData f).take 8) })).collGo q tc
    | none => s)
  exact at_.trans (if_neg (by simp [bulk]))

/-- A value of the tree reaches its receive slot, or is the result (R387). -/
theorem landTincan_of_takes {r : Nat} (tree : x.inTree = true) (rank : t.senderRank x.entry f.srcNode f.srcPart = some r) :
    landTincan q f ns t = (t.countWait q f ns).treeIn q x r (cfKind f) (cfData f) := by
  obtain ⟨g, at_⟩ := State.collIn_of_takes takes (k := fun s g x => match x with
    | some (_, x) =>
      match s.senderRank x.entry f.srcNode f.srcPart with
      | some r => if x.inTree then (s.countWait q f ns).treeIn q x r (cfKind f) (cfData f) else s
      | none => s
    | none => if s.seqAhead q g f then s.holdEarly q f else s)
  simp only [rank, tree, if_true] at at_
  exact at_

end Takes

/-! ## DATA and its extent (R382) -/

/-- The place of a DATA flit in what its sender has announced. -/
def State.placeOf (v : State) (q : Nat) (x : Coll) (f : Flit) : Option (Nat × Nat × Nat) := (v.peerOf x f).bind fun r => v.dataPlace q x r f

theorem State.takeData_of_outside (outside : ∀ k base len, v.placeOf q x f = some (k, base, len) → f.addr < base ∨ base + len < f.addr + (cfData f).length) :
    v.takeData q tc x f = v.reply f 2 := by
  unfold State.takeData State.placeOf at *
  split
  · next k base len place =>
    refine if_neg fun ⟨low, high⟩ => ?_
    have := outside k base len place
    omega
  · rfl

/-- The record after a DATA flit: its bytes are counted and owed a report. -/
def Coll.withData (x : Coll) (f : Flit) (k base : Nat) : Coll :=
  { x with
    got := mset x.got k (mgetD x.got k 0 + (cfData f).length),
    owed := x.owed ++ [(f.srcNode, f.srcPart, cfPhase f, (cfData f).length)],
    buf := if x.holds then mset x.buf k (overlay (mgetD x.buf k []) (f.addr - base) (cfData f)) else x.buf }

theorem State.takeData_of_inside {k base len : Nat} (place : v.placeOf q x f = some (k, base, len)) (low : base ≤ f.addr)
    (high : f.addr + (cfData f).length ≤ base + len) : v.takeData q tc x f =
      ((if x.small then v else v.vstore q f.addr (cfData f) (.desc q x.id)).setEngine q tc (some (x.withData f k base))).collGo q tc := by
  unfold State.placeOf at place
  unfold State.takeData
  simp only [place, low, high, and_self, if_true]
  rfl

/-! ## The wait that a flit ends (R391) -/

theorem State.countWait_of_none (none : cfCause f = 0 ∨ ns = 0) : t.countWait q f ns = t := if_pos none.symm

theorem State.countWait_of_cause {i : Nat} (small : i < 7) (some_ : ns ≠ 0) (cause : cfCause f = i + 1) :
    ((t.countWait q f ns).part q).coll.waited.getD i 0 = (t.part q).coll.waited.getD i 0 + ns := by
  unfold State.countWait
  rw [if_neg (by omega), State.part_updPart_self]
  simp [small, cause]

end CollFlits

/-- Settles O35: each flit of the collective that an engine runs is acted on, and its buffer is free again. -/
theorem collectiveFlits : Obligations.CollectiveFlits := by
  intro s t u p f ns q tc x lands hq takes hu
  subst hq hu
  have comes {k : State → State} {y : State} {typ vc : Nat} (htyp : f.typ = typ) (hvc : f.vc = vc) (hk : k t = y) :
      s.flitIn p (flitAs f typ vc) k = y.returnCredit p f.vc f.dl := by
    rw [flitAs_self htyp hvc, State.flitIn_of_lands lands, hk]
  refine ⟨fun htyp hvc => ?_, fun htyp hvc bulk => ?_, fun htyp hvc bulk => ?_, fun r htyp hvc tree rank => ?_, fun v outside => ?_,
    fun v r k base len peer place low high => ⟨x.withData f k base, ?_, ?_, rfl⟩, State.countWait_of_none, fun i small some_ cause =>
      State.countWait_of_cause small some_ cause⟩
  · exact congrArg Host.Outcome.next (comes htyp hvc (landReady_of_takes takes))
  · exact congrArg Host.Outcome.next (comes htyp hvc (landCollData_of_takes takes bulk))
  · exact congrArg Host.Outcome.next (comes htyp hvc (landLanded_of_takes takes bulk))
  · exact congrArg Host.Outcome.next (comes htyp hvc (landTincan_of_takes takes tree rank))
  · refine State.takeData_of_outside fun k base len place => ?_
    obtain ⟨r, peer, place⟩ := Option.bind_eq_some_iff.1 place
    exact outside r k base len peer place
  · exact State.takeData_of_inside (Option.bind_eq_some_iff.2 ⟨r, peer, place⟩) low high
  · simp [Coll.withData]

end Sys2Proof.Machine
end

section
/-! Flits that a port receives (R131 to R134, R349 to R353) and the report of a credit. -/
namespace Sys2Proof.Machine

section Flits
variable {s t : State} {p : Fin 18} {f : Flit} {typ vc : Nat} {k : State → State}

/-! ## What a port accepts (R349, R350, R353) -/

theorem flitConforms_iff {f : Flit} : flitConforms f = true ↔ 1 ≤ f.typ ∧ f.typ ≤ 7 ∧ f.vc ≤ 2 ∧ f.payload.length ≤ 224 ∧ f.rsv = 0 := by
  simp [flitConforms, and_assoc]

/-- A command keeps what does not conform of its flit. -/
theorem flitAs_misfit (misfit : f.typ = 0 ∨ 7 < f.typ ∨ f.vc = 3 ∨ 224 < f.payload.length ∨ f.rsv ≠ 0) : flitConforms (flitAs f typ vc) = false := by
  rw [Bool.eq_false_iff, Ne, flitConforms_iff]
  dsimp only [flitAs]
  intro ⟨low, high, channel, short, clear⟩
  obtain h | h | h | h | h := misfit
  · rw [if_neg (by omega)] at low
    omega
  · rw [if_neg (by omega)] at high
    omega
  · rw [if_pos h] at channel
    omega
  · omega
  · exact h clear

theorem flitAs_conforms (htyp : 1 ≤ typ ∧ typ ≤ 7) (hvc : vc ≤ 2) (low : 1 ≤ f.typ) (high : f.typ ≤ 7) (channel : f.vc ≠ 3)
    (short : f.payload.length ≤ 224) (clear : f.rsv = 0) : flitConforms (flitAs f typ vc) = true := by
  rw [flitConforms_iff]
  dsimp only [flitAs]
  rw [if_pos ⟨low, high⟩, if_neg channel]
  exact ⟨htyp.1, htyp.2, hvc, short, clear⟩

/-- A flit that does not conform takes the port DOWN (R350). -/
theorem State.flitIn_of_misfit {g : Flit} (up : s.portUp p = true) (misfit : flitConforms g = false) : s.flitIn p g k = s.portDown p := by
  unfold State.flitIn State.fabIn
  rw [if_neg (by simp [up]), if_pos misfit]

section Numbered
variable {g : Flit} (up : s.portUp p = true) (fits : flitConforms g = true) (numbered : g.typ ≠ 6)
include up fits numbered

/-- The first flit that shows a gap is answered with a NAK (R353). -/
theorem State.flitIn_of_gap (gap : g.seq ≠ (s.port p).seqRx) (first : (s.port p).nakSent = false) (ahead : (g.seq + 4096 - (s.port p).seqRx) % 4096 < 2048) :
    s.flitIn p g k = s.sendNak p := by
  unfold State.flitIn State.fabIn
  rw [if_neg (by simp [up]), if_neg (by simp [fits]), if_neg numbered, if_neg gap, if_neg (by simp [first, ahead])]

/-- What follows is discarded until the replay, and so is a repeated flit (R353). -/
theorem State.flitIn_of_discard (gap : g.seq ≠ (s.port p).seqRx)
    (discard : (s.port p).nakSent = true ∨ 2048 ≤ (g.seq + 4096 - (s.port p).seqRx) % 4096) : s.flitIn p g k = s := by
  unfold State.flitIn State.fabIn
  rw [if_neg (by simp [up]), if_neg (by simp [fits]), if_neg numbered, if_neg gap, if_pos discard]

/-- An uncorrectable error in the hub is device-fatal (R358). -/
theorem State.flitIn_of_ecc (next : g.seq = (s.port p).seqRx) (bad : g.ecc = .bad) : s.flitIn p g k = s.deviceFatal .fabInternal { unit := unitHub } := by
  unfold State.flitIn State.fabIn State.eccOr
  rw [if_neg (by simp [up]), if_neg (by simp [fits]), if_neg numbered, if_pos next, bad]

end Numbered

/-- A NULL flit carries acknowledgement and credits only (R349). -/
theorem State.fabIn_of_null (up : s.portUp p = true) (fits : flitConforms f = true) (good : f.ecc = .good) :
    s.fabIn p (flitAs f 6 0) id = s.fabAck p f.ack f.credit f.cvc f.cdl := by
  obtain ⟨low, high, channel, short, clear⟩ := flitConforms_iff.1 fits
  have typed : (flitAs f 6 0).typ = 6 := if_pos ⟨low, high⟩
  have ecc : (flitAs f 6 0).ecc = .good := good
  have conforms : flitConforms (flitAs f 6 0) = true := flitAs_conforms (by decide) (by decide) low high (by omega) short clear
  unfold State.fabIn State.eccOr
  rw [if_neg (by simp [up]), if_neg (by simp [conforms]), if_pos typed, ecc]
  rfl

/-! ## Where DATA and drops land (R131 to R133) -/

section Land
variable {q : Nat}

theorem landData_of_stopped (stopped : s.running q = false) : landData q f s = s.reply f 1 := if_pos stopped
theorem landDrop_of_stopped (stopped : s.running q = false) : landDrop q f s = s.reply f 1 := if_pos stopped

section Runs
variable (runs : s.running q = true)
include runs

/-- DATA waits behind flits that wait for a page-table line (R132). -/
theorem landData_of_inbound (waiting : (s.part q).inbound ≠ []) : landData q f s = s.updPart q fun x => { x with inbound := x.inbound ++ [f] } :=
  (if_neg (by simp [runs])).trans (if_pos waiting)

/-- A new stream that finds the table full is refused with reason 3 (R133). -/
theorem landDrop_of_full (full : s.streamsFull q f.srcNode f.srcPart f.epoch = true) :
    landDrop q f s = (s.reply f 3).raise q .dropHoldFull { unit := unitHub, log := f.srcNode + f.srcPart * 65536 + f.epoch * 2 ^ 32 } :=
  (if_neg (by simp [runs])).trans (if_pos full)

section First
variable (first : (s.part q).inbound = [])
include first

theorem landData_of_full (full : s.streamsFull q f.srcNode f.srcPart f.epoch = true) :
    landData q f s = (s.reply f 3).raise q .dropHoldFull { unit := unitHub, log := f.srcNode + f.srcPart * 65536 + f.epoch * 2 ^ 32 } :=
  (if_neg (by simp [runs])).trans ((if_neg (not_not.2 first)).trans (if_pos full))

variable (room : s.streamsFull q f.srcNode f.srcPart f.epoch = false)
include room

/-- DATA whose address translates lands there (R132). -/
theorem landData_of_ok {rs : List (Nat × Nat)} (ok : s.xlateRead q f.addr f.payload.length true (s.damage.length + 1) = (t, .ok rs)) :
    landData q f s = t.landAt q f rs := by
  unfold landData
  simp only [runs, first, room, ok, ne_eq, not_true_eq_false, Bool.true_eq_false, Bool.false_eq_true, if_false]

theorem landData_of_need {l : Nat} (need : s.xlateRead q f.addr f.payload.length true (s.damage.length + 1) = (t, .error (.need l))) :
    landData q f s = (t.askShared l (.fetch q)).updPart q fun x => { x with inbound := x.inbound ++ [f] } := by
  unfold landData
  simp only [runs, first, room, need, ne_eq, not_true_eq_false, Bool.true_eq_false, Bool.false_eq_true, if_false]

theorem landData_of_bad {c : Code} (bad : s.xlateRead q f.addr f.payload.length true (s.damage.length + 1) = (t, .error (.bad c))) :
    landData q f s = t.reply f 2 := by
  unfold landData
  simp only [runs, first, room, bad, ne_eq, not_true_eq_false, Bool.true_eq_false, Bool.false_eq_true, if_false]

theorem landData_of_sector {a : Nat} (sector : s.xlateRead q f.addr f.payload.length true (s.damage.length + 1) = (t, .error (.sector a))) :
    landData q f s = (t.reply f 2).raise q .memUncorr (t.uncorrCause a) := by
  unfold landData
  simp only [runs, first, room, sector, ne_eq, not_true_eq_false, Bool.true_eq_false, Bool.false_eq_true, if_false]

end First
end Runs

theorem State.jars_updStream (s : State) (q node part epoch : Nat) (g : Stream → Stream) :
    ((s.updStream q node part epoch g).part q).jars = (s.part q).jars := by
  rw [State.updStream, State.part_updPart_self]
  split <;> rfl

/-- A stream whose oldest held drop waits for bytes (R133). -/
theorem State.creditDrops_of_waiting {node part epoch : Nat} {x : Stream} {h : HeldDrop} {l : List HeldDrop}
    (stream : (s.part q).streams.find? (·.is node part epoch) = some x) (held : x.held = h :: l) (early : x.landed < h.upTo) :
    (s.creditDrops q node part epoch).out = s.out ∧ ((s.creditDrops q node part epoch).part q).jars = (s.part q).jars := by
  have none_ready : (x.held.takeWhile fun h => decide (h.upTo ≤ x.landed)) = [] := by
    rw [held, List.takeWhile_cons_of_neg (by simpa using early)]
  unfold State.creditDrops
  simp only [stream, none_ready]
  refine ⟨rfl, ?_⟩
  rw [State.part_updPart_self]
  exact s.jars_updStream q node part epoch _

end Land

/-! ## The report of a credit (R134) -/

section Report
variable {q node part epoch : Nat} {x : (Nat × Nat × Nat) × Dropper} (sent : (s.part q).sentDrops.find? (fun x => x.1 == (node, part, epoch)) = some x)
  (ht : t = s.updPart q fun r => { r with sentDrops := dropFirst (fun x => x.1 == (node, part, epoch)) r.sentDrops })
include sent ht

theorem dropCreditReport_of_desc {o : Origin} {id : Nat} (who : x.2 = .desc o id) : dropCreditReport q node part epoch s =
    t.updDesc o id fun d => { d with remote := dropFirst (· == (node, part, epoch)) d.remote } := by
  obtain ⟨key, who'⟩ := x
  subst ht who
  simp only [dropCreditReport, sent]

theorem dropCreditReport_of_snap (who : x.2 = .snap) : dropCreditReport q node part epoch s =
    t.updPart q fun r => { r with snap := r.snap.map fun x => { x with credited := true } } := by
  obtain ⟨key, who'⟩ := x
  subst ht who
  simp only [dropCreditReport, sent]

theorem dropCreditReport_of_core (who : x.2 = .core) : dropCreditReport q node part epoch s = t := by
  obtain ⟨key, who'⟩ := x
  subst ht who
  simp only [dropCreditReport, sent]

end Report

/-! ## The commands -/

/-- The command `i` brings the flit `f` as one of a type and channel of its own, which are numbered. -/
def BringsFlit (p : Nat) (f : Flit) (i : Instr) : Prop :=
  ∃ typ vc k, (1 ≤ typ ∧ typ ≤ 7) ∧ typ ≠ 6 ∧ vc ≤ 2 ∧ ∀ s, exec i s = .next (s.flitIn p (flitAs f typ vc) k)

theorem bringsFlit_of_mem {i : Instr} (mem : i ∈ [.dataFlit p f, .dropFlit p f, .replyFlit p f]) : BringsFlit p f i := by
  simp only [List.mem_cons, List.not_mem_nil, or_false] at mem
  obtain rfl | rfl | rfl := mem
  · exact ⟨1, 0, landData f.dstPart f, by decide, by decide, by decide, fun _ => rfl⟩
  · exact ⟨2, 2, landDrop f.dstPart f, by decide, by decide, by decide, fun _ => rfl⟩
  · exact ⟨5, 2, landReply f.dstPart f, by decide, by decide, by decide, fun _ => rfl⟩

end Flits

/-- Settles O36: a flit lands, shows a gap, is discarded or takes the port DOWN; a credit report reaches what sent the drop. -/
theorem flitsLand : Obligations.FlitsLand := by
  refine ⟨?_, fun s p f _ up fits good => congrArg Host.Outcome.next (State.fabIn_of_null up fits good), ?_, ?_,
    fun s q f stopped => ⟨landData_of_stopped stopped, landDrop_of_stopped stopped⟩,
    fun s q node part epoch x h l stream held early => State.creditDrops_of_waiting stream held early, ?_⟩
  · intro s t p f lands
    have comes {typ vc : Nat} {k : State → State} (htyp : f.typ = typ) (hvc : f.vc = vc) :
        s.flitIn p (flitAs f typ vc) k = (k t).returnCredit p f.vc f.dl := by
      rw [flitAs_self htyp hvc, State.flitIn_of_lands lands]
    exact ⟨fun htyp hvc => congrArg Host.Outcome.next (comes htyp hvc), fun htyp hvc => congrArg Host.Outcome.next (comes htyp hvc),
      fun htyp hvc => congrArg Host.Outcome.next (comes htyp hvc)⟩
  · intro s p f i mem up
    obtain ⟨typ, vc, k, htyp, numbered, hvc, brings⟩ := bringsFlit_of_mem mem
    rw [brings]
    refine ⟨fun misfit => ?_, fun low high channel short clear gap => ⟨fun first ahead => ?_, fun discard => ?_⟩,
      fun low high channel short clear next bad => ?_⟩
    · rw [State.flitIn_of_misfit up (flitAs_misfit misfit)]
    · have typed : (flitAs f typ vc).typ ≠ 6 := by simpa only [flitAs, low, high, and_self, if_true] using numbered
      rw [State.flitIn_of_gap up (flitAs_conforms htyp hvc low high channel short clear) typed gap first ahead]
    · have typed : (flitAs f typ vc).typ ≠ 6 := by simpa only [flitAs, low, high, and_self, if_true] using numbered
      rw [State.flitIn_of_discard up (flitAs_conforms htyp hvc low high channel short clear) typed gap discard]
    · have typed : (flitAs f typ vc).typ ≠ 6 := by simpa only [flitAs, low, high, and_self, if_true] using numbered
      rw [State.flitIn_of_ecc up (flitAs_conforms htyp hvc low high channel short clear) typed next bad]
  · intro s q f runs
    refine ⟨landData_of_inbound runs, fun first room t x xlate => ⟨?_, ?_, ?_, ?_⟩, fun full t ht => ?_⟩
    · rintro rs rfl
      exact landData_of_ok runs first room xlate
    · rintro l rfl
      exact landData_of_need runs first room xlate
    · rintro c rfl
      exact landData_of_bad runs first room xlate
    · rintro a rfl
      exact landData_of_sector runs first room xlate
    · subst ht
      exact ⟨landDrop_of_full runs full, fun first => landData_of_full runs first full⟩
  · intro s t q node part epoch x sent ht
    exact ⟨fun o id who => congrArg Host.Outcome.next (dropCreditReport_of_desc sent ht who),
      fun who => congrArg Host.Outcome.next (dropCreditReport_of_snap sent ht who), fun who => congrArg Host.Outcome.next (dropCreditReport_of_core sent ht who)⟩

end Sys2Proof.Machine
end

section
/-! The test access port (R491). -/
namespace Sys2Proof.Machine

/-- The instructions that take effect only while RESET_N is low. -/
theorem TapInst.gated_iff {i : TapInst} : i.gated = true ↔ i ∈ [TapInst.extest, .clamp, .highz, .extestPulse, .extestTrain] := by
  cases i <;> simp [TapInst.gated]

section Pins
variable {s : State} {i : TapInst} {pins drive : List Bool}

theorem State.tapDrive_of_low (low : s.sec.resetLow = true) : s.tapDrive i pins drive = { s with tap := ⟨i, drive, pins⟩ } := if_pos low

theorem State.tapDrive_of_high (high : s.sec.resetLow = false) : s.tapDrive i pins drive = { s with tap := { s.tap with inst := i, dr := [false] } } :=
  if_neg (Bool.eq_false_iff.1 high)

theorem State.tapActs_of_high (high : s.sec.resetLow = false) (gated : s.tap.inst.gated = true) : s.tapActs = .bypass := by
  simp [State.tapActs, high, gated]

theorem State.tapActs_of_effect (acts : s.sec.resetLow = true ∨ s.tap.inst.gated = false) : s.tapActs = s.tap.inst := by
  obtain low | free := acts
  · simp [State.tapActs, low]
  · simp [State.tapActs, free]

end Pins

/-- The IDCODE word by its fields: a 1, the JEP106 identity, the part number and the version. -/
theorem idcode_fields : idcode % 2 = 1 ∧ idcode / 2 ^ 12 % 2 ^ 16 = 0x4C96 ∧ idcode / 2 ^ 28 = 1 ∧ idcode / 2 % 2 ^ 11 = Config.jep106.toNat := by
  have := Config.jep106.isLt
  unfold idcode
  omega

/-- Settles O53: the gated instructions are the five that drive or float pins, and their effect turns on RESET_N alone. -/
theorem testPortRuns : Obligations.TestPortRuns := by
  unfold Obligations.TestPortRuns
  refine ⟨fun s pins drive => ⟨rfl, rfl, rfl, rfl, rfl, rfl, fun low => ?_, fun high => ?_⟩, fun s high gated => ?_, fun s acts => ?_,
    idcode_fields⟩
  · exact ⟨congrArg _ (State.tapDrive_of_low low), congrArg _ (State.tapDrive_of_low low), congrArg _ (State.tapDrive_of_low low)⟩
  · exact ⟨congrArg _ (State.tapDrive_of_high high), congrArg _ (State.tapDrive_of_high high), congrArg _ (State.tapDrive_of_high high)⟩
  · exact State.tapActs_of_high high (TapInst.gated_iff.2 gated)
  · exact State.tapActs_of_effect (acts.imp_right fun free => Bool.eq_false_iff.2 fun gated => free (TapInst.gated_iff.1 gated))

end Sys2Proof.Machine
end


section
/-! Link retry of the fabric ports: discards, NAKs and retraining (R350, R353). -/
namespace Sys2Proof.Machine

section Retry
variable {s t : State} {p : Nat}

theorem flitDiscard_fec_of_up (up : s.portUp p = true) : flitDiscard p .fec s = (s.fadd (FAB_PORT_CNT0_FEC_UNCORR p) 1).sendNak p :=
  if_neg (Bool.not_eq_false _ ▸ up)

theorem flitDiscard_crc_of_up (up : s.portUp p = true) : flitDiscard p .crc s = (s.fadd (FAB_PORT_CNT1_CRC_ERR p) 1).sendNak p :=
  if_neg (Bool.not_eq_false _ ▸ up)

/-- A NAK names the flit before the one that is expected next. -/
theorem State.sendNak_out : (s.sendNak p).out = s.out ++ [Out.flit p { nullFlit (((s.port p).seqRx + 4095) % 4096) 0 0 0 with nak := true }] := rfl

theorem State.port_sendNak : ((s.sendNak p).port p).nakSent = true := by
  have same : (s.sendNak p).port p = (s.updPort p fun q => { q with nakSent := true }).port p := rfl
  rw [same, State.port_updPort_self]

/-- A counter that holds at its greatest value reads what it counted. -/
theorem satAdd_eq_mod (w n d : Nat) : satAdd w n d = min (n + d) (2 ^ w - 1) % 2 ^ w := by
  have := Nat.two_pow_pos w
  unfold satAdd
  rw [Nat.mod_eq_of_lt (by omega)]

theorem State.replayPort_replays : (s.replayPort p).fget (FAB_PORT_CNT1_REPLAYS p) =
    min (s.fget (FAB_PORT_CNT1_REPLAYS p) + (s.port p).unacked.length) (2 ^ 32 - 1) % 2 ^ 32 :=
  (State.fget_fadd_self _ (FAB_PORT_CNT1_REPLAYS p) _).trans (satAdd_eq_mod 32 _ _)

/-! ## NAK -/

section Nak
variable {ack n : Nat} (up : s.portUp p = true) (taken : t = s.fabTake p ack 0 0 0)
  (again : n = (if (t.port p).naks.1 = ack then (t.port p).naks.2 + 1 else 1))
include up

theorem fabNak_of_bad : fabNak p ack .bad s = s.deviceFatal .fabInternal { unit := unitHub } := if_neg (Bool.not_eq_false _ ▸ up)

include taken again

/-- A NAK acknowledges, and replays unless it is the eighth in a row for one SEQ. -/
theorem fabNak_of_good : fabNak p ack .good s =
    if 8 ≤ n then (t.updPort p fun q => { q with naks := (ack, 0), retraining := true }).fadd (FAB_PORT_STAT_RETRAINS p) 1
    else ((t.updPort p fun q => { q with naks := (ack, n) }).replayPort p).fabDrain p := by
  subst taken again
  exact if_neg (Bool.not_eq_false _ ▸ up)

end Nak

/-! ## The end of a retraining -/

section RetrainEnd
variable (retraining : (s.port p).retraining = true)
include retraining

theorem portRetrainEnd_of_ok : portRetrainEnd p true s =
    (((s.updPort p fun q => { q with retraining := false, retrainFails := 0 }).replayPort p).fabDrain p).sendEcho p := by
  rw [portRetrainEnd, if_neg (by simp [retraining]), if_pos rfl]

theorem portRetrainEnd_of_fail (few : (s.port p).retrainFails < 2) : portRetrainEnd p false s =
    (s.updPort p fun q => { q with retrainFails := q.retrainFails + 1 }).fadd (FAB_PORT_STAT_RETRAINS p) 1 := by
  rw [portRetrainEnd, if_neg (by simp [retraining]), if_neg Bool.false_ne_true, if_pos (by omega)]

theorem portRetrainEnd_of_third (many : 2 ≤ (s.port p).retrainFails) : portRetrainEnd p false s = s.portDown p := by
  rw [portRetrainEnd, if_neg (by simp [retraining]), if_neg Bool.false_ne_true, if_neg (by omega)]

end RetrainEnd

end Retry

/-- Settles O37: each command of the retry by the state of its port. -/
theorem linkRetry : Obligations.LinkRetry := by
  unfold Obligations.LinkRetry
  refine ⟨fun s p up => ?_, fun s p => ?_, fun s t p ack n up taken again => ?_, fun s p => ?_, fun s p retraining => ?_⟩
  · exact ⟨congrArg _ (flitDiscard_fec_of_up up), congrArg _ (flitDiscard_crc_of_up up)⟩
  · exact ⟨State.sendNak_out, State.port_sendNak⟩
  · have good := fabNak_of_good up taken again
    exact ⟨fun few => congrArg _ (good.trans (if_neg (by omega))), fun many => congrArg _ (good.trans (if_pos many)),
      congrArg _ (fabNak_of_bad up)⟩
  · exact ⟨rfl, State.replayPort_replays⟩
  · exact ⟨congrArg _ (portRetrainEnd_of_ok retraining), fun few => congrArg _ (portRetrainEnd_of_fail retraining few),
      fun many => congrArg _ (portRetrainEnd_of_third retraining many)⟩

end Sys2Proof.Machine
end


section
/-! The bring-up of a fabric port (R354 to R362). -/
namespace Sys2Proof.Machine

section BringUp
variable {s t u : State} {p : Nat}

/-! ## FAB_PORT_CFG (R354, R359) -/

section Cfg
variable {v : Nat}

theorem fabPortCfg_of_refused (refused : s.anyActive = true ∨ 2 ≤ bits v 4 4 ∧ bits v 4 4 ≤ 7) :
    fabPortCfg p v s = s.noteDiscard (FAB_PORT_CFG p) v := if_pos refused

theorem fabPortCfg_of_taken (idle : s.anyActive = false) (role : bits v 4 4 < 2 ∨ 7 < bits v 4 4)
    (cleared : u = State.fsets (State.clearPort (s.fsets [(FAB_PORT_CFG_PARTS p, bits v 16 4), (FAB_PORT_CFG_BEAT p, bits v 8 1),
        (FAB_PORT_CFG_ROLE p, bits v 4 4), (FAB_PORT_CFG_ENABLE p, bits v 0 1)]) p)
      [(FAB_PORT_STAT_LANES_UP p, 0), (FAB_PORT_STAT_PEER_NODE p, 0xFFFF), (FAB_PORT_STAT_PEER_ROLE p, 0), (FAB_PORT_STAT_PEER_SWITCH p, 0),
        (FAB_PORT_STAT_PEER_BEAT p, 0), (FAB_PORT_DELAY_DELAY_PS p, 0)]) :
    fabPortCfg p v s = u.fset (FAB_PORT_STAT_STATE p) (if bits v 0 1 = 0 then 0 else if u.noId (bits v 4 4) then 6 else 1) := by
  rw [cleared]
  refine if_neg fun refused => ?_
  obtain active | reserved := refused
  · exact Bool.eq_false_iff.1 idle active
  · omega

/-- The states that FAB_PORT_CFG leaves a port in fit their field. -/
theorem portState_fits (off noId : Prop) [Decidable off] [Decidable noId] :
    (if off then 0 else if noId then 6 else 1) % 2 ^ 3 = if off then 0 else if noId then 6 else 1 := by
  split
  · rfl
  · split <;> rfl

end Cfg

theorem portTrainTimeout_of_training (training : s.portTraining p = true) :
    portTrainTimeout p s = (s.fset (FAB_PORT_STAT_STATE p) 1).noteHub 4 0 0 := if_pos training

/-! ## LMGMT (R355, R362) -/

theorem lmgmt_echo_of_up (up : s.portUp p = true) : lmgmt p .echo s = s.emit (.lmgmt p (.echoed 0 Config.turnaroundPs)) := if_pos up

theorem lmgmt_echoed_of_up {rtt turn : Nat} (up : s.portUp p = true) :
    lmgmt p (.echoed rtt turn) s = s.fset (FAB_PORT_DELAY_DELAY_PS p) ((rtt - turn) / 2) := if_pos up

section Check
variable {node role peer lanes lit win : Nat} {sw beat tincan : Bool} (training : s.portTraining p = true)
  (shared : lit = maskAnd (lanes % 16) (s.litLanes p)) (two : 2 ≤ laneCount lit)
include training shared two

theorem lmgmt_check_of_noId (noId : s.noId (s.fget (FAB_PORT_CFG_ROLE p)) = true) :
    lmgmt p (.check node role peer sw beat lanes tincan win) s = s.fset (FAB_PORT_STAT_STATE p) 6 := by
  subst shared
  rw [lmgmt, if_neg (by simp [training]; omega), if_pos noId]

/-- A port with an identity answers with its own role check, shows its peer, and judges it. -/
theorem lmgmt_check_of_id (id : s.noId (s.fget (FAB_PORT_CFG_ROLE p)) = false)
    (shown : u = (s.emit (.lmgmt p (s.ownCheck p lit))).fsets [(FAB_PORT_STAT_PEER_NODE p, if sw then 0xFFFF else node),
      (FAB_PORT_STAT_PEER_ROLE p, role), (FAB_PORT_STAT_PEER_SWITCH p, b2n sw), (FAB_PORT_STAT_PEER_BEAT p, b2n beat)]) :
    lmgmt p (.check node role peer sw beat lanes tincan win) s =
      if u.roleMatches (u.fget (FAB_PORT_CFG_ROLE p)) node role sw then u.portComesUp p lit peer tincan win
      else (u.fset (FAB_PORT_STAT_STATE p) 5).noteHub 9 (u.node + node * 65536) 0 := by
  subst shared shown
  rw [lmgmt, if_neg (by simp [training]; omega), if_neg (by simp [id])]

end Check

/-! ## The port that comes up (R351, R359) -/

section Up
variable {lit peer win : Nat} {tincan : Bool}

theorem State.port_portComesUp : (u.portComesUp p lit peer tincan win).port p =
    { Port.idle with credits := fabCredits, adTincan := tincan, adWin := win, eccCount := (u.port p).eccCount, peerPort := peer
                     recalAt := u.fget EVR_OPSEC_SECONDS } :=
  (State.port_fsets _ _ p).trans (State.port_updPort_self ..)

theorem State.fget_portComesUp_lanes : (u.portComesUp p lit peer tincan win).fget (FAB_PORT_STAT_LANES_UP p) = lit % 16 :=
  State.fget_fsets_append_cons (s := u.updPort p _) [] [(FAB_PORT_STAT_STATE p, _)] (FAB_PORT_STAT_LANES_UP p) lit
    (by simp [Fld.key, FAB_PORT_STAT_LANES_UP, FAB_PORT_STAT_STATE])

theorem State.fget_portComesUp_state : (u.portComesUp p lit peer tincan win).fget (FAB_PORT_STAT_STATE p) = if laneCount lit = 4 then 2 else 3 := by
  refine (State.fget_fsets_append_cons (s := u.updPort p _) [(FAB_PORT_STAT_LANES_UP p, lit)] [] (FAB_PORT_STAT_STATE p) _
    (by simp)).trans ?_
  split <;> rfl

theorem State.out_portComesUp : (u.portComesUp p lit peer tincan win).out = u.out ++ [.lmgmt p .echo] := rfl

end Up

end BringUp

/-- The seconds of the operation counter are no field of a port. -/
theorem EVR_OPSEC_ne_port (p : Nat) {f : Fld} (port : f.reg = FAB_PORT_STAT p) : EVR_OPSEC_SECONDS.key ≠ f.key := by
  simp only [Fld.key, port, EVR_OPSEC_SECONDS, EVR_OPSEC, FAB_PORT_STAT]
  omega

/-- Settles O38: each command of the bring-up by the state of its port, and what a port that comes up holds. -/
theorem portBringUp : Obligations.PortBringUp := by
  unfold Obligations.PortBringUp
  refine ⟨fun s p v refused => congrArg _ (fabPortCfg_of_refused refused), fun s u p v idle role cleared => ?_,
    fun s p training => congrArg _ (portTrainTimeout_of_training training),
    fun s p rtt turn up => ⟨congrArg _ (lmgmt_echoed_of_up up), congrArg _ (lmgmt_echo_of_up up)⟩,
    fun s u p node role peer lanes lit win sw beat tincan training shared two =>
      ⟨fun noId => congrArg _ (lmgmt_check_of_noId training shared two noId), fun id shown => ?_⟩⟩
  · refine ⟨_, congrArg Host.Outcome.next (fabPortCfg_of_taken idle role cleared), ?_⟩
    rw [State.fget_fset_self]
    exact ⟨congrArg _ (portState_fits ..).symm, portState_fits ..⟩
  · have judged := lmgmt_check_of_id (peer := peer) (tincan := tincan) (win := win) training shared two id shown
    have clock : u.fget EVR_OPSEC_SECONDS = s.fget EVR_OPSEC_SECONDS := by
      rw [shown]
      refine State.fget_fsets_ne _ _ fun e he => ?_
      simp only [List.mem_cons, List.not_mem_nil, or_false] at he
      obtain rfl | rfl | rfl | rfl := he <;> exact EVR_OPSEC_ne_port p rfl
    refine ⟨fun match_ => ⟨_, congrArg Host.Outcome.next (judged.trans (if_pos match_)), ?_, State.fget_portComesUp_lanes, State.fget_portComesUp_state, ?_⟩,
      fun differs => congrArg _ (judged.trans (if_neg (Bool.eq_false_iff.1 differs)))⟩
    · rw [State.port_portComesUp, clock, shown, State.port_fsets]
      rfl
    · rw [State.out_portComesUp, shown]
      exact List.append_assoc s.out [_] [_]

end Sys2Proof.Machine
end


section
/-! The lanes of the fabric ports, their recalibration, and the optical engines (R360 to R367). -/
namespace Sys2Proof.Machine

section Lanes
variable {s u : State} {p : Nat}

/-! ## Lanes that leave (R360, R361) -/

theorem laneLoss_of_carried (lanes : Nat) : laneLoss p lanes false s = s.loseLanes p (lanes % 16) := rfl

section Lose
variable {mask left : Nat} (up : s.portUp p = true) (lost : left = maskMinus (s.fget (FAB_PORT_STAT_LANES_UP p)) mask)
  (some_ : left ≠ s.fget (FAB_PORT_STAT_LANES_UP p))
include up lost some_

theorem State.loseLanes_of_two (two : 2 ≤ laneCount left) : s.loseLanes p mask =
    (s.record { code := Code.fabLaneFail.num, unit := unitPort p, log := mask }).fsets
      [(FAB_PORT_STAT_LANES_UP p, left), (FAB_PORT_STAT_STATE p, 3)] := by
  subst lost
  unfold State.loseLanes
  rw [if_neg (by simp [up, some_]), if_neg (by omega)]

theorem State.loseLanes_of_fewer (fewer : laneCount left < 2) : s.loseLanes p mask =
    (s.record { code := Code.fabLaneFail.num, unit := unitPort p, log := mask }).portDown p := by
  subst lost
  unfold State.loseLanes
  rw [if_neg (by simp [up, some_]), if_pos fewer]

end Lose

theorem State.loseLanes_of_none {mask : Nat} (same : maskMinus (s.fget (FAB_PORT_STAT_LANES_UP p)) mask = s.fget (FAB_PORT_STAT_LANES_UP p)) :
    s.loseLanes p mask = s := if_pos (Or.inr same)

theorem laneLoss_of_beatLost (carries : s.beatPorts.contains p = true)
    (same : maskMinus (s.fget (FAB_PORT_STAT_LANES_UP p)) 0 = s.fget (FAB_PORT_STAT_LANES_UP p)) : laneLoss p 0 true s = s.portDown p := by
  unfold laneLoss
  rw [State.loseLanes_of_none same]
  exact if_pos (by rw [carries]; rfl)

/-! ## Recalibration (R363 to R365) -/

section Due
variable (free : (s.port p).offered = none) (may : s.mayRecal p = true) (schedules : s.schedules p = true)
  (unbooked : s.fget (FAB_PORT_RECAL_BEAT p) = 0)
include free may schedules unbooked

theorem laneRecalDue_of_early {l : Nat} (early : (s.port p).early = some l) :
    laneRecalDue p s = ((s.updPort p fun q => { q with early := none }).fset (FAB_PORT_RECAL_LANE p) l).bookLane p := by
  unfold laneRecalDue
  simp only [free]
  rw [if_neg (by simp [may, schedules, unbooked])]
  simp only [early]

theorem laneRecalDue_of_time (early : (s.port p).early = none) : laneRecalDue p s = if s.laneTime p then s.bookLane p else s := by
  unfold laneRecalDue
  simp only [free]
  rw [if_neg (by simp [may, schedules, unbooked])]
  simp only [early]

end Due

theorem laneRecalDue_of_offered {l : Nat} (offered : (s.port p).offered = some l) (taken : u = s.updPort p (fun q => { q with offered := none }))
    (may : u.mayRecal p = true) : laneRecalDue p s = (u.fset (FAB_PORT_RECAL_LANE p) l).laneLeaves p := by
  subst taken
  unfold laneRecalDue
  simp only [offered]
  rw [if_pos may]

theorem State.laneLeaves_eq : s.laneLeaves p =
    (s.updPort p fun q => { q with laneOut := some (s.fget (FAB_PORT_RECAL_LANE p)), laneRetry := false }).fsetBit
      (FAB_PORT_STAT_LANES_UP p) (s.fget (FAB_PORT_RECAL_LANE p)) false := rfl

theorem State.bookLane_of_idle (idle : s.runningParts = []) : s.bookLane p = s.laneLeaves p := by
  unfold State.bookLane
  simp only [idle]

theorem State.bookLane_of_running (running : s.runningParts ≠ []) :
    s.bookLane p = (s.each s.runningParts fun s q => s.book q 3 p 0).offerLane p := by
  unfold State.bookLane
  split
  · contradiction
  · rfl

section Offer
variable {domain beat lane : Nat} {ps : List Nat} (up : s.portUp p = true)
  (freed : u = s.each allParts (fun s q => if (s.booked q 3 p).isSome then
    s.updPart q fun x => { x with books := x.books.filter fun b => !(b.kind == 3 && b.unit == p) } else s))
  (able : ps = u.runningParts.filter (fun q => u.domId q == some domain && decide (u.beat q + 2 ≤ beat)))
include up freed able

theorem recalOffer_of_up : recalOffer p domain beat lane s =
    if ps = [] then (u.updPort p fun q => { q with offered := some lane }).fset (FAB_PORT_RECAL_BEAT p) 0
    else (u.each ps fun s q => s.updPart q fun x => { x with books := insertBooking ⟨beat, 3, p⟩ x.books }).fsets
      [(FAB_PORT_RECAL_BEAT p, beat), (FAB_PORT_RECAL_LANE p, lane)] := by
  subst freed able
  exact if_neg (by simp [up])

end Offer

section RecalEnd
variable {l : Nat} (out : (s.port p).laneOut = some l)
include out

theorem laneRecalEnd_of_ok : laneRecalEnd p true s = ((s.nextLane p).fsetBit (FAB_PORT_STAT_LANES_UP p) l true).sendEcho p := by
  unfold laneRecalEnd
  simp only [out, if_true]

theorem laneRecalEnd_of_first (first : (s.port p).laneRetry = false) : laneRecalEnd p false s = s.updPort p fun q => { q with laneRetry := true } := by
  unfold laneRecalEnd
  simp only [out, first, if_true, Bool.false_eq_true, if_false]

theorem laneRecalEnd_of_again (again : (s.port p).laneRetry = true) :
    laneRecalEnd p false s = ((s.nextLane p).fsetBit (FAB_PORT_STAT_LANES_UP p) l true).loseLanes p (2 ^ l) := by
  unfold laneRecalEnd
  simp only [out, again, Bool.true_eq_false, Bool.false_eq_true, if_false]

end RecalEnd

/-! ## The optical engines (R366, R367) -/

theorem firewallViolation_of_isolated {e addr : Nat} (isolated : s.fget (FAB_OE_STATE e) = 3) : firewallViolation e addr s = s := if_pos isolated

/-- A violation is counted and recorded; the 16th isolates the engine. -/
theorem firewallViolation_of_live {e : Fin 4} {addr : Nat} (counted : u = (s.fadd (FAB_OE_VIOL e) 1).noteHub 8 0 addr)
    (live : s.fget (FAB_OE_STATE e) ≠ 3) : firewallViolation e addr s =
      if u.fget (FAB_OE_VIOL e) = 16 then ((u.fset (FAB_OE_STATE e) 3).engineDark e).resetEndpoint (.opticalEngine e) else u := by
  subst counted
  unfold firewallViolation
  rw [if_neg live, Fin.ofNat_val_eq_self]

theorem engineFail_of_up {e : Nat} (up : s.fget (FAB_OE_STATE e) = 2) : engineFail e s = (s.fset (FAB_OE_STATE e) 4).engineDark e :=
  if_pos (beq_iff_eq.2 up)

theorem key_STATE_ne_TEMP_C (e : Nat) : (FAB_OE_STATE e).key ≠ (FAB_OE_TEMP_C e).key :=
  Fld.key_ne_of_lsb (by simp [FAB_OE_STATE, FAB_OE_TEMP_C]) (by simp [FAB_OE_STATE]) (by simp [FAB_OE_TEMP_C])

theorem engineReady_of_failed {e : Fin 4} {c : Nat} (failed : s.fget (FAB_OE_STATE e) = 4)
    (alive : ∀ x ∈ s.deadLinks, ∀ m, x ≠ .engine e m) : engineReady e c s = (s.fset (FAB_OE_TEMP_C e) c).fset (FAB_OE_STATE e) 2 := by
  refine if_pos ⟨(State.fget_fset_ne _ (key_STATE_ne_TEMP_C e) c).trans failed, ?_⟩
  rw [List.any_eq_false]
  intro x mem hit
  split at hit
  · exact alive _ mem _ (congrArg (DieLink.engine · _) (Fin.ext (beq_iff_eq.1 hit)))
  · exact Bool.false_ne_true hit

end Lanes

/-- Settles O39: each command by the state of its port or engine. -/
theorem lanesAndEngines : Obligations.LanesAndEngines := by
  unfold Obligations.LanesAndEngines
  refine ⟨fun s p lanes left up lost some_ => ?_, fun s p _ carries same => congrArg _ (laneLoss_of_beatLost carries same),
    fun s p free may schedules unbooked => ?_, fun s u p l offered taken may => congrArg _ (laneRecalDue_of_offered offered taken may),
    fun s p => ⟨fun idle => State.bookLane_of_idle idle, State.bookLane_of_running⟩,
    fun s u p domain beat lane ps up freed able => ?_, fun s p l out => ?_, fun s u e addr counted => ?_,
    fun s e up => congrArg _ (engineFail_of_up up), fun s e c failed alive => congrArg _ (engineReady_of_failed failed alive)⟩
  · exact ⟨_, rfl, fun two => congrArg _ (State.loseLanes_of_two up lost some_ two),
      fun fewer => congrArg _ (State.loseLanes_of_fewer up lost some_ fewer)⟩
  · refine ⟨fun l early => congrArg _ (laneRecalDue_of_early free may schedules unbooked early), fun early due => ?_, fun early wait => ?_⟩
    · exact congrArg _ ((laneRecalDue_of_time free may schedules unbooked early).trans (if_pos due))
    · exact congrArg _ ((laneRecalDue_of_time free may schedules unbooked early).trans (if_neg (Bool.eq_false_iff.1 wait)))
  · have offer := recalOffer_of_up (lane := lane.val) up freed able
    exact ⟨fun some_ => congrArg _ (offer.trans (if_neg some_)), fun none => congrArg _ (offer.trans (if_pos none))⟩
  · exact ⟨congrArg _ (laneRecalEnd_of_ok out), fun first => congrArg _ (laneRecalEnd_of_first out first),
      fun again => congrArg _ (laneRecalEnd_of_again out again)⟩
  · exact ⟨fun isolated => congrArg _ (firewallViolation_of_isolated isolated),
      fun live few => congrArg _ ((firewallViolation_of_live counted live).trans (if_neg few)),
      fun live many => congrArg _ ((firewallViolation_of_live counted live).trans (if_pos many))⟩

end Sys2Proof.Machine
end


section
/-! Result checking: comparisons, rotations, handovers and suites (R300 to R315). -/
namespace Sys2Proof.Machine

section Checks
variable {s t : State} {r : Nat}

/-! ## Duplicate execution (R301, R305) -/

theorem dupCompare_of_cons {twin kind : Nat} {d : Dup} {l : List Dup} {wrong : List (Nat × Byte)} (oldest : (s.region r).queue twin kind = d :: l)
    (counted : t = (s.updRegion r fun q => { q with dups := q.dups.erase d }).dupCount r kind) :
    dupCompare r twin kind wrong s = if crc64 (d.unit.replay wrong) = d.unit.digest then t else t.dupMismatch r d := by
  subst counted
  simp only [dupCompare, oldest]

theorem State.dupMismatch_of_logged {d : Dup} (logged : s.fget (RGN_DUP_LOG_VALID r) = 1) (worker : d.worker < 42) : s.dupMismatch r d =
    ((s.suspect r d.twin).suspect r d.worker).raise (((s.suspect r d.twin).suspect r d.worker).regionPart r) .dupMismatch
      { unit := if d.kind = 2 then unitRegion r else unitSlot r d.slot, log := ((s.suspect r d.twin).suspect r d.worker).dupLog r
        tag := d.tag, addr := d.beat } := by
  have valid : s.flag (RGN_DUP_LOG_VALID r) = true := by rw [State.flag, logged]; rfl
  unfold State.dupMismatch
  rw [if_pos valid]
  dsimp only
  rw [if_pos worker]

/-! ## Rotations (R311) -/

theorem State.bookRotation_of_due (running : s.running (s.regionPart r) = true) (due : s.rotationDue r = true)
    (serves : s.fget (RGN_TWIN_PHASE_TWIN0_PHASE r) = 2) (unbooked : s.booked (s.regionPart r) 1 r = none)
    (settled : (s.region r).handover = none) : s.bookRotation r =
      (s.book (s.regionPart r) 1 r 0).fset (RGN_CAROUSEL_NEXT_BEAT r)
        ((((s.book (s.regionPart r) 1 r 0).booked (s.regionPart r) 1 r).map (·.beat)).getD 0) :=
  if_pos (by simp [running, due, serves, unbooked, settled])

/-! ## The end of a handover (R312) -/

theorem handoverOver_of_ok {k : Nat} (handed : (s.region r).handover = some k) :
    handoverOver r true s = ((s.rotate r k).releaseHeld (s.regionPart r) r k).unpark r k := by
  simp only [handoverOver, handoverEnd, handed, if_true]

theorem handoverOver_of_fail {k : Nat} (handed : (s.region r).handover = some k) : handoverOver r false s =
    ((((s.updRegion r fun q => { q with handover := none }).fset (RGN_TWIN_PHASE_TWIN0_PHASE r) 2).releaseHeld (s.regionPart r) r k).raise
      (s.regionPart r) .carouselFail { unit := unitSlot r k }).unpark r k := by
  simp only [handoverOver, handoverEnd, handed, Bool.false_eq_true, if_false]

/-! ## The registers of a rotation -/

/-- A suite that begins changes only the registers of the suites and the phases of the twins. -/
theorem State.fget_runSuite {core : Nat} {f : Fld} (passes : f.key ≠ (RGN_KAK_STAT_PASSES r).key) (suspects : f.key ≠ (RGN_SUSPECT_SUSPECT r).key)
    (phase0 : f.key ≠ (RGN_TWIN_PHASE_TWIN0_PHASE r).key) (phase1 : f.key ≠ (RGN_TWIN_PHASE_TWIN1_PHASE r).key) :
    (s.runSuite r core).fget f = s.fget f := by
  have counted : ∀ g : Region → Region,
      (((s.fadd (RGN_KAK_STAT_PASSES r) 1).fsetBit (RGN_SUSPECT_SUSPECT r) core false).updRegion r g).fget f = s.fget f := fun g =>
    (State.fget_fsetBit_ne _ suspects _ _).trans (State.fget_fadd_ne _ passes _)
  unfold State.runSuite
  split
  · unfold State.suitePass State.setPhase
    dsimp only
    split
    · split
      · exact (State.fget_fset_ne _ phase0 _).trans (counted _)
      split
      · exact (State.fget_fset_ne _ phase1 _).trans (counted _)
      · exact counted _
    · exact counted _
  · rfl

/-- The slot map and the twins stand below the registers that a rotation's bookkeeping writes. -/
def Fld.isPlace (f : Fld) (r : Nat) : Prop := f.key < RGN_CAROUSEL r * 64

section Low
variable {f : Fld} (low : f.isPlace r)
include low

theorem State.fget_runSuite_of_place (core : Nat) : (s.runSuite r core).fget f = s.fget f := by
  unfold Fld.isPlace RGN_CAROUSEL at low
  refine State.fget_runSuite ?_ ?_ ?_ ?_ <;>
    simp only [Fld.key, RGN_KAK_STAT_PASSES, RGN_KAK_STAT, RGN_SUSPECT_SUSPECT, RGN_SUSPECT, RGN_TWIN_PHASE_TWIN0_PHASE, RGN_TWIN_PHASE_TWIN1_PHASE,
      RGN_TWIN_PHASE] at low ⊢ <;>
    omega

/-- A rotation leaves the slot map and the twins as their exchange made them. -/
theorem State.fget_rotate_of_place (k : Nat) :
    (s.rotate r k).fget f = (s.swapTwin r k (s.slotCore r k) (s.fget (RGN_TWIN_IDS_TWIN0 r))).fget f := by
  refine (State.fget_runSuite_of_place low _).trans ((State.fget_fsets_ne _ _ fun e mem => ?_).trans rfl)
  unfold Fld.isPlace at low
  simp only [List.mem_cons, List.not_mem_nil, or_false] at mem
  obtain rfl | rfl | rfl := mem <;>
    simp only [Fld.key, RGN_CAROUSEL_NEXT_OUT, RGN_CAROUSEL_NEXT_BEAT, RGN_TWIN_PHASE_SINCE_S, RGN_TWIN_PHASE, RGN_CAROUSEL] at low ⊢ <;>
    omega

end Low

theorem State.fget_rotate_since (k : Nat) : (s.rotate r k).fget (RGN_TWIN_PHASE_SINCE_S r) = 0 := by
  refine (State.fget_runSuite ?_ ?_ ?_ ?_).trans (State.fget_fsets_append_cons
    (s := (s.swapTwin r k (s.slotCore r k) (s.fget (RGN_TWIN_IDS_TWIN0 r))).updRegion r _) [(RGN_CAROUSEL_NEXT_OUT r, _)]
    [(RGN_CAROUSEL_NEXT_BEAT r, 0)] (RGN_TWIN_PHASE_SINCE_S r) 0 ?_)
  all_goals
    simp only [List.forall_mem_cons, List.not_mem_nil, IsEmpty.forall_iff, implies_true, and_true, Fld.key, RGN_KAK_STAT_PASSES, RGN_KAK_STAT,
      RGN_SUSPECT_SUSPECT, RGN_SUSPECT, RGN_TWIN_PHASE_TWIN0_PHASE, RGN_TWIN_PHASE_TWIN1_PHASE, RGN_TWIN_PHASE, RGN_TWIN_PHASE_SINCE_S,
      RGN_CAROUSEL_NEXT_BEAT, RGN_CAROUSEL]
    omega

theorem slotMapFld_isPlace (k : Fin 40) : (slotMapFld r k).isPlace r := by
  have := k.isLt
  simp only [Fld.isPlace, Fld.key, slotMapFld, RGN_SLOT_MAP, RGN_CAROUSEL]
  omega

theorem RGN_TWIN_IDS_TWIN0_isPlace : (RGN_TWIN_IDS_TWIN0 r).isPlace r := by
  simp only [Fld.isPlace, Fld.key, RGN_TWIN_IDS_TWIN0, RGN_TWIN_IDS, RGN_CAROUSEL]
  omega

theorem RGN_TWIN_IDS_TWIN1_isPlace : (RGN_TWIN_IDS_TWIN1 r).isPlace r := by
  simp only [Fld.isPlace, Fld.key, RGN_TWIN_IDS_TWIN1, RGN_TWIN_IDS, RGN_CAROUSEL]
  omega

section Swap
variable {k : Fin 40} {w x : Nat}

theorem slotMapFld_ne_TWIN1 : (slotMapFld r k).key ≠ (RGN_TWIN_IDS_TWIN1 r).key := by
  have := k.isLt
  simp only [Fld.key, slotMapFld, RGN_SLOT_MAP, RGN_TWIN_IDS_TWIN1, RGN_TWIN_IDS]
  omega

theorem State.swapTwin_of_one (one : s.fget (RGN_TWIN_IDS_TWIN1 r) = 0x3F) : s.swapTwin r k w x =
    (s.fset (slotMapFld r k) x).fsets [(RGN_TWIN_IDS_TWIN0 r, w), (RGN_TWIN_PHASE_TWIN0_PHASE r, 1)] :=
  if_pos ((State.fget_fset_ne _ slotMapFld_ne_TWIN1.symm _).trans one)

theorem State.swapTwin_of_two (two : s.fget (RGN_TWIN_IDS_TWIN1 r) ≠ 0x3F) : s.swapTwin r k w x =
    (s.fset (slotMapFld r k) x).fsets [(RGN_TWIN_IDS_TWIN0 r, s.fget (RGN_TWIN_IDS_TWIN1 r)),
      (RGN_TWIN_PHASE_TWIN0_PHASE r, (s.fset (slotMapFld r k) x).fget (RGN_TWIN_PHASE_TWIN1_PHASE r)), (RGN_TWIN_IDS_TWIN1 r, w),
      (RGN_TWIN_PHASE_TWIN1_PHASE r, 1)] := by
  have same : (s.fset (slotMapFld r k) x).fget (RGN_TWIN_IDS_TWIN1 r) = s.fget (RGN_TWIN_IDS_TWIN1 r) :=
    State.fget_fset_ne _ slotMapFld_ne_TWIN1.symm _
  rw [← same] at two ⊢
  exact if_neg two

/-- Of the slot map an exchange writes the place of its slot only. -/
theorem State.slotCore_swapTwin (j : Fin 40) : (s.swapTwin r k w x).slotCore r j = (s.fset (slotMapFld r k) x).slotCore r j := by
  have := j.isLt
  by_cases one : s.fget (RGN_TWIN_IDS_TWIN1 r) = 0x3F
  · rw [State.swapTwin_of_one one]
    refine State.fget_fsets_ne _ _ ?_
    simp only [List.forall_mem_cons, List.not_mem_nil, IsEmpty.forall_iff, implies_true, and_true, Fld.key, slotMapFld, RGN_SLOT_MAP,
      RGN_TWIN_IDS_TWIN0, RGN_TWIN_IDS, RGN_TWIN_PHASE_TWIN0_PHASE, RGN_TWIN_PHASE]
    omega
  · rw [State.swapTwin_of_two one]
    refine State.fget_fsets_ne _ _ ?_
    simp only [List.forall_mem_cons, List.not_mem_nil, IsEmpty.forall_iff, implies_true, and_true, Fld.key, slotMapFld, RGN_SLOT_MAP,
      RGN_TWIN_IDS_TWIN0, RGN_TWIN_IDS_TWIN1, RGN_TWIN_IDS, RGN_TWIN_PHASE_TWIN0_PHASE, RGN_TWIN_PHASE_TWIN1_PHASE, RGN_TWIN_PHASE]
    omega

theorem State.twin0_swapTwin_of_one (one : s.fget (RGN_TWIN_IDS_TWIN1 r) = 0x3F) : (s.swapTwin r k w x).fget (RGN_TWIN_IDS_TWIN0 r) = w % 64 := by
  rw [State.swapTwin_of_one one]
  refine State.fget_fsets_append_cons (s := s.fset (slotMapFld r k) x) [] [(RGN_TWIN_PHASE_TWIN0_PHASE r, 1)] (RGN_TWIN_IDS_TWIN0 r) w ?_
  simp only [List.forall_mem_cons, List.not_mem_nil, IsEmpty.forall_iff, implies_true, and_true, Fld.key, RGN_TWIN_IDS_TWIN0, RGN_TWIN_IDS,
    RGN_TWIN_PHASE_TWIN0_PHASE, RGN_TWIN_PHASE]
  omega

theorem State.twins_swapTwin_of_two (two : s.fget (RGN_TWIN_IDS_TWIN1 r) ≠ 0x3F) :
    (s.swapTwin r k w x).fget (RGN_TWIN_IDS_TWIN0 r) = s.fget (RGN_TWIN_IDS_TWIN1 r) % 64 ∧
    (s.swapTwin r k w x).fget (RGN_TWIN_IDS_TWIN1 r) = w % 64 := by
  rw [State.swapTwin_of_two two]
  have nodup : (([(RGN_TWIN_IDS_TWIN0 r, s.fget (RGN_TWIN_IDS_TWIN1 r)),
      (RGN_TWIN_PHASE_TWIN0_PHASE r, (s.fset (slotMapFld r k) x).fget (RGN_TWIN_PHASE_TWIN1_PHASE r)), (RGN_TWIN_IDS_TWIN1 r, w),
      (RGN_TWIN_PHASE_TWIN1_PHASE r, 1)] : List (Fld × Nat)).map fun e => e.1.key).Nodup := by
    simp only [List.map_cons, List.map_nil, List.nodup_cons, List.mem_cons, List.not_mem_nil, or_false, List.nodup_nil, not_false_eq_true, and_true,
      Fld.key, RGN_TWIN_IDS_TWIN0, RGN_TWIN_IDS_TWIN1, RGN_TWIN_IDS, RGN_TWIN_PHASE_TWIN0_PHASE, RGN_TWIN_PHASE_TWIN1_PHASE, RGN_TWIN_PHASE]
    omega
  exact ⟨State.fget_fsets_of_nodup nodup (.head _), State.fget_fsets_of_nodup nodup (.tail _ (.tail _ (.head _)))⟩

end Swap

section Rotate
variable {k : Fin 40}

/-- The older twin takes the slot. -/
theorem State.slotCore_rotate_self : (s.rotate r k).slotCore r k = s.fget (RGN_TWIN_IDS_TWIN0 r) % 64 :=
  (State.fget_rotate_of_place (slotMapFld_isPlace k) k).trans ((State.slotCore_swapTwin k).trans (State.fget_fset_self ..))

theorem State.slotCore_rotate_ne {j : Fin 40} (other : j ≠ k) : (s.rotate r k).slotCore r j = s.slotCore r j := by
  refine (State.fget_rotate_of_place (slotMapFld_isPlace j) k).trans ((State.slotCore_swapTwin j).trans (State.fget_fset_ne _ ?_ _))
  have : j.val ≠ k.val := fun same => other (Fin.ext same)
  simp only [Fld.key, slotMapFld, RGN_SLOT_MAP]
  omega

theorem State.twin0_rotate_of_one (one : s.fget (RGN_TWIN_IDS_TWIN1 r) = 0x3F) :
    (s.rotate r k).fget (RGN_TWIN_IDS_TWIN0 r) = s.slotCore r k % 64 :=
  (State.fget_rotate_of_place RGN_TWIN_IDS_TWIN0_isPlace k).trans (State.twin0_swapTwin_of_one one)

theorem State.twins_rotate_of_two (two : s.fget (RGN_TWIN_IDS_TWIN1 r) ≠ 0x3F) :
    (s.rotate r k).fget (RGN_TWIN_IDS_TWIN0 r) = s.fget (RGN_TWIN_IDS_TWIN1 r) % 64 ∧
    (s.rotate r k).fget (RGN_TWIN_IDS_TWIN1 r) = s.slotCore r k % 64 := by
  rw [State.fget_rotate_of_place RGN_TWIN_IDS_TWIN0_isPlace k, State.fget_rotate_of_place RGN_TWIN_IDS_TWIN1_isPlace k]
  exact State.twins_swapTwin_of_two two

end Rotate

/-! ## The end of a suite (R308, R314) -/

theorem suiteEnd_of_runs {core : Nat} {stored : List Nat} {outs : List (List Byte)} (runs : mget? (s.region r).suites core = some stored)
    (judged : t = if outs.map crc64 = stored then s.suitePass r core else s.suiteFail r core) :
    suiteEnd r core outs s =
      if t.pstate (s.regionPart r) = 2 ∧ s.testing (s.regionPart r) = true ∧ t.testing (s.regionPart r) = false then t.goOn (s.regionPart r) else t := by
  subst judged
  simp only [suiteEnd, runs]

end Checks

/-- Settles O43: the exchange of a rotation by its fields, and each command by what its region holds. -/
theorem checkingRuns : Obligations.CheckingRuns := by
  unfold Obligations.CheckingRuns
  refine ⟨fun s t r twin kind d l oldest counted wrong => ?_, fun u => rfl,
    fun s r d logged worker => State.dupMismatch_of_logged logged worker,
    fun s r running due serves unbooked settled => congrArg _ (State.bookRotation_of_due running due serves unbooked settled),
    fun s r k handed => ⟨congrArg _ (handoverOver_of_ok handed), congrArg _ (handoverOver_of_fail handed)⟩,
    fun s r k => ⟨State.slotCore_rotate_self, State.fget_rotate_since _, State.twins_rotate_of_two, State.twin0_rotate_of_one,
      fun j => State.slotCore_rotate_ne⟩,
    fun s r core stored outs runs => ⟨fun quiet => ?_, fun t testing judged => ?_⟩⟩
  · have compared := dupCompare_of_cons (wrong := wrong) oldest counted
    exact ⟨fun same => congrArg _ (compared.trans (if_pos same)), fun differs => congrArg _ (compared.trans (if_neg differs))⟩
  · have ended : suiteEnd r core outs s = if outs.map crc64 = stored then s.suitePass r core else s.suiteFail r core :=
      (suiteEnd_of_runs runs rfl).trans (if_neg (by simp [quiet]))
    exact ⟨fun same => congrArg _ (ended.trans (if_pos same)), fun differs => congrArg _ (ended.trans (if_neg differs))⟩
  · refine congrArg _ ((suiteEnd_of_runs runs judged).trans ?_)
    simp only [testing, true_and]

end Sys2Proof.Machine
end


section
/-! How GlaetLink comes up and goes down (R395, R398, R401, R414, R415). -/
namespace Sys2Proof.Machine

/-- A record of an event is appended, or counted as lost (R437, R438). -/
theorem State.record_recorded (s : State) (e : Event) : Recorded s (s.record e) e := by
  unfold Recorded
  split
  case isTrue full =>
    refine ⟨(State.record_recs s e).trans (if_pos full), ?_⟩
    rw [State.record, if_pos full]
    exact State.fget_fadd_self s EVR_STAT_DROPPED 1
  case isFalse room => exact (State.record_recs s e).trans (if_neg room)

section LinkUp
variable {s r t : State} {h : GlkHead}

/-! ## A message that comes while the link trains -/

theorem State.glkUp_of_training (training : s.fget GLK_STAT_STATE = 1) : s.glkUp = false := by
  rw [State.glkUp, training]
  rfl

theorem State.glkAccept_of_follows {n : Nat} {ok : Bool} {k : State → State} (follows : s.glk.follows h = true) (conforms : ok = true) :
    s.glkAccept h n ok k = k (s.glkTake h n) := by
  rw [State.glkAccept, if_neg (by simp [follows]), if_neg (by simp [conforms])]

theorem State.glkAccept_of_misfit {n : Nat} {ok : Bool} {k : State → State} (training : s.fget GLK_STAT_STATE = 1)
    (follows : s.glk.follows h = true) (misfit : ok = false) : s.glkAccept h n ok k = s.glkTrainFail := by
  rw [State.glkAccept, if_neg (by simp [follows]), if_pos misfit, if_neg (by simp [State.glkUp_of_training training])]

/-! ## CAPS and CREDIT_INIT (R395, R401) -/

theorem capsIn_of_training {data : List Byte} (training : s.fget GLK_STAT_STATE = 1) (first : s.glk.capsSeen = false)
    (follows : s.glk.follows h = true) (mgmt : headMgmt h = true) (fits : headFits h data.length = true)
    (taken : t = (s.glkTake h (slotsOf data.length)).tick.updGlk (fun g => { g with capsSeen := true, seqTx := 2 })) :
    capsIn data h s = (t.emit (.glk ⟨0, t.glk.lastRx, false, 0, 0, some { GlkMsg.bare 7 0 0 with data := natLe 8 t.free.toNat }⟩)).emit
      (.glk ⟨1, t.glk.lastRx, false, 0, 0, some { GlkMsg.bare 7 1 0 with data := glkBuffers.flatMap (natLe 2) }⟩) := by
  rw [taken, capsIn, if_pos ⟨training, first⟩, State.glkAccept_of_follows follows (by rw [mgmt, fits]; rfl)]

theorem capsIn_of_misfit {data : List Byte} (training : s.fget GLK_STAT_STATE = 1) (first : s.glk.capsSeen = false)
    (follows : s.glk.follows h = true) (misfit : headMgmt h = false) : capsIn data h s = s.glkTrainFail := by
  rw [capsIn, if_pos ⟨training, first⟩, State.glkAccept_of_misfit training follows (by rw [misfit]; rfl)]

section Credits
variable {lanes : Nat} {credits : List Nat} (training : s.fget GLK_STAT_STATE = 1) (caps : s.glk.capsSeen = true)
  (follows : s.glk.follows h = true)
include training caps follows

theorem creditInit_of_conforms (mgmt : headMgmt h = true) :
    creditInit lanes credits h s = (s.glkTake h (slotsOf (headBytes h))).glkComesUp lanes credits := by
  rw [creditInit, if_neg (by simp [training, caps]), State.glkAccept_of_follows follows mgmt]

theorem creditInit_of_misfit (misfit : headMgmt h = false) : creditInit lanes credits h s = s.glkTrainFail := by
  rw [creditInit, if_neg (by simp [training, caps]), State.glkAccept_of_misfit training follows misfit]

end Credits

section ComesUp
variable {lanes : Nat} {credits : List Nat}

theorem State.glkComesUp_of_few (few : glkLanes lanes < r.glk.minLanes ∨ ∃ c ∈ leastCredits, credits.getD c.1 0 < c.2) :
    r.glkComesUp lanes credits = r.glkTrainFail :=
  if_pos (few.imp_right fun ⟨c, mem, less⟩ => List.any_eq_true.2 ⟨c, mem, decide_eq_true less⟩)

section Enough
variable (up : t = ((r.fsets [(GLK_STAT_LANES_UP, lanes), (GLK_STAT_STATE, if glkLanes lanes = 16 then 2 else 3)]).updGlk
    fun g => { g with credits := (List.range 8).map fun c => (c, credits.getD c 0), lost := false }).glkDrain)
include up

theorem State.glkComesUp_of_enough (enough : r.glk.minLanes ≤ glkLanes lanes) (paid : ∀ c ∈ leastCredits, c.2 ≤ credits.getD c.1 0) :
    r.glkComesUp lanes credits = if r.glk.lost then (t.fadd GLK_STAT_DOWNS 1).noteHub 0xB 0 0 else t := by
  subst up
  refine (if_neg ?_).trans ?_
  · rintro (few | poor)
    · omega
    · obtain ⟨c, mem, less⟩ := List.any_eq_true.1 poor
      exact absurd (paid c mem) (Nat.not_le.2 (of_decide_eq_true less))
  · dsimp only
    rw [State.fsets_glk]

theorem fget_of_glkComesUp (f : Fld) :
    t.fget f = (r.fsets [(GLK_STAT_LANES_UP, lanes), (GLK_STAT_STATE, if glkLanes lanes = 16 then 2 else 3)]).fget f := by
  rw [up]
  exact (State.glkDrain_only _).fget f

theorem lanesUp_of_glkComesUp (bound : lanes < 65536) : t.fget GLK_STAT_LANES_UP = lanes := by
  rw [fget_of_glkComesUp up]
  exact (State.fget_fsets_append_cons (s := r) [] [(GLK_STAT_STATE, _)] GLK_STAT_LANES_UP lanes (by
    simp [Fld.key, GLK_STAT_LANES_UP, GLK_STAT_STATE])).trans (Nat.mod_eq_of_lt bound)

theorem state_of_glkComesUp : t.fget GLK_STAT_STATE = if glkLanes lanes = 16 then 2 else 3 := by
  rw [fget_of_glkComesUp up]
  refine (State.fget_fset_self (s := r.fset GLK_STAT_LANES_UP lanes) GLK_STAT_STATE _).trans ?_
  split <;> rfl

theorem glkUp_of_glkComesUp : t.glkUp = true := by
  rw [State.glkUp, state_of_glkComesUp up]
  split <;> rfl

end Enough

end ComesUp

/-! ## Link down (R414) -/

theorem State.state_glkTrain (s : State) : s.glkTrain.fget GLK_STAT_STATE = 1 :=
  (State.fget_fsets_append_cons (s := s) [] [(GLK_STAT_LANES_UP, 0)] GLK_STAT_STATE 1 (by
    simp [Fld.key, GLK_STAT_LANES_UP, GLK_STAT_STATE])).trans rfl

theorem State.lanes_glkTrain (s : State) : s.glkTrain.fget GLK_STAT_LANES_UP = 0 :=
  State.fget_fset_self (s := s.fset GLK_STAT_STATE 1) GLK_STAT_LANES_UP 0

theorem State.glk_glkTrain (s : State) :
    s.glkTrain.glk = { Glk.reset with lost := s.glk.lost, nextTag := s.glk.nextTag, minLanes := s.fget GLK_CTRL_MIN_LANES } := by
  have same : (s.fsets [(GLK_STAT_STATE, 1), (GLK_STAT_LANES_UP, 0)]).glk = s.glk := State.fsets_glk ..
  rw [State.glkTrain, State.updGlk, same]

/-- A link that goes down begins to train with the mark that it was lost. -/
theorem State.glkDown_trains (s : State) : ∃ t : State, t.glk.lost = true ∧ s.glkDown = t.glkTrain := ⟨_, rfl, rfl⟩

theorem downNotice_of_mgmt (comes : MsgComes s t h (slotsOf (headBytes h))) (mgmt : headMgmt h = true) : downNotice h s = t.glkDown := by
  rw [downNotice, State.glkIn_of_comes comes, if_pos mgmt]

theorem downNotice_of_misfit (comes : MsgComes s t h (slotsOf (headBytes h))) (misfit : headMgmt h = false) : downNotice h s = s.glkDown := by
  rw [downNotice, State.glkIn_of_comes comes, if_neg (Bool.eq_false_iff.1 misfit)]

/-! ## ECHO (R399) -/

theorem echo_of_mgmt {data : List Byte} (comes : MsgComes s t h (slotsOf data.length)) (mgmt : headMgmt h = true)
    (fits : headFits h data.length = true) : echo data h s = (t.glkFree 7).glkPut { GlkMsg.bare 7 3 0 with data := data } := by
  rw [echo, State.glkIn_of_comes comes, if_pos (by rw [mgmt, fits]; rfl)]

end LinkUp

/-- Settles O45: each message by its head and the state of the link, and what a link that comes up or goes down holds. -/
theorem linkTrains : Obligations.LinkTrains := by
  unfold Obligations.LinkTrains
  refine ⟨fun s t data h training first follows mgmt fits taken => congrArg _ (capsIn_of_training training first follows mgmt fits taken),
    fun s r t lanes credits h training caps bound follows mgmt taken => ?_,
    fun s data h training follows misfit => ⟨fun first => congrArg _ (capsIn_of_misfit training first follows misfit),
      fun lanes credits caps => congrArg _ (creditInit_of_misfit training caps follows misfit)⟩,
    fun s training => ⟨congrArg _ (if_pos training), State.state_glkTrain _, State.record_recorded ..⟩,
    fun s t h comes => ⟨fun mgmt => ?_, fun misfit => ?_⟩, fun s => ?_, fun s t data h comes mgmt fits => ?_⟩
  · have answered : exec (.creditInit lanes credits h) s = .next (r.glkComesUp lanes credits) := by
      have masked : lanes % 65536 = lanes := Nat.mod_eq_of_lt bound
      rw [taken, ← creditInit_of_conforms training caps follows mgmt]
      exact congrArg (fun l => Host.Outcome.next (creditInit l credits h s)) masked
    refine ⟨fun few => answered.trans (congrArg _ (State.glkComesUp_of_few few)), fun enough paid up => ?_⟩
    have state := state_of_glkComesUp up
    refine ⟨glkUp_of_glkComesUp up, lanesUp_of_glkComesUp up bound, ?_, answered.trans (congrArg _ (State.glkComesUp_of_enough up enough paid))⟩
    rw [state]
    split <;> simp_all
  · exact congrArg Host.Outcome.next (downNotice_of_mgmt comes mgmt)
  · exact congrArg Host.Outcome.next (downNotice_of_misfit comes misfit)
  · obtain ⟨t, lost, down⟩ := s.glkDown_trains
    rw [down, State.glk_glkTrain]
    exact ⟨t.state_glkTrain, t.lanes_glkTrain, rfl, rfl, rfl, rfl, rfl, lost⟩
  · exact congrArg Host.Outcome.next (echo_of_mgmt comes mgmt fits)

end Sys2Proof.Machine
end


section
/-! GlaetLink while it is up: replay, retraining, credits and lanes (R353, R396, R401, R414). -/
namespace Sys2Proof.Machine

section Runs
variable {s t : State}

/-! ## Retraining and replay (R396) -/

theorem glkRetrainNow_of_up (up : s.glkUp = true) (settled : s.glk.retraining = false) : glkRetrainNow s = s.glkRetrain :=
  if_pos (by rw [up, settled]; rfl)

theorem State.retrain_glkRetrain : s.glkRetrain.fget GLK_CTRL_RETRAIN = 1 :=
  (State.fget_fadd_ne _ (by simp [Fld.key, GLK_CTRL_RETRAIN, GLK_STAT_RETRAINS, GLK_CTRL, GLK_STAT]) 1).trans (State.fget_fset_self ..)

theorem glkFlitDiscard_fec_of_up (up : s.glkUp = true) (counted : t = (s.fadd GLK_CNT0_FEC_UNCORR 1).updGlk (fun g => { g with nakSent := true })) :
    glkFlitDiscard .fec s = t.glkEmpty true 0 0 := by
  rw [counted]
  exact if_neg (Bool.not_eq_false _ ▸ up)

theorem glkFlitDiscard_crc_of_up (up : s.glkUp = true) (counted : t = (s.fadd GLK_CNT1_CRC_ERR 1).updGlk (fun g => { g with nakSent := true })) :
    glkFlitDiscard .crc s = t.glkEmpty true 0 0 := by
  rw [counted]
  exact if_neg (Bool.not_eq_false _ ▸ up)

theorem glkNak_of_up {ack : Nat} (up : s.glkUp = true) (acked : t = s.updGlk (fun g => { g.acked ack with naks := (g.acked ack).naks + 1 })) :
    glkNak ack s = if 8 ≤ t.glk.naks then t.glkRetrain else t.glkReplay := by
  rw [acked]
  exact if_neg (Bool.not_eq_false _ ▸ up)

theorem glkCreditReturn_of_up {ack cls n : Nat} (up : s.glkUp = true) : glkCreditReturn ack cls n s =
    (s.updGlk fun g => { g.acked ack with credits := mset g.credits cls (mgetD g.credits cls 0 + n) }).glkDrain.latesGo :=
  if_neg (Bool.not_eq_false _ ▸ up)

theorem State.glkAccept_of_gap {h : GlkHead} {n : Nat} {ok : Bool} {k : State → State} (gap : s.glk.follows h = false)
    (first : s.glk.nakSent = false) (ahead : (h.seq + 4096 - s.glk.seqRx) % 4096 < 2048) :
    s.glkAccept h n ok k = (s.updGlk fun g => { g with nakSent := true }).glkEmpty true 0 0 := by
  rw [State.glkAccept, if_pos gap, if_neg (by simp [first]; omega)]

theorem State.glkAccept_of_discard {h : GlkHead} {n : Nat} {ok : Bool} {k : State → State} (gap : s.glk.follows h = false)
    (asked : s.glk.nakSent = true) : s.glkAccept h n ok k = s := by
  rw [State.glkAccept, if_pos gap, if_pos (Or.inl asked)]

/-- An acknowledgement frees the flits up to the one that it names. -/
theorem Glk.unacked_acked {g : Glk} {a b : List (Nat × GlkMsg)} {e : Nat × GlkMsg} (held : g.unacked = a ++ e :: b) (before : ∀ x ∈ a, x.1 ≠ e.1) :
    (g.acked e.1).unacked = b := by
  have known : g.unacked.any (fun x => x.1 == e.1) = true := by simp [held]
  rw [Glk.acked, if_pos known]
  dsimp only
  rw [held, List.dropWhile_append_of_pos fun x mem => by simpa using before x mem]
  simp

/-! ## The end of a retraining (R396) -/

section RetrainEnd
variable (retraining : s.glk.retraining = true)
include retraining

theorem glkRetrainEnd_of_ok (ended : t = (s.updGlk fun g => { g with retraining := false, retrainFails := 0 }).fset GLK_CTRL_RETRAIN 0) :
    glkRetrainEnd true s = t.glkReplay.glkDrain := by
  rw [ended, glkRetrainEnd, if_neg (by simp [retraining]), if_pos rfl]

theorem glkRetrainEnd_of_fail (few : s.glk.retrainFails < 2) :
    glkRetrainEnd false s = (s.updGlk fun g => { g with retrainFails := g.retrainFails + 1 }).fadd GLK_STAT_RETRAINS 1 := by
  rw [glkRetrainEnd, if_neg (by simp [retraining]), if_neg Bool.false_ne_true, if_pos (by omega)]

theorem glkRetrainEnd_of_third (many : 2 ≤ s.glk.retrainFails) : glkRetrainEnd false s = s.glkDown := by
  rw [glkRetrainEnd, if_neg (by simp [retraining]), if_neg Bool.false_ne_true, if_neg (by omega)]

end RetrainEnd

/-! ## Lanes (R396, R414) -/

theorem glkLaneRecal_of_due {lane : Nat} (up : s.glkUp = true) (settled : s.glk.retraining = false) (alone : s.glk.laneOut = none)
    (due : s.glkLaneDue = some lane) : glkLaneRecal lane s =
      (s.updGlk fun g => { g with laneOut := some lane, laneRetry := false, laneNext := (lane + 1) % 16 }).fsetBit GLK_STAT_LANES_UP lane false :=
  if_pos (by simp [up, settled, alone, due])

section Lose
variable {mask left : Nat} (up : s.glkUp = true) (lost : left = maskMinus (s.fget GLK_STAT_LANES_UP) mask) (alone : s.glk.laneOut = none)
include up lost alone

theorem State.glkLoseLanes_of_few (few : left = 0 ∨ glkLanes left < s.glk.minLanes) : s.glkLoseLanes mask = s.glkDown := by
  subst lost
  unfold State.glkLoseLanes
  simp only [alone]
  rw [if_neg (by simp [up]), if_pos (by simpa [b2n] using few)]

theorem State.glkLoseLanes_of_enough (some_ : left ≠ 0) (enough : s.glk.minLanes ≤ glkLanes left) (fewer : left ≠ s.fget GLK_STAT_LANES_UP) :
    s.glkLoseLanes mask = (s.updGlk fun g => { g with laneOut := none, laneRetry := false }).fsets [(GLK_STAT_LANES_UP, left), (GLK_STAT_STATE, 3)] := by
  subst lost
  unfold State.glkLoseLanes
  simp only [alone]
  rw [if_neg (by simp [up]), if_neg (by simpa [b2n, some_] using enough)]
  exact if_neg fewer

end Lose

section RecalEnd
variable {lane : Nat} (out : s.glk.laneOut = some lane)
  (back : t = (s.updGlk fun g => { g with laneOut := none, laneRetry := false }).fsetBit GLK_STAT_LANES_UP lane true)
include out

theorem glkLaneRecalEnd_of_first (first : s.glk.laneRetry = false) :
    glkLaneRecalEnd lane false s = s.updGlk fun g => { g with laneRetry := true } := by
  rw [glkLaneRecalEnd, if_neg (not_not.2 out), if_neg Bool.false_ne_true, if_pos first]

include back

theorem glkLaneRecalEnd_of_ok : glkLaneRecalEnd lane true s = t := by
  rw [back, glkLaneRecalEnd, if_neg (not_not.2 out), if_pos rfl]

theorem glkLaneRecalEnd_of_again (again : s.glk.laneRetry = true) : glkLaneRecalEnd lane false s = t.glkLoseLanes (2 ^ lane) := by
  rw [back, glkLaneRecalEnd, if_neg (not_not.2 out), if_neg Bool.false_ne_true, if_neg (by simp [again])]

end RecalEnd

end Runs

/-- Settles O46: each command on a link that is up by what the link holds, and what a gap and an acknowledgement do. -/
theorem linkRuns : Obligations.LinkRuns := by
  unfold Obligations.LinkRuns
  refine ⟨fun s up => ⟨fun settled => ⟨congrArg Host.Outcome.next (glkRetrainNow_of_up up settled), State.retrain_glkRetrain, rfl, rfl⟩,
      fun t counted => congrArg Host.Outcome.next (glkFlitDiscard_fec_of_up up counted),
      fun t counted => congrArg Host.Outcome.next (glkFlitDiscard_crc_of_up up counted),
      fun ack t acked => ?_, fun ack cls n => congrArg Host.Outcome.next (glkCreditReturn_of_up up),
      fun lane settled alone due => congrArg Host.Outcome.next (glkLaneRecal_of_due up settled alone due), fun mask left bound lost alone => ?_⟩,
    fun s t retraining ended => ⟨congrArg Host.Outcome.next (glkRetrainEnd_of_ok retraining ended),
      fun few => congrArg Host.Outcome.next (glkRetrainEnd_of_fail retraining few),
      fun many => congrArg Host.Outcome.next (glkRetrainEnd_of_third retraining many)⟩,
    fun s t lane out back => ⟨congrArg Host.Outcome.next (glkLaneRecalEnd_of_ok out back),
      fun first => congrArg Host.Outcome.next (glkLaneRecalEnd_of_first out first),
      fun again => congrArg Host.Outcome.next (glkLaneRecalEnd_of_again out back again)⟩,
    fun s t replayed => replayed ▸ ⟨rfl, rfl⟩, fun s h n ok k gap first ahead => State.glkAccept_of_gap gap first ahead,
    fun s h n ok k gap asked => State.glkAccept_of_discard gap asked, fun g a b e held before => Glk.unacked_acked held before⟩
  · have nak := glkNak_of_up up acked
    exact ⟨fun few => congrArg Host.Outcome.next (nak.trans (if_neg (by omega))),
      fun many => congrArg Host.Outcome.next (nak.trans (if_pos many))⟩
  · have masked : exec (.glkLaneLoss mask) s = .next (s.glkLoseLanes mask) :=
      congrArg (fun m => Host.Outcome.next (s.glkLoseLanes m)) (Nat.mod_eq_of_lt bound)
    exact ⟨fun few => masked.trans (congrArg Host.Outcome.next (State.glkLoseLanes_of_few up lost alone few)),
      fun some_ enough fewer => masked.trans (congrArg Host.Outcome.next (State.glkLoseLanes_of_enough up lost alone some_ enough fewer))⟩

end Sys2Proof.Machine
end


section
/-! The companion's reads and writes over GlaetLink (R40, R329, R331, R406 to R410). -/
namespace Sys2Proof.Machine

section Access
variable {s r t u : State} {tag a size : Nat} {data : List Byte} {phys : ReadUpset} {h : GlkHead}

/-! ## Which accesses are performed, kept behind a snoop, or held by a handover (R40, R406) -/

theorem glkRd_of_comes (comes : MsgComes s r h 1) (clear : h.rsv = false) (short : h.size ≤ 5) :
    glkRd tag a size phys h s = r.takeAccess ⟨tag, a, size, none, phys⟩ := by
  rw [glkRd, State.glkIn_of_comes comes, if_pos (by rw [clear, decide_eq_true short]; rfl)]

theorem glkWr_of_comes (comes : MsgComes s r h (1 + slotsOf data.length)) (fits : headFits h data.length = true) :
    glkWr tag a data phys h s = r.takeAccess ⟨tag, a, data.length, some data, phys⟩ := by
  rw [glkWr, State.glkIn_of_comes comes, if_pos fits]

theorem State.takeAccess_of_snoop {x : Parked} (snoop : r.glk.behindSnoop = true) : r.takeAccess x = r.keepLate (.access x) := if_pos snoop

theorem State.takeAccess_of_handover {x : Parked} (clear : r.glk.behindSnoop = false) (live : r.fatal = false) (moves : r.inHandover x.addr = true) :
    r.takeAccess x = r.updGlk fun g => { g with parked := g.parked ++ [x] } :=
  (if_neg (Bool.eq_false_iff.1 clear)).trans (if_pos ⟨live, moves⟩)

theorem State.takeAccess_of_settled {x : Parked} (clear : r.glk.behindSnoop = false) (settled : r.inHandover x.addr = false) :
    r.takeAccess x = r.servePark x :=
  (if_neg (Bool.eq_false_iff.1 clear)).trans (if_neg fun ⟨_, moves⟩ => Bool.eq_false_iff.1 settled moves)

/-! ## Reads (R407, R410) -/

section Read

theorem State.serveRead_of_regError {e : Nat × Bool} (registers : target a = .registers) (error : t.regError a size false = some e) :
    t.serveRead tag a size phys = (t.regFailed a e).answerErr tag e.1 := by
  simp only [State.serveRead, registers, error, if_true]

theorem State.serveRead_of_reg (registers : target a = .registers) (fine : t.regError a size false = none) :
    t.serveRead tag a size phys = t.answerData tag (t.regBytes a size) := by
  simp only [State.serveRead, registers, fine, if_true]

section Memory
variable (memory : target a ≠ .registers)
include memory

theorem State.serveRead_of_memError {e : Nat × Bool} (error : t.memError a size false = some e) :
    t.serveRead tag a size phys = (t.regFailed a e).answerErr tag e.1 := by
  simp only [State.serveRead, memory, error, if_false]

theorem State.serveRead_of_memory {corrected : Bool} (fine : t.memError a size false = none) (whole : wordStruck phys a size = none)
    (reads : (t.strike phys).readRanges [(a, size)] = (u, corrected)) :
    t.serveRead tag a size phys = if corrected then u.answerData tag (u.windowLoad a size) else u.answerErr tag 6 := by
  simp only [State.serveRead, memory, fine, whole, reads, if_false]

end Memory

end Read

/-! ## Writes (R329, R331, R407) -/

section Write

theorem State.serveWrite_of_reg (registers : target a = .registers) (writes : t.regWrite a data.length (leNat data) = (u, none)) :
    t.serveWrite tag a data phys = u.answerAck tag := by
  simp only [State.serveWrite, registers, writes, if_true]

theorem State.serveWrite_of_regError {e : Nat} (registers : target a = .registers) (writes : t.regWrite a data.length (leNat data) = (u, some e)) :
    t.serveWrite tag a data phys = u.answerErr tag e := by
  simp only [State.serveWrite, registers, writes, if_true]

section Memory
variable (memory : target a ≠ .registers)
include memory

theorem State.serveWrite_of_memError {e : Nat × Bool} (error : t.memError a data.length true = some e) :
    t.serveWrite tag a data phys = (t.regFailed a e).answerErr tag e.1 := by
  simp only [State.serveWrite, memory, error, if_false]

variable (fine : t.memError a data.length true = none)
include fine

theorem State.serveWrite_of_memory (writes : (t.strike phys).writeRange a data.length = (u, none)) :
    t.serveWrite tag a data phys = (u.store a data .resync).answerAck tag := by
  simp only [State.serveWrite, memory, fine, writes, if_false]

theorem State.serveWrite_of_uncorrectable {sec : Nat} (writes : (t.strike phys).writeRange a data.length = (u, some sec)) :
    t.serveWrite tag a data phys = (u.raise (partOfDram u.layout sec) .memUncorr (u.uncorrCause sec)).answerErr tag 6 := by
  simp only [State.serveWrite, memory, fine, writes, if_false]

end Memory

end Write

/-! ## Reasons (R407 to R410) -/

section Reasons
variable {write : Bool}

theorem State.memError_of_fatal (fatal : s.fatal = true) : s.memError a size write = some (5, false) := if_pos fatal

theorem State.memError_of_unmapped (nothing : target a = .unmapped ∨ target a = .companion) (live : s.fatal = false) :
    s.memError a size write = some (1, true) := by
  unfold State.memError
  obtain unmapped | companion := nothing
  · simp only [live, unmapped, Bool.false_eq_true, if_false]
  · simp only [live, companion, Bool.false_eq_true, if_false]

theorem memSizeOk_iff : memSizeOk a size = true ↔ (size = 8 ∨ size = 16 ∨ size = 32 ∨ size = 64 ∨ size = 128) ∧ a % size = 0 := by
  simp [memSizeOk]

/-- DRAM of a share that answers is accessed in 8 to 128 bytes, naturally aligned. -/
theorem State.memError_dram_iff (live : s.fatal = false) (dram : target a = .dram) (answers : s.dramRefuses a = false) :
    s.memError a size write = none ↔ memSizeOk a size = true := by
  simp only [State.memError, live, dram, answers, Bool.false_eq_true, if_false]
  cases memSizeOk a size <;> simp

end Reasons

end Access

/-- Settles O48: each access by its target and what its address meets. -/
theorem companionAccess : Obligations.CompanionAccess := by
  unfold Obligations.CompanionAccess
  refine ⟨fun s r t tag a size phys h comes clear short free settled freed => ?_, fun s r tag a size data phys h free live moves => ?_,
    fun s r tag a size data phys h snoop => ?_, fun s r t tag a data phys h comes fits free settled freed => ?_,
    fun s a size write nothing live => State.memError_of_unmapped nothing live, fun s a size write fatal => State.memError_of_fatal fatal,
    fun s a size write live dram answers => (State.memError_dram_iff live dram answers).trans memSizeOk_iff⟩
  · have served : exec (.glkRd tag a size phys h) s = .next (t.serveRead tag a size phys) := by
      rw [freed]
      exact congrArg Host.Outcome.next ((glkRd_of_comes comes clear short).trans (State.takeAccess_of_settled free settled))
    refine ⟨fun registers e error => ?_, fun registers fine => ?_, fun memory e error => ?_,
      fun memory fine whole => ⟨fun u reads => ?_, fun u reads => ?_⟩⟩
    · rw [served, State.serveRead_of_regError registers error]
    · rw [served, State.serveRead_of_reg registers fine]
    · rw [served, State.serveRead_of_memError memory error]
    · rw [served, State.serveRead_of_memory memory fine whole reads, if_pos rfl]
    · rw [served, State.serveRead_of_memory memory fine whole reads, if_neg Bool.false_ne_true]
  · exact ⟨fun comes clear short => congrArg Host.Outcome.next ((glkRd_of_comes comes clear short).trans (State.takeAccess_of_handover free live moves)),
      fun comes fits => congrArg Host.Outcome.next ((glkWr_of_comes comes fits).trans (State.takeAccess_of_handover free live moves))⟩
  · exact ⟨fun comes clear short => congrArg Host.Outcome.next ((glkRd_of_comes comes clear short).trans (State.takeAccess_of_snoop snoop)),
      fun comes fits => congrArg Host.Outcome.next ((glkWr_of_comes comes fits).trans (State.takeAccess_of_snoop snoop))⟩
  · have served : exec (.glkWr tag a data phys h) s = .next (t.serveWrite tag a data phys) := by
      rw [freed]
      exact congrArg Host.Outcome.next ((glkWr_of_comes comes fits).trans (State.takeAccess_of_settled free settled))
    refine ⟨fun registers u writes => ?_, fun registers u e writes => ?_, fun memory e error => ?_,
      fun memory fine => ⟨fun u writes => ?_, fun u sec writes => ?_⟩⟩
    · rw [served, State.serveWrite_of_reg registers writes]
    · rw [served, State.serveWrite_of_regError registers writes]
    · rw [served, State.serveWrite_of_memError memory error]
    · rw [served, State.serveWrite_of_memory memory fine writes]
    · rw [served, State.serveWrite_of_uncorrectable memory fine writes]

end Sys2Proof.Machine
end


section
/-! Mailboxes: words that are sent, taken and lost (R444 to R449). -/
namespace Sys2Proof.Machine

/-! ## Queues -/

@[simp] theorem Chan.queue_setQueue_self (q : Chan) (d : Dir) (l : List (Nat × Nat)) : (q.setQueue d l).queue d = l := by cases d <;> rfl

theorem Chan.queue_setQueue_ne (q : Chan) (l : List (Nat × Nat)) : ∀ {d e : Dir}, e ≠ d → (q.setQueue d l).queue e = q.queue e
  | .toA, .toB, _ => rfl
  | .toB, .toA, _ => rfl
  | .toA, .toA, other => absurd rfl other
  | .toB, .toB, other => absurd rfl other

section Words
variable {s t : State} {c : Nat} {d : Dir} {word stamp : Nat}

@[simp] theorem State.chan_updChan_self (s : State) (c : Nat) (f : Chan → Chan) : (s.updChan c f).chan c = f (s.chan c) := by
  simp [State.chan, State.updChan]

theorem State.chan_updChan_ne {e : Nat} (other : e ≠ c) (s : State) (f : Chan → Chan) : (s.updChan c f).chan e = s.chan e := by
  simp [State.chan, State.updChan, other]

/-! ## Words sent (R445, R446, R448) -/

theorem State.mboxSend_of_reset (reset : s.inReset (receiver c d) = true) :
    s.mboxSend c d word stamp = (s.fadd (MBX_STAT_LOST c) 1).mboxTimeout c d := if_pos reset

section Ready
variable (ready : s.inReset (receiver c d) = false)
include ready

theorem State.mboxSend_of_full (full : 16 ≤ ((s.chan c).queue d).length) : s.mboxSend c d word stamp = s.mboxOvf c d :=
  (if_neg (Bool.eq_false_iff.1 ready)).trans (if_pos full)

variable (room : ((s.chan c).queue d).length < 16)
include room

theorem State.mboxSend_of_room : s.mboxSend c d word stamp = s.updChan c fun q => q.setQueue d (q.queue d ++ [(word % 2 ^ 64, stamp)]) :=
  (if_neg (Bool.eq_false_iff.1 ready)).trans (if_neg (Nat.not_le.2 room))

theorem State.queue_mboxSend_self : ((s.mboxSend c d word stamp).chan c).queue d = (s.chan c).queue d ++ [(word % 2 ^ 64, stamp)] := by
  rw [State.mboxSend_of_room ready room, State.chan_updChan_self, Chan.queue_setQueue_self]

theorem State.queue_mboxSend_ne {c' : Nat} {d' : Dir} (other : (c', d') ≠ (c, d)) :
    ((s.mboxSend c d word stamp).chan c').queue d' = (s.chan c').queue d' := by
  rw [State.mboxSend_of_room ready room]
  by_cases channel : c' = c
  · subst channel
    rw [State.chan_updChan_self, Chan.queue_setQueue_ne _ _ fun same => other (congrArg _ same)]
  · rw [State.chan_updChan_ne channel]

end Ready

theorem mbxTx_of_companion (companion : companionChannel c = true) : mbxTx c word s = s.mboxSend c .toB word (endpointUnit .companion) :=
  if_pos companion

section Message
variable {r : State} {h : GlkHead} (comes : MsgComes s r h 2) (fits : headFits h 8 = true)
include comes fits

theorem mboxWord_of_clear (companion : companionChannel c = true) (clear : r.glk.behindSnoop = false) :
    mboxWord c word h s = (r.glkFree 6).mboxSend c .toB word (endpointUnit .companion) := by
  rw [mboxWord, State.glkIn_of_comes (n := slotsOf 8) comes, if_pos fits, if_neg (Bool.eq_false_iff.1 clear)]
  exact if_pos companion

theorem mboxWord_of_snoop (snoop : r.glk.behindSnoop = true) : mboxWord c word h s = r.keepLate (.word c word) := by
  rw [mboxWord, State.glkIn_of_comes (n := slotsOf 8) comes, if_pos fits, if_pos snoop]

end Message

theorem endpointWordSend_of_dir {e : Endpoint} (dir : sendDir e c = some d) (device : e ≠ .companion) (ready : s.inReset e = false) :
    endpointWordSend e c word s = s.mboxSend c d word (endpointUnit e) := by
  unfold endpointWordSend
  rw [if_neg (by simp [device, ready])]
  simp only [dir]

/-- A word of an optical engine for a channel that is not its own is a violation (R366). -/
theorem endpointWordSend_of_engine {e : Fin 4} (none : sendDir (.opticalEngine e) c = none) (ready : s.inReset (.opticalEngine e) = false) :
    endpointWordSend (.opticalEngine e) c word s = firewallViolation e 0 s := by
  unfold endpointWordSend
  rw [if_neg (by simp [ready])]
  simp only [none]

/-! ## Words taken (R445, R447) -/

theorem mboxDeliver_of_cons {w : Nat} {l : List (Nat × Nat)} (oldest : (s.chan c).toA = (w, stamp) :: l) (companion : companionChannel c = true)
    (up : s.glkUp = true) (credit : s.glk.canSend 6 = true) :
    mboxDeliver c s = (s.glkPut { GlkMsg.bare 6 0 0 with arg := c, data := natLe 8 w }).mboxRemove c .toA := by
  simp only [mboxDeliver, oldest, companion, up, credit, Bool.and_self, if_true]

theorem wordRemove_of_free (channel : mbxChannelExists c = true) (device : receiver c d ≠ .companion) (ready : s.inReset (receiver c d) = false)
    (free : s.mboxHeld c = false) : wordRemove c d s = s.mboxRemove c d := if_pos (by simp [channel, device, ready, free])

theorem State.mboxRemove_of_cons {x : Nat × Nat} {l : List (Nat × Nat)} (oldest : (s.chan c).queue d = x :: l)
    (taken : t = s.updChan c (fun q => q.setQueue d l)) : s.mboxRemove c d = if l = [] then t.mboxEmpty c d else t := by
  rw [taken]
  simp only [State.mboxRemove, oldest]

theorem mbxTimeoutEvent_of_limit (channel : mbxChannelExists c = true) (waits : (s.chan c).queue d ≠ []) (limit : s.mboxLimit c d ≠ some 0) :
    mbxTimeoutEvent c d s = s.mboxTimeout c d := if_neg (by simp [channel, waits, limit])

end Words

/-- Settles O49: a word by its receiver's state and queue. -/
theorem mailboxesRun : Obligations.MailboxesRun := by
  unfold Obligations.MailboxesRun
  refine ⟨fun s c word companion => ⟨congrArg _ (mbxTx_of_companion companion), fun r h comes fits =>
      ⟨fun clear => congrArg _ (mboxWord_of_clear comes fits companion clear), fun snoop => congrArg _ (mboxWord_of_snoop comes fits snoop)⟩⟩,
    fun s e c word none ready => congrArg _ (endpointWordSend_of_engine none ready),
    fun s e c word d dir device ready => congrArg _ (endpointWordSend_of_dir dir device ready),
    fun s c word stamp d => ⟨State.mboxSend_of_reset, State.mboxSend_of_full, fun ready room =>
      ⟨State.queue_mboxSend_self ready room, fun c' d' => State.queue_mboxSend_ne ready room⟩⟩,
    fun s c w stamp l oldest companion up credit => congrArg _ (mboxDeliver_of_cons oldest companion up credit),
    fun s c d channel device ready free => congrArg _ (wordRemove_of_free channel device ready free),
    fun s t c d x l oldest taken => ⟨?_, State.mboxRemove_of_cons oldest taken⟩,
    fun s c d channel waits limit => congrArg _ (mbxTimeoutEvent_of_limit channel waits limit),
    fun s e => ⟨fun device => congrArg _ (if_neg device), rfl, by simp⟩⟩
  rw [taken, State.chan_updChan_self, Chan.queue_setQueue_self]

end Sys2Proof.Machine
end


section
/-! The memory stacks and the dies: scrubbing, recalibration passes, and loss of a die or module (R330 to R338, R426 to R430). -/
namespace Sys2Proof.Machine

section Stacks
variable {s t u : State} {m : Nat}

/-! ## Scrubbing (R330, R332, R338) -/

theorem scrubRead_of_out {errs : List (Nat × Byte)} (up : s.stackUp m = true) (out : (s.stack m).outPc.contains (pcOf ((s.stack m).scrub * 64)) = true) :
    scrubRead m errs s = s.scrubOn m :=
  (if_neg (Bool.not_eq_false _ ▸ up)).trans (if_pos out)

section Read
variable {addr a : Nat} {errs : List (Nat × Byte)} (up : s.stackUp m = true) (next : addr = (s.stack m).scrub * 64)
  (serves : (s.stack m).outPc.contains (pcOf addr) = false) (place : a = dpaOfStack s.layout m addr) (struck : t = s.strike [(a, errs)])
include up next serves place struck

theorem scrubRead_of_correctable (correctable : sectorDecode (t.errsAt a) ≠ .uncorrectable) :
    scrubRead m errs s = (t.readSector a true).1.scrubOn m := by
  subst next place struck
  unfold scrubRead
  dsimp only
  rw [if_neg (Bool.not_eq_false _ ▸ up), if_neg (Bool.eq_false_iff.1 serves)]
  split
  · contradiction
  · rfl

section Uncorrectable
variable (lost : sectorDecode (t.errsAt a) = .uncorrectable)
include lost

theorem scrubRead_of_known (known : (t.region (m / 3)).bad.contains a = true) : scrubRead m errs s = t.scrubOn m := by
  subst next place struck
  unfold scrubRead
  rw [if_neg (Bool.not_eq_false _ ▸ up), if_neg (Bool.eq_false_iff.1 serves)]
  simp only [lost, known, if_true]

/-- A sector that cannot be corrected is logged, faults its partition and enters the list of its region. -/
theorem scrubRead_of_new (new : (t.region (m / 3)).bad.contains a = false)
    (raised : u = (t.logUncorr a true).raise (partOfDram t.layout a) .memUncorr (t.uncorrCause a)) :
    scrubRead m errs s = (if (u.region (m / 3)).bad.length < 64 then u.updRegion (m / 3) (fun q => { q with bad := q.bad ++ [a] }) else u).scrubOn m := by
  subst next place struck raised
  unfold scrubRead
  rw [if_neg (Bool.not_eq_false _ ▸ up), if_neg (Bool.eq_false_iff.1 serves)]
  simp only [lost, new, Bool.false_eq_true, if_false]

end Uncorrectable

end Read

theorem State.scrubOn_of_more (more : ((s.stack m).scrub + 1) * 64 < stackSize) :
    s.scrubOn m = s.updStack m fun k => { k with scrub := (s.stack m).scrub + 1 } := if_pos more

theorem State.scrubOn_of_last (last : stackSize ≤ ((s.stack m).scrub + 1) * 64) : s.scrubOn m =
    ((s.fadd (MEM_SCRUB_PASSES (m / 3)) 1).updStack m fun k => { k with scrub := 0, noted := [] }).updRegion (m / 3) fun q =>
      { q with watch := q.watch.filter fun e => e.1.1 != m } := if_neg (Nat.not_lt.2 last)

/-! ## Recalibration (R335 to R338) -/

section Recal
variable (up : s.stackUp m = true) (rests : (s.stack m).pass = none) (due : s.passDue m = true)
include up rests due

theorem recalDue_of_idle (idle : (s.partsOfStack m).filter s.running = []) :
    recalDue m s = if s.passRuns (m / 3) then s.updStack m fun k => { k with waits := true } else s.startPass m := by
  unfold recalDue
  rw [if_neg (by simp [up, rests, due])]
  simp only [idle]

theorem recalDue_of_running {p : Nat} {ps : List Nat} (running : (s.partsOfStack m).filter s.running = p :: ps) : recalDue m s =
    s.each (p :: ps) fun s p => if (s.booked p 2 m).isSome then s else s.book p 2 m (s.afterPasses p (m / 3)) := by
  unfold recalDue
  rw [if_neg (by simp [up, rests, due])]
  simp only [running]

end Recal

section Visit

theorem visitStart_of_some {v i : Nat} (pass : (s.stack m).pass = some v) (rests : (s.stack m).visit = none)
    (next : nextVisit (s.stack m) v = some i) : visitStart m s = s.updStack m fun k => { k with pass := some i, visit := some i } := by
  simp only [visitStart, pass, rests, next]

theorem visitStart_of_none {v : Nat} (pass : (s.stack m).pass = some v) (rests : (s.stack m).visit = none)
    (last : nextVisit (s.stack m) v = none) : visitStart m s = s.endPass m := by
  simp only [visitStart, pass, rests, last]

variable {i : Nat} {spare : Bool} (visits : (s.stack m).visit = some i)
include visits

theorem visitEnd_of_ok : visitEnd m true spare s = (s.spareRow m i spare).advancePass m i := by
  simp only [visitEnd, visits, if_true]

theorem visitEnd_of_first (first : (s.stack m).retry = false) :
    visitEnd m false spare s = s.updStack m fun k => { k with visit := none, retry := true } := by
  simp only [visitEnd, visits, first, if_true, Bool.false_eq_true, if_false]

theorem visitEnd_of_again (again : (s.stack m).retry = true)
    (left : t = (s.updStack m fun k => { k with outPc := k.outPc ++ [i] }).advancePass m i) :
    visitEnd m false spare s = t.each (t.partsOfStack m) fun s p => s.raise p .memTrain { unit := unitStack m } := by
  subst left
  simp only [visitEnd, visits, again, Bool.true_eq_false, Bool.false_eq_true, if_false]

end Visit

/-! ## Dies and modules (R426, R429, R430) -/

section Module
variable {l : DieLink} {a b : Nat}

theorem d2dRetry_of_few (live : s.gated l = false) (row : a < 16) (second : b ≤ 65536) : d2dRetry l a b s = s.fadd HUB_D2D_CNT_RETRIES 1 := by
  rw [d2dRetry, if_neg (Bool.eq_false_iff.1 live), if_neg (by omega)]

theorem d2dRetry_of_many (live : s.gated l = false) (many : 16 ≤ a ∨ 65536 < b) (settled : s.retraining.contains l = false) :
    d2dRetry l a b s = { (s.fadd HUB_D2D_CNT_RETRIES 1).fadd HUB_D2D_CNT_RETRAINS 1 with retraining := s.retraining ++ [l] } := by
  rw [d2dRetry, if_neg (Bool.eq_false_iff.1 live), if_pos ⟨many, settled⟩]
  rfl

theorem moduleRetrainEnd_of_retraining {ok : Bool} (retraining : s.retraining.contains l = true)
    (ended : t = { s with retraining := s.retraining.filter (· != l) }) : moduleRetrainEnd l ok s = if ok then t else t.persist l := by
  rw [ended, moduleRetrainEnd, if_pos retraining]

end Module

end Stacks

/-- Settles O51: each command by the state of its stack, die or module. -/
theorem memoryAndDies : Obligations.MemoryAndDies := by
  unfold Obligations.MemoryAndDies
  refine ⟨fun s t m addr a errs up next serves place struck => ⟨fun correctable => ?_, fun lost known => ?_, fun u lost new raised => ?_⟩,
    fun s m errs up out => congrArg Host.Outcome.next (scrubRead_of_out up out), fun s t m went => ⟨fun more => ?_, fun last => ?_⟩,
    fun s m up rests due => ⟨fun idle free => ?_, fun idle runs => ?_, fun p ps running =>
      congrArg Host.Outcome.next (recalDue_of_running up rests due running)⟩,
    fun s m v pass rests => ⟨fun i next => congrArg Host.Outcome.next (visitStart_of_some pass rests next),
      fun last => congrArg Host.Outcome.next (visitStart_of_none pass rests last)⟩,
    fun s m i spare visits => ⟨congrArg Host.Outcome.next (visitEnd_of_ok visits),
      fun first => congrArg Host.Outcome.next (visitEnd_of_first visits first),
      fun again => congrArg Host.Outcome.next (visitEnd_of_again visits again rfl)⟩,
    fun s d => ⟨fun live => congrArg Host.Outcome.next (if_neg (Bool.eq_false_iff.1 live)), fun gone => congrArg Host.Outcome.next (if_pos gone)⟩,
    fun s l a b live => ⟨fun row second => congrArg Host.Outcome.next (d2dRetry_of_few live row second),
      fun many settled => congrArg Host.Outcome.next (d2dRetry_of_many live many settled)⟩,
    fun s t l retraining ended => ⟨congrArg Host.Outcome.next (moduleRetrainEnd_of_retraining (ok := true) retraining ended),
      congrArg Host.Outcome.next (moduleRetrainEnd_of_retraining (ok := false) retraining ended)⟩⟩
  · exact congrArg Host.Outcome.next (scrubRead_of_correctable up next serves place struck correctable)
  · exact congrArg Host.Outcome.next (scrubRead_of_known up next serves place struck lost known)
  · exact congrArg Host.Outcome.next (scrubRead_of_new up next serves place struck lost new raised)
  · rw [went, State.scrubOn_of_more more, State.stack_updStack_self]
    exact ⟨rfl, rfl⟩
  · rw [went, State.scrubOn_of_last last, State.stack_updRegion, State.stack_updStack_self]
    exact ⟨rfl, State.fget_fadd_self s (MEM_SCRUB_PASSES (m / 3)) 1⟩
  · exact congrArg Host.Outcome.next ((recalDue_of_idle up rests due idle).trans (if_neg (Bool.eq_false_iff.1 free)))
  · exact congrArg Host.Outcome.next ((recalDue_of_idle up rests due idle).trans (if_pos runs))

end Sys2Proof.Machine
end


section
/-! Power, droop and temperature (R450 to R461). -/
namespace Sys2Proof.Machine

/-- A change made in turn for the members of a list keeps what it keeps for each of them. -/
theorem State.each_keeps_of_mem {α β : Type} {f : State → β} {l : List α} {g : State → α → State} (h : ∀ x ∈ l, ∀ s, f (g s x) = f s) (s : State) :
    f (s.each l g) = f s := by
  unfold State.each
  induction l generalizing s with
  | nil => rfl
  | cons x t ih => exact (ih (fun y mem => h y (List.mem_cons_of_mem _ mem)) _).trans (h x (List.mem_cons_self ..) s)

section Rails
variable {s : State} {i : Nat}

/-! ## Rails (R451) -/

/-- A poll changes of the registers those of its own rail. -/
theorem State.fget_pollRail_ne {f : Fld} (other : f.reg ≠ PWR_RAIL i) (inside : f.lsb < 64) (x : Option (Nat × Nat)) :
    (s.pollRail i x).fget f = s.fget f := by
  have apart : ∀ g : Fld, g.reg = PWR_RAIL i → g.lsb < 64 → f.key ≠ g.key := fun g rail bit =>
    Fld.key_ne_of_reg (by rw [rail]; exact other) inside bit
  match x with
  | some (mv, da) =>
    refine State.fget_fsets_ne _ _ fun e mem => ?_
    simp only [List.mem_cons, List.not_mem_nil, or_false] at mem
    obtain rfl | rfl | rfl := mem
    · exact apart (PWR_RAIL_STATE i) rfl (by simp [PWR_RAIL_STATE])
    · exact apart (PWR_RAIL_VOUT_MV i) rfl (by simp [PWR_RAIL_VOUT_MV])
    · exact apart (PWR_RAIL_IOUT_DA i) rfl (by simp [PWR_RAIL_IOUT_DA])
  | none =>
    exact (State.fget_fset_ne _ (apart (PWR_RAIL_STATE i) rfl (by simp [PWR_RAIL_STATE])) _).trans
      (State.fget_fadd_ne _ (apart (PWR_RAIL_MISSES i) rfl (by simp [PWR_RAIL_MISSES])) _)

section Answer
variable {mv da : Nat}

theorem State.fget_pollRail_some : (s.pollRail i (some (mv, da))).fget (PWR_RAIL_STATE i) = 0 ∧
    (s.pollRail i (some (mv, da))).fget (PWR_RAIL_VOUT_MV i) = mv % 2 ^ 16 ∧ (s.pollRail i (some (mv, da))).fget (PWR_RAIL_IOUT_DA i) = da % 2 ^ 16 := by
  have nodup : (([(PWR_RAIL_STATE i, 0), (PWR_RAIL_VOUT_MV i, mv), (PWR_RAIL_IOUT_DA i, da)] : List (Fld × Nat)).map fun e => e.1.key).Nodup := by
    simp only [List.map_cons, List.map_nil, List.nodup_cons, List.mem_cons, List.not_mem_nil, or_false, List.nodup_nil, not_false_eq_true, and_true,
      Fld.key, PWR_RAIL_STATE, PWR_RAIL_VOUT_MV, PWR_RAIL_IOUT_DA, PWR_RAIL]
    omega
  exact ⟨State.fget_fsets_of_nodup nodup (.head _), State.fget_fsets_of_nodup nodup (.tail _ (.head _)),
    State.fget_fsets_of_nodup nodup (.tail _ (.tail _ (.head _)))⟩

end Answer

theorem State.state_pollRail_none : (s.pollRail i none).fget (PWR_RAIL_STATE i) = if 20 ≤ mgetD s.power.missRow i 0 + 1 then 2 else 1 := by
  refine (State.fget_fset_self (s := s.fadd (PWR_RAIL_MISSES i) 1) (PWR_RAIL_STATE i) _).trans ?_
  split <;> rfl

theorem State.misses_pollRail_none : (s.pollRail i none).fget (PWR_RAIL_MISSES i) = satAdd 16 (s.fget (PWR_RAIL_MISSES i)) 1 :=
  (State.fget_fset_ne _ (Fld.key_ne_of_lsb (by simp [PWR_RAIL_MISSES, PWR_RAIL_STATE]) (by simp [PWR_RAIL_MISSES]) (by simp [PWR_RAIL_STATE])) _).trans
    (State.fget_fadd_self s (PWR_RAIL_MISSES i) 1)

theorem State.missRow_pollRail_none : mgetD (s.pollRail i none).power.missRow i 0 = mgetD s.power.missRow i 0 + 1 :=
  (mgetD_mset ..).trans (if_pos rfl)

/-- What the registers of a rail show after a poll that brought the answer `x`. -/
def State.showsRail (s : State) (i : Nat) (x : Option (Nat × Nat)) : Prop :=
  (∀ mv da, x = some (mv, da) → s.fget (PWR_RAIL_STATE i) = 0 ∧ s.fget (PWR_RAIL_VOUT_MV i) = mv % 2 ^ 16 ∧ s.fget (PWR_RAIL_IOUT_DA i) = da % 2 ^ 16) ∧
    (x = none → s.fget (PWR_RAIL_STATE i) = 1 ∨ s.fget (PWR_RAIL_STATE i) = 2)

theorem State.showsRail_congr {t : State} {x : Option (Nat × Nat)} (same : ∀ f : Fld, f.reg = PWR_RAIL i → f.lsb < 64 → t.fget f = s.fget f)
    (shows : s.showsRail i x) : t.showsRail i x := by
  unfold State.showsRail at shows ⊢
  rwa [same (PWR_RAIL_STATE i) rfl (by simp [PWR_RAIL_STATE]), same (PWR_RAIL_VOUT_MV i) rfl (by simp [PWR_RAIL_VOUT_MV]),
    same (PWR_RAIL_IOUT_DA i) rfl (by simp [PWR_RAIL_IOUT_DA])]

theorem State.showsRail_pollRail (s : State) (i : Nat) : ∀ x, (s.pollRail i x).showsRail i x
  | some (mv, da) => ⟨fun _ _ same => by cases same; exact State.fget_pollRail_some, fun miss => nomatch miss⟩
  | none => by
    refine ⟨fun _ _ same => (nomatch same), fun _ => ?_⟩
    rw [State.state_pollRail_none]
    split
    · exact .inr rfl
    · exact .inl rfl

/-- After the poll of every rail each shows its answer. -/
theorem State.showsRail_each (s : State) (l : List Nat) (reads : List (Option (Nat × Nat))) :
    ∀ i ∈ l, (s.each l fun s i => s.pollRail i (reads.getD i none)).showsRail i (reads.getD i none) := by
  refine State.each_all (P := fun s i => s.showsRail i (reads.getD i none)) (fun s i => s.showsRail_pollRail i _) (fun s i j shows => ?_) l s
  by_cases same : i = j
  · exact same ▸ s.showsRail_pollRail i _
  · refine State.showsRail_congr (fun f rail inside => State.fget_pollRail_ne ?_ inside _) shows
    rw [rail, PWR_RAIL, PWR_RAIL]
    omega

/-! ## Energy (R461) -/

/-- The rails and the sequence number stand below the energies. -/
def Fld.belowEnergy (f : Fld) : Prop := f.key < PWR_ETOTAL_VALUE.key

section Below
variable {f : Fld} (below : f.belowEnergy)
include below

theorem State.fget_addEnergy_of_below {g : Fld} (energy : PWR_ETOTAL_VALUE.key ≤ g.key) (e : Nat) : (s.addEnergy g e).fget f = s.fget f :=
  State.fget_fset_ne _ (Nat.ne_of_lt (Nat.lt_of_lt_of_le below energy)) _

theorem State.fget_railEnergy_of_below (act : List (Nat × List (Nat × Nat))) : (s.railEnergy i act).fget f = s.fget f := by
  refine (State.fget_addEnergy_of_below below (Nat.le_refl _) _).trans ((State.fget_addEnergy_of_below below ?_ _).trans ?_)
  · simp [Fld.key, PWR_ETOTAL_VALUE, PWR_ETOTAL, PWR_EOVH_VALUE, PWR_EOVH]
  · refine (State.each_keeps (f := fun t : State => t.fget f) (h := fun t x => ?_) ..).trans rfl
    refine (State.fget_addEnergy_of_below below ?_ _).trans ((State.fget_addEnergy_of_below below ?_ _).trans rfl)
    · simp only [Fld.key, PWR_ETOTAL_VALUE, PWR_ETOTAL, PWR_EPART_VALUE, PWR_EPART]
      omega
    · simp only [Fld.key, PWR_ETOTAL_VALUE, PWR_ETOTAL, PWR_ERING_VALUE, PWR_ERING]
      omega

end Below

theorem PWR_ESEQ_belowEnergy : PWR_ESEQ_VALUE.belowEnergy := by
  simp [Fld.belowEnergy, Fld.key, PWR_ESEQ_VALUE, PWR_ESEQ, PWR_ETOTAL_VALUE, PWR_ETOTAL]

theorem belowEnergy_of_rail {f : Fld} (rail : f.reg = PWR_RAIL i) (inside : f.lsb < 64) (last : i < 23) : f.belowEnergy := by
  simp only [Fld.belowEnergy, Fld.key, rail, PWR_RAIL, PWR_ETOTAL_VALUE, PWR_ETOTAL]
  omega

/-- The state of a poll once its rails are read and its energies attributed. -/
def State.polled (s : State) (reads : List (Option (Nat × Nat))) (act : List (List (Nat × List (Nat × Nat)))) : State :=
  let t := s.each (List.range railCount) fun s i => s.pollRail i (reads.getD i none)
  { t with power := { t.power with lastPart := [] } }.each (List.range railCount) fun s i => s.railEnergy i (act.getD i [])

section Poll
variable {reads : List (Option (Nat × Nat))} {act : List (List (Nat × List (Nat × Nat)))}

theorem State.fget_polled_of_below {f : Fld} (below : f.belowEnergy) :
    (s.polled reads act).fget f = (s.each (List.range railCount) fun s i => s.pollRail i (reads.getD i none)).fget f :=
  (State.each_keeps (f := fun t : State => t.fget f) (h := fun _ _ => State.fget_railEnergy_of_below below _) ..).trans rfl

theorem fget_railPoll_ne {f : Fld} (watts : f.key ≠ PWR_STAT_PKG_W.key) (count : f.key ≠ PWR_ESEQ_VALUE.key) :
    (railPoll reads act s).fget f = (s.polled reads act).fget f :=
  (State.fget_fset_ne _ count _).trans ((State.fget_fset_ne _ watts _).trans rfl)

theorem eseq_railPoll : (railPoll reads act s).fget PWR_ESEQ_VALUE = (s.fget PWR_ESEQ_VALUE + 1) % 2 ^ 64 := by
  have kept : (s.polled reads act).fget PWR_ESEQ_VALUE = s.fget PWR_ESEQ_VALUE := by
    refine (State.fget_polled_of_below PWR_ESEQ_belowEnergy).trans ?_
    refine State.each_keeps_of_mem (f := fun t : State => t.fget PWR_ESEQ_VALUE) (fun i mem t => ?_) s
    have last := List.mem_range.1 mem
    refine State.fget_pollRail_ne ?_ (by simp [PWR_ESEQ_VALUE]) _
    unfold railCount at last
    simp only [PWR_ESEQ_VALUE, PWR_ESEQ, PWR_RAIL]
    omega
  have watts : PWR_ESEQ_VALUE.key ≠ PWR_STAT_PKG_W.key := by simp [Fld.key, PWR_ESEQ_VALUE, PWR_ESEQ, PWR_STAT_PKG_W, PWR_STAT]
  refine (State.fget_fset_self ..).trans (congrArg (fun n => (n + 1) % 2 ^ 64) ?_)
  exact (State.fget_fset_ne _ watts _).trans (Eq.trans rfl kept)

theorem showsRail_railPoll (i : Fin 23) : (railPoll reads act s).showsRail i (reads.getD i none) := by
  refine State.showsRail_congr (fun f rail inside => ?_) (s.showsRail_each (List.range railCount) reads i (List.mem_range.2 i.isLt))
  refine (fget_railPoll_ne ?_ ?_).trans (State.fget_polled_of_below (belowEnergy_of_rail rail inside i.isLt))
  · simp only [Fld.key, rail, PWR_RAIL, PWR_STAT_PKG_W, PWR_STAT]
    omega
  · have := i.isLt
    simp only [Fld.key, rail, PWR_RAIL, PWR_ESEQ_VALUE, PWR_ESEQ]
    omega

end Poll

end Rails

/-! ## Emergencies (R459) -/

section Emergency
variable {s : State} {r : Nat}

theorem State.emergency_of_none (none : s.tooHot r = false ∨ s.inEmergency r = true) : s.emergency r = s := by
  refine if_pos ?_
  obtain cool | runs := none
  · simp [cool]
  · simp [runs]

section Begins
variable (hot : s.tooHot r = true) (new : s.inEmergency r = false)
include hot new

theorem State.emergency_of_hot : s.emergency r =
    (({ s with power := { s.power with emerg := s.power.emerg ++ [r] } }.fset (levelFld r) 16).fset (limitFld r) 6).fadd (PWR_TEMP_EMERGS r) 1 :=
  if_neg (by simp [hot, new])

theorem State.inEmergency_emergency : (s.emergency r).inEmergency r = true := by
  rw [State.emergency_of_hot hot new]
  exact List.contains_iff_mem.2 (List.mem_append_right _ (List.mem_singleton_self r))

variable (last : r < 4)
include last

theorem State.level_emergency : (s.emergency r).fget (levelFld r) = 16 := by
  rw [State.emergency_of_hot hot new]
  refine (State.fget_fadd_ne _ ?_ _).trans ((State.fget_fset_ne _ ?_ _).trans (State.fget_fset_self ..))
  · simp only [Fld.key, levelFld, PWR_LEVEL, PWR_TEMP_EMERGS, PWR_TEMP]
    omega
  · simp only [Fld.key, levelFld, limitFld]
    omega

theorem State.emergs_emergency : (s.emergency r).fget (PWR_TEMP_EMERGS r) = satAdd 32 (s.fget (PWR_TEMP_EMERGS r)) 1 := by
  rw [State.emergency_of_hot hot new, State.fget_fadd_self]
  refine congrArg (satAdd 32 · 1) ((State.fget_fset_ne _ ?_ _).trans ((State.fget_fset_ne _ ?_ _).trans rfl)) <;>
    simp only [Fld.key, levelFld, limitFld, PWR_LEVEL, PWR_TEMP_EMERGS, PWR_TEMP] <;>
    omega

end Begins

/-- The readings of the sensors are not of the registers that an emergency writes. -/
theorem State.fget_emergency_of_temp {f : Fld} {q : Nat} (temp : f.reg = PWR_TEMP q) (low : f.lsb < 32) (last : r < 4) :
    (s.emergency r).fget f = s.fget f := by
  unfold State.emergency
  split
  · rfl
  · refine (State.fget_fadd_ne _ ?_ _).trans ((State.fget_fset_ne _ ?_ _).trans ((State.fget_fset_ne _ ?_ _).trans rfl)) <;>
      simp only [Fld.key, temp, levelFld, limitFld, PWR_LEVEL, PWR_TEMP_EMERGS, PWR_TEMP] <;>
      omega

theorem State.fget_emergencies_of_temp {f : Fld} {q : Nat} (temp : f.reg = PWR_TEMP q) (low : f.lsb < 32) :
    (s.each [0, 1, 2, 3] fun s r => s.emergency r).fget f = s.fget f :=
  State.each_keeps_of_mem (f := fun t : State => t.fget f) (fun _ mem _ => State.fget_emergency_of_temp temp low (by simp at mem; omega)) s

/-! ## Sensors (R458) -/

theorem State.fget_hubStep (want : Nat) (f : Fld) : (s.hubStep want).fget f = s.fget f := by
  unfold State.hubStep
  dsimp only
  split
  · rfl
  · refine (State.each_keeps (f := fun t : State => t.fget f) (g := fun t p => t.book p 4 0x3F 0) (h := fun t p => ?_) ..).trans rfl
    rfl

theorem State.fget_hubVoltage (hub : Nat) (f : Fld) : (s.hubVoltage hub).fget f = s.fget f := by
  unfold State.hubVoltage
  split
  · exact (State.fget_hubStep _ f).trans rfl
  · split
    · exact (State.fget_hubStep _ f).trans rfl
    · rfl

/-- The registers of region `r` show the readings of its die and of the hub. -/
def State.showsTemp (s : State) (dies : List (Nat × Nat)) (hub r : Nat) : Prop :=
  s.fget (PWR_TEMP_HOT_C r) = (dies.getD r (0, 0)).1 % 2 ^ 8 ∧ s.fget (PWR_TEMP_HOT_ID r) = (dies.getD r (0, 0)).2 % 2 ^ 8 ∧
    s.fget (PWR_TEMP_HUB_C r) = hub % 2 ^ 8

/-- What SENSOR_READ writes into the registers of a region. -/
def sensorFields (dies : List (Nat × Nat)) (hub r : Nat) : List (Fld × Nat) :=
  [(PWR_TEMP_HOT_C r, (dies.getD r (0, 0)).1), (PWR_TEMP_HOT_ID r, (dies.getD r (0, 0)).2), (PWR_TEMP_HUB_C r, hub)]

section Sensors
variable {dies : List (Nat × Nat)} {hub : Nat}

theorem State.showsTemp_fsets (s : State) (r : Nat) : (s.fsets (sensorFields dies hub r)).showsTemp dies hub r := by
  have nodup : ((sensorFields dies hub r).map fun e => e.1.key).Nodup := by
    simp only [sensorFields, List.map_cons, List.map_nil, List.nodup_cons, List.mem_cons, List.not_mem_nil, or_false, List.nodup_nil,
      not_false_eq_true, and_true, Fld.key, PWR_TEMP_HOT_C, PWR_TEMP_HOT_ID, PWR_TEMP_HUB_C]
    omega
  exact ⟨State.fget_fsets_of_nodup nodup (.head _), State.fget_fsets_of_nodup nodup (.tail _ (.head _)),
    State.fget_fsets_of_nodup nodup (.tail _ (.tail _ (.head _)))⟩

theorem State.fget_sensorFields_ne {f : Fld} {q : Nat} (other : r ≠ q) (temp : f.reg = PWR_TEMP q) (low : f.lsb < 32) :
    (s.fsets (sensorFields dies hub r)).fget f = s.fget f := by
  refine State.fget_fsets_ne _ _ ?_
  simp only [sensorFields, List.forall_mem_cons, List.not_mem_nil, IsEmpty.forall_iff, implies_true, and_true, Fld.key, temp, PWR_TEMP_HOT_C,
    PWR_TEMP_HOT_ID, PWR_TEMP_HUB_C, PWR_TEMP]
  omega

theorem State.showsTemp_congr {t : State} (same : ∀ f : Fld, f.reg = PWR_TEMP r → f.lsb < 32 → t.fget f = s.fget f) (shows : s.showsTemp dies hub r) :
    t.showsTemp dies hub r := by
  unfold State.showsTemp at shows ⊢
  rwa [same (PWR_TEMP_HOT_C r) rfl (by simp [PWR_TEMP_HOT_C]), same (PWR_TEMP_HOT_ID r) rfl (by simp [PWR_TEMP_HOT_ID]),
    same (PWR_TEMP_HUB_C r) rfl (by simp [PWR_TEMP_HUB_C])]

theorem showsTemp_sensorRead (r : Fin 4) : (sensorRead dies hub s).showsTemp dies hub r := by
  have written : ∀ r ∈ [0, 1, 2, 3], (s.each [0, 1, 2, 3] fun s r => s.fsets (sensorFields dies hub r)).showsTemp dies hub r := by
    refine State.each_all (P := fun s r => s.showsTemp dies hub r) (fun s r => s.showsTemp_fsets r) (fun s r q shows => ?_) _ s
    by_cases same : r = q
    · exact same ▸ s.showsTemp_fsets r
    · exact State.showsTemp_congr (fun f temp low => State.fget_sensorFields_ne same temp low) shows
  refine State.showsTemp_congr (fun f temp low => ?_) (written r (by have := r.isLt; simp; omega))
  exact (State.fget_emergencies_of_temp temp low).trans (State.fget_hubVoltage hub f)

end Sensors

/-- The hottest reading of the three stacks of a region. -/
def hottest (temps : List Nat) (r : Nat) : Nat := max (max (temps.getD (3 * r) 0) (temps.getD (3 * r + 1) 0)) (temps.getD (3 * r + 2) 0)

theorem hbmTemp_hbmTempRead {temps : List Nat} (r : Fin 4) : (hbmTempRead temps s).fget (PWR_TEMP_HBM_C r) = hottest temps r % 2 ^ 8 := by
  have written : ∀ r ∈ [0, 1, 2, 3], (s.each [0, 1, 2, 3] fun s r => s.fset (PWR_TEMP_HBM_C r) (hottest temps r)).fget (PWR_TEMP_HBM_C r) =
      hottest temps r % 2 ^ 8 := by
    refine State.each_all (P := fun s r => s.fget (PWR_TEMP_HBM_C r) = hottest temps r % 2 ^ 8) (fun s r => State.fget_fset_self ..)
      (fun s r q shows => ?_) _ s
    by_cases same : r = q
    · exact same ▸ State.fget_fset_self ..
    · refine (State.fget_fset_ne _ ?_ _).trans shows
      simp only [Fld.key, PWR_TEMP_HBM_C, PWR_TEMP]
      omega
  refine (State.fget_emergencies_of_temp (q := r) rfl (by simp [PWR_TEMP_HBM_C])).trans (Eq.trans ?_ (written r (by have := r.isLt; simp; omega)))
  exact State.each_keeps (f := fun t : State => t.fget (PWR_TEMP_HBM_C r)) (h := fun _ _ => rfl) ..

/-! ## Levels (R454, R455) -/

theorem foldl_min_between {a b x : Nat} {l : List Nat} (low : a ≤ x) (high : x ≤ b) (all : ∀ y ∈ l, a ≤ y) :
    a ≤ l.foldl min x ∧ l.foldl min x ≤ b := by
  induction l generalizing x with
  | nil => exact ⟨low, high⟩
  | cons y t ih =>
    obtain ⟨first, rest⟩ := List.forall_mem_cons.1 all
    exact ih (Nat.le_min.2 ⟨low, first⟩) (Nat.le_trans (Nat.min_le_left ..) high) rest

/-- The least of the clamped limiters is a level. -/
theorem clamped_between (l : List Nat) : 16 ≤ (l.map clampLevel).foldl min 64 ∧ (l.map clampLevel).foldl min 64 ≤ 64 := by
  refine foldl_min_between (by decide) (Nat.le_refl _) fun y mem => ?_
  obtain ⟨x, _, rfl⟩ := List.mem_map.1 mem
  exact Nat.le_max_left ..

theorem State.level_setLevel (p cycles : Nat) : (s.setLevel p r cycles).fget (levelFld r) =
    if (s.inEmergency r && s.tooHot r) = true then 16 else ((s.limiters p r cycles).map clampLevel).foldl min 64 := by
  have apart : (levelFld r).key ≠ (limitFld r).key := by
    simp only [Fld.key, levelFld, limitFld]
    omega
  obtain ⟨_, high⟩ := clamped_between (s.limiters p r cycles)
  unfold State.setLevel
  dsimp only
  split
  · exact (State.fget_fset_ne _ apart _).trans (State.fget_fset_self ..)
  · refine (State.fget_fset_ne _ apart _).trans ((State.fget_fset_self ..).trans (Nat.mod_eq_of_lt ?_))
    exact Nat.lt_of_le_of_lt high (by simp [levelFld])

end Emergency

/-- Settles O52: the readings by their registers, an emergency by its region, and a level by its limiters. -/
theorem powerRuns : Obligations.PowerRuns := by
  unfold Obligations.PowerRuns
  refine ⟨fun s reads act => ⟨_, rfl, eseq_railPoll, fun i => showsRail_railPoll i⟩,
    fun s i => ⟨State.misses_pollRail_none, State.missRow_pollRail_none, ?_⟩, fun s dies hub => ⟨_, rfl, fun r => showsTemp_sensorRead r⟩,
    fun s temps => ⟨_, rfl, fun r => hbmTemp_hbmTempRead r⟩, fun s r => ⟨fun hot new => ⟨State.level_emergency hot new r.isLt,
      State.inEmergency_emergency hot new, State.emergs_emergency hot new r.isLt⟩, State.emergency_of_none⟩,
    fun s p cycles r => ?_, fun s r cycles => rfl, fun s => rfl⟩
  · rw [State.state_pollRail_none]
    split <;> simp_all
  · obtain ⟨low, high⟩ := clamped_between (s.limiters p r cycles)
    rw [State.level_setLevel]
    refine ⟨?_, ?_, fun runs hot => if_pos (by rw [runs, hot]; rfl), fun none => if_neg (by simp [none])⟩ <;> split <;> omega

end Sys2Proof.Machine
end


section
/-! Writes of register space: refused, discarded, or in effect field by field (R14 to R17, R37, R409). -/
namespace Sys2Proof.Machine

section Writes
variable {s : State} {a size v : Nat} {w : RegWrite} {f : Fld}

/-! ## Refused accesses (R14, R37, R409) -/

theorem State.regError_of_fatal {write : Bool} (fatal : s.fatal = true) (unserved : servedFatal a = false) :
    s.regError a size write = some (5, false) := if_pos ⟨fatal, unserved⟩

theorem State.regError_of_unmapped {write : Bool} (live : s.fatal = false) (nothing : regMapped a = false) :
    s.regError a size write = some (1, true) :=
  (if_neg fun ⟨fatal, _⟩ => Bool.eq_false_iff.1 live fatal).trans (if_pos nothing)

theorem State.regWrite_of_error {e : Nat × Bool} (error : s.regError a size true = some e) : (s.regWrite a size v).1 = s.regFailed a e := by
  simp only [State.regWrite, error]

theorem State.regWrite_of_fine (fine : s.regError a size true = none) (outside : inEvrWindow a = false) :
    (s.regWrite a size v).1 = s.regStore (.of a size v) := by
  simp only [State.regWrite, fine, outside, Bool.false_eq_true, if_false]

/-! ## Discarded in full, or in effect (R16) -/

theorem State.regStore_of_discard (discarded : s.untimely w = true ∨ s.legal w = false) : s.regStore w = s.noteDiscard w.reg w.value := by
  refine if_pos ?_
  obtain untimely | reserved := discarded
  · simp [untimely]
  · simp [reserved]

/-- A write of the power block only writes its fields. -/
theorem State.writeTaken_of_power (low : 0xF0000020000 ≤ w.reg) (high : w.reg < 0xF0000030000) : s.writeTaken w = s.writeFields w :=
  (if_neg (by omega)).trans ((if_neg (by omega)).trans (if_pos high))

theorem State.regStore_of_power (low : 0xF0000020000 ≤ w.reg) (high : w.reg < 0xF0000030000) (timely : s.untimely w = false) (legal : s.legal w = true)
    (quiet : (s.writeFields w).recs.length = s.recs.length) : s.regStore w = s.writeFields w := by
  rw [State.regStore, if_neg (by simp [timely, legal])]
  dsimp only
  rw [State.writeTaken_of_power low high, if_neg (by omega)]

theorem inEvrWindow_of_power (high : (RegWrite.of a size v).reg < 0xF0000030000) : inEvrWindow a = false := by
  have block : a / 8 * 8 < 0xF0000030000 := high
  exact Bool.eq_false_iff.2 fun inside => by
    obtain ⟨first, _⟩ := (Bool.and_eq_true _ _).mp inside
    have := of_decide_eq_true first
    omega

/-! ## Fields (R14, R17) -/

theorem State.writeField_of_uncovered (uncovered : w.covers f = false) : s.writeField w f = s := if_pos uncovered

section Covered
variable (covered : w.covers f = true)
include covered

theorem State.fget_writeField_rw (rw_ : f.acc = .rw) : (s.writeField w f).fget f = s.merged w f % 2 ^ f.width := by
  rw [State.writeField, if_neg (Bool.not_eq_false _ ▸ covered)]
  simp only [rw_]
  exact State.fget_fset_self ..

theorem State.writeField_rwb (rwb : f.acc = .rwb) : s.writeField w f = s.stage f (s.merged w f) := by
  rw [State.writeField, if_neg (Bool.not_eq_false _ ▸ covered)]
  simp only [rwb]

theorem State.fget_writeField_w1c (w1c : f.acc = .w1c) :
    (s.writeField w f).fget f = (s.fget f &&& (2 ^ f.width - 1 - w.raw f)) % 2 ^ f.width := by
  rw [State.writeField, if_neg (Bool.not_eq_false _ ▸ covered)]
  simp only [w1c]
  exact State.fget_fset_self ..

end Covered

theorem State.writeField_of_other (rw_ : f.acc ≠ .rw) (rwb : f.acc ≠ .rwb) (w1c : f.acc ≠ .w1c) : s.writeField w f = s := by
  unfold State.writeField
  split
  · rfl
  · split
    next is => exact absurd is rw_
    next is => exact absurd is rwb
    next is => exact absurd is w1c
    next => rfl

theorem State.fget_stage_ne {g : Fld} (other : g.key ≠ f.key) (n : Nat) : (s.stage f n).fget g = s.fget g := by
  unfold State.stage
  split
  · rfl
  · exact State.fget_fset_ne _ other _

/-- A field's write changes no other field. -/
theorem State.fget_writeField_ne {g : Fld} (other : g.key ≠ f.key) : (s.writeField w f).fget g = s.fget g := by
  unfold State.writeField
  split
  · rfl
  · split
    · exact State.fget_fset_ne _ other _
    · exact State.fget_stage_ne other _
    · exact State.fget_fset_ne _ other _
    · rfl

theorem State.merged_of_full (full : bits w.mask f.lsb f.width = 2 ^ f.width - 1) : s.merged w f = w.raw f := if_pos full

end Writes

/-- Settles O55: a write by its checks, and a field by its access code. -/
theorem registerWrites : Obligations.RegisterWrites := by
  unfold Obligations.RegisterWrites
  refine ⟨fun s a size v e error => congrArg Host.Outcome.next (State.regWrite_of_error error),
    fun s a size v w fine outside write discarded => ⟨?_, State.noteDiscard_only ..⟩,
    fun s a size v w fine write low high timely legal quiet => ?_,
    fun s w f covered => ⟨State.fget_writeField_rw covered, State.writeField_rwb covered, State.fget_writeField_w1c covered,
      State.writeField_of_other⟩,
    fun s w f => ⟨State.writeField_of_uncovered, fun g other => State.fget_writeField_ne other, State.merged_of_full⟩,
    fun s a size fatal unserved => State.regError_of_fatal fatal unserved, fun s a size live nothing => State.regError_of_unmapped live nothing⟩
  · subst write
    exact congrArg Host.Outcome.next ((State.regWrite_of_fine fine outside).trans (State.regStore_of_discard discarded))
  · subst write
    exact congrArg Host.Outcome.next ((State.regWrite_of_fine fine (inEvrWindow_of_power high)).trans
      (State.regStore_of_power low high timely legal quiet))

end Sys2Proof.Machine
end


section
/-! The way from reset to READY: reset, the boot stages, the start-up phases (R34, R460, R472 to R476, R487 to R490). -/
namespace Sys2Proof.Machine

/-! ## RESET (R34, R460, R487) -/

section Reset
variable {s : State} {f : Fld}

theorem fget_reset_cold (s : State) (f : Fld) : (reset false s).fget f = f.reset := rfl

theorem fget_reset_warm (fit : f.key ≠ HUB_START_CFG_FIT.key) (next : f.key ≠ HUB_LAYOUT_NEXT.key) : (reset true s).fget f = f.reset :=
  (State.fget_fset_ne _ next _).trans ((State.fget_fset_ne _ fit _).trans rfl)

theorem fit_reset_warm : (reset true s).fget HUB_START_CFG_FIT = s.fget HUB_START_CFG_FIT % 2 :=
  (State.fget_fset_ne _ (by simp [Fld.key, HUB_START_CFG_FIT, HUB_START_CFG, HUB_LAYOUT_NEXT, HUB_LAYOUT]) _).trans (State.fget_fset_self ..)

theorem next_reset_warm : (reset true s).fget HUB_LAYOUT_NEXT = s.fget HUB_LAYOUT_NEXT % 8 := State.fget_fset_self ..

end Reset

/-! ## START_UP (R474, R488) -/

section StartUp
variable {s : State} (low : s.sec.resetLow = true)
include low

theorem startUp_of_flash (own : s.flash.companion = false) (directory : s.flash.directory = true) :
    startUp s = { s with sec := { s.sec with resetLow := false } } :=
  (if_neg (Bool.not_eq_false _ ▸ low)).trans (if_neg (by simp [own, directory]))

theorem startUp_of_companion (companion : s.flash.companion = true ∨ s.flash.directory = false) :
    startUp s = ({ s with sec := { s.sec with resetLow := false } } : State).bootCompanion := by
  refine (if_neg (Bool.not_eq_false _ ▸ low)).trans (if_pos ?_)
  obtain other | none := companion
  · simp [other]
  · simp [none]

end StartUp

/-! ## The boot stages (R472 to R476) -/

section Stages
variable {s : State} {x : StageEnd}

section Goes
variable (high : s.sec.resetLow = false) (going : s.fget SEC_BOOT_STOPPED = 0)
include high going

theorem not_stopped : ¬(s.sec.resetLow = true ∨ s.flag SEC_BOOT_STOPPED = true) := by simp [high, State.flag, going]

theorem bootStageEnd_stage0 (stage : s.fget SEC_BOOT_STAGE = 0) : bootStageEnd x s =
    if x.ok then s.fset SEC_BOOT_STAGE 1 else ((s.bootStop (s.free.toNat % 256)).tick).deviceFatal .secFault { unit := unitFw 1 } := by
  unfold bootStageEnd
  rw [if_neg (not_stopped high going)]
  simp only [stage]

theorem bootStageEnd_stage1 (stage : s.fget SEC_BOOT_STAGE = 1) : bootStageEnd x s =
    if x.ok then (s.fset SEC_BOOT_STAGE 2).drawChal else s.bootStop 12 := by
  unfold bootStageEnd
  rw [if_neg (not_stopped high going)]
  simp only [stage]

theorem bootStageEnd_stage2 (stage : s.fget SEC_BOOT_STAGE = 2) : bootStageEnd x s = s.stateStage x.ok := by
  unfold bootStageEnd
  rw [if_neg (not_stopped high going)]
  simp only [stage]

theorem bootStageEnd_stage3 (stage : s.fget SEC_BOOT_STAGE = 3) : bootStageEnd x s = s.imageStage x.ok := by
  unfold bootStageEnd
  rw [if_neg (not_stopped high going)]
  simp only [stage]

theorem bootStageEnd_stage4 (stage : s.fget SEC_BOOT_STAGE = 4) : bootStageEnd x s = s.partStage x := by
  unfold bootStageEnd
  rw [if_neg (not_stopped high going)]
  simp only [stage]

theorem bootStageEnd_stage5 (stage : s.fget SEC_BOOT_STAGE = 5) : bootStageEnd x s = s.firmwareStage x := by
  unfold bootStageEnd
  rw [if_neg (not_stopped high going)]
  simp only [stage]

end Goes

/-! ### Stage 2: the state block (R472) -/

theorem State.stateStage_of_fail {ok : Bool} (fails : s.rpmc.accepted = none ∨ ok = false) : s.stateStage ok = s.bootStop 11 := by
  unfold State.stateStage
  split
  next accepted =>
    obtain none | not := fails
    · rw [none] at accepted
      cases accepted
    · exact if_neg (Bool.eq_false_iff.1 not)
  next => rfl

/-- The state with what an accepted block holds, before the registers that show it. -/
def State.withBlock (s : State) (b : StateBlock) (item1 : Bool) : State :=
  { s with
    rpmc := if item1 then { s.rpmc with counter := b.seq } else s.rpmc
    sec := { s.sec with block := b, item1 := item1 }
    fieldRows := b.spared }

/-- The registers of the minimum SVNs show a list of them. -/
def State.showSvns (s : State) (l : List Nat) : State := s.each ([1, 2, 3, 4].zip l) fun t x => t.fset (svnFld x.1) x.2

@[simp] theorem State.showSvns_sec (s : State) (l : List Nat) : (s.showSvns l).sec = s.sec := State.each_keeps s State.sec _ _ fun _ _ => rfl
@[simp] theorem State.showSvns_rpmc (s : State) (l : List Nat) : (s.showSvns l).rpmc = s.rpmc := State.each_keeps s State.rpmc _ _ fun _ _ => rfl
@[simp] theorem State.showSvns_fieldRows (s : State) (l : List Nat) : (s.showSvns l).fieldRows = s.fieldRows :=
  State.each_keeps s State.fieldRows _ _ fun _ _ => rfl

theorem State.stateStage_of_ok {b : StateBlock} {item1 : Bool} (accepted : s.rpmc.accepted = some (b, item1)) : s.stateStage true =
    ((s.withBlock b item1).showSvns b.svnMin).fsets [(SEC_ATT_STAT_HSS_NEXT, 64 * b.hssRes), (SEC_STATE_SEQ, b.seq), (SEC_BOOT_STAGE, 3)] := by
  simp only [State.stateStage, accepted, if_true, State.withBlock, State.showSvns]

/-! ### Stages 3 and 4: the image and the part record (R474, R476) -/

section Image
variable (unverified : s.sec.mFw = 0) (own : s.fget SEC_BOOT_SOURCE ≠ 1) {obj : List Byte} (image : s.flash.image = some obj)
include unverified own image

theorem State.imageStage_of_refused {r : Nat} (refused : objReason obj 1 (s.fget SEC_SVN_FW) = some r) :
    s.imageStage true = ((s.refused 1 r).fsets [(SEC_BOOT_REASON, r), (SEC_BOOT_WAIT, 1)]).bootCompanion := by
  unfold State.imageStage
  rw [if_neg (not_not.2 unverified), if_neg own]
  simp only [image, refused, Bool.true_eq_false, if_false]

theorem State.imageStage_of_accepted (accepted : objReason obj 1 (s.fget SEC_SVN_FW) = none) : s.imageStage true =
    State.fset { s.raiseSvn 1 (objSvn obj) with sec := { (s.raiseSvn 1 (objSvn obj)).sec with mFw := objDigest obj } } SEC_BOOT_STAGE 4 := by
  unfold State.imageStage
  rw [if_neg (not_not.2 unverified), if_neg own]
  simp only [image, accepted, Bool.true_eq_false, if_false]

end Image

section Part
variable (unverified : s.sec.mPr = 0) (own : s.fget SEC_BOOT_SOURCE ≠ 1) {obj : List Byte} (held : s.flash.partRec = some obj) (ok : x.ok = true)
include unverified own held ok

theorem State.partStage_of_refused {r : Nat} (refused : objReason obj 2 (s.fget SEC_SVN_PR) = some r) :
    s.partStage x = (s.refused 2 r).bootStop r := by
  unfold State.partStage
  rw [if_neg (not_not.2 unverified), if_neg own]
  simp only [held, ok, refused, Bool.true_eq_false, if_false]

theorem State.partStage_of_accepted (accepted : objReason obj 2 (s.fget SEC_SVN_PR) = none) : s.partStage x =
    if x.part.deviceId ≠ Config.deviceId then (s.refused 2 9).bootStop 9
    else ((s.raiseSvn 2 (objSvn obj)).takePart x.part (objDigest obj)).fset SEC_BOOT_STAGE 5 := by
  unfold State.partStage
  rw [if_neg (not_not.2 unverified), if_neg own]
  simp only [held, ok, accepted, Bool.true_eq_false, if_false]

end Part

/-! ### Stage 5: start-up is handed on (R473) -/

theorem State.firmwareStage_hands (s : State) (x : StageEnd) :
    (s.firmwareStage x).fget SEC_BOOT_STAGE = 6 ∧ (s.firmwareStage x).fget HUB_START_PHASE = 1 := by
  have apart : SEC_BOOT_STAGE.key ≠ HUB_START_PHASE.key := by
    simp [Fld.key, SEC_BOOT_STAGE, SEC_BOOT, HUB_START_PHASE, HUB_START]
  exact ⟨(State.fget_fset_ne _ apart _).trans (State.fget_fset_self ..), State.fget_fset_self ..⟩

theorem selfCheck_of_fail (high : s.sec.resetLow = false) (stage : s.fget SEC_BOOT_STAGE = 6) :
    selfCheck false s = s.deviceFatal .secFault { unit := unitFw 1 } := if_neg (by simp [high, stage])

theorem selfCheck_of_ok : selfCheck true s = s := if_pos (.inr (.inr rfl))

theorem imageInstall_of_held {obj : List Byte} (held : s.sec.install = some obj) (stage : s.fget SEC_BOOT_STAGE = 6) :
    imageInstall s = { s with flash := { s.flash with image := some obj }, sec := { s.sec with install := none } } := by
  simp only [imageInstall, held, stage, if_true]

end Stages

/-! ## The phases (R488 to R490) -/

section Phases
variable {s t : State} {x : PhaseEnd} (timed : t = s.fset HUB_START_ELAPSED_MS (min x.elapsedMs 0xFFFF))
include timed

theorem phaseEnd_phase1 (phase : s.fget HUB_START_PHASE = 1) : phaseEnd x s = t.clocksPhase.toPhase 2 := by
  simp only [phaseEnd, phase, timed]

theorem phaseEnd_phase2 (phase : s.fget HUB_START_PHASE = 2) :
    phaseEnd x s = (t.d2dPhase x).toPhase (if s.flag HUB_START_CFG_FIT then 3 else 4) := by
  simp only [phaseEnd, phase, timed]

theorem phaseEnd_phase3 (phase : s.fget HUB_START_PHASE = 3) : phaseEnd x s = (t.fitPhase x).toPhase 4 := by
  simp only [phaseEnd, phase, timed]

theorem phaseEnd_phase4 (phase : s.fget HUB_START_PHASE = 4) : phaseEnd x s = (t.hbmPhase x).toPhase 5 := by
  simp only [phaseEnd, phase, timed]

theorem phaseEnd_phase5 (phase : s.fget HUB_START_PHASE = 5) : phaseEnd x s = t.regionsPhase.toPhase 6 := by
  simp only [phaseEnd, phase, timed]

theorem phaseEnd_phase6 (phase : s.fget HUB_START_PHASE = 6) : phaseEnd x s =
    if (t.carouselPhase.toPhase 7).fget GLK_STAT_STATE = 0 then (t.carouselPhase.toPhase 7).glkTrain else t.carouselPhase.toPhase 7 := by
  simp only [phaseEnd, phase, timed]

theorem phaseEnd_phase7 (phase : s.fget HUB_START_PHASE = 7) : phaseEnd x s = if s.glkUp then t.ready.toPhase 8 else s := by
  simp only [phaseEnd, phase, timed]

end Phases

/-- Settles O56: each command by the stage or phase in progress. -/
theorem bootRuns : Obligations.BootRuns := by
  unfold Obligations.BootRuns
  refine ⟨fun s warm => ⟨_, rfl, ?_⟩, fun s low => ⟨fun own directory => congrArg Host.Outcome.next (startUp_of_flash low own directory),
      fun companion => congrArg Host.Outcome.next (startUp_of_companion low companion)⟩,
    fun s x high going => ⟨fun stage => ?_, fun stage => ?_, fun stage => ?_, fun stage unverified own obj image ok => ?_,
      fun stage unverified own obj held ok => ?_, fun stage => ?_⟩,
    fun s t x timed => ⟨fun phase => congrArg Host.Outcome.next (phaseEnd_phase1 timed phase),
      fun phase => congrArg Host.Outcome.next (phaseEnd_phase2 timed phase), fun phase => congrArg Host.Outcome.next (phaseEnd_phase3 timed phase),
      fun phase => congrArg Host.Outcome.next (phaseEnd_phase4 timed phase), fun phase => congrArg Host.Outcome.next (phaseEnd_phase5 timed phase),
      fun phase => congrArg Host.Outcome.next (phaseEnd_phase6 timed phase),
      fun phase up => congrArg Host.Outcome.next ((phaseEnd_phase7 timed phase).trans (if_pos up)),
      fun phase down => congrArg Host.Outcome.next ((phaseEnd_phase7 timed phase).trans (if_neg (Bool.eq_false_iff.1 down)))⟩,
    fun s high stage => ⟨congrArg Host.Outcome.next (selfCheck_of_fail high stage), congrArg Host.Outcome.next selfCheck_of_ok⟩,
    fun s obj held stage => congrArg Host.Outcome.next (imageInstall_of_held held stage)⟩
  · cases warm with
    | false => exact ⟨rfl, rfl, rfl, rfl, rfl, rfl, fun f _ _ => fget_reset_cold s f, fun _ f => fget_reset_cold s f, fun warm => nomatch warm⟩
    | true => exact ⟨rfl, rfl, rfl, rfl, rfl, rfl, fun f fit next => fget_reset_warm fit next, fun cold => (nomatch cold),
        fun _ => ⟨fit_reset_warm, next_reset_warm, rfl, rfl⟩⟩
  · have work := bootStageEnd_stage0 (x := x) high going stage
    exact ⟨fun ok => congrArg Host.Outcome.next (work.trans (if_pos ok)),
      fun fails => congrArg Host.Outcome.next (work.trans (if_neg (Bool.eq_false_iff.1 fails)))⟩
  · have work := bootStageEnd_stage1 (x := x) high going stage
    exact ⟨fun ok => congrArg Host.Outcome.next (work.trans (if_pos ok)),
      fun fails => congrArg Host.Outcome.next (work.trans (if_neg (Bool.eq_false_iff.1 fails)))⟩
  · have work := bootStageEnd_stage2 (x := x) high going stage
    refine ⟨fun fails => congrArg Host.Outcome.next (work.trans (State.stateStage_of_fail fails)), fun b item1 accepted ok => ?_⟩
    rw [ok, State.stateStage_of_ok accepted] at work
    refine ⟨_, congrArg Host.Outcome.next work, ?_⟩
    have seq : SEC_STATE_SEQ.key ≠ SEC_BOOT_STAGE.key := by simp [Fld.key, SEC_STATE_SEQ, SEC_STATE, SEC_BOOT_STAGE, SEC_BOOT]
    rw [State.fsets_sec, State.fsets_fieldRows, State.fsets_rpmc, State.showSvns_sec, State.showSvns_fieldRows, State.showSvns_rpmc]
    refine ⟨rfl, rfl, State.fget_fset_self .., (State.fget_fset_ne _ seq _).trans (State.fget_fset_self ..), ?_⟩
    cases item1 <;> rfl
  · have work := bootStageEnd_stage3 (x := x) high going stage
    rw [ok] at work
    cases judged : objReason obj 1 (s.fget SEC_SVN_FW) with
    | some r => exact congrArg Host.Outcome.next (work.trans (State.imageStage_of_refused unverified own image judged))
    | none => exact congrArg Host.Outcome.next (work.trans (State.imageStage_of_accepted unverified own image judged))
  · have work := bootStageEnd_stage4 (x := x) high going stage
    cases judged : objReason obj 2 (s.fget SEC_SVN_PR) with
    | some r => exact congrArg Host.Outcome.next (work.trans (State.partStage_of_refused unverified own held ok judged))
    | none => exact congrArg Host.Outcome.next (work.trans (State.partStage_of_accepted unverified own held ok judged))
  · obtain ⟨six, one⟩ := s.firmwareStage_hands x
    exact ⟨_, congrArg Host.Outcome.next (bootStageEnd_stage5 high going stage), six, one⟩

end Sys2Proof.Machine
end


section
/-! Signed objects that are presented: read, judged, and taken or refused (R466 to R468, R476, R478). -/
namespace Sys2Proof.Machine

section Present
variable {s t : State}

/-! ## OBJECT_PRESENT (R478) -/

theorem objectPresent_of_bad (bad : s.fget SEC_LOAD_STAT_STATE = 1 ∨ s.fget SEC_LOAD_TYPE = 0 ∨ 4 < s.fget SEC_LOAD_TYPE ∨
    s.fget SEC_LOAD_ADDR * 4096 < glkBase ∨ glkEnd ≤ s.fget SEC_LOAD_ADDR * 4096) : objectPresent s = s.noteDiscard SEC_LOAD 1 := if_pos bad

section Good
variable (free : s.fget SEC_LOAD_STAT_STATE ≠ 1) (first : 1 ≤ s.fget SEC_LOAD_TYPE) (last : s.fget SEC_LOAD_TYPE ≤ 4)
  (low : glkBase ≤ s.fget SEC_LOAD_ADDR * 4096) (high : s.fget SEC_LOAD_ADDR * 4096 < glkEnd)
  (latched : t = { s with sec := { s.sec with loadAt := s.fget SEC_LOAD_ADDR * 4096, loadType := s.fget SEC_LOAD_TYPE
                                              loadInstall := s.flag SEC_LOAD_INSTALL } })
include free first last low high latched

theorem objectPresent_of_good : objectPresent s = if t.notPermitted then t.loadRefused 13
    else ((t.fsets [(SEC_LOAD_STAT_STATE, 1), (SEC_LOAD_STAT_REASON, 0), (SEC_LOAD_GO, 1)]).secBegins .load).askStream
      [(s.fget SEC_LOAD_ADDR * 4096, headLen)] (.security .load) := by
  rw [latched]
  refine if_neg ?_
  rintro (busy | none | other | below | above) <;> omega

end Good

/-! ## PRESENTATION_END (R466) -/

section End
variable {part : PartRecord} {kak : Bundle} {a type : Nat} (busy : s.fget SEC_LOAD_STAT_STATE = 1) (stage : 3 ≤ s.fget SEC_BOOT_STAGE)
include busy stage

theorem presentationEnd_of_lost (lost : s.secFails .load = true) :
    presentationEnd part kak s = (s.loadRefused 10).dropStream [(s.sec.loadAt, headLen + bodyLimit s.sec.loadType)] := by
  unfold presentationEnd
  dsimp only
  rw [if_neg (by omega), if_pos lost]

variable (fine : s.secFails .load = false)
include fine

theorem presentationEnd_of_unread (unread : s.streamReady [(s.sec.loadAt, headLen)] = false) :
    presentationEnd part kak s = s.askStream [(s.sec.loadAt, headLen)] (.security .load) := by
  unfold presentationEnd
  dsimp only
  rw [if_neg (by omega), if_neg (Bool.eq_false_iff.1 fine), if_pos unread]

variable (place : a = s.sec.loadAt) (typed : type = s.sec.loadType) (read : s.streamReady [(a, headLen)] = true)
include place typed read

theorem presentationEnd_of_head {r : Nat} (refused : headReason (s.load a headLen) type = some r) :
    presentationEnd part kak s = (s.loadRefused r).dropStream [(a, headLen)] := by
  subst place typed
  unfold presentationEnd
  dsimp only
  rw [if_neg (by omega), if_neg (Bool.eq_false_iff.1 fine), if_neg (Bool.not_eq_false _ ▸ read)]
  simp only [refused]

section Whole
variable {n : Nat} {obj : List Byte} (head : headReason (s.load a headLen) type = none) (length : n = headLen + objBody (s.load a headLen))
  (inside : a + n ≤ glkEnd) (whole : s.streamReady [(a, n)] = true) (held : obj = s.load a n) (dropped : t = s.dropStream [(a, n)])
include head length inside whole held dropped

/-- An object that passes every check takes effect, but for a part record of another device and a bundle that declares too much time. -/
theorem presentationEnd_of_whole : presentationEnd part kak s = (objReason obj type (s.fget (svnFld type))).elim
    (if type = 2 ∧ part.deviceId ≠ Config.deviceId then (t.loadRefused 9).fset SEC_BOOT_STOPPED 1
      else if type = 3 ∧ 120 < kak.seconds then (t.loadRefused (t.free.toNat % 256)).tick
      else (t.fsets [(SEC_LOAD_STAT_STATE, 2), (SEC_LOAD_STAT_REASON, 0), (SEC_LOAD_GO, 0)]).takeObject type obj part kak)
    t.loadRefused := by
  subst place typed length held dropped
  have same : (s.dropStream [(s.sec.loadAt, headLen + objBody (s.load s.sec.loadAt headLen))]).fget (svnFld s.sec.loadType) =
    s.fget (svnFld s.sec.loadType) := rfl
  unfold presentationEnd
  dsimp only
  rw [if_neg (by omega), if_neg (Bool.eq_false_iff.1 fine), if_neg (Bool.not_eq_false _ ▸ read)]
  simp only [head]
  rw [if_neg (by omega), if_neg (Bool.not_eq_false _ ▸ whole)]
  simp only [same]
  cases objReason (s.load s.sec.loadAt (headLen + objBody (s.load s.sec.loadAt headLen))) s.sec.loadType (s.fget (svnFld s.sec.loadType)) <;> rfl

end Whole

end End

/-! ## What an object must pass, and its effect (R466, R468, R476) -/

/-- An object is accepted exactly when its head, its digest, both signatures and its SVN are right. -/
theorem objReason_eq_none_iff {obj : List Byte} {type svn : Nat} : objReason obj type svn = none ↔ headReason obj type = none ∧
    beNat (sliceOf obj 0x20 48) = Config.sha384 (sliceOf obj headLen (objBody obj)) ∧ ecdsaOk (objDigest obj) (sliceOf obj 0x50 96) = true ∧
    hssOk (objDigest obj) (sliceOf obj 0xB0 5396) = true ∧ svn ≤ objSvn obj := by
  unfold objReason
  cases head : headReason obj type with
  | some r => exact ⟨fun passes => (nomatch passes), fun ⟨passes, _⟩ => (nomatch passes)⟩
  | none =>
    dsimp only
    split
    next wrong => exact ⟨fun passes => (nomatch passes), fun ⟨_, digest, _⟩ => absurd digest wrong⟩
    next digest =>
      split
      next wrong => exact ⟨fun passes => (nomatch passes), fun ⟨_, _, ecdsa, _⟩ => absurd (wrong.symm.trans ecdsa) Bool.false_ne_true⟩
      next ecdsa =>
        split
        next wrong => exact ⟨fun passes => (nomatch passes), fun ⟨_, _, _, hss, _⟩ => absurd (wrong.symm.trans hss) Bool.false_ne_true⟩
        next hss =>
          split
          next old => exact ⟨fun passes => (nomatch passes), fun ⟨_, _, _, _, new⟩ => absurd new (Nat.not_le.2 old)⟩
          next new =>
            exact ⟨fun _ => ⟨rfl, not_not.1 digest, (Bool.not_eq_false _).mp ecdsa, (Bool.not_eq_false _).mp hss, Nat.not_lt.1 new⟩, fun _ => rfl⟩

theorem State.takePart_ngen (s : State) (x : PartRecord) (d : Nat) :
    (s.takePart x d).fget HUB_NUMERICS_NGEN = x.ngen % 2 ^ HUB_NUMERICS_NGEN.width := State.fget_fset_self ..

/-- A minimum SVN never falls. -/
theorem State.raiseSvn_of_le {type svn : Nat} (le : svn ≤ s.fget (svnFld type)) : s.raiseSvn type svn = s := if_neg (Nat.not_lt.2 le)

end Present

/-- Settles O58: each command by what has been read and by the first check that fails. -/
theorem presentationsRun : Obligations.PresentationsRun := by
  unfold Obligations.PresentationsRun
  refine ⟨fun s t free first last low high latched => ?_, fun s bad => congrArg Host.Outcome.next (objectPresent_of_bad bad),
    fun s t part kak a type n obj busy stage fine place typed read =>
      ⟨fun r refused => congrArg Host.Outcome.next (presentationEnd_of_head busy stage fine place typed read refused),
        fun head length inside whole held dropped => ?_⟩,
    fun s part kak busy stage => ⟨fun lost => congrArg Host.Outcome.next (presentationEnd_of_lost busy stage lost),
      fun fine unread => congrArg Host.Outcome.next (presentationEnd_of_unread busy stage fine unread)⟩,
    fun obj type svn => objReason_eq_none_iff, fun s obj part kak => ⟨rfl, rfl⟩, fun s x d => ⟨rfl, rfl, s.takePart_ngen x d⟩,
    fun s t type svn raised le => raised.trans (State.raiseSvn_of_le le)⟩
  · have begins := objectPresent_of_good free first last low high latched
    exact ⟨fun forbidden => congrArg Host.Outcome.next (begins.trans (if_pos forbidden)),
      fun permitted => congrArg Host.Outcome.next (begins.trans (if_neg (Bool.eq_false_iff.1 permitted)))⟩
  · have ends := presentationEnd_of_whole (part := part) (kak := kak) busy stage fine place typed read head length inside whole held dropped
    cases judged : objReason obj type (s.fget (svnFld type)) with
    | some r =>
      rw [judged] at ends
      exact congrArg Host.Outcome.next ends
    | none =>
      rw [judged] at ends
      exact congrArg Host.Outcome.next ends

end Sys2Proof.Machine
end


section
/-! Attestation: reports and certificates (R481 to R483). -/
namespace Sys2Proof.Machine

section Attest
variable {s t : State}

/-! ## Requests (R481, R482) -/

theorem State.attAt_attBegins : s.attBegins.sec.attAt = s.fget SEC_ATT_ADDR * 4096 :=
  congrArg (· * 4096) ((State.fget_fset_ne _ (by simp [Fld.key, SEC_ATT_ADDR, SEC_ATT_GO]) _ : (s.fset SEC_ATT_GO 1).fget SEC_ATT_ADDR = _))

theorem attestationReport_of_bad (bad : s.attBad 0x2000 = true) : attestationReport s = s.noteDiscard SEC_ATT 1 := if_pos bad

section Good
variable (good : s.attBad 0x2000 = false)
include good

theorem attestationReport_of_used (used : hssMax ≤ s.fget SEC_ATT_STAT_HSS_NEXT) : attestationReport s = s.attRefused 14 :=
  (if_neg (Bool.eq_false_iff.1 good)).trans (if_pos used)

theorem attestationReport_of_left (left : s.fget SEC_ATT_STAT_HSS_NEXT < hssMax) : attestationReport s =
    (s.attBegins.fset SEC_ATT_STAT_STATE 1).askStream [(s.fget SEC_ATT_ADDR * 4096 + 0x10, 32)] (.security .attest) := by
  have place : (s.attBegins.fset SEC_ATT_STAT_STATE 1).sec.attAt = s.fget SEC_ATT_ADDR * 4096 := State.attAt_attBegins
  rw [← place]
  exact (if_neg (Bool.eq_false_iff.1 good)).trans (if_neg (Nat.not_le.2 left))

end Good

theorem certificates_of_bad (bad : s.attBad 0x4000 = true) : certificates s = s.noteDiscard SEC_ATT 3 := if_pos bad

theorem certificates_of_good (good : s.attBad 0x4000 = false) : certificates s = s.attBegins.areaBegins
    (natLe 8 (s.rpmc.certs.take 0x3FF8).length ++ s.rpmc.certs.take 0x3FF8 ++ natLe (0x3FF8 - (s.rpmc.certs.take 0x3FF8).length) 0) := by
  have size : 0x4000 - 8 = 0x3FF8 := rfl
  rw [certificates, if_neg (Bool.eq_false_iff.1 good), size]

/-! ## REPORT_SIGNING (R481 to R483) -/

section Sign
variable (waits : s.fget SEC_ATT_STAT_STATE = 1)
include waits

theorem reportSigning_of_lost (lost : s.secFails .attest = true) : reportSigning s = (s.attRefused 10).dropStream [(s.sec.attAt + 0x10, 32)] := by
  unfold reportSigning
  dsimp only
  rw [if_neg (not_not.2 waits), if_pos lost]

variable (fine : s.secFails .attest = false)
include fine

theorem reportSigning_of_early (early : s.attMayBegin = false) : reportSigning s = s := by
  unfold reportSigning
  dsimp only
  rw [if_neg (not_not.2 waits), if_neg (Bool.eq_false_iff.1 fine), if_pos (Or.inl early)]

/-- The state of a report that begins, its index taken. -/
def State.reportBegins (t : State) : State :=
  { t with sec := { t.sec with attBegan := some (t.fget EVR_OPSEC_SECONDS), attSeq := t.sec.attSeq + 1 } }

theorem reportSigning_of_ready (may : s.attMayBegin = true) (nonce : s.streamReady [(s.sec.attAt + 0x10, 32)] = true)
    (taken : t = (s.dropStream [(s.sec.attAt + 0x10, 32)]).takeHss) : reportSigning s =
      t.reportBegins.areaBegins (t.reportBegins.reportArea (s.fget SEC_ATT_STAT_HSS_NEXT) (s.load (s.sec.attAt + 0x10) 32)) := by
  unfold reportSigning
  dsimp only
  rw [if_neg (not_not.2 waits), if_neg (Bool.eq_false_iff.1 fine), if_neg (by simp [may, nonce]), ← taken]
  rfl

end Sign

/-! ## REPORT_COMPLETE (R482, R483) -/

section Complete
variable (writes : s.fget SEC_ATT_STAT_STATE = 2) (fine : s.secFails .attest = false)
include writes fine

theorem reportComplete_of_due (due : s.glk.acksDue (.security .attest) = true) : reportComplete s = s := by
  rw [reportComplete, if_neg (not_not.2 writes), if_neg (Bool.eq_false_iff.1 fine), if_pos due]

variable (acked : s.glk.acksDue (.security .attest) = false)
include acked

theorem reportComplete_of_last (last : s.sec.areaSent = 1) : reportComplete s =
    State.store { s with sec := { s.sec with areaSent := 2 } } (s.sec.attAt + (s.sec.area.length - 128)) (s.sec.area.drop (s.sec.area.length - 128))
      (.security .attest) := by
  rw [reportComplete, if_neg (not_not.2 writes), if_neg (Bool.eq_false_iff.1 fine), if_neg (Bool.eq_false_iff.1 acked), if_pos last]

theorem reportComplete_of_sent (sent : s.sec.areaSent ≠ 1) : reportComplete s =
    State.fsets { s with sec := { s.sec with area := [], areaSent := 0 } } [(SEC_ATT_STAT_STATE, 3), (SEC_ATT_GO, 0)] := by
  rw [reportComplete, if_neg (not_not.2 writes), if_neg (Bool.eq_false_iff.1 fine), if_neg (Bool.eq_false_iff.1 acked), if_neg sent]

end Complete

theorem State.attMayBegin_iff {n : Nat} (began : s.sec.attBegan = some n) : s.attMayBegin = true ↔ n + 60 ≤ s.fget EVR_OPSEC_SECONDS := by
  simp only [State.attMayBegin, began, decide_eq_true_eq]

end Attest

/-- Settles O59: a request by its address and index, a report by what it waits for. -/
theorem attestationRuns : Obligations.AttestationRuns := by
  unfold Obligations.AttestationRuns
  exact ⟨fun s good => ⟨fun used => congrArg Host.Outcome.next (attestationReport_of_used good used),
      fun left => congrArg Host.Outcome.next (attestationReport_of_left good left)⟩,
    fun s => ⟨fun bad => congrArg Host.Outcome.next (attestationReport_of_bad bad), fun bad => congrArg Host.Outcome.next (certificates_of_bad bad)⟩,
    fun s good => congrArg Host.Outcome.next (certificates_of_good good),
    fun s t waits fine may nonce taken => congrArg Host.Outcome.next (reportSigning_of_ready waits fine may nonce taken),
    fun s waits => ⟨fun lost => congrArg Host.Outcome.next (reportSigning_of_lost waits lost),
      fun fine early => congrArg Host.Outcome.next (reportSigning_of_early waits fine early)⟩,
    fun s writes fine acked => ⟨fun last => congrArg Host.Outcome.next (reportComplete_of_last writes fine acked last),
      fun sent => congrArg Host.Outcome.next (reportComplete_of_sent writes fine acked sent)⟩,
    fun s writes fine due => congrArg Host.Outcome.next (reportComplete_of_due writes fine due), fun s n began => State.attMayBegin_iff began⟩

end Sys2Proof.Machine
end


section
/-! Tokens, the unlock and injections of Jack-in-the-Box (R492 to R497). -/
namespace Sys2Proof.Machine

section Token
variable {s t : State}

/-! ## TOKEN_PRESENT (R493) -/

theorem tokenPresent_of_bad (bad : s.fget JIB_STAT_PSTATE = 1 ∨ s.fget JIB_UNLOCK_ADDR * 4096 < glkBase ∨ glkEnd ≤ s.fget JIB_UNLOCK_ADDR * 4096) :
    tokenPresent s = s.noteDiscard JIB_UNLOCK 1 := if_pos bad

theorem tokenPresent_of_good {a : Nat} (free : s.fget JIB_STAT_PSTATE ≠ 1) (place : a = s.fget JIB_UNLOCK_ADDR * 4096) (low : glkBase ≤ a)
    (high : a < glkEnd) (begins : t = (s.fsets [(JIB_UNLOCK_GO, 1), (JIB_STAT_PSTATE, 1)]).secBegins .token) :
    tokenPresent s = (State.askStream { t with sec := { t.sec with tokenAt := a } } [(a, 192)] (.security .token)).tokenCheck := by
  subst place begins
  refine if_neg ?_
  rintro (busy | below | above) <;> omega

/-! ## The end of a presentation (R493) -/

theorem State.fget_drawChal_ne {f : Fld} (other : f.key ≠ JIB_CHAL_CHAL.key) : s.drawChal.fget f = s.fget f := by
  have drawn : s.drawChal.fget f = (s.fset JIB_CHAL_CHAL s.free.toNat).fget f := rfl
  rw [drawn, State.fget_fset_ne _ other]

/-- The registers of a presentation that is over. -/
theorem State.fget_tokenOver {f : Fld} {reason : Option Nat} (chal : f.key ≠ JIB_CHAL_CHAL.key) : (s.tokenOver reason).fget f =
    (s.fsets [(JIB_UNLOCK_GO, 0), (JIB_STAT_PSTATE, if reason = none then 2 else 3), (JIB_STAT_REASON, reason.getD 0)]).fget f := by
  rw [State.tokenOver, State.fget_drawChal_ne chal]
  rfl

/-- Registers that the end of a presentation leaves alone. -/
theorem State.fget_tokenOver_ne {f : Fld} {reason : Option Nat} (go : f.key ≠ JIB_UNLOCK_GO.key) (pstate : f.key ≠ JIB_STAT_PSTATE.key)
    (why : f.key ≠ JIB_STAT_REASON.key) (chal : f.key ≠ JIB_CHAL_CHAL.key) : (s.tokenOver reason).fget f = s.fget f := by
  rw [State.fget_tokenOver chal, State.fget_fsets_ne]
  simp [go, pstate, why]

theorem State.go_tokenOver {reason : Option Nat} : (s.tokenOver reason).fget JIB_UNLOCK_GO = 0 := by
  rw [State.fget_tokenOver (by decide)]
  refine (State.fget_fsets_append_cons (s := s) [] [_, _] JIB_UNLOCK_GO 0 ?_).trans (Nat.zero_mod _)
  have pstate : JIB_UNLOCK_GO.key ≠ JIB_STAT_PSTATE.key := by decide
  have why : JIB_UNLOCK_GO.key ≠ JIB_STAT_REASON.key := by decide
  simp [pstate, why]

theorem State.pstate_tokenOver {reason : Option Nat} : (s.tokenOver reason).fget JIB_STAT_PSTATE = if reason = none then 2 else 3 := by
  rw [State.fget_tokenOver (by decide)]
  refine (State.fget_fsets_append_cons (s := s) [_] [_] JIB_STAT_PSTATE _ (by simp [Fld.key, JIB_STAT_PSTATE, JIB_STAT_REASON])).trans ?_
  split <;> rfl

theorem State.unlocked_tokenOver {reason : Option Nat} : (s.tokenOver reason).fget JIB_STAT_UNLOCKED = s.fget JIB_STAT_UNLOCKED := by
  apply State.fget_tokenOver_ne <;>
    simp [Fld.key, JIB_STAT_UNLOCKED, JIB_STAT, JIB_UNLOCK_GO, JIB_UNLOCK, JIB_STAT_PSTATE, JIB_STAT_REASON, JIB_CHAL_CHAL, JIB_CHAL]

theorem State.scope_tokenOver {reason : Option Nat} : (s.tokenOver reason).fget JIB_STAT_SCOPE = s.fget JIB_STAT_SCOPE := by
  apply State.fget_tokenOver_ne <;>
    simp [Fld.key, JIB_STAT_SCOPE, JIB_STAT, JIB_UNLOCK_GO, JIB_UNLOCK, JIB_STAT_PSTATE, JIB_STAT_REASON, JIB_CHAL_CHAL, JIB_CHAL]

theorem State.sec_tokenOver {reason : Option Nat} : (s.tokenOver reason).sec = s.sec := rfl

/-! ## The check of a token (R493) -/

section Check
variable {x : List Byte} (busy : s.fget JIB_STAT_PSTATE = 1) (fine : s.secFails .token = false) (ready : s.streamReady [s.tokenRange] = true)
  (held : x = s.load s.tokenRange.1 s.tokenRange.2)
include busy fine ready held

theorem State.tokenCheck_of_refused {r : Nat} (refused : s.tokenReason x = some r) : s.tokenCheck = s.tokenOver (some r) := by
  subst held
  unfold State.tokenCheck
  rw [if_neg (not_not.2 busy), if_neg (Bool.eq_false_iff.1 fine), if_neg (Bool.not_eq_false _ ▸ ready)]
  simp only [refused]

theorem State.tokenCheck_of_passed (passed : s.tokenReason x = none) : s.tokenCheck =
    { (s.fsets [(JIB_STAT_UNLOCKED, 1), (JIB_STAT_SCOPE, numAt x 6 1)]).tokenOver none with
      sec := { ((s.fsets [(JIB_STAT_UNLOCKED, 1), (JIB_STAT_SCOPE, numAt x 6 1)]).tokenOver none).sec with expires := numAt x 0x10 5 } } := by
  subst held
  unfold State.tokenCheck
  rw [if_neg (not_not.2 busy), if_neg (Bool.eq_false_iff.1 fine), if_neg (Bool.not_eq_false _ ▸ ready)]
  simp only [passed]

/-- A token that fails changes no lock; one that passes unlocks with its SCOPE and EXPIRES. -/
theorem State.tokenCheck_shows : s.tokenCheck.fget JIB_STAT_UNLOCKED = (if s.tokenReason x = none then 1 else s.fget JIB_STAT_UNLOCKED) ∧
    s.tokenCheck.fget JIB_STAT_SCOPE = (if s.tokenReason x = none then numAt x 6 1 % 2 ^ 8 else s.fget JIB_STAT_SCOPE) ∧
    s.tokenCheck.sec.expires = (if s.tokenReason x = none then numAt x 0x10 5 else s.sec.expires) ∧ s.tokenCheck.fget JIB_UNLOCK_GO = 0 ∧
    s.tokenCheck.fget JIB_STAT_PSTATE = (if s.tokenReason x = none then 2 else 3) := by
  cases judged : s.tokenReason x with
  | some r =>
    rw [State.tokenCheck_of_refused busy fine ready held judged]
    exact ⟨State.unlocked_tokenOver, State.scope_tokenOver, congrArg Sec.expires State.sec_tokenOver, State.go_tokenOver, State.pstate_tokenOver⟩
  | none =>
    rw [State.tokenCheck_of_passed busy fine ready held judged]
    refine ⟨State.unlocked_tokenOver.trans ?_, State.scope_tokenOver.trans (State.fget_fset_self ..), rfl, State.go_tokenOver, State.pstate_tokenOver⟩
    exact (State.fget_fset_ne _ (by simp [Fld.key, JIB_STAT_UNLOCKED, JIB_STAT_SCOPE]) _).trans (State.fget_fset_self ..)

end Check

/-- The challenge, EXPIRES and the device identity are checked. -/
theorem State.tokenReason_ne_none {x : List Byte} (wrong : numAt x 8 8 ≠ s.fget JIB_CHAL_CHAL ∨ numAt x 0x10 5 ≤ s.fget EVR_OPSEC_SECONDS ∨
    beNat (sliceOf x 0x20 48) ≠ Config.deviceId) : s.tokenReason x ≠ none := by
  unfold State.tokenReason
  dsimp only
  split
  · exact Option.some_ne_none 1
  · split
    · exact Option.some_ne_none 9
    next device =>
      rw [if_pos]
      · exact Option.some_ne_none 13
      · obtain chal | late | other := wrong
        · exact .inl chal
        · exact .inr late
        · exact absurd other device

/-! ## The lock (R494) -/

/-- The fields in which a lock stages zeros stand apart from the status. -/
theorem jibStaged_ne_stat {f : Fld} (stat : f.reg = JIB_STAT) (inside : f.lsb < 64) : ∀ g ∈ jibStaged, f.key ≠ g.key := by
  have bounds : ∀ g ∈ jibStaged, g.lsb < 64 ∧ g.reg ≠ JIB_STAT := by decide
  intro g mem
  obtain ⟨bit, other⟩ := bounds g mem
  exact Fld.key_ne_of_reg (stat ▸ other.symm) inside bit

theorem fget_lock_of_stat {f : Fld} (stat : f.reg = JIB_STAT) (inside : f.lsb < 64) : (lock s).fget f =
    (s.fsets [(JIB_STAT_UNLOCKED, 0), (JIB_STAT_SCOPE, 0), (JIB_STAT_ARMED, 0), (JIB_INJ_ARM, 0)]).fget f := by
  have chal : f.key ≠ JIB_CHAL_CHAL.key := Fld.key_ne_of_reg (stat ▸ by decide) inside (by decide)
  rw [lock, State.fget_drawChal_ne chal]
  exact State.each_keeps_of_mem (f := fun t : State => t.fget f) (fun g mem t => State.fget_stage_ne (jibStaged_ne_stat stat inside g mem) 0) _

/-- What a lock clears. -/
theorem lock_clears : (lock s).fget JIB_STAT_UNLOCKED = 0 ∧ (lock s).fget JIB_STAT_ARMED = 0 ∧ (lock s).fget JIB_STAT_SCOPE = 0 := by
  have nodup : (([(JIB_STAT_UNLOCKED, 0), (JIB_STAT_SCOPE, 0), (JIB_STAT_ARMED, 0), (JIB_INJ_ARM, 0)] : List (Fld × Nat)).map fun e => e.1.key).Nodup := by
    decide
  rw [fget_lock_of_stat (f := JIB_STAT_UNLOCKED) rfl (by decide), fget_lock_of_stat (f := JIB_STAT_ARMED) rfl (by decide),
    fget_lock_of_stat (f := JIB_STAT_SCOPE) rfl (by decide)]
  exact ⟨State.fget_fsets_of_nodup nodup (.head _), State.fget_fsets_of_nodup nodup (.tail _ (.tail _ (.head _))),
    State.fget_fsets_of_nodup nodup (.tail _ (.head _))⟩

theorem State.flag_of_one {f : Fld} (one : s.fget f = 1) : s.flag f = true := by
  rw [State.flag, one]
  rfl

theorem State.flag_of_zero {f : Fld} (zero : s.fget f = 0) : s.flag f = false := by
  rw [State.flag, zero]
  rfl

theorem unlockExpiry_of_due (unlocked : s.fget JIB_STAT_UNLOCKED = 1) (due : s.sec.expires ≤ s.fget EVR_OPSEC_SECONDS) : unlockExpiry s = lock s :=
  if_pos ⟨State.flag_of_one unlocked, due⟩

/-! ## Injections (R495, R497) -/

theorem injectionArm_of_locked (locked : s.fget JIB_STAT_UNLOCKED = 0) : injectionArm s = s.noteAccess JIB_INJ :=
  if_pos (State.flag_of_zero locked)

section Arm
variable (unlocked : s.fget JIB_STAT_UNLOCKED = 1)
include unlocked

theorem injectionArm_of_armed (armed : s.fget JIB_STAT_ARMED = 1) : injectionArm s = s.noteDiscard JIB_INJ 1 :=
  (if_neg (by simp [State.flag_of_one unlocked])).trans (if_pos (Or.inl (State.flag_of_one armed)))

variable (free : s.fget JIB_STAT_ARMED = 0)
  (legal : injLegal (s.fget JIB_STAT_SCOPE) (s.fget JIB_INJ_KIND) (s.fget JIB_INJ_K) (s.fget JIB_INJ_HOLD_US) (s.fget JIB_INJ_TARGET) = true)
  (running : s.running (s.fget JIB_CTRL_PART) = true)
include free legal running

theorem injectionArm_of_legal : injectionArm s =
    if s.fget JIB_INJ_KIND = 7 then State.injFire { s with mboxHolds := (s.fget JIB_INJ_TARGET % 256) :: s.mboxHolds.filter (· != s.fget JIB_INJ_TARGET % 256) }
      (s.fget JIB_CTRL_PART)
    else s.fsets [(JIB_STAT_ARMED, 1), (JIB_INJ_ARM, 1)] :=
  (if_neg (by simp [State.flag_of_one unlocked])).trans ((if_neg (by simp [State.flag_of_zero free, legal])).trans (if_neg (by simp [running])))

end Arm

end Token

/-- Settles O60: a token by its first failed check, the lock and an injection by the status. -/
theorem tokensAndInjections : Obligations.TokensAndInjections := by
  unfold Obligations.TokensAndInjections
  refine ⟨fun s t a free place low high begins => congrArg Host.Outcome.next (tokenPresent_of_good free place low high begins),
    fun s bad => congrArg Host.Outcome.next (tokenPresent_of_bad bad), fun s busy fine ready => State.tokenCheck_shows busy fine ready rfl,
    fun s x wrong => State.tokenReason_ne_none wrong, fun s => ?_, fun s unlocked free legal running => ?_,
    fun s => ⟨fun locked => congrArg Host.Outcome.next (injectionArm_of_locked locked),
      fun unlocked armed => congrArg Host.Outcome.next (injectionArm_of_armed unlocked armed)⟩,
    fun s c => ⟨rfl, by simp⟩⟩
  · obtain ⟨unlocked, armed, scope⟩ := lock_clears (s := s)
    exact ⟨_, rfl, unlocked, armed, scope, fun open_ due => congrArg Host.Outcome.next (unlockExpiry_of_due open_ due)⟩
  · have arms := injectionArm_of_legal unlocked free legal running
    refine ⟨fun other => congrArg Host.Outcome.next (arms.trans (if_neg other)), fun seven c named => ?_⟩
    rw [named]
    exact congrArg Host.Outcome.next (arms.trans (if_pos seven))

end Sys2Proof.Machine
end
